-- ==== Sys2Proof/Word.lean ====
section
/-! DEFINITION. The word types of the FLM1024 and nothing else: every helper over them stands in files under
Sys2Proof/Machine/. -/
namespace Sys2Proof

/-- A byte of a frame, of a message or of a memory. -/
abbrev Byte := BitVec 8

/-- A 32-bit word: an engine register, a counter, a sticky word, the bits of an FP32 value (R53, R327). -/
abbrev Word := BitVec 32

end Sys2Proof
end

