-- ==== Sys2Proof/Syntax.lean ====
section
/-! DEFINITION. The commands of the block: one constructor of `Instr` for each row of spec/opcode_table.json,
and the operand types they carry. Numbers fixed in silicon (engines, Sleeves, ports, packs, groups, channels)
are `Fin`; encoded fields of an engine instruction word are bit vectors of the field's width (R87). -/
namespace Sys2Proof

/-- The two AC feeds (R18). -/
inductive Feed where
  | A | B
  deriving DecidableEq, Repr

/-- Access levels of the dictionary, in rising order (R329). -/
inductive Level where
  | observe | operate | service | factory
  deriving DecidableEq, Repr

abbrev EngineId := Fin 1024
abbrev SleeveId := Fin 32
abbrev PortId := Fin 256
abbrev PackId := Fin 32
abbrev GroupId := Fin 32
abbrev CurveId := Fin 16
abbrev TwId := Fin 16
abbrev TimerId := Fin 64

/-- A register field of an engine instruction word, bits 21:17, 16:12 or 11:7 (R87). -/
abbrev Reg := BitVec 5

/-- The predicate field, bits 31:28: N negates, P names p0 to p7 (R87, R88). -/
structure Pred where
  n : Bool
  p : BitVec 3
  deriving DecidableEq, Repr

/-- What the detector of one feed hands to the wheel at a tick (R36): measured angle, frequency (F32 Hz),
positive- and negative-sequence magnitude (F32 % of V_NOM). -/
structure FeedMeas where
  angle : Word
  freq : Word
  mag : Word
  neg : Word
  deriving DecidableEq, Repr

/-- A word under ECC (R79): a word of an engine's active instruction bank or data memory, a double word of a bank of
shared memory, a double word of a tally unit. -/
inductive EccWord where
  | imem (e : EngineId) (k : Fin 1024)
  | dmem (e : EngineId) (k : Fin 1024)
  | shm (s : SleeveId) (bank : Fin 16) (k : Fin 512)
  | tally (s : SleeveId) (k : Fin 1024)
  deriving DecidableEq, Repr

/-- An upset: a stored word has lost one bit, or more than ECC can correct (R79, R82). -/
structure Upset where
  word : EccWord
  uncorrectable : Bool
  deriving DecidableEq, Repr

/-- What reaches the controller at a tick: the two detectors, the 16 codes of local sense (R399), whether
the clock generator produced a cycle shorter than 833 ps in the round just ended (R31), and the memory words that
have been upset since the tick before (R79, R82). -/
structure TickIn where
  a : FeedMeas
  b : FeedMeas
  sense : List (BitVec 16)
  shortCycle : Bool
  upsets : List Upset := []
  deriving DecidableEq, Repr

/-- Memories that the scrubber reads (R80). -/
inductive ScrubAt where
  | imem (e : EngineId)
  | dmem (e : EngineId)
  | shm (s : SleeveId) (bank : Fin 16)
  | tally (s : SleeveId)
  deriving DecidableEq, Repr

/-- An error that the scrubber finds: where, and whether it can be corrected (R79, R82). -/
structure ScrubErr where
  place : ScrubAt
  uncorrectable : Bool
  deriving DecidableEq, Repr

/-- One entry of a window table: bank 0 to 15, or 16 for the tally unit (R63); the engine number counts in the
Sleeve. -/
structure Window where
  sleeve : Nat
  engine : Nat
  bank : Nat
  first : Nat
  last : Nat
  write : Bool
  deriving DecidableEq, Repr

/-- A Yoke send slot (R68): the engine number counts in the Sleeve. -/
structure SendSlot where
  cycle : Nat
  sleeve : Nat
  engine : Nat
  dst : Nat
  entry : Nat
  deriving DecidableEq, Repr

/-- A reduction slot (R71): operation, result register and, for each Sleeve, at most one contributor. -/
structure RedSlot where
  cycle : Nat
  isMax : Bool
  res : Nat
  contributors : List (Nat × Nat)
  deriving DecidableEq, Repr

/-- A port map entry (R122). -/
structure PortMapEntry where
  cls : Byte
  module : Byte
  owners : Word
  deriving DecidableEq, Repr

/-- An exported parameter (R127): raw minimum, maximum and default, and the target words. -/
structure Param where
  index : Nat
  sub : Nat
  ty : Nat
  service : Bool
  lo : Nat
  hi : Nat
  dflt : Nat
  targets : List (Nat × Nat)
  deriving DecidableEq, Repr

/-- A MODULES declaration (R142): identity, version and the SHA-384 digest of its code and tables as placed. -/
structure ModDecl where
  ident : Nat
  version : Word
  digest : List Byte
  deriving DecidableEq, Repr

/-- A section of an image (R122): its directory entry and its bytes, whose number is the entry's SIZE. -/
structure Section where
  ty : Nat
  scope : Nat
  offset : Nat
  crc : Word
  data : List Byte
  deriving DecidableEq, Repr

/-- A pattern image as the loader reads it from its slot (R122 to R125): the fields of its header, its sections as bytes,
and what the sections spell. Maps are lists of pairs keyed by engine * 1024 + word; an unlisted instruction or data word
is 0, an unlisted seed entry is none, an unlisted word-map entry is NONE, an unlisted port is not served, an unlisted
ENGINE_CRC entry is that of a bank of zeros. `sigKey` is the key slot with whose key the signature trailer verifies (0
the Lanistan pattern key), none where it verifies with no key (R123; notes/assumptions/8.md). -/
structure PatImg where
  magic : Word := 0x31544150
  format : Nat := 1
  headerSize : Nat := 0x40
  imageSize : Nat := 160
  dirOffset : Nat := 64
  tool : List Byte := []
  headerCrc : Word := 0
  sections : List Section := []
  sigKey : Option Nat := none
  w : Nat
  l : Nat
  ident : Word
  version : Word
  stock : Bool
  keySlot : Nat
  persistId : Word
  seedRounds : Nat
  instr : List (Nat × Word)
  seedEntry : List (Nat × Nat)
  dataInit : List (Nat × Word)
  wordMap : List (Nat × BitVec 2)
  carry : List Nat
  windows : List Window
  seedWindows : List Window
  sends : List SendSlot
  seedSends : List SendSlot
  reds : List RedSlot
  seedReds : List RedSlot
  portMap : List (Nat × PortMapEntry)
  params : List Param
  modules : List ModDecl
  engineCrc : List (Nat × Word)
  deriving DecidableEq, Repr

/-- The mailbox of a frame (R174). -/
structure Mailbox where
  queue : Nat
  mseq : Nat
  ack : Nat
  valid : Bool
  first : Bool
  last : Bool
  ackValid : Bool
  hold : BitVec 16
  bytes : List Byte
  deriving DecidableEq, Repr

/-- A downlink frame as a far end receives it on one link (R152, R153). `line`: the code groups received between SOF and EOF
(R145, R146); `eof`: the EOF was detected, whether or not the frame passed its CRC (R166); `crc`: the CRC that the frame
carries. -/
structure DownFrame where
  line : List (BitVec 10)
  eof : Bool
  crc : Word
  auth : Bool
  hem : Bool
  fastTherm : Bool
  seq : BitVec 6
  armState : BitVec 2
  armId : Byte
  train : Bool
  wCode : BitVec 2
  rt : List Byte
  mbx : Mailbox
  deriving DecidableEq, Repr

/-- An uplink frame as the controller receives it (R154, R156): delay of its SOF after the downlink EOF in ns
(R151, R170), the code groups received between SOF and EOF (R145, R146), the CRC that it carries, header, real-time bytes,
mailbox. -/
structure UpFrame where
  delayNs : Nat
  line : List (BitVec 10)
  crc : Word
  header : Word
  rt : List Byte
  mbx : Mailbox
  deriving DecidableEq, Repr

/-- A sampled quantity in units of its code, or over range with its sign (R157). -/
inductive Sample where
  | value (v : Int)
  | over (negative : Bool)
  deriving DecidableEq, Repr

/-- What a far end measures at its local tick: its samples (R157), the valid codes of each temperature group, the groups
with a sensor within 5 °C of its warning limit (R159), the causes of STATUS bits that are present (R158, R193), the
largest stage current of the round in A (R191), and the interval since the last local tick in s (R160). -/
structure FeMeas where
  samples : List Sample
  temps : List (Nat × List (BitVec 16))
  near : List Nat
  causes : Word := 0
  peak : Rat := 0
  interval : Rat := 0
  deriving DecidableEq, Repr

/-- The UDP ports of a datagram: the one it is sent to, and the one of the peer that sent it (R337). -/
structure UdpPorts where
  dst : Nat
  src : Nat
  deriving DecidableEq, Repr

/-- A tunnelled or local two-wire transaction (R183, R380). -/
structure Xfer where
  bus : Byte
  addr : Byte
  flags : Byte
  rlen : Byte
  timeout : BitVec 16
  wdata : List Byte
  deriving DecidableEq, Repr

/-- An item of a READ (R330). -/
structure ReadItem where
  index : Nat
  sub : Nat
  deriving DecidableEq, Repr

/-- An item of a WRITE (R330): type code and value bytes as they travel. -/
structure WriteItem where
  index : Nat
  sub : Nat
  ty : Nat
  value : List Byte
  deriving DecidableEq, Repr

/-- A DOMAIN_WRITE body (R341). -/
structure DomainBlock where
  index : Nat
  sub : Nat
  offset : Nat
  total : Nat
  crc : Word
  data : List Byte
  deriving DecidableEq, Repr

/-- What a message carries besides its body: session, SEQ and whether its tag verifies (R330, R334). -/
structure Auth where
  session : Nat
  seq : Nat
  macOk : Bool
  deriving DecidableEq, Repr

/-- Causes of a Collar-only restart (R412). -/
inductive RestartCause where
  | activation | watchdog | lockstep
  deriving DecidableEq, Repr

/-- Far-end path fields (R195). -/
inductive FePath where
  | fastLimit | fastMode | ovLevel | ovRelease
  deriving DecidableEq, Repr

/-- Roles of a unit (R304). -/
inductive Role where
  | out | solo | active | hot | joining | cold
  deriving DecidableEq, Repr

/-- A HELLO record (R308). -/
structure Hello where
  unit : Nat
  role : Role
  ident : Word
  version : Word
  crcSection : Word
  cfgDigest : Word
  seam : Word
  deriving DecidableEq, Repr

/-- What a CTRL record carries (R308, R313, R350). -/
inductive Ctrl where
  | handover
  | role (r : Role)
  | config (index sub : Nat) (value : Nat)
  | command (index sub : Nat) (value : Nat)
  | bytes (index sub : Nat) (value : List Byte)
  | capSelect (arg : Byte)
  | release (scope : Nat) (number : Nat)
  | packState (p : PackId) (soc : Word) (cap : Word) (conf : Nat) (rested : Bool)
  | watchdog (safe : Bool) (count : Word)
  | sequencer (state : Nat) (step : Nat)
  deriving DecidableEq, Repr

/-- Results of the codes of a completed two-wire transaction (R183). -/
abbrev TwStatus := Byte

/-- The commands of the block: the rows of spec/opcode_table.json, in the table's order. -/
inductive Instr where
  -- phase wheel
  | tick (i : TickIn)
  | seam
  | seamClose
  | angleValid (f : Feed)
  | feedLoss (f : Feed)
  | feedReturn (f : Feed)
  | lockAchieved
  | lockLoss
  | slip
  | slipReturn
  | syncPulse (width : Nat) (lagNs : Int) (freq : Word)
  | syncLoss
  | wheelMode (lvl : Level) (v : Byte)
  | fMainsMax (lvl : Level) (v : Word)
  | fMainsMin (lvl : Level) (v : Word)
  | fNom (lvl : Level) (v : Word)
  -- engine array: what the hardware does in a round
  | overrunCheck (e : EngineId)
  | scrub (errs : List ScrubErr)
  | instrCrcCheck (e : EngineId)
  | downlinkSnapshot
  | resultWriteback (e : EngineId) (cycle : Nat)
  | yokeArrival (d : SleeveId) (ue : Bool)
  | reductionResult (cycle : Nat) (ue : Bool)
  | tallySweep (s : SleeveId)
  -- engine instructions
  | nop (e : EngineId)
  | unlistedOpcode (e : EngineId) (word : Word)
  | add (e : EngineId) (p : Pred) (rd ra rb : Reg)
  | sub (e : EngineId) (p : Pred) (rd ra rb : Reg)
  | andR (e : EngineId) (p : Pred) (rd ra rb : Reg)
  | orR (e : EngineId) (p : Pred) (rd ra rb : Reg)
  | xorR (e : EngineId) (p : Pred) (rd ra rb : Reg)
  | shl (e : EngineId) (p : Pred) (rd ra rb : Reg)
  | shr (e : EngineId) (p : Pred) (rd ra rb : Reg)
  | sra (e : EngineId) (p : Pred) (rd ra rb : Reg)
  | min (e : EngineId) (p : Pred) (rd ra rb : Reg)
  | max (e : EngineId) (p : Pred) (rd ra rb : Reg)
  | minu (e : EngineId) (p : Pred) (rd ra rb : Reg)
  | maxu (e : EngineId) (p : Pred) (rd ra rb : Reg)
  | sexth (e : EngineId) (p : Pred) (rd ra : Reg)
  | zexth (e : EngineId) (p : Pred) (rd ra : Reg)
  | highh (e : EngineId) (p : Pred) (rd ra : Reg)
  | addi (e : EngineId) (p : Pred) (rd ra : Reg) (imm : BitVec 12)
  | andi (e : EngineId) (p : Pred) (rd ra : Reg) (imm : BitVec 12)
  | ori (e : EngineId) (p : Pred) (rd ra : Reg) (imm : BitVec 12)
  | xori (e : EngineId) (p : Pred) (rd ra : Reg) (imm : BitVec 12)
  | shifti (e : EngineId) (p : Pred) (rd ra : Reg) (imm : BitVec 12)
  | movi (e : EngineId) (p : Pred) (rd : Reg) (imm : BitVec 16)
  | movh (e : EngineId) (p : Pred) (rd : Reg) (imm : BitVec 16)
  | sel (e : EngineId) (p : Pred) (rd ra rb : Reg) (neg : Bool) (k : BitVec 3)
  | cmpEq (e : EngineId) (p : Pred) (pd : BitVec 3) (ra rb : Reg)
  | cmpNe (e : EngineId) (p : Pred) (pd : BitVec 3) (ra rb : Reg)
  | cmpLt (e : EngineId) (p : Pred) (pd : BitVec 3) (ra rb : Reg)
  | cmpLe (e : EngineId) (p : Pred) (pd : BitVec 3) (ra rb : Reg)
  | cmpLtu (e : EngineId) (p : Pred) (pd : BitVec 3) (ra rb : Reg)
  | cmpLeu (e : EngineId) (p : Pred) (pd : BitVec 3) (ra rb : Reg)
  | cmpFeq (e : EngineId) (p : Pred) (pd : BitVec 3) (ra rb : Reg)
  | cmpFne (e : EngineId) (p : Pred) (pd : BitVec 3) (ra rb : Reg)
  | cmpFlt (e : EngineId) (p : Pred) (pd : BitVec 3) (ra rb : Reg)
  | cmpFle (e : EngineId) (p : Pred) (pd : BitVec 3) (ra rb : Reg)
  | pand (e : EngineId) (p : Pred) (pd pa pb : BitVec 3)
  | por (e : EngineId) (p : Pred) (pd pa pb : BitVec 3)
  | pxor (e : EngineId) (p : Pred) (pd pa pb : BitVec 3)
  | pandn (e : EngineId) (p : Pred) (pd pa pb : BitVec 3)
  | mul (e : EngineId) (p : Pred) (rd ra rb : Reg)
  | mulh (e : EngineId) (p : Pred) (rd ra rb : Reg)
  | mulhu (e : EngineId) (p : Pred) (rd ra rb : Reg)
  | qmul15 (e : EngineId) (p : Pred) (rd ra rb : Reg)
  | qmul31 (e : EngineId) (p : Pred) (rd ra rb : Reg)
  | qadd15 (e : EngineId) (p : Pred) (rd ra rb : Reg)
  | qsub15 (e : EngineId) (p : Pred) (rd ra rb : Reg)
  | qadd31 (e : EngineId) (p : Pred) (rd ra rb : Reg)
  | qsub31 (e : EngineId) (p : Pred) (rd ra rb : Reg)
  | mac (e : EngineId) (p : Pred) (acc : Bool) (ra rb : Reg)
  | msu (e : EngineId) (p : Pred) (acc : Bool) (ra rb : Reg)
  | macq15 (e : EngineId) (p : Pred) (acc : Bool) (ra rb : Reg)
  | msuq15 (e : EngineId) (p : Pred) (acc : Bool) (ra rb : Reg)
  | clra (e : EngineId) (p : Pred) (acc : Bool)
  | lda (e : EngineId) (p : Pred) (acc : Bool) (ra : Reg)
  | rdacc (e : EngineId) (p : Pred) (rd : Reg) (acc : Bool) (shift : BitVec 6)
  | fadd (e : EngineId) (p : Pred) (rd ra rb : Reg)
  | fsub (e : EngineId) (p : Pred) (rd ra rb : Reg)
  | fmul (e : EngineId) (p : Pred) (rd ra rb : Reg)
  | fmin (e : EngineId) (p : Pred) (rd ra rb : Reg)
  | fmax (e : EngineId) (p : Pred) (rd ra rb : Reg)
  | fabs (e : EngineId) (p : Pred) (rd ra : Reg)
  | fneg (e : EngineId) (p : Pred) (rd ra : Reg)
  | i2f (e : EngineId) (p : Pred) (rd ra : Reg)
  | f2i (e : EngineId) (p : Pred) (rd ra : Reg)
  | q15f (e : EngineId) (p : Pred) (rd ra : Reg)
  | fq15 (e : EngineId) (p : Pred) (rd ra : Reg)
  | q31f (e : EngineId) (p : Pred) (rd ra : Reg)
  | fq31 (e : EngineId) (p : Pred) (rd ra : Reg)
  | fma (e : EngineId) (p : Pred) (rd ra rb : Reg)
  | fms (e : EngineId) (p : Pred) (rd ra rb : Reg)
  | fdiv (e : EngineId) (p : Pred) (rd ra rb : Reg)
  | fsqrt (e : EngineId) (p : Pred) (rd ra : Reg)
  | idiv (e : EngineId) (p : Pred) (rd ra rb : Reg)
  | udiv (e : EngineId) (p : Pred) (rd ra rb : Reg)
  | interp (e : EngineId) (p : Pred) (rd ra rb : Reg)
  | ld (e : EngineId) (p : Pred) (rd ra : Reg) (imm : BitVec 12)
  | st (e : EngineId) (p : Pred) (rd ra : Reg) (imm : BitVec 12)
  | stp (e : EngineId) (p : Pred) (rd : Reg) (idx : BitVec 6)
  | lds (e : EngineId) (p : Pred) (rd ra : Reg) (imm : BitVec 12)
  | ldsd (e : EngineId) (p : Pred) (rd ra : Reg) (imm : BitVec 12)
  | sts (e : EngineId) (p : Pred) (rd ra : Reg) (imm : BitVec 12)
  | stsd (e : EngineId) (p : Pred) (rd ra : Reg) (imm : BitVec 12)
  | ysend (e : EngineId) (p : Pred) (ra : Reg)
  | yrecv (e : EngineId) (p : Pred) (rd : Reg) (entry : BitVec 6)
  | yred (e : EngineId) (p : Pred) (ra : Reg)
  | yres (e : EngineId) (p : Pred) (rd : Reg) (mask : Bool) (r : BitVec 4)
  | tally (e : EngineId) (p : Pred) (ra : Reg) (imm : BitVec 12)
  | extreme (e : EngineId) (p : Pred) (ra : Reg) (slot : BitVec 7)
  | trip (e : EngineId) (p : Pred) (reason : Byte) (j : BitVec 3)
  | rdw (e : EngineId) (p : Pred) (rd : Reg) (sel : BitVec 4)
  | rdflg (e : EngineId) (p : Pred) (rd : Reg)
  | clrflg (e : EngineId) (p : Pred) (mask : BitVec 11)
  | repeatI (e : EngineId) (pfield : BitVec 4) (count : BitVec 10) (len : BitVec 10)
  | ridx (e : EngineId) (p : Pred) (rd : Reg) (outer : Bool)
  | endround (e : EngineId)
  -- patterns
  | loadStart (lvl : Level) (v : Byte)
  | loadChecksComplete (img : PatImg)
  | commit (lvl : Level) (v : Byte)
  | commitStaging
  | shadowReadback
  | seedRounds (s : SleeveId)
  | exportedParameter (lvl : Level) (item : WriteItem)
  | parameterApply
  | armDecision
  | armApplyDeadline
  -- stage links, controller side
  | uplinkFrame (n : PortId) (f : UpFrame)
  | noFrame (n : PortId) (outsideWindow : Bool)
  | linkLost (n : PortId)
  | trainingWave
  | trainingTimeout (n : PortId)
  | retrainStart (n : PortId)
  | mailboxResend (n : PortId)
  | fwRetrainTimeout (n : PortId)
  -- far ends and their messages
  | downlinkFrame (n : PortId) (unit : Bool) (f : DownFrame)
  | feLocalTick (n : PortId) (m : FeMeas)
  | coast (n : PortId)
  | coastExpiry (n : PortId)
  | fastTrip (n : PortId)
  | ovLatch (n : PortId)
  | feRestart (n : PortId)
  | cfgWrite (n : PortId) (addr : Nat) (words : List Word)
  | cfgRead (n : PortId) (addr : Nat) (count : Nat)
  | cfgStage (n : PortId) (armId : Byte) (addr : Nat) (words : List Word)
  | clearStatus (n : PortId) (mask : Word) (causes : Word)
  | telemSet (n : PortId) (stream : Nat) (enable : Bool) (decimate : Nat) (source : Word)
  | cfgResult (n : PortId) (status : Byte) (words : List Word)
  | fwStatus (n : PortId) (status : Byte) (version : Word)
  | twXfer (n : PortId) (x : Xfer)
  | twResult (n : PortId) (status : TwStatus) (rdata : List Byte)
  | event (n : PortId) (code : Nat) (age : Nat) (stamp : Word) (data : List Byte)
  | fwBegin (n : PortId) (size : Nat) (crc : Word) (version : Word) (family : Nat)
  | fwBlock (n : PortId) (offset : Nat) (crc : Word) (data : List Byte)
  | fwEnd (n : PortId)
  | fwActivate (n : PortId)
  | telem (n : PortId) (queue : Nat) (dropped : Nat) (stamp : Word) (data : List Byte)
  | diagEcho (n : PortId) (data : List Byte)
  | diagReply (n : PortId) (data : List Byte)
  -- stage control
  | start (lvl : Level) (n : PortId)
  | stop (lvl : Level) (n : PortId)
  | onDelay (n : PortId)
  | rampComplete (n : PortId)
  | offDelay (n : PortId)
  | rampDownComplete (n : PortId)
  | overload (n : PortId)
  | satAction (n : PortId)
  | insDebounce (n : PortId)
  | insDelay (n : PortId)
  | inrushTimeout (n : PortId)
  | apply (lvl : Level) (c : CurveId) (v : Byte)
  | margin (lvl : Level) (n : PortId) (v : Byte)
  | snap (lvl : Level) (n : PortId) (v : Byte)
  | farEndPathWrite (lvl : Level) (n : PortId) (field : FePath) (v : Word)
  | fastTripClear (lvl : Level) (n : PortId) (bits : Word)
  | ovLatchClear (lvl : Level) (n : PortId)
  | stale (n : PortId)
  -- power flow
  | xferCmd (lvl : Level) (v : Byte)
  | xferRampComplete
  | suddenXfer
  | holdup
  | earlyWarning
  | busCollapse
  | shed
  | capN (low : Bool)
  | capSelect (lvl : Level) (v : Byte)
  | tapLimitStep
  | throttleSlot
  -- battery shelf
  | port (lvl : Level) (p : PackId) (v : BitVec 16)
  /-- `unstated`: SOC where the cell table states none (R255). -/
  | longRest (p : PackId) (unstated : Rat)
  | chargePulseEnd (p : PackId)
  | chargeRestEnd (p : PackId)
  | pmuIdRead (p : PackId)
  | packReset (lvl : Level) (p : PackId) (v : Byte)
  | cwdExpiry
  | cwdKick (lvl : Level) (v : Byte)
  | ichg (lvl : Level) (v : Word)
  | vchg (lvl : Level) (v : Word)
  | shipCmd (lvl : Level) (v : Byte)
  | shipExit
  | svcBtnN (held : Bool)
  | svcReset (bootMode : BitVec 2)
  -- sequencing
  | run (lvl : Level)
  | shutdown (lvl : Level)
  | autoStart
  | stepStart
  | stepUp (i : Fin 256)
  | stepTimeout (i : Fin 256)
  | railFault (n : PortId)
  | pfwDeadline
  -- Hem
  | dieConversion (codes : List (BitVec 16))
  | supply (rail : Byte) (ns : Nat)
  | killN (low : Bool)
  | clearController (lvl : Level) (v : Byte)
  | clearSleeve (lvl : Level) (v : Byte)
  | clearPort (lvl : Level) (v : BitVec 16)
  | clearGroup (lvl : Level) (v : Byte)
  -- redundant pair
  | hello (h : Hello)
  | arbitrationTimeout
  | wheel (block : List Byte)
  | wheelBlockDeadline
  | store (s : SleeveId) (words : List (Nat × Nat × Word))
  | sweep (line : Nat) (words : List Word)
  | digest (digests : List Word) (frameOk : List Byte)
  | ctrl (c : Ctrl)
  | laneDown (lane : Fin 8)
  | takeover
  | splitWithdraw
  | handover (lvl : Level) (v : Byte)
  | withdraw (lvl : Level) (v : Byte)
  -- field network
  | ethernetFrame (e : Fin 2) (size : Nat) (fragment : Bool) (vlan : Option Nat) (pcp : Nat) (udp : UdpPorts) (macOk : Bool)
    (us : Nat) (rdp : List Byte)
  | canFdFrame (c : Fin 2) (ident : BitVec 29) (data : List Byte) (macOk : Bool)
  | canReassemblyTimeout (c : Fin 2) (src : Nat) (stream : Nat)
  | msgWrite (flag : Byte) (data : List Byte) (pecPresent : Bool) (pecOk : Bool) (macOk : Bool)
  | msgRead
  | gwStatus
  | openS (lvl : Level) (nonce : BitVec 128) (client : BitVec 64) (macOk : Bool)
  | close (a : Auth)
  | read (a : Auth) (items : List ReadItem)
  | write (a : Auth) (items : List WriteItem)
  | domainWrite (a : Auth) (b : DomainBlock)
  | domainRead (a : Auth) (index : Nat) (sub : Nat) (offset : Nat) (length : Nat)
  | subscribe (a : Auth) (subId : Nat) (period : Nat) (items : List ReadItem)
  | urgent (a : Auth) (command : Byte) (arg : Byte)
  | hush (a : Auth)
  | cap (a : Auth) (arg : Byte)
  | hushed (lvl : Level) (v : Byte)
  | subscriptionPeriod (session : Nat) (subId : Nat)
  | sessionIdleCheck
  | closeSession (lvl : Level) (v : BitVec 16)
  | levelKey (lvl : Level) (k : Nat) (key : List Byte)
  | imageKey (lvl : Level) (k : Nat) (key : List Byte)
  | members (lvl : Level) (g : GroupId) (k : Nat) (v : Word)
  | groupWrite (lvl : Level) (g : Option GroupId) (sub : Nat) (ty : Nat) (value : List Byte)
  | objectWrite (lvl : Level) (item : WriteItem)
  -- recorder
  | flush (us : Nat)
  | checkpoint
  | fold (lvl : Level) (v : Byte)
  | powerFailDetect (rail : Byte) (us : Nat)
  | locate (session : Nat) (v : Word)
  | traceHold
  | traceCopy
  | traceNow (lvl : Level) (v : Byte)
  | release (lvl : Level) (v : Byte)
  | traceLen (lvl : Level) (v : BitVec 16)
  | freezeN (low : Bool)
  | freeze (lvl : Level) (v : Byte)
  -- peripherals
  | xfer (lvl : Level) (c : TwId) (x : Xfer)
  | twTransactionDone (c : TwId) (status : TwStatus) (rdata : List Byte)
  | stretchTimeout (c : TwId)
  | clear (lvl : Level) (c : TwId) (sdaAfter : Bool)
  | twAlert (c : TwId) (low : Bool)
  | twoWireCtrl (lvl : Level) (c : TwId) (sub : Nat) (v : Word)
  | timerWrap (t : TimerId)
  | compareEvent (t : TimerId)
  | captureEdge (t : TimerId) (steps : Nat)
  | capture (lvl : Level) (t : TimerId)
  | timerPreloadWrite (lvl : Level) (t : TimerId) (isCompare : Bool) (v : Word)
  | count (lvl : Level) (t : TimerId) (v : Word)
  | countRead (lvl : Level) (t : TimerId) (steps : Nat)
  | count64 (lvl : Level) (t : TimerId) (steps : Nat)
  | set (lvl : Level) (hi : Bool) (v : Word)
  | clr (lvl : Level) (hi : Bool) (v : Word)
  -- start-up and update
  | vauxRise
  | resetN (bootMode : BitVec 2)
  | collarBootDone
  | collarRestart (c : RestartCause)
  | tcxoLoss
  /-- Whether the blocks read back as received, and with which keys the signature verifies (R414, R416). -/
  | verificationComplete (x : Fin 5) (readBackOk lanistanOk customerOk : Bool)
  | downloadTimeout (x : Fin 5)
  | dlAbort (lvl : Level) (x : Fin 5) (v : Byte)
  | activate (lvl : Level) (v : Byte)
  | confirm (lvl : Level) (v : Byte)
  | trialConfirm
  | fwFloor (lvl : Level) (v : Word)
  | feLoad (lvl : Level) (v : Byte)
  | sleepCmd (lvl : Level) (v : Byte)
  | wake (lvl : Level) (v : Byte)
  | wakeN (k : Fin 4) (ticks : Nat)
  | mateLinkUp
  | internalResetEnd
  | tcxoReturn
  | smbalert (n : PortId) (bus : Nat)
  | tunnelTransactionDone (n : PortId) (status : TwStatus) (rdata : List Byte)
  deriving DecidableEq, Repr

end Sys2Proof
end

