-- ==== Sys2Proof/Config.lean ====
section
/-! DEFINITION. What the spec leaves open and the model does not choose: constants without a body. Nothing in
Lean can evaluate them, so a claim about a state that holds one holds whatever it is (notes/assumptions/2.md). -/
namespace Sys2Proof.Config

/-- A fresh open number for each draw: the outputs of control laws and times that the spec does not state. -/
opaque freeRat : Nat → Rat

/-- A fresh open word for each draw. -/
opaque freeWord : Nat → Word

/-- A fresh nonce for each draw (SERVER_NONCE, R332). -/
opaque freeNonce : Nat → BitVec 128

/-- A fresh open truth value for each draw. -/
opaque freeBool : Nat → Bool

/-- SERIAL at 0x1000.03 (R352): set at manufacture. -/
opaque serial : BitVec 64

/-- SILICON_REV at 0x1000.04 (R352). -/
opaque siliconRev : BitVec 16

/-- VERSION of the Collar image that ships in slot A (R352, R428). -/
opaque shippedVersion : Word

/-- The record code catalogue at 0x2801.02 (R364). -/
opaque catalogue : List Byte

/-- The fast limit of a far end's own hardware, by port (R451). -/
opaque fastLimitOf : Nat → Word

/-- The initial level key of a level, set at manufacture (R353). -/
opaque shippedKey : Nat → List Byte

/-- The 32-byte tag of a message (R330, R334): a function of what it covers; its value is not evaluated. -/
opaque tagOf : List Byte → List Byte

/-- The catalogue of stock modules in the controller's firmware: the version and the SHA-384 digest of a module (R142). -/
opaque moduleVersion : Nat → Word

/-- The digest of a stock module of that catalogue. -/
opaque moduleDigest : Nat → List Byte

/-- Whether 97 bytes are a P-384 point on the curve in uncompressed form (R353). -/
opaque onCurve : List Byte → Bool

/-- What a far end tells of itself in training beside its firmware: bytes 0x00 to 0x13 of the training uplink payload, by port
(R172). -/
opaque feIdentity : Nat → List Byte

/-- The data of a telemetry message, as chosen by SOURCE: by port, SOURCE and draw (R178, R181). -/
opaque telemData : Nat → Word → Nat → List Byte

/-- CODE of the EVENT by which a far end reports an SMBALERT on one of its buses (R183). -/
opaque smbalertCode : BitVec 16

/-- DATA of that EVENT for a bus, and the bus that such DATA names (R183). -/
opaque smbalertData : Byte → List Byte

/-- The bus that the DATA of that EVENT names. -/
opaque smbalertBus : List Byte → Byte

/-- The configuration digest that a HELLO carries: a function of the configuration (R308). -/
opaque cfgDigest : List (Nat × Nat) → Word

/-- Record codes of the controller that the spec leaves to the catalogue (R364): 1 a refused service press, 2 a
service reset (R271). -/
opaque recordCode : Nat → BitVec 12

/-- DATA of those records, whose layout the catalogue gives (R364). -/
opaque recordData : Nat → List Byte

/-- What FW_VERSION (0x1000.05) reads while the recovery ROM runs and no Collar firmware does (R352, R422). -/
opaque romVersion : Word

/-- Address, mask and gateway of the lease that an Ethernet port holds in DHCPv4 mode, by port and sub (R352). -/
opaque lease : Nat → Nat → Word

end Sys2Proof.Config
end

