-- ==== Sys2Proof/Machine/State.lean ====
section
/-! DEFINITION. The state of the FLM1024: plain data, nested by subsystem, with the reset values of the spec as
the fields' defaults. `State.reset` is the machine at RESET_N release (R406) before any command. A value that
the spec does not give at reset is named in notes/assumptions/3.md. -/
namespace Sys2Proof.Machine

/-- A sparse table in one canonical form: keys rise strictly and no entry equals what an unlisted key reads as. -/
abbrev Tab (α : Type) := List (Nat × α)

/-- A byte memory; an unlisted address reads 0 (notes/assumptions/3.md). -/
abbrev Mem := List Host.Cell

/-- Faults. No meaning of this model ends in one (NOTES.md, Stops); the type is the host's. -/
inductive Fault where
  /-- Raised by nobody: kept for an access to an address that does not exist. Safe. -/
  | noSuchAddress (addr : Nat)
  deriving DecidableEq, Repr

/-- Refusals. -/
inductive Refusal where
  /-- Answered by the arm of a command that has no meaning yet. Safe. -/
  | notModelled (mnemonic : String)
  deriving DecidableEq, Repr

/-! ### Phase wheel (02) -/

/-- Wheel states in the order of their codes at 0x2000.01 (R41, R51). -/
inductive WState where
  | free | acquire | locked | holdover | reacquire | slip
  deriving DecidableEq, Repr

/-- One feed as the wheel sees it (R36 to R40). -/
structure FeedSt where
  angle : Word := 0
  freq : Word := 0
  mag : Word := 0
  neg : Word := 0
  angleValid : Bool := false
  present : Bool := false
  /-- what the detector handed over at the last tick, which `angle` and `freq` show while ANGLE_VALID is 1 (R36, R37) -/
  rawAngle : Word := 0
  rawFreq : Word := 0
  /-- cycles of the feed since the first tick with the magnitude above LOSS_LEVEL (R37); none at or below it -/
  risen : Option Rat := none
  /-- a jump under R38 at the last tick -/
  jump : Bool := false
  /-- consecutive ticks with the magnitude below LOSS_LEVEL (R39) -/
  below : Nat := 0
  /-- cycles of the feed since the conditions of R40 hold without a break -/
  aboveCycles : Rat := 0
  /-- those conditions held at the last tick -/
  above : Bool := false
  /-- the angle and frequency of the tick before, from which R38 extrapolates; none before a valid angle -/
  last : Option (Word × Word) := none
  /-- seconds of unbroken PRESENT (R233) -/
  presentTime : Rat := 0
  /-- group efficiency of the last measured interval (0.97 before it), and the sums of the present one -/
  eff : Rat := 97 / 100
  effIn : Rat := 0
  effOut : Rat := 0
  deriving DecidableEq, Repr

/-- The phase wheel (R28 to R50). -/
structure Wheel where
  state : WState := .free
  /-- REACQUIRE is in its FREQ step (otherwise PHASE) -/
  freqStep : Bool := false
  lead : Option Feed := none
  acc : Word := 0
  round : Word := 0
  ric : Nat := 0
  ris : Nat := 0
  seam : Word := 0
  /-- tick frequency, mains-equivalent, Hz, in steps of 2⁻⁴⁰ (notes/assumptions/4.md) -/
  fTick : Rat := 60
  fHold : Rat := 60
  /-- phase error of the last tick in degrees (R447) -/
  phaseErr : Rat := 0
  /-- length of the round just ended, s -/
  tRound : Rat := 0
  w : Nat := 8192
  l : Nat := 2048
  /-- the mode in force: 0 MAINS, 1 SYNC, 2 FREE (R306 may override the configured one) -/
  mode : Nat := 0
  sticky : Word := 0
  /-- direction chosen in ACQUIRE: some true is up (R449) -/
  acqUp : Option Bool := none
  /-- cycles for which the lock criteria have held (R41) -/
  lockCycles : Rat := 0
  /-- the lock criteria, and the return range of SLIP, held at the last tick -/
  lockOn : Bool := false
  inOn : Bool := false
  /-- consecutive rounds with the errors beyond the LOCKED limits (R41) -/
  lossRun : Nat := 0
  /-- consecutive rounds with the reference frequency out of range (R41) -/
  outRun : Nat := 0
  /-- cycles of the reference in range while in SLIP (R41) -/
  inCycles : Rat := 0
  /-- SLIP holds the upper clamp -/
  slipHigh : Bool := false
  /-- the SYNC reference: present, or declared lost under R50; frequency of the pulses, lag of the last valid pulse in
  ns, expected ticks since it, cycles of valid pulses -/
  syncPresent : Bool := false
  syncLost : Bool := false
  syncFreq : Word := 0
  syncLag : Int := 0
  syncMissed : Nat := 0
  syncCycles : Rat := 0
  /-- a pulse has been placed in the cycle; round in cycle of the source at the last valid pulse, and the time in
  seconds from that pulse to the last own tick -/
  syncPlaced : Bool := false
  syncRic : Nat := 0
  syncAge : Rat := 0
  /-- width in engine cycles of the WHEEL_SYNC_OUT pulse of the last tick; 0 when it is held low (R47) -/
  syncOut : Nat := 0
  /-- a seam tick has passed and its SEAM has not been performed; what reached the controller at that tick -/
  seamDue : Bool := false
  seamIn : TickIn := { a := ⟨0, 0, 0, 0⟩, b := ⟨0, 0, 0, 0⟩, sense := [], shortCycle := false }
  /-- the preparation of the next seam is closed (R35) -/
  closed : Bool := false
  /-- a timebase of an accepted RESTART load that awaits its tick (R130): W and L -/
  newBase : Option (Nat × Nat) := none
  deriving DecidableEq, Repr

/-- Local sense (R399, R400). -/
structure Sense where
  codes : List (BitVec 16) := List.replicate 16 0
  ovr : BitVec 16 := 0
  suspect : BitVec 16 := 0
  /-- per channel: ticks for which it still marks its group after its last over-range tick -/
  tail : List Nat := List.replicate 16 0
  sticky : Tab Word := []
  ovrCount : Tab Nat := []
  deriving DecidableEq, Repr

/-! ### Engines, Sleeves, Yoke, tally units (03, 04) -/

/-- Destinations of a result in flight (R91). -/
inductive Dest where
  | reg (r : Nat)
  | acc (hi : Bool)
  | pred (k : Nat)
  | none
  deriving DecidableEq, Repr

/-- What a result does to its destination: a value, or for R93 an addend to the accumulator. -/
inductive Val where
  | word (w : Word)
  | acc (w : BitVec 64)
  | bit (b : Bool)
  | addend (d : Int)
  deriving DecidableEq, Repr

/-- A result in flight: due cycle, issue order, destination, value and the flags set when it is written (R118). -/
structure Flight where
  due : Nat
  order : Nat
  dest : Dest
  val : Val
  flags : BitVec 16
  deriving DecidableEq, Repr

/-- A REPEAT level under way (R114): first body word, body length, index of the iteration, last index. -/
structure RepLevel where
  start : Nat
  len : Nat
  iter : Nat
  last : Nat
  deriving DecidableEq, Repr

/-- One control engine (R53): its private registers and its place in the round. -/
structure Engine where
  regs : Tab Word := []
  acc0 : BitVec 64 := 0
  acc1 : BitVec 64 := 0
  /-- p0 to p7; bit 0 reads 1 through the accessor -/
  preds : BitVec 8 := 1
  flags : BitVec 16 := 0
  pc : Nat := 0
  cycle : Nat := 0
  issued : Nat := 0
  ended : Bool := false
  reps : List RepLevel := []
  flight : List Flight := []
  /-- first cycle at which the divider is free (R105) -/
  divFree : Nat := 0
  /-- STPs executed in this round (R108) -/
  stps : Nat := 0
  deriving DecidableEq, Repr

/-- A word that has reached a receive entry in this round, and the cycle from which it is read; none is a word that
arrived with an uncorrectable error and leaves its entry empty (R68, R69, R74, R110). -/
structure YokeRx where
  due : Nat
  entry : Nat
  word : Option (BitVec 64)
  deriving DecidableEq, Repr

/-- A Yoke word under way to a Sleeve (R68). -/
structure YokeMsg where
  due : Nat
  dst : Nat
  entry : Nat
  word : BitVec 64
  deriving DecidableEq, Repr

/-- A reduction under way (R71): due cycle, operation, result register, contributions by Sleeve. -/
structure RedMsg where
  due : Nat
  isMax : Bool
  res : Nat
  parts : Tab Word
  deriving DecidableEq, Repr

/-- A reduction that has completed in this round: the cycle from which its result is read, operation, result register,
value and contributor mask (R71, R110). -/
structure RedDone where
  due : Nat
  isMax : Bool
  res : Nat
  value : Word
  mask : Word
  deriving DecidableEq, Repr

/-- A store of the persistent-store stream (R108): engine, word index, value. -/
structure PstStore where
  engine : Nat
  idx : Nat
  word : Word
  deriving DecidableEq, Repr

/-- One Sleeve (R84 to R86, R125, R126). -/
structure Sleeve where
  sticky : Word := 0
  halted : Bool := false
  /-- a doubt of this Sleeve was raised and its engines halt at the next tick -/
  halting : Bool := false
  /-- a restart that waits for its seam, and the intervals to skip (R84, R298) -/
  restart : Option Nat := none
  /-- a hold of Sleeve scope is in force -/
  held : Bool := false
  /-- halted because the unit is joining, cold or resynchronises this Sleeve (R304, R317) -/
  parked : Bool := false
  corrected : Word := 0
  doubtRound : Word := 0
  doubtEngine : Nat := 0xFF
  doubtDetail : Nat := 0
  /-- seed rounds still to run; 0 is the round body -/
  seedLeft : Nat := 0
  /-- the seed body runs with its STPs suppressed (R311) -/
  seedMute : Bool := false
  /-- words that have reached its receive entries in this round (R69) -/
  rx : List YokeRx := []
  /-- stores of this round in issue order (R108, R316) -/
  stores : List PstStore := []
  /-- the port that TRIPped earliest this round: cycle, engine and reason by port number in the Sleeve (R112) -/
  trips : Tab (Nat × Nat × Byte) := []
  deriving DecidableEq, Repr

/-- An extreme slot of a tally unit (R76). -/
structure Ext where
  min : Word := 0x7F800000
  minRound : Word := 0xFFFFFFFF
  max : Word := 0xFF800000
  maxRound : Word := 0xFFFFFFFF
  deriving DecidableEq, Repr

/-- An extreme slot of a tally copy (R357). -/
structure ExtCopy where
  min : Word := 0x7F800000
  max : Word := 0xFF800000
  minHours : Word := 0xFFFFFFFF
  maxHours : Word := 0xFFFFFFFF
  minCycle : Word := 0xFFFFFFFF
  maxCycle : Word := 0xFFFFFFFF
  deriving DecidableEq, Repr

/-- The array as a whole: memories, Yoke and tally units. Keys: instruction memory engine * 1024 + word, data
memory engine * 4096 + byte, shared memory Sleeve * 65536 + byte, bins Sleeve * 1536 + bin, extreme slots
Sleeve * 128 + slot. -/
structure EngArray where
  engines : Tab Engine := []
  sleeves : Tab Sleeve := []
  imem : Tab Word := []
  imemShadow : Tab Word := []
  dmem : Mem := []
  shm : Mem := []
  /-- the uplink slots that the engines read as B0, by Sleeve * 1024 + offset (R56); the frames of the present round,
  B1, stand in the ports' links until the tick -/
  upRead : Mem := []
  /-- the wheel and local sense block, 132 bytes at 0x0200, of B0 and of B1 (R59) -/
  blkRead : Mem := []
  blkFill : Mem := []
  /-- link buffers: the downlink slots as the last snapshot took them, port * 32 + byte (R66) -/
  dlBuf : Mem := []
  yoke : List YokeMsg := []
  reds : List RedMsg := []
  /-- result registers and their masks as they stood at the tick, and the reductions completed since (R71) -/
  res : Tab Word := []
  resMask : Tab Word := []
  resNew : List RedDone := []
  bins : Tab Word := []
  exts : Tab Ext := []
  /-- bins (key Sleeve * 2048 + bin) and slots (Sleeve * 2048 + 1536 + slot) marked invalid (R82) -/
  invalid : List Nat := []
  arraySticky : Word := 0
  correctedTotal : BitVec 64 := 0
  scrubPasses : Word := 0
  /-- the engines have started since RESET_N release, or since a RESTART halt, and the scrubber runs (R80) -/
  started : Bool := false
  /-- the scrubber has covered the whole of the present interval so far (0x2140.03) -/
  scrubWhole : Bool := false
  /-- words with an error that has not been corrected, by `eccKey`: 1 one bit, 2 uncorrectable (R79, R82) -/
  upsets : Tab Nat := []
  /-- in this round the scrubber has read its words, and the downlink snapshot has been taken (R66, R80) -/
  scrubbed : Bool := false
  snapped : Bool := false
  /-- seams since the tally unit of each Sleeve was swept (R77) -/
  sweepAge : Tab Nat := []
  deriving DecidableEq, Repr

/-! ### Patterns, arm and commit (05) -/

/-- No pattern: what the engines hold before P1. -/
def noPattern : PatImg :=
  { w := 8192, l := 2048, ident := 0, version := 0,
    stock := false, keySlot := 0, persistId := 0, seedRounds := 0, instr := [], seedEntry := [], dataInit := [],
    wordMap := [], carry := [], windows := [], seedWindows := [], sends := [], seedSends := [], reds := [],
    seedReds := [], portMap := [], params := [], modules := [], engineCrc := [] }

/-- An exported parameter write that awaits its seam (R127, R128). -/
structure ParamWrite where
  index : Nat
  sub : Nat
  value : Nat
  /-- seam intervals to wait beyond the present one -/
  skip : Nat
  /-- the message that wrote it (R128) -/
  msg : Nat
  deriving DecidableEq, Repr

/-- The pattern loader and the running pattern (R129 to R134, R143). -/
structure Pattern where
  run : PatImg := noPattern
  /-- the pattern that the loader has accepted and not yet started -/
  shadow : PatImg := noPattern
  activeSlot : Nat := 0xFF
  /-- the slot recorded as active in MRAM, which a cold start loads (R131) -/
  recordedSlot : Nat := 0
  commitSeam : Word := 0
  /-- 0 EMPTY, 1 READY, 2 PENDING, 3 FAILED -/
  shadowState : Nat := 0
  shadowSlot : Nat := 0
  loadResult : Nat := 0
  loadDetail : Word := 0
  commitAt : Word := 0
  /-- a load under way: slot, and whether it is a RESTART load -/
  loading : Option (Nat × Bool) := none
  /-- P1 or P1 of a wake is under way, and whether the other slot has been tried (R408) -/
  p1 : Option Bool := none
  /-- an accepted RESTART load awaits the halt at the next seam -/
  restartPend : Bool := false
  /-- seam intervals to wait for that halt beyond the present one -/
  restartSkip : Nat := 0
  /-- the seam of the halt or of a timebase change after it, at which the engines do not start yet -/
  holdSeam : Word := 0
  /-- halted for a RESTART load; the engines start at the next seam, or at the seam after the timebase change -/
  startPend : Bool := false
  /-- the commit of an armed change swaps the pattern at its seam (R140) -/
  bound : Bool := false
  /-- the read-back of R132 has passed in this commit -/
  readBack : Bool := false
  /-- the staging writes of this round have been made -/
  staged : Bool := false
  params : List ParamWrite := []
  /-- the parameters of this interval have been applied -/
  paramsDone : Bool := false
  /-- applied values of exported parameters, by index * 256 + sub -/
  paramVals : Tab Nat := []
  deriving DecidableEq, Repr

/-- An armed change (R135 to R141). -/
structure Arm where
  /-- 0 IDLE, 1 ARMED, 2 COMMITTING, 3 ABORTING -/
  state : Nat := 0
  ident : Byte := 0
  seam : Word := 0
  /-- content is queued on every involved port and the change awaits its seam -/
  queued : Bool := false
  /-- intervals to wait beyond the present one, 1 when queued after the close -/
  skip : Nat := 0
  involved : List Nat := []
  acked : List Nat := []
  /-- ports that have reported after the commit: port and ACK_CODE -/
  reported : Tab Nat := []
  commitSeam : Word := 0
  /-- rounds for which the header still carries ABORT or COMMIT -/
  hdrLeft : Nat := 0
  /-- rounds since the commit tick, counted to the deadline of R139 -/
  since : Nat := 0
  /-- the first COMMIT frame is on the wire at this tick -/
  committing : Bool := false
  outcome : Tab Nat := []
  last : Nat := 0
  /-- the group whose write it carries out, 32 for 0x33FF (R26, R195) -/
  group : Option Nat := none
  /-- a restart of the Collar ends the change: ABORT goes out from the next seam (R413) -/
  abortNext : Bool := false
  /-- the values that the change writes: port, sub of 0x3100+n, raw value -/
  values : List (Nat × Nat × Nat) := []
  deriving DecidableEq, Repr

/-! ### Stage links and ports (06, 07) -/

/-- Port states in the order of their codes at 0x3000+n.01 (R187). -/
inductive PState where
  | absent | training | discovered | ready | starting | running | stopping | hem | lockout
  deriving DecidableEq, Repr

/-- A segment of the mailbox that is not yet acknowledged (R175). -/
structure Seg where
  queue : Nat
  mseq : Nat
  first : Bool
  last : Bool
  bytes : List Byte
  /-- rounds since it was sent -/
  age : Nat
  /-- times it has been resent -/
  resent : Nat
  deriving DecidableEq, Repr

/-- A mailbox that carries no segment and acknowledges nothing (R174). -/
def noMailbox : Mailbox :=
  { queue := 0, mseq := 0, ack := 0, valid := false, first := false, last := false, ackValid := false, hold := 0, bytes := [] }

/-- One side of the mailbox of a link (R174 to R178). -/
structure MboxSide where
  /-- messages that the Collar still holds because their queue or the pool is full, oldest first (R178) -/
  wait : List (Nat × List Byte) := []
  /-- messages in their queues, oldest first: queue and whole message -/
  out : List (Nat × List Byte) := []
  /-- messages being segmented, at most one of each queue: bytes still to send, FIRST still to be sent (R177) -/
  cur : Tab (List Byte × Bool) := []
  /-- queue that had the last turn of the shared turns of R177 -/
  turn : Nat := 0
  sent : List Seg := []
  /-- messages begun and not wholly acknowledged, oldest first: queue and whole message -/
  begun : List (Nat × List Byte) := []
  /-- index in `sent` of the segment to send next; its length when nothing is to be resent -/
  redo : Nat := 0
  next : Nat := 0
  /-- next MSEQ expected from the other side -/
  expect : Nat := 0
  /-- a segment was received since training, so ACK is meaningful -/
  ackValid : Bool := false
  /-- partial messages, at most one of each queue: bytes, round of the first segment -/
  parts : Tab (List Byte × Word) := []
  /-- messages received whole and not yet taken: queue, bytes, round stamp -/
  inbox : List (Nat × List Byte × Word) := []
  /-- HOLD_MASK of the other side, and of this side -/
  hold : BitVec 16 := 0
  own : BitVec 16 := 0
  deriving DecidableEq, Repr

/-- The link side of one port (R152 to R188). -/
structure Link where
  state : PState := .absent
  cls : Byte := 0
  sticky : Word := 0
  uid : BitVec 64 := 0
  fwVersion : Word := 0
  hwVersion : BitVec 16 := 0
  fwFamily : Nat := 0
  caps : Byte := 0
  groupCount : Nat := 0
  loopDelay : Nat := 0
  framesOk : BitVec 64 := 0
  framesBad : BitVec 64 := 0
  framesMissing : BitVec 64 := 0
  missedMax : Nat := 0
  missed : Nat := 0
  obeys : Nat := 0
  mbxResent : Word := 0
  /-- training step 1 to 4, 0 outside training; rounds spent in it; run of consecutive good rounds -/
  step : Nat := 0
  stepRounds : Nat := 0
  stepRun : Nat := 0
  identity : List Byte := []
  delaySum : Nat := 0
  delayCount : Nat := 0
  tickAdvance : Nat := 0
  coastSent : Nat := 32
  /-- the port drives its pair: it has been reached by its training wave -/
  driving : Bool := false
  /-- the training under way follows LINK_LOST, a restart or FW_ACTIVATE -/
  again : Bool := false
  /-- LINK_LOST, or a training after it, is being served by R172 -/
  lost : Bool := false
  /-- the frame sent at the last tick: header, real-time payload or training payload, mailbox (R152, R153, R172, R174) -/
  hdr : Word := 0
  dlRt : List Byte := []
  dlMbx : Mailbox := noMailbox
  /-- an uplink, good or bad, or its absence, has been taken in this round -/
  taken : Bool := false
  frameOk : Bool := false
  crcErr : Bool := false
  noFrame : Bool := false
  upHeader : Word := 0
  upRt : List Byte := []
  feStatus : Word := 0
  ackId : Byte := 0
  ackCode : Byte := 0
  /-- consecutive valid uplinks with LOCKOUT = 0 (R196) -/
  lockoutClear : Nat := 0
  /-- outstanding CFG_WRITE of R195 and whether it was answered OK since training -/
  cfgOut : Bool := false
  cfgOk : Bool := false
  /-- a firmware load: 0 none, 1 sending, 2 activated and training again; outstanding at start-up -/
  fwLoad : Nat := 0
  fwStart : Bool := false
  fwImage : Word := 0
  /-- seconds since FW_ACTIVATE (R185) -/
  fwTime : Rat := 0
  /-- no start-up load is wanted any more: it is done, or the port was trained in operation (R186) -/
  fwDone : Bool := false
  mbx : MboxSide := {}
  /-- TAG of the tunnel transactions that read a pack identity -/
  idTag : List Nat := []
  tag : Nat := 0
  deriving DecidableEq, Repr

/-- The command that the stock module of a port puts into its downlink slot (R153, R190). -/
structure Cmd where
  run : Bool := false
  setpoint : Word := 0
  ilimit : Word := 0
  mode : Byte := 0
  throttle : Bool := false
  pfw : Bool := false
  classData : Word := 0
  fastTherm : Bool := false
  deriving DecidableEq, Repr

/-- Stop and start values of a port in a sequence step (R280); none is the port's own. -/
structure StepVals where
  onDelay : Nat := 0xFFFF
  rampUp : Nat := 0xFFFF
  offDelay : Nat := 0xFFFF
  rampDown : Nat := 0xFFFF
  deriving DecidableEq, Repr

/-- The control side of one port: port machine, measurement, breaker, saturation, insertion, thermal (07, 10). -/
structure Ctl where
  /-- STARTs (1) and STOPs (2) that await their seams, and the seam intervals to skip -/
  pend : List (Nat × Nat) := []
  vals : StepVals := {}
  /-- rounds since STARTING or STOPPING was entered -/
  since : Nat := 0
  /-- the ramp runs: rounds of it done and its length -/
  ramp : Option (Nat × Nat) := none
  rampFrom : Rat := 0
  /-- present value of the ramped quantity -/
  value : Rat := 0
  /-- the ramp is down, from STOPPING -/
  down : Bool := false
  /-- the ramp-down has ended: RUN = 0 is sent in the next round, in which `ramp` is none, and READY follows it -/
  readyNext : Bool := false
  tripped : Bool := false
  tripReason : Byte := 0
  /-- held because the far end's armed change failed or was excluded (R138, R139) -/
  armHold : Bool := false
  /-- held by a LINK_LOST that has not been released -/
  lostHold : Bool := false
  /-- released and awaiting the seam, and the intervals to skip (R298) -/
  release : Option Nat := none
  /-- the last valid sample codes (R57) -/
  samples : List (BitVec 16) := List.replicate 12 0
  current : Word := 0
  voltage : Word := 0
  power : Word := 0
  sumI : Rat := 0
  sumV : Rat := 0
  sumP : Rat := 0
  sumN : Nat := 0
  /-- values of the present round and the two before it: current, voltage, power, energies -/
  nowI : Rat := 0
  nowV : Rat := 0
  nowP : Rat := 0
  /-- current, voltage, power and the two energies as of the samples of the tick before the last (R220) -/
  prev : Rat × Rat × Rat × Nat × Nat := (0, 0, 0, 0, 0)
  energyFwd : BitVec 64 := 0
  energyRev : BitVec 64 := 0
  fracFwd : Rat := 0
  fracRev : Rat := 0
  heat : Nat := 0
  satNow : Bool := false
  /-- the module's integrator: at the value of the last unsaturated round while it saturates (R207) -/
  integ : Rat := 0
  satRun : Nat := 0
  reduced : Bool := false
  pg : Bool := false
  /-- regulated voltages of up to the last 64 rounds since STARTING, newest first -/
  volts : List Rat := []
  /-- rounds of PG = 1, and of PG = 0, in a row -/
  pgRun : Nat := 0
  pgLow : Nat := 0
  insStage : Nat := 0
  insRun : Nat := 0
  /-- charge delivered and voltage at the start of the inrush (R213) -/
  insCharge : Rat := 0
  insV0 : Rat := 0
  presence : Bool := false
  /-- PRESENCE has been read since the port was trained, so that a rise can be told (R196) -/
  presSeen : Bool := false
  bypass : Bool := false
  /-- margin in effect (half percents) and rounds of its move done of 1,024, from the factor before -/
  margin : Int := 0
  marginRounds : Nat := 1024
  marginFrom : Rat := 1
  snapPend : Bool := false
  snapRound : Word := 0
  snapI : Word := 0
  snapV : Word := 0
  snapP : Word := 0
  snapFwd : BitVec 64 := 0
  snapRev : BitVec 64 := 0
  snapCount : Word := 0
  /-- output over input current of a TRAY_IBC over the last seam interval (R248), and its sums -/
  ratio : Rat := 0
  sumIn : Rat := 0
  sumOut : Rat := 0
  /-- thermal: temperatures by group, age of each group's report in rounds, T_MAX, T_RATE, derate level -/
  temps : Tab (List (BitVec 16)) := []
  ages : Tab Nat := []
  tMax : Rat := 0
  tRate : Rat := 0
  hist : List Rat := []
  derate : Nat := 0
  /-- thermal pause duty of a TRAY_IBC in the present group of 16 slots (R247, R291) -/
  thermDuty : Nat := 0
  sinceStep : Nat := 0
  stale : Bool := false
  thermSticky : Word := 0
  cmd : Cmd := {}
  shed : Bool := false
  /-- rounds of the unshed ramp done, 64 when complete (R232) -/
  unshedRamp : Nat := 64
  deriving DecidableEq, Repr

/-! ### Far ends (06, 07, R189) -/

/-- A telemetry stream of a far end (R181). -/
structure Stream where
  enable : Bool := false
  decimate : Nat := 0
  source : Word := 0
  wait : Nat := 0
  dropped : Nat := 0
  deriving DecidableEq, Repr

/-- A firmware reception of a far end (R184). -/
structure FwRx where
  size : Nat
  crc : Word
  version : Word
  family : Nat
  data : List Byte
  complete : Bool
  deriving DecidableEq, Repr

/-- One far end (R160 to R184, R202, R209, R450, R451). Its class and its number of links are those that it reported
in training, in the port's link. -/
structure FarEnd where
  /-- 0 none, 1 the link of unit 0, 2 the link of unit 1 -/
  obeys : Nat := 0
  listen0 : Bool := true
  listen1 : Bool := true
  /-- STEP of the last valid TRAIN frame on each link since it entered LISTEN -/
  step0 : Nat := 0
  step1 : Nat := 0
  /-- consecutive valid TRAIN frames, per link (R169) -/
  trains0 : Nat := 0
  trains1 : Nat := 0
  /-- this round: a valid frame with AUTH = 1 arrived on each link -/
  auth0 : Bool := false
  auth1 : Bool := false
  conflictRun : Nat := 0
  missRun : Nat := 0
  /-- consecutive valid RUN frames with HEM = 0 from the obeyed link (R162) -/
  clearRun : Nat := 0
  inHem : Bool := true
  inCoast : Bool := false
  coastTicks : Nat := 0
  status : Word := 0
  fastLatched : Bool := false
  ovLatched : Bool := false
  coastRounds : Nat := 32
  tickAdvance : Nat := 0
  /-- none: the limit of its own hardware (R451) -/
  fastLimit : Option Word := none
  fastMode : Nat := 1
  ovLevel : Word := 0x42700000
  ovRelease : Word := 0x41200000
  /-- parameters received in training and adopted at the first RUN frame, and what its training uplinks echo -/
  newCoast : Nat := 32
  newAdvance : Nat := 0
  echo : List Byte := []
  seq : BitVec 6 := 0
  dlOk : Bool := false
  fastTherm : Bool := false
  /-- commands of this round's valid frames with AUTH = 1, per link, and the command applied (24 bytes; empty before
  the first) -/
  cmd0 : Option (List Byte) := none
  cmd1 : Option (List Byte) := none
  cmd : List Byte := []
  throttle : Bool := true
  pfw : Bool := true
  spare : Byte := 0
  /-- held CFG_STAGE content: identity, address, words; an ARMED frame with that identity has been seen -/
  staged : Option (Byte × Nat × List Word) := none
  armedSeen : Bool := false
  /-- COMMIT seen, applied at the next local tick -/
  commitNext : Bool := false
  commitSeen : Bool := false
  commitLate : Bool := false
  ackId : Byte := 0
  ackCode : Byte := 0
  /-- a valid frame has arrived on each link in this round -/
  valid0 : Bool := false
  valid1 : Bool := false
  /-- conduction was ended by the fast limit since the last local tick (R202); a pulse of this round was ended by the
  limit of COAST (R191); the last measured interval between local ticks in seconds (R160, R161) -/
  cut : Bool := false
  pulseEnded : Bool := false
  period : Rat := 0
  /-- the image before the last activation, which it keeps runnable: version and family (R184) -/
  fwKept : Word × Nat := (0, 0)
  /-- samples and temperature group of the last local tick -/
  samples : List (BitVec 16) := List.replicate 12 0
  group : Nat := 0
  temps : List (BitVec 16) := []
  fresh : Bool := false
  near : Bool := false
  /-- rounds since each group was sent -/
  groupAge : Tab Nat := []
  /-- header and RT of the uplink that it sent last (R154, R156) -/
  upHdr : Word := 0
  upRt : List Byte := []
  /-- mailbox of that uplink (R174, R175) -/
  upMbx : Mailbox := noMailbox
  mbx : MboxSide := {}
  streams : Tab Stream := []
  /-- tunnel transactions, oldest first, with their TAG -/
  tw : List (Nat × Xfer) := []
  fw : Option FwRx := none
  fwVersion : Word := 0
  /-- family of images that it accepts, once known (R172) -/
  fwFamily : Nat := 0
  deriving DecidableEq, Repr

/-! ### Power flow (08) -/

/-- A transfer ramp: kind 1 planned, 2 sudden, 4 restart, 5 back to the outgoing feed after an aborted transfer;
incoming feed, share of the group at its start, rounds done, rounds in all. -/
structure XferRamp where
  kind : Nat
  incoming : Feed
  start : Rat
  done : Nat
  all : Nat
  deriving DecidableEq, Repr

/-- The rack modules (R224 to R251). -/
structure Flow where
  /-- 0 NORMAL, 1 PLANNED_XFER, 2 SUDDEN_XFER, 3 HOLDUP, 4 RESTART_RAMP -/
  state : Nat := 0
  active : Option Feed := none
  everActive : Bool := false
  /-- a planned transfer that awaits its seam: incoming feed and intervals to skip -/
  xferPend : Option (Feed × Nat) := none
  ramp : Option XferRamp := none
  /-- a transfer ramp ran in this round, so that smoothing is suspended in it (R244) -/
  owned : Bool := false
  /-- feed restarted in the last hold-up and not lost since (R233, R241) -/
  restarted : Option Feed := none
  /-- the returning group has completed its ramp and hold-up still waits for V_BUS (R242) -/
  rampDone : Bool := false
  bridging : Bool := false
  /-- ANGLE_VALID of each feed as the wheel block showed it in the round before (R241) -/
  sawA : Bool := false
  sawB : Bool := false
  /-- the early warning of this hold-up has been raised (R240) -/
  warned : Bool := false
  pTgt : Rat := 0
  /-- P_TGT of the round before -/
  pPrev : Rat := 0
  pDem : Rat := 0
  pCmd : Rat := 0
  disMax : Rat := 0
  absMax : Rat := 0
  pIn : Rat := 0
  pLoad : Rat := 0
  pBatt : Rat := 0
  /-- the bus balance: rack input plus BATT_CONV power minus rack load (R17) -/
  pBus : Rat := 0
  pChg : Rat := 0
  vBus : Rat := 0
  vFormed : Bool := false
  /-- sums of the interval for the seam averages -/
  sumIn : Rat := 0
  sumLoad : Rat := 0
  sumBatt : Rat := 0
  sumV : Rat := 0
  sumN : Nat := 0
  avgIn : Word := 0
  avgLoad : Word := 0
  avgBatt : Word := 0
  avgV : Word := 0
  /-- largest P_DEM of the interval (R231) -/
  demMax : Rat := 0
  capShort : Bool := false
  shortRounds : Nat := 0
  /-- seconds of unbroken cap_short with D at THR_MAX (R246), seams since the last tap step -/
  hardTime : Rat := 0
  tapWait : Nat := 0
  duty : Nat := 0
  /-- duty in force in the present group of 16 slots -/
  dutyNow : Nat := 0
  slotRounds : Nat := 0
  slot : Nat := 0
  /-- steps of 1/16 by which the tap limit has fallen -/
  tapSteps : Nat := 0
  lowSeams : Nat := 0
  /-- CAP_N at the last two ticks: low -/
  capPin : Bool := false
  capLow1 : Bool := false
  capLow2 : Bool := false
  capEff : Nat := 0
  holdTime : Rat := 0
  collapseRun : Nat := 0
  collapseArmed : Bool := false
  /-- PFW is raised: PFW_N low and PFW in the TRAY_IBC sidebands -/
  pfw : Bool := false
  shedRun : Nat := 0
  /-- a module is to be shed since this seam (R231) -/
  shedWant : Bool := false
  /-- shed modules by their RECT_DCDC port, most recently shed first; unshed ones in order of unshedding -/
  shedOrder : List Nat := []
  unshedOrder : List Nat := []
  sticky : Word := 0
  deriving DecidableEq, Repr

/-! ### Battery shelf (09) -/

/-- One pack (R252 to R275). -/
structure Pack where
  /-- binding in effect: port number -/
  bound : Option Nat := none
  soc : Rat := 50
  conf : Nat := 0
  capLearned : Rat := 0
  impedance : Rat := 0
  /-- charge accumulator in nAs, its fraction, and its value at the last seam (R254) -/
  charge : BitVec 64 := 0
  chargeFrac : Rat := 0
  chargeSeam : BitVec 64 := 0
  /-- stored energy as the hold-up module integrates it, kWh (R227) -/
  energy : Rat := 0
  /-- usable energy as the Collar wrote it into the hold-up module at the last seam, kWh (R258) -/
  usableE : Rat := 0
  ident : List Byte := []
  /-- 0 NONE, 1 READ, 2 NO_UNIT -/
  idState : Nat := 2
  /-- 0 IDLE, 1 PULSE, 2 REST, 3 FULL, 4 WAIT_REST, 5 PAUSED_TEMP, 6 SHIP, 7 UNBOUND -/
  chgState : Nat := 7
  chgSeams : Nat := 0
  tPack : Rat := 0
  tValid : Bool := false
  restTime : Rat := 0
  resting : Bool := false
  /-- from this length of the rest on the pack voltage is averaged; sum and number of the voltages so far (R255, R273) -/
  avgFrom : Rat := 1140
  avgSum : Rat := 0
  avgN : Nat := 0
  /-- a rest point has set SOC since the binding or the last PACK_RESET (R259) -/
  rested : Bool := false
  /-- this rest has yielded its rest point -/
  restDone : Bool := false
  learnOpen : Bool := false
  learnSoc : Rat := 0
  learnCharge : BitVec 64 := 0
  learnTime : Rat := 0
  waitRest : Bool := false
  /-- discharge since the last end of a wait, nAs (R256) -/
  discharged : Rat := 0
  /-- FULL, until SOC falls below RECHARGE; T_PACK left the window in a pulse, and no pulse has begun since (R265) -/
  full : Bool := false
  tempHold : Bool := false
  /-- the voltage was held at V_C × SERIES in this pulse (R265) -/
  cvHeld : Bool := false
  /-- with the voltage held, the current has fallen below the termination level in this pulse (R265) -/
  termLow : Bool := false
  /-- charge current that the module regulates to in this round, A (R266) -/
  request : Rat := 0
  /-- voltage and current of the last 64 rounds of a pulse, newest first, and of the rest after it (R259) -/
  onV : List Rat := []
  onI : List Rat := []
  vOn : Rat := 0
  iOn : Rat := 0
  /-- rounds since the current fell below the rest threshold in this rest, the sum of voltages of rounds 64 to
  127, and whether the current stayed low -/
  offRounds : Nat := 0
  offSum : Rat := 0
  offGood : Bool := false
  impPend : Bool := false
  sticky : Word := 0
  /-- the Collar is to read the identity, and the time since it last read it (R260) -/
  idWant : Bool := true
  idAge : Rat := 0
  /-- a PACK_RESET that awaits its seam: intervals to skip -/
  resetPend : Option Nat := none
  /-- 32.768 kHz count at SLEEP entry while a rest was running -/
  sleepRest : Bool := false
  vNow : Rat := 0
  iNow : Rat := 0
  socBins : List Nat := List.replicate 10 0
  deriving DecidableEq, Repr

/-- Battery globals (R264 to R278). -/
structure Shelf where
  packs : Tab Pack := []
  cwdSafe : Bool := false
  effIchg : Word := 0x3F000000
  effVchg : Word := 0x40833333
  ship : Bool := false
  /-- ship mode starts at a seam: intervals to skip -/
  shipPend : Option Nat := none
  busValid : Rat := 0
  /-- service button: low now, press served (a new press needs a release), contactors opened -/
  btnLow : Bool := false
  btnUsed : Bool := false
  svcOpen : Bool := false
  /-- time since the last host contact, s (R267) -/
  cwdTime : Rat := 0
  sticky : Word := 0
  /-- AO_CLOCK at SLEEP entry (R272) -/
  sleepClock : Nat := 0
  deriving DecidableEq, Repr

/-! ### Sequencer, Hem (10) -/

/-- A step of the sequencing table as it runs (R279 to R284). -/
structure SeqStep where
  /-- 0 IDLE, 1 STARTING, 2 UP, 3 FAILED, 4 STOPPING, 5 STOPPED -/
  state : Nat := 0
  /-- every port of the target at the START seam, those that count towards UP, and TRAY_IBC ports skipped by R281 -/
  ports : List Nat := []
  members : List Nat := []
  skipped : List Nat := []
  /-- members of the UP step that were at fault when the round began, and those whose fault has been raised (R284) -/
  fault : List Nat := []
  bad : List Nat := []
  startSeam : Word := 0
  vals : StepVals := {}
  deriving DecidableEq, Repr

/-- The sequencer (R279 to R288). -/
structure Seq where
  steps : Tab SeqStep := []
  /-- 0 IDLE, 1 RUNNING, 2 UP, 3 PFW_WAIT, 4 STOPPING, 5 DOWN, 6 FAILED -/
  state : Nat := 0
  step : Nat := 0
  failStep : Nat := 0xFF
  failPort : Nat := 0xFFFF
  origin : Nat := 0
  sticky : Word := 0
  /-- RUN awaits its seam: intervals to skip -/
  runPend : Option Nat := none
  /-- the power-up RUN has been issued (R411) -/
  autoDone : Bool := false
  /-- a RUN after a bus collapse or after a HOLDUP shutdown is wanted (R285) -/
  autoWant : Bool := false
  /-- the next step to start and the seams to wait for it; the END of the table has been reached -/
  nextStep : Nat := 0
  nextWait : Option Nat := none
  ended : Bool := false
  /-- steps in the order of their START seams, latest first -/
  order : List Nat := []
  /-- a step failed under ON_FAULT RACK; its reverse shutdown begins at the next seam -/
  failWant : Bool := false
  /-- a reverse shutdown is under way -/
  shutdown : Bool := false
  /-- rounds left to the deadline of the early warning -/
  deadline : Option Nat := none
  /-- R242 can still cancel the shutdown -/
  cancellable : Bool := false
  /-- steps still to be stopped, in order -/
  stopOrder : List Nat := []
  deriving DecidableEq, Repr

/-- The Hem (R293 to R300) and the die sensors. -/
structure Hem where
  /-- W1C bits of SUMMARY -/
  summary : Word := 0
  /-- a hold of controller scope raised by a doubt is in force -/
  held : Bool := false
  /-- the start-up hold: before the engines first run (R297) -/
  startHold : Bool := true
  firstCause : Nat := 0
  firstRound : Word := 0
  /-- a release of the controller hold awaits its seam: intervals to skip -/
  release : Option Nat := none
  killLow : Bool := false
  dieCodes : List (BitVec 16) := List.replicate 8 0
  dieMax : Rat := 0
  dieRun : Nat := 0
  /-- HEM_N is high; it is low from reset on (R297) -/
  hemN : Bool := false
  deriving DecidableEq, Repr

/-! ### Pair (11) -/

/-- A record sent to the mate, other than CTRL (R308); headers and execution masks are left to its form on the lanes. -/
inductive MateRec where
  | hello (h : Hello)
  | wheel (block : List Byte)
  | store (sl : Nat) (words : List PstStore)
  | sweep (line : Nat) (words : List Word)
  | digest (digests : List Word) (frameOk : List Byte)
  deriving DecidableEq, Repr

/-- The redundancy controller (R303 to R325). -/
structure Pair where
  role : Role := .out
  mateRole : Option Role := none
  unit : Nat := 0
  /-- 0 DOWN, 1 TRAINING, 2 UP -/
  link : Nat := 0
  lanes : List Nat := []
  seamOffset : Int := 0
  sweepLines : Nat := 0
  resync : Word := 0
  mismatches : Word := 0
  lastTakeover : Nat := 0
  coverage : Rat := 0
  covered : Word := 0
  gapRounds : Nat := 0
  takeoverRound : Word := 0
  sticky : Word := 0
  /-- the last HELLO of the mate -/
  hello : Option Hello := none
  /-- arbitration has ended -/
  settled : Bool := false
  /-- this unit becomes ACTIVE at the first seam after its engines start (R305) -/
  activeAtSeam : Bool := false
  /-- joining: seams since J; none when not joining -/
  join : Option Nat := none
  /-- AUTH falls or rises at the next tick: the role to take -/
  nextRole : Option Role := none
  /-- cause of the takeover under way, as LAST_TAKEOVER, and the round of the missing WHEEL record -/
  nextCause : Nat := 0
  lossRound : Word := 0
  /-- WHEEL record of this round has arrived -/
  wheelGot : Bool := false
  /-- own block was used in this round; the block that the engines read now was the mate's -/
  ownBlock : Bool := false
  /-- the same of the round before, and the deadline of R307 has passed in this round -/
  ownPrev : Bool := false
  blockLate : Bool := false
  /-- digests of the last complete round, by Sleeve, and the FRAME_OK bytes of the uplinks read in it -/
  digests : Tab Word := []
  frameOks : List Byte := []
  mismatchRound : Word := 0
  mismatchSleeve : Nat := 0
  /-- lines received of each Sleeve in resynchronisation; 129 once its seed body has been started -/
  resyncLines : Tab Nat := []
  /-- WITHDRAW and HANDOVER await their seams: intervals to skip -/
  withdraw : Option Nat := none
  handover : Option Nat := none
  /-- the mate announced a handover: intervals to skip before its seam -/
  takeAtSeam : Option Nat := none
  /-- seams in shadow without a mismatch -/
  hotSeams : Nat := 0
  /-- a takeover for loss: uplinks are to be counted in the round after the first AUTH frame -/
  countPend : Option Nat := none
  /-- the takeover runs its seed rounds: ticks left to authority -/
  seedLeft : Option Nat := none
  /-- records sent to the mate since the last tick, oldest first -/
  sentCtrl : List Ctrl := []
  sent : List MateRec := []
  /-- the role last told to the mate; the configuration has been copied to it; time since the last HELLO, s -/
  told : Role := .out
  copied : Bool := false
  helloAge : Rat := 0
  /-- the sweep of an ACTIVE: the next line for a joining mate, then Sleeves in resynchronisation, each with the next of its
  128 lines (R310, R317) -/
  sweepNext : Option Nat := none
  sweepSl : Tab Nat := []
  deriving DecidableEq, Repr

/-! ### Dictionary and field network (12) -/

/-- An accepted write that awaits its seam: object, raw value, seam intervals to skip. A group write stands here under
its write image 0x3300 + g or 0x33FF (R342, R343). -/
structure PendWrite where
  index : Nat
  sub : Nat
  value : Nat
  skip : Nat
  deriving DecidableEq, Repr

/-- Results of the last group write (R344). -/
structure GroupRes where
  written : List Nat := []
  late : List Nat := []
  failPort : Nat := 0xFFFF
  failStatus : Nat := 0
  applySeam : Word := 0
  target : Nat := 0
  deriving DecidableEq, Repr

/-- A session (R332 to R335). Its keys are not evaluated in the model (notes/assumptions/12.md). -/
structure Session where
  level : Level
  clientNonce : BitVec 128
  serverNonce : BitVec 128
  clientId : BitVec 64
  seq : Nat
  urgSeq : Nat
  outSeq : Nat
  outUrg : Nat
  /-- whole seconds since the last accepted message -/
  idle : Nat
  locate : Word
  /-- the reply to its OPEN: TAG and body (R333) -/
  replyTag : Nat
  reply : List Byte
  deriving DecidableEq, Repr

/-- Where a message came in and its answers go: of an Ethernet port also the peer's address and UDP port, as one number, and
the PCP (R337). -/
inductive Iface where
  | host | eth (e : Nat) (peer : Nat) (pcp : Nat) | can (c : Nat) (src : Nat) | smb
  deriving DecidableEq, Repr

/-- A subscription (R345): where its TELEM messages go, seams to its next one, and the items of the one that is due, with
its count and the seam at which they were taken. -/
structure Sub where
  dest : Iface
  session : Nat
  subId : Nat
  period : Nat
  items : List (Nat × Nat)
  wait : Nat
  dropped : Nat
  due : Option (Word × List Byte)
  deriving DecidableEq, Repr

/-- A response, or a telemetry or urgent reply, as the controller sends it: interface, KIND, SESSION, SEQ, TAG, items,
body. -/
structure Reply where
  dest : Iface
  kind : Nat
  session : Nat
  seq : Nat
  tag : Nat
  count : Nat
  body : List Byte
  deriving DecidableEq, Repr

/-- What a message from a host asks (R330). `bad`: its tag covers a body that its KIND does not describe. -/
inductive Req where
  | openS (lvl : Level) (nonce : BitVec 128) (client : BitVec 64)
  | close
  | read (items : List ReadItem)
  | write (items : List WriteItem)
  | domainWrite (b : DomainBlock)
  | domainRead (index sub offset length : Nat)
  | subscribe (subId period : Nat) (items : List ReadItem)
  | urgent (command arg : Byte)
  | bad (kind : Nat)
  deriving DecidableEq, Repr

/-- A message as the server takes it, or as the ingress queue of R336 holds it. -/
structure InMsg where
  src : Iface
  tag : Nat
  auth : Auth
  req : Req
  deriving DecidableEq, Repr

/-- A domain transfer into an object other than an image (R341): TOTAL, bytes written, data. -/
structure DomBuf where
  total : Nat
  ranges : List (Nat × Nat)
  data : Mem
  deriving DecidableEq, Repr

/-- A CAN message being reassembled (R339). -/
structure CanPart where
  next : Nat
  bytes : List Byte
  deriving DecidableEq, Repr

/-- What an Ethernet port or a CAN channel has to send (R347): seconds until the frame under way ends, bytes that the
telemetry bucket holds, and the urgent replies, responses and telemetry that wait, each oldest first. -/
structure Line where
  busy : Rat := 0
  tokens : Rat := 2636
  urg : List Reply := []
  resp : List Reply := []
  tel : List Reply := []
  deriving DecidableEq, Repr

/-- The dictionary server, the urgent responder and the network interfaces. -/
structure Net where
  sessions : Tab Session := []
  authFail : BitVec 64 := 0
  replay : BitVec 64 := 0
  refused : BitVec 64 := 0
  rxqDropped : BitVec 64 := 0
  telemDropped : BitVec 64 := 0
  urgAccepted : BitVec 64 := 0
  urgRejected : BitVec 64 := 0
  urgLimited : BitVec 64 := 0
  hushed : Bool := false
  ingress : List InMsg := []
  subs : List Sub := []
  /-- messages whose sending has started, oldest first -/
  out : List Reply := []
  /-- Ethernet ports 0 and 1, then CAN channels 0 and 1 as 2 and 3 -/
  lines : Tab Line := []
  /-- status of the last command that wrote or read an object (R351), and the value that it read -/
  status : Nat := 0
  value : Nat := 0
  /-- messages executed, to tell the writes of one message (R331) -/
  msgNo : Nat := 0
  /-- Ethernet ports: link up, tokens of the two buckets, counters -/
  ethUp : Tab Bool := []
  urgTokens : Tab Rat := []
  tokens : Tab Rat := []
  rxDropped : Tab Nat := []
  urgRx : Tab Nat := []
  canBus : Tab Nat := []
  /-- CAN messages under reassembly, by channel * 65536 + source * 16 + STREAM -/
  parts : Tab CanPart := []
  /-- SMBus target: request bytes so far, response bytes to read, flags -/
  smbReq : List Byte := []
  smbNext : Nat := 0
  smbResp : List Byte := []
  smbSent : Nat := 0
  smbBusy : Bool := false
  smbReady : Bool := false
  smbOver : Bool := false
  /-- NACK answered to the last SMBus write -/
  smbNack : Bool := false
  smbByte : Byte := 0
  smbBlock : List Byte := []
  /-- level keys and image keys: bytes by number -/
  levelKeys : Tab (List Byte) := []
  imageKeys : Tab (List Byte) := []
  /-- strings: labels of the groups -/
  labels : Tab (List Byte) := []
  pend : List PendWrite := []
  gres : Tab GroupRes := []
  /-- staged breaker curves by curve * 256 + sub -/
  staged : Tab Nat := []
  /-- domain transfers in progress, by index * 256 + sub -/
  xfers : Tab DomBuf := []
  deriving DecidableEq, Repr

/-! ### Recorder (13) -/

/-- A token bucket of the record limiter (R365). -/
structure Limiter where
  code : Nat
  tokens : Rat
  /-- time of the last refill, in 1/65,536 s of operating hours -/
  last : Nat
  deriving DecidableEq, Repr

/-- A record in the buffer: its code, SEQ and bytes. -/
structure Rec where
  code : Nat
  seq : Word
  bytes : List Byte
  deriving DecidableEq, Repr

/-- A copy of the tally Pocket (R357). -/
structure TallyCopy where
  bins : Tab Nat := []
  exts : Tab ExtCopy := []
  soc : Tab Nat := []
  invalid : List Nat := []
  generation : Nat := 0
  foldHours : Word := 0
  foldCycle : Word := 0
  valid : Bool := false
  deriving DecidableEq, Repr

/-- A checkpoint slot (R426). -/
structure Checkpoint where
  seq : Nat
  hours : Nat
  frac : Nat
  cause : Nat
  cycles : Nat
  clock : Nat
  energy : Tab (BitVec 64 × BitVec 64)
  packs : Tab Pack
  deriving DecidableEq, Repr

/-- The event recorder (R354 to R379). -/
structure Recorder where
  newest : Word := 0
  oldest : Word := 0
  head : Nat := 0
  /-- records held in the ring, oldest first: offset, length, SEQ (R370) -/
  held : List (Nat × Nat × Word) := []
  lost : BitVec 64 := 0
  suppTotal : BitVec 64 := 0
  limiters : List Limiter := []
  overflow : Option (Rat × Nat) := none
  supp : Tab Nat := []
  buffer : List Rec := []
  flushTime : Nat := 0
  sticky : Word := 0
  /-- tally staging area (R356) -/
  stageBins : Tab Word := []
  stageExts : Tab Ext := []
  stageInvalid : List Nat := []
  stageSoc : Tab Nat := []
  copyA : TallyCopy := {}
  copyB : TallyCopy := {}
  gapS : Nat := 0
  /-- operating hours, in 1/65,536 s, of the last fold; none before the first since start -/
  lastFold : Option Nat := none
  /-- packs whose tallies the next fold restarts, with the port of each (R360) -/
  wipe : List (Nat × Option Nat) := []
  /-- trace: 0 RUN, 1 POST, 2 COPY, 3 FROZEN -/
  traceState : Nat := 0
  /-- entries of the trace ring, 16 bytes each, ((round mod 512) * 256 + port) * 16 + byte -/
  trace : Mem := []
  trigRound : Word := 0
  trigSrc : Nat := 0
  /-- rounds whose entries are still to be written before the hold -/
  postLeft : Nat := 0
  /-- last round of the held window -/
  lastRound : Word := 0
  slots : List Nat := []
  /-- slots in order of use, oldest first -/
  slotAge : List Nat := []
  slotFirst : Tab Word := []
  missed : Word := 0
  lenNow : Nat := 128
  checkpoints : Tab Checkpoint := []
  cpSeq : Nat := 0
  deriving DecidableEq, Repr

/-! ### Peripherals (14) -/

/-- A two-wire controller (R380 to R389). -/
structure Tw where
  ctrl : Word := 0x00600000
  scl : Word := 0x01F40190
  data : Word := 0x0032001E
  div : Nat := 250
  sticky : Word := 0
  /-- writes that wait for the STOP of the running transaction: sub and value -/
  later : List (Nat × Word) := []
  queue : List (Word × Xfer) := []
  result : List Byte := []
  count : Word := 0
  alert : Bool := false
  sda : Bool := true
  scLine : Bool := true
  /-- bus clears performed -/
  clears : Nat := 0
  deriving DecidableEq, Repr

/-- A timer channel (R390 to R398). -/
structure Timer where
  ctrl : Word := 0
  count : Word := 0
  period : Word := 0xFFFFFFFF
  compare : Word := 0
  prePeriod : Word := 0xFFFFFFFF
  preCompare : Word := 0
  sticky : Word := 0
  caps : List Word := []
  latched : Word := 0
  /-- events of the clock source counted towards PRESCALE + 1 -/
  presc : Nat := 0
  deriving DecidableEq, Repr

/-- GPIO (R403 to R405): bit p of each 48-bit vector is pin p. -/
structure Gpio where
  dir : BitVec 48 := 0
  out : BitVec 48 := 0
  pins : BitVec 48 := 0
  func : Tab Word := []
  deriving DecidableEq, Repr

/-! ### Start-up, update, always-on domain (15) -/

/-- A download target (R415). -/
structure Dl where
  /-- 0 IDLE, 1 RECEIVING, 2 VERIFYING, 3 VERIFIED, 4 REJECTED -/
  state : Nat := 0
  reason : Nat := 0
  total : Nat := 0
  /-- distinct bytes written, as disjoint rising ranges [from, to) -/
  ranges : List (Nat × Nat) := []
  /-- area of the far-end store that is written -/
  area : Nat := 0
  deriving DecidableEq, Repr

/-- Boot and always-on state (R406 to R429). -/
structure Boot where
  collarUp : Bool := false
  /-- P0 of a cold start (or of a wake: none) is under way -/
  coldP0 : Bool := true
  recovery : Bool := false
  frozen : Bool := false
  frozenRound : Word := 0
  /-- FREEZE accepted: 0 no, 1 the HEM frame goes at the next tick, 2 stop at the tick after -/
  freezing : Nat := 0
  /-- 0 FREEZE_N, 1 the debug object (R364) -/
  freezeSrc : Nat := 0
  asleep : Bool := false
  /-- every output is high-impedance, until the next start (R435) -/
  highZ : Bool := false
  /-- SLEEP accepted: rounds of HEM = 1 still to be sent; 17 or 18 before its seam -/
  sleeping : Option Nat := none
  /-- holds in reset: the internal reset of R434, TCXO loss (R441) -/
  internal : Bool := false
  tcxoLost : Bool := false
  cause : Nat := 0
  bootMode : Nat := 0
  /-- running restart of the Collar alone (R412) -/
  restarting : Bool := false
  /-- next training wave; 8 when all waves have run -/
  wave : Nat := 0
  waveOn : Bool := false
  /-- port trained last under R172, after which the order goes on -/
  lastTrain : Option Nat := none
  bootSlot : Nat := 0
  runningSlot : Nat := 0
  confirmed : Nat := 0
  trial : Bool := false
  slotVer : Tab Word := []
  slotValid : Tab Bool := [(0, true)]
  dls : Tab Dl := []
  /-- far-end store: family and version by area; keys 0 to 15 -/
  areas : Tab (Nat × Word) := []
  sticky : Word := 0
  /-- always-on domain -/
  aoClock : Nat := 0
  /-- fraction of a 32.768 kHz tick that has passed -/
  aoRem : Rat := 0
  hours : Nat := 0
  hoursFrac : Nat := 0
  cycles : Word := 0
  aoValid : Bool := false
  deriving DecidableEq, Repr

/-- The state of the machine: every subsystem, the object values in effect, and the queue of waiting commands,
first in first out. -/
structure State where
  pending : List Instr := []
  wheel : Wheel := {}
  feedA : FeedSt := {}
  feedB : FeedSt := {}
  sense : Sense := {}
  arr : EngArray := {}
  pat : Pattern := {}
  arm : Arm := {}
  links : Tab Link := []
  ctls : Tab Ctl := []
  fes : Tab FarEnd := []
  flow : Flow := {}
  shelf : Shelf := {}
  sq : Seq := {}
  hem : Hem := {}
  pair : Pair := {}
  net : Net := {}
  recorder : Recorder := {}
  tws : Tab Tw := []
  timers : Tab Timer := []
  gpio : Gpio := {}
  boot : Boot := {}
  /-- configuration values in effect by index * 256 + sub; an unlisted object reads its default -/
  cfg : Tab Nat := []
  /-- MRAM by byte address (R354): image slots, far-end store, record ring, trace slots -/
  mram : Mem := []
  /-- MODEL'S OWN: how many free values have been drawn (notes/assumptions/2.md) -/
  draws : Nat := 0
  deriving DecidableEq, Repr

/-- The machine at RESET_N release (R406): every field at the value that the spec states for reset or that
notes/assumptions/3.md names. -/
def State.reset : State := {}

end Sys2Proof.Machine
end

