-- ==== Sys2Proof/Machine/Float.lean ====
section
/-! DEFINITION. FP32 under R101 to R104: exact rational arithmetic and one rounding to nearest even, subnormals
flushed to zero on both sides, one canonical NaN. Flag bits follow the engine flag field map (R118). -/
namespace Sys2Proof.Machine

/-- Engine flag bits (R118, R119). -/
def fNV : BitVec 16 := 0x0001
/-- Division by zero. -/
def fDZ : BitVec 16 := 0x0002
/-- Overflow. -/
def fOF : BitVec 16 := 0x0004
/-- Underflow. -/
def fUF : BitVec 16 := 0x0008
/-- Saturation. -/
def fSAT : BitVec 16 := 0x0010
/-- DIV_BUSY. -/
def fDIVBUSY : BitVec 16 := 0x0020
/-- ILL_OP. -/
def fILL : BitVec 16 := 0x0040
/-- STP_OVER. -/
def fSTPOVER : BitVec 16 := 0x0080
/-- TALLY_RANGE. -/
def fTALLY : BitVec 16 := 0x0100
/-- LUT_CLAMP. -/
def fLUT : BitVec 16 := 0x0200
/-- WB_CLASH. -/
def fCLASH : BitVec 16 := 0x0400

/-- The canonical NaN (R101). -/
def f32NaN : Word := 0x7FC00000
/-- +infinity. -/
def f32Inf : Word := 0x7F800000
/-- −infinity. -/
def f32NegInf : Word := 0xFF800000

/-- Exponent field. -/
def f32Exp (w : Word) : Nat := (w.toNat / 2 ^ 23) % 256
/-- Fraction field. -/
def f32Frac (w : Word) : Nat := w.toNat % 2 ^ 23
/-- Sign bit. -/
def f32Neg (w : Word) : Bool := decide (2 ^ 31 ≤ w.toNat)
/-- A NaN of any payload. -/
def f32IsNaN (w : Word) : Bool := f32Exp w = 255 && f32Frac w != 0
/-- An infinity of either sign. -/
def f32IsInf (w : Word) : Bool := f32Exp w = 255 && f32Frac w == 0
/-- Zero after the flush of a subnormal operand (R101). -/
def f32IsZero (w : Word) : Bool := f32Exp w == 0

/-- 2 to an integer power. -/
def pow2 (e : Int) : Rat :=
  match e with
  | .ofNat n => ((2 ^ n : Nat) : Rat)
  | .negSucc n => mkRat 1 (2 ^ (n + 1))

/-- The value of a finite word, subnormals taken as zero (R101). An infinity or a NaN gives 0. -/
def f32Val (w : Word) : Rat :=
  if f32Exp w = 0 || f32Exp w = 255 then 0
  else
    let m := pow2 ((f32Exp w : Int) - 150) * ((2 ^ 23 + f32Frac w : Nat) : Rat)
    if f32Neg w then -m else m

/-- Quotient rounded to nearest, ties to even. -/
def divRne (n d : Nat) : Nat :=
  let q := n / d
  let r := n % d
  if 2 * r < d then q else if d < 2 * r then q + 1 else if q % 2 = 0 then q else q + 1

/-- Floor of the binary logarithm of n / d, both above 0. -/
def log2Ratio (n d : Nat) : Int :=
  let e : Int := (Nat.log2 n : Int) - (Nat.log2 d : Int)
  let ge : Bool := match e with
    | .ofNat k => decide (d * 2 ^ k ≤ n)
    | .negSucc k => decide (d ≤ n * 2 ^ (k + 1))
  if ge then e else e - 1

/-- Magnitude n / d times 2^k rounded to nearest even. -/
def scaleRne (n d : Nat) (k : Int) : Nat :=
  match k with
  | .ofNat j => divRne (n * 2 ^ j) d
  | .negSucc j => divRne n (d * 2 ^ (j + 1))

/-- Sign bit as a word. -/
def signWord (neg : Bool) : Word := if neg then 0x80000000 else 0

/-- Rounds a value to FP32 (R101): the word and the flags OF and UF. A zero takes the sign given. An exact result below the
smallest normal number in magnitude sets UF also where it would round to zero: it is flushed all the same (DEDUCED,
notes/assumptions/18.md). -/
def f32Round (zeroNeg : Bool) (x : Rat) : Word × BitVec 16 :=
  if x.num = 0 then (signWord zeroNeg, 0)
  else
    let neg := decide (x.num < 0)
    let n := x.num.natAbs
    let e := log2Ratio n x.den
    if e < -126 then
      if scaleRne n x.den 149 = 2 ^ 23 then (signWord neg ||| 0x00800000, 0) else (signWord neg, fUF)
    else
      let m := scaleRne n x.den (23 - e)
      let (e, m) := if m = 2 ^ 24 then (e + 1, 2 ^ 23) else (e, m)
      if 127 < e then (signWord neg ||| f32Inf, fOF)
      else (signWord neg ||| BitVec.ofNat 32 ((e + 127).toNat * 2 ^ 23 + (m - 2 ^ 23)), 0)

/-- The FP32 word nearest to a value, used where an object reports a quantity as F32. -/
def f32Of (x : Rat) : Word := (f32Round false x).1

/-- FADD with operands a and b (R101). -/
def fAdd (a b : Word) : Word × BitVec 16 :=
  if f32IsNaN a || f32IsNaN b then (f32NaN, fNV)
  else if f32IsInf a then
    if f32IsInf b && (f32Neg a != f32Neg b) then (f32NaN, fNV) else (signWord (f32Neg a) ||| f32Inf, 0)
  else if f32IsInf b then (signWord (f32Neg b) ||| f32Inf, 0)
  else f32Round (f32Neg a && f32Neg b && f32IsZero a && f32IsZero b) (f32Val a + f32Val b)

/-- Sign flip (FNEG, R102). -/
def fNegW (a : Word) : Word := a ^^^ 0x80000000

/-- Sign clear (FABS, R102). -/
def fAbsW (a : Word) : Word := a &&& 0x7FFFFFFF

/-- FSUB (R101). A NaN operand decides before its sign is flipped. -/
def fSub (a b : Word) : Word × BitVec 16 := fAdd a (fNegW b)

/-- FMUL (R101). -/
def fMul (a b : Word) : Word × BitVec 16 :=
  let neg := f32Neg a != f32Neg b
  if f32IsNaN a || f32IsNaN b then (f32NaN, fNV)
  else if f32IsInf a || f32IsInf b then
    if f32IsZero a || f32IsZero b then (f32NaN, fNV) else (signWord neg ||| f32Inf, 0)
  else f32Round neg (f32Val a * f32Val b)

/-- a × b + c with one rounding (R102). -/
def fFma (a b c : Word) : Word × BitVec 16 :=
  let neg := f32Neg a != f32Neg b
  if f32IsNaN a || f32IsNaN b || f32IsNaN c then (f32NaN, fNV)
  else if f32IsInf a || f32IsInf b then
    if f32IsZero a || f32IsZero b then (f32NaN, fNV)
    else if f32IsInf c && (f32Neg c != neg) then (f32NaN, fNV)
    else (signWord neg ||| f32Inf, 0)
  else if f32IsInf c then (signWord (f32Neg c) ||| f32Inf, 0)
  else
    let zeroProd := f32IsZero a || f32IsZero b
    f32Round (zeroProd && f32IsZero c && neg && f32Neg c) (f32Val a * f32Val b + f32Val c)

/-- FDIV (R101, R98 for DZ). -/
def fDiv (a b : Word) : Word × BitVec 16 :=
  let neg := f32Neg a != f32Neg b
  if f32IsNaN a || f32IsNaN b then (f32NaN, fNV)
  else if f32IsInf a then if f32IsInf b then (f32NaN, fNV) else (signWord neg ||| f32Inf, 0)
  else if f32IsInf b then (signWord neg, 0)
  else if f32IsZero b then
    if f32IsZero a then (f32NaN, fNV) else (signWord neg ||| f32Inf, fDZ)
  else f32Round neg (f32Val a / f32Val b)

/-- Largest natural number whose square is at most n, by `fuel` Newton steps from above. -/
def isqrtStep (n : Nat) : Nat → Nat → Nat
  | 0, x => x
  | f + 1, x => let y := (x + n / x) / 2; if y < x then isqrtStep n f y else x

/-- Integer square root. -/
def isqrt (n : Nat) : Nat := if n = 0 then 0 else isqrtStep n 200 (2 ^ (Nat.log2 n / 2 + 1))

/-- FSQRT (R101): the square root with enough exact bits and a sticky bit, rounded once. -/
def fSqrt (a : Word) : Word × BitVec 16 :=
  if f32IsNaN a then (f32NaN, fNV)
  else if f32IsZero a then (signWord (f32Neg a), 0)
  else if f32Neg a then (f32NaN, fNV)
  else if f32IsInf a then (f32Inf, 0)
  else
    let e : Int := (f32Exp a : Int) - 150
    let m := 2 ^ 23 + f32Frac a
    let odd := e.emod 2 = 1
    let m := if odd then 2 * m else m
    let e := if odd then e - 1 else e
    let n := m * 2 ^ 60
    let r := isqrt n
    let v : Rat := ((2 * r + (if r * r = n then 0 else 1) : Nat) : Rat)
    f32Round false (v * pow2 (e / 2 - 31))

/-- Order of two words that are no NaN: −1, 0 or 1, with +0 and −0 equal. -/
def fCmp (a b : Word) : Int :=
  let key (w : Word) : Int :=
    let m : Int := if f32IsZero w then 0 else ((w.toNat % 2 ^ 31 : Nat) : Int)
    if f32Neg w then -m else m
  if key a < key b then -1 else if key b < key a then 1 else 0

/-- A subnormal operand replaced by zero of its sign (R101). -/
def fFlush (a : Word) : Word := if f32IsZero a then signWord (f32Neg a) else a

/-- FMIN (max := false) or FMAX under R102: a NaN gives the canonical NaN and NV; +0 is above −0. -/
def fMinMax (max : Bool) (a b : Word) : Word × BitVec 16 :=
  if f32IsNaN a || f32IsNaN b then (f32NaN, fNV)
  else
    let a := fFlush a
    let b := fFlush b
    let c := fCmp a b
    let aIsLess := c < 0 || (c = 0 && f32Neg a)
    (if aIsLess then (if max then b else a) else (if max then a else b), 0)

/-- Integer to FP32 scaled by 2^−sh (I2F, Q15F, Q31F; R103). -/
def iToF (x : Int) (sh : Nat) : Word × BitVec 16 := f32Round false ((x : Rat) * mkRat 1 (2 ^ sh))

/-- Integer nearest to a rational, ties to even. -/
def rneInt (x : Rat) : Int :=
  let m : Int := (divRne x.num.natAbs x.den : Nat)
  if x.num < 0 then -m else m

/-- Saturates an integer to lo..hi; the flag tells a clamp. -/
def satInt (lo hi x : Int) : Int × Bool :=
  if x < lo then (lo, true) else if hi < x then (hi, true) else (x, false)

/-- FP32 to integer scaled by 2^sh, nearest even, saturated (F2I, FQ15, FQ31; R103). -/
def fToI (a : Word) (sh : Nat) (lo hi : Int) : Word × BitVec 16 :=
  if f32IsNaN a then (0, fNV)
  else if f32IsInf a then (BitVec.ofInt 32 (if f32Neg a then lo else hi), fSAT)
  else
    let (v, c) := satInt lo hi (rneInt (f32Val a * ((2 ^ sh : Nat) : Rat)))
    (BitVec.ofInt 32 v, if c then fSAT else 0)

/-- A comparison of R104: FEQ 0, FNE 1, FLT 2, FLE 3. -/
def fRel (k : Nat) (a b : Word) : Bool × BitVec 16 :=
  if f32IsNaN a || f32IsNaN b then (k = 1, fNV)
  else
    let c := fCmp a b
    (match k with | 0 => c = 0 | 1 => c != 0 | 2 => c < 0 | _ => c ≤ 0, 0)

/-- Quantises a value to steps of 2⁻⁴⁰ (notes/assumptions/4.md). -/
def q40 (x : Rat) : Rat := mkRat (x * ((2 ^ 40 : Nat) : Rat)).floor (2 ^ 40)

/-- The greater of two numbers. -/
def rmax (a b : Rat) : Rat := if a < b then b else a
/-- The smaller of two numbers. -/
def rmin (a b : Rat) : Rat := if a < b then a else b
/-- Limits x to lo..hi. -/
def rclamp (x lo hi : Rat) : Rat := rmax lo (rmin x hi)
/-- Magnitude. -/
def rabs (a : Rat) : Rat := if a < 0 then -a else a
/-- Square root in steps of 2⁻²⁰, 0 for a negative number. -/
def rsqrt (x : Rat) : Rat :=
  if x ≤ 0 then 0 else mkRat (isqrt ((x * ((2 ^ 40 : Nat) : Rat)).floor.toNat)) (2 ^ 20)

end Sys2Proof.Machine
end

