-- ==== Sys2Proof/Machine/Catalogue.lean ====
section
/-! DEFINITION. The catalogue of dictionary objects, one row for each row of the spec's object tables (the table's
rule in the comment of each row), and the reading of configuration values. Type codes are those of R327, bounds
of F32 objects are FP32 words; `.f32` and `.nat` bounds include their ends (R448). -/
namespace Sys2Proof.Machine

/-! ### Sparse tables -/

/-- The entry of a key, if listed. -/
def tfind {α : Type} : Tab α → Nat → Option α
  | [], _ => none
  | (k, v) :: t, i => if k = i then some v else tfind t i

/-- The entry of a key, or the default. -/
def tget {α : Type} (d : α) (t : Tab α) (i : Nat) : α := (tfind t i).getD d

/-- Lists a value under a key, in rising order of keys. -/
def tput {α : Type} : Tab α → Nat → α → Tab α
  | [], i, v => [(i, v)]
  | (k, w) :: t, i, v => if i < k then (i, v) :: (k, w) :: t else if i = k then (i, v) :: t else (k, w) :: tput t i v

/-- Removes a key. -/
def tdel {α : Type} (t : Tab α) (i : Nat) : Tab α := t.filter fun x => x.1 != i

/-- Stores a value in the canonical form: the default is not listed. -/
def tset {α : Type} [DecidableEq α] (d : α) (t : Tab α) (i : Nat) (v : α) : Tab α :=
  if v = d then tdel t i else tput t i v

/-- Access kinds (R328). -/
inductive Acc where
  | ro | con | rw | wo | w1c
  deriving DecidableEq, Repr

/-- Permitted ranges of a written value. -/
inductive Rng where
  | any
  | nat (lo hi : Nat)
  | int (lo hi : Int)
  | f32 (lo hi : Nat)
  | oneOf (l : List Nat)
  deriving DecidableEq, Repr

/-- One row of an object table: indices base to base + count − 1, subs lo to hi, type code, access, level, default
(raw value) and range. -/
structure Row where
  base : Nat
  count : Nat
  subLo : Nat
  subHi : Nat
  ty : Nat
  acc : Acc
  level : Level
  dflt : Nat
  rng : Rng
  deriving DecidableEq, Repr

/-- Object rows, indices below 0x2000, part 1. -/
def rows1000a : List Row :=
  [⟨0x1000, 1, 1, 1, 11, .con, .observe, 0, .any⟩,  -- VENDOR (R352)
   ⟨0x1000, 1, 2, 2, 11, .con, .observe, 0, .any⟩,  -- PART (R352)
   ⟨0x1000, 1, 3, 3, 5, .con, .observe, 0, .any⟩,  -- SERIAL (R352)
   ⟨0x1000, 1, 4, 4, 3, .con, .observe, 0, .any⟩,  -- SILICON_REV (R352)
   ⟨0x1000, 1, 5, 5, 4, .ro, .observe, 0, .any⟩,  -- FW_VERSION (R352)
   ⟨0x1100, 1, 1, 1, 2, .ro, .observe, 0, .any⟩,  -- SESSIONS_OPEN (R352)
   ⟨0x1100, 1, 2, 2, 2, .con, .observe, 64, .any⟩,  -- SESSION_MAX (R352)
   ⟨0x1100, 1, 3, 3, 3, .con, .observe, 120, .any⟩,  -- IDLE_TIMEOUT (R352)
   ⟨0x1100, 1, 4, 4, 5, .ro, .observe, 0, .any⟩,  -- AUTH_FAIL (R352)
   ⟨0x1100, 1, 5, 5, 5, .ro, .observe, 0, .any⟩,  -- REPLAY (R352)
   ⟨0x1100, 1, 6, 6, 5, .ro, .observe, 0, .any⟩,  -- REFUSED (R352)
   ⟨0x1100, 1, 7, 7, 3, .wo, .service, 0, .nat 1 64⟩,  -- CLOSE_SESSION (R352)
   ⟨0x1100, 1, 8, 8, 3, .ro, .observe, 0, .any⟩,  -- OWN_SESSION (R352)
   ⟨0x1100, 1, 9, 9, 5, .ro, .observe, 0, .any⟩,  -- RXQ_DROPPED (R352)
   ⟨0x1100, 1, 10, 10, 3, .ro, .observe, 0, .any⟩,  -- SUBSCRIPTIONS (R352)
   ⟨0x1100, 1, 11, 11, 5, .ro, .observe, 0, .any⟩,  -- TELEM_DROPPED (R352)
   ⟨0x1101, 2, 1, 1, 2, .ro, .observe, 0, .any⟩,  -- LINK (R352)
   ⟨0x1101, 2, 2, 2, 2, .rw, .service, 0, .nat 0 1⟩,  -- IP_MODE (R352)
   ⟨0x1101, 2, 3, 5, 4, .rw, .service, 0, .any⟩,  -- IPV4_ADDR, IPV4_MASK, IPV4_GW (R352)
   ⟨0x1101, 2, 6, 6, 5, .rw, .service, 0, .any⟩,  -- IPV6_HI, IPV6_LO (R352)
   ⟨0x1101, 2, 7, 7, 5, .rw, .service, 0, .any⟩,  -- IPV6_HI, IPV6_LO (R352)
   ⟨0x1101, 2, 8, 8, 2, .rw, .service, 64, .nat 1 128⟩,  -- IPV6_PREFIX (R352)
   ⟨0x1101, 2, 9, 9, 3, .rw, .service, 0, .nat 0 4094⟩,  -- VLAN_ID (R352)
   ⟨0x1101, 2, 10, 10, 3, .rw, .service, 0x4934, .nat 1024 65535⟩,  -- UDP_PORT (R352)
   ⟨0x1101, 2, 11, 11, 5, .ro, .observe, 0, .any⟩,  -- RX_DROPPED (R352)
   ⟨0x1101, 2, 12, 12, 5, .ro, .observe, 0, .any⟩,  -- URG_RX (R352)
   ⟨0x1101, 2, 13, 13, 10, .rw, .operate, 0x42200000, .f32 0x40A00000 0x42B40000⟩,  -- TELEM_MAX (R352)
   ⟨0x1101, 2, 14, 14, 2, .rw, .operate, 0, .nat 0 6⟩,  -- TELEM_PCP (R352)
   ⟨0x1110, 2, 1, 1, 1, .rw, .service, 1, .any⟩,  -- ENABLE (R352)
   ⟨0x1110, 2, 2, 2, 2, .rw, .service, 1, .nat 1 126⟩,  -- NODE_ID (R352)
   ⟨0x1110, 2, 3, 3, 4, .rw, .service, 0x7A120, .oneOf [125000, 250000, 500000, 1000000]⟩,  -- NOM_RATE (R352)
   ⟨0x1110, 2, 4, 4, 4, .rw, .service, 0x1E8480, .oneOf [1000000, 2000000, 4000000, 5000000]⟩,  -- DATA_RATE (R352)
   ⟨0x1110, 2, 5, 5, 2, .ro, .observe, 0, .any⟩,  -- BUS_STATE (R352)
   ⟨0x1110, 2, 6, 6, 10, .rw, .operate, 0x42200000, .f32 0x40A00000 0x42B40000⟩,  -- TELEM_MAX (R352)
   ⟨0x1118, 1, 1, 1, 2, .rw, .service, 90, .nat 0x08 0x77⟩,  -- ADDRESS (R352)
   ⟨0x1118, 1, 2, 2, 1, .rw, .service, 0, .any⟩,  -- PEC_REQ (R352)
   ⟨0x1130, 1, 1, 1, 1, .rw, .operate, 0, .any⟩,  -- HUSHED (R352)
   ⟨0x1130, 1, 2, 2, 5, .ro, .observe, 0, .any⟩,  -- URG_ACCEPTED (R352)
   ⟨0x1130, 1, 3, 3, 5, .ro, .observe, 0, .any⟩,  -- URG_REJECTED (R352)
   ⟨0x1130, 1, 4, 4, 5, .ro, .observe, 0, .any⟩]  -- URG_LIMITED (R352)

/-- Object rows, indices below 0x2000, part 2. -/
def rows1000b : List Row :=
  [⟨0x1140, 1, 1, 64, 5, .ro, .service, 0, .any⟩,  -- SESSION_CLIENT (R352)
   ⟨0x1141, 1, 1, 64, 2, .ro, .service, 255, .any⟩,  -- SESSION_LEVEL (R352)
   ⟨0x1200, 1, 1, 3, 12, .wo, .service, 0, .any⟩,  -- LEVEL_KEY (R353)
   ⟨0x1200, 1, 4, 4, 2, .ro, .observe, 7, .any⟩,  -- LEVEL_KEY_STATE (R353)
   ⟨0x1210, 1, 1, 4, 12, .rw, .service, 0, .any⟩,  -- IMAGE_KEY (R353)
   ⟨0x1210, 1, 5, 5, 2, .ro, .observe, 0, .any⟩,  -- IMAGE_KEY_STATE (R353)
   ⟨0x1010, 1, 1, 1, 4, .ro, .observe, 0, .any⟩,  -- HOURS (R428)
   ⟨0x1010, 1, 2, 2, 3, .ro, .observe, 0, .any⟩,  -- HOURS_FRAC (R428)
   ⟨0x1011, 1, 1, 1, 4, .ro, .observe, 0, .any⟩,  -- POWER_CYCLES (R428)
   ⟨0x1020, 1, 1, 1, 2, .ro, .observe, 0, .any⟩,  -- POWER_STATE (R428)
   ⟨0x1020, 1, 2, 2, 2, .ro, .observe, 0, .any⟩,  -- RESET_CAUSE (R428)
   ⟨0x1020, 1, 3, 3, 2, .ro, .observe, 0, .any⟩,  -- BOOT_MODE (R428)
   ⟨0x1020, 1, 4, 4, 1, .wo, .service, 0, .any⟩,  -- SLEEP_CMD (R428)
   ⟨0x1020, 1, 5, 5, 1, .wo, .operate, 0, .any⟩,  -- WAKE (R428)
   ⟨0x1020, 1, 6, 6, 5, .ro, .observe, 0, .any⟩,  -- AO_CLOCK (R428)
   ⟨0x1020, 1, 7, 7, 4, .w1c, .operate, 0, .any⟩,  -- STICKY (R428)
   ⟨0x1800, 1, 1, 1, 12, .wo, .service, 0, .any⟩,  -- COLLAR_SLOT (R428)
   ⟨0x1800, 1, 2, 2, 12, .wo, .service, 0, .any⟩,  -- COLLAR_SLOT (R428)
   ⟨0x1800, 1, 3, 3, 2, .ro, .observe, 0, .any⟩,  -- BOOT_SLOT (R428)
   ⟨0x1800, 1, 4, 4, 2, .ro, .observe, 0, .any⟩,  -- RUNNING_SLOT (R428)
   ⟨0x1800, 1, 5, 5, 1, .ro, .observe, 0, .any⟩,  -- TRIAL (R428)
   ⟨0x1800, 1, 6, 6, 2, .wo, .service, 0, .nat 0 1⟩,  -- ACTIVATE (R428)
   ⟨0x1800, 1, 7, 7, 1, .wo, .service, 0, .any⟩,  -- CONFIRM (R428)
   ⟨0x1800, 1, 8, 8, 4, .ro, .observe, 0, .any⟩,  -- SLOT_VERSION (R428)
   ⟨0x1800, 1, 9, 9, 4, .ro, .observe, 0, .any⟩,  -- SLOT_VERSION (R428)
   ⟨0x1800, 1, 10, 10, 4, .rw, .service, 0, .any⟩,  -- FW_FLOOR (R428)
   ⟨0x1801, 1, 1, 1, 12, .wo, .service, 0, .any⟩,  -- PATTERN_SLOT (R428)
   ⟨0x1801, 1, 2, 2, 12, .wo, .service, 0, .any⟩,  -- PATTERN_SLOT (R428)
   ⟨0x1802, 1, 1, 1, 12, .wo, .service, 0, .any⟩,  -- FE_DOWNLOAD (R428)
   ⟨0x1803, 1, 1, 16, 5, .ro, .observe, 0, .any⟩,  -- FE_AREA (R428)
   ⟨0x1808, 5, 1, 1, 2, .ro, .observe, 0, .any⟩,  -- DL_STATE (R428)
   ⟨0x1808, 5, 2, 2, 2, .ro, .observe, 0, .any⟩,  -- DL_REASON (R428)
   ⟨0x1808, 5, 3, 3, 4, .ro, .observe, 0, .any⟩,  -- DL_RECEIVED (R428)
   ⟨0x1808, 5, 4, 4, 4, .ro, .observe, 0, .any⟩,  -- DL_TOTAL (R428)
   ⟨0x1808, 5, 5, 5, 1, .wo, .service, 0, .any⟩,  -- DL_ABORT (R428)
   ⟨0x1810, 1, 1, 1, 3, .rw, .service, 0, .nat 0 255⟩,  -- FE_PORT (R428)
   ⟨0x1810, 1, 2, 2, 1, .wo, .service, 0, .any⟩,  -- FE_LOAD (R428)
   ⟨0x1810, 1, 3, 3, 3, .ro, .observe, 0, .any⟩]  -- LOADS_ACTIVE (R428)

/-- Object rows, indices below 0x2000. -/
def rows1000 : List Row := rows1000a ++ rows1000b

/-- Object rows, indices 0x2000 to 0x23FF, part 1. -/
def rows2000a : List Row :=
  [⟨0x2000, 1, 1, 1, 2, .ro, .observe, 0, .any⟩,  -- STATE (R51)
   ⟨0x2000, 1, 2, 2, 2, .ro, .observe, 255, .any⟩,  -- LEAD_FEED (R51)
   ⟨0x2000, 1, 3, 3, 10, .ro, .observe, 0, .any⟩,  -- TICK_FREQ (R51)
   ⟨0x2000, 1, 4, 4, 10, .ro, .observe, 0, .any⟩,  -- F_CE (R51)
   ⟨0x2000, 1, 5, 5, 10, .ro, .observe, 0, .any⟩,  -- PHASE_ERR (R51)
   ⟨0x2000, 1, 6, 6, 4, .ro, .observe, 0, .any⟩,  -- ROUND_INDEX (R51)
   ⟨0x2000, 1, 7, 7, 4, .ro, .observe, 0, .any⟩,  -- SEAM_INDEX (R51)
   ⟨0x2000, 1, 8, 8, 3, .ro, .observe, 0, .any⟩,  -- ROUND_IN_CYCLE (R51)
   ⟨0x2000, 1, 9, 9, 4, .w1c, .operate, 0, .any⟩,  -- STICKY (R51)
   ⟨0x2001, 1, 1, 1, 2, .rw, .service, 0, .nat 0 2⟩,  -- WHEEL_MODE (R51)
   ⟨0x2001, 1, 2, 2, 10, .rw, .service, 0x42700000, .oneOf [0x42480000, 0x42700000]⟩,  -- F_NOM (R51)
   ⟨0x2001, 1, 3, 3, 10, .rw, .service, 0x42840000, .f32 0x423C0000 0x42840000⟩,  -- F_MAINS_MAX (R51)
   ⟨0x2001, 1, 4, 4, 10, .rw, .service, 0x42340000, .f32 0x42340000 0x427C0000⟩,  -- F_MAINS_MIN (R51)
   ⟨0x2001, 1, 5, 5, 10, .rw, .operate, 0x40A00000, .f32 0x3DCCCCCD 0x41A00000⟩,  -- SLEW (R51)
   ⟨0x2001, 1, 6, 6, 10, .rw, .operate, 0x3F000000, .f32 0x3D4CCCCD 0x40000000⟩,  -- PULL_MAX (R51)
   ⟨0x2001, 1, 7, 7, 8, .rw, .service, 0, .any⟩,  -- WHEEL_OFFSET (R51)
   ⟨0x2001, 1, 8, 8, 10, .rw, .service, 0x43CF8000, .f32 0x42C80000 0x447A0000⟩,  -- V_NOM (R51)
   ⟨0x2001, 1, 9, 9, 10, .rw, .operate, 0x42480000, .f32 0x41A00000 0x42B40000⟩,  -- LOSS_LEVEL (R51)
   ⟨0x2001, 1, 10, 10, 10, .rw, .operate, 0x42A00000, .f32 0x41A00000 0x42BE0000⟩,  -- RETURN_LEVEL (R51)
   ⟨0x2001, 1, 11, 11, 2, .rw, .operate, 2, .nat 1 50⟩,  -- RETURN_CYCLES (R51)
   ⟨0x2001, 1, 12, 12, 10, .rw, .operate, 0x41200000, .f32 0x40000000 0x42B40000⟩,  -- JUMP_LEVEL (R51)
   ⟨0x2001, 1, 13, 13, 3, .rw, .service, 0, .nat 0 1000⟩,  -- SYNC_DELAY (R51)
   ⟨0x2001, 1, 14, 14, 1, .rw, .service, 1, .any⟩,  -- WHEEL_SYNC_EN (R51)
   ⟨0x2002, 1, 1, 1, 4, .ro, .observe, 0, .any⟩,  -- ANGLE (R51)
   ⟨0x2003, 1, 1, 1, 4, .ro, .observe, 0, .any⟩,  -- ANGLE (R51)
   ⟨0x2002, 1, 2, 2, 1, .ro, .observe, 0, .any⟩,  -- ANGLE_VALID (R51)
   ⟨0x2003, 1, 2, 2, 1, .ro, .observe, 0, .any⟩,  -- ANGLE_VALID (R51)
   ⟨0x2002, 1, 3, 3, 10, .ro, .observe, 0, .any⟩,  -- FREQ (R51)
   ⟨0x2003, 1, 3, 3, 10, .ro, .observe, 0, .any⟩,  -- FREQ (R51)
   ⟨0x2002, 1, 4, 4, 10, .ro, .observe, 0, .any⟩,  -- MAGNITUDE (R51)
   ⟨0x2003, 1, 4, 4, 10, .ro, .observe, 0, .any⟩,  -- MAGNITUDE (R51)
   ⟨0x2002, 1, 5, 5, 10, .ro, .observe, 0, .any⟩,  -- NEG_SEQ (R51)
   ⟨0x2003, 1, 5, 5, 10, .ro, .observe, 0, .any⟩,  -- NEG_SEQ (R51)
   ⟨0x2002, 1, 6, 6, 1, .ro, .observe, 0, .any⟩,  -- PRESENT (R51)
   ⟨0x2003, 1, 6, 6, 1, .ro, .observe, 0, .any⟩,  -- PRESENT (R51)
   ⟨0x2004, 1, 1, 1, 3, .ro, .observe, 0x2000, .any⟩,  -- W (R51)
   ⟨0x2004, 1, 2, 2, 3, .ro, .observe, 0x800, .any⟩,  -- L (R51)
   ⟨0x2004, 1, 3, 3, 10, .ro, .observe, 0x448A697B, .any⟩,  -- F_CEIL (R51)
   ⟨0x2004, 1, 4, 4, 10, .ro, .observe, 0x443CBE62, .any⟩,  -- F_FLOOR (R51)
   ⟨0x2140, 1, 1, 1, 4, .ro, .observe, 0, .any⟩]  -- SLEEVES_HALTED (R85)

/-- Object rows, indices 0x2000 to 0x23FF, part 2. -/
def rows2000b : List Row :=
  [⟨0x2140, 1, 2, 2, 5, .ro, .observe, 0, .any⟩,  -- CORRECTED_TOTAL (R85)
   ⟨0x2140, 1, 3, 3, 4, .ro, .observe, 0, .any⟩,  -- SCRUB_PASSES (R85)
   ⟨0x2140, 1, 4, 4, 4, .w1c, .operate, 0, .any⟩,  -- ARRAY_STICKY (R85)
   ⟨0x2160, 32, 1, 1, 2, .ro, .observe, 0, .any⟩,  -- SLEEVE_STATE (R85)
   ⟨0x2160, 32, 2, 2, 4, .w1c, .operate, 0, .any⟩,  -- STICKY (R85)
   ⟨0x2160, 32, 3, 3, 4, .ro, .observe, 0, .any⟩,  -- CORRECTED (R85)
   ⟨0x2160, 32, 4, 4, 4, .ro, .observe, 0, .any⟩,  -- DOUBT_ROUND (R85)
   ⟨0x2160, 32, 5, 5, 2, .ro, .observe, 255, .any⟩,  -- DOUBT_ENGINE (R85)
   ⟨0x2160, 32, 6, 6, 3, .ro, .observe, 0, .any⟩,  -- DOUBT_DETAIL (R85)
   ⟨0x2180, 32, 1, 32, 3, .w1c, .operate, 0, .any⟩,  -- ENGINE_FLAGS (R120)
   ⟨0x2180, 32, 33, 33, 4, .ro, .observe, 0, .any⟩,  -- FLAGS_ANY (R120)
   ⟨0x2100, 1, 1, 1, 2, .ro, .observe, 255, .any⟩,  -- ACTIVE_SLOT (R143)
   ⟨0x2100, 1, 2, 2, 4, .ro, .observe, 0, .any⟩,  -- PATTERN_ID (R143)
   ⟨0x2100, 1, 3, 3, 4, .ro, .observe, 0, .any⟩,  -- VERSION (R143)
   ⟨0x2100, 1, 4, 4, 2, .ro, .observe, 0, .any⟩,  -- KIND (R143)
   ⟨0x2100, 1, 5, 5, 4, .ro, .observe, 0, .any⟩,  -- COMMIT_SEAM (R143)
   ⟨0x2100, 1, 6, 6, 2, .ro, .observe, 0, .any⟩,  -- SHADOW_STATE (R143)
   ⟨0x2101, 1, 1, 1, 2, .rw, .service, 0, .nat 0 1⟩,  -- LOAD_SLOT (R143)
   ⟨0x2101, 1, 2, 2, 2, .rw, .service, 0, .nat 0 1⟩,  -- LOAD_MODE (R143)
   ⟨0x2101, 1, 3, 3, 1, .wo, .service, 0, .any⟩,  -- LOAD_START (R143)
   ⟨0x2101, 1, 4, 4, 2, .ro, .observe, 0, .any⟩,  -- LOAD_RESULT (R143)
   ⟨0x2101, 1, 5, 5, 4, .ro, .observe, 0, .any⟩,  -- LOAD_DETAIL (R143)
   ⟨0x2101, 1, 6, 6, 1, .wo, .service, 0, .any⟩,  -- COMMIT (R143)
   ⟨0x2101, 1, 7, 7, 4, .ro, .observe, 0, .any⟩,  -- COMMIT_AT (R143)
   ⟨0x2102, 1, 1, 1, 2, .ro, .observe, 0, .any⟩,  -- ARM_STATE (R143)
   ⟨0x2102, 1, 2, 2, 2, .ro, .observe, 0, .any⟩,  -- ARM_ID (R143)
   ⟨0x2102, 1, 3, 3, 4, .ro, .observe, 0, .any⟩,  -- ARM_SEAM (R143)
   ⟨0x2102, 1, 4, 4, 2, .rw, .operate, 0, .nat 0 1⟩,  -- ACK_POLICY (R143)
   ⟨0x2102, 1, 5, 5, 3, .rw, .operate, 3, .nat 3 1024⟩,  -- COMMIT_DELAY (R143)
   ⟨0x2102, 1, 6, 6, 3, .ro, .observe, 0, .any⟩,  -- ACK_COUNT (R143)
   ⟨0x2102, 1, 7, 7, 3, .ro, .observe, 0, .any⟩,  -- INVOLVED (R143)
   ⟨0x2102, 1, 8, 8, 1, .rw, .service, 0, .any⟩,  -- BIND_PATTERN (R143)
   ⟨0x2102, 1, 9, 9, 2, .ro, .observe, 0, .any⟩,  -- LAST_OUTCOME (R143)
   ⟨0x2103, 1, 1, 6, 2, .ro, .observe, 0, .any⟩,  -- MODULE (R143)
   ⟨0x2103, 1, 16, 22, 2, .ro, .observe, 0, .any⟩,  -- MODULE (R143)
   ⟨0x2110, 1, 1, 128, 2, .ro, .observe, 0, .any⟩,  -- OUTCOME (R143)
   ⟨0x2111, 1, 1, 128, 2, .ro, .observe, 0, .any⟩,  -- OUTCOME (R143)
   ⟨0x2300, 1, 1, 1, 4, .w1c, .operate, 0, .any⟩,  -- SUMMARY (R299)
   ⟨0x2300, 1, 2, 2, 2, .ro, .observe, 3, .any⟩,  -- HEM_SCOPE (R299)
   ⟨0x2300, 1, 3, 3, 3, .ro, .observe, 0, .any⟩]  -- PORTS_HELD (R299)

/-- Object rows, indices 0x2000 to 0x23FF, part 3. -/
def rows2000c : List Row :=
  [⟨0x2300, 1, 4, 4, 2, .ro, .observe, 0, .any⟩,  -- FIRST_CAUSE (R299)
   ⟨0x2300, 1, 5, 5, 4, .ro, .observe, 0, .any⟩,  -- FIRST_ROUND (R299)
   ⟨0x2300, 1, 6, 6, 2, .rw, .service, 0, .nat 0 1⟩,  -- HEM_N_MODE (R299)
   ⟨0x2301, 1, 1, 8, 4, .ro, .observe, 0, .any⟩,  -- HELD_MAP (R299)
   ⟨0x2310, 1, 1, 1, 1, .wo, .service, 0, .any⟩,  -- CLEAR_CONTROLLER (R299)
   ⟨0x2310, 1, 2, 2, 2, .wo, .operate, 0, .nat 0 31⟩,  -- CLEAR_SLEEVE (R299)
   ⟨0x2310, 1, 3, 3, 3, .wo, .operate, 0, .nat 0 255⟩,  -- CLEAR_PORT (R299)
   ⟨0x2310, 1, 4, 4, 2, .wo, .operate, 0, .nat 0 31⟩,  -- CLEAR_GROUP (R299)
   ⟨0x23F0, 1, 1, 1, 2, .wo, .operate, 0, .nat 1 2⟩,  -- SEQ_CMD (R301)
   ⟨0x23F0, 1, 2, 2, 2, .ro, .observe, 0, .any⟩,  -- SEQ_STATE (R301)
   ⟨0x23F0, 1, 3, 3, 2, .ro, .observe, 0, .any⟩,  -- SEQ_STEP (R301)
   ⟨0x23F0, 1, 4, 4, 2, .ro, .observe, 255, .any⟩,  -- FAIL_STEP (R301)
   ⟨0x23F0, 1, 5, 5, 3, .ro, .observe, 0xFFFF, .any⟩,  -- FAIL_PORT (R301)
   ⟨0x23F0, 1, 6, 6, 2, .ro, .observe, 0, .any⟩,  -- ORIGIN (R301)
   ⟨0x23F0, 1, 7, 7, 10, .rw, .operate, 0x41200000, .f32 0x3F800000 0x42480000⟩,  -- T_PFW (R301)
   ⟨0x23F0, 1, 8, 8, 1, .rw, .service, 1, .any⟩,  -- AUTO_START (R301)
   ⟨0x23F0, 1, 9, 9, 4, .w1c, .operate, 0, .any⟩,  -- STICKY (R301)
   ⟨0x2200, 1, 1, 1, 2, .ro, .observe, 0, .any⟩,  -- ROLE (R324)
   ⟨0x2200, 1, 2, 2, 2, .ro, .observe, 255, .any⟩,  -- MATE_ROLE (R324)
   ⟨0x2200, 1, 3, 3, 2, .ro, .observe, 0, .any⟩,  -- MATE_LINK (R324)
   ⟨0x2200, 1, 4, 4, 2, .ro, .observe, 0, .any⟩,  -- LANES_UP (R324)
   ⟨0x2200, 1, 5, 5, 8, .ro, .observe, 0, .any⟩,  -- SEAM_OFFSET (R324)
   ⟨0x2200, 1, 6, 6, 3, .ro, .observe, 0, .any⟩,  -- SWEEP_LINES (R324)
   ⟨0x2200, 1, 7, 7, 4, .ro, .observe, 0, .any⟩,  -- RESYNC_MAP (R324)
   ⟨0x2200, 1, 8, 8, 4, .ro, .observe, 0, .any⟩,  -- MISMATCHES (R324)
   ⟨0x2200, 1, 9, 9, 2, .ro, .observe, 0, .any⟩,  -- LAST_TAKEOVER (R324)
   ⟨0x2200, 1, 10, 10, 10, .ro, .observe, 0, .any⟩,  -- COVERAGE (R324)
   ⟨0x2200, 1, 11, 11, 4, .ro, .observe, 0, .any⟩,  -- COVERED_SLEEVES (R324)
   ⟨0x2200, 1, 12, 12, 3, .ro, .observe, 0, .any⟩,  -- GAP_ROUNDS (R324)
   ⟨0x2200, 1, 13, 13, 4, .ro, .observe, 0, .any⟩,  -- TAKEOVER_ROUND (R324)
   ⟨0x2200, 1, 14, 14, 4, .w1c, .operate, 0, .any⟩,  -- STICKY (R324)
   ⟨0x2201, 1, 1, 1, 2, .rw, .service, 0, .nat 0 1⟩,  -- PAIR_UNIT (R324)
   ⟨0x2201, 1, 2, 2, 1, .rw, .operate, 1, .any⟩,  -- JOIN_EN (R324)
   ⟨0x2201, 1, 3, 3, 1, .wo, .operate, 0, .any⟩,  -- HANDOVER (R324)
   ⟨0x2201, 1, 4, 4, 1, .rw, .service, 1, .any⟩,  -- COLD_TAKEOVER (R324)
   ⟨0x2201, 1, 5, 5, 1, .wo, .service, 0, .any⟩]  -- WITHDRAW (R324)

/-- Object rows, indices 0x2000 to 0x23FF. -/
def rows2000 : List Row := rows2000a ++ rows2000b ++ rows2000c

/-- Object rows, indices 0x2400 to 0x27FF, part 1. -/
def rows2400a : List Row :=
  [⟨0x2500, 1, 1, 1, 2, .ro, .observe, 0, .any⟩,  -- FLOW_STATE (R250)
   ⟨0x2500, 1, 2, 2, 2, .ro, .observe, 255, .any⟩,  -- ACTIVE_FEED (R250)
   ⟨0x2500, 1, 3, 3, 1, .ro, .observe, 0, .any⟩,  -- STBY_READY (R250)
   ⟨0x2500, 1, 4, 4, 10, .ro, .observe, 0, .any⟩,  -- RESYNC_LEFT (R250)
   ⟨0x2500, 1, 5, 5, 10, .ro, .observe, 0, .any⟩,  -- P_IN (R250)
   ⟨0x2500, 1, 6, 6, 10, .ro, .observe, 0, .any⟩,  -- P_LOAD (R250)
   ⟨0x2500, 1, 7, 7, 10, .ro, .observe, 0, .any⟩,  -- P_BATT (R250)
   ⟨0x2500, 1, 8, 8, 10, .ro, .observe, 0, .any⟩,  -- V_BUS (R250)
   ⟨0x2500, 1, 9, 9, 10, .ro, .observe, 0, .any⟩,  -- E_STORED (R250)
   ⟨0x2500, 1, 10, 10, 2, .ro, .observe, 0, .any⟩,  -- UNSHED (R250)
   ⟨0x2500, 1, 11, 11, 2, .ro, .observe, 0, .any⟩,  -- CAP_EFFECTIVE (R250)
   ⟨0x2500, 1, 12, 12, 2, .ro, .observe, 0, .any⟩,  -- CAP_STAGE (R250)
   ⟨0x2500, 1, 13, 13, 2, .ro, .observe, 0, .any⟩,  -- PAUSE_DUTY (R250)
   ⟨0x2500, 1, 14, 14, 10, .ro, .observe, 0x42C80000, .any⟩,  -- TAP_LIMIT (R250)
   ⟨0x2500, 1, 15, 15, 10, .ro, .observe, 0, .any⟩,  -- HOLDUP_TIME (R250)
   ⟨0x2500, 1, 16, 16, 4, .w1c, .operate, 0, .any⟩,  -- STICKY (R250)
   ⟨0x2501, 1, 1, 1, 2, .wo, .operate, 0, .nat 0 1⟩,  -- XFER_CMD (R250)
   ⟨0x2501, 1, 2, 2, 10, .rw, .operate, 0x41200000, .f32 0x3F800000 0x42200000⟩,  -- T_XFER (R250)
   ⟨0x2501, 1, 3, 3, 10, .rw, .operate, 0x42700000, .f32 0x3F800000 0x45610000⟩,  -- T_RESYNC (R250)
   ⟨0x2501, 1, 4, 4, 2, .rw, .operate, 0, .nat 0 1⟩,  -- PREFERRED_FEED (R250)
   ⟨0x2502, 1, 1, 1, 2, .rw, .operate, 0, .nat 0 2⟩,  -- SHARE_MODE (R250)
   ⟨0x2502, 1, 2, 2, 10, .rw, .operate, 0x420C0000, .f32 0x41200000 0x42C80000⟩,  -- SHED_HEADROOM (R250)
   ⟨0x2502, 1, 3, 3, 3, .rw, .operate, 0x1E0, .nat 1 65535⟩,  -- SHED_HOLD (R250)
   ⟨0x2502, 1, 4, 4, 10, .rw, .operate, 0x41A00000, .f32 0x40A00000 0x42480000⟩,  -- THERM_SPAN (R250)
   ⟨0x2503, 1, 1, 1, 10, .rw, .service, 0x44480000, .f32 0x43C80000 0x44610000⟩,  -- BUS_REF (R250)
   ⟨0x2503, 1, 2, 2, 10, .rw, .service, 0x442F0000, .f32 0x43960000 0x4455C000⟩,  -- BUS_UV (R250)
   ⟨0x2503, 1, 3, 3, 10, .rw, .service, 0x40000000, .f32 0 0x7F7FFFFF⟩,  -- LINING (R250)
   ⟨0x2503, 1, 4, 4, 10, .rw, .service, 0x3F000000, .f32 0 0x7F7FFFFF⟩,  -- E_PFW (R250)
   ⟨0x2504, 1, 1, 1, 1, .rw, .operate, 1, .any⟩,  -- SMOOTH_EN (R250)
   ⟨0x2504, 1, 2, 2, 10, .rw, .operate, 0x42480000, .f32 0x3F800000 0x461C4000⟩,  -- SMOOTH_RATE (R250)
   ⟨0x2504, 1, 3, 3, 10, .rw, .operate, 0x42B40000, .f32 0x42480000 0x42C80000⟩,  -- SMOOTH_TOP (R250)
   ⟨0x2505, 1, 1, 1, 10, .rw, .operate, 0x44BB8000, .f32 0x41200000 0x44BB8000⟩,  -- P_CAP (R250)
   ⟨0x2505, 1, 2, 2, 10, .rw, .operate, 0x44BB8000, .f32 0x41200000 0x44BB8000⟩,  -- P_CAP_ALT (R250)
   ⟨0x2505, 1, 3, 3, 2, .rw, .operate, 0, .nat 0 1⟩,  -- CAP_SELECT (R250)
   ⟨0x2505, 1, 4, 4, 3, .rw, .operate, 0x400, .nat 64 65535⟩,  -- THR_SLOT (R250)
   ⟨0x2505, 1, 5, 5, 2, .rw, .operate, 12, .nat 0 16⟩,  -- THR_MAX (R250)
   ⟨0x2505, 1, 6, 6, 10, .rw, .operate, 0x40A00000, .f32 0x3DCCCCCD 0x44160000⟩,  -- T_CAP_HARD (R250)
   ⟨0x2505, 1, 7, 7, 3, .rw, .operate, 0x1E0, .nat 1 65535⟩,  -- T_CAP_STEP (R250)
   ⟨0x2505, 1, 8, 8, 10, .rw, .operate, 0x42480000, .f32 0x41200000 0x42C80000⟩,  -- CAP_FLOOR (R250)
   ⟨0x2505, 1, 9, 9, 10, .rw, .operate, 0x40000000, .f32 0x3F000000 0x41A00000⟩]  -- CAP_HYST (R250)

/-- Object rows, indices 0x2400 to 0x27FF, part 2. -/
def rows2400b : List Row :=
  [⟨0x2520, 8, 1, 8, 10, .rw, .service, 0, .f32 0xFF7FFFFF 0x7F7FFFFF⟩,  -- LOSS (R250)
   ⟨0x2600, 32, 1, 1, 3, .rw, .service, 0xFFFF, .any⟩,  -- PORT (R275)
   ⟨0x2600, 32, 2, 2, 2, .rw, .service, 255, .oneOf [0, 1, 0xFF]⟩,  -- PMU_BUS (R275)
   ⟨0x2600, 32, 3, 3, 2, .rw, .service, 11, .nat 0 0x7F⟩,  -- PMU_ADDR (R275)
   ⟨0x2600, 32, 4, 4, 2, .rw, .service, 158, .any⟩,  -- ID_CMD (R275)
   ⟨0x2600, 32, 5, 5, 10, .rw, .service, 0, .f32 0x3DCCCCCD 0x447A0000⟩,  -- DESIGN_AH (R275)
   ⟨0x2600, 32, 6, 6, 10, .rw, .service, 0, .f32 0x3DCCCCCD 0x42C80000⟩,  -- E_USABLE (R275)
   ⟨0x2600, 32, 7, 7, 3, .rw, .service, 0, .nat 1 1024⟩,  -- SERIES (R275)
   ⟨0x2600, 32, 8, 8, 2, .rw, .service, 0, .nat 0 15⟩,  -- TGROUP (R275)
   ⟨0x2600, 32, 9, 9, 1, .rw, .operate, 1, .any⟩,  -- CHG_EN (R275)
   ⟨0x2600, 32, 10, 10, 1, .wo, .service, 0, .any⟩,  -- PACK_RESET (R275)
   ⟨0x2600, 32, 16, 16, 10, .ro, .observe, 0x42480000, .any⟩,  -- SOC (R275)
   ⟨0x2600, 32, 17, 17, 2, .ro, .observe, 0, .any⟩,  -- SOC_CONF (R275)
   ⟨0x2600, 32, 18, 18, 10, .ro, .observe, 0, .any⟩,  -- E_STORED (R275)
   ⟨0x2600, 32, 19, 19, 10, .ro, .observe, 0, .any⟩,  -- CAP_LEARNED (R275)
   ⟨0x2600, 32, 20, 20, 10, .ro, .observe, 0x42C80000, .any⟩,  -- SOH (R275)
   ⟨0x2600, 32, 21, 21, 10, .ro, .observe, 0, .any⟩,  -- IMPEDANCE (R275)
   ⟨0x2600, 32, 22, 22, 11, .ro, .observe, 0, .any⟩,  -- PACK_ID (R275)
   ⟨0x2600, 32, 23, 23, 2, .ro, .observe, 0, .any⟩,  -- ID_STATE (R275)
   ⟨0x2600, 32, 24, 24, 2, .ro, .observe, 0, .any⟩,  -- CHG_STATE (R275)
   ⟨0x2600, 32, 25, 25, 10, .ro, .observe, 0, .any⟩,  -- T_PACK (R275)
   ⟨0x2600, 32, 26, 26, 1, .ro, .observe, 0, .any⟩,  -- LEARN_OPEN (R275)
   ⟨0x2600, 32, 27, 27, 10, .ro, .observe, 0, .any⟩,  -- REST_TIME (R275)
   ⟨0x2600, 32, 28, 28, 4, .w1c, .operate, 0, .any⟩,  -- STICKY (R275)
   ⟨0x26F0, 1, 1, 1, 10, .rw, .operate, 0x3F000000, .f32 0x3CA3D70A 0x40000000⟩,  -- ICHG (R276)
   ⟨0x26F0, 1, 2, 2, 10, .rw, .operate, 0x40833333, .f32 0x40200000 0x408CCCCD⟩,  -- VCHG (R276)
   ⟨0x26F0, 1, 3, 3, 10, .rw, .operate, 0x3D4CCCCD, .f32 0x3C23D70A 0x3E4CCCCD⟩,  -- I_TERM (R276)
   ⟨0x26F0, 1, 4, 4, 10, .rw, .operate, 0x42BE0000, .f32 0x42480000 0x42C60000⟩,  -- RECHARGE (R276)
   ⟨0x26F0, 1, 5, 5, 10, .rw, .operate, 0x41A00000, .f32 0x3F800000 0x42700000⟩,  -- T_ON (R276)
   ⟨0x26F0, 1, 6, 6, 10, .rw, .operate, 0x40000000, .f32 0x3F000000 0x41200000⟩,  -- T_REST (R276)
   ⟨0x26F0, 1, 7, 7, 10, .rw, .service, 0, .f32 0xC1A00000 0x41A00000⟩,  -- T_CHG_MIN (R276)
   ⟨0x26F0, 1, 8, 8, 10, .rw, .service, 0x42340000, .f32 0x41F00000 0x42700000⟩,  -- T_CHG_MAX (R276)
   ⟨0x26F0, 1, 9, 9, 10, .rw, .service, 0x42700000, .f32 0x41200000 0x45610000⟩,  -- T_CWD (R276)
   ⟨0x26F0, 1, 10, 10, 10, .rw, .service, 0x3DCCCCCD, .f32 0x3CA3D70A 0x3F000000⟩,  -- SAFE_ICHG (R276)
   ⟨0x26F0, 1, 11, 11, 10, .rw, .service, 0x407CCCCD, .f32 0x40200000 0x408CCCCD⟩,  -- SAFE_VCHG (R276)
   ⟨0x26F0, 1, 12, 12, 1, .wo, .operate, 0, .any⟩,  -- CWD_KICK (R276)
   ⟨0x26F0, 1, 13, 13, 2, .ro, .observe, 0, .any⟩,  -- CWD_STATE (R276)
   ⟨0x26F0, 1, 14, 14, 10, .rw, .service, 0x4039999A, .f32 0x40000000 0x40800000⟩,  -- DIS_VMIN (R276)
   ⟨0x26F0, 1, 15, 15, 1, .wo, .service, 0, .any⟩,  -- SHIP_CMD (R276)
   ⟨0x26F0, 1, 16, 16, 2, .ro, .observe, 0, .any⟩]  -- SHIP_STATE (R276)

/-- Object rows, indices 0x2400 to 0x27FF, part 3. -/
def rows2400c : List Row :=
  [⟨0x26F0, 1, 17, 17, 10, .ro, .observe, 0, .any⟩,  -- BUS_VALID_TIME (R276)
   ⟨0x26F0, 1, 18, 18, 10, .rw, .service, 0x40000000, .f32 0 0x41200000⟩,  -- SELF_DIS (R276)
   ⟨0x26F0, 1, 19, 19, 2, .rw, .service, 7, .any⟩,  -- WAKE_MASK (R276)
   ⟨0x26F0, 1, 20, 20, 4, .w1c, .operate, 0, .any⟩,  -- STICKY (R276)
   ⟨0x26F1, 1, 1, 11, 10, .rw, .service, 0, .any⟩,  -- OCV (R276)
   ⟨0x2400, 256, 1, 1, 2, .rw, .operate, 0, .nat 0 2⟩,  -- ACTION (R301)
   ⟨0x2400, 256, 2, 2, 3, .rw, .operate, 0, .nat 0 0x11F⟩,  -- TARGET (R301)
   ⟨0x2400, 256, 3, 6, 3, .rw, .operate, 0xFFFF, .any⟩,  -- ON_DELAY, RAMP_UP, OFF_DELAY, RAMP_DOWN (R301)
   ⟨0x2400, 256, 7, 7, 3, .rw, .operate, 0x400, .nat 1 65535⟩,  -- PG_HOLD (R301)
   ⟨0x2400, 256, 8, 8, 3, .rw, .operate, 0x200, .nat 1 65535⟩,  -- TIMEOUT (R301)
   ⟨0x2400, 256, 9, 9, 2, .rw, .operate, 0, .nat 0 1⟩,  -- ADVANCE (R301)
   ⟨0x2400, 256, 10, 10, 3, .rw, .operate, 0, .nat 0 65535⟩,  -- NEXT_DELAY (R301)
   ⟨0x2400, 256, 11, 11, 2, .rw, .operate, 0, .nat 0 1⟩,  -- ON_FAULT (R301)
   ⟨0x2400, 256, 12, 12, 2, .ro, .observe, 0, .any⟩,  -- STEP_STATE (R301)
   ⟨0x2700, 1, 1, 1, 10, .ro, .observe, 0, .any⟩,  -- DIE_MAX (R302)
   ⟨0x2700, 1, 2, 9, 10, .ro, .observe, 0, .any⟩,  -- DIE_T (R302)
   ⟨0x2700, 1, 10, 10, 10, .rw, .service, 0x42D20000, .f32 0x42A00000 0x42F00000⟩,  -- DIE_WARN (R302)
   ⟨0x2700, 1, 11, 11, 10, .rw, .service, 0x42E60000, .f32 0x42B40000 0x42FA0000⟩,  -- DIE_CRIT (R302)
   ⟨0x2700, 1, 12, 12, 10, .rw, .service, 0x41200000, .f32 0x40000000 0x41F00000⟩,  -- DIE_HYST (R302)
   ⟨0x2700, 1, 13, 13, 3, .rw, .operate, 0x1E0, .nat 16 4096⟩,  -- RATE_WINDOW (R302)
   ⟨0x2700, 1, 14, 14, 3, .ro, .observe, 0, .any⟩]  -- DERATED (R302)

/-- Object rows, indices 0x2400 to 0x27FF. -/
def rows2400 : List Row := rows2400a ++ rows2400b ++ rows2400c

/-- Object rows, indices 0x2800 to 0x2FFF, part 1. -/
def rows2800a : List Row :=
  [⟨0x2800, 1, 1, 1, 4, .ro, .observe, 0, .any⟩,  -- NEWEST_SEQ (R378)
   ⟨0x2800, 1, 2, 2, 4, .ro, .observe, 0, .any⟩,  -- OLDEST_SEQ (R378)
   ⟨0x2800, 1, 3, 3, 4, .ro, .observe, 0, .any⟩,  -- HEAD_OFFSET (R378)
   ⟨0x2800, 1, 4, 4, 5, .ro, .observe, 0, .any⟩,  -- RECORDS_LOST (R378)
   ⟨0x2800, 1, 5, 5, 5, .ro, .observe, 0, .any⟩,  -- SUPPRESSED_TOTAL (R378)
   ⟨0x2800, 1, 6, 6, 3, .ro, .observe, 0, .any⟩,  -- LIMITERS_BOUND (R378)
   ⟨0x2800, 1, 7, 7, 4, .rw, .observe, 0xFFFFFFFF, .any⟩,  -- LOCATE (R378)
   ⟨0x2800, 1, 8, 8, 3, .rw, .operate, 10, .nat 1 1000⟩,  -- RATE (R378)
   ⟨0x2800, 1, 9, 9, 3, .rw, .operate, 32, .nat 1 1024⟩,  -- BURST (R378)
   ⟨0x2800, 1, 10, 10, 3, .rw, .operate, 50, .nat 1 1000⟩,  -- OVF_RATE (R378)
   ⟨0x2800, 1, 11, 11, 3, .rw, .operate, 64, .nat 1 1024⟩,  -- OVF_BURST (R378)
   ⟨0x2800, 1, 12, 12, 4, .w1c, .operate, 0, .any⟩,  -- STICKY (R378)
   ⟨0x2800, 1, 13, 13, 3, .ro, .observe, 0, .any⟩,  -- FLUSH_TIME (R378)
   ⟨0x2800, 1, 14, 14, 4, .ro, .observe, 0, .any⟩,  -- BUFFER_FILL (R378)
   ⟨0x2801, 1, 1, 1, 12, .ro, .observe, 0, .any⟩,  -- RING (R378)
   ⟨0x2801, 1, 2, 2, 12, .ro, .observe, 0, .any⟩,  -- CATALOGUE (R378)
   ⟨0x2810, 1, 1, 1, 2, .ro, .observe, 0, .any⟩,  -- TRACE_STATE (R378)
   ⟨0x2810, 1, 2, 2, 3, .rw, .operate, 128, .oneOf [64, 128, 256, 512]⟩,  -- TRACE_LEN (R378)
   ⟨0x2810, 1, 3, 3, 3, .rw, .operate, 32, .nat 0 511⟩,  -- TRACE_POST (R378)
   ⟨0x2810, 1, 4, 4, 2, .rw, .operate, 31, .any⟩,  -- TRIG_MASK (R378)
   ⟨0x2810, 1, 5, 5, 1, .wo, .operate, 0, .any⟩,  -- TRACE_NOW (R378)
   ⟨0x2810, 1, 6, 6, 1, .rw, .operate, 1, .any⟩,  -- OVERWRITE (R378)
   ⟨0x2810, 1, 7, 7, 2, .ro, .observe, 0, .any⟩,  -- SLOTS_USED (R378)
   ⟨0x2810, 1, 8, 8, 2, .wo, .operate, 0, .nat 0 7⟩,  -- RELEASE (R378)
   ⟨0x2810, 1, 9, 9, 4, .ro, .observe, 0, .any⟩,  -- TRACE_MISSED_COUNT (R378)
   ⟨0x2811, 1, 1, 8, 12, .ro, .observe, 0, .any⟩,  -- SLOT (R378)
   ⟨0x2820, 1, 1, 1, 1, .wo, .service, 0, .any⟩,  -- FREEZE (R378)
   ⟨0x2820, 1, 2, 2, 4, .ro, .observe, 0, .any⟩,  -- FROZEN_ROUND (R378)
   ⟨0x2900, 16, 1, 1, 4, .rw, .service, 0x600000, .any⟩,  -- CTRL (R389)
   ⟨0x2900, 16, 2, 2, 4, .rw, .service, 0x1F40190, .any⟩,  -- SCL_TIMING (R389)
   ⟨0x2900, 16, 3, 3, 4, .rw, .service, 0x32001E, .any⟩,  -- DATA_TIMING (R389)
   ⟨0x2900, 16, 4, 4, 4, .w1c, .operate, 0x300, .any⟩,  -- STATUS (R389)
   ⟨0x2900, 16, 5, 5, 3, .rw, .service, 250, .nat 10 4095⟩,  -- COMPAT_DIV (R389)
   ⟨0x2900, 16, 16, 16, 12, .wo, .operate, 0, .any⟩,  -- XFER (R389)
   ⟨0x2900, 16, 17, 17, 12, .ro, .observe, 0, .any⟩,  -- RESULT (R389)
   ⟨0x2900, 16, 18, 18, 4, .ro, .observe, 0, .any⟩,  -- XFER_COUNT (R389)
   ⟨0x2940, 64, 1, 1, 4, .rw, .operate, 0, .any⟩,  -- CTRL (R398)
   ⟨0x2940, 64, 2, 2, 4, .rw, .operate, 0, .any⟩,  -- COUNT (R398)
   ⟨0x2940, 64, 3, 3, 4, .rw, .operate, 0xFFFFFFFF, .any⟩,  -- PERIOD (R398)
   ⟨0x2940, 64, 4, 4, 4, .rw, .operate, 0, .any⟩]  -- COMPARE (R398)

/-- Object rows, indices 0x2800 to 0x2FFF, part 2. -/
def rows2800b : List Row :=
  [⟨0x2940, 64, 5, 5, 4, .w1c, .operate, 0, .any⟩,  -- STATUS (R398)
   ⟨0x2940, 64, 6, 6, 4, .ro, .observe, 0, .any⟩,  -- CAPTURE (R398)
   ⟨0x2940, 64, 7, 7, 5, .ro, .observe, 0, .any⟩,  -- SNAP (R398)
   ⟨0x2940, 64, 8, 8, 5, .ro, .observe, 0, .any⟩,  -- COUNT64 (R398)
   ⟨0x2940, 64, 9, 9, 4, .ro, .observe, 0, .any⟩,  -- LATCHED (R398)
   ⟨0x2980, 16, 1, 1, 7, .ro, .observe, 0, .any⟩,  -- SAMPLE (R401)
   ⟨0x2980, 16, 2, 2, 10, .rw, .service, 0x3819999A, .any⟩,  -- SCALE (R401)
   ⟨0x2980, 16, 3, 3, 4, .w1c, .operate, 0, .any⟩,  -- STICKY (R401)
   ⟨0x2980, 16, 4, 4, 4, .ro, .observe, 0, .any⟩,  -- OVR_COUNT (R401)
   ⟨0x29C0, 1, 1, 1, 4, .rw, .operate, 0, .any⟩,  -- DIR_LO, DIR_HI (R405)
   ⟨0x29C0, 1, 2, 2, 4, .rw, .operate, 0, .any⟩,  -- DIR_LO, DIR_HI (R405)
   ⟨0x29C0, 1, 3, 3, 4, .rw, .operate, 0, .any⟩,  -- OUT_LO, OUT_HI (R405)
   ⟨0x29C0, 1, 4, 4, 4, .rw, .operate, 0, .any⟩,  -- OUT_LO, OUT_HI (R405)
   ⟨0x29C0, 1, 5, 5, 4, .ro, .observe, 0, .any⟩,  -- IN_LO, IN_HI (R405)
   ⟨0x29C0, 1, 6, 6, 4, .ro, .observe, 0, .any⟩,  -- IN_LO, IN_HI (R405)
   ⟨0x29C0, 1, 7, 12, 4, .rw, .service, 0, .any⟩,  -- FUNC (R405)
   ⟨0x29C0, 1, 13, 13, 4, .wo, .operate, 0, .any⟩,  -- SET_LO, SET_HI (R405)
   ⟨0x29C0, 1, 14, 14, 4, .wo, .operate, 0, .any⟩,  -- SET_LO, SET_HI (R405)
   ⟨0x29C0, 1, 15, 15, 4, .wo, .operate, 0, .any⟩,  -- CLR_LO, CLR_HI (R405)
   ⟨0x29C0, 1, 16, 16, 4, .wo, .operate, 0, .any⟩]  -- CLR_LO, CLR_HI (R405)

/-- Object rows, indices 0x2800 to 0x2FFF. -/
def rows2800 : List Row := rows2800a ++ rows2800b

/-- Object rows, the objects of a port at 0x3000. -/
def rows3000 : List Row :=
  [⟨0x3000, 256, 1, 1, 2, .ro, .observe, 0, .any⟩,  -- PORT_STATE (R187)
   ⟨0x3000, 256, 2, 2, 2, .ro, .observe, 0, .any⟩,  -- CLASS (R187)
   ⟨0x3000, 256, 4, 4, 4, .w1c, .operate, 0, .any⟩,  -- STICKY (R187)
   ⟨0x3000, 256, 32, 32, 5, .ro, .observe, 0, .any⟩,  -- UID (R187)
   ⟨0x3000, 256, 33, 33, 4, .ro, .observe, 0, .any⟩,  -- FE_FW_VERSION (R187)
   ⟨0x3000, 256, 34, 34, 3, .ro, .observe, 0, .any⟩,  -- FE_HW_VERSION (R187)
   ⟨0x3000, 256, 35, 35, 3, .ro, .observe, 0, .any⟩,  -- LOOP_DELAY (R187)
   ⟨0x3000, 256, 36, 36, 5, .ro, .observe, 0, .any⟩,  -- FRAMES_OK (R187)
   ⟨0x3000, 256, 37, 37, 5, .ro, .observe, 0, .any⟩,  -- FRAMES_BAD (R187)
   ⟨0x3000, 256, 38, 38, 5, .ro, .observe, 0, .any⟩,  -- FRAMES_MISSING (R187)
   ⟨0x3000, 256, 39, 39, 3, .ro, .observe, 0, .any⟩,  -- MISSED_MAX (R187)
   ⟨0x3000, 256, 40, 40, 2, .ro, .observe, 0, .any⟩,  -- OBEYS (R187)
   ⟨0x3000, 256, 41, 41, 4, .ro, .observe, 0, .any⟩,  -- MBX_RESENT (R187)
   ⟨0x3000, 256, 48, 63, 3, .ro, .observe, 0, .any⟩,  -- QUEUE_FILL (R187)
   ⟨0x3000, 256, 3, 3, 2, .ro, .observe, 0, .any⟩,  -- TRIP_REASON (R222)
   ⟨0x3000, 256, 5, 5, 3, .ro, .observe, 0, .any⟩,  -- LIVE (R222)
   ⟨0x3000, 256, 6, 6, 10, .ro, .observe, 0, .any⟩,  -- CURRENT (R222)
   ⟨0x3000, 256, 7, 7, 10, .ro, .observe, 0, .any⟩,  -- VOLTAGE (R222)
   ⟨0x3000, 256, 8, 8, 10, .ro, .observe, 0, .any⟩,  -- POWER (R222)
   ⟨0x3000, 256, 9, 9, 5, .ro, .observe, 0, .any⟩,  -- ENERGY_FWD (R222)
   ⟨0x3000, 256, 10, 10, 5, .ro, .observe, 0, .any⟩,  -- ENERGY_REV (R222)
   ⟨0x3000, 256, 11, 11, 10, .ro, .observe, 0, .any⟩,  -- OVL_HEAT (R222)
   ⟨0x3000, 256, 12, 12, 2, .ro, .observe, 0, .any⟩,  -- INS_STAGE (R222)
   ⟨0x3000, 256, 17, 17, 4, .ro, .observe, 0, .any⟩,  -- SNAP_ROUND (R222)
   ⟨0x3000, 256, 18, 20, 10, .ro, .observe, 0, .any⟩,  -- SNAP_CURRENT, SNAP_VOLTAGE, SNAP_POWER (R222)
   ⟨0x3000, 256, 21, 21, 5, .ro, .observe, 0, .any⟩,  -- SNAP_E_FWD, SNAP_E_REV (R222)
   ⟨0x3000, 256, 22, 22, 5, .ro, .observe, 0, .any⟩,  -- SNAP_E_FWD, SNAP_E_REV (R222)
   ⟨0x3000, 256, 23, 23, 4, .ro, .observe, 0, .any⟩,  -- SNAP_COUNT (R222)
   ⟨0x3000, 256, 24, 24, 4, .ro, .observe, 0, .any⟩,  -- FE_STATUS (R222)
   ⟨0x3000, 256, 64, 64, 10, .ro, .observe, 0, .any⟩,  -- T_MAX (R302)
   ⟨0x3000, 256, 65, 65, 10, .ro, .observe, 0, .any⟩,  -- T_RATE (R302)
   ⟨0x3000, 256, 66, 66, 10, .ro, .observe, 0, .any⟩,  -- HEADROOM (R302)
   ⟨0x3000, 256, 67, 67, 2, .ro, .observe, 0, .any⟩,  -- DERATE (R302)
   ⟨0x3000, 256, 68, 68, 4, .w1c, .operate, 0, .any⟩]  -- THERM_STICKY (R302)

/-- Object rows, the objects of a port at 0x3100, part 1. -/
def rows3100a : List Row :=
  [⟨0x3100, 256, 32, 32, 1, .rw, .service, 1, .any⟩,  -- ENABLE (R187)
   ⟨0x3100, 256, 33, 33, 3, .rw, .operate, 32, .nat 0 4096⟩,  -- COAST_ROUNDS (R187)
   ⟨0x3100, 256, 34, 34, 5, .rw, .service, 0, .any⟩,  -- EXPECT_UID (R187)
   ⟨0x3100, 256, 35, 35, 2, .rw, .service, 1, .nat 0 2⟩,  -- FW_POLICY (R187)
   ⟨0x3100, 256, 36, 36, 2, .rw, .operate, 0, .any⟩,  -- TELEM_MASK (R187)
   ⟨0x3100, 256, 1, 1, 2, .wo, .operate, 0, .nat 1 2⟩,  -- PORT_CMD (R221)
   ⟨0x3100, 256, 2, 2, 3, .rw, .operate, 0, .any⟩,  -- ON_DELAY (R221)
   ⟨0x3100, 256, 3, 3, 3, .rw, .operate, 0x400, .any⟩,  -- RAMP_UP (R221)
   ⟨0x3100, 256, 4, 4, 3, .rw, .operate, 0, .any⟩,  -- OFF_DELAY (R221)
   ⟨0x3100, 256, 5, 5, 3, .rw, .operate, 0x400, .any⟩,  -- RAMP_DOWN (R221)
   ⟨0x3100, 256, 6, 6, 10, .rw, .operate, 0, .f32 0 0x447A0000⟩,  -- SETPOINT (R221)
   ⟨0x3100, 256, 7, 7, 10, .rw, .service, 0, .f32 0 0x447A0000⟩,  -- RATING (R221)
   ⟨0x3100, 256, 8, 8, 2, .rw, .service, 0, .nat 0 15⟩,  -- CURVE (R221)
   ⟨0x3100, 256, 9, 9, 10, .rw, .service, 0, .f32 0 0x44FA0000⟩,  -- FAST_LIMIT (R221)
   ⟨0x3100, 256, 10, 10, 2, .rw, .service, 0, .nat 0 1⟩,  -- FAST_MODE (R221)
   ⟨0x3100, 256, 11, 11, 10, .rw, .service, 0x42700000, .f32 0x3F800000 0x42C80000⟩,  -- OV_LEVEL (R221)
   ⟨0x3100, 256, 12, 12, 10, .rw, .service, 0x41200000, .f32 0 0x42C80000⟩,  -- OV_RELEASE (R221)
   ⟨0x3100, 256, 13, 13, 3, .rw, .operate, 0x800, .nat 1 65535⟩,  -- SAT_TIME (R221)
   ⟨0x3100, 256, 14, 14, 2, .rw, .operate, 0, .nat 0 1⟩,  -- SAT_POLICY (R221)
   ⟨0x3100, 256, 15, 15, 10, .rw, .operate, 0x42960000, .f32 0x41200000 0x42BE0000⟩,  -- SAT_REDUCE (R221)
   ⟨0x3100, 256, 16, 16, 6, .rw, .service, 0, .int (-20) 20⟩,  -- MARGIN (R221)
   ⟨0x3100, 256, 17, 17, 10, .rw, .operate, 0x42BE0000, .f32 0x42480000 0x42C60000⟩,  -- PG_LOW (R221)
   ⟨0x3100, 256, 18, 18, 10, .rw, .operate, 0x42D20000, .f32 0x42CA0000 0x43160000⟩,  -- PG_HIGH (R221)
   ⟨0x3100, 256, 19, 19, 1, .rw, .operate, 1, .any⟩,  -- INS_AUTO (R221)
   ⟨0x3100, 256, 20, 20, 10, .rw, .service, 0x44340000, .f32 0x3F800000 0x447A0000⟩,  -- INS_UV (R221)
   ⟨0x3100, 256, 21, 21, 10, .rw, .service, 0x445C0000, .f32 0x3F800000 0x447A0000⟩,  -- INS_OV (R221)
   ⟨0x3100, 256, 22, 22, 3, .rw, .operate, 0x400, .nat 1 65535⟩,  -- INS_DEBOUNCE (R221)
   ⟨0x3100, 256, 23, 23, 3, .rw, .operate, 240, .nat 0 65535⟩,  -- INS_DELAY (R221)
   ⟨0x3100, 256, 24, 24, 10, .rw, .service, 0x42200000, .f32 0x3F800000 0x447A0000⟩,  -- INRUSH_DVDT (R221)
   ⟨0x3100, 256, 25, 25, 10, .rw, .service, 0x44FA0000, .f32 0x42C80000 0x469C4000⟩,  -- INRUSH_PMAX (R221)
   ⟨0x3100, 256, 26, 26, 3, .rw, .service, 0xC000, .nat 1024 65535⟩,  -- INRUSH_TIMEOUT (R221)
   ⟨0x3100, 256, 27, 27, 1, .wo, .operate, 0, .any⟩,  -- SNAP (R221)
   ⟨0x3100, 256, 28, 28, 10, .rw, .service, 0x42700000, .f32 0x3F800000 0x447A0000⟩,  -- AUX_OV_LIMIT (R221)
   ⟨0x3100, 256, 48, 59, 10, .rw, .service, 0x3F800000, .any⟩,  -- SCALE (R221)
   ⟨0x3100, 256, 60, 60, 2, .rw, .service, 0, .nat 0 7⟩,  -- LOSS_TABLE (R250)
   ⟨0x3100, 256, 64, 64, 10, .rw, .operate, 0x42B40000, .f32 0x41A00000 0x43160000⟩,  -- T_WARN (R302)
   ⟨0x3100, 256, 65, 65, 10, .rw, .operate, 0x42D20000, .f32 0x41A00000 0x43200000⟩,  -- T_TRIP (R302)
   ⟨0x3100, 256, 66, 66, 10, .rw, .operate, 0x40A00000, .f32 0x3F800000 0x41A00000⟩,  -- T_HYST (R302)
   ⟨0x3100, 256, 67, 67, 10, .rw, .operate, 0x3F800000, .f32 0x3DCCCCCD 0x41A00000⟩,  -- RATE_LIMIT (R302)
   ⟨0x3100, 256, 68, 68, 3, .rw, .operate, 0x1E0, .nat 1 65535⟩]  -- T_STEP (R302)

/-- Object rows, the objects of a port at 0x3100, part 2. -/
def rows3100b : List Row :=
  [⟨0x3100, 256, 69, 69, 10, .rw, .operate, 0x41C80000, .f32 0 0x42C80000⟩,  -- DERATE_FLOOR (R302)
   ⟨0x3100, 256, 0x25, 0x25, 3, .rw, .operate, 63, .any⟩]  -- TRACE_SEL (R372)

/-- Object rows, the objects of a port at 0x3100. -/
def rows3100 : List Row := rows3100a ++ rows3100b

/-- Object rows, indices from 0x3200. -/
def rows3200 : List Row :=
  [⟨0x3200, 32, 1, 8, 4, .rw, .operate, 0, .any⟩,  -- MEMBERS (R27)
   ⟨0x3200, 32, 9, 9, 3, .ro, .observe, 0, .any⟩,  -- COUNT (R27)
   ⟨0x3200, 32, 10, 10, 1, .ro, .observe, 0, .any⟩,  -- PENDING (R27)
   ⟨0x3200, 32, 11, 11, 11, .rw, .operate, 0, .any⟩,  -- LABEL (R27)
   ⟨0x3500, 16, 1, 1, 2, .rw, .service, 0, .any⟩,  -- COUNT (R204)
   ⟨0x3500, 16, 2, 9, 10, .rw, .service, 0, .any⟩,  -- M1–M8 (R204)
   ⟨0x3500, 16, 10, 17, 10, .rw, .service, 0, .any⟩,  -- T1–T8 (R204)
   ⟨0x3500, 16, 18, 18, 10, .rw, .service, 0x43960000, .any⟩,  -- COOL (R204)
   ⟨0x3500, 16, 19, 19, 1, .wo, .service, 0, .any⟩,  -- APPLY (R204)
   ⟨0x3400, 32, 1, 8, 4, .ro, .observe, 0, .any⟩,  -- WRITTEN (R344)
   ⟨0x3400, 32, 9, 16, 4, .ro, .observe, 0, .any⟩,  -- LATE_FAIL (R344)
   ⟨0x3400, 32, 17, 17, 3, .ro, .observe, 0xFFFF, .any⟩,  -- FIRST_FAIL_PORT (R344)
   ⟨0x3400, 32, 18, 18, 3, .ro, .observe, 0, .any⟩,  -- FIRST_FAIL_STATUS (R344)
   ⟨0x3400, 32, 19, 19, 4, .ro, .observe, 0, .any⟩,  -- APPLY_SEAM (R344)
   ⟨0x3400, 32, 20, 20, 2, .ro, .observe, 0, .any⟩,  -- TARGET_SUB (R344)
   ⟨0x6000, 32, 1, 1, 12, .ro, .observe, 0, .any⟩,  -- BINS (R378)
   ⟨0x6000, 32, 2, 2, 12, .ro, .observe, 0, .any⟩,  -- EXTREMES (R378)
   ⟨0x6000, 32, 3, 3, 12, .ro, .observe, 0, .any⟩,  -- INVALID (R378)
   ⟨0x6040, 32, 1, 10, 5, .ro, .observe, 0, .any⟩,  -- SOC_BIN (R378)
   ⟨0x6080, 1, 1, 1, 4, .ro, .observe, 0, .any⟩,  -- GENERATION (R378)
   ⟨0x6080, 1, 2, 2, 4, .ro, .observe, 0, .any⟩,  -- FOLD_HOURS (R378)
   ⟨0x6080, 1, 3, 3, 1, .wo, .operate, 0, .any⟩,  -- FOLD (R378)
   ⟨0x6080, 1, 4, 4, 4, .ro, .observe, 0, .any⟩]  -- GAP_S (R378)
/-- The rows among which an index lies. -/
def rowsOf (index : Nat) : List Row :=
  if index < 0x2000 then rows1000 else if index < 0x2400 then rows2000 else if index < 0x2800 then rows2400
  else if index < 0x3000 then rows2800 else if index < 0x3100 then rows3000 else if index < 0x3200 then rows3100
  else rows3200

/-- The index at which an object is described: 0x34FF has the objects of 0x3400 + g (R344). -/
def homeIndex (index : Nat) : Nat := if index = 0x34FF then 0x3400 else index

/-- The row of an object (R326), if it exists. Exported parameters and group images have none. -/
def rowOf (index sub : Nat) : Option Row :=
  (rowsOf index).find? fun r =>
    r.base ≤ homeIndex index && homeIndex index < r.base + r.count && r.subLo ≤ sub && sub ≤ r.subHi

/-- The index exists in the catalogue. -/
def indexKnown (index : Nat) : Bool :=
  (rowsOf index).any fun r => r.base ≤ homeIndex index && homeIndex index < r.base + r.count

/-- Defaults that differ within a row: curve 0 (R204), loss tables (R250) and the cell table (R276). -/
def specialDefault (index sub : Nat) : Option Nat :=
  if index = 0x3500 ∧ 1 ≤ sub ∧ sub ≤ 0x11 then
    [6, 0x3F8CCCCD, 0x3FA00000, 0x3FC00000, 0x40000000, 0x40400000, 0x40A00000, 0, 0,
     0x44160000, 0x42700000, 0x41200000, 0x3F800000, 0x3DCCCCCD, 0x3C23D70A, 0, 0][sub - 1]?
  else if 0x2520 ≤ index ∧ index < 0x2528 ∧ 1 ≤ sub then
    [0x40800000, 0x404CCCCD, 0x4039999A, 0x40333333, 0x40333333, 0x4039999A, 0x40400000, 0x404CCCCD][sub - 1]?
  else if index = 0x26F1 ∧ 1 ≤ sub then
    [0x40400000, 0x405CCCCD, 0x40633333, 0x4067AE14, 0x406AE148, 0x406EB852, 0x40733333, 0x407851EC,
     0x407D70A4, 0x4081999A, 0x4084CCCD][sub - 1]?
  else none

/-- The default of an object (raw value). -/
def objDefault (index sub : Nat) : Nat :=
  match specialDefault index sub with
  | some v => v
  | none => ((rowOf index sub).map (·.dflt)).getD 0

/-- Key of an object in the tables. -/
def okey (index sub : Nat) : Nat := index * 256 + sub

/-- The stage class the running pattern declares for a port; 0 where it serves none (R122). -/
def declClass (s : State) (n : Nat) : Nat :=
  ((s.pat.run.portMap.find? fun e => e.1 == n).map fun e => e.2.cls.toNat).getD 0

/-- Default scales of the sample assignment table (R192), as FP32 words. -/
def scaleDefault (cls i : Nat) : Nat :=
  let a := 0x3BA3D70A   -- 0.005
  let v := 0x3D4CCCCD   -- 0.05
  let u := 0x3CA3D70A   -- 0.02
  let c := 0x3C23D70A   -- 0.01
  let m := 0x3B03126F   -- 0.002
  let one := 0x3F800000
  let row := match cls with
    | 1 => [a, a, a, u, u, u, v]
    | 2 => [a, v, v, a]
    | 3 => [a, v, a, v]
    | 4 => [a, v, v, one]
    | 5 => [a, v, c, m]
    | 6 => [a, v, a, m]
    | _ => []
  (row[i]?).getD one

/-- The default of an object in this state: SCALE and FAST_MODE of a port depend on its declared class. -/
def dfltOf (s : State) (index sub : Nat) : Nat :=
  if 0x3100 ≤ index ∧ index < 0x3200 ∧ 0x30 ≤ sub ∧ sub ≤ 0x3B then
    scaleDefault (declClass s (index - 0x3100)) (sub - 0x30)
  else if 0x3100 ≤ index ∧ index < 0x3200 ∧ sub = 0x0A then
    (if declClass s (index - 0x3100) = 4 then 1 else 0)
  else objDefault index sub

/-- The value in effect of a configuration object (raw). -/
def cfg (s : State) (index sub : Nat) : Nat :=
  match tfind s.cfg (okey index sub) with
  | some v => v
  | none => dfltOf s index sub

/-- A configuration value of type F32. -/
def cfgF (s : State) (index sub : Nat) : Rat := f32Val (BitVec.ofNat 32 (cfg s index sub))

/-- A port's configuration value. -/
def pcfg (s : State) (n sub : Nat) : Nat := cfg s (0x3100 + n) sub

/-- A port's configuration value of type F32. -/
def pcfgF (s : State) (n sub : Nat) : Rat := cfgF s (0x3100 + n) sub

/-- Makes a configuration value effective. -/
def setCfg (s : State) (index sub v : Nat) : State := { s with cfg := tput s.cfg (okey index sub) v }

/-- Number of a word whose bits are set, below `n`. -/
def bitsOf (w : Nat) (n : Nat) : List Nat := (List.range n).filter fun i => w.testBit i

/-- Port n is a member of group g (R25); group 32 is every port (0x33FF). -/
def isMember (s : State) (g n : Nat) : Bool :=
  if g = 32 then decide (n < 256) else (cfg s (0x3200 + g) (n / 32 + 1)).testBit (n % 32)

/-- The members of a group in port order. -/
def members (s : State) (g : Nat) : List Nat := (List.range 256).filter (isMember s g)

/-- Group of a write image: 32 for 0x33FF (R342). -/
def imageGroup (index : Nat) : Nat := if index = 0x33FF then 32 else index - 0x3300

/-- The index is a group's write image, or that of all ports. -/
def isImage (index : Nat) : Bool := (decide (0x3300 ≤ index) && decide (index < 0x3320)) || index == 0x33FF

/-- A waiting write concerns an object: it names it, or it is a group write that covers it. -/
def pendFor (s : State) (index sub : Nat) (p : PendWrite) : Bool :=
  p.sub == sub && (p.index == index || (isImage p.index && decide (0x3100 ≤ index) && decide (index < 0x3200)
    && isMember s (imageGroup p.index) (index - 0x3100)))

/-- The latest value accepted for an object (R448): one that awaits its seam, or the value in effect. -/
def latest (s : State) (index sub : Nat) : Nat :=
  match (s.net.pend.filter (pendFor s index sub)).getLast? with
  | some p => p.value
  | none => cfg s index sub

/-- The latest value accepted for an F32 object. -/
def latestF (s : State) (index sub : Nat) : Rat := f32Val (BitVec.ofNat 32 (latest s index sub))

end Sys2Proof.Machine
end

