-- ==== Sys2Proof/Machine/Ops.lean ====
section
/-! DEFINITION. The named operations over the state that every family shares: tables of parts, bytes and
memories, CRC-32, free values, records and the trace trigger, doubts, trips and port states. -/
namespace Sys2Proof.Machine

/-- What every meaning of this model answers: a next state. -/
abbrev Out := Host.Outcome State Fault Refusal

/-! ### Bits and bytes -/

/-- Word with bit i set. -/
def bitW (i : Nat) : Word := BitVec.ofNat 32 (2 ^ i)

/-- Bit i of a word. -/
def hasBit (w : Word) (i : Nat) : Bool := w.toNat.testBit i

/-- Sets bit i of a word. -/
def setBit (w : Word) (i : Nat) : Word := w ||| bitW i

/-- Sets bit i when a condition holds. -/
def setBitIf (c : Bool) (w : Word) (i : Nat) : Word := if c then setBit w i else w

/-- Clears the bits of a mask. -/
def clearBits (w m : Word) : Word := w &&& ~~~m

/-- A truth value as a number. -/
def b2n (b : Bool) : Nat := if b then 1 else 0

/-- The low `n` bytes of a number, least significant first. -/
def leBytes : Nat → Nat → List Byte
  | 0, _ => []
  | n + 1, v => BitVec.ofNat 8 v :: leBytes n (v / 256)

/-- The number that bytes spell, least significant first. -/
def leNat : List Byte → Nat
  | [] => 0
  | b :: t => b.toNat + 256 * leNat t

/-- `n` bytes of a list from offset `o`, zeros past its end. -/
def sliceB (l : List Byte) (o n : Nat) : List Byte :=
  let p := (l.drop o).take n
  p ++ List.replicate (n - p.length) 0

/-- The little-endian number at an offset. -/
def leAt (l : List Byte) (o n : Nat) : Nat := leNat (sliceB l o n)

/-- Signed reading of a 16-bit code. -/
def i16 (b : BitVec 16) : Int := b.toInt

/-- One bit of the reflected CRC-32 (R147). -/
def crcBit (c : Word) : Word := if c.toNat % 2 = 1 then (c >>> 1) ^^^ 0xEDB88320 else c >>> 1

/-- One byte into the CRC register. -/
def crcByte (c : Word) (b : Byte) : Word :=
  crcBit (crcBit (crcBit (crcBit (crcBit (crcBit (crcBit (crcBit (c ^^^ b.setWidth 32))))))))

/-- The CRC register after bytes. -/
def crcFeed (c : Word) (l : List Byte) : Word := l.foldl crcByte c

/-- CRC-32 of bytes (R147). -/
def crc32 (l : List Byte) : Word := ~~~(crcFeed 0xFFFFFFFF l)

/-- The four bytes of a word, least significant first. -/
def wordBytes (w : Word) : List Byte := leBytes 4 w.toNat

/-! ### Byte memories -/

/-- The byte at an address; an unlisted one is 0. -/
def mget (m : Mem) (a : Nat) : Byte := tget 0 m a

/-- Stores a byte, keeping the canonical form. -/
def mset (m : Mem) (a : Nat) (b : Byte) : Mem := tset 0 m a b

/-- Stores bytes from an address on. -/
def mwrite (m : Mem) (a : Nat) : List Byte → Mem
  | [] => m
  | b :: t => mwrite (mset m a b) (a + 1) t

/-- Reads `n` bytes from an address on. -/
def mread (m : Mem) (a n : Nat) : List Byte := (List.range n).map fun i => mget m (a + i)

/-- Reads a 32-bit word, least significant byte at the lowest address. -/
def mword (m : Mem) (a : Nat) : Word := BitVec.ofNat 32 (leNat (mread m a 4))

/-- Writes a 32-bit word. -/
def mputWord (m : Mem) (a : Nat) (w : Word) : Mem := mwrite m a (wordBytes w)

/-- Clears every byte of a range. -/
def mclear (m : Mem) (lo hi : Nat) : Mem := m.filter fun c => c.1 < lo || hi ≤ c.1

/-- The canonical form of a memory: addresses strictly rising and no byte equal to what an unlisted one reads. -/
def Memory.wf : Mem → Bool
  | [] => true
  | [(_, b)] => b != 0
  | (a, b) :: (c, d) :: t => decide (a < c) && (b != 0) && Memory.wf ((c, d) :: t)

/-! ### Parts held in tables -/

/-- Engine e. -/
def engine (s : State) (e : Nat) : Engine := tget {} s.arr.engines e
/-- Replaces engine e. -/
def setEngine (s : State) (e : Nat) (x : Engine) : State :=
  { s with arr := { s.arr with engines := tset {} s.arr.engines e x } }
/-- Sleeve n. -/
def sleeve (s : State) (n : Nat) : Sleeve := tget {} s.arr.sleeves n
/-- Replaces Sleeve n. -/
def setSleeve (s : State) (n : Nat) (x : Sleeve) : State :=
  { s with arr := { s.arr with sleeves := tset {} s.arr.sleeves n x } }
/-- Link side of port n. -/
def link (s : State) (n : Nat) : Link := tget {} s.links n
/-- Replaces the link side of port n. -/
def setLink (s : State) (n : Nat) (x : Link) : State := { s with links := tset {} s.links n x }
/-- Control side of port n. -/
def ctl (s : State) (n : Nat) : Ctl := tget {} s.ctls n
/-- Replaces the control side of port n. -/
def setCtl (s : State) (n : Nat) (x : Ctl) : State := { s with ctls := tset {} s.ctls n x }
/-- Far end at port n. -/
def farEnd (s : State) (n : Nat) : FarEnd := tget {} s.fes n
/-- Replaces the far end at port n. -/
def setFarEnd (s : State) (n : Nat) (x : FarEnd) : State := { s with fes := tset {} s.fes n x }
/-- Pack p. -/
def pack (s : State) (p : Nat) : Pack := tget {} s.shelf.packs p
/-- Replaces pack p. -/
def setPack (s : State) (p : Nat) (x : Pack) : State :=
  { s with shelf := { s.shelf with packs := tset {} s.shelf.packs p x } }
/-- Feed of a name. -/
def feedSt (s : State) : Feed → FeedSt
  | .A => s.feedA
  | .B => s.feedB
/-- Replaces a feed. -/
def setFeed (s : State) (f : Feed) (x : FeedSt) : State :=
  match f with
  | .A => { s with feedA := x }
  | .B => { s with feedB := x }
/-- The other feed. -/
def otherFeed : Feed → Feed
  | .A => .B
  | .B => .A
/-- Code of a feed (0x2500.02). -/
def feedCode : Option Feed → Nat
  | some .A => 0
  | some .B => 1
  | none => 0xFF
/-- Updates the link side of port n. -/
def updLink (s : State) (n : Nat) (f : Link → Link) : State := setLink s n (f (link s n))
/-- Updates the control side of port n. -/
def updCtl (s : State) (n : Nat) (f : Ctl → Ctl) : State := setCtl s n (f (ctl s n))
/-- Updates Sleeve n. -/
def updSleeve (s : State) (n : Nat) (f : Sleeve → Sleeve) : State := setSleeve s n (f (sleeve s n))
/-- Updates engine e. -/
def updEngine (s : State) (e : Nat) (f : Engine → Engine) : State := setEngine s e (f (engine s e))
/-- Updates pack p. -/
def updPack (s : State) (p : Nat) (f : Pack → Pack) : State := setPack s p (f (pack s p))
/-- Updates the far end at port n. -/
def updFe (s : State) (n : Nat) (f : FarEnd → FarEnd) : State := setFarEnd s n (f (farEnd s n))

/-- Replaces the data memories. -/
def setDmem (s : State) (m : Mem) : State := { s with arr := { s.arr with dmem := m } }
/-- Replaces MRAM. -/
def setMram (s : State) (m : Mem) : State := { s with mram := m }

/-- Applies a function for each number of a list, in order. -/
def forAll (l : List Nat) (f : State → Nat → State) (s : State) : State := l.foldl f s

/-- Every port. -/
def allPorts : List Nat := List.range 256
/-- Every Sleeve. -/
def allSleeves : List Nat := List.range 32
/-- Every pack. -/
def allPacks : List Nat := List.range 32

/-- Ports that have left their initial link state, that is those that a tick can concern. -/
def linkPorts (s : State) : List Nat := s.links.map (·.1)

/-! ### Free values -/

/-- Draws a free number (notes/assumptions/2.md). -/
def drawRat (s : State) : Rat × State := (Config.freeRat s.draws, { s with draws := s.draws + 1 })
/-- Draws a free truth value. -/
def drawBool (s : State) : Bool × State := (Config.freeBool s.draws, { s with draws := s.draws + 1 })
/-- Draws a free word. -/
def drawWord (s : State) : Word × State := (Config.freeWord s.draws, { s with draws := s.draws + 1 })

/-! ### Time of the always-on domain (R425) -/

/-- Lets seconds pass for the 32.768 kHz clock and the operating hours; VAUX is present. -/
def passTime (s : State) (t : Rat) : State :=
  let x := s.boot.aoRem + q40 t * 32768
  let k := x.floor.toNat
  let frac := s.boot.hoursFrac + 2 * k
  { s with boot := { s.boot with
      aoClock := (s.boot.aoClock + k) % 2 ^ 48, aoRem := x - (k : Rat),
      hours := s.boot.hours + frac / 65536, hoursFrac := frac % 65536 } }

/-- Operating hours in 1/65,536 s. -/
def hoursNow (s : State) : Nat := s.boot.hours * 65536 + s.boot.hoursFrac

/-! ### Records (R362 to R369) -/

/-- Critical codes (R364). -/
def critical (code : Nat) : Bool :=
  code == 0x0001 || code == 0x0002 || code == 0x0003 || code == 0x0010 || code == 0x0030

/-- Bytes in the record buffer. -/
def bufferFill (b : List Rec) : Nat := (b.map fun r => r.bytes.length).sum

/-- The next SEQ: 1 follows 0xFFFF_FFFF (R363). -/
def nextSeq (w : Word) : Word := if w = 0xFFFFFFFF then 1 else w + 1

/-- Data padded to a multiple of 4 and cut to what a record of 1,024 bytes holds. -/
def recData (d : List Byte) : List Byte :=
  let d := d.take 992
  d ++ List.replicate ((4 - d.length % 4) % 4) 0

/-- The bytes of a record (R362). -/
def recBytes (s : State) (code supp : Nat) (seq round : Word) (data : List Byte) : List Byte :=
  let d := recData data
  let head := wordBytes seq ++ leBytes 2 code ++ leBytes 2 (32 + d.length) ++ leBytes 4 s.boot.hours
    ++ leBytes 2 s.boot.hoursFrac ++ leBytes 2 (Nat.min supp 0xFFFF) ++ wordBytes s.boot.cycles ++ wordBytes round ++ d
  head ++ wordBytes (crc32 head) ++ wordBytes seq

/-- Refills a bucket of a limiter up to its depth. -/
def refill (rate burst tokens : Rat) (last now : Nat) : Rat :=
  rmin burst (tokens + rate * mkRat ((now - last : Nat) : Int) 65536)

/-- Takes a token of the code's bucket (R365): the recorder after it, and whether there was one. -/
def takeToken (s : State) (code : Nat) : Recorder × Bool :=
  let r := s.recorder
  let now := hoursNow s
  let rate : Rat := (cfg s 0x2800 8 : Nat)
  let burst : Rat := (cfg s 0x2800 9 : Nat)
  match r.limiters.find? fun l => l.code == code with
  | some l =>
    let t := refill rate burst l.tokens l.last now
    let ok := decide (1 ≤ t)
    ({ r with limiters := r.limiters.map fun x =>
        if x.code == code then { x with tokens := if ok then t - 1 else t, last := now } else x }, ok)
  | none =>
    if r.limiters.length < 512 then
      ({ r with limiters := r.limiters ++ [{ code := code, tokens := burst - 1, last := now }] }, true)
    else
      let orate : Rat := (cfg s 0x2800 10 : Nat)
      let oburst : Rat := (cfg s 0x2800 11 : Nat)
      let t := match r.overflow with
        | some (t, l) => refill orate oburst t l now
        | none => oburst
      let ok := decide (1 ≤ t)
      ({ r with overflow := some (if ok then t - 1 else t, now), sticky := setBit r.sticky 2 }, ok)

/-- Oldest unflushed non-critical record removed, to make room for a critical one (R369). -/
def dropOldest : List Rec → List Rec
  | [] => []
  | r :: t => if critical r.code then r :: dropOldest t else t

/-- Writes a record into the buffer, if its bucket admits it (R363 to R369). -/
def addRecord (s : State) (code : Nat) (round : Word) (data : List Byte) : State :=
  let (r, ok) := if critical code then (s.recorder, true) else takeToken s code
  if !ok then
    { s with recorder := { r with
        supp := tset 0 r.supp code (tget 0 r.supp code + 1),
        suppTotal := r.suppTotal + 1, sticky := setBit r.sticky 1 } }
  else
    let seq := nextSeq r.newest
    let bytes := recBytes s code (tget 0 r.supp code) seq round data
    let fill := bufferFill r.buffer + bytes.length
    if !critical code && decide (262144 - 16384 < fill) then
      { s with recorder := { r with lost := r.lost + 1, sticky := setBit r.sticky 0 } }
    else
      let excess := critical code && decide (262144 < fill)
      { s with recorder := { r with
          newest := seq, supp := tset 0 r.supp code 0,
          buffer := (if excess then dropOldest r.buffer else r.buffer) ++ [{ code := code, seq := seq, bytes := bytes }],
          lost := if excess then r.lost + 1 else r.lost,
          sticky := if excess then setBit r.sticky 0 else r.sticky } }

/-! ### Trace trigger (R373 to R375) -/

/-- Number of trace slots for a window length (R374). -/
def slotCount (len : Nat) : Nat := if len = 64 then 8 else if len = 128 then 4 else if len = 256 then 2 else 1

/-- A trigger of source bit `src` in this round. -/
def trigger (s : State) (src : Nat) : State :=
  let r := s.recorder
  if !(cfg s 0x2810 4).testBit src then s
  else if r.traceState != 0 || (decide (slotCount r.lenNow ≤ r.slots.length) && cfg s 0x2810 6 == 0) then
    { s with recorder := { r with
        missed := if r.missed = 0xFFFFFFFF then r.missed else r.missed + 1,
        sticky := setBit r.sticky 6 } }
  else
    { s with recorder := { r with
        traceState := 1, trigRound := s.wheel.round, trigSrc := src,
        postLeft := cfg s 0x2810 3 + 1 } }

/-! ### Port states -/

/-- Pack bound to a port, if any; only to one whose loaded pattern class is BATT_CONV (R252). -/
def packOf (s : State) (n : Nat) : Option Nat :=
  if declClass s n = 3 then (s.shelf.packs.find? fun e => e.2.bound == some n).map (·.1) else none

/-- Moves a port to a state. Leaving RUNNING ends margining (R217); a BATT_CONV port that leaves RUNNING for HEM or
LOCKOUT ends the wait of R256, whose discharge is counted anew; one that becomes READY has its pack's identity read (R260);
outside STARTING, RUNNING and STOPPING nothing of a start is left. -/
def setPState (s : State) (n : Nat) (t : PState) : State :=
  let old := (link s n).state
  if old == t then s else
  let s := updLink s n fun l => { l with state := t }
  let s := if old == .running then setCfg (updCtl s n fun c =>
      { c with margin := 0, marginRounds := 1024, marginFrom := 1 }) (0x3100 + n) 0x10 0 else s
  let s := match packOf s n with
    | some p => updPack s p fun k =>
        if old == .running && (t == .hem || t == .lockout) then { k with waitRest := false, discharged := 0 }
        else { k with idWant := k.idWant || t == .ready }
    | none => s
  if t == .starting || t == .running || t == .stopping then s
  else updCtl s n fun c => { c with
    since := 0, ramp := none, value := 0, down := false, readyNext := false, insStage := 0, insRun := 0,
    bypass := false, pg := false, satNow := false, satRun := 0, volts := [], pgRun := 0,
    cmd := { c.cmd with run := false, mode := 0 } }

/-- The port is in DISCOVERED, READY, STARTING, RUNNING or STOPPING. -/
def canHem (t : PState) : Bool :=
  t == .discovered || t == .ready || t == .starting || t == .running || t == .stopping

/-- Puts a port into HEM if its state lies from DISCOVERED to STOPPING (R196). -/
def portToHem (s : State) (n : Nat) : State := if canHem (link s n).state then setPState s n .hem else s

/-- Puts several ports into HEM. -/
def portsToHem (s : State) (l : List Nat) : State := l.foldl portToHem s

/-- Ports of a Sleeve (R23). -/
def sleevePorts (n : Nat) : List Nat := (List.range 8).map fun j => 8 * n + j

/-- A hold of controller scope is in force (R294, R297). -/
def ctrlHeld (s : State) : Bool := s.hem.held || s.hem.startHold

/-- The contactor hold of ship mode or of a service press covers a port (R269, R271). -/
def contactorHold (s : State) (n : Nat) : Bool :=
  (s.shelf.ship || s.shelf.svcOpen) && declClass s n == 3

/-- A hold of any scope covers the port (R294, R295). -/
def portHeld (s : State) (n : Nat) : Bool :=
  ctrlHeld s || (sleeve s (n / 8)).held || (ctl s n).tripped || (ctl s n).armHold
    || (ctl s n).lostHold || hasBit (link s n).sticky 0 || contactorHold s n || decide (s.boot.freezing ≠ 0)

/-- The HEM bit of the frames of a port (R197, R296). -/
def hemBit (s : State) (n : Nat) : Bool :=
  let t := (link s n).state
  !(t == .starting || t == .running || t == .stopping) || portHeld s n || s.hem.killLow
    || (match s.boot.sleeping with
      | some k => decide (k ≤ 16)
      | none => false)

/-- A TRIP of a port (R112): the reason is recorded and the port enters HEM. -/
def tripPort (s : State) (n : Nat) (reason : Byte) : State :=
  let s := updCtl s n fun c => { c with tripped := true, tripReason := reason }
  trigger (portToHem s n) 1

/-! ### Doubts (R83, R84, R294) -/

/-- Bits 0 to 6 of the Sleeve sticky word: the array's doubts (R86). -/
def sleeveDoubts (w : Word) : Word := w &&& 0x7F

/-- A reverse shutdown under way is abandoned by a doubt of controller scope (R288). -/
def abandonShutdown (s : State) : State :=
  if s.sq.shutdown then
    { s with sq := { s.sq with
        shutdown := false, deadline := none, stopOrder := [], cancellable := false,
        state := if hasBit s.sq.sticky 1 then 6 else 5 } }
  else s

/-- Effect of a doubt on the pair (R315, R318): the ACTIVE hands over except for SLIP and KILL, a standby becomes
STANDBY_COLD. -/
def pairDoubt (s : State) (handsOver : Bool) : State :=
  match s.pair.role with
  | .active =>
    if handsOver && s.pair.mateRole == some .hot then
      { s with pair := { s.pair with nextRole := some .out, sentCtrl := s.pair.sentCtrl ++ [.handover] } }
    else s
  | .hot => { s with pair := { s.pair with role := .cold } }
  | _ => s

/-- A doubt of Sleeve scope: sticky bit `bit`, the engine that raised it (0xFF none), bank and cycle. -/
def raiseSleeve (s : State) (sl bit eng bank cycle : Nat) : State :=
  let x := sleeve s sl
  let first := sleeveDoubts x.sticky == 0
  let x := { x with sticky := setBit x.sticky bit, held := true, halting := true }
  let x := if first then { x with
      doubtRound := s.wheel.round, doubtEngine := eng,
      doubtDetail := bank * 4096 + cycle % 4096 } else x
  let s := portsToHem (setSleeve s sl x) (sleevePorts sl)
  let s := addRecord s 0x0010 s.wheel.round ([1] ++ leBytes 2 sl ++ wordBytes x.sticky)
  pairDoubt (trigger s 0) true

/-- A doubt of controller scope: SUMMARY bit `bit` (0 KILL, 1 SUPPLY, 2 DIE_CRIT, 3 SLIP, 4 RED_UE). -/
def raiseCtrl (s : State) (bit : Nat) : State :=
  let h := s.hem
  let first := h.summary &&& 0x1F == 0
  let h := { h with summary := setBit h.summary bit, held := true }
  let h := if first then { h with firstCause := bit, firstRound := s.wheel.round } else h
  let s := { s with hem := h }
  let s := forAll allSleeves (fun s n => updSleeve s n fun x => { x with halting := true }) s
  let s := abandonShutdown (portsToHem s (linkPorts s))
  let s := addRecord s 0x0010 s.wheel.round ([2] ++ leBytes 2 0 ++ wordBytes h.summary)
  pairDoubt (trigger s 0) (bit != 3 && bit != 0)

/-- The doubt of port scope, LINK_LOST (R167): the port's frames carry HEM and it is trained again. -/
def raiseLinkLost (s : State) (n : Nat) : State :=
  let s := updLink s n fun l => { l with sticky := setBit l.sticky 0, lost := true }
  let s := portToHem (updCtl s n fun c => { c with lostHold := true }) n
  let s := addRecord s 0x0010 s.wheel.round ([0] ++ leBytes 2 n ++ wordBytes (link s n).sticky)
  trigger s 0

/-! ### Two-wire transactions and samples (R157, R183) -/

/-- STATUS of a transaction: a PEC is checked only with FLAGS bit 0 (R183). -/
def twStatus (x : Xfer) (status : TwStatus) : TwStatus := if status = 5 ∧ x.flags.toNat.testBit 0 = false then 0 else status

/-- RDATA of a TW_RESULT: at most RLEN bytes, which with BLOCK is the largest count; none where no bus or no target answered.
DEDUCED: with BLOCK the count itself is not one of them, since the identity of R260 is the block (notes/assumptions/43.md). -/
def twData (x : Xfer) (status : TwStatus) (bytes : List Byte) : List Byte :=
  if status = 1 ∨ status = 7 then [] else bytes.take x.rlen.toNat

/-- The code of a sampled quantity: an in-range value is clamped to 0x7FFE and 0x8001 (R157). -/
def sampleCode : Sample → BitVec 16
  | .value v => BitVec.ofInt 16 (if 32766 < v then 32766 else if v < -32767 then -32767 else v)
  | .over negative => if negative then 0x8000 else 0x7FFF

/-! ### Messages to far ends (R174 to R178) -/

/-- A whole mailbox message: TYPE, TAG, LENGTH and body (R178). -/
def message (ty tag : Nat) (body : List Byte) : List Byte :=
  BitVec.ofNat 8 ty :: BitVec.ofNat 8 tag :: leBytes 2 body.length ++ body

/-- Bytes of the messages of a list that belong to a queue. -/
def bytesOf (l : List (Nat × List Byte)) (q : Nat) : Nat := ((l.filter fun e => e.1 == q).map fun e => e.2.length).sum

/-- Bytes that a queue of a side holds: messages in it, messages begun and not wholly acknowledged, and what has been
received of it (R178, R187). -/
def queueBytes (m : MboxSide) (q : Nat) : Nat :=
  bytesOf m.out q + bytesOf m.begun q + bytesOf (m.inbox.map fun e => (e.1, e.2.1)) q
    + ((tfind m.parts q).map fun p => p.1.length).getD 0

/-- Bytes of the common pool that a side of the controller takes up (R178). -/
def sideBytes (m : MboxSide) : Nat := ((List.range 16).map (queueBytes m)).sum

/-- Bytes of the common pool in use (R178). -/
def poolBytes (s : State) : Nat := (s.links.map fun l => sideBytes l.2.mbx).sum

/-- A queue of 2,072 bytes and the pool of 768 KB have room for a message (R178). -/
def hasRoom (pool : Nat) (m : MboxSide) (q len : Nat) : Bool :=
  decide (queueBytes m q + len ≤ 2072) && decide (pool + len ≤ 786432)

/-- Messages of a queue still wait for room. -/
def waiting (m : MboxSide) (q : Nat) : Bool := m.wait.any fun e => e.1 == q

/-- Puts a message into a queue of a side. -/
def enqueue (m : MboxSide) (q : Nat) (msg : List Byte) : MboxSide := { m with out := m.out ++ [(q, msg)] }

/-- Offers a message to a queue of the controller: where the queue or the pool is full it is refused, and the Collar holds it
and retries (R178). -/
def offer (pool : Nat) (m : MboxSide) (q : Nat) (msg : List Byte) : MboxSide :=
  if !waiting m q && hasRoom pool m q msg.length then enqueue m q msg else { m with wait := m.wait ++ [(q, msg)] }

/-- The Collar retries the messages it holds, in their order. -/
def retryMsgs (pool : Nat) (m : MboxSide) : MboxSide :=
  if m.wait.isEmpty then m else m.wait.foldl (fun m e => offer (pool + sideBytes m) m e.1 e.2) { m with wait := [] }

/-- Sends a message from the controller to the far end of port n; each takes the next TAG. -/
def sendMsg (s : State) (n q ty : Nat) (body : List Byte) : State :=
  updLink s n fun l =>
    { l with mbx := offer (poolBytes s) l.mbx q (message ty l.tag body), tag := (l.tag + 1) % 256 }

/-! ### Roles and the field network -/

/-- The unit commands: AUTH = 1 (R152, R304). -/
def commands (s : State) : Bool := s.pair.role == .solo || s.pair.role == .active

/-- Code of a role at 0x2200.01 (R324). -/
def roleCode : Role → Nat
  | .out => 0 | .solo => 1 | .active => 2 | .hot => 3 | .joining => 4 | .cold => 5

/-- Status codes (R351). -/
def stOK : Nat := 0x00
/-- NO_INDEX. -/
def stNoIndex : Nat := 0x11
/-- NO_SUB. -/
def stNoSub : Nat := 0x12
/-- TYPE. -/
def stType : Nat := 0x13
/-- RANGE. -/
def stRange : Nat := 0x14
/-- ACCESS. -/
def stAccess : Nat := 0x15
/-- STATE. -/
def stState : Nat := 0x16
/-- SESSION_FULL. -/
def stFull : Nat := 0x17
/-- GROUP_INVALID. -/
def stGroup : Nat := 0x18
/-- SEAM_BUSY. -/
def stBusy : Nat := 0x19
/-- AUTH. -/
def stAuth : Nat := 0x1A
/-- BLOCK. -/
def stBlock : Nat := 0x1B

/-- Intervals that a write accepted now waits beyond the present one: 1 once the seam is closed (R35). -/
def skipNow (s : State) : Nat := if s.wheel.closed then 1 else 0

/-- Records the status that a write returned. -/
def withStatus (s : State) (st : Nat) : State := { s with net := { s.net with status := st } }

end Sys2Proof.Machine
end

