-- ==== Sys2Proof/Machine/Ecc.lean ====
section
/-! DEFINITION. ECC over the memories of the array (R79, R82): the words that have been upset, and what an access to one
of them does. The words are numbered by `eccKey` in four disjoint ranges. -/
namespace Sys2Proof.Machine

/-- The number of an engine in its Sleeve. -/
def engNo (e : Nat) : Nat := e % 32

/-- Word `k` of the active instruction bank of engine e. -/
def imemKey (e k : Nat) : Nat := e * 1024 + k
/-- Word `k` of the data memory of engine e. -/
def dmemKey (e k : Nat) : Nat := 2 ^ 20 + e * 1024 + k
/-- The double word of shared memory of Sleeve `sl` that holds byte address `a`. -/
def shmEccKey (sl a : Nat) : Nat := 2 ^ 21 + sl * 8192 + a / 8
/-- Double word `k` of the tally unit of Sleeve `sl`. -/
def tallyKey (sl k : Nat) : Nat := 2 ^ 22 + sl * 1024 + k

/-- The number of a word under ECC. -/
def eccKey : EccWord → Nat
  | .imem e k => imemKey e k
  | .dmem e k => dmemKey e k
  | .shm sl b k => shmEccKey sl (b.val * 4096 + 8 * k.val)
  | .tally sl k => tallyKey sl k

/-- What is wrong with a word: 0 nothing, 1 a single-bit error, 2 an uncorrectable one. -/
def upsetAt (s : State) (k : Nat) : Nat := tget 0 s.arr.upsets k

/-- A word is upset, or written afresh: `v` is 0, 1 or 2. -/
def setUpset (s : State) (k v : Nat) : State :=
  { s with arr := { s.arr with upsets := if s.arr.upsets.isEmpty && v == 0 then [] else tset 0 s.arr.upsets k v } }

/-- The upsets that a tick brings. A second upset of a word leaves it uncorrectable. -/
def takeUpsets (s : State) (l : List Upset) : State :=
  l.foldl (fun s u => setUpset s (eccKey u.word) (if u.uncorrectable || upsetAt s (eccKey u.word) != 0 then 2 else 1)) s

/-- Drops the upsets of the words that a test picks: they have been written afresh. -/
def dropUpsets (s : State) (p : Nat → Bool) : State :=
  { s with arr := { s.arr with upsets := s.arr.upsets.filter fun x => !p x.1 } }

/-- A Sleeve doubt whose record names no bank: bits 15:12 of DOUBT_DETAIL are free there. -/
def raiseNoBank (s : State) (sl bit eng cycle : Nat) : State :=
  let (w, s) := drawWord s
  raiseSleeve s sl bit eng (w.toNat % 16) cycle

/-- Counts a corrected error in a Sleeve (R79, R85). -/
def countCorrected (s : State) (sl : Nat) : State :=
  let s := updSleeve s sl fun x => { x with
    corrected := if x.corrected = 0xFFFFFFFF then x.corrected else x.corrected + 1, sticky := setBit x.sticky 8 }
  { s with arr := { s.arr with correctedTotal := s.arr.correctedTotal + 1 } }

/-- An access of a Sleeve to a word: a single-bit error is corrected in the data delivered and counted, the stored word
stays; an uncorrectable one raises its doubt (R79, R82). -/
def eccAccess (s : State) (sl k : Nat) (bad : State → State) : State :=
  match upsetAt s k with
  | 0 => s
  | 1 => countCorrected s sl
  | _ => bad s

/-- The word that an access delivers: the one stored, or one that nothing states where the error is uncorrectable. -/
def eccWord (s : State) (k : Nat) (w : Word) : Word × State := if 2 ≤ upsetAt s k then drawWord s else (w, s)

/-- An engine fetches the instruction word at its place: IMEM_UE in the cycle of the fetch (R79, R82). -/
def fetchEcc (s : State) (e : Nat) : State :=
  eccAccess s (e / 32) (imemKey e (engine s e).pc) fun s => raiseNoBank s (e / 32) 3 (engNo e) (engine s e).cycle

/-- An engine reads word `k` of its data memory: DMEM_UE in the cycle of the access. -/
def dmemEcc (s : State) (e k : Nat) : State :=
  eccAccess s (e / 32) (dmemKey e k) fun s => raiseNoBank s (e / 32) 4 (engNo e) (engine s e).cycle

/-- An agent reads the double word of shared memory at byte address `a`: SHM_UE with its bank. -/
def shmEcc (s : State) (sl a eng cycle : Nat) : State :=
  eccAccess s sl (shmEccKey sl a) fun s => raiseSleeve s sl 5 eng (a / 4096) cycle

/-! ### Tally units -/

/-- Clears double word `k` of a tally unit and marks what it holds (R82). -/
def clearTallyWord (s : State) (sl k : Nat) : State :=
  let s := updSleeve s sl fun x => { x with sticky := setBit x.sticky 14 }
  if k < 768 then
    let a := sl * 1536 + 2 * k
    { s with arr := { s.arr with
        bins := tdel (tdel s.arr.bins a) (a + 1),
        invalid := (s.arr.invalid ++ [sl * 2048 + 2 * k, sl * 2048 + 2 * k + 1]).eraseDups } }
  else
    let slot := (k - 768) / 2
    let a := sl * 128 + slot
    let x := tget {} s.arr.exts a
    let x := if k % 2 = 0 then { x with min := 0, minRound := 0 } else { x with max := 0, maxRound := 0 }
    { s with arr := { s.arr with
        exts := tset {} s.arr.exts a x,
        invalid := (s.arr.invalid ++ [sl * 2048 + 1536 + slot]).eraseDups } }

/-- An access that reads and rewrites double word `k` of a tally unit (R79, R82). -/
def tallyEcc (s : State) (sl k : Nat) : State :=
  match upsetAt s (tallyKey sl k) with
  | 0 => s
  | 1 => setUpset (countCorrected s sl) (tallyKey sl k) 0
  | _ => setUpset (clearTallyWord s sl k) (tallyKey sl k) 0

/-- No word is upset. -/
def quietMemory (s : State) : Bool := s.arr.upsets.isEmpty

end Sys2Proof.Machine
end

