-- ==== Sys2Proof/Machine/Flags.lean ====
section
/-! DEFINITION. Saturating arithmetic and the flags it sets (R97 to R100), over exact integers. -/
namespace Sys2Proof.Machine

/-- Sets engine flags at once. -/
def setFlags (en : Engine) (f : BitVec 16) : Engine := { en with flags := en.flags ||| f }

/-- The signed Q15 operand of a register: bits 15:0 (R99). -/
def q15 (w : Word) : Int := (w.setWidth 16).toInt

/-- Lower end of an n-bit signed range. -/
def loS (n : Nat) : Int := -((2 ^ (n - 1) : Nat) : Int)

/-- Upper end of an n-bit signed range. -/
def hiS (n : Nat) : Int := ((2 ^ (n - 1) : Nat) : Int) - 1

/-- Saturates to an n-bit signed range; the word and SAT on a clamp. -/
def satN (n : Nat) (x : Int) : Word × BitVec 16 :=
  let (v, c) := satInt (loS n) (hiS n) x
  (BitVec.ofInt 32 v, if c then fSAT else 0)

/-- QMUL15 (R99). -/
def qMul15 (a b : Word) : Word × BitVec 16 := satN 16 ((q15 a * q15 b + 16384) / 32768)

/-- QMUL31 (R99). -/
def qMul31 (a b : Word) : Word × BitVec 16 := satN 32 ((a.toInt * b.toInt + 1073741824) / 2147483648)

/-- IDIV (R98). -/
def iDiv (a b : Word) : Word × BitVec 16 :=
  if b = 0 then (if a.toInt < 0 then 0x80000000 else 0x7FFFFFFF, fDZ)
  else if a = 0x80000000 ∧ b = 0xFFFFFFFF then (0x7FFFFFFF, fSAT)
  else (BitVec.ofInt 32 (a.toInt.tdiv b.toInt), 0)

/-- UDIV (R98). -/
def uDiv (a b : Word) : Word × BitVec 16 :=
  if b = 0 then (0xFFFFFFFF, fDZ) else (BitVec.ofNat 32 (a.toNat / b.toNat), 0)

/-- A 64-bit accumulator after an addend, saturated (R100). -/
def accAdd (a : BitVec 64) (d : Int) : BitVec 64 × BitVec 16 :=
  let (v, c) := satInt (loS 64) (hiS 64) (a.toInt + d)
  (BitVec.ofInt 64 v, if c then fSAT else 0)

/-- RDACC: rounds, shifts right arithmetically and saturates to 32 bits (R100). -/
def accRead (a : BitVec 64) (shift : Nat) : Word × BitVec 16 :=
  let r : Int := if shift = 0 then 0 else ((2 ^ (shift - 1) : Nat) : Int)
  satN 32 ((a.toInt + r) / ((2 ^ shift : Nat) : Int))

end Sys2Proof.Machine
end

