-- ==== Sys2Proof/Machine/Operands.lean ====
section
/-! DEFINITION. Operand forms and the exposed pipeline of an engine: register, accumulator and predicate access
(R89), results in flight (R91 to R95, R118), the issue of one instruction under its predicate (R88), the flow of
REPEAT (R114 to R116), and window and slot checks (R63 to R65, R70). -/
namespace Sys2Proof.Machine

/-- Register v: v0 reads 0 (R53). -/
def rreg (en : Engine) (r : Nat) : Word := if r = 0 then 0 else tget 0 en.regs r

/-- Writes register v; a write to v0 is discarded (R89). -/
def wreg (en : Engine) (r : Nat) (w : Word) : Engine :=
  if r = 0 then en else { en with regs := tset 0 en.regs r w }

/-- Predicate k: p0 is always true (R53). -/
def rpred (en : Engine) (k : Nat) : Bool := k == 0 || en.preds.toNat.testBit k

/-- Writes predicate k; a write to p0 is discarded (R89). -/
def wpred (en : Engine) (k : Nat) (b : Bool) : Engine :=
  if k = 0 then en
  else { en with preds := if b then en.preds ||| BitVec.ofNat 8 (2 ^ k) else en.preds &&& ~~~(BitVec.ofNat 8 (2 ^ k)) }

/-- Accumulator acc0 or acc1. -/
def racc (en : Engine) (hi : Bool) : BitVec 64 := if hi then en.acc1 else en.acc0

/-- Writes an accumulator. -/
def wacc (en : Engine) (hi : Bool) (v : BitVec 64) : Engine :=
  if hi then { en with acc1 := v } else { en with acc0 := v }

/-- The even register of a pair field: its lowest bit is ignored (R89). -/
def pairLo (r : Nat) : Nat := 2 * (r / 2)

/-- A result in flight is written: value and flags (R91, R93, R118). -/
def writeResult (en : Engine) (f : Flight) : Engine :=
  let en := match f.dest, f.val with
    | .reg r, .word w => wreg en r w
    | .pred k, .bit b => wpred en k b
    | .acc h, .acc v => wacc en h v
    | .acc h, .addend d =>
      let (v, fl) := accAdd (racc en h) d
      setFlags (wacc en h v) fl
    | _, _ => en
  setFlags en f.flags

/-- A later issued result for the same destination lands in the same cycle (R94). -/
def clashes (l : List Flight) (f : Flight) : Bool :=
  l.any fun g => g.due == f.due && g.dest == f.dest && decide (f.order < g.order) && f.dest != .none

/-- Inserts a result into a list kept by due cycle, then issue order. -/
def insFlight (f : Flight) : List Flight → List Flight
  | [] => [f]
  | g :: t => if f.due < g.due || (f.due == g.due && decide (f.order < g.order)) then f :: g :: t else g :: insFlight f t

/-- Writes every result due at or before a cycle; of two that clash the later one is written and WB_CLASH is set. -/
def settleAll (all : List Flight) : List Flight → Engine → Engine
  | [], en => en
  | f :: t, en => settleAll all t (if clashes all f then setFlags en fCLASH else writeResult en f)

/-- Settles an engine up to a cycle. -/
def settle (en : Engine) (c : Nat) : Engine :=
  let due := en.flight.filter fun f => decide (f.due ≤ c)
  settleAll due due { en with flight := en.flight.filter fun f => decide (c < f.due) }

/-- Puts a result in flight: due `lat` cycles after the present one. -/
def launch (en : Engine) (lat : Nat) (d : Dest) (v : Val) (fl : BitVec 16) : Engine :=
  { en with flight := insFlight { due := en.cycle + lat, order := en.issued, dest := d, val := v, flags := fl } en.flight }

/-- A register result of latency `lat`; v0 takes no value but its flags are set (R89). The model's own choice: two results
for v0 in one cycle are no clash, since neither is written (R94; notes/assumptions/8.md). -/
def launchReg (en : Engine) (lat r : Nat) (x : Word × BitVec 16) : Engine :=
  launch en lat (if r = 0 then .none else .reg r) (.word x.1) x.2

/-- A predicate result of latency 1; results for p0 are discarded and never clash, as those for v0. -/
def launchPred (en : Engine) (k : Nat) (x : Bool × BitVec 16) : Engine :=
  launch en 1 (if k = 0 then .none else .pred k) (.bit x.1) x.2

/-- Word position after the present one, with the REPEAT levels that end there (R114). -/
def advance : List RepLevel → Nat → List RepLevel × Nat
  | [], pc => ([], pc)
  | r :: t, pc =>
    if pc = r.start + r.len then
      if r.iter < r.last then ({ r with iter := r.iter + 1 } :: t, r.start) else advance t pc
    else (r :: t, pc)

/-- The cycle of an issue passes: the next word and the next cycle. -/
def nextWord (en : Engine) : Engine :=
  let (reps, pc) := advance en.reps (en.pc + 1)
  { en with pc := pc, reps := reps, cycle := en.cycle + 1, issued := en.issued + 1 }

/-- The engines run: they have started, their Sleeve is not halted, the body has not ended and no freeze or SLEEP
has stopped the wheel domain (R54, R84, R116, R376). -/
def canIssue (s : State) (e : Nat) : Bool :=
  s.arr.started && !(sleeve s (e / 32)).halted && !(sleeve s (e / 32)).parked && !(engine s e).ended
    && decide ((engine s e).pc < 1024)
    && !s.boot.frozen && !s.boot.asleep

/-- The predicate of an instruction holds (R88). -/
def predOk (en : Engine) (p : Pred) : Bool := rpred en p.p.toNat != p.n

/-- Issues one instruction on engine e: its word is fetched under ECC, results due are written, the body runs on the state
if the predicate holds, and the cycle passes. An engine that cannot issue is left as it is. -/
def issueS (s : State) (e : Nat) (p : Pred) (body : State → State) : State :=
  if canIssue s e then
    let s := fetchEcc s e
    let s := updEngine s e fun en => settle en en.cycle
    let s := if predOk (engine s e) p then body s else s
    updEngine s e nextWord
  else s

/-- Issues an instruction that acts on its engine alone. -/
def issue (s : State) (e : Nat) (p : Pred) (body : Engine → Engine) : State :=
  issueS s e p fun s => updEngine s e body

/-- An instruction that computes one register result from the engine. -/
def issueReg (s : State) (e : Nat) (p : Pred) (lat : Nat) (rd : Reg) (f : Engine → Word × BitVec 16) : Out :=
  .next (issue s e p fun en => launchReg en lat rd.toNat (f en))

/-- An R-format register operation on va and vb. -/
def issueR (s : State) (e : Nat) (p : Pred) (lat : Nat) (rd ra rb : Reg) (f : Word → Word → Word × BitVec 16) : Out :=
  issueReg s e p lat rd fun en => f (rreg en ra.toNat) (rreg en rb.toNat)

/-- A predicate result from va and vb. -/
def issueCmp (s : State) (e : Nat) (p : Pred) (pd : BitVec 3) (ra rb : Reg) (f : Word → Word → Bool × BitVec 16) : Out :=
  .next (issue s e p fun en => launchPred en pd.toNat (f (rreg en ra.toNat) (rreg en rb.toNat)))

/-- A predicate operation. -/
def issuePlog (s : State) (e : Nat) (p : Pred) (pd pa pb : BitVec 3) (f : Bool → Bool → Bool) : Out :=
  .next (issue s e p fun en => launchPred en pd.toNat (f (rpred en pa.toNat) (rpred en pb.toNat), 0))

/-- The divider takes an operation unless it is busy (R105). -/
def issueDiv (s : State) (e : Nat) (p : Pred) (rd ra rb : Reg) (f : Word → Word → Word × BitVec 16) : Out :=
  .next (issue s e p fun en =>
    if en.cycle < en.divFree then setFlags en fDIVBUSY
    else { launchReg en 12 rd.toNat (f (rreg en ra.toNat) (rreg en rb.toNat)) with divFree := en.cycle + 12 })

/-- A 12-bit immediate sign-extended. -/
def sext12 (i : BitVec 12) : Word := i.signExtend 32

/-- A 12-bit immediate zero-extended. -/
def zext12 (i : BitVec 12) : Word := i.setWidth 32

/-- Effective address va + sext(IMM12) (R96). -/
def effAddr (en : Engine) (ra : Reg) (imm : BitVec 12) : Word := rreg en ra.toNat + sext12 imm

/-! ### Tables of the running body (R63, R68, R71, R125) -/

/-- The Sleeve runs seed rounds. -/
def seeding (s : State) (sl : Nat) : Bool := decide (0 < (sleeve s sl).seedLeft)

/-- The window table in force for a Sleeve. -/
def windowsOf (s : State) (sl : Nat) : List Window := if seeding s sl then s.pat.run.seedWindows else s.pat.run.windows

/-- The send slots in force for a Sleeve. -/
def sendsOf (s : State) (sl : Nat) : List SendSlot := if seeding s sl then s.pat.run.seedSends else s.pat.run.sends

/-- The reduction slots in force for a Sleeve. -/
def redsOf (s : State) (sl : Nat) : List RedSlot := if seeding s sl then s.pat.run.seedReds else s.pat.run.reds

/-- A window grants the bank to engine e of its Sleeve in a cycle (R63, R64). -/
def windowOk (s : State) (e bank cycle : Nat) (write : Bool) : Bool :=
  (bank != 1) && !(bank == 0 && write) && decide (cycle + 64 < s.wheel.l)
    && (windowsOf s (e / 32)).any fun w =>
      w.sleeve == e / 32 && w.engine == e % 32 && w.bank == bank && decide (w.first ≤ cycle)
        && decide (cycle ≤ w.last) && (w.write || !write)

/-- Address of the shared memory of a Sleeve in the array's memory. -/
def shmKey (sl a : Nat) : Nat := sl * 65536 + a

/-- A byte of shared memory as an engine reads it: B0 is the buffer completed in the round before (R56). -/
def shmByte (s : State) (sl a : Nat) : Byte :=
  if a < 0x200 then mget s.arr.upRead (sl * 1024 + a)
  else if a < 0x284 then mget s.arr.blkRead (a - 0x200)
  else if a < 0x2000 then 0
  else mget s.arr.shm (shmKey sl a)

/-- A word of shared memory. -/
def shmWord (s : State) (sl a : Nat) : Word :=
  BitVec.ofNat 32 (leNat ((List.range 4).map fun i => shmByte s sl (a + i)))

/-- A word of data memory of engine e: address bits 11:2 (R107). -/
def dmWord (s : State) (e a : Nat) : Word := mword s.arr.dmem (e * 4096 + a / 4 % 1024 * 4)

/-- An engine loads a word of its data memory under ECC (R79, R82, R107). -/
def dmLoad (s : State) (e a : Nat) : Word × State :=
  eccWord (dmemEcc s e (a / 4 % 1024)) (dmemKey e (a / 4 % 1024)) (dmWord s e a)

/-- An engine reads the double word of shared memory that holds byte address `a` (R79, R82). -/
def shmAccess (s : State) (e a : Nat) : State := shmEcc s (e / 32) a (engNo e) (engine s e).cycle

/-- An engine loads a word of its Sleeve's shared memory under ECC. -/
def shmLoad (s : State) (e a : Nat) : Word × State :=
  eccWord (shmAccess s e a) (shmEccKey (e / 32) a) (shmWord s (e / 32) a)

end Sys2Proof.Machine
end

