-- ==== Sys2Proof/Machine/EngineMem.lean ====
section
/-! DEFINITION. Data, persistent and shared memory, Yoke, tally, trip, wheel and flag instructions, REPEAT and
ENDROUND (R107 to R119), and what the hardware does for them in a round: write-back, Yoke arrivals, reductions. -/
namespace Sys2Proof.Machine

/-- LD (R107). -/
def execLd (e : EngineId) (p : Pred) (rd ra : Reg) (imm : BitVec 12) (s : State) : Out :=
  .next (issueS s e p fun s =>
    let x := dmLoad s e (effAddr (engine s e) ra imm).toNat
    updEngine x.2 e fun en => launchReg en 2 rd.toNat (x.1, 0))

/-- The byte address in data memory that ST addresses: bits 11:2 (R107). -/
def stAddr (en : Engine) (ra : Reg) (imm : BitVec 12) : Nat := (effAddr en ra imm).toNat / 4 % 1024 * 4

/-- Stores a word of data memory of engine e; the whole word is written afresh. -/
def dmPut (s : State) (e a : Nat) (w : Word) : State :=
  setUpset { s with arr := { s.arr with dmem := mputWord s.arr.dmem (e * 4096 + a) w } } (dmemKey e (a / 4)) 0

/-- ST; a store into the persistent region is discarded with PST_STORE (R55, R107). -/
def execSt (e : EngineId) (p : Pred) (rd ra : Reg) (imm : BitVec 12) (s : State) : Out :=
  .next (issueS s e p fun s =>
    let en := engine s e
    let a := stAddr en ra imm
    if 0xF00 ≤ a then updSleeve s (e / 32) fun x => { x with sticky := setBit x.sticky 9 }
    else dmPut s e a (rreg en rd.toNat))

/-- STP budget per round (R108). -/
def stpBudget (w : Nat) : Nat := if w = 4096 then 8 else if w = 8192 then 4 else 2

/-- STP: the persistent word is written and enters the store stream of the Sleeve, within the budget (R108); in the
seed rounds of a join it is suppressed (R311). -/
def execStp (e : EngineId) (p : Pred) (rd : Reg) (idx : BitVec 6) (s : State) : Out :=
  .next (issueS s e p fun s =>
    let en := engine s e
    let w := rreg en rd.toNat
    let s := updEngine s e fun en => { en with stps := en.stps + 1 }
    if stpBudget s.wheel.w ≤ en.stps then updEngine s e fun en => setFlags en fSTPOVER
    else if (sleeve s (e / 32)).seedMute then s
    else
      let s := dmPut s e (0xF00 + 4 * idx.toNat) w
      updSleeve s (e / 32) fun x =>
        { x with stores := x.stores ++ [{ engine := e, idx := idx.toNat, word := w }] })

/-- The bank that an address of shared memory selects (R109). -/
def bankOf (a : Nat) : Nat := a / 4096 % 16

/-- WINDOW: the access does not take place (R63). -/
def windowDoubt (s : State) (e bank : Nat) : State :=
  raiseSleeve s (e / 32) 1 (engNo e) bank (engine s e).cycle

/-- LDS (R109). -/
def execLds (e : EngineId) (p : Pred) (rd ra : Reg) (imm : BitVec 12) (s : State) : Out :=
  .next (issueS s e p fun s =>
    let en := engine s e
    let a := (effAddr en ra imm).toNat / 4 % 16384 * 4
    if windowOk s e (bankOf a) en.cycle false then
      let x := shmLoad s e a
      updEngine x.2 e fun en => launchReg en 4 rd.toNat (x.1, 0)
    else windowDoubt s e (bankOf a))

/-- LDSD (R109): the word at the lower address into vd, the next into vd+1. -/
def execLdsd (e : EngineId) (p : Pred) (rd ra : Reg) (imm : BitVec 12) (s : State) : Out :=
  .next (issueS s e p fun s =>
    let en := engine s e
    let a := (effAddr en ra imm).toNat / 8 % 8192 * 8
    if windowOk s e (bankOf a) en.cycle false then
      let x := shmLoad s e a
      let y := eccWord x.2 (shmEccKey (e / 32) a) (shmWord s (e / 32) (a + 4))
      updEngine y.2 e fun en =>
        launchReg (launchReg en 4 (pairLo rd.toNat) (x.1, 0)) 4 (pairLo rd.toNat + 1) (y.1, 0)
    else windowDoubt s e (bankOf a))

/-- The byte address in shared memory that STS addresses: bits 15:2 (R109). -/
def stsAddr (en : Engine) (ra : Reg) (imm : BitVec 12) : Nat := (effAddr en ra imm).toNat / 4 % 16384 * 4

/-- The byte address in shared memory that STSD addresses: bits 15:3 (R109). -/
def stsdAddr (en : Engine) (ra : Reg) (imm : BitVec 12) : Nat := (effAddr en ra imm).toNat / 8 % 8192 * 8

/-- Stores a word of the shared memory of a Sleeve. -/
def shmPut (s : State) (sl a : Nat) (w : Word) : State :=
  { s with arr := { s.arr with shm := mputWord s.arr.shm (shmKey sl a) w } }

/-- STS writes one half of a double word under ECC, so it reads the other: a single-bit error is corrected, counted and
written back with the store, an uncorrectable one raises SHM_UE and stays (DEDUCED, notes/assumptions/17.md). -/
def shmHalf (s : State) (e a : Nat) : State :=
  let s := shmAccess s e a
  if upsetAt s (shmEccKey (e / 32) a) = 1 then setUpset s (shmEccKey (e / 32) a) 0 else s

/-- STS (R109). -/
def execSts (e : EngineId) (p : Pred) (rd ra : Reg) (imm : BitVec 12) (s : State) : Out :=
  .next (issueS s e p fun s =>
    let en := engine s e
    let a := stsAddr en ra imm
    if windowOk s e (bankOf a) en.cycle true then shmPut (shmHalf s e a) (e / 32) a (rreg en rd.toNat)
    else windowDoubt s e (bankOf a))

/-- STSD (R109). -/
def execStsd (e : EngineId) (p : Pred) (rd ra : Reg) (imm : BitVec 12) (s : State) : Out :=
  .next (issueS s e p fun s =>
    let en := engine s e
    let a := stsdAddr en ra imm
    if windowOk s e (bankOf a) en.cycle true then
      setUpset (shmPut (shmPut s (e / 32) a (rreg en (pairLo rd.toNat))) (e / 32) (a + 4) (rreg en (pairLo rd.toNat + 1)))
        (shmEccKey (e / 32) a) 0
    else windowDoubt s e (bankOf a))

/-- SLOT: no word is carried (R70). -/
def slotDoubt (s : State) (e : Nat) : State := raiseSleeve s (e / 32) 2 (engNo e) 0xF (engine s e).cycle

/-- YSEND: the pair va+1 : va goes to the entry that the send slot names (R68, R70, R110). -/
def execYsend (e : EngineId) (p : Pred) (ra : Reg) (s : State) : Out :=
  .next (issueS s e p fun s =>
    let en := engine s e
    match (sendsOf s (e / 32)).find? fun t => t.cycle == en.cycle && t.sleeve == e.val / 32 && t.engine == engNo e with
    | some t =>
      let w : BitVec 64 := rreg en (pairLo ra.toNat + 1) ++ rreg en (pairLo ra.toNat)
      { s with arr := { s.arr with
          yoke := s.arr.yoke ++ [{ due := en.cycle + 6, dst := t.dst, entry := t.entry, word := w }] } }
    | none => slotDoubt s e)

/-- What an empty receive entry reads as: two canonical NaNs (R69). -/
def emptyEntry : BitVec 64 := 0x7FC000007FC00000

/-- The later of two arrivals at one entry. -/
def laterRx (best : Option YokeRx) (r : YokeRx) : Option YokeRx :=
  match best with
  | some b => if b.due ≤ r.due then some r else some b
  | none => some r

/-- The word that a receive entry holds in a cycle, if it is not empty: of the words that have arrived or whose arrival
is due, the one written last (R69, R110). -/
def recvWord (s : State) (d entry cycle : Nat) : Option (BitVec 64) :=
  let way := (s.arr.yoke.filter fun m => m.dst == d).map fun m : YokeMsg =>
    { due := m.due, entry := m.entry, word := some m.word : YokeRx }
  let seen := ((sleeve s d).rx ++ way).filter fun r => r.entry == entry && decide (r.due ≤ cycle)
  (seen.foldl laterRx none).bind (·.word)

/-- YRECV: the word most recently written this round, or the empty pattern with YOKE_EMPTY (R69). -/
def execYrecv (e : EngineId) (p : Pred) (rd : Reg) (entry : BitVec 6) (s : State) : Out :=
  .next (issueS s e p fun s =>
    let x := recvWord s (e / 32) entry.toNat (engine s e).cycle
    let w := x.getD emptyEntry
    let s := if x.isSome then s else updSleeve s (e / 32) fun x => { x with sticky := setBit x.sticky 11 }
    updEngine s e fun en =>
      launchReg (launchReg en 2 (pairLo rd.toNat) (w.setWidth 32, 0)) 2 (pairLo rd.toNat + 1) ((w >>> 32).setWidth 32, 0))

/-- A reduction under way is that of a slot. -/
def ofSlot (t : RedSlot) (m : RedMsg) : Bool := m.due == t.cycle + 12 && m.isMax == t.isMax && m.res == t.res

/-- Enters a contribution into the reductions under way. -/
def addPart (l : List RedMsg) (t : RedSlot) (cycle sl : Nat) (w : Word) : List RedMsg :=
  if l.any (ofSlot t) then
    l.map fun m => if ofSlot t m then { m with parts := tput m.parts sl w } else m
  else l ++ [{ due := cycle + 12, isMax := t.isMax, res := t.res, parts := [(sl, w)] }]

/-- YRED: contributes va in the current reduction slot (R70 to R72). -/
def execYred (e : EngineId) (p : Pred) (ra : Reg) (s : State) : Out :=
  .next (issueS s e p fun s =>
    let en := engine s e
    match (redsOf s (e / 32)).find? fun t =>
      t.cycle == en.cycle && t.contributors.contains (e.val / 32, engNo e) with
    | some t => { s with arr := { s.arr with reds := addPart s.arr.reds t en.cycle (e / 32) (rreg en ra.toNat) } }
    | none => slotDoubt s e)

/-- One level of the tree: neighbours combined in order (R73). -/
def pairUp (f : Word → Word → Word) : List Word → List Word
  | a :: b :: t => f a b :: pairUp f t
  | l => l

/-- The reduction tree over the 32 Sleeves: five levels (R73). -/
def treeReduce (isMax : Bool) (parts : Tab Word) : Word :=
  let f := if isMax then fun a b => (fMinMax true a b).1 else fun a b => (fAdd a b).1
  let leaf := (List.range 32).map fun n => tget (if isMax then f32NegInf else 0) parts n
  ((pairUp f (pairUp f (pairUp f (pairUp f (pairUp f leaf))))).head?).getD 0

/-- Contributor mask (R72). -/
def partMask (parts : Tab Word) : Word := parts.foldl (fun w x => setBit w x.1) 0

/-- The reduction slots in force: those of the round bodies where a Sleeve runs one, those of the seed bodies where a Sleeve
runs seed rounds (R71, R125). -/
def slotsNow (s : State) : List RedSlot :=
  if !s.arr.started then []
  else (if (List.range 32).any fun sl => !seeding s sl then s.pat.run.reds else [])
    ++ (if (List.range 32).any fun sl => seeding s sl then s.pat.run.seedReds else [])

/-- The reduction of a slot has completed in this round. -/
def slotDone (s : State) (t : RedSlot) : Bool :=
  s.arr.resNew.any fun d => d.due == t.cycle + 12 && d.isMax == t.isMax && d.res == t.res

/-- The result of a slot from the contributions that it has received; a slot without any gives the identity (R71 to R73). -/
def slotResult (s : State) (t : RedSlot) : RedDone :=
  let parts := ((s.arr.reds.find? (ofSlot t)).map (·.parts)).getD []
  { due := t.cycle + 12, isMax := t.isMax, res := t.res, value := treeReduce t.isMax parts, mask := partMask parts }

/-- Value and mask of a result register after reductions, of which the one that completes last counts (R71). -/
def resAfter (r : Nat) (start : Word × Word) (l : List RedDone) : Word × Word :=
  (l.foldl (fun (b : Nat × Word × Word) d => if d.res = r ∧ b.1 ≤ d.due then (d.due, d.value, d.mask) else b) (0, start)).2

/-- Value and mask of a result register as an engine reads it in a cycle: the reductions due by then have written it
(R71, R110). -/
def resAt (s : State) (r cycle : Nat) : Word × Word :=
  let come := (slotsNow s).filter fun t => decide (t.cycle + 12 ≤ cycle) && !slotDone s t
  let done := s.arr.resNew.filter fun d => decide (d.due ≤ cycle)
  resAfter r (tget 0 s.arr.res r, tget 0 s.arr.resMask r) (done ++ come.map (slotResult s))

/-- YRES: value or contributor mask of a result register (R71, R110). -/
def execYres (e : EngineId) (p : Pred) (rd : Reg) (mask : Bool) (r : BitVec 4) (s : State) : Out :=
  .next (issueS s e p fun s => updEngine s e fun en =>
    let x := resAt s r.toNat en.cycle
    launchReg en 1 rd.toNat (if mask then x.2 else x.1, 0))

/-- TALLY: adds 1 to a bin, saturating; a bin out of range sets TALLY_RANGE and increments nothing, inside the tally window
or outside it; the window is checked all the same (R75, R78, R79, R82, R111). -/
def execTally (e : EngineId) (p : Pred) (ra : Reg) (imm : BitVec 12) (s : State) : Out :=
  .next (issueS s e p fun s =>
    let en := engine s e
    let bin := (effAddr en ra imm).toNat
    let s := if 1536 ≤ bin then updEngine s e fun en => setFlags en fTALLY else s
    if windowOk s e 16 en.cycle true then
      if 1536 ≤ bin then s
      else
        let s := tallyEcc s (e / 32) (bin / 2)
        let k := e / 32 * 1536 + bin
        let v := tget 0 s.arr.bins k
        if v = 0xFFFFFFFF then updSleeve s (e / 32) fun x => { x with sticky := setBit x.sticky 13 }
        else { s with arr := { s.arr with bins := tset 0 s.arr.bins k (v + 1) } }
    else slotDoubt s e)

/-- A value presented to an extreme slot (R76); the value is no NaN. -/
def present (x : Ext) (v round : Word) : Ext :=
  let v := fFlush v
  let x := if fCmp v x.min < 0 then { x with min := v, minRound := round } else x
  if 0 < fCmp v x.max then { x with max := v, maxRound := round } else x

/-- Presents a value to a slot of the tally unit of a Sleeve; a NaN sets EXT_NAN (R76, R79, R82). -/
def presentTo (s : State) (sl slot : Nat) (v : Word) : State :=
  if f32IsNaN v then updSleeve s sl fun x => { x with sticky := setBit x.sticky 12 }
  else
    let s := tallyEcc (tallyEcc s sl (768 + 2 * slot)) sl (769 + 2 * slot)
    let k := sl * 128 + slot
    { s with arr := { s.arr with exts := tset {} s.arr.exts k (present (tget {} s.arr.exts k) v s.wheel.round) } }

/-- EXTREME (R76, R111). -/
def execExtreme (e : EngineId) (p : Pred) (ra : Reg) (slot : BitVec 7) (s : State) : Out :=
  .next (issueS s e p fun s =>
    let en := engine s e
    if windowOk s e 16 en.cycle true then presentTo s (e / 32) slot.toNat (rreg en ra.toNat) else slotDoubt s e)

/-- TRIP: the port enters HEM; of several in one round the earliest cycle, then the lowest engine, gives the reason
(R112). -/
def execTrip (e : EngineId) (p : Pred) (reason : Byte) (j : BitVec 3) (s : State) : Out :=
  .next (issueS s e p fun s =>
    let sl := e.val / 32
    let c := (engine s e).cycle
    let n := 8 * sl + j.toNat
    match tfind (sleeve s sl).trips j.toNat with
    | some (c0, e0, _) =>
      if c < c0 || (c == c0 && e.val < e0) then
        let s := updSleeve s sl fun x => { x with trips := tput x.trips j.toNat (c, e.val, reason) }
        updCtl s n fun k => { k with tripReason := reason }
      else s
    | none => tripPort (updSleeve s sl fun x => { x with trips := tput x.trips j.toNat (c, e.val, reason) }) n reason)

/-- The wheel read table (R113); none for a selector above 6. -/
def wheelRead (s : State) (sel : Nat) : Option Word :=
  match sel with
  | 0 => some s.wheel.acc
  | 1 => some s.wheel.round
  | 2 => some s.wheel.seam
  | 3 => some (BitVec.ofNat 32 s.wheel.ris)
  | 4 => some (BitVec.ofNat 32 s.wheel.ric)
  | 5 => some (BitVec.ofNat 32 s.wheel.w)
  | 6 => some (BitVec.ofNat 32 s.wheel.l)
  | _ => none

/-- RDW (R113). -/
def execRdw (e : EngineId) (p : Pred) (rd : Reg) (sel : BitVec 4) (s : State) : Out :=
  issueReg s e p 1 rd fun _ => match wheelRead s sel.toNat with
    | some w => (w, 0)
    | none => (0, fILL)

/-- An engine as it stood at the end of the cycle before its present one. -/
def cycleBefore (en : Engine) : Engine := match en.cycle with | 0 => en | c + 1 => settle en c

/-- RDFLG: the flags as they stood at the end of the cycle before: those of results written in its own cycle are not among
them (R118, R119; DEDUCED, notes/assumptions/13.md). -/
def execRdflg (e : EngineId) (p : Pred) (rd : Reg) (s : State) : Out :=
  issueReg s e p 1 rd fun _ => ((cycleBefore (engine s e)).flags.setWidth 32, 0)

/-- The flags that the results written in the present cycle set (R118). -/
def flagsNow (en : Engine) : BitVec 16 := (settle { cycleBefore en with flags := 0 } en.cycle).flags

/-- CLRFLG; a flag that is set in the same cycle stays set (R118). -/
def execClrflg (e : EngineId) (p : Pred) (mask : BitVec 11) (s : State) : Out :=
  .next (issue s e p fun en => { en with flags := (en.flags &&& ~~~(mask.setWidth 16)) ||| flagsNow (engine s e) })

/-- An instruction that takes effect whatever its predicate field (NOP, ENDROUND, REPEAT; R96). -/
def always : Pred := { n := false, p := 0 }

/-- NOP (R96). -/
def execNop (e : EngineId) (s : State) : Out := .next (issue s e always fun en => en)

/-- A REPEAT is well formed where it stands (R115). -/
def repeatOk (en : Engine) (pfield : BitVec 4) (len : Nat) : Bool :=
  pfield == 0 && decide (1 ≤ len) && match en.reps with
    | [] => true
    | [o] => decide (en.pc + 1 + len ≤ o.start + o.len)
    | _ => false

/-- REPEAT (R114, R115). -/
def execRepeatI (e : EngineId) (pfield : BitVec 4) (count : BitVec 10) (len : BitVec 10) (s : State) : Out :=
  .next (if canIssue s e then updEngine (fetchEcc s e) e fun en =>
    let en := settle en en.cycle
    if repeatOk en pfield len.toNat then
      { en with
        pc := en.pc + 1, cycle := en.cycle + 1, issued := en.issued + 1,
        reps := { start := en.pc + 1, len := len.toNat, iter := 0, last := count.toNat } :: en.reps }
    else nextWord (setFlags en fILL)
  else s)

/-- Index of the REPEAT level named: outer is a REPEAT that stands in no other, inner one that stands in its body
(R115; DEDUCED, notes/assumptions/8.md). -/
def repIndex (en : Engine) (outer : Bool) : Nat := ((en.reps.reverse[if outer then 0 else 1]?).map (·.iter)).getD 0

/-- RIDX (R115). -/
def execRidx (e : EngineId) (p : Pred) (rd : Reg) (outer : Bool) (s : State) : Out :=
  issueReg s e p 1 rd fun en => (BitVec.ofNat 32 (repIndex en outer), 0)

/-- ENDROUND: the engine issues nothing until the next tick (R54, R116). -/
def execEndround (e : EngineId) (s : State) : Out :=
  .next (issue s e always fun en => { en with ended := true })

/-! ### Hardware of the round -/

/-- RESULT_WRITEBACK: results due by a cycle are written (R91, R94). -/
def execResultWriteback (e : EngineId) (cycle : Nat) (s : State) : Out :=
  .next (updEngine s e fun en => settle en cycle)

/-- Removes the first message for a Sleeve. -/
def takeYoke (d : Nat) : List YokeMsg → Option (YokeMsg × List YokeMsg)
  | [] => none
  | m :: t => if m.dst = d then some (m, t) else (takeYoke d t).map fun r => (r.1, m :: r.2)

/-- YOKE_ARRIVAL: the oldest word under way to the Sleeve reaches its entry; with an uncorrectable error it is
delivered as empty (R68, R74). -/
def execYokeArrival (d : SleeveId) (ue : Bool) (s : State) : Out :=
  .next (match takeYoke d s.arr.yoke with
  | none => s
  | some (m, rest) =>
    let s := { s with arr := { s.arr with yoke := rest } }
    updSleeve s d fun x =>
      let r : YokeRx := { due := m.due, entry := m.entry, word := if ue then none else some m.word }
      { x with rx := x.rx ++ [r], sticky := if ue then setBit x.sticky 10 else x.sticky })

/-- Enters completed reductions: they are read from their cycle on (R71). -/
def addDone (s : State) (l : List RedDone) : State :=
  { s with arr := { s.arr with resNew := s.arr.resNew ++ l } }

/-- The slots of a cycle whose reductions have not completed. -/
def openSlots (s : State) (cycle : Nat) : List RedSlot :=
  (slotsNow s).filter fun t => t.cycle == cycle && !slotDone s t

/-- REDUCTION_RESULT for the slot of a cycle; an uncorrectable error writes NaN with mask 0 and raises RED_UE, a doubt
of controller scope (R71 to R74). -/
def execReductionResult (cycle : Nat) (ue : Bool) (s : State) : Out :=
  .next (match openSlots s cycle with
  | [] => s
  | l =>
    if ue then
      let s := addDone s (l.map fun t => { slotResult s t with value := f32NaN, mask := 0 })
      raiseCtrl { s with arr := { s.arr with arraySticky := setBit s.arr.arraySticky 0 } } 4
    else addDone s (l.map (slotResult s)))

/-- At a tick every reduction of the round has been written: the registers keep what completed last (R71). -/
def foldResults (s : State) : State :=
  let s := addDone s (((slotsNow s).filter fun t => !slotDone s t).map (slotResult s))
  let regs := (s.arr.resNew.map (·.res)).eraseDups
  let get (r : Nat) := resAfter r (tget 0 s.arr.res r, tget 0 s.arr.resMask r) s.arr.resNew
  { s with arr := { s.arr with
      res := regs.foldl (fun t r => tset 0 t r (get r).1) s.arr.res,
      resMask := regs.foldl (fun t r => tset 0 t r (get r).2) s.arr.resMask, resNew := [], reds := [], yoke := [] } }

end Sys2Proof.Machine
end

