-- ==== Sys2Proof/Machine/EngineDecode.lean ====
section
/-! DEFINITION. The engine instruction word: its fields (R87), which words are listed (R96), and the meaning of a word
that is not. The loader's checks of R129 read instruction words through the same fields. -/
namespace Sys2Proof.Machine

/-- Bits `lo + n - 1` to `lo` of a word. -/
def field (w : Word) (lo n : Nat) : Nat := w.toNat / 2 ^ lo % 2 ^ n

/-- Predicate field, bits 31:28 (R87). -/
def wPred (w : Word) : Pred := { n := hasBit w 31, p := BitVec.ofNat 3 (field w 28 3) }
/-- Opcode, bits 27:22 (R87). -/
def wOp (w : Word) : Nat := field w 22 6
/-- RD, bits 21:17 (R87). -/
def wRd (w : Word) : Nat := field w 17 5
/-- RA, bits 16:12 (R87). -/
def wRa (w : Word) : Nat := field w 12 5
/-- RB, bits 11:7 (R87). -/
def wRb (w : Word) : Nat := field w 7 5
/-- FN, bits 6:0 (R87). -/
def wFn (w : Word) : Nat := field w 0 7
/-- IMM12, bits 11:0 (R87). -/
def wImm (w : Word) : Nat := field w 0 12
/-- COUNT, bits 21:12 (R87). -/
def wCount (w : Word) : Nat := field w 12 10
/-- LEN, bits 9:0 (R87). -/
def wLen (w : Word) : Nat := field w 0 10

/-- The FN values that an opcode lists; none where the opcode takes no FN value or is not listed (R96). -/
def listedFns : Nat → Option (List Nat)
  | 0x01 => some (List.range 15)
  | 0x0B => some ([0, 1, 2, 3, 4, 5, 0x10, 0x11, 0x12, 0x13])
  | 0x0C => some [0, 1, 2, 3]
  | 0x10 => some [0, 1, 2, 3, 4]
  | 0x11 => some [0, 1, 2, 3]
  | 0x12 => some [0, 1, 2, 3]
  | 0x13 => some [0, 1]
  | 0x18 => some [0, 1, 2, 4, 5, 6, 7, 8, 9, 10, 11, 12, 13]
  | 0x19 => some [0, 1]
  | 0x1A => some [0, 1, 2, 3]
  | _ => none

/-- Opcodes listed with fields other than FN, or with an FN of which every value has a meaning (R96). -/
def plainOps : List Nat :=
  [0x00, 0x02, 0x03, 0x04, 0x05, 0x06, 0x08, 0x09, 0x0A, 0x14, 0x1B, 0x20, 0x21, 0x22, 0x24, 0x25, 0x26, 0x27, 0x28,
   0x29, 0x2A, 0x2B, 0x2C, 0x2D, 0x2E, 0x2F, 0x30, 0x31, 0x3C, 0x3D, 0x3F]

/-- The instruction table lists this word (R96). -/
def listedWord (w : Word) : Bool :=
  match listedFns (wOp w) with
  | some l => l.contains (wFn w)
  | none => plainOps.contains (wOp w)

/-! ### The command that a word spells (R87, R96) -/

/-- A register field. -/
def regOf (n : Nat) : Reg := BitVec.ofNat 5 n
/-- IMM12 of an I-format word. -/
def imm12Of (w : Word) : BitVec 12 := BitVec.ofNat 12 (wImm w)
/-- IMM16 of a U-format word: its bits 15:0. -/
def imm16Of (w : Word) : BitVec 16 := BitVec.ofNat 16 (field w 0 16)

/-- ALU, opcode 0x01. -/
def decodeAlu (e : EngineId) (p : Pred) (rd ra rb : Reg) (w : Word) : Instr :=
  match wFn w with
  | 0x00 => .add e p rd ra rb
  | 0x01 => .sub e p rd ra rb
  | 0x02 => .andR e p rd ra rb
  | 0x03 => .orR e p rd ra rb
  | 0x04 => .xorR e p rd ra rb
  | 0x05 => .shl e p rd ra rb
  | 0x06 => .shr e p rd ra rb
  | 0x07 => .sra e p rd ra rb
  | 0x08 => .min e p rd ra rb
  | 0x09 => .max e p rd ra rb
  | 0x0A => .minu e p rd ra rb
  | 0x0B => .maxu e p rd ra rb
  | 0x0C => .sexth e p rd ra
  | 0x0D => .zexth e p rd ra
  | 0x0E => .highh e p rd ra
  | _ => .unlistedOpcode e w

/-- CMP, opcode 0x0B: pd is RD bits 19:17. -/
def decodeCmp (e : EngineId) (p : Pred) (ra rb : Reg) (w : Word) : Instr :=
  let pd := BitVec.ofNat 3 (wRd w)
  match wFn w with
  | 0x00 => .cmpEq e p pd ra rb
  | 0x01 => .cmpNe e p pd ra rb
  | 0x02 => .cmpLt e p pd ra rb
  | 0x03 => .cmpLe e p pd ra rb
  | 0x04 => .cmpLtu e p pd ra rb
  | 0x05 => .cmpLeu e p pd ra rb
  | 0x10 => .cmpFeq e p pd ra rb
  | 0x11 => .cmpFne e p pd ra rb
  | 0x12 => .cmpFlt e p pd ra rb
  | 0x13 => .cmpFle e p pd ra rb
  | _ => .unlistedOpcode e w

/-- PLOG, opcode 0x0C: bits 2:0 of RD, RA and RB. -/
def decodePlog (e : EngineId) (p : Pred) (w : Word) : Instr :=
  let pd := BitVec.ofNat 3 (wRd w)
  let pa := BitVec.ofNat 3 (wRa w)
  let pb := BitVec.ofNat 3 (wRb w)
  match wFn w with
  | 0 => .pand e p pd pa pb
  | 1 => .por e p pd pa pb
  | 2 => .pxor e p pd pa pb
  | 3 => .pandn e p pd pa pb
  | _ => .unlistedOpcode e w

/-- MUL and QALU, opcodes 0x10 and 0x11. -/
def decodeMul (e : EngineId) (p : Pred) (rd ra rb : Reg) (w : Word) : Instr :=
  match wOp w, wFn w with
  | 0x10, 0 => .mul e p rd ra rb
  | 0x10, 1 => .mulh e p rd ra rb
  | 0x10, 2 => .mulhu e p rd ra rb
  | 0x10, 3 => .qmul15 e p rd ra rb
  | 0x10, 4 => .qmul31 e p rd ra rb
  | 0x11, 0 => .qadd15 e p rd ra rb
  | 0x11, 1 => .qsub15 e p rd ra rb
  | 0x11, 2 => .qadd31 e p rd ra rb
  | 0x11, 3 => .qsub31 e p rd ra rb
  | _, _ => .unlistedOpcode e w

/-- MAC and ACC, opcodes 0x12 and 0x13: RD bit 17 selects the accumulator. -/
def decodeMac (e : EngineId) (p : Pred) (ra rb : Reg) (w : Word) : Instr :=
  let acc := hasBit w 17
  match wOp w, wFn w with
  | 0x12, 0 => .mac e p acc ra rb
  | 0x12, 1 => .msu e p acc ra rb
  | 0x12, 2 => .macq15 e p acc ra rb
  | 0x12, 3 => .msuq15 e p acc ra rb
  | 0x13, 0 => .clra e p acc
  | 0x13, 1 => .lda e p acc ra
  | _, _ => .unlistedOpcode e w

/-- FPU, FMA and DIV, opcodes 0x18 to 0x1A. -/
def decodeFpu (e : EngineId) (p : Pred) (rd ra rb : Reg) (w : Word) : Instr :=
  match wOp w, wFn w with
  | 0x18, 0 => .fadd e p rd ra rb
  | 0x18, 1 => .fsub e p rd ra rb
  | 0x18, 2 => .fmul e p rd ra rb
  | 0x18, 4 => .fmin e p rd ra rb
  | 0x18, 5 => .fmax e p rd ra rb
  | 0x18, 6 => .fabs e p rd ra
  | 0x18, 7 => .fneg e p rd ra
  | 0x18, 8 => .i2f e p rd ra
  | 0x18, 9 => .f2i e p rd ra
  | 0x18, 10 => .q15f e p rd ra
  | 0x18, 11 => .fq15 e p rd ra
  | 0x18, 12 => .q31f e p rd ra
  | 0x18, 13 => .fq31 e p rd ra
  | 0x19, 0 => .fma e p rd ra rb
  | 0x19, 1 => .fms e p rd ra rb
  | 0x1A, 0 => .fdiv e p rd ra rb
  | 0x1A, 1 => .fsqrt e p rd ra
  | 0x1A, 2 => .idiv e p rd ra rb
  | 0x1A, 3 => .udiv e p rd ra rb
  | _, _ => .unlistedOpcode e w

/-- The command that an instruction word spells on engine e (R87, R96); a word that the table does not list is
UNLISTED_OPCODE. -/
def decodeWord (e : EngineId) (w : Word) : Instr :=
  let p := wPred w
  let rd := regOf (wRd w)
  let ra := regOf (wRa w)
  let rb := regOf (wRb w)
  let imm := imm12Of w
  match wOp w with
  | 0x00 => .nop e
  | 0x01 => decodeAlu e p rd ra rb w
  | 0x02 => .addi e p rd ra imm
  | 0x03 => .andi e p rd ra imm
  | 0x04 => .ori e p rd ra imm
  | 0x05 => .xori e p rd ra imm
  | 0x06 => .shifti e p rd ra imm
  | 0x08 => .movi e p rd (imm16Of w)
  | 0x09 => .movh e p rd (imm16Of w)
  | 0x0A => .sel e p rd ra rb (hasBit w 3) (BitVec.ofNat 3 (wFn w))
  | 0x0B => decodeCmp e p ra rb w
  | 0x0C => decodePlog e p w
  | 0x10 | 0x11 => decodeMul e p rd ra rb w
  | 0x12 | 0x13 => decodeMac e p ra rb w
  | 0x14 => .rdacc e p rd (hasBit w 12) (BitVec.ofNat 6 (wImm w))
  | 0x18 | 0x19 | 0x1A => decodeFpu e p rd ra rb w
  | 0x1B => .interp e p rd ra rb
  | 0x20 => .ld e p rd ra imm
  | 0x21 => .st e p rd ra imm
  | 0x22 => .stp e p rd (BitVec.ofNat 6 (wImm w))
  | 0x24 => .lds e p rd ra imm
  | 0x25 => .ldsd e p rd ra imm
  | 0x26 => .sts e p rd ra imm
  | 0x27 => .stsd e p rd ra imm
  | 0x28 => .ysend e p ra
  | 0x29 => .yrecv e p rd (BitVec.ofNat 6 (wImm w))
  | 0x2A => .yred e p ra
  | 0x2B => .yres e p rd (hasBit w 4) (BitVec.ofNat 4 (wImm w))
  | 0x2C => .tally e p ra imm
  | 0x2D => .extreme e p ra (BitVec.ofNat 7 (wImm w))
  | 0x2E => .trip e p (BitVec.ofNat 8 (wImm w / 8)) (BitVec.ofNat 3 (wImm w))
  | 0x2F => .rdw e p rd (BitVec.ofNat 4 (wImm w))
  | 0x30 => .rdflg e p rd
  | 0x31 => .clrflg e p (BitVec.ofNat 11 (wImm w))
  | 0x3C => .repeatI e (BitVec.ofNat 4 (field w 28 4)) (BitVec.ofNat 10 (wCount w)) (BitVec.ofNat 10 (wLen w))
  | 0x3D => .ridx e p rd (hasBit w 0)
  | 0x3F => .endround e
  | _ => .unlistedOpcode e w

/-- The instruction at which an engine stands: the word of its active bank, decoded (R54, R87). -/
def engineInstr (s : State) (e : EngineId) : Instr := decodeWord e (tget 0 s.arr.imem (imemKey e (engine s e).pc))

/-- UNLISTED_OPCODE: a word that the table does not list executes as NOP and sets ILL_OP under its own predicate
(R88, R96). -/
def execUnlistedOpcode (e : EngineId) (word : Word) (s : State) : Out :=
  .next (if listedWord word then s else issue s e (wPred word) fun en => setFlags en fILL)

end Sys2Proof.Machine
end

