-- ==== Sys2Proof/Machine/Wheel.lean ====
section
/-! DEFINITION. The phase wheel (R28 to R50, R447, R449): counters, detectors, states and the frequency update of a
tick, the events of the wheel state table, the wheel block, and local sense (R399, R400). -/
namespace Sys2Proof.Machine

/-! ### Configuration of the wheel (R51) -/

/-- F_MAINS_MAX in effect. -/
def fMax (s : State) : Rat := cfgF s 0x2001 3
/-- F_MAINS_MIN in effect. -/
def fMin (s : State) : Rat := cfgF s 0x2001 4
/-- F_NOM in effect. -/
def fNom (s : State) : Rat := cfgF s 0x2001 2
/-- SLEW in effect. -/
def slew (s : State) : Rat := cfgF s 0x2001 5
/-- RETURN_CYCLES in effect. -/
def returnCycles (s : State) : Rat := (cfg s 0x2001 11 : Nat)

/-- Degrees of an angle difference, wrapped to −180° included to +180° excluded (R447). -/
def wrapDeg (d : Word) : Rat := mkRat d.toInt (2 ^ 32) * 360

/-- Code of a wheel state at 0x2000.01 (R51). -/
def wheelCode : WState → Nat
  | .free => 0 | .acquire => 1 | .locked => 2 | .holdover => 3 | .reacquire => 4 | .slip => 5

/-- LEAD_FEED at 0x2000.02: none in FREE or SYNC (R51). -/
def leadCode (s : State) : Nat :=
  if s.wheel.state == .free || s.wheel.mode == 1 then 0xFF else feedCode s.wheel.lead

/-! ### Reference -/

/-- A frequency lies within F_MAINS_MIN to F_MAINS_MAX. -/
def inRange (s : State) (f : Rat) : Bool := decide (fMin s ≤ f) && decide (f ≤ fMax s)

/-- The feed that the wheel takes as lead before any feed has been made active (R20). -/
def firstLead (s : State) : Option Feed :=
  let fit (x : FeedSt) := x.present && inRange s (f32Val x.freq)
  if fit s.feedA then some .A else if fit s.feedB then some .B else none

/-- The lead in MAINS mode: outside FREE the present one; on leaving FREE the active feed, and while none is active the
choice of R20, or the last lead once a feed has been made active (R20). -/
def leadNow (s : State) : Option Feed :=
  match s.wheel.lead with
  | some f =>
    if s.wheel.state != .free then some f
    else (s.flow.active).orElse fun _ => if s.flow.everActive then some f else firstLead s
  | none => (s.flow.active).orElse fun _ => firstLead s

/-- The reference of the mode in force is present (R39, R40, R50). -/
def refPresent (s : State) : Bool :=
  if s.wheel.mode == 1 then s.wheel.syncPresent
  else match leadNow s with
    | some f => (feedSt s f).present
    | none => false

/-- Measured frequency of the reference. -/
def refFreq (s : State) : Rat :=
  if s.wheel.mode == 1 then f32Val s.wheel.syncFreq
  else match leadNow s with
    | some f => f32Val (feedSt s f).freq
    | none => 0

/-- Seconds between two ticks of the SYNC source: by the frequency of its pulses, before the first one the own round. -/
def syncPeriod (s : State) : Rat :=
  let f := if s.wheel.syncFreq = 0 then s.wheel.fTick else f32Val s.wheel.syncFreq
  1 / (f * ((s.wheel.w : Nat) : Rat))

/-- Expected ticks of the source from its last valid pulse to a time so many seconds later: those whose place is nearer
than half a period, or past. -/
def syncSteps (s : State) (t : Rat) : Int := (t / syncPeriod s + 1 / 2).floor

/-- Phase error of the tick in degrees (R447): against the lead angle less WHEEL_OFFSET, or against the rising edge less
SYNC_DELAY (R48). In a round without a pulse the edge stands where the last valid one places it (DEDUCED,
notes/assumptions/7.md). -/
def phaseError (s : State) : Rat :=
  if s.wheel.mode == 1 then
    if !s.wheel.syncPlaced then 0 else
    let k := syncSteps s s.wheel.syncAge
    let off := wrapDeg (BitVec.ofInt 32
      (((s.wheel.syncRic : Int) + k - (s.wheel.ric : Int)) * ((2 ^ 32 / s.wheel.w : Nat) : Int)))
    let lag := (s.wheel.syncAge - (k : Rat) * syncPeriod s + (cfg s 0x2001 13 : Nat) * mkRat 1 1000000000)
      * f32Val s.wheel.syncFreq * 360
    let e := off + lag
    if 180 ≤ e then e - 360 else if e < -180 then e + 360 else e
  else match leadNow s with
    | some f => wrapDeg ((feedSt s f).angle - s.wheel.acc - BitVec.ofNat 32 (cfg s 0x2001 7))
    | none => 0

/-! ### Transitions (R41) -/

/-- Enters a wheel state: LOCK_LOST on leaving LOCKED, HOLDOVER_SEEN and the tick frequency of the tick before on
entering HOLDOVER (R42, R52). The rounds of a reference out of range count on from LOCKED to REACQUIRE (R41). -/
def wheelTo (s : State) (t : WState) : State :=
  let w := s.wheel
  if w.state == t then s else
  { s with wheel := { w with
      state := t, freqStep := t == .reacquire, acqUp := none, lockCycles := 0, lockOn := false,
      lossRun := 0, outRun := if w.state == .locked && t == .reacquire then w.outRun else 0, inCycles := 0, inOn := false,
      fTick := if t == .holdover then w.fHold else w.fTick,
      sticky := setBitIf (t == .holdover) (setBitIf (w.state == .locked) w.sticky 0) 1 } }

/-- Loss of the reference: FREE from ACQUIRE, HOLDOVER from every other state that follows one (R41). -/
def refLost (s : State) : State :=
  match s.wheel.state with
  | .acquire => wheelTo s .free
  | .locked | .reacquire | .slip => wheelTo s .holdover
  | _ => s

/-- A feed is due to be declared lost (R39). -/
def lossDue (x : FeedSt) : Bool := decide (64 ≤ x.below) && (x.present || x.angleValid)

/-- The reference is due to be declared lost. -/
def refLossDue (s : State) : Bool :=
  if s.wheel.mode == 1 then !s.wheel.syncLost && decide (64 ≤ s.wheel.syncMissed)
  else match leadNow s with
    | some f => lossDue (feedSt s f)
    | none => false

/-- SLIP is due (R41). -/
def slipDue (s : State) : Bool :=
  (s.wheel.state == .locked || s.wheel.state == .reacquire) && decide (64 ≤ s.wheel.outRun) && !refLossDue s

/-- A transition to REACQUIRE is due from LOCKED or SLIP (R41). -/
def reacqDue (s : State) : Bool :=
  ((s.wheel.state == .locked && decide (64 ≤ s.wheel.lossRun))
    || (s.wheel.state == .slip && decide (returnCycles s ≤ s.wheel.inCycles))) && !refLossDue s && !slipDue s

/-- WHEEL_MODE is FREE and no transition that goes before it in R41 is due: the wheel goes FREE. -/
def goFree (s : State) : State :=
  if s.wheel.mode == 2 && s.wheel.state != .free && !refLossDue s && !slipDue s && !reacqDue s then wheelTo s .free
  else s

/-- The reference of the mode in force is lost: the lead is not PRESENT, or R50 has declared the SYNC reference lost. -/
def refGone (s : State) : Bool :=
  if s.wheel.mode == 1 then s.wheel.syncLost else s.wheel.mode != 2 && !refPresent s

/-- Transitions that a tick takes of itself: FREE to ACQUIRE or REACQUIRE, HOLDOVER to REACQUIRE, loss of a reference
that is not there after a change of mode or lead, and the lead chosen on leaving FREE (R20, R41). Until the end of P1 the
wheel stays FREE (R407). -/
def wheelEnter (s : State) : State :=
  let lead := if s.wheel.mode == 0 then leadNow s else s.wheel.lead
  let ready := s.wheel.mode != 2 && refPresent s && inRange s (refFreq s) && !s.boot.coldP0 && s.pat.p1.isNone
  match s.wheel.state with
  | .free =>
    if ready then
      let s := { s with wheel := { s.wheel with lead := lead } }
      wheelTo s (if s.arr.started then .reacquire else .acquire)
    else s
  | .holdover =>
    if ready then
      let s := { s with wheel := { s.wheel with lead := lead } }
      wheelTo s .reacquire
    else goFree s
  | _ => if refGone s then refLost s else goFree s

/-! ### Frequency control (R44, R45, R449) -/

/-- The pull of the trapezoidal profile towards a phase error: at most PULL_MAX, and no more than SLEW can take back
before the error is gone (DEDUCED, notes/assumptions/7.md). -/
def pullProfile (s : State) (err : Rat) : Rat :=
  let v := rmin (cfgF s 0x2001 6) (rsqrt (2 * slew s * rabs err / 360))
  if err < 0 then -v else v

/-- Direction of ACQUIRE for an error counted from 0° to 360°: the way that takes less time, up on a tie (R449). -/
def acquireUp (s : State) (e f : Rat) : Bool := decide (e * (f - fMin s) ≤ (360 - e) * (fMax s - f))

/-- The frequency of ACQUIRE in a chosen direction (R449): the clamp, or in the last round the frequency that leaves an
error below 0.5°, which one being free (notes/assumptions/7.md). -/
def acquireFreq (s : State) (up : Bool) (e f r : Rat) : Rat :=
  let c := if up then fMax s else fMin s
  let rem := if up then e else 360 - e
  let rate := if up then fMax s - f else f - fMin s
  let w : Rat := (s.wheel.w : Nat)
  if c * w * rem < 360 * rate then
    let left := if rabs r < 1 / 2 then r else 0
    let turn := (rem - left) * w / 360
    if up then f / (1 - turn) else f / (1 + turn)
  else c

/-- The frequency update of a tick in every state but ACQUIRE: the target, limited by SLEW over the round just ended
(R44). -/
def slewTo (s : State) (target : Rat) : Rat :=
  let t := rclamp target (fMin s) (fMax s)
  let d := slew s * s.wheel.tRound
  s.wheel.fTick + rclamp (t - s.wheel.fTick) (-d) d

/-- The clamp at which SLIP holds the tick: f_CEIL for a reference above F_MAINS_MAX, f_FLOOR for one below F_MAINS_MIN,
and the clamp it has reached while a reference back in range is counted (R43; DEDUCED, notes/assumptions/7.md). -/
def slipClamp (s : State) : Rat :=
  let f := refFreq s
  if fMax s < f then fMax s else if f < fMin s then fMin s else if s.wheel.slipHigh then fMax s else fMin s

/-- The frequency update at a tick, with the phase error already taken (R44). -/
def wheelFreq (s : State) : State :=
  let w := s.wheel
  let f := refFreq s
  match w.state with
  | .free => { s with wheel := { w with fTick := q40 (slewTo s (fNom s)) } }
  | .holdover => { s with wheel := { w with fTick := q40 (slewTo s w.fHold) } }
  | .acquire =>
    if rabs w.phaseErr < 1 / 2 then
      { s with wheel := { w with fTick := q40 (rclamp f (fMin s) (fMax s)), acqUp := none } }
    else
      let e := if w.phaseErr < 0 then w.phaseErr + 360 else w.phaseErr
      let up := w.acqUp.getD (acquireUp s e f)
      let (r, s) := drawRat s
      { s with wheel := { s.wheel with
          fTick := q40 (rclamp (acquireFreq s up e f r) (fMin s) (fMax s)), acqUp := some up } }
  | .reacquire =>
    if w.freqStep then
      let t := slewTo s f
      { s with wheel := { w with fTick := q40 t, freqStep := decide (t ≠ rclamp f (fMin s) (fMax s)) } }
    else { s with wheel := { w with fTick := q40 (slewTo s (f + pullProfile s w.phaseErr)) } }
  | .locked => { s with wheel := { w with fTick := q40 (slewTo s (f + pullProfile s w.phaseErr)) } }
  | .slip => { s with wheel := { w with fTick := q40 (slewTo s (slipClamp s)) } }

/-! ### What a tick measures -/

/-- Extrapolated angle one round on (R38). -/
def extrapolate (x : Word × Word) (t : Rat) : Word :=
  x.1 + BitVec.ofInt 32 (f32Val x.2 * t * ((2 ^ 32 : Nat) : Rat)).floor

/-- Takes what the detector of one feed hands over at a tick (R36 to R40). While ANGLE_VALID is 0 angle and frequency
read 0. -/
def takeFeed (s : State) (x : FeedSt) (m : FeedMeas) : FeedSt :=
  let t := s.wheel.tRound
  let mag := f32Val m.mag
  let low := decide (mag < cfgF s 0x2001 9)
  let jump := match x.last with
    | some l => x.angleValid && decide (cfgF s 0x2001 12 < rabs (wrapDeg (m.angle - extrapolate l t)))
    | none => false
  let above := x.angleValid && decide (cfgF s 0x2001 10 ≤ mag)
  { x with
    angle := if x.angleValid then m.angle else 0,
    freq := if x.angleValid then m.freq else 0,
    rawAngle := m.angle, rawFreq := m.freq,
    risen := if cfgF s 0x2001 9 < mag then (match x.risen with
      | some c => some (q40 (c + f32Val m.freq * t))
      | none => some 0) else none,
    mag := m.mag, neg := m.neg, jump := jump,
    below := if low then x.below + 1 else 0,
    above := above,
    aboveCycles := if above then (if x.above then x.aboveCycles + f32Val m.freq * t else 0) else 0,
    last := if x.angleValid then some (m.angle, m.freq) else none,
    presentTime := if x.present then x.presentTime + q40 t else 0 }

/-- Both feeds at a tick, with the sticky bits of R38. -/
def takeFeeds (s : State) (i : TickIn) : State :=
  let a := takeFeed s s.feedA i.a
  let b := takeFeed s s.feedB i.b
  { s with
    feedA := a,
    feedB := b,
    wheel := { s.wheel with
      sticky := setBitIf i.shortCycle (setBitIf b.jump (setBitIf a.jump s.wheel.sticky 5) 6) 8 } }

/-- A code of a sample is over range (R157). -/
def overRange (c : BitVec 16) : Bool := c == 0x7FFF || c == 0x8000

/-- Word with the bits of the channels that satisfy a test. -/
def chanBits (f : Nat → Bool) : BitVec 16 :=
  BitVec.ofNat 16 ((List.range 16).foldl (fun a c => if f c then a + 2 ^ c else a) 0)

/-- Local sense converts (R399, R400). -/
def takeSense (s : State) (codes : List (BitVec 16)) : State :=
  let code (c : Nat) : BitVec 16 := (codes[c]?).getD 0
  let ovr (c : Nat) := overRange (code c)
  let tail (c : Nat) := (s.sense.tail[c]?).getD 0
  let marks (c : Nat) := ovr c || decide (0 < tail c)
  let susp (c : Nat) := !ovr c && (List.range 4).any fun j => 4 * (c / 4) + j != c && marks (4 * (c / 4) + j)
  let chans := List.range 16
  { s with sense := { s.sense with
      codes := chans.map code, ovr := chanBits ovr, suspect := chanBits susp,
      tail := chans.map fun c => if ovr c then 3 else tail c - 1,
      sticky := chans.foldl (fun t c =>
        tset 0 t c (setBitIf (susp c) (setBitIf (ovr c) (tget 0 t c) 0) 1)) s.sense.sticky,
      ovrCount := chans.foldl (fun t c =>
        if ovr c then tset 0 t c (Nat.min 0xFFFFFFFF (tget 0 t c + 1)) else t) s.sense.ovrCount } }

/-! ### Counters (R34) -/

/-- Advances the accumulator and the four counters by one tick (R28, R34). -/
def advanceCounters (w : Wheel) : Wheel :=
  let ris := (w.ris + 1) % 1024
  { w with
    acc := w.acc + BitVec.ofNat 32 (2 ^ 32 / w.w), round := w.round + 1,
    ric := (w.ric + 1) % w.w, ris := ris,
    seam := if ris = 0 then w.seam + 1 else w.seam,
    seamDue := ris == 0 }

/-- A timebase of an accepted RESTART load takes effect at this tick: L alone at the halt, W at a cycle start (R130). -/
def takeBase (s : State) : State :=
  match s.wheel.newBase with
  | some (w, l) =>
    if s.pat.restartPend then s
    else if w = s.wheel.w || s.wheel.ric = 0 then
      { s with
        wheel := { s.wheel with
          w := w, l := l, ric := if w = s.wheel.w then s.wheel.ric else 0, newBase := none },
        pat := { s.pat with holdSeam := s.wheel.seam } }
    else s
  | none => s

/-- Width of the WHEEL_SYNC_OUT pulse of a tick (R47). -/
def syncOutWidth (s : State) : Nat :=
  if cfg s 0x2001 14 == 0 then 0 else if s.wheel.ric = 0 then 256 else if s.wheel.ris = 0 then 128 else 64

/-- Run counters from which the events of the wheel state table follow (R41). -/
def wheelRuns (s : State) : State :=
  let w := s.wheel
  let f := refFreq s
  let ferr := rabs (f - w.fTick)
  let good := decide (rabs w.phaseErr < 1 / 2) && decide (ferr < 1 / 100)
  let bad := decide (2 < rabs w.phaseErr) || decide (1 / 20 < ferr)
  let out := !inRange s f
  { s with wheel := { w with
      lockCycles := if good then (if w.lockOn then w.lockCycles + mkRat 1 w.w else 0) else 0, lockOn := good,
      lossRun := if w.state == .locked && bad then w.lossRun + 1 else 0,
      outRun := if (w.state == .locked || w.state == .reacquire) && out then w.outRun + 1 else 0,
      inCycles := if w.state == .slip && !out then (if w.inOn then w.inCycles + f * w.tRound else 0) else 0,
      inOn := w.state == .slip && !out } }

/-- The expected ticks of the SYNC source that have passed since its last valid pulse; one of them breaks the run of
cycles of R50. -/
def syncTick (s : State) : State :=
  if s.wheel.mode != 1 then s
  else
    let age := s.wheel.syncAge + s.wheel.tRound
    let missed := (syncSteps s age - 1).toNat
    { s with wheel := { s.wheel with
        syncAge := q40 age, syncMissed := missed, syncCycles := if missed = 0 then s.wheel.syncCycles else 0 } }

/-- The wheel's counters at a tick, with the length of the round just ended and a timebase that takes effect. -/
def wheelCount (s : State) : State :=
  let w := s.wheel
  let tr := 1 / (w.fTick * ((w.w : Nat) : Rat))
  let s := { s with wheel := { (advanceCounters w) with
      tRound := tr, fHold := if w.state == .holdover then w.fHold else w.fTick } }
  takeBase (syncTick s)

/-- What the wheel measures at a tick, under the configuration in effect from that tick on. -/
def wheelMeasure (s : State) (i : TickIn) : State := takeSense (takeFeeds s i) i.sense

/-- Transitions, phase error and the frequency of the round that begins, and the sync pulse of the tick. -/
def wheelSet (s : State) : State :=
  let s := wheelEnter s
  let s := { s with wheel := { s.wheel with phaseErr := q40 (phaseError s) } }
  let s := wheelRuns (wheelFreq s)
  { s with wheel := { s.wheel with syncOut := if s.boot.highZ then 0 else syncOutWidth s } }

/-! ### The wheel block (R59) -/

/-- Zero bytes. -/
def zeros (n : Nat) : List Byte := List.replicate n 0

/-- The 32 bytes of one feed in the wheel block: 20 of values, 12 reserved. -/
def feedBlock (x : FeedSt) : List Byte :=
  wordBytes x.angle ++ wordBytes x.freq ++ wordBytes x.mag ++ wordBytes x.neg
    ++ leBytes 4 (b2n x.angleValid + 2 * b2n x.present + 4 * b2n x.jump) ++ zeros 12

/-- The 132 bytes at 0x0200 that describe the present tick (R59). -/
def wheelBlock (s : State) : List Byte :=
  let w := s.wheel
  wordBytes w.acc ++ wordBytes w.round ++ wordBytes w.seam ++ leBytes 2 w.ric ++ leBytes 2 w.ris
    ++ wordBytes (f32Of w.fTick) ++ leBytes 1 (wheelCode w.state) ++ leBytes 1 (leadCode s) ++ zeros 10
    ++ feedBlock s.feedA ++ feedBlock s.feedB
    ++ (s.sense.codes.map fun c => leBytes 2 c.toNat).flatten
    ++ leBytes 2 s.sense.ovr.toNat ++ leBytes 2 s.sense.suspect.toNat

/-! ### Events of the wheel -/

/-- ANGLE_VALID: the angle of a feed whose magnitude exceeds LOSS_LEVEL becomes valid, and its angle and frequency of the
last tick read (R36, R37). -/
def angleValidNow (s : State) (f : Feed) : State :=
  let x := feedSt s f
  if !x.angleValid && x.risen.isSome then
    setFeed s f { x with
      angleValid := true, angle := x.rawAngle, freq := x.rawFreq, last := some (x.rawAngle, x.rawFreq) }
  else s

/-- ANGLE_VALID of a feed has to rise before the next tick: a quarter of its cycle ends there (R37). -/
def angleDue (s : State) (x : FeedSt) : Bool :=
  !x.angleValid && match x.risen with
    | some c => decide (1 / 4 ≤ c + f32Val x.rawFreq / (s.wheel.fTick * ((s.wheel.w : Nat) : Rat)))
    | none => false

/-- The wheel's part of FEED_LOSS (R37, R39, R41). -/
def feedLost (s : State) (f : Feed) : State :=
  let x := feedSt s f
  let s := setFeed s f { x with
      angleValid := false, present := false, angle := 0, freq := 0, last := none, aboveCycles := 0, above := false,
      risen := none, presentTime := 0 }
  let s := trigger s 2
  if s.wheel.mode != 1 && s.wheel.lead == some f then refLost s else s

/-- A feed meets R40. -/
def returnDue (s : State) (x : FeedSt) : Bool := !x.present && decide (returnCycles s ≤ x.aboveCycles) && x.above

/-- The wheel's part of FEED_RETURN (R40). -/
def feedReturned (s : State) (f : Feed) : State := setFeed s f { (feedSt s f) with present := true, presentTime := 0 }

/-- LOCK_ACHIEVED (R41). -/
def lockNow (s : State) : State :=
  if (s.wheel.state == .acquire || s.wheel.state == .reacquire) && decide (2 ≤ s.wheel.lockCycles) && !refLossDue s
      && !slipDue s then
    wheelTo s .locked
  else s

/-- LOCKED is left for REACQUIRE: phase or frequency error beyond the limits for 64 consecutive rounds (R41). -/
def lockLossNow (s : State) : State := if s.wheel.state == .locked && reacqDue s then wheelTo s .reacquire else s

/-- LOCK_LOSS (R41). -/
def execLockLoss (s : State) : Out := .next (lockLossNow s)

/-- The wheel goes to the clamp, a doubt of controller scope (R41, R43). -/
def slipNow (s : State) : State :=
  if slipDue s then
    let high := decide (fMax s < refFreq s)
    let s := wheelTo s .slip
    let s := { s with wheel := { s.wheel with
        slipHigh := high, sticky := setBit s.wheel.sticky (if high then 2 else 3) } }
    raiseCtrl s 3
  else s

/-- SLIP (R41, R43). -/
def execSlip (s : State) : Out := .next (slipNow s)

/-- SLIP is left for REACQUIRE (R41). -/
def slipReturnNow (s : State) : State := if s.wheel.state == .slip && reacqDue s then wheelTo s .reacquire else s

/-- SLIP_RETURN (R41). -/
def execSlipReturn (s : State) : Out := .next (slipReturnNow s)

/-- Class of a sync pulse by its width: 0 tick, 1 seam, 2 cycle start (R48). -/
def pulseClass (width : Nat) : Nat := if width < 96 then 0 else if width < 192 then 1 else 2

/-- Class of the pulse that a round in cycle calls for (R47, R49). -/
def wantClass (ric : Nat) : Nat := if ric = 0 then 2 else if ric % 1024 = 0 then 1 else 0

/-- Expected ticks from the last valid pulse to a pulse that the last own tick lags by `lagNs`; one when no pulse has been
placed. -/
def pulseSteps (s : State) (lagNs : Int) : Int :=
  if s.wheel.syncPlaced then syncSteps s (s.wheel.syncAge - (lagNs : Rat) * mkRat 1 1000000000) else 1

/-- Round in cycle that a pulse calls for: counted on from the last valid one by the ticks expected since; the own one for
a first pulse, round 0 for a first pulse that is a cycle start (DEDUCED, notes/assumptions/7.md). -/
def pulsePlace (s : State) (k : Nat) (lagNs : Int) : Nat :=
  if s.wheel.syncPlaced then ((s.wheel.syncRic : Int) + pulseSteps s lagNs).toNat % s.wheel.w
  else if k = 2 then 0 else s.wheel.ric

/-- SYNC_PULSE: the pulse is classified by its width, checked against the place in the cycle at which it falls, and the
tick is locked to it (R48 to R50). `lagNs` is the time by which the last own tick lags the rising edge. A pulse that falls
nearer to the last one than half a period is none; a cycle start out of place counts as missing and places the sequence
anew (DEDUCED, notes/assumptions/7.md). -/
def execSyncPulse (width : Nat) (lagNs : Int) (freq : Word) (s : State) : Out :=
  .next (let w := s.wheel
  if w.mode != 1 then s else
  let k := pulseClass width
  let n := pulseSteps s lagNs
  let want := pulsePlace s k lagNs
  if n < 1 then s
  else if k = wantClass want then
    let cyc := (if n = 1 then w.syncCycles else 0) + mkRat 1 w.w
    let there := w.syncPresent || decide (returnCycles s ≤ cyc)
    { s with wheel := { w with
        syncPlaced := true, syncRic := want, syncLag := lagNs, syncAge := (lagNs : Rat) * mkRat 1 1000000000,
        syncFreq := freq, syncMissed := 0, syncCycles := cyc, syncPresent := there, syncLost := w.syncLost && !there } }
  else if k = 2 && w.syncPlaced then
    { s with wheel := { w with syncRic := (-n % (w.w : Int)).toNat, syncCycles := 0 } }
  else { s with wheel := { w with syncCycles := 0 } })

/-- The SYNC reference is lost: 64 consecutive expected ticks without a valid pulse (R50). -/
def syncLossNow (s : State) : State :=
  if s.wheel.mode == 1 && refLossDue s then
    refLost { s with wheel := { s.wheel with
        syncPresent := false, syncLost := true, syncCycles := 0, syncPlaced := false, sticky := setBit s.wheel.sticky 4 } }
  else s

/-- SYNC_LOSS (R50). -/
def execSyncLoss (s : State) : Out := .next (syncLossNow s)

/-- The lead role moves at a seam to the active feed (R20, R46): LEAD_CHANGED, and REACQUIRE at once when the lock
criteria do not hold for the new lead. -/
def moveLead (s : State) : State :=
  match s.flow.active with
  | none => s
  | some f =>
    if s.wheel.mode == 1 || s.wheel.state == .free || s.wheel.lead == some f then s
    else
      let s := { s with wheel := { s.wheel with lead := some f, sticky := setBit s.wheel.sticky 7 } }
      let err := phaseError s
      let s := { s with wheel := { s.wheel with phaseErr := q40 err } }
      if s.wheel.state == .locked && !refLossDue s && !slipDue s
          && !(decide (rabs err < 1 / 2) && decide (rabs (refFreq s - s.wheel.fTick) < 1 / 100)) then
        let s := wheelTo s .reacquire
        { s with wheel := { s.wheel with freqStep := decide (refFreq s ≠ s.wheel.fTick) } }
      else s

/-! ### Checks of writes (R32, R33) -/

/-- Raw value as FP32. -/
def rawF (v : Nat) : Rat := f32Val (BitVec.ofNat 32 v)

/-- The envelope of R32 for a timebase and mains limits, in Hz of f_CE. -/
def envelopeOk (w l : Nat) (lo hi : Rat) : Bool :=
  decide (((w * l : Nat) : Rat) * hi ≤ 1200000000) && decide ((600000000 : Rat) ≤ ((w * l : Nat) : Rat) * lo)

/-- The tick frequency lies at least 0.25 Hz inside a range (R32). -/
def insideRange (s : State) (lo hi : Rat) : Bool :=
  decide (lo + 1 / 4 ≤ s.wheel.fTick) && decide (s.wheel.fTick + 1 / 4 ≤ hi)

/-- Status of a write of F_MAINS_MAX (R32, R33). -/
def checkMainsMax (s : State) (v : Nat) : Nat :=
  let hi := rawF v
  let lo := latestF s 0x2001 4
  let nom := latestF s 0x2001 2
  if !(decide (lo < hi)) || !(decide (nom ≤ hi)) || !envelopeOk s.wheel.w s.wheel.l lo hi then stRange
  else if !insideRange s lo hi then stState
  else stOK

/-- Status of a write of F_MAINS_MIN (R32, R33). -/
def checkMainsMin (s : State) (v : Nat) : Nat :=
  let lo := rawF v
  let hi := latestF s 0x2001 3
  let nom := latestF s 0x2001 2
  if !(decide (lo < hi)) || !(decide (lo ≤ nom)) || !envelopeOk s.wheel.w s.wheel.l lo hi then stRange
  else if !insideRange s lo hi then stState
  else stOK

/-- Status of a write of F_NOM: 50.0 or 60.0 within the mains limits (R33, R51). -/
def checkNom (s : State) (v : Nat) : Nat :=
  let f := rawF v
  if (f == 50 || f == 60) && decide (latestF s 0x2001 4 ≤ f) && decide (f ≤ latestF s 0x2001 3) then stOK else stRange

end Sys2Proof.Machine
end

