-- ==== Sys2Proof/Machine/Loader.lean ====
section
/-! DEFINITION. The load-time checks of a pattern (R121 to R125, R129) on the structured image: for each check of the
load-time check table, in table order, whether it fails and what bits 15:0 of LOAD_DETAIL carry. -/
namespace Sys2Proof.Machine

/-! ### Reading an image -/

/-- The value listed for a key, or a default. -/
def look {α : Type} (d : α) (l : List (Nat × α)) (k : Nat) : α := ((l.find? fun x => x.1 == k).map (·.2)).getD d

/-- The words of an engine's bank that the image supplies, by word number. -/
def engWords (img : PatImg) (e : Nat) : List (Nat × Word) :=
  (img.instr.filter fun x => x.1 / 1024 == e).map fun x => (x.1 % 1024, x.2)

/-- The class of a data-memory word: 0 NONE, 1 SCRATCH, 2 CONST, 3 STATE (R124). -/
def wordClass (img : PatImg) (e k : Nat) : Nat := (look 0 img.wordMap (e * 1024 + k)).toNat

/-- The initial value of a data-memory word (R124). -/
def wordInit (img : PatImg) (e k : Nat) : Word := look 0 img.dataInit (e * 1024 + k)

/-- The carried word (R133). -/
def carried (img : PatImg) (e k : Nat) : Bool := img.carry.contains (e * 1024 + k)

/-- Where an engine's seed body starts, if it has one. -/
def seedStart (img : PatImg) (e : Nat) : Option Nat := (img.seedEntry.find? fun x => x.1 == e).map (·.2)

/-- The CRC of a bank of 1,024 zero words (R147). -/
def zeroBankCrc : Word := 0xC71C0011

/-- The CRC of the ENGINE_CRC section of an image, which HELLO carries (R122, R308); 0 where it has none. -/
def crcSection (img : PatImg) : Word := ((img.sections.find? fun x => x.ty == 11).map (·.crc)).getD 0

/-- The CRC recorded for an engine's bank. -/
def recordedCrc (img : PatImg) (e : Nat) : Word := look zeroBankCrc img.engineCrc e

/-- The CRC of a bank whose words are given by a list (R122). -/
def bankCrc (l : List (Nat × Word)) : Word :=
  if l.isEmpty then zeroBankCrc
  else ~~~((List.range 1024).foldl (fun c k => crcFeed c (wordBytes (look 0 l k))) 0xFFFFFFFF)

/-! ### The schedule of a body (R54, R114 to R116) -/

/-- The issues of a body, cycle and word in order, the cycle of ENDROUND if it is reached, and the cycle of the first REPEAT
that is not well formed. -/
structure Walk where
  issues : List (Nat × Word)
  ended : Option Nat
  badRep : Option Nat
  deriving DecidableEq, Repr

/-- Follows a body from a word on, for at most `fuel` cycles. -/
def walk (l : List (Nat × Word)) : Nat → List RepLevel → Nat → Nat → Walk
  | 0, _, _, _ => { issues := [], ended := none, badRep := none }
  | fuel + 1, reps, pc, c =>
    if 1024 ≤ pc then { issues := [], ended := none, badRep := none }
    else
      let w := look 0 l pc
      if wOp w = 0x3F then { issues := [(c, w)], ended := some c, badRep := none }
      else
        let en : Engine := { pc := pc, reps := reps }
        let ok := repeatOk en (BitVec.ofNat 4 (field w 28 4)) (wLen w)
        if wOp w = 0x3C && ok then
          let r := walk l fuel ({ start := pc + 1, len := wLen w, iter := 0, last := wCount w } :: reps) (pc + 1) (c + 1)
          { r with issues := (c, w) :: r.issues }
        else
          let (reps, pc) := advance reps (pc + 1)
          let r := walk l fuel reps pc (c + 1)
          { r with issues := (c, w) :: r.issues, badRep := if wOp w = 0x3C && !ok then some c else r.badRep }

/-- A body of an engine: engine, whether it is the seed body, and its schedule. -/
structure Body where
  eng : Nat
  seed : Bool
  run : Walk
  deriving DecidableEq, Repr

/-- The bodies of an engine: the round body and, where declared, the seed body. -/
def bodiesOf (img : PatImg) (e : Nat) : List Body :=
  let l := engWords img e
  let round : Body := { eng := e, seed := false, run := walk l (img.l + 1) [] 0 0 }
  match (if img.seedRounds = 0 then none else seedStart img e) with
  | some pc => [round, { eng := e, seed := true, run := walk l (img.l + 1) [] pc 0 }]
  | none => [round]

/-- Every body. -/
def allBodies (img : PatImg) : List Body := ((List.range 1024).map (bodiesOf img)).flatten

/-- What a failed check reports: its code, and bits 31:16 and 15:0 of LOAD_DETAIL where R129 fixes them. -/
structure Fail where
  code : Nat
  sect : Option Nat := none
  low : Option Nat := none
  deriving DecidableEq, Repr

/-- The index in the directory of the section of a type and scope, if the image has it (R122). -/
def sectionOf (img : PatImg) (ty scope : Nat) : Option Nat := img.sections.findIdx? fun x => x.ty == ty && x.scope == scope

/-- A failure of an engine's section: the engine number, or for codes 0x08 to 0x11 the cycle of the failure (R129). -/
def failEngine (img : PatImg) (code ty e low : Nat) : Fail := { code := code, sect := sectionOf img ty e, low := some low }

/-- A failure of a global section: R129 fixes no bits 15:0. -/
def failGlobal (img : PatImg) (code ty : Nat) : Fail := { code := code, sect := sectionOf img ty 0xFFFF }

/-- The first issue of any body that a test rejects: the failure carries its cycle, in the engine's INSTR section. -/
def firstIssue (img : PatImg) (code : Nat) (bs : List Body) (bad : Body → Nat → Word → Bool) : Option Fail :=
  bs.findSome? fun b => (b.run.issues.find? fun x => bad b x.1 x.2).map fun x => failEngine img code 1 b.eng x.1

/-! ### Encodings (check 0x07) -/

/-- Registers fields that name a pair and are odd (R89). -/
def oddPair (w : Word) : Bool :=
  match wOp w with
  | 0x25 | 0x27 | 0x29 => wRd w % 2 == 1
  | 0x28 => wRa w % 2 == 1
  | _ => false

/-- A reserved field of the format is not 0 (R87). -/
def badReserved (w : Word) : Bool :=
  match wOp w with
  | 0x08 | 0x09 => hasBit w 16
  | 0x3C => field w 10 2 != 0
  | _ => false

/-- A word that check OPCODE rejects. -/
def badWord (w : Word) : Bool := !listedWord w || oddPair w || badReserved w

/-! ### Results and units (checks 0x09, 0x0A) -/

/-- The results of a word: latency and destination (R91, R96). -/
def results (w : Word) : List (Nat × Dest) :=
  let reg (n r : Nat) : List (Nat × Dest) := if r = 0 then [] else [(n, .reg r)]
  let pair (n r : Nat) := reg n (pairLo r) ++ reg n (pairLo r + 1)
  let prd (k : Nat) : List (Nat × Dest) := if k = 0 then [] else [(1, .pred k)]
  match wOp w with
  | 0x01 | 0x02 | 0x03 | 0x04 | 0x05 | 0x06 | 0x08 | 0x09 | 0x0A | 0x11 | 0x14 | 0x2B | 0x2F | 0x30 | 0x3D => reg 1 (wRd w)
  | 0x0B | 0x0C => prd (wRd w % 8)
  | 0x10 => reg 2 (wRd w)
  | 0x12 | 0x13 => [(3, .acc (wRd w % 2 == 1))]
  | 0x18 => reg (if 4 ≤ wFn w ∧ wFn w ≤ 7 then 1 else 3) (wRd w)
  | 0x19 | 0x1B => reg 4 (wRd w)
  | 0x1A => reg 12 (wRd w)
  | 0x20 => reg 2 (wRd w)
  | 0x24 => reg 4 (wRd w)
  | 0x25 => pair 4 (wRd w)
  | 0x29 => pair 2 (wRd w)
  | _ => []

/-- The cycle in which a body issues its ENDROUND too late, and none where it never does (check 0x08). -/
def lateEnd (img : PatImg) (b : Body) : Option (Option Nat) :=
  match b.run.ended with
  | some c => if img.l < c + 65 then some (some c) else none
  | none => some none

/-- Two results for one destination in one cycle: results still to come are kept while the issues pass. -/
def clashAt : List (Nat × Dest) → List (Nat × Word) → Option Nat
  | _, [] => none
  | open_, (c, w) :: t =>
    let live := open_.filter fun x => decide (c < x.1)
    let new := (results w).map fun x => (c + x.1, x.2)
    if new.any fun x => live.contains x then some c else clashAt (live ++ new) t

/-- A DIV issues while the divider is occupied (R105). -/
def dividerAt : Nat → List (Nat × Word) → Option Nat
  | _, [] => none
  | free, (c, w) :: t =>
    if wOp w = 0x1A then (if c < free then some c else dividerAt (c + 12) t) else dividerAt free t

/-! ### Fixed addresses -/

/-- The address of a memory instruction that is fixed in the image: its base is v0 (DEDUCED,
notes/assumptions/8.md). -/
def fixedAddr (w : Word) : Option Nat := if wRa w = 0 then some (sext12 (BitVec.ofNat 12 (wImm w))).toNat else none

/-- The windows of a body's Sleeve. -/
def winOf (img : PatImg) (b : Body) : List Window :=
  (if b.seed then img.seedWindows else img.windows).filter fun w => w.sleeve == b.eng / 32

/-- A window grants an access. -/
def granted (img : PatImg) (b : Body) (bank c : Nat) (write : Bool) : Bool :=
  (winOf img b).any fun w =>
    w.engine == b.eng % 32 && w.bank == bank && decide (w.first ≤ c) && decide (c ≤ w.last) && (w.write || !write)

/-- The shared-memory address that a fixed LDS, LDSD, STS or STSD reaches. -/
def fixedShm (w : Word) : Option Nat :=
  match wOp w with
  | 0x24 | 0x26 => (fixedAddr w).map fun a => a / 4 % 16384 * 4
  | 0x25 | 0x27 => (fixedAddr w).map fun a => a / 8 % 8192 * 8
  | _ => none

/-- A fixed shared-memory or tally access outside its windows (check 0x0F). -/
def badFixedUse (img : PatImg) (b : Body) (c : Nat) (w : Word) : Bool :=
  match wOp w with
  | 0x2C => (fixedAddr w).isSome && !granted img b 16 c true
  | 0x2D => !granted img b 16 c true
  | _ => match fixedShm w with
    | some a => !granted img b (a / 4096) c (wOp w == 0x26 || wOp w == 0x27)
    | none => false

/-- A Yoke, TALLY or EXTREME instruction outside its slot or window (check 0x11). -/
def badSlotUse (img : PatImg) (b : Body) (c : Nat) (w : Word) : Bool :=
  let sl := b.eng / 32
  match wOp w with
  | 0x28 => !((if b.seed then img.seedSends else img.sends).any fun t =>
      t.cycle == c && t.sleeve == sl && t.engine == b.eng % 32)
  | 0x2A => !((if b.seed then img.seedReds else img.reds).any fun t =>
      t.cycle == c && t.contributors.contains (sl, b.eng % 32))
  | 0x2C | 0x2D => !granted img b 16 c true
  | _ => false

/-- Ownership of a port by an engine (R122). -/
def owns (img : PatImg) (e n : Nat) : Bool :=
  match img.portMap.find? fun x => x.1 == n with
  | some x => hasBit x.2.owners (e % 32)
  | none => false

/-- A store to a downlink slot or a TRIP by an engine that does not own the port (check 0x13). -/
def badOwner (img : PatImg) (b : Body) (w : Word) : Bool :=
  let sl := b.eng / 32
  match wOp w with
  | 0x26 | 0x27 => match fixedShm w with
    | some a => decide (0x2000 ≤ a) && decide (a < 0x2100) && !owns img b.eng (8 * sl + (a - 0x2000) / 32)
    | none => false
  | 0x2E => !owns img b.eng (8 * sl + field w 0 3)
  | _ => false

/-! ### Tables -/

/-- Two entries of a list satisfy a relation. -/
def anyPair {α : Type} (r : α → α → Bool) : List α → Bool
  | [] => false
  | a :: t => t.any (r a) || anyPair r t

/-- A window breaks the rules of the contract table (check 0x0E). -/
def badWindow (img : PatImg) (w : Window) : Bool :=
  decide (16 < w.bank) || w.bank == 1 || (w.bank == 0 && w.write) || decide (img.l ≤ w.last + 64)
    || decide (w.last < w.first) || decide (32 ≤ w.engine) || decide (32 ≤ w.sleeve)

/-- Two windows of one bank overlap. -/
def winOverlap (a b : Window) : Bool :=
  a.sleeve == b.sleeve && a.bank == b.bank && decide (a.first ≤ b.last) && decide (b.first ≤ a.last)

/-- The Sleeve whose window table breaks a rule. -/
def badWindowTable (img : PatImg) : Option Nat :=
  (List.range 32).find? fun sl =>
    let one (t : List Window) :=
      let t := t.filter fun w => w.sleeve == sl
      t.any (badWindow img) || anyPair winOverlap t
    one img.windows || one img.seedWindows

/-- The slot table breaks a rule (check 0x10). -/
def badSlots (img : PatImg) : Bool :=
  let sends (t : List SendSlot) :=
    (t.any fun x => decide (img.l < x.cycle + 71) || x.dst == x.sleeve || decide (32 ≤ x.dst) || decide (32 ≤ x.sleeve)
        || decide (64 ≤ x.entry) || decide (32 ≤ x.engine))
      || anyPair (fun a b => a.cycle == b.cycle && (a.sleeve == b.sleeve || a.dst == b.dst)) t
  let reds (t : List RedSlot) :=
    (t.any fun x => decide (img.l < x.cycle + 77) || decide (16 ≤ x.res)
        || anyPair (fun (a b : Nat × Nat) => a.1 == b.1) x.contributors)
      || anyPair (fun (a b : RedSlot) => a.cycle == b.cycle) t
  sends img.sends || sends img.seedSends || reds img.reds || reds img.seedReds

/-- Stage class codes (R13). -/
def classKnown (c : Nat) : Bool := decide (1 ≤ c ∧ c ≤ 6) || c == 0x7F

/-- The port map breaks a rule (check 0x14). -/
def badPortMap (img : PatImg) : Bool :=
  img.portMap.any fun x => x.2.cls != 0 && (!classKnown x.2.cls.toNat || x.2.owners == 0)

/-- An order of raw values of a parameter type: unsigned, signed or FP32. -/
def rawKey (ty v : Nat) : Rat :=
  if ty = 0x0A then f32Val (BitVec.ofNat 32 v)
  else if ty = 6 then ((BitVec.ofNat 8 v).toInt : Rat)
  else if ty = 7 then ((BitVec.ofNat 16 v).toInt : Rat)
  else if ty = 8 then ((BitVec.ofNat 32 v).toInt : Rat)
  else (v : Rat)

/-- An exported parameter breaks a rule (check 0x16). -/
def badParams (img : PatImg) : Bool :=
  (img.params.any fun p =>
    !(decide (0x5000 ≤ p.index) && decide (p.index ≤ 0x5FFF))
      || decide (rawKey p.ty p.dflt < rawKey p.ty p.lo) || decide (rawKey p.ty p.hi < rawKey p.ty p.dflt)
      || p.targets.any fun t => wordClass img t.1 t.2 != 2)
    || anyPair (fun (a b : Param) => a.index == b.index && a.sub == b.sub) img.params

/-- The engine holds persistent variables (R124). -/
def hasPersist (img : PatImg) (e : Nat) : Bool :=
  img.wordMap.any fun x => x.1 / 1024 == e && decide (960 ≤ x.1 % 1024) && x.2 == 3

/-! ### Hitless swap (checks 0x20 to 0x24) -/

/-- A carried word that is not STATE in both patterns. -/
def badCarry (run img : PatImg) : Option Nat :=
  img.carry.find? fun k => wordClass img (k / 1024) (k % 1024) != 3 || wordClass run (k / 1024) (k % 1024) != 3

/-- A word that the new pattern initialises falls on a CONST or STATE word of the running one with another initial
value. -/
def badInit (run img : PatImg) : Option Nat :=
  (img.wordMap.find? fun x =>
    let e := x.1 / 1024
    let k := x.1 % 1024
    let c := x.2.toNat
    let r := wordClass run e k
    (c == 2 || (c == 3 && !carried img e k)) && decide (2 ≤ r) && decide (wordInit img e k ≠ wordInit run e k)).map (·.1)

/-- Class that a pattern declares for a port. -/
def mapClass (img : PatImg) (n : Nat) : Nat := ((img.portMap.find? fun x => x.1 == n).map fun x => x.2.cls.toNat).getD 0

/-- CLASS changes for a port that is not ABSENT, HEM or LOCKOUT. -/
def badSwapMap (s : State) (run img : PatImg) : Bool :=
  allPorts.any fun n =>
    mapClass run n != mapClass img n
      && !((link s n).state == .absent || (link s n).state == .hem || (link s n).state == .lockout)

/-! ### The check table (R129) -/

/-- Fails with a report when a condition holds. -/
def failIf (c : Bool) (f : Fail) : Option Fail := if c then some f else none

/-- Bytes 0x0000 to 0x003B of the header of an image (R122). -/
def headerBytes (img : PatImg) : List Byte :=
  wordBytes img.magic ++ leBytes 2 img.format ++ leBytes 2 img.headerSize ++ leBytes 4 img.imageSize ++ leBytes 2 img.w
    ++ leBytes 2 img.l ++ wordBytes img.ident ++ wordBytes img.version ++ leBytes 4 (b2n img.stock)
    ++ wordBytes img.persistId ++ leBytes 2 img.seedRounds ++ leBytes 2 img.sections.length ++ leBytes 4 img.dirOffset
    ++ sliceB img.tool 0 16 ++ leBytes 4 img.keySlot

/-- MAGIC, FORMAT, HEADER_SIZE and HEADER_CRC are right (check 0x01). -/
def formatOk (img : PatImg) : Bool :=
  img.magic == 0x31544150 && img.format == 1 && img.headerSize == 0x40 && crc32 (headerBytes img) == img.headerCrc

/-- A section lies outside what header and trailer leave of the image, or off a 16-byte boundary. That a wrong boundary is
a failure of SIZE is DEDUCED (notes/assumptions/8.md). -/
def badPlace (img : PatImg) (x : Section) : Bool :=
  decide (x.offset < 64) || decide (img.imageSize < x.offset + x.data.length + 96) || x.offset % 16 != 0

/-- Two sections overlap. -/
def sectOverlap (a b : Section) : Bool :=
  decide (a.offset < b.offset + b.data.length) && decide (b.offset < a.offset + a.data.length)

/-- The report on a section that fails as a whole: engine number or 0x8000 + s of its scope (R129). -/
def failSection (code : Nat) (img : PatImg) (k : Nat) : Fail :=
  { code := code, sect := some k,
    low := (img.sections[k]?).bind fun x => if x.scope = 0xFFFF then none else some x.scope }

/-- Check 0x02: IMAGE_SIZE exceeds the slot, or a section lies outside the image or overlaps another (R122). -/
def checkSize (img : PatImg) : Option Fail :=
  (failIf (decide (8388608 < img.imageSize) || decide (img.dirOffset < 64)
      || decide (img.imageSize < img.dirOffset + 16 * img.sections.length + 96)) { code := 0x02 }).orElse fun _ =>
  ((img.sections.findIdx? (badPlace img)).map (failSection 0x02 img)).orElse fun _ =>
  ((List.range img.sections.length).find? fun k =>
      match img.sections[k]? with
      | some x => (img.sections.drop (k + 1)).any (sectOverlap x)
      | none => false).map (failSection 0x02 img)

/-- The signature trailer verifies with the key in KEY_SLOT: STOCK with the Lanistan pattern key alone, any other pattern
with an installed customer key alone (R123). -/
def sigOk (s : State) (img : PatImg) : Bool :=
  img.sigKey == some img.keySlot && decide (img.keySlot ≤ 4) && (img.stock == (img.keySlot == 0))
    && (img.keySlot == 0 || !(tget [] s.net.imageKeys img.keySlot).isEmpty)

/-- Checks 0x01 to 0x06: header, sections, signature and timebase. -/
def checkHead (s : State) (img : PatImg) : Option Fail :=
  (failIf (!formatOk img) { code := 0x01 }).orElse fun _ =>
  (checkSize img).orElse fun _ =>
  ((img.sections.findIdx? fun x => crc32 x.data != x.crc).map (failSection 0x03 img)).orElse fun _ =>
  (failIf (!sigOk s img) { code := 0x04 }).orElse fun _ =>
  (failIf (!((img.w == 4096 || img.w == 8192 || img.w == 16384)
      && decide (512 ≤ img.l) && decide (img.l ≤ 4096) && img.l % 64 == 0)) { code := 0x05 }).orElse fun _ =>
  failIf (!envelopeOk img.w img.l (latestF s 0x2001 4) (latestF s 0x2001 3)) { code := 0x06 }

/-- The cycle of the first STP of a body beyond its budget (check 0x0C). -/
def stpOver (img : PatImg) (b : Body) : Option Nat :=
  ((b.run.issues.filter fun x => wOp x.2 == 0x22)[stpBudget img.w]?).map (·.1)

/-- Checks 0x07 to 0x0D: the words and schedules of the bodies. -/
def checkBodies (img : PatImg) (bs : List Body) : Option Fail :=
  ((img.instr.find? fun x => badWord x.2).map fun x => failEngine img 0x07 1 (x.1 / 1024) (x.1 / 1024)).orElse fun _ =>
  (bs.findSome? fun b => (lateEnd img b).map fun c =>
    { code := 0x08, sect := sectionOf img 1 b.eng, low := c : Fail }).orElse fun _ =>
  (bs.findSome? fun b => (clashAt [] b.run.issues).map (failEngine img 0x09 1 b.eng)).orElse fun _ =>
  (bs.findSome? fun b => (dividerAt 0 b.run.issues).map (failEngine img 0x0A 1 b.eng)).orElse fun _ =>
  (bs.findSome? fun b => b.run.badRep.map (failEngine img 0x0B 1 b.eng)).orElse fun _ =>
  (bs.findSome? fun b => (stpOver img b).map (failEngine img 0x0C 1 b.eng)).orElse fun _ =>
  ((img.wordMap.find? fun x => decide (960 ≤ x.1 % 1024) && (x.2 == 1 || x.2 == 2)).map fun x =>
    failEngine img 0x0D 4 (x.1 / 1024) (x.1 / 1024)).orElse fun _ =>
  firstIssue img 0x0D bs fun b _ w =>
    (wOp w == 0x21 && match fixedAddr w with
      | some a => decide (0xF00 ≤ a / 4 % 1024 * 4)
      | none => false)
    || (wOp w == 0x22 && wordClass img b.eng (960 + field w 0 6) == 0)

/-- Checks 0x0E to 0x13: windows, slots, tally bins and ownership. -/
def checkUse (img : PatImg) (bs : List Body) : Option Fail :=
  ((badWindowTable img).map fun sl => failEngine img 0x0E 6 (0x8000 + sl) (0x8000 + sl)).orElse fun _ =>
  (firstIssue img 0x0F bs (badFixedUse img)).orElse fun _ =>
  (failIf (badSlots img) (failGlobal img 0x10 7)).orElse fun _ =>
  (firstIssue img 0x11 bs (badSlotUse img)).orElse fun _ =>
  ((bs.find? fun b => b.run.issues.any fun x => wOp x.2 == 0x2C && match fixedAddr x.2 with
    | some a => decide (1536 ≤ a)
    | none => false).map fun b => failEngine img 0x12 1 b.eng b.eng).orElse fun _ =>
  ((bs.find? fun b => b.run.issues.any fun x => badOwner img b x.2).map fun b => failEngine img 0x13 1 b.eng b.eng)

/-- A module declared as kept matches the catalogue in the controller's firmware: version and digest (R142). -/
def moduleFits (m : ModDecl) : Bool :=
  m.version == Config.moduleVersion m.ident && m.digest == Config.moduleDigest m.ident

/-- Checks 0x14 to 0x19: maps, parameters, seed, CRCs and modules. -/
def checkMaps (img : PatImg) (bs : List Body) : Option Fail :=
  (failIf (badPortMap img) (failGlobal img 0x14 8)).orElse fun _ =>
  ((img.dataInit.find? fun x => decide (wordClass img (x.1 / 1024) (x.1 % 1024) < 2)).map fun x =>
    failEngine img 0x15 3 (x.1 / 1024) (x.1 / 1024)).orElse fun _ =>
  ((bs.find? fun b => b.run.issues.any fun x => wOp x.2 == 0x21 && match fixedAddr x.2 with
    | some a => wordClass img b.eng (a / 4 % 1024) == 2
    | none => false).map fun b => failEngine img 0x15 1 b.eng b.eng).orElse fun _ =>
  (failIf (badParams img) (failGlobal img 0x16 9)).orElse fun _ =>
  (failIf (decide (64 < img.seedRounds)) { code := 0x17 }).orElse fun _ =>
  (if img.seedRounds = 0 then none else
    ((List.range 1024).find? fun e => hasPersist img e && (seedStart img e).isNone).map fun e =>
      { failGlobal img 0x17 2 with low := some e }).orElse fun _ =>
  (((List.range 1024).find? fun e => bankCrc (engWords img e) != recordedCrc img e).map fun e =>
    { failGlobal img 0x18 11 with low := some e }).orElse fun _ =>
  failIf (img.modules.any fun m => !moduleFits m) (failGlobal img 0x19 10)

/-- Checks 0x20 to 0x24, of a hitless load alone. -/
def checkSwap (s : State) (img : PatImg) : Option Fail :=
  let run := s.pat.run
  (failIf (img.w != s.wheel.w || img.l != s.wheel.l) { code := 0x20 }).orElse fun _ =>
  (failIf (img.persistId != run.persistId) { code := 0x21 }).orElse fun _ =>
  ((badCarry run img).map fun k => failEngine img 0x22 5 (k / 1024) (k / 1024)).orElse fun _ =>
  ((badInit run img).map fun k => failEngine img 0x23 4 (k / 1024) (k / 1024)).orElse fun _ =>
  failIf (badSwapMap s run img) (failGlobal img 0x24 8)

/-- The first check of the table that fails (R129); none when the pattern is accepted. -/
def loadFault (s : State) (img : PatImg) (hitless : Bool) : Option Fail :=
  (checkHead s img).orElse fun _ =>
    let bs := allBodies img
    (checkBodies img bs).orElse fun _ =>
    (checkUse img bs).orElse fun _ =>
    (checkMaps img bs).orElse fun _ =>
    if hitless then checkSwap s img else none

end Sys2Proof.Machine
end

