-- ==== Sys2Proof/Machine/Ports.lean ====
section
/-! DEFINITION. What several families ask of a port: whether it meets the conditions of READY (R171), partners in a
Sleeve (R210), and the way out of HEM (R196, R298). -/
namespace Sys2Proof.Machine

/-- Stage class codes that the stage class table lists (R13). -/
def listedClass (c : Nat) : Bool := decide (1 ≤ c ∧ c ≤ 6)

/-- Version of the image held for a far-end family (R417). -/
def imageHeld (s : State) (family : Nat) : Option Word :=
  (s.boot.areas.find? fun a => a.2.1 == family).map fun a => a.2.2

/-- The firmware of a port is current under FW_POLICY (R171, R186). -/
def fwCurrent (s : State) (n : Nat) : Bool :=
  let l := link s n
  match imageHeld s l.fwFamily with
  | none => true
  | some v =>
    let p := pcfg s n 0x23
    p == 0 || (p == 1 && l.fwVersion == v) || (p == 2 && l.fwDone)

/-- The class of a port is the one that the pattern declares for it, which is not 0x00, a port that it does not serve (R15). -/
def classFits (s : State) (n : Nat) : Bool := decide ((link s n).cls.toNat = declClass s n) && declClass s n != 0

/-- The class of a port equals the class declared for it, and the stock pattern serves it (R14, R15). -/
def classOk (s : State) (n : Nat) : Bool := classFits s n && (listedClass (link s n).cls.toNat || !s.pat.run.stock)

/-- The UID of a port is the expected one (R171). -/
def uidOk (s : State) (n : Nat) : Bool := pcfg s n 0x22 == 0 || pcfg s n 0x22 == (link s n).uid.toNat

/-- R171: class, identity and firmware allow READY. -/
def readyOk (s : State) (n : Nat) : Bool := classOk s n && uidOk s n && fwCurrent s n

/-- State of a port that no hold covers any more: READY if R171 holds, DISCOVERED otherwise (R298). -/
def freeState (s : State) (n : Nat) : PState := if readyOk s n then .ready else .discovered

/-- A DISCOVERED port becomes READY as soon as R171 holds (R171). -/
def toReady (s : State) (n : Nat) : State :=
  if (link s n).state == .discovered && readyOk s n && (link s n).fwLoad == 0 then setPState s n .ready else s

/-- A released port leaves HEM at its seam when no hold covers it (R295, R298). -/
def leaveHem (s : State) (n : Nat) : State :=
  match (ctl s n).release with
  | none => s
  | some (k + 1) => updCtl s n fun c => { c with release := some k }
  | some 0 =>
    if (link s n).state == .hem && !portHeld s n then
      let s := updCtl s n fun c => { c with release := none }
      setPState s n (freeState s n)
    else if (link s n).state == .hem then s
    else updCtl s n fun c => { c with release := none }

/-- Marks every port in HEM whose only hold was the broader scope just released: it leaves at the next seam (R298). -/
def markFree (s : State) (l : List Nat) : State :=
  forAll l (fun s n =>
    if (link s n).state == .hem && !portHeld s n then updCtl s n fun c => { c with release := some 0 } else s) s

/-- Partner of a port under the stock pattern: 2i and 2i+1 (R210). -/
def partner (n : Nat) : Nat := if n % 2 = 1 then n - 1 else n + 1

/-- Reported stage class of a port. -/
def clsOf (s : State) (n : Nat) : Nat := (link s n).cls.toNat

/-- Ports whose declared class is c, in port order. -/
def portsOf (s : State) (c : Nat) : List Nat :=
  (s.pat.run.portMap.filter fun e => e.2.cls.toNat == c).map (·.1)

/-- The port is in STARTING, RUNNING or STOPPING. -/
def isLive (t : PState) : Bool := t == .starting || t == .running || t == .stopping

/-- The engines that serve a port (R23). -/
def portEngines (n : Nat) : List Nat := (List.range 3).map fun k => 32 * (n / 8) + 3 * (n % 8) + k

/-- The engines that do the rack-level work of a Sleeve (R23). -/
def rackEngines (sl : Nat) : List Nat := (List.range 8).map fun k => 32 * sl + 24 + k

/-- The module of a port is the stock module of its class: the Collar's modules act for it (R142). -/
def stockPort (s : State) (n : Nat) : Bool :=
  match s.pat.run.portMap.find? fun e => e.1 == n with
  | some e => s.pat.run.stock || (e.2.module != 0 && s.pat.run.modules.any fun m => m.ident == e.2.module.toNat)
  | none => false

/-- A rack module of the stock pattern runs (R142): by identity. -/
def stockModule (s : State) (m : Nat) : Bool := s.pat.run.stock || s.pat.run.modules.any fun d => d.ident == m

end Sys2Proof.Machine
end

