-- ==== Sys2Proof/Machine/Pattern.lean ====
section
/-! DEFINITION. Loading, seeding and swapping patterns (R124 to R134), exported parameters (R127, R128), and armed
changes across far ends (R135 to R141). -/
namespace Sys2Proof.Machine

/-! ### Cold load and start of the engines (R90, R124 to R126) -/

/-- Writes a word of data memory by its key engine * 1024 + word. -/
def dmWriteKey (m : Mem) (k : Nat) (w : Word) : Mem := mputWord m (k / 1024 * 4096 + k % 1024 * 4) w

/-- Writes the initial value of every CONST and STATE word (R125). -/
def coldWords (img : PatImg) (m : Mem) : Mem :=
  img.wordMap.foldl (fun m x => if decide (2 ≤ x.2.toNat) then dmWriteKey m x.1 (look 0 img.dataInit x.1) else m) m

/-- An exported parameter with the same index, subindex and type is in both patterns (R134). -/
def sameParam (a b : PatImg) (index sub : Nat) : Bool :=
  a.params.any fun p => p.index == index && p.sub == sub && b.params.any fun q =>
    q.index == index && q.sub == sub && q.ty == p.ty

/-- Applied values that the new pattern keeps; all others take their defaults. -/
def keepParams (old new : PatImg) (vals : Tab Nat) : Tab Nat :=
  vals.filter fun v => sameParam old new (v.1 / 256) (v.1 % 256)

/-- The 32-bit target word of a parameter value: an I8 or I16 is extended with its sign, so that an engine reads the value
that was accepted (DEDUCED, notes/assumptions/8.md). -/
def paramWord (ty v : Nat) : Word :=
  if ty = 6 then (BitVec.ofNat 8 v).signExtend 32
  else if ty = 7 then (BitVec.ofNat 16 v).signExtend 32
  else BitVec.ofNat 32 v

/-- Writes a value of a parameter into its target words. -/
def putParam (p : Param) (v : Nat) (m : Mem) : Mem :=
  p.targets.foldl (fun m t => dmWriteKey m (t.1 * 1024 + t.2) (paramWord p.ty v)) m

/-- Writes the applied values into their target words. -/
def paramWords (img : PatImg) (vals : Tab Nat) (m : Mem) : Mem :=
  img.params.foldl (fun m p => match tfind vals (okey p.index p.sub) with
    | some v => putParam p v m
    | none => m) m

/-- Writes the applied values into their target words, and the default of every other parameter (R134). -/
def paramWordsAll (img : PatImg) (vals : Tab Nat) (m : Mem) : Mem :=
  img.params.foldl (fun m p => putParam p (tget p.dflt vals (okey p.index p.sub)) m) m

/-- Loads a pattern into the active banks (R125, R130): the applied parameters are written again. -/
def coldLoad (s : State) (img : PatImg) : State :=
  let vals := keepParams (if s.pat.run.params.isEmpty then img else s.pat.run) img s.pat.paramVals
  { s with
    arr := { s.arr with
      imem := img.instr.foldl (fun t x => tset 0 t x.1 x.2) [],
      imemShadow := [], engines := [],
      upsets := s.arr.upsets.filter fun u => decide (2 ^ 21 ≤ u.1),
      dmem := paramWords img vals (coldWords img s.arr.dmem) },
    pat := { s.pat with run := img, paramVals := vals } }

/-- The engines of a Sleeve as a round body or seed body starts (R54, R125). The model's own choice: an engine without a
SEED_ENTRY issues nothing in a seed round, as after ENDROUND (notes/assumptions/8.md). -/
def freshEngine (s : State) (e : Nat) (en : Engine) : Engine :=
  if seeding s (e / 32) then
    match seedStart s.pat.run e with
    | some pc => { en with pc := pc, cycle := 0, issued := 0, ended := false, reps := [], divFree := 0, stps := 0 }
    | none => { en with pc := 0, cycle := 0, issued := 0, ended := true, reps := [], divFree := 0, stps := 0 }
  else { en with pc := 0, cycle := 0, issued := 0, ended := false, reps := [], divFree := 0, stps := 0 }

/-- The engines of a Sleeve. -/
def sleeveEngines (sl : Nat) : List Nat := (List.range 32).map fun j => 32 * sl + j

/-- Starts the round of every engine of a Sleeve: results in flight are written (R95), then the body starts. -/
def startSleeve (s : State) (sl : Nat) : State :=
  if seeding s sl then
    forAll (sleeveEngines sl) (fun s e => updEngine s e fun en => freshEngine s e (settle en 0xFFFFFFFF)) s
  else
    { s with arr := { s.arr with engines := s.arr.engines.map fun x =>
        if x.1 / 32 = sl then (x.1, freshEngine s x.1 (settle x.2 0xFFFFFFFF)) else x } }

/-- Clears registers, accumulators, predicates and flags of a Sleeve's engines (R90). -/
def clearSleeveEngines (s : State) (sl : Nat) : State :=
  { s with arr := { s.arr with engines := s.arr.engines.filter fun x => x.1 / 32 != sl } }

/-- Restarts a Sleeve with seed rounds (R84, R90, R126). -/
def restartSleeve (s : State) (sl : Nat) : State :=
  let s := clearSleeveEngines s sl
  let s := updSleeve s sl fun x => { x with
    halted := false, halting := false, restart := none, held := false,
    seedLeft := s.pat.run.seedRounds, seedMute := false }
  startSleeve s sl

/-- The engines start (P4 of R406, R130): seed rounds in every Sleeve that no hold keeps halted. -/
def startEngines (s : State) : State :=
  let s := { s with
    arr := { s.arr with started := true, scrubWhole := true },
    pat := { s.pat with startPend := false, commitSeam := s.wheel.seam },
    hem := { s.hem with startHold := false } }
  let s := forAll allSleeves (fun s sl =>
    if s.hem.held || (sleeve s sl).held || (sleeve s sl).parked then updSleeve s sl fun x => { x with halted := true }
    else restartSleeve s sl) s
  markFree s (linkPorts s)

/-- SEED_ROUNDS: after the last seed round the engines of a Sleeve switch to their round body (R125). -/
def execSeedRounds (sl : SleeveId) (s : State) : Out :=
  .next (if (sleeve s sl).seedLeft == 1 then
    updSleeve s sl fun x => { x with seedLeft := 0, seedMute := false }
  else s)

/-! ### Loading (R130, R131) -/

/-- LOAD_START of 1 (R130, R131, R134). -/
def loadStartNow (s : State) : Nat × State :=
  if s.pat.shadowState == 2 then (stBusy, s)
  else
    let slot := latest s 0x2101 1
    let restart := latest s 0x2101 2 == 1
    (stOK, { s with pat := { s.pat with
        loading := some (slot, restart), loadResult := 0xFF, loadDetail := 0,
        shadowState := if restart then s.pat.shadowState else 0 } })

/-- LOAD_RESULT and LOAD_DETAIL of a failed check; what R129 does not fix is free. -/
def loadFailed (s : State) (f : Fail) : State :=
  let (w, s) := drawWord s
  let high := f.sect.getD (w.toNat / 65536)
  let low := f.low.getD (w.toNat % 65536)
  { s with pat := { s.pat with
      loading := none, loadResult := f.code, loadDetail := BitVec.ofNat 32 (high * 65536 + low % 65536) } }

/-- The timebase of an accepted pattern that differs from the running one awaits its tick (R130). -/
def wantBase (s : State) (img : PatImg) : Option (Nat × Nat) :=
  if img.w = s.wheel.w ∧ img.l = s.wheel.l then none else some (img.w, img.l)

/-- An accepted load in operation: HITLESS makes the shadow READY, RESTART awaits the halt at the next seam. -/
def loadAccepted (s : State) (img : PatImg) (slot : Nat) (restart : Bool) : State :=
  let s := { s with pat := { s.pat with loading := none, loadResult := 0, loadDetail := 0, shadowSlot := slot, shadow := img } }
  if restart then
    { s with
      pat := { s.pat with restartPend := true, restartSkip := skipNow s, shadowState := 0 },
      wheel := { s.wheel with newBase := wantBase s img } }
  else
    { s with
      pat := { s.pat with shadowState := 1, readBack := false },
      arr := { s.arr with imemShadow := img.instr.foldl (fun t x => tset 0 t x.1 x.2) [] } }

/-! ### Commit (R132 to R134) -/

/-- COMMIT of 1 (R132, R134). -/
def commitNow (s : State) : Nat × State :=
  if s.pat.shadowState == 2 then (stBusy, s)
  else if s.pat.shadowState != 1 then (stState, s)
  else
    (stOK, { s with pat := { s.pat with
        shadowState := 2, readBack := false,
        commitAt := s.wheel.seam + BitVec.ofNat 32 (2 + skipNow s) } })

/-- Words that a commit writes for an engine: CONST and uncarried STATE words in rising order (R132). The persistent region
keeps its contents (R133). -/
def stagedWords (img : PatImg) (e : Nat) : List Nat :=
  if img.wordMap.any fun x => x.1 / 1024 == e then
    (List.range 960).filter fun k => let c := wordClass img e k; c == 2 || (c == 3 && !carried img e k)
  else []

/-- The value that a commit writes into a word: of a parameter's target the kept applied value or else the default, of any
other word the initial value (R134). -/
def stagedValue (s : State) (e k : Nat) : Word :=
  let img := s.pat.shadow
  match img.params.find? fun p => p.targets.contains (e, k) with
  | some p => paramWord p.ty (tget p.dflt (keepParams s.pat.run img s.pat.paramVals) (okey p.index p.sub))
  | none => wordInit img e k

/-- The present interval is the one that ends at the seam of the pending commit. -/
def inCommitInterval (s : State) : Bool :=
  s.pat.shadowState == 2 && decide (s.wheel.seam + 1 = s.pat.commitAt)

/-- The 32 words of an engine that a round of staging writes (R132). -/
def roundWords (s : State) (e : Nat) : List Nat := ((stagedWords s.pat.shadow e).drop (32 * s.wheel.ris)).take 32

/-- The staging of a round is due: rounds 0 to 1,022 of the interval before the commit (R132). -/
def stagingDue (s : State) : Bool := inCommitInterval s && decide (s.wheel.ris ≤ 1022)

/-- Writes the next 32 words of every engine (R132). -/
def stageRound (s : State) : State :=
  let s := forAll (List.range 1024) (fun s e =>
    setDmem s ((roundWords s e).foldl (fun m k => dmWriteKey m (e * 1024 + k) (stagedValue s e k)) s.arr.dmem)) s
  let s := if s.arr.upsets.isEmpty then s else forAll (List.range 1024) (fun s e =>
    (roundWords s e).foldl (fun s k => setUpset s (dmemKey e k) 0) s) s
  { s with pat := { s.pat with staged := true } }

/-- COMMIT_STAGING (R132). -/
def execCommitStaging (s : State) : Out := .next (if stagingDue s then stageRound s else s)

/-- The words of an engine's bank held in a table keyed engine * 1024 + word. -/
def bankWords (t : Tab Word) (e : Nat) : List (Nat × Word) :=
  (t.filter fun x => x.1 / 1024 == e).map fun x => (x.1 % 1024, x.2)

/-- Every shadow bank matches ENGINE_CRC (R132). -/
def shadowGood (s : State) : Bool :=
  (List.range 1024).all fun e => bankCrc (bankWords s.arr.imemShadow e) == recordedCrc s.pat.shadow e

/-- The commit does not happen: FAILED with SWAP_VERIFY (R134, R413). The model's own choice: an armed change to which the swap
was bound goes on without it (R140; notes/assumptions/10.md). -/
def commitFailed (s : State) : State :=
  { s with pat := { s.pat with shadowState := 3, loadResult := 0x25, bound := false, readBack := false } }

/-- The read-back of the shadow banks is due: before round 1,008 of the interval before the commit (R132). -/
def readbackDue (s : State) : Bool := inCommitInterval s && !s.pat.readBack && decide (s.wheel.ris < 1008)

/-- Reads every shadow bank back against ENGINE_CRC (R132, R134). -/
def readbackNow (s : State) : State :=
  if shadowGood s then { s with pat := { s.pat with readBack := true } } else commitFailed s

/-- SHADOW_READBACK (R132, R134). -/
def execShadowReadback (s : State) : Out := .next (if readbackDue s then readbackNow s else s)

/-- Staging and read-back of a round that no command has brought: the read-back at the end of round 1,007
(notes/assumptions/6.md). -/
def commitCatchUp (s : State) : State :=
  let s := if stagingDue s && !s.pat.staged then stageRound s else s
  let s := if readbackDue s && s.wheel.ris == 1007 then readbackNow s else s
  if s.pat.staged then { s with pat := { s.pat with staged := false } } else s

/-- At the seam of a commit every engine changes bank and tables together (R133, R134). -/
def swapPattern (s : State) : State :=
  let img := s.pat.shadow
  let vals := keepParams s.pat.run img s.pat.paramVals
  let s := { s with
    arr := { s.arr with
      imem := s.arr.imemShadow, imemShadow := s.arr.imem, engines := [],
      upsets := s.arr.upsets.filter fun u => decide (2 ^ 20 ≤ u.1),
      dmem := paramWordsAll img vals s.arr.dmem },
    pat := { s.pat with
      run := img, shadow := noPattern, shadowState := 0, activeSlot := s.pat.shadowSlot,
      recordedSlot := s.pat.shadowSlot, commitSeam := s.wheel.seam, bound := false, readBack := false,
      paramVals := vals } }
  forAll allSleeves startSleeve s

/-- The commit of this seam, if one is pending for it. -/
def seamCommit (s : State) : State :=
  if s.pat.shadowState == 2 && decide (s.pat.commitAt = s.wheel.seam) then
    if s.pat.readBack || shadowGood s then swapPattern s else commitFailed s
  else s

/-- The halt of an accepted RESTART load at its seam (R130): every port to HEM, every Sleeve halted, the pattern loaded. -/
def restartHalt (s : State) : State :=
  let s := { s with hem := { s.hem with startHold := true } }
  let s := portsToHem s (linkPorts s)
  let s := forAll allSleeves (fun s sl => updSleeve s sl fun x => { x with seedLeft := 0, restart := none }) s
  let img := s.pat.shadow
  let s := coldLoad s img
  let s := { s with
    arr := { s.arr with started := false, scrubWhole := false },
    pat := { s.pat with
      restartPend := false, startPend := true, activeSlot := s.pat.shadowSlot, recordedSlot := s.pat.shadowSlot,
      shadow := noPattern, holdSeam := s.wheel.seam },
    flow := { s.flow with collapseArmed := false, collapseRun := 0 } }
  takeBase s

/-- What a seam does for RESTART loads: the start of the engines, then the halt of a load that awaits it (R130). -/
def seamRestart (s : State) : State :=
  let s := if s.pat.startPend && s.wheel.newBase.isNone && decide (s.pat.holdSeam ≠ s.wheel.seam) then
      startEngines s else s
  if s.pat.restartPend then
    if s.pat.restartSkip = 0 then restartHalt s
    else { s with pat := { s.pat with restartSkip := s.pat.restartSkip - 1 } }
  else s

/-! ### Exported parameters (R127, R128) -/

/-- The exported parameter at an object, if the running pattern has it. -/
def paramAt (s : State) (index sub : Nat) : Option Param :=
  s.pat.run.params.find? fun p => p.index == index && p.sub == sub

/-- The value of an exported parameter most recently applied (R127). -/
def paramValue (s : State) (p : Param) : Nat := tget p.dflt s.pat.paramVals (okey p.index p.sub)

/-- A value lies within the range of a parameter. -/
def paramInRange (p : Param) (v : Nat) : Bool :=
  decide (rawKey p.ty p.lo ≤ rawKey p.ty v) && decide (rawKey p.ty v ≤ rawKey p.ty p.hi)

/-- Queues an accepted parameter write for its seam. -/
def queueParam (s : State) (index sub v : Nat) : State :=
  { s with pat := { s.pat with params := s.pat.params ++
      [{ index := index, sub := sub, value := v, skip := skipNow s, msg := s.net.msgNo }] } }

/-- Target words of an engine that a list of writes reaches, each once. -/
def targetWords (s : State) (l : List ParamWrite) (e : Nat) : List Nat :=
  ((l.map fun w => match paramAt s w.index w.sub with
    | some p => (p.targets.filter fun t => t.1 == e).map (·.2)
    | none => []).flatten).eraseDups

/-- Target words per engine of a list of writes. -/
def targetLoad (s : State) (l : List ParamWrite) (e : Nat) : Nat := (targetWords s l e).length

/-- No engine gets more than 32 target words (R128). -/
def loadFits (s : State) (l : List ParamWrite) : Bool :=
  (List.range 1024).all fun e => decide (targetLoad s l e ≤ 32)

/-- Takes whole messages from the front of the due writes while they fit; the rest moves to the next seam (R128). -/
def takeFitting (s : State) : Nat → List ParamWrite → List ParamWrite → List ParamWrite × List ParamWrite
  | 0, taken, rest => (taken, rest)
  | _ + 1, taken, [] => (taken, [])
  | fuel + 1, taken, w :: t =>
    let grp := (w :: t).filter fun x => x.msg == w.msg
    let rest := (w :: t).filter fun x => x.msg != w.msg
    if loadFits s (taken ++ grp) then takeFitting s fuel (taken ++ grp) rest else (taken, w :: t)

/-- Writes one parameter value into its targets. -/
def applyParam (s : State) (w : ParamWrite) : State :=
  match paramAt s w.index w.sub with
  | some p =>
    let s := setDmem s (putParam p w.value s.arr.dmem)
    let s := p.targets.foldl (fun s t => setUpset s (dmemKey t.1 t.2) 0) s
    { s with pat := { s.pat with paramVals := tput s.pat.paramVals (okey w.index w.sub) w.value } }
  | none => s

/-- Applies the parameter writes of the interval, once. -/
def applyParams (s : State) : State :=
  if s.pat.paramsDone then s
  else
    let due := s.pat.params.filter fun w => w.skip == 0
    let later := s.pat.params.filter fun w => w.skip != 0
    let (taken, rest) := takeFitting s (due.length + 1) [] due
    let s := taken.foldl applyParam s
    { s with pat := { s.pat with params := rest ++ later, paramsDone := true } }

/-- PARAMETER_APPLY, in round 1,023 of the interval (R127). -/
def execParameterApply (s : State) : Out := .next (if s.wheel.ris == 1023 then applyParams s else s)

/-- The seam's part: what was not applied in round 1,023 is applied now, and the next interval begins. -/
def seamParams (s : State) : State :=
  let s := applyParams s
  { s with pat := { s.pat with
      paramsDone := false, params := s.pat.params.map fun w => { w with skip := w.skip - 1 } } }

/-! ### Armed changes (R135 to R141) -/

/-- Far-end configuration address of a far-end path object of 0x3100+n (R194). -/
def pathAddr (sub : Nat) : Nat := 0x0100 + (sub - 9)

/-- The body of a CFG_WRITE or the tail of a CFG_STAGE: ADDR, COUNT and the words (R178). -/
def cfgBody (addr : Nat) (words : List Word) : List Byte :=
  leBytes 2 addr ++ leBytes 2 words.length ++ (words.map wordBytes).flatten

/-- An armed change may be requested: none is armed or awaits its seam (R135). -/
def armFree (s : State) : Bool := s.arm.state == 0 && !s.arm.queued

/-- The identity after the last one, from 1 to 255 (R135). -/
def nextArmId (b : Byte) : Byte := if b = 255 then 1 else b + 1

/-- Queues the content of an armed change on every involved port (R135): one word for each port, sub and value. The model's
own choice: until the outcome of a port is known, its byte reads 0x00, bit 7 clear, although it has acknowledged (R141;
notes/assumptions/10.md). -/
def armRequest (s : State) (vals : List (Nat × Nat × Nat)) : State :=
  let ident := nextArmId s.arm.ident
  let ports := (vals.map (·.1)).eraseDups
  let s := { s with arm := { s.arm with
      ident := ident, queued := true, skip := skipNow s, involved := ports, acked := [], reported := [],
      outcome := [], last := 0, values := vals, group := none } }
  vals.foldl (fun s v => sendMsg s v.1 0 0x03
    ((ident :: [0, 0, 0]) ++ cfgBody (pathAddr v.2.1) [BitVec.ofNat 32 v.2.2])) s

/-- Outcome byte of a port (R141). -/
def outcomeByte (s : State) (n code : Nat) : Nat := (if s.arm.acked.contains n then 0x80 else 0) + code

/-- Sets the outcome of several ports. -/
def setOutcomes (s : State) (l : List Nat) (code : Nat) : State :=
  { s with arm := { s.arm with outcome := l.foldl (fun t n => tput t n (outcomeByte s n code)) s.arm.outcome } }

/-- Aborts the armed change: ABORT for 16 rounds, and a bound swap is cancelled (R137). -/
def armAbort (s : State) : State :=
  let s := setOutcomes s s.arm.involved 3
  let s := { s with arm := { s.arm with state := 3, hdrLeft := 16, last := 3, queued := false, group := none } }
  if s.pat.bound then { s with pat := { s.pat with bound := false, shadowState := 1 } } else s

/-- Every involved port's content has room in its queue 0, so that it stands there and no longer waits (R135, R178). -/
def contentQueued (s : State) : Bool := s.arm.involved.all fun n => !waiting (link s n).mbx 0

/-- Aborts what a restart of the Collar ended (R413); arms a queued change at a seam: with BIND_PATTERN a READY shadow
is bound to it (R135, R140). The model's own choice: BIND_PATTERN keeps its value (R143; notes/assumptions/10.md). -/
def seamArm (s : State) : State :=
  if s.arm.abortNext then armAbort { s with arm := { s.arm with abortNext := false } }
  else if !s.arm.queued then s
  else if s.arm.skip ≠ 0 then { s with arm := { s.arm with skip := s.arm.skip - 1 } }
  else if !contentQueued s then s
  else
    let t := s.wheel.seam + BitVec.ofNat 32 (cfg s 0x2102 5)
    let bind := cfg s 0x2102 8 == 1 && s.pat.shadowState == 1
    let s := { s with arm := { s.arm with
        queued := false, state := 1, seam := s.wheel.seam, commitSeam := t, hdrLeft := 0 } }
    if bind then { s with pat := { s.pat with shadowState := 2, bound := true, commitAt := t, readBack := false } } else s

/-- The decision at seam S + 2 (R137). The model's own choice: a port that has answered READY stays acknowledged when its link
goes down afterwards (R136; notes/assumptions/10.md). -/
def armDecide (s : State) : State :=
  if s.arm.state == 1 && decide (s.wheel.seam = s.arm.seam + 2) && s.wheel.ris == 0 then
    if (s.arm.involved.all fun n => s.arm.acked.contains n) || cfg s 0x2102 4 == 1 then
      { s with arm := { s.arm with state := 2, since := 0, committing := false } }
    else armAbort s
  else s

/-- ARM_DECISION (R137). -/
def execArmDecision (s : State) : Out := .next (armDecide s)

/-- At the commit seam T (R138): the values take effect for every acknowledged port, and a port without an
acknowledgement enters HEM. -/
def seamArmCommit (s : State) : State :=
  if s.arm.state == 2 && decide (s.wheel.seam = s.arm.commitSeam) then
    let out := s.arm.involved.filter fun n => !s.arm.acked.contains n
    let s := (s.arm.values.filter fun v => s.arm.acked.contains v.1).foldl
      (fun s v => setCfg s (0x3100 + v.1) v.2.1 v.2.2) s
    let s := setOutcomes { s with arm := { s.arm with group := none } } out 4
    forAll out (fun s n => portToHem (updCtl s n fun c => { c with armHold := true }) n) s
  else s

/-- An acknowledgement in a valid uplink (R136, R138, R139). -/
def armAck (s : State) (n : Nat) (ident : Byte) (code : Nat) : State :=
  if !(s.arm.involved.contains n) || ident != s.arm.ident then s
  else if s.arm.state == 1 && code == 1 && !s.arm.acked.contains n then
    { s with arm := { s.arm with acked := s.arm.acked ++ [n] } }
  else if s.arm.state == 2 && decide (3 ≤ code ∧ code ≤ 5) then
    { s with arm := { s.arm with reported := tput s.arm.reported n code } }
  else s

/-- Outcomes at T + 4 rounds (R139, R141): a port that reported APPLY_FAIL or nothing enters HEM alone. -/
def armFinish (s : State) : State :=
  let ports := s.arm.involved.filter fun n => s.arm.acked.contains n
  let code (n : Nat) := tget 0 s.arm.reported n
  let okPorts := ports.filter fun n => code n == 3
  let late := ports.filter fun n => code n == 4
  let bad := ports.filter fun n => code n != 3 && code n != 4
  let s := setOutcomes (setOutcomes (setOutcomes s okPorts 1) late 2) bad 5
  let s := { s with arm := { s.arm with
      last := if bad.isEmpty && decide (ports.length = s.arm.involved.length) then 1 else 2 } }
  forAll bad (fun s n => portToHem (updCtl s n fun c => { c with armHold := true }) n) s

/-- The deadline of R139 has come: four rounds after the commit seam, with the outcomes still open. -/
def armDeadline (s : State) : Bool :=
  s.arm.state == 2 && s.arm.last == 0 && decide (4 ≤ s.arm.since)

/-- ARM_APPLY_DEADLINE (R139, R141). -/
def execArmApplyDeadline (s : State) : Out := .next (if armDeadline s then armFinish s else s)

/-- ARM_STATE of the header of a port's frames: 0 IDLE, 1 ARMED, 2 COMMIT, 3 ABORT (R135, R137, R138). -/
def armHeader (s : State) (n : Nat) : Nat :=
  if !s.arm.involved.contains n then 0
  else if s.arm.state == 1 then 1
  else if s.arm.state == 3 then 3
  else if s.arm.state == 2 then
    (if s.arm.committing then (if s.arm.acked.contains n then 2 else 0) else 1)
  else 0

/-- The armed change at a tick: COMMIT goes out from tick T − 1 for 16 frames, ABORT for 16 rounds (R137, R138). -/
def tickArm (s : State) : State :=
  let a := s.arm
  if a.state == 2 then
    if a.committing then
      let left := a.hdrLeft - 1
      let since := if decide (s.wheel.seam = a.commitSeam) && s.wheel.ris == 0 then 0 else a.since + 1
      if left = 0 then { s with arm := { a with state := 0, hdrLeft := 0, committing := false } }
      else { s with arm := { a with hdrLeft := left, since := since } }
    else if decide (s.wheel.seam + 1 = a.commitSeam) && s.wheel.ris == 1023 then
      { s with arm := { a with committing := true, hdrLeft := 16, since := 0 } }
    else s
  else if a.state == 3 then
    if a.hdrLeft ≤ 1 then { s with arm := { a with state := 0, hdrLeft := 0 } }
    else { s with arm := { a with hdrLeft := a.hdrLeft - 1 } }
  else s

end Sys2Proof.Machine
end

