-- ==== Sys2Proof/Machine/Array.lean ====
section
/-! DEFINITION. What the hardware of the engine array does in a round beside the instructions: overrun check, scrubber
and instruction check, downlink snapshot, the exchange of B0 and B1, and the sweep of the tally units (R56, R60, R66,
R77, R80 to R82, R356). -/
namespace Sys2Proof.Machine

/-- The wheel domain runs: not held in reset, not frozen, asleep or in recovery (R376, R422, R424, R434, R441). -/
def domainRuns (s : State) : Bool :=
  !s.boot.frozen && !s.boot.asleep && !s.boot.recovery && !s.boot.internal && !s.boot.tcxoLost

/-- An engine of a Sleeve runs a body in this round. -/
def bodyRuns (s : State) (e : Nat) : Bool :=
  s.arr.started && !(sleeve s (e / 32)).halted && !(sleeve s (e / 32)).parked && domainRuns s

/-- An engine has not issued ENDROUND by cycle L − 65: it has not ended, or it ended later, so that its cycle count has
passed L − 64 (R66, R116, R117). -/
def overran (s : State) (e : Nat) : Bool := !(engine s e).ended || decide (s.wheel.l - 64 < (engine s e).cycle)

/-- OVERRUN_CHECK at cycle L − 64 (R66). -/
def execOverrunCheck (e : EngineId) (s : State) : Out :=
  .next (if bodyRuns s e && overran s e then raiseNoBank s (e / 32) 0 (engNo e) (s.wheel.l - 64) else s)

/-- The scrubber runs (R80). -/
def scrubRuns (s : State) : Bool := s.arr.started && domainRuns s

/-- The Sleeve in which a scrubbed memory lies. -/
def scrubSleeve : ScrubAt → Nat
  | .imem e => e.val / 32
  | .dmem e => e.val / 32
  | .shm sl _ => sl
  | .tally sl => sl

/-- One error that the scrubber finds (R79, R80, R82). The cycle of detection is one of L − 64 to L − 33, in which the
scrubber reads; which one is free (R80 gives no order; notes/assumptions/17.md). -/
def scrubOne (s : State) (e : ScrubErr) : State :=
  let sl := scrubSleeve e.place
  if !e.uncorrectable then countCorrected s sl
  else match e.place with
    | .tally _ => clearTallyWord s sl s.wheel.ris
    | place =>
      let (w, s) := drawWord s
      let cyc := s.wheel.l - 64 + w.toNat % 32
      match place with
      | .imem _ => raiseNoBank s sl 3 0xFF cyc
      | .dmem _ => raiseNoBank s sl 4 0xFF cyc
      | .shm _ b => raiseSleeve s sl 5 0xFF b cyc
      | .tally _ => s

/-- The double word that the scrubber reads in a bank of shared memory in this round lies at this byte address (R80). -/
def scrubAddr (s : State) (bank : Nat) : Nat := bank * 4096 + s.wheel.ris % 512 * 8

/-- The place of an upset word that the scrubber reads in this round, if it reads it: one word of each engine memory, of
each bank of shared memory but B1 and of each tally unit (R80). -/
def scrubPlace (s : State) (k : Nat) : Option ScrubAt :=
  if k < 2 ^ 20 then
    if k % 1024 = s.wheel.ris then some (.imem (Fin.ofNat 1024 (k / 1024))) else none
  else if k < 2 ^ 21 then
    if k % 1024 = s.wheel.ris then some (.dmem (Fin.ofNat 1024 ((k - 2 ^ 20) / 1024))) else none
  else if k < 2 ^ 22 then
    let j := k - 2 ^ 21
    if j % 512 = s.wheel.ris % 512 ∧ j / 512 % 16 ≠ 1 then
      some (.shm (Fin.ofNat 32 (j / 8192)) (Fin.ofNat 16 (j / 512 % 16))) else none
  else if (k - 2 ^ 22) % 1024 = s.wheel.ris then some (.tally (Fin.ofNat 32 ((k - 2 ^ 22) / 1024)))
  else none

/-- The scrubber reads a word that has been upset: a single-bit error is written back corrected, a tally word is cleared,
any other uncorrectable error stays in its word (R80, R82). -/
def scrubUpset (s : State) (u : Nat × Nat) : State :=
  match scrubPlace s u.1 with
  | none => s
  | some place =>
    let s := scrubOne s { place := place, uncorrectable := u.2 != 1 }
    if u.2 = 1 then setUpset s u.1 0
    else match place with
      | .tally _ => setUpset s u.1 0
      | _ => s

/-- The scrubber reads its words of a round: the errors that the command names, then the upsets that it meets. -/
def scrubNow (s : State) (errs : List ScrubErr) : State :=
  let s := errs.foldl scrubOne s
  let s := s.arr.upsets.foldl scrubUpset s
  { s with arr := { s.arr with scrubbed := true } }

/-- SCRUB: the errors found in the words read in this round (R80, R82). -/
def execScrub (errs : List ScrubErr) (s : State) : Out := .next (if scrubRuns s then scrubNow s errs else s)

/-- INSTR_CRC_CHECK in round 1,023 (R81). The cycle of detection is free: R81 gives the round alone. -/
def execInstrCrcCheck (e : EngineId) (s : State) : Out :=
  .next (if scrubRuns s && s.arr.scrubWhole && s.wheel.ris == 1023
      && bankCrc (bankWords s.arr.imem e) != recordedCrc s.pat.run e then
    let (w, s) := drawWord s
    raiseNoBank s (e / 32) 6 0xFF (w.toNat % s.wheel.l)
  else s)

/-- The 32 bytes of the downlink slot of a port in B2 (R60). -/
def slotBytes (s : State) (n : Nat) : List Byte := mread s.arr.shm (shmKey (n / 8) (0x2000 + 32 * (n % 8))) 32

/-- The 32 bytes of a port's link buffer (R66). -/
def linkBuf (s : State) (n : Nat) : List Byte := mread s.arr.dlBuf (n * 32) 32

/-- The bytes of shared memory that the snapshot of a Sleeve reads, moved to the link buffers. -/
def snapshotSleeve (s : State) (m : Mem) (sl : Nat) : Mem :=
  mwrite m (sl * 256) (mread s.arr.shm (shmKey sl 0x2000) 256)

/-- The snapshot of a Sleeve reads its double words under ECC, one in each of the cycles from L − 32 on (R66, R79, R82). -/
def snapshotEcc (s : State) (sl : Nat) : State :=
  (List.range 32).foldl (fun s j => shmEcc s sl (0x2000 + 8 * j) 0xFF (s.wheel.l - 32 + j)) s

/-- B2 0x2000 to 0x20FF of every Sleeve into the link buffers (R60, R61, R66). -/
def snapshotNow (s : State) : State :=
  let s := if quietMemory s then s else forAll allSleeves snapshotEcc s
  { s with arr := { s.arr with dlBuf := allSleeves.foldl (snapshotSleeve s) s.arr.dlBuf, snapped := true } }

/-- DOWNLINK_SNAPSHOT (R66). -/
def execDownlinkSnapshot (s : State) : Out := .next (if domainRuns s then snapshotNow s else s)

/-- The scrubber and the downlink snapshot of a round that no command has brought (notes/assumptions/6.md). -/
def arrayCatchUp (s : State) : State :=
  let s := if scrubRuns s && !s.arr.scrubbed then scrubNow s [] else s
  let s := if s.arr.snapped then s else snapshotNow s
  { s with arr := { s.arr with scrubbed := false, snapped := false } }

/-- UP_STATUS of a port for the round that ends (R58); a port that drives nothing reports NO_FRAME. -/
def upStatus (l : Link) : Nat :=
  if l.frameOk then (l.upHeader.toNat / 2 ^ 22 % 64) * 65536 + 1
  else Nat.min l.missed 255 * 256 + (if l.crcErr then 4 else 2)

/-- The 64 bytes of the uplink slot of a port (R57): HEADER and RT are zero without a valid frame. -/
def slotOf (l : Link) : List Byte :=
  (if l.frameOk then wordBytes l.upHeader ++ sliceB l.upRt 0 40 else List.replicate 44 0) ++ leBytes 4 (upStatus l)

/-- The uplink slots of every port, by Sleeve * 1024 + offset. -/
def upSlots (s : State) : Mem :=
  (allPorts.map fun n =>
    ((slotOf (link s n)).zipIdx.map fun b => (n / 8 * 1024 + 64 * (n % 8) + b.2, b.1)).filter fun c => c.2 != 0).flatten

/-- B0 holds at a tick what B1 held, with the upsets of its words (R56). -/
def moveUpsets (s : State) : State :=
  if quietMemory s then s else
  let bank (k : Nat) := if 2 ^ 21 ≤ k ∧ k < 2 ^ 22 then (k - 2 ^ 21) / 512 % 16 else 16
  { s with arr := { s.arr with upsets := s.arr.upsets.foldl (fun t u =>
      if bank u.1 = 0 then t else if bank u.1 = 1 then tput t (u.1 - 512) u.2 else tput t u.1 u.2) [] } }

/-- B0 and B1 exchange at a tick: the engines read the slots filled in the round before, and the wheel block that the
mate sent or the own one (R56, R59, R307). -/
def exchange (s : State) : State :=
  let shadow := s.pair.role == .hot || s.pair.role == .joining
  let got := shadow && s.pair.wheelGot && !s.pair.blockLate
  let blk := if got then s.arr.blkFill else mwrite [] 0 (wheelBlock s)
  let s := moveUpsets s
  { s with
    arr := { s.arr with upRead := upSlots s, blkRead := blk, blkFill := [] },
    pair := { s.pair with ownPrev := s.pair.ownBlock, ownBlock := shadow && !got, wheelGot := false, blockLate := false } }

/-! ### Tally sweep (R77, R356) -/

/-- Merges an extreme slot into another by R76: strictly lower or higher values replace, with their stamps. -/
def mergeExt (a b : Ext) : Ext :=
  let a := if fCmp b.min a.min < 0 then { a with min := b.min, minRound := b.minRound } else a
  if 0 < fCmp b.max a.max then { a with max := b.max, maxRound := b.maxRound } else a

/-- Adds to a staging bin, saturating (R356). -/
def addStage (r : Recorder) (k : Nat) (v : Word) : Recorder :=
  let sum := (tget 0 r.stageBins k).toNat + v.toNat
  if 0xFFFFFFFF < sum then
    { r with stageBins := tset 0 r.stageBins k 0xFFFFFFFF, sticky := setBit r.sticky 4 }
  else { r with stageBins := tset 0 r.stageBins k (BitVec.ofNat 32 sum) }

/-- Each bin and slot of a Sleeve's tally unit is read under ECC, cleared and merged into the staging area (R77, R82,
R356). -/
def sweepNow (s : State) (n : Nat) : State :=
    let s := if quietMemory s then s else forAll (List.range 1024) (fun s k => tallyEcc s n k) s
    let inBins (k : Nat) := k / 1536 == n
    let inExts (k : Nat) := k / 128 == n
    let inMarks (k : Nat) := k / 2048 == n
    let r := (s.arr.bins.filter fun b => inBins b.1).foldl (fun r b => addStage r b.1 b.2) s.recorder
    let exts := (s.arr.exts.filter fun x => inExts x.1).foldl
      (fun t x => tset {} t x.1 (mergeExt (tget {} t x.1) x.2)) r.stageExts
    let marks := (r.stageInvalid ++ s.arr.invalid.filter inMarks).eraseDups
    { s with
      recorder := { r with stageExts := exts, stageInvalid := marks },
      arr := { s.arr with
        bins := s.arr.bins.filter fun b => !inBins b.1,
        exts := s.arr.exts.filter fun x => !inExts x.1,
        invalid := s.arr.invalid.filter fun k => !inMarks k,
        sweepAge := tdel s.arr.sweepAge n } }

/-- TALLY_SWEEP (R77). -/
def execTallySweep (sl : SleeveId) (s : State) : Out := .next (if !domainRuns s then s else sweepNow s sl)

/-- At a seam a tally unit that has gone 64 seams without a sweep is swept (R77). -/
def seamSweep (s : State) (n : Nat) : State :=
  let age := tget 0 s.arr.sweepAge n + 1
  if 64 ≤ age then sweepNow s n else { s with arr := { s.arr with sweepAge := tset 0 s.arr.sweepAge n age } }

end Sys2Proof.Machine
end

