-- ==== Sys2Proof/Machine/Symbols.lean ====
section
/-! DEFINITION. The code groups of a stage link (R144 to R148): 8b/10b with running disparity, the preamble, SOF and EOF, and
which received code groups spell a run of bytes. The code is that of IEEE 802.3 Clause 36, which R145 names and the manual
does not print (PRESUMED, notes/assumptions/77.md). Running disparity is `true` when positive. -/
namespace Sys2Proof.Machine

/-! ### The two sub-blocks -/

/-- Bits abcdei, a written first, of D.0 to D.31 and K.28 at negative and at positive running disparity. -/
def sixTable : List (Nat × Nat) :=
  [(0b100111, 0b011000), (0b011101, 0b100010), (0b101101, 0b010010), (0b110001, 0b110001),
   (0b110101, 0b001010), (0b101001, 0b101001), (0b011001, 0b011001), (0b111000, 0b000111),
   (0b111001, 0b000110), (0b100101, 0b100101), (0b010101, 0b010101), (0b110100, 0b110100),
   (0b001101, 0b001101), (0b101100, 0b101100), (0b011100, 0b011100), (0b010111, 0b101000)]
  ++ [(0b011011, 0b100100), (0b100011, 0b100011), (0b010011, 0b010011), (0b110010, 0b110010),
   (0b001011, 0b001011), (0b101010, 0b101010), (0b011010, 0b011010), (0b111010, 0b000101),
   (0b110011, 0b001100), (0b100110, 0b100110), (0b010110, 0b010110), (0b110110, 0b001001),
   (0b001110, 0b001110), (0b101110, 0b010001), (0b011110, 0b100001), (0b101011, 0b010100)]

/-- Bits fghj, f written first, of D.x.0 to D.x.7 at negative and at positive running disparity. -/
def fourTable : List (Nat × Nat) :=
  [(0b1011, 0b0100), (0b1001, 0b1001), (0b0101, 0b0101), (0b1100, 0b0011),
   (0b1101, 0b0010), (0b1010, 0b1010), (0b0110, 0b0110), (0b1110, 0b0001)]

/-- The form of a sub-block at a running disparity, and the running disparity after it. A sub-block of as many ones as zeros
keeps it. -/
def subBlock (rd even : Bool) (p : Nat × Nat) : Nat × Bool :=
  (if rd then p.2 else p.1, if even then rd else !rd)

/-- The first sub-block of D.x. -/
def six (rd : Bool) (x : Nat) : Nat × Bool :=
  let p := (sixTable[x]?).getD (0, 0)
  subBlock rd (p.1 == p.2 || x == 7) p

/-- D.x.7 takes its other form where the first one would make a run of five equal bits. -/
def otherSeven (rd : Bool) (x : Nat) : Bool :=
  if rd then x == 11 || x == 13 || x == 14 else x == 17 || x == 18 || x == 20

/-- The second sub-block of D.x.y. -/
def four (rd : Bool) (x y : Nat) : Nat × Bool :=
  let p := if y = 7 ∧ otherSeven rd x = true then (0b0111, 0b1000) else (fourTable[y]?).getD (0, 0)
  subBlock rd (p.1 == p.2 || y == 3) p

/-- A code group from its ten bits in the order abcdeifghj: bit 0 is a, which is sent first (R145). -/
def groupOf (six four : Nat) : BitVec 10 := (BitVec.ofNat 10 (six * 16 + four)).reverse

/-! ### Code groups -/

/-- The code group of a byte at a running disparity, and the running disparity after it (R145). -/
def dataGroup (rd : Bool) (b : Byte) : BitVec 10 × Bool :=
  let x := b.toNat % 32
  let (i, rd) := six rd x
  let (j, rd) := four rd x (b.toNat / 32)
  (groupOf i j, rd)

/-- The code groups of bytes in their order. -/
def dataGroups : Bool → List Byte → List (BitVec 10)
  | _, [] => []
  | rd, b :: t => (dataGroup rd b).1 :: dataGroups (dataGroup rd b).2 t

/-- The running disparity after bytes. -/
def disparityAfter (rd : Bool) (l : List Byte) : Bool := l.foldl (fun rd b => (dataGroup rd b).2) rd

/-- K28.5; the running disparity changes. -/
def kComma (rd : Bool) : BitVec 10 := if rd then groupOf 0b110000 0b0101 else groupOf 0b001111 0b1010
/-- K27.7, SOF; the running disparity stays (R146). -/
def kSof (rd : Bool) : BitVec 10 := if rd then groupOf 0b001001 0b0111 else groupOf 0b110110 0b1000
/-- K29.7, EOF; the running disparity stays (R146). -/
def kEof (rd : Bool) : BitVec 10 := if rd then groupOf 0b010001 0b0111 else groupOf 0b101110 0b1000

/-- Pairs K28.5, D10.2, of which preamble and idle consist (R146); each changes the running disparity. -/
def idlePairs : Bool → Nat → List (BitVec 10)
  | _, 0 => []
  | rd, k + 1 => kComma rd :: (dataGroup (!rd) 0x4A).1 :: idlePairs (!rd) k

/-- A burst: preamble pairs, SOF, the bytes of the frame, EOF, under one running disparity (R145, R148). -/
def burst (rd : Bool) (pairs : Nat) (bytes : List Byte) : List (BitVec 10) :=
  let r := if pairs % 2 = 1 then !rd else rd
  idlePairs rd pairs ++ kSof r :: dataGroups r bytes ++ [kEof (disparityAfter r bytes)]

/-- The code groups received between SOF and EOF spell these bytes: from one of the two running disparities each is the code
group of its byte. A K code group, an invalid one and one of the wrong disparity spell none (R145, R146). -/
def spells (line : List (BitVec 10)) (bytes : List Byte) : Bool :=
  line == dataGroups false bytes || line == dataGroups true bytes

end Sys2Proof.Machine
end

