-- ==== Sys2Proof/Machine/Mailbox.lean ====
section
/-! DEFINITION. One side of the mailbox of a link (R174 to R178): its bytes in a frame, segmenting by precedence, the
go-back-N rule, reception in order and reassembly. The controller and the far end use the same operations. -/
namespace Sys2Proof.Machine

/-- Mailbox bytes of a frame (R149). -/
def mboxBytes (w : Nat) : Nat := if w = 4096 then 128 else if w = 8192 then 64 else 32

/-- Payload bytes of one segment (R174). -/
def segPayload (w : Nat) : Nat := mboxBytes w - 8

/-! ### The bytes of a mailbox (R174) -/

/-- MBX_CTL. -/
def mbxCtl (x : Mailbox) : Word :=
  BitVec.ofNat 32 (x.queue % 16 * 2 ^ 28 + x.mseq % 16 * 2 ^ 24 + x.ack % 16 * 2 ^ 20 + b2n x.valid * 2 ^ 19
    + b2n x.first * 2 ^ 18 + b2n x.last * 2 ^ 17 + b2n x.ackValid * 2 ^ 16 + x.bytes.length % 256 * 2 ^ 8)

/-- The M bytes of a mailbox in a frame: MBX_CTL, HOLD_MASK, two reserved bytes, the payload. -/
def mailboxBytes (m : Nat) (x : Mailbox) : List Byte :=
  wordBytes (mbxCtl x) ++ leBytes 2 x.hold.toNat ++ [0, 0] ++ sliceB x.bytes 0 (m - 8)

/-- The mailbox that M bytes of a frame spell; LEN is at most M − 8. -/
def mailboxAt (l : List Byte) : Mailbox :=
  let c := leAt l 0 4
  { queue := c / 2 ^ 28, mseq := c / 2 ^ 24 % 16, ack := c / 2 ^ 20 % 16, valid := c.testBit 19, first := c.testBit 18,
    last := c.testBit 17, ackValid := c.testBit 16, hold := BitVec.ofNat 16 (leAt l 4 2),
    bytes := (l.drop 8).take (c / 256 % 256) }

/-- The mailbox that a side sends with a segment, or without one: its acknowledgement is the MSEQ of the last segment
received in order (R174, R175). -/
def mailboxOf (m : MboxSide) : Option Seg → Mailbox
  | some g =>
    { queue := g.queue, mseq := g.mseq, ack := (m.expect + 15) % 16, valid := true, first := g.first, last := g.last,
      ackValid := m.ackValid, hold := m.own, bytes := g.bytes }
  | none => { noMailbox with ack := (m.expect + 15) % 16, ackValid := m.ackValid, hold := m.own }

/-! ### Precedence (R177) -/

/-- The order of precedence of a direction: items in order, each a list of queues that take turns (R177). -/
def precedence (down : Bool) : List (List Nat) :=
  if down then [[0], [2, 5, 14]] else [[1], [4], [3], [14], [6, 7, 8, 9, 10, 11, 12, 13]]

/-- A queue is defined for a direction (R177, R178). -/
def queueDefined (down : Bool) (q : Nat) : Bool := (precedence down).any fun l => l.contains q

/-- A message of a queue waits and the other side does not hold that queue (R176). -/
def canStart (m : MboxSide) (q : Nat) : Bool :=
  !m.hold.toNat.testBit q && m.out.any fun e => e.1 == q

/-- A message of a queue is being segmented. -/
def isOpen (m : MboxSide) (q : Nat) : Bool := (tfind m.cur q).isSome

/-- The queue of an item that has a segment ready: the one whose message has begun, else, in turn after the last one served,
one whose message can start. -/
def readyIn (m : MboxSide) (l : List Nat) : Option Nat :=
  (l.find? (isOpen m)).orElse fun _ =>
    ((l.filter fun q => decide (m.turn < q)) ++ (l.filter fun q => decide (q ≤ m.turn))).find? (canStart m)

/-- The queue of the next segment: that of the first item with a segment ready, so that a message of a later item waits in
the middle while an earlier item has one (R177). -/
def pickQueue (down : Bool) (m : MboxSide) : Option Nat := (precedence down).findSome? (readyIn m)

/-- Takes the first message of a queue. -/
def takeMsg (q : Nat) : List (Nat × List Byte) → Option (List Byte × List (Nat × List Byte))
  | [] => none
  | e :: t => if e.1 = q then some (e.2, t) else (takeMsg q t).map fun r => (r.1, e :: r.2)

/-- Begins the first message of a queue, unless one of it has begun. The turn of a shared item passes on. -/
def beginMsg (q : Nat) (m : MboxSide) : MboxSide :=
  if isOpen m q then m
  else match takeMsg q m.out with
    | none => m
    | some (b, rest) => { m with out := rest, cur := tput m.cur q (b, true), begun := m.begun ++ [(q, b)], turn := q }

/-- Sends the next segment of a queue's begun message. -/
def cutSeg (pay q : Nat) (m : MboxSide) : MboxSide × Option Seg :=
  match tfind m.cur q with
  | none => (m, none)
  | some (b, first) =>
    let rest := b.drop pay
    let g : Seg := {
      queue := q, mseq := m.next, first := first, last := rest.isEmpty, bytes := b.take pay, age := 0, resent := 0 }
    ({ m with
        cur := if rest.isEmpty then tdel m.cur q else tput m.cur q (rest, false),
        sent := m.sent ++ [g], redo := m.sent.length + 1, next := (m.next + 1) % 16 }, some g)

/-- What a side sends in one frame: a segment to be resent, or a new one while fewer than 4 are unacknowledged (R175). -/
def sendSeg (down : Bool) (pay : Nat) (m : MboxSide) : MboxSide × Option Seg :=
  match m.sent[m.redo]? with
  | some g =>
    let g := { g with age := 0, resent := g.resent + 1 }
    ({ m with sent := m.sent.set m.redo g, redo := m.redo + 1 }, some g)
  | none =>
    if 4 ≤ m.sent.length then (m, none)
    else match pickQueue down m with
      | none => (m, none)
      | some q => cutSeg pay q (beginMsg q m)

/-! ### Acknowledgement and reception (R175, R176) -/

/-- A round passes: segments sent and not acknowledged grow older. -/
def ageSegs (m : MboxSide) : MboxSide := { m with sent := m.sent.map fun g => { g with age := g.age + 1 } }

/-- Removes the first message of a queue that has been wholly acknowledged. -/
def dropBegun (l : List (Nat × List Byte)) (g : Seg) : List (Nat × List Byte) :=
  if g.last then ((takeMsg g.queue l).map (·.2)).getD l else l

/-- Drops the acknowledged segments: all up to the one with the acknowledged MSEQ. The acknowledgement advances, so the
counts of resending start again (R175, R178). -/
def takeAck (m : MboxSide) (ack : Nat) : MboxSide :=
  match m.sent.findIdx? fun g => g.mseq == ack with
  | none => m
  | some i =>
    { m with
      sent := (m.sent.drop (i + 1)).map fun g => { g with resent := 0 }, redo := m.redo - (i + 1),
      begun := (m.sent.take (i + 1)).foldl dropBegun m.begun }

/-- The oldest segment is without acknowledgement `rounds` rounds after it was sent (R175). -/
def resendDue (rounds : Nat) (m : MboxSide) : Bool := match m.sent with
  | g :: _ => decide (rounds ≤ g.age) && decide (0 < m.redo)
  | [] => false

/-- Sending goes on from the oldest segment. -/
def redoFirst (m : MboxSide) : MboxSide := { m with redo := 0 }

/-- A round begins for a sender: segments grow older, and 8 rounds after its sending an unacknowledged one is resent with
all after it (R175). -/
def ageAndRedo (m : MboxSide) : MboxSide := if resendDue 8 (ageSegs m) then redoFirst (ageSegs m) else ageSegs m

/-- What a queue holds of a message after a segment: FIRST begins one, a segment without it goes on with the one begun; one
that continues nothing is dropped (R176). -/
def joinSeg (p : Option (List Byte × Word)) (x : Mailbox) (stamp : Word) : Option (List Byte × Word) :=
  if x.first then some (x.bytes, stamp) else p.map fun p => (p.1 ++ x.bytes, p.2)

/-- Receives a segment from a frame that passed its CRC (R175 to R177): only the next MSEQ in order; a queue that is
not defined, or one that is discarded, is acknowledged all the same. -/
def recvSeg (fromDown : Bool) (discard : Nat → Bool) (m : MboxSide) (x : Mailbox) (stamp : Word) : MboxSide :=
  if !x.valid || x.mseq != m.expect then m
  else
    let m := { m with expect := (m.expect + 1) % 16, ackValid := true }
    if !queueDefined fromDown x.queue || discard x.queue then m
    else match joinSeg (tfind m.parts x.queue) x stamp with
      | none => m
      | some p =>
        if x.last then { m with parts := tdel m.parts x.queue, inbox := m.inbox ++ [(x.queue, p.1, p.2)] }
        else { m with parts := tput m.parts x.queue p }

/-- Takes the acknowledgement, the HOLD_MASK and the segment of a received mailbox. -/
def recvMbox (fromDown : Bool) (discard : Nat → Bool) (m : MboxSide) (x : Mailbox) (stamp : Word) : MboxSide :=
  let m := if x.ackValid then takeAck m x.ack else m
  recvSeg fromDown discard { m with hold := x.hold } x stamp

/-- Bytes of one queue that a side holds as receiver. -/
def heldBytes (m : MboxSide) (q : Nat) : Nat :=
  bytesOf (m.inbox.map fun e => (e.1, e.2.1)) q + ((tfind m.parts q).map fun p => p.1.length).getD 0

/-- HOLD_MASK of a receiver: bit q while the free space of queue q, of 2,072 bytes, is less than a largest message plus
the segments in flight (R176, R178). The model's own choice: the segments in flight are reckoned as four full ones, the
most that R175 admits (notes/assumptions/9.md). -/
def setHold (pay : Nat) (m : MboxSide) : MboxSide :=
  let full (q : Nat) := decide (2072 - heldBytes m q < 1036 + 4 * pay)
  { m with own := BitVec.ofNat 16 (((List.range 16).map fun q => if full q then 2 ^ q else 0).sum) }

/-- Mailbox sequence state restarts: partial messages are discarded, unacknowledged ones are sent again (R175). -/
def mboxRestart (m : MboxSide) : MboxSide :=
  { m with
    out := m.begun ++ m.out, cur := [], sent := [], begun := [], redo := 0, next := 0, expect := 0,
    ackValid := false, parts := [] }

/-- The first whole message received on a queue. -/
def firstIn (q : Nat) (m : MboxSide) : Option (List Byte × Word) := (m.inbox.find? fun e => e.1 == q).map (·.2)

/-- Takes the first whole message received on a queue off the inbox. -/
def dropInbox (q : Nat) (m : MboxSide) : MboxSide :=
  match m.inbox.findIdx? fun e => e.1 == q with
  | some i => { m with inbox := m.inbox.eraseIdx i }
  | none => m

/-! ### Whole frames (R147, R153, R156) -/

/-- Bytes of an uplink from its header to its mailbox, which its CRC covers. -/
def upBytes (m : Nat) (hdr : Word) (rt : List Byte) (x : Mailbox) : List Byte :=
  wordBytes hdr ++ sliceB rt 0 40 ++ mailboxBytes m x

/-- Bytes of a downlink from its header to its mailbox, which its CRC covers. -/
def downBytes (m : Nat) (hdr : Word) (rt : List Byte) (x : Mailbox) : List Byte :=
  wordBytes hdr ++ sliceB rt 0 24 ++ mailboxBytes m x

/-- An uplink passes: its code groups spell what it carries and its CRC fits it (R145 to R147). -/
def upGood (w : Nat) (f : UpFrame) : Bool :=
  let b := upBytes (mboxBytes w) f.header f.rt f.mbx
  spells f.line (b ++ wordBytes f.crc) && f.crc == crc32 b

/-- W that a W_CODE states (R149, R152). -/
def codeW (c : BitVec 2) : Nat := if c.toNat = 0 then 4096 else if c.toNat = 1 then 8192 else 16384

/-- The header of a downlink frame of a unit (R152). -/
def downHeader (unit : Bool) (d : DownFrame) : Word :=
  BitVec.ofNat 32 (b2n d.auth * 2 ^ 31 + b2n d.hem * 2 ^ 30 + b2n unit * 2 ^ 29 + b2n d.fastTherm * 2 ^ 28
    + d.seq.toNat * 2 ^ 22 + d.armState.toNat * 2 ^ 20 + d.armId.toNat * 2 ^ 12 + b2n d.train * 2 ^ 10
    + d.wCode.toNat * 2 ^ 8)

/-- A downlink is valid: its code groups spell what it carries and its CRC fits it (R145 to R147). -/
def downGood (unit : Bool) (d : DownFrame) : Bool :=
  let b := downBytes (mboxBytes (codeW d.wCode)) (downHeader unit d) d.rt d.mbx
  spells d.line (b ++ wordBytes d.crc) && d.eof && d.crc == crc32 b

end Sys2Proof.Machine
end

