-- ==== Sys2Proof/Machine/PortCtl.lean ====
section
/-! DEFINITION. The control side of a port under its stock module (07): samples and measured quantities, START and STOP,
ramps, breaker curve, saturation, insertion, margining, snapshots, far-end path writes and the port's sticky bits. The
module's work of a round is done at the tick that begins the round, on the uplinks of the round before (R56). -/
namespace Sys2Proof.Machine

/-! ### Samples and measured quantities (R190, R192, R218) -/

/-- Sets a bit of 0x3000+n.04. -/
def stick (s : State) (n bit : Nat) : State := updLink s n fun l => { l with sticky := setBit l.sticky bit }

/-- A sample code as R192 takes it: over range is full scale with its sign. -/
def codeVal (c : BitVec 16) : Int := if c = 0x7FFF then 32766 else if c = 0x8000 then -32767 else c.toInt

/-- The physical value of sample i of a port (R192). -/
def sampleVal (s : State) (n i : Nat) : Rat :=
  ((codeVal (((ctl s n).samples[i]?).getD 0) : Int) : Rat) * pcfgF s n (0x30 + i)

/-- Measured-side current of a port (R190, R218). -/
def measI (s : State) (n : Nat) : Rat :=
  match clsOf s n with
  | 1 =>
    let a := sampleVal s n 0
    let b := sampleVal s n 1
    let c := sampleVal s n 2
    rsqrt ((a * a + b * b + c * c) / 3)
  | 5 => sampleVal s n 2
  | 0 => 0
  | _ => sampleVal s n 0

/-- Measured-side voltage of a port (R190, R218). -/
def measV (s : State) (n : Nat) : Rat :=
  match clsOf s n with
  | 1 =>
    let a := sampleVal s n 3
    let b := sampleVal s n 4
    let c := sampleVal s n 5
    rsqrt (a * a + b * b + c * c)
  | 5 => sampleVal s n 3
  | 0 => 0
  | _ => sampleVal s n 1

/-- Measured-side power of a port (R190, R218). -/
def measP (s : State) (n : Nat) : Rat :=
  match clsOf s n with
  | 1 => sampleVal s n 0 * sampleVal s n 3 + sampleVal s n 1 * sampleVal s n 4 + sampleVal s n 2 * sampleVal s n 5
  | _ => measI s n * measV s n

/-- The regulated voltage of a RECT_PFC, TRAY_IBC or AUX port (R190). -/
def regV (s : State) (n : Nat) : Rat := if clsOf s n = 1 then sampleVal s n 6 else sampleVal s n 3

/-- The class regulates a voltage to SETPOINT (R198, R201). -/
def isVolt (c : Nat) : Bool := c == 1 || c == 5 || c == 6

/-- Length of the round that begins, s (R205). -/
def roundTime (s : State) : Rat := 1 / (s.wheel.fTick * ((s.wheel.w : Nat) : Rat))

/-- The stock module of a port runs its round body in this round (R142, R218). -/
def moduleRuns (s : State) (n : Nat) : Bool :=
  stockPort s n && ((portEngines n).all fun e => bodyRuns s e) && (sleeve s (n / 8)).seedLeft == 0 && (link s n).cls != 0

/-- The rack-level engines of a Sleeve run their round body in this round (R23). -/
def rackBody (s : State) (sl : Nat) : Bool := ((rackEngines sl).all fun e => bodyRuns s e) && (sleeve s sl).seedLeft == 0

/-- A stock rack module runs in this round: the pattern keeps it, and at least one Sleeve's rack-level engines run (R3, R23,
R142). -/
def rackModule (s : State) (m : Nat) : Bool := stockModule s m && allSleeves.any (rackBody s)

/-! ### Limits (R208, R216, R291) -/

/-- RATING. -/
def rating (s : State) (n : Nat) : Rat := pcfgF s n 7

/-- Derate level that acts on a port: of a rectifier module the larger of its two ports (R291). -/
def derateOf (s : State) (n : Nat) : Nat :=
  match clsOf s n with
  | 1 | 2 => Nat.max (ctl s n).derate (ctl s (partner n)).derate
  | 3 | 6 => (ctl s n).derate
  | _ => 0

/-- Fraction of RATING that saturation and derating leave (R208, R291). -/
def limitFactor (s : State) (n : Nat) : Rat :=
  let d : Rat := if clsOf s n = 1 then 1 else mkRat (16 - (derateOf s n : Nat) : Int) 16
  if (ctl s n).reduced then rmin d (pcfgF s n 0x0F / 100) else d

/-- Factor of the margined setpoint at this round of its move (R216). -/
def marginFactor (s : State) (n : Nat) : Rat :=
  let c := ctl s n
  let goal := 1 + (c.margin : Rat) * mkRat 5 1000
  c.marginFrom + (goal - c.marginFrom) * mkRat (Nat.min c.marginRounds 1024 : Nat) 1024

/-- The target of the ramp of a port (R190, R199). -/
def rampTarget (s : State) (n : Nat) : Rat :=
  match clsOf s n with
  | 2 | 3 => rating s n
  | _ => pcfgF s n 6 * marginFactor s n

/-- Where the ramp of a start begins: the measured value; a current limit rises from 0 (R190, R199). -/
def rampBegin (s : State) (n : Nat) : Rat := if isVolt (clsOf s n) then regV s n else 0

/-- A delay or ramp of a sequence step, or the port's own (R280). -/
def stepOr (v own : Nat) : Nat := if v = 0xFFFF then own else v

/-! ### START and STOP (R196 to R200) -/

/-- The status of a START written now (R198, R448). -/
def startStatus (s : State) (n : Nat) : Nat :=
  let c := clsOf s n
  let ix := 0x3100 + n
  if (link s n).state == .ready && decide (0 < latestF s ix 7) && decide (latestF s ix 7 < latestF s ix 9)
      && (!isVolt c || decide (0 < latestF s ix 6)) && (link s n).cfgOk && (link s n).fwLoad == 0
      && decide (2 * (ctl s n).heat < 2 ^ 48)
      && (c != 4 || (ctl s n).presence) then stOK
  else stState

/-- Queues START (1) or STOP (2) for its seam; of two for one seam the last applies (R198). -/
def queueCmd (s : State) (n cmd : Nat) : State :=
  updCtl s n fun c => { c with pend := (c.pend.filter fun p => p.2 != skipNow s) ++ [(cmd, skipNow s)] }

/-- A write of PORT_CMD: 1 START, 2 STOP (R198). -/
def portCmd (s : State) (n v : Nat) : Nat × State :=
  if v = 1 then
    let st := startStatus s n
    (st, if st = stOK then queueCmd s n 1 else s)
  else (stOK, queueCmd s n 2)

/-- OFF_DELAY has ended: the ramp-down starts with the next round; one of no rounds has ended with it, and a BUS_TAP clears
BYPASS and RUN (R200). -/
def offNow (s : State) (n : Nat) : State :=
  let all := ((ctl s n).ramp.map (·.2)).getD 0
  if clsOf s n = 4 ∨ all = 0 then
    updCtl s n fun c => { c with bypass := false, down := true, readyNext := true, ramp := some (0, 0), value := 0 }
  else updCtl s n fun c => { c with down := true, ramp := some (0, all), rampFrom := c.value }

/-- START takes effect: the port enters STARTING (R199); a BUS_TAP begins its insertion (R212). -/
def startNow (s : State) (n : Nat) (v : StepVals) : State :=
  let s := setPState s n .starting
  updCtl s n fun c => { c with
    vals := v, since := 0, ramp := none, value := 0, down := false, readyNext := false, satRun := 0, satNow := false,
    volts := [], pgRun := 0, pgLow := 0, bypass := false,
    insStage := if clsOf s n = 4 then (if c.presence then 2 else 1) else 0, insRun := 0 }

/-- START at its seam: a port still READY enters STARTING (R196). -/
def startAtSeam (s : State) (n : Nat) (v : StepVals) : State :=
  if (link s n).state == .ready then startNow s n v else s

/-- Rounds of the ramp-down of a port that stops now (R200). -/
def downRounds (s : State) (n : Nat) (v : StepVals) : Nat :=
  let all := stepOr v.rampDown (pcfg s n 5)
  if (link s n).state == .running then all
  else
    let t := rampTarget s n
    if t ≤ 0 then 0 else ((all : Rat) * (ctl s n).value / t).ceil.toNat

/-- STOP takes effect: the port enters STOPPING (R200). -/
def stopNow (s : State) (n : Nat) (v : StepVals) : State :=
  if (link s n).state == .starting || (link s n).state == .running then
    let all := downRounds s n v
    let s := updCtl (setPState s n .stopping) n fun c => { c with
        vals := v, since := 0, ramp := some (0, all), rampFrom := c.value, down := false, insStage := 0 }
    if stepOr v.offDelay (pcfg s n 4) = 0 then offNow s n else s
  else s

/-- STARTs and STOPs of the seam, then the ones of later seams come nearer. -/
def seamCmds (s : State) (n : Nat) : State :=
  let due := (ctl s n).pend.filter fun p => p.2 == 0
  let s := due.foldl (fun s p => if p.1 = 1 then startAtSeam s n {} else stopNow s n {}) s
  updCtl s n fun c => { c with pend := (c.pend.filter fun p => p.2 != 0).map fun p => (p.1, p.2 - 1) }

/-- The round begins before the one of the first ramp step (R199). -/
def onDelayDue (s : State) (n : Nat) : Bool :=
  let c := ctl s n
  (link s n).state == .starting && clsOf s n != 4 && c.ramp.isNone
    && decide (Nat.max (stepOr c.vals.onDelay (pcfg s n 2)) 4 ≤ c.since)

/-- Value of a ramp after `k` of `all` rounds. -/
def rampAt (from_ to_ : Rat) (k all : Nat) : Rat :=
  if all ≤ k then to_ else from_ + (to_ - from_) * mkRat (k : Nat) all

/-- ON_DELAY: the ramp starts, with its first step and RUN = 1 in the next round (R199). -/
def onDelayNow (s : State) (n : Nat) : State :=
  let all := stepOr (ctl s n).vals.rampUp (pcfg s n 3)
  let b := rampBegin s n
  updCtl s n fun c => { c with ramp := some (0, all), rampFrom := b }

/-- ON_DELAY (R199). -/
def execOnDelay (n : PortId) (s : State) : Out := .next (if onDelayDue s n then onDelayNow s n else s)

/-- The ramp has reached its target (R199). -/
def rampDue (s : State) (n : Nat) : Bool :=
  (link s n).state == .starting && match (ctl s n).ramp with
    | some (k, all) => decide (0 < k ∧ all ≤ k)
    | none => false

/-- RAMP_COMPLETE: the port is RUNNING (R199). -/
def rampNow (s : State) (n : Nat) : State :=
  let s := setPState s n .running
  updCtl s n fun c => { c with ramp := none, value := q40 (rampTarget s n) }

/-- RAMP_COMPLETE (R199). -/
def execRampComplete (n : PortId) (s : State) : Out := .next (if rampDue s n then rampNow s n else s)

/-- OFF_DELAY has passed (R200). -/
def offDue (s : State) (n : Nat) : Bool :=
  let c := ctl s n
  (link s n).state == .stopping && !c.down && !c.readyNext && decide (stepOr c.vals.offDelay (pcfg s n 4) ≤ c.since)

/-- OFF_DELAY (R200). -/
def execOffDelay (n : PortId) (s : State) : Out := .next (if offDue s n then offNow s n else s)

/-- The ramp-down has ended (R200). -/
def downDue (s : State) (n : Nat) : Bool :=
  let c := ctl s n
  (link s n).state == .stopping && c.down && !c.readyNext && match c.ramp with
    | some (k, all) => decide (0 < k ∧ all ≤ k)
    | none => true

/-- RAMP_DOWN_COMPLETE: RUN = 0 is sent in the next round, and the port becomes READY at the tick after it (R200). -/
def downNow (s : State) (n : Nat) : State := updCtl s n fun c => { c with readyNext := true, ramp := some (0, 0), value := 0 }

/-- RAMP_DOWN_COMPLETE (R200). -/
def execRampDownComplete (n : PortId) (s : State) : Out := .next (if downDue s n then downNow s n else s)

/-! ### Breaker curve (R204 to R206) -/

/-- The points in use of the curve of a port: current and time. -/
def curvePts (s : State) (n : Nat) : List (Rat × Rat) :=
  let ix := 0x3500 + pcfg s n 8
  (List.range (Nat.min (cfg s ix 1) 8)).map fun k => (cfgF s ix (2 + k), cfgF s ix (0x0A + k))

/-- The rate of heating at a multiple of RATING (R205); none below M1. -/
def heatRate : List (Rat × Rat) → Rat → Option Rat
  | [], _ => none
  | [(m1, t1)], m => if m1 ≤ m then some (1 / t1) else none
  | (m1, t1) :: (m2, t2) :: t, m =>
    if m < m1 then none
    else if m2 ≤ m then heatRate ((m2, t2) :: t) m
    else some (1 / t1 + (m - m1) / (m2 - m1) * (1 / t2 - 1 / t1))

/-- The nearest whole number. -/
def roundR (x : Rat) : Int := (x + 1 / 2).floor

/-- The breaker is active (R205). -/
def breakerOn (s : State) (n : Nat) : Bool :=
  if clsOf s n = 4 then (link s n).state == .running && (ctl s n).bypass
  else (link s n).state == .starting || (link s n).state == .running

/-- The heat of a port after a round (R205). With RATING 0 the multiple is a free value. -/
def heatStep (s : State) (n : Nat) : State :=
  let r := rating s n
  let (w, s) := if r = 0 then drawRat s else ((0 : Rat), s)
  let c := ctl s n
  let m := if r = 0 then w else rabs c.nowI / r
  let t := roundTime s
  let heat := match (if breakerOn s n then heatRate (curvePts s n) m else none) with
    | some rate => c.heat + (roundR (((2 ^ 48 : Nat) : Rat) * t * rate)).toNat
    | none => c.heat - (roundR ((c.heat : Rat) * t / cfgF s (0x3500 + pcfg s n 8) 0x12)).toNat
  updCtl s n fun c => { c with heat := heat }

/-- The trip level is reached, and the port is not already held by this trip, which it would only repeat (R205). -/
def overloadDue (s : State) (n : Nat) : Bool :=
  let c := ctl s n
  decide (2 ^ 48 ≤ c.heat) && (breakerOn s n || !c.tripped || c.tripReason != 1)

/-- OVERLOAD: the port trips with reason 0x01 (R205, R206). -/
def overloadNow (s : State) (n : Nat) : State := tripPort (stick s n 18) n 1

/-- OVERLOAD (R205, R206). -/
def execOverload (n : PortId) (s : State) : Out := .next (if overloadDue s n then overloadNow s n else s)

/-- The raw value of a breaker curve object that an APPLY would make effective (R204). -/
def stagedVal (s : State) (c sub : Nat) : Nat :=
  match tfind s.net.staged (c * 256 + sub) with
  | some v => v
  | none => latest s (0x3500 + c) sub

/-- M rises strictly and T falls strictly, and every T lies in its range. -/
def curveShape : List (Rat × Rat) → Bool
  | [] => true
  | [(_, t)] => decide (1 / 1000 ≤ t) && decide (t ≤ 86400)
  | (m, t) :: (m2, t2) :: r =>
    decide (1 / 1000 ≤ t) && decide (t ≤ 86400) && decide (m < m2) && decide (t2 < t) && curveShape ((m2, t2) :: r)

/-- Status of an APPLY (R204). -/
def applyStatus (s : State) (c : Nat) : Nat :=
  let k := stagedVal s c 1
  let f (sub : Nat) : Rat := f32Val (BitVec.ofNat 32 (stagedVal s c sub))
  if k = 0 then
    (if (List.range 256).any fun n => latest s (0x3100 + n) 8 == c then stState else stOK)
  else if k < 2 ∨ 8 < k then stRange
  else if decide (1 ≤ f 2) && curveShape ((List.range k).map fun i => (f (2 + i), f (0x0A + i))) && decide (1 ≤ f 0x12)
      && decide (f 0x12 ≤ 86400) then stOK
  else stRange

/-- A write of 1 to APPLY: an accepted curve takes effect at the next seam (R204). -/
def applyWrite (s : State) (c v : Nat) : Nat × State :=
  if v = 0 then (stOK, s)
  else
    let st := applyStatus s c
    if st ≠ stOK then (st, s)
    else
      let mine := s.net.staged.filter fun x => x.1 / 256 == c
      (stOK, { s with net := { s.net with
          staged := s.net.staged.filter fun x => x.1 / 256 != c,
          pend := s.net.pend ++ mine.map fun x =>
            { index := 0x3500 + c, sub := x.1 % 256, value := x.2, skip := skipNow s } } })

/-! ### Saturation (R207, R208) -/

/-- The regulated quantity is short of its reference (R207). -/
def isShort (s : State) (n : Nat) : Bool :=
  let c := ctl s n
  if isVolt (clsOf s n) then decide (regV s n < c.value)
  else decide (rabs c.nowI < rabs (f32Val c.cmd.setpoint))

/-- An unsaturated round: the control law moves its integrator, to a free value (R207). -/
def unsaturated (s : State) (n : Nat) : State :=
  let (w, s) := drawRat s
  updCtl s n fun c => { c with satNow := false, satRun := 0, integ := w }

/-- Saturation of a round; a saturated round holds the integrator (R207). Whether the control output is at its limit is the
control law's: a free value. -/
def satStep (s : State) (n : Nat) : State :=
  let t := (link s n).state
  if !(isVolt (clsOf s n) || clsOf s n == 2 || clsOf s n == 3) then s
  else if !(t == .starting || t == .running) || !isShort s n then unsaturated s n
  else
    let (b, s) := drawBool s
    if b then stick (updCtl s n fun c => { c with satNow := true, satRun := c.satRun + 1 }) n 19 else unsaturated s n

/-- SAT_TIME has passed (R208). -/
def satDue (s : State) (n : Nat) : Bool :=
  let c := ctl s n
  c.satNow && decide (pcfg s n 0x0D ≤ c.satRun) && ((link s n).state == .starting || (link s n).state == .running)

/-- SAT_ACTION: trip, or reduction and later trip (R208). -/
def satAct (s : State) (n : Nat) : State :=
  let s := stick s n 20
  if pcfg s n 0x0E == 1 && !(ctl s n).reduced then updCtl s n fun c => { c with reduced := true, satRun := 0 }
  else tripPort (updCtl s n fun c => { c with satRun := 0 }) n 2

/-- SAT_ACTION (R208). -/
def execSatAction (n : PortId) (s : State) : Out := .next (if satDue s n then satAct s n else s)

/-! ### Hot insertion (R212 to R215) -/

/-- Bus-side voltage lies within INS_UV to INS_OV and the tray is present (R212). -/
def insOk (s : State) (n : Nat) : Bool :=
  let v := sampleVal s n 1
  decide (pcfgF s n 0x14 ≤ v) && decide (v ≤ pcfgF s n 0x15) && (ctl s n).presence

/-- The debounce is complete (R212). -/
def debounceDue (s : State) (n : Nat) : Bool :=
  (link s n).state == .starting && (ctl s n).insStage == 2 && decide (pcfg s n 0x16 ≤ (ctl s n).insRun)

/-- INS_DEBOUNCE (R212). -/
def debounceNow (s : State) (n : Nat) : State := updCtl s n fun c => { c with insStage := 3, insRun := 0 }

/-- INS_DEBOUNCE (R212). -/
def execInsDebounce (n : PortId) (s : State) : Out := .next (if debounceDue s n then debounceNow s n else s)

/-- The insertion delay is complete; RUN = 1 waits for the rounds of R199. -/
def insDelayDue (s : State) (n : Nat) : Bool :=
  let c := ctl s n
  (link s n).state == .starting && c.insStage == 3 && decide (pcfg s n 0x17 * 1024 ≤ c.insRun)
    && decide (Nat.max (stepOr c.vals.onDelay (pcfg s n 2)) 4 ≤ c.since)

/-- INS_DELAY: the inrush starts (R212, R213). -/
def insDelayNow (s : State) (n : Nat) : State :=
  let v := sampleVal s n 2
  updCtl s n fun c => { c with insStage := 4, insRun := 0, insCharge := 0, insV0 := v }

/-- INS_DELAY (R212). -/
def execInsDelay (n : PortId) (s : State) : Out := .next (if insDelayDue s n then insDelayNow s n else s)

/-- The inrush has lasted INRUSH_TIMEOUT rounds (R214). -/
def inrushDue (s : State) (n : Nat) : Bool :=
  (link s n).state == .starting && (ctl s n).insStage == 4 && decide (pcfg s n 0x1A ≤ (ctl s n).insRun)

/-- INRUSH_TIMEOUT: trip with reason 0x04 (R214). -/
def inrushNow (s : State) (n : Nat) : State := tripPort (stick s n 22) n 4

/-- INRUSH_TIMEOUT (R214). -/
def execInrushTimeout (n : PortId) (s : State) : Out := .next (if inrushDue s n then inrushNow s n else s)

/-- The insertion of a BUS_TAP in a round (R212 to R214). -/
def insStep (s : State) (n : Nat) : State :=
  if clsOf s n != 4 || (link s n).state != .starting then s
  else
    let ok := insOk s n
    let c := ctl s n
    match c.insStage with
    | 1 => if c.presence then updCtl s n fun c => { c with insStage := 2, insRun := 0 } else s
    | 2 => updCtl s n fun c => { c with insRun := if ok then c.insRun + 1 else 0 }
    | 3 => updCtl s n fun c => { c with insStage := if ok then 3 else 2, insRun := if ok then c.insRun + 1 else 0 }
    | 4 =>
      if !ok then stick (updCtl s n fun c => { c with insStage := 2, insRun := 0 }) n 23
      else if sampleVal s n 1 * 95 / 100 ≤ sampleVal s n 2 then
        let s := setPState s n .running
        updCtl s n fun c => { c with insStage := 5, bypass := true }
      else
        let q := sampleVal s n 0 * roundTime s
        updCtl s n fun c => { c with insRun := c.insRun + 1, insCharge := c.insCharge + q40 q }
    | _ => s

/-- What a valid uplink of a BUS_TAP says of PRESENCE; the first since training tells no rise (R192, R196, R214, R215). -/
def presenceNow (s : State) (n : Nat) : State :=
  let was := (ctl s n).presence
  let seen := (ctl s n).presSeen
  let now := decide (1 / 2 ≤ sampleVal s n 3)
  let s := updCtl s n fun c => { c with presence := now, presSeen := true }
  let t := (link s n).state
  if now && !was then
    (if seen && t == .ready && pcfg s n 0x13 == 1 && stockPort s n then startNow s n {} else s)
  else if now then s
  else if t == .starting then
    let s := if (ctl s n).insStage == 4 then stick s n 23 else s
    setPState s n .ready
  else if t == .running then setPState (stick s n 24) n .ready
  else s

/-- ILIMIT of a BUS_TAP; the present one is held through OFF_DELAY (R200, R213). With no rise of the voltage so far the
estimate of the capacitance is a free value. -/
def tapLimitOf (s : State) (n : Nat) : Rat × State :=
  let c := ctl s n
  if c.bypass then
    let top := (((curvePts s n).getLast?).map (·.1)).getD 0 * rating s n
    (rmin top (pcfgF s n 9), s)
  else if (link s n).state == .stopping then (f32Val c.cmd.ilimit, s)
  else if c.insStage == 4 then
    let d := rmax 1 (sampleVal s n 1 - sampleVal s n 2)
    let lim := pcfgF s n 0x19 / d
    if c.insRun < 64 then (lim, s)
    else
      let rise := sampleVal s n 2 - c.insV0
      let (w, s) := if rise ≤ 0 then drawRat s else (c.insCharge / rise, s)
      (rmin lim (pcfgF s n 0x18 * 1000 * w), s)
  else (0, s)

/-! ### Margining and power-good (R201, R216, R217) -/

/-- A margin value fits the over-voltage level of the port (R216). -/
def marginFits (s : State) (n : Nat) (v : Int) : Bool :=
  let sp := latestF s (0x3100 + n) 6 * (1 + (v : Rat) * mkRat 5 1000)
  let lvl := latestF s (0x3100 + n) (if clsOf s n = 5 then 0x0B else 0x1C)
  decide (sp ≤ lvl * mkRat 95 100)

/-- The signed value of a raw I8. -/
def rawI8 (v : Nat) : Int := (BitVec.ofNat 8 v).toInt

/-- The check of a write of MARGIN beyond its range (R216). -/
def marginStatus (s : State) (n v : Nat) : Nat :=
  if (clsOf s n == 5 || clsOf s n == 6) && marginFits s n (rawI8 v) then stOK else stRange

/-- A margin takes effect at its seam (R216). -/
def marginNow (s : State) (n v : Nat) : State :=
  let f := marginFactor s n
  updCtl s n fun c => { c with margin := rawI8 v, marginFrom := f, marginRounds := 0 }

/-- Mean of a list. -/
def mean (l : List Rat) : Rat := if l.isEmpty then 0 else l.sum / (l.length : Nat)

/-- PG of a round (R201) and the runs of it. -/
def pgStep (s : State) (n : Nat) : State :=
  let c := ctl s n
  let t := (link s n).state
  let vs := if isVolt (clsOf s n) && (t == .starting || t == .running) then (regV s n :: c.volts).take 64 else []
  let run := t == .running
  let sp := pcfgF s n 6 * marginFactor s n
  let pg := match clsOf s n with
    | 1 | 5 | 6 =>
      run && vs.length == 64 && decide (sp * pcfgF s n 0x11 / 100 ≤ mean vs)
        && decide (mean vs ≤ sp * pcfgF s n 0x12 / 100)
    | 2 | 3 => run && !c.satNow
    | 4 => c.bypass
    | _ => false
  updCtl s n fun c => { c with
    volts := vs, pg := pg, pgRun := if pg then c.pgRun + 1 else 0,
    pgLow := if run && !pg then c.pgLow + 1 else 0 }

/-! ### Measurement (R218 to R220) -/

/-- Adds an energy in µJ to an accumulator: the accumulator, the fraction carried, and whether it wrapped (R219). -/
def addEnergy (acc : BitVec 64) (frac e : Rat) : BitVec 64 × Rat × Bool :=
  let x := frac + e
  let k := x.floor.toNat
  (acc + BitVec.ofNat 64 k, q40 (x - (k : Rat)), decide (2 ^ 64 ≤ acc.toNat + k))

/-- The measurements of a round (R218, R219). -/
def measureStep (s : State) (n : Nat) : State :=
  let i := q40 (measI s n)
  let v := q40 (measV s n)
  let p := q40 (measP s n)
  let e := rabs p * roundTime s * 1000000
  let c := ctl s n
  let (fw, ff, wf) := if 0 < p then addEnergy c.energyFwd c.fracFwd e else (c.energyFwd, c.fracFwd, false)
  let (rv, fr, wr) := if p < 0 then addEnergy c.energyRev c.fracRev e else (c.energyRev, c.fracRev, false)
  let s := updCtl s n fun c => { c with
    nowI := i, nowV := v, nowP := p, sumI := c.sumI + i, sumV := c.sumV + v, sumP := c.sumP + p, sumN := c.sumN + 1,
    energyFwd := fw, fracFwd := ff, energyRev := rv, fracRev := fr,
    sumIn := c.sumIn + q40 (sampleVal s n 0), sumOut := c.sumOut + q40 (sampleVal s n 2) }
  if wf || wr then stick s n 25 else s

/-- CURRENT, VOLTAGE and POWER of the interval that ends at a seam (R218), and the ratio of R248. -/
def publish (s : State) (n : Nat) : State :=
  updCtl s n fun c =>
    let k : Rat := (c.sumN : Nat)
    let c := if c.sumN = 0 then c else { c with
      current := f32Of (c.sumI / k), voltage := f32Of (c.sumV / k), power := f32Of (c.sumP / k),
      ratio := if c.sumIn = 0 then c.ratio else q40 (c.sumOut / c.sumIn) }
    { c with sumI := 0, sumV := 0, sumP := 0, sumN := 0, sumIn := 0, sumOut := 0 }

/-- Latches the snapshot of a port from the samples of the tick before the last (R220). -/
def snapNow (s : State) (n : Nat) : State :=
  updCtl s n fun c => { c with
    snapPend := false, snapRound := s.wheel.round, snapI := f32Of c.prev.1, snapV := f32Of c.prev.2.1,
    snapP := f32Of c.prev.2.2.1, snapFwd := BitVec.ofNat 64 c.prev.2.2.2.1, snapRev := BitVec.ofNat 64 c.prev.2.2.2.2,
    snapCount := if c.snapRound = s.wheel.round && c.snapCount != 0 then c.snapCount else c.snapCount + 1 }

/-- A write of SNAP (R220). -/
def snapWrite (s : State) (n v : Nat) : Nat × State :=
  if v = 0 then (stOK, s) else (stOK, updCtl s n fun c => { c with snapPend := true })

/-! ### Far-end path (R195) -/

/-- The words of a far-end path write of a whole port: ADDR 0x0100, COUNT 2, or 4 for a TRAY_IBC (R195). -/
def pathWords (s : State) (n : Nat) : List Word :=
  let w (sub : Nat) := BitVec.ofNat 32 (pcfg s n sub)
  if clsOf s n = 5 then [w 9, w 0x0A, w 0x0B, w 0x0C] else [w 9, w 0x0A]

/-- The CFG_WRITE that follows a completed training (R195, R410). -/
def sendPath (s : State) (n : Nat) : State :=
  let s := updLink s n fun l => { l with cfgOut := true, cfgOk := false }
  sendMsg s n 0 0x01 (cfgBody 0x0100 (pathWords s n))

/-- A far-end path write sent at once (R195). -/
def sendPathWord (s : State) (n sub v : Nat) : State :=
  let t := (link s n).state
  let s := setCfg s (0x3100 + n) sub v
  if t == .absent || t == .training || !commands s then s
  else sendMsg s n 0 0x01 (cfgBody (pathAddr sub) [BitVec.ofNat 32 v])

/-- A write of a far-end path object to some ports: those in STARTING, RUNNING or STOPPING by arm and commit, the
others at once (R135, R195). -/
def pathWrite (s : State) (ports : List Nat) (sub v : Nat) : Nat × State :=
  let live := ports.filter fun n => isLive (link s n).state
  let rest := ports.filter fun n => !isLive (link s n).state
  if live.isEmpty then (stOK, forAll rest (fun s n => sendPathWord s n sub v) s)
  else if !armFree s then (stBusy, s)
  else (stOK, armRequest (forAll rest (fun s n => sendPathWord s n sub v) s) (live.map fun n => (n, sub, v)))

/-- OV_LEVEL and OV_RELEASE belong to TRAY_IBC ports alone (R195). -/
def pathClassOk (s : State) (n sub : Nat) : Bool := sub == 9 || sub == 0x0A || clsOf s n == 5

/-! ### Port sticky word (R188, R203, R211, R223) -/

/-- LOCKOUT is left when FE_LOCKOUT and OV_LATCH are clear and 4 uplinks in a row said LOCKOUT = 0 (R196). -/
def tryUnlock (s : State) (n : Nat) : State :=
  let l := link s n
  if l.state == .lockout && !hasBit l.sticky 17 && !hasBit l.sticky 21 && decide (4 ≤ l.lockoutClear) then
    if portHeld s n then setPState s n .hem else setPState s n (freeState s n)
  else s

/-- Bits of 0x3000+n.04 whose cause is still present (R9). -/
def portCauses (s : State) (n : Nat) : Word :=
  let l := link s n
  let c := ctl s n
  let up := !(l.state == .absent) && !(l.state == .training)
  let w : Word := setBitIf l.lost 0 0
  let w := setBitIf (up && !classFits s n) w 2
  let w := setBitIf (up && !uidOk s n) w 3
  setBitIf c.satNow (setBitIf c.satNow w 19) 20

/-- The far-end bits that a write to the port's bits clears (R203, R211). -/
def clearMask (bits : Word) : Word :=
  let w : Word := if hasBit bits 16 then 1 else 0
  let w := if hasBit bits 17 then w ||| 3 else w
  if hasBit bits 21 then w ||| 2 else w

/-- A W1C write to 0x3000+n.04: bits clear unless their cause is still present; the matching far-end bits are cleared
by CLEAR_STATUS; clearing SAT_ACTION ends the reduction (R9, R203, R208, R211). -/
def portStickyWrite (s : State) (n : Nat) (bits : Word) : Nat × State :=
  let gone := clearBits (bits &&& 0x07FF07FF) (portCauses s n)
  let l := link s n
  let s := setLink s n { l with sticky := clearBits l.sticky gone }
  let s := if hasBit gone 20 then updCtl s n fun c => { c with reduced := false } else s
  let m := clearMask bits
  let s := if m = 0 then s else sendMsg s n 0 0x04 (wordBytes m)
  (stOK, tryUnlock s n)

/-! ### The command of a round (R153, R190) -/

/-- The feed of a rectifier port, as the reference port layout wires them: ports 0 to 3 of a Sleeve feed A, 4 to 7 feed
B (notes/assumptions/20.md). -/
def feedOf (n : Nat) : Feed := if n % 8 < 4 then .A else .B

/-- A word of the wheel and local sense block that the engines read in this round, which describes the tick before (R59). -/
def blockWord (s : State) (off : Nat) : Word := mword s.arr.blkRead off

/-- The measured angle of a port's feed predicted for the tick of application: three rounds after the tick that the block of
this round describes (R59, R67, R190). -/
def predictedAngle (s : State) (n : Nat) : Word :=
  let o := if feedOf n = .A then 32 else 64
  if hasBit (blockWord s (o + 16)) 0 then extrapolate (blockWord s o, blockWord s (o + 4)) (3 * roundTime s) else 0

/-- RUN of a port; through OFF_DELAY and the ramp-down it stays as it was (R199, R200, R213). -/
def runBit (s : State) (n : Nat) : Bool :=
  let c := ctl s n
  let t := (link s n).state
  let held := t == .stopping && !c.readyNext && c.cmd.run
  if clsOf s n = 4 then held || (t != .stopping && c.bypass) || (t == .starting && c.insStage == 4)
  else held || t == .running || (t == .starting && c.ramp.isSome)

/-- ILIMIT of a TRAY_IBC under a tap limit in percent of the tap's RATING (R248). -/
def trayLimit (s : State) (n : Nat) : Rat :=
  let base := rating s n * limitFactor s n
  if s.flow.tapSteps = 0 then base
  else
    let tap := rating s (partner n) * rmax (cfgF s 0x2505 8 / 100) (mkRat (16 - (s.flow.tapSteps : Nat) : Int) 16)
    rmin base (tap * (ctl s n).ratio)

/-- The stock module's command for the round (R190, R248, R292). SETPOINT and CHARGE of current-regulated classes are
set by the rack modules and limited here; LS_EN is the control law's. -/
def commandStep (s : State) (n : Nat) : State :=
  let (tap, s) := if clsOf s n = 4 then tapLimitOf s n else ((0 : Rat), s)
  let (ls, s) := if clsOf s n = 5 then drawBool s else (false, s)
  let c := ctl s n
  let lim := rating s n * limitFactor s n
  let shed : Byte := if c.shed then 1 else 0
  let cmd := c.cmd
  let cmd := { cmd with run := runBit s n }
  let cmd := match clsOf s n with
    | 1 => { cmd with setpoint := f32Of c.value, ilimit := f32Of lim, mode := shed, classData := predictedAngle s n }
    | 2 =>
      { cmd with setpoint := f32Of (rmin (f32Val cmd.setpoint) lim), ilimit := f32Of (rmin c.value lim), mode := shed }
    | 3 =>
      let charge : Byte := cmd.mode &&& 1
      let cont : Byte := if isLive (link s n).state && !contactorHold s n then 2 else 0
      { cmd with
        setpoint := f32Of (rclamp (f32Val cmd.setpoint) (-lim) lim), ilimit := f32Of (rmin c.value lim), mode := charge ||| cont }
    | 4 => { cmd with setpoint := 0, ilimit := f32Of tap, mode := if c.bypass then 1 else 0 }
    | 5 => { cmd with setpoint := f32Of c.value, ilimit := f32Of (trayLimit s n), mode := if ls then 1 else 0 }
    | _ => { cmd with setpoint := f32Of c.value, ilimit := f32Of lim }
  updCtl s n fun c => { c with cmd := cmd }

/-- Writes the command into the port's downlink slot in B2; edges and their enables are the control law's, free values
(R60, R153, R190). -/
def writeSlot (s : State) (n : Nat) : State :=
  let (e0, s) := drawWord s
  let (e1, s) := drawWord s
  let (en, s) := drawWord s
  let m := (ctl s n).cmd
  let mode := b2n m.run + 2 * (en.toNat % 16) + 256 * m.mode.toNat
  let bytes := wordBytes e0 ++ wordBytes e1 ++ wordBytes m.setpoint ++ wordBytes m.ilimit ++ leBytes 2 mode
    ++ leBytes 1 (b2n m.throttle + 2 * b2n m.pfw) ++ [0] ++ wordBytes m.classData ++ leBytes 4 (b2n m.fastTherm)
  let shm := mwrite s.arr.shm (shmKey (n / 8) (0x2000 + 32 * (n % 8))) bytes
  { s with arr := { s.arr with shm := shm } }

/-! ### The round of a port -/

/-- What was due in the round before and has not been commanded (notes/assumptions/6.md). -/
def portCatchUp (s : State) (n : Nat) : State :=
  let s := if overloadDue s n then overloadNow s n else s
  let s := if satDue s n then satAct s n else s
  let s := if inrushDue s n then inrushNow s n else s
  let s := if debounceDue s n then debounceNow s n else s
  let s := if insDelayDue s n then insDelayNow s n else s
  let s := if onDelayDue s n then onDelayNow s n else s
  let s := if rampDue s n then rampNow s n else s
  let s := if offDue s n then offNow s n else s
  if downDue s n then downNow s n else s

/-- The ramp of a port takes its step of a round (R199, R200): towards `goal` while STARTING, to zero in the ramp-down. -/
def rampStep (t : PState) (goal : Rat) (c : Ctl) : Ctl :=
  let to_ := if t == .starting then goal else 0
  match c.ramp with
  | some (k, all) =>
    if t == .starting || c.down then
      { c with since := c.since + 1, ramp := some (k + 1, all), value := q40 (rampAt c.rampFrom to_ (k + 1) all) }
    else { c with since := c.since + 1 }
  | none => { c with since := c.since + 1 }

/-- The end of STOPPING: a round with RUN = 0, then READY (R200). -/
def portReady (s : State) (n : Nat) : State :=
  let c := ctl s n
  if !c.readyNext then s
  else if (link s n).state != .stopping then updCtl s n fun c => { c with readyNext := false }
  else if c.ramp.isSome then updCtl s n fun c => { c with ramp := none }
  else setPState s n .ready

/-- What a round moves in the command of a port: the end of STOPPING, and the ramp (R199, R200). -/
def portMove (s : State) (n : Nat) : State :=
  let s := portReady s n
  let t := (link s n).state
  let goal := rampTarget s n
  if t == .starting || t == .stopping then updCtl s n (rampStep t goal)
  else if t == .running && clsOf s n != 4 then updCtl s n fun c => { c with value := q40 goal }
  else s

/-- Start of a round for a port; the margin moves first (R216). -/
def portAdvance (s : State) (n : Nat) : State :=
  portMove (updCtl s n fun c => { c with
    prev := (c.nowI, c.nowV, c.nowP, c.energyFwd.toNat, c.energyRev.toNat),
    marginRounds := if c.marginRounds < 1024 then c.marginRounds + 1 else c.marginRounds }) n

/-- The module's measurements and protection of a round. -/
def portMeasure (s : State) (n : Nat) : State :=
  if moduleRuns s n then pgStep (insStep (satStep (heatStep (measureStep s n) n) n) n) n else s

/-- The module's command of a round. -/
def portOutput (s : State) (n : Nat) : State := if moduleRuns s n then writeSlot (commandStep s n) n else s

/-- A port stops in a round that has begun, as though a STOP took effect at its tick (R286). -/
def stopInRound (s : State) (n : Nat) (v : StepVals) : State :=
  if (link s n).state == .starting || (link s n).state == .running then portOutput (portMove (stopNow s n v) n) n else s

/-- STALE of a port: one of its temperature groups has gone 128 rounds without a report (R289). -/
def groupsStale (s : State) (n : Nat) : Bool :=
  (List.range (link s n).groupCount).any fun g => decide (128 ≤ tget 0 (ctl s n).ages g)

end Sys2Proof.Machine
end

