-- ==== Sys2Proof/Machine/Link.lean ====
section
/-! DEFINITION. The controller's side of a stage link (06): uplink frames, missed rounds and LINK_LOST, training and
discovery, the mailbox of the controller, and firmware loads. -/
namespace Sys2Proof.Machine

/-! ### Headers (R152) -/

/-- W_CODE of a timebase. -/
def wCodeOf (w : Nat) : Nat := if w = 4096 then 0 else if w = 8192 then 1 else 2

/-- The header of the frame that a port sends at this tick (R152). -/
def headerOf (s : State) (n : Nat) : Word :=
  let l := link s n
  let arm := armHeader s n
  let fast := ((linkBuf s n)[0x18]?).getD 0
  BitVec.ofNat 32 (b2n (commands s) * 2 ^ 31 + b2n (hemBit s n) * 2 ^ 30 + s.pair.unit % 2 * 2 ^ 29
    + fast.toNat % 2 * 2 ^ 28 + s.wheel.round.toNat % 64 * 2 ^ 22 + arm * 2 ^ 20
    + (if arm = 0 then 0 else s.arm.ident.toNat) * 2 ^ 12 + b2n (l.state == .training) * 2 ^ 10
    + wCodeOf s.wheel.w * 2 ^ 8)

/-- The training downlink payload of a port (R172). -/
def trainRt (n : Nat) (l : Link) : List Byte :=
  let late := decide (3 ≤ l.step)
  leBytes 1 n ++ leBytes 1 l.step ++ leBytes 2 (if late then l.tickAdvance else 0) ++ leBytes 2 (if late then l.coastSent else 0)
    ++ List.replicate 18 0

/-- Real-time payload of the frame that a port sends at this tick: in training the training payload, else the snapshot of
its downlink slot (R153, R172). -/
def frameRt (s : State) (n : Nat) : List Byte :=
  if (link s n).state == .training then trainRt n (link s n) else (linkBuf s n).take 24

/-- Downlink frames start: every port that drives its pair sends the header and payload of this tick (R148, R152, R153). -/
def latchHeaders (s : State) : State :=
  { s with links := s.links.map fun x =>
      if x.2.driving then (x.1, { x.2 with hdr := headerOf s x.1, dlRt := frameRt s x.1 }) else x }

/-- The downlink frame that a port sent at the last tick, from its header to its CRC (R147, R153). -/
def sentDown (s : State) (n : Nat) : List Byte :=
  let l := link s n
  let b := downBytes (mboxBytes s.wheel.w) l.hdr l.dlRt l.dlMbx
  b ++ wordBytes (crc32 b)

/-- The code groups of that frame from its preamble to its EOF; the running disparity is that which the idle before it left,
whose length the round decides (R145, R148). -/
def sentDownLine (s : State) (n : Nat) (rd : Bool) : List (BitVec 10) := burst rd 4 (sentDown s n)

/-! ### Training (R168 to R172) -/

/-- Timeout of a training step, rounds (R169). -/
def stepTimeout (k : Nat) : Nat := if k = 1 then 128 else if k = 4 then 64 else 32

/-- The port takes part in training (R187). -/
def enabledPort (s : State) (n : Nat) : Bool := pcfg s n 0x20 != 0

/-- Training of a port starts with LOCK (R169, R172). -/
def startTraining (s : State) (n : Nat) : State :=
  let s := updCtl (setPState s n .training) n fun c => { c with presSeen := false }
  updLink s n fun l => { l with
    driving := !s.boot.highZ, step := 1, stepRounds := 0, stepRun := 0, identity := [], delaySum := 0, delayCount := 0,
    tickAdvance := 0, missed := 0, again := l.again || l.lost || l.fwLoad == 2 }

/-- The pattern is loaded and the links may be trained (R168, R408). -/
def linksRun (s : State) : Bool :=
  domainRuns s && !s.boot.coldP0 && s.pat.p1.isNone

/-- TRAINING_WAVE: wave w trains ports 32w to 32w + 31 (R168). -/
def execTrainingWave (s : State) : Out :=
  .next (if linksRun s && !s.boot.waveOn && decide (s.boot.wave < 8) then
    let ports := (List.range 32).map fun j => 32 * s.boot.wave + j
    let s := forAll ports (fun s n =>
      if enabledPort s n && (link s n).state == .absent && !(link s n).lost then startTraining s n else s) s
    { s with boot := { s.boot with wave := s.boot.wave + 1, waveOn := true } }
  else s)

/-- A wave ends when no port of it is in training any more (R168). -/
def waveEnd (s : State) : State :=
  if s.boot.waveOn && !((List.range 32).any fun j => (link s (32 * (s.boot.wave - 1) + j)).state == .training) then
    { s with boot := { s.boot with waveOn := false } }
  else s

/-- All waves have ended (R172). -/
def wavesDone (s : State) : Bool := s.boot.wave == 8 && !s.boot.waveOn

/-- Ports that R172 trains. -/
def wantsTraining (s : State) (n : Nat) : Bool :=
  let l := link s n
  enabledPort s n && l.state != .training && (l.state == .absent || l.lost || (l.fwLoad == 2 && l.state == .absent))

/-- The port that R172 trains next: in ascending order, going on above the last one (notes/assumptions/22.md). -/
def nextTraining (s : State) : Option Nat :=
  let want := allPorts.filter (wantsTraining s)
  let above := match s.boot.lastTrain with
    | some k => want.find? fun n => decide (k < n)
    | none => want.head?
  above.orElse fun _ => want.head?

/-- RETRAIN_START (R172). -/
def execRetrainStart (n : PortId) (s : State) : Out :=
  .next (if linksRun s && wavesDone s && nextTraining s == some n.val
      && decide ((allPorts.filter fun k => (link s k).state == .training).length < 32) then
    updLink (startTraining { s with boot := { s.boot with lastTrain := some n.val } } n) n fun l => { l with fwDone := true }
  else s)

/-- A training step has timed out. -/
def trainLate (s : State) (n : Nat) : Bool :=
  let l := link s n
  l.state == .training && decide (stepTimeout l.step ≤ l.stepRounds)

/-- The timeout of a step (R169). -/
def trainFail (s : State) (n : Nat) : State :=
  let s := setPState (stick s n 1) n .absent
  updLink s n fun l => { l with driving := false, step := 0, stepRounds := 0, stepRun := 0 }

/-- TRAINING_TIMEOUT (R169). -/
def execTrainingTimeout (n : PortId) (s : State) : Out := .next (if trainLate s n then trainFail s n else s)

/-- A hold other than the start-up hold covers the port, so that it enters HEM after training (R196). -/
def heldNoStart (s : State) (n : Nat) : Bool :=
  s.hem.held || (sleeve s (n / 8)).held || (ctl s n).tripped || (ctl s n).armHold || (ctl s n).lostHold
    || hasBit (link s n).sticky 0 || contactorHold s n || decide (s.boot.freezing ≠ 0)

/-! ### Firmware (R184 to R186, R417) -/

/-- MRAM address of an area of the far-end image store (R354, R417). -/
def areaAddr (k : Nat) : Nat := 0x01400000 + k * 262144

/-- The area that holds the image of a family. -/
def areaOf (s : State) (family : Nat) : Option Nat := (s.boot.areas.find? fun a => a.2.1 == family).map (·.1)

/-- FW_BLOCK messages of an image, in ascending OFFSET (R184). -/
def fwBlocks (img : List Byte) : Nat → Nat → List (List Byte)
  | 0, _ => []
  | k + 1, off =>
    let d := (img.drop off).take 1024
    (leBytes 4 off ++ wordBytes (crc32 d) ++ d) :: fwBlocks img k (off + 1024)

/-- Queues the image held for a port's family: FW_BEGIN, the blocks and FW_END (R184, R417). -/
def fwSend (s : State) (n : Nat) : State :=
  match areaOf s (link s n).fwFamily with
  | none => s
  | some k =>
    let a := areaAddr k
    let size := leNat (mread s.mram (a + 8) 4)
    let img := mread s.mram a size
    let ver := mread s.mram (a + 12) 4
    let s := sendMsg s n 5 0x20 (leBytes 4 size ++ wordBytes (crc32 img) ++ ver ++ mread s.mram (a + 16) 2 ++ [0, 0])
    let s := (fwBlocks img ((size + 1023) / 1024) 0).foldl (fun s b => sendMsg s n 5 0x21 b) s
    let s := sendMsg s n 5 0x22 []
    updLink s n fun l => { l with fwLoad := 1, fwImage := BitVec.ofNat 32 (leNat ver) }

/-- FW_POLICY wants a load of the discovered far end at start; firmware goes only to a port in the hem state (R184, R186). -/
def fwWanted (s : State) (n : Nat) : Bool :=
  let l := link s n
  !l.fwDone && !isLive l.state && l.fwLoad == 0 && (areaOf s l.fwFamily).isSome && !fwCurrent s n && l.caps.toNat.testBit 2

/-- What a unit with authority sends to a port that training has just completed, or at the tick at which it becomes SOLO
or ACTIVE: the words of R195 and a start-up load (R410). -/
def sendStart (s : State) (n : Nat) : State :=
  let s := sendPath s n
  if fwWanted s n then fwSend (updLink s n fun l => { l with fwStart := true }) n else s

/-- FW_FAIL, and LINK_LOST raised (R185). -/
def fwFailed (s : State) (n : Nat) : State :=
  raiseLinkLost (updLink (stick s n 9) n fun l => { l with fwLoad := 0, fwStart := false, fwDone := true }) n

/-- 100 ms from FW_ACTIVATE have passed without DISCOVERED (R185). -/
def fwLate (s : State) (n : Nat) : Bool := (link s n).fwLoad == 2 && decide (1 / 10 ≤ (link s n).fwTime)

/-- FW_RETRAIN_TIMEOUT (R185). -/
def execFwRetrainTimeout (n : PortId) (s : State) : Out := .next (if fwLate s n then fwFailed s n else s)

/-- CLASS_MISMATCH and UID_MISMATCH of a trained port (R15, R171). -/
def markMismatch (s : State) (n : Nat) : State :=
  let s := if classFits s n then s else stick s n 2
  if uidOk s n then s else stick s n 3

/-- Training is complete (R167, R171, R185, R195): mailbox and counters restart, and the port is DISCOVERED or in HEM. -/
def trainDone (s : State) (n : Nat) : State :=
  let l := link s n
  let s := setLink s n { l with
      step := 0, missed := 0, missedMax := 0, lost := false, again := false, lockoutClear := 0,
      sticky := setBitIf l.again l.sticky 10, mbx := mboxRestart l.mbx, cfgOk := false, cfgOut := false }
  let s := setPState s n (if heldNoStart s n then .hem else .discovered)
  let s := markMismatch s n
  let s :=
    if (link s n).fwLoad == 2 then
      if (link s n).fwVersion == (link s n).fwImage then
        updLink s n fun l => { l with fwLoad := 0, fwStart := false, fwDone := true }
      else fwFailed s n
    else s
  let s := if commands s then sendStart s n else s
  toReady s n

/-- TICK_ADVANCE from the delays of IDENT (R170). -/
def tickAdvanceOf (sum count : Nat) : Nat :=
  let x := (((sum : Rat) / (count : Nat) - 116) / 2 + 1 / 2).floor
  Nat.min x.toNat 20

/-- A valid uplink inside the window during training (R169, R170). -/
def trainFrame (s : State) (n : Nat) (f : UpFrame) : State :=
  let l := link s n
  let next (l : Link) (k : Nat) : Link := { l with step := k, stepRounds := 0, stepRun := 0 }
  match l.step with
  | 1 => setLink s n (next l 2)
  | 2 =>
    let ident := sliceB f.rt 0 20
    let run := if ident == l.identity then l.stepRun + 1 else 1
    let l := { l with
      identity := ident, stepRun := run, delaySum := l.delaySum + f.delayNs, delayCount := l.delayCount + 1 }
    if run < 4 then setLink s n l
    else
      let adv := tickAdvanceOf l.delaySum l.delayCount
      let coast := pcfg s n 0x21
      let cls : Byte := (ident[8]?).getD 0
      let caps : Byte := (ident[9]?).getD 0
      let mean := (l.delaySum * 2 + l.delayCount) / (2 * l.delayCount)
      setLink s n { (next l 3) with
        uid := BitVec.ofNat 64 (leAt ident 0 8), cls := cls, caps := caps,
        hwVersion := BitVec.ofNat 16 (leAt ident 0x0A 2), fwVersion := BitVec.ofNat 32 (leAt ident 0x0C 4),
        fwFamily := leAt ident 0x10 2, groupCount := leAt ident 0x13 1, loopDelay := mean, tickAdvance := adv,
        coastSent := coast }
  | 3 =>
    let ok := leAt f.rt 0x14 1 == n && leAt f.rt 0x16 2 == l.tickAdvance && leAt f.rt 0x18 2 == l.coastSent
    let run := if ok then l.stepRun + 1 else 0
    setLink s n (if run < 4 then { l with stepRun := run } else next l 4)
  | 4 =>
    let run := if hasBit f.header 21 then l.stepRun + 1 else 0
    if run < 32 then setLink s n { l with stepRun := run } else trainDone s n
  | _ => s

/-! ### A round without a valid uplink (R57, R58, R167) -/

/-- The port counts missing rounds: DISCOVERED or a later state (R167). -/
def counting (t : PState) : Bool := t != .absent && t != .training

/-- No valid frame in this round: `crc` tells a frame that arrived bad (R58, R167). The model's own choice: in IDENT and PARAM
it leaves the run of good answers as it stands, which are consecutive answers and not rounds; CHECK counts rounds (R169;
notes/assumptions/22.md). -/
def missRound (s : State) (n : Nat) (crc : Bool) : State :=
  let l := link s n
  let l := { l with taken := true, frameOk := false, crcErr := crc, noFrame := !crc }
  if counting l.state then
    let m := Nat.min (l.missed + 1) 8191
    setLink s n { l with
      missed := m, missedMax := Nat.max l.missedMax m, lockoutClear := l.lockoutClear,
      framesBad := if crc then l.framesBad + 1 else l.framesBad,
      framesMissing := if crc then l.framesMissing else l.framesMissing + 1,
      sticky := setBitIf crc (setBit l.sticky 5) 4 }
  else setLink s n (if l.step == 4 then { l with stepRun := 0 } else l)

/-- A port takes what its uplink window brings, once in a round. -/
def takesFrame (s : State) (n : Nat) : Bool := (link s n).driving && domainRuns s && !(link s n).taken

/-- NO_FRAME: the uplink window ends without a valid SOF; one outside the window sets DELAY_RANGE (R151). -/
def execNoFrame (n : PortId) (outsideWindow : Bool) (s : State) : Out :=
  .next (if takesFrame s n then missRound (if outsideWindow then stick s n 6 else s) n false else s)

/-- The missed-round count has reached 4 + COAST_ROUNDS. -/
def missedOut (l : Link) : Bool := counting l.state && decide (4 + l.coastSent ≤ l.missed)

/-- LINK_LOST is due (R167); after FW_ACTIVATE the port is trained again without it (R185). -/
def lostDue (s : State) (n : Nat) : Bool :=
  let l := link s n
  missedOut l && !l.lost && l.fwLoad != 2

/-- LINK_LOST (R167). -/
def execLinkLost (n : PortId) (s : State) : Out := .next (if lostDue s n then raiseLinkLost s n else s)

/-! ### A valid uplink in RUN (R154 to R158, R175, R196, R203, R210) -/

/-- The temperatures of an uplink (R159, R289). -/
def takeTemps (s : State) (n : Nat) (rt : List Byte) : State :=
  let info := leAt rt 0x22 1
  let g := info % 16
  if (link s n).groupCount ≤ g then s
  else
    let vals := (List.range (info / 64)).map fun k => BitVec.ofNat 16 (leAt rt (0x1C + 2 * k) 2)
    updCtl s n fun c => { c with temps := tput c.temps g vals, ages := tset 0 c.ages g 0 }

/-- Port state effects of LOCKOUT and OV_LATCH in a valid uplink (R196, R203, R210). -/
def takeLockout (s : State) (n : Nat) (lock ov : Bool) : State :=
  let l := link s n
  let s := setLink s n { l with
      sticky := setBitIf ov (setBitIf (lock || ov) l.sticky 17) 21,
      lockoutClear := if lock then 0 else l.lockoutClear + 1 }
  let s := if (lock || ov) && (canHem l.state || l.state == .hem) then setPState s n .lockout else s
  let p := partner n
  if ov && clsOf s p == 4 && stockPort s p && !(ctl s p).tripped then tripPort s p 3 else s

/-- Queues of the uplink that HUSHED discards (R349). -/
def hushDrops (s : State) (q : Nat) : Bool := s.net.hushed && decide (6 ≤ q)

/-- FW_ACTIVATE has been acknowledged, or the far end has restarted and answers no more: the port is trained again (R185). -/
def activated (s : State) (n : Nat) : State :=
  let l := link s n
  if l.fwLoad == 2 && counting l.state && ((queueBytes l.mbx 5 == 0 && !waiting l.mbx 5) || missedOut l) then
    startTraining s n
  else s

/-- The far end of a port obeys this unit, by the OBEYS it reports: one with two links names the unit, one with one link has
the link of unit 0 (R154, R164). -/
def obeysUs (s : State) (n obeys : Nat) : Bool :=
  obeys == (if (link s n).caps.toNat.testBit 0 then s.pair.unit % 2 + 1 else 1)

/-- The controller's mailbox side after an uplink: its sequence state restarts when the far end has changed the link that it
obeys, and only a far end that obeys this unit exchanges segments with it (R164, R175; DEDUCED,
notes/assumptions/9.md). -/
def takeMbx (s : State) (n old obeys : Nat) (x : Mailbox) : MboxSide :=
  let m := if old == obeys then (link s n).mbx else mboxRestart (link s n).mbx
  if obeysUs s n obeys then recvMbox false (hushDrops s) m x s.wheel.round else m

/-- What a valid uplink of a port beyond training brings; `old` is the OBEYS of the valid uplink before it. -/
def runFrame (s : State) (n : Nat) (f : UpFrame) (old : Nat) : State :=
  let l := link s n
  let status := BitVec.ofNat 32 (leAt f.rt 0 4)
  let ackId : Byte := (f.rt[0x24]?).getD 0
  let ackCode : Byte := (f.rt[0x25]?).getD 0
  let s := setLink s n { l with
      feStatus := status, ackId := ackId, ackCode := ackCode,
      sticky := setBitIf (hasBit status 0) l.sticky 16,
      mbx := takeMbx s n old l.obeys f.mbx }
  let codes := (List.range 12).map fun k => BitVec.ofNat 16 (leAt f.rt (4 + 2 * k) 2)
  let s := takeTemps (updCtl s n fun c => { c with samples := codes }) n f.rt
  let s := takeLockout s n (hasBit f.header 20) (clsOf s n == 5 && hasBit status 1)
  let s := if clsOf s n == 4 then presenceNow s n else s
  let s := armAck s n ackId ackCode.toNat
  activated (tryUnlock s n) n

/-- UPLINK_FRAME (R57, R151, R155, R167, R170). -/
def execUplinkFrame (n : PortId) (f : UpFrame) (s : State) : Out :=
  .next (if !takesFrame s n then s
  else if f.delayNs < 108 ∨ 164 < f.delayNs then missRound (stick s n 6) n false
  else if !upGood s.wheel.w f then missRound s n true
  else
    let l := link s n
    let seqBad := decide (f.header.toNat / 2 ^ 22 % 64 ≠ s.wheel.round.toNat % 64)
    let obeys := f.header.toNat / 2 ^ 30
    let s := setLink s n { l with
        taken := true, frameOk := true, crcErr := false, noFrame := false, missed := 0, upHeader := f.header,
        upRt := sliceB f.rt 0 40, obeys := obeys, framesOk := l.framesOk + 1,
        sticky := setBitIf seqBad l.sticky 7 }
    if l.state == .training then trainFrame s n f else runFrame s n f l.obeys)

/-! ### The controller's mailbox (R174 to R178) -/

/-- A resend of a port is due: the uplink of the round has been taken, and the oldest segment is without acknowledgement in
the 8th round since its sending (R175). -/
def mboxLate (s : State) (n : Nat) : Bool := commands s && (link s n).taken && resendDue 7 (link s n).mbx

/-- Resends from the oldest segment on (R175). -/
def mboxRedo (s : State) (n : Nat) : State := updLink s n fun l => { l with mbx := redoFirst l.mbx }

/-- MAILBOX_RESEND (R175). -/
def execMailboxResend (n : PortId) (s : State) : Out := .next (if mboxLate s n then mboxRedo s n else s)

/-- The segment that a unit with authority sends. While the Collar restarts no new message starts (R412). -/
def nextSeg (restarting : Bool) (pay : Nat) (m : MboxSide) : MboxSide × Option Seg :=
  if restarting then
    let r := sendSeg true pay { m with out := [] }
    ({ r.1 with out := m.out }, r.2)
  else sendSeg true pay m

/-- The mailbox of the frame that starts at this tick (R174 to R178). The Collar retries what it holds for room. A unit
without authority sends no segment (R164, R410), and training frames carry none. -/
def mboxTick (s : State) (n : Nat) : State :=
  let l := link s n
  let pay := segPayload s.wheel.w
  if !l.driving then s
  else if l.state == .training then setLink s n { l with dlMbx := noMailbox }
  else if !commands s then
    let m := setHold pay l.mbx
    setLink s n { l with mbx := m, dlMbx := mailboxOf m none }
  else
    let m := if s.boot.restarting then l.mbx else retryMsgs (poolBytes s - sideBytes l.mbx) l.mbx
    let m := ageAndRedo m
    let again := decide (m.redo < m.sent.length)
    let (m, g) := nextSeg s.boot.restarting pay m
    let stall := match g with
      | some g => decide (64 ≤ g.resent)
      | none => false
    let m := setHold pay m
    setLink s n { l with
      mbx := m, dlMbx := mailboxOf m g, mbxResent := if again then l.mbxResent + 1 else l.mbxResent,
      sticky := setBitIf stall l.sticky 8 }

/-! ### The link at a tick -/

/-- What a port's link left undone in the round that ends (notes/assumptions/6.md). -/
def linkCatchUp (s : State) (n : Nat) : State :=
  let s := if takesFrame s n then missRound s n false else s
  let s := if lostDue s n then raiseLinkLost s n else s
  let s := if mboxLate s n then mboxRedo s n else s
  let s := if trainLate s n then trainFail s n else s
  let s := if fwLate s n then fwFailed s n else activated s n
  let s := if counting (link s n).state then toReady (markMismatch s n) n else s
  updLink s n fun l => { l with
    stepRounds := if l.state == .training then l.stepRounds + 1 else l.stepRounds,
    fwTime := if l.fwLoad == 2 then l.fwTime + s.wheel.tRound else 0 }

/-- A new round for the links: nothing has arrived yet. -/
def linkNew (s : State) : State :=
  { s with links := s.links.map fun x =>
      (x.1, { x.2 with taken := false, frameOk := false, crcErr := false, noFrame := false }) }

/-- ENABLE has become 0: the port drives nothing and stays ABSENT (R187). -/
def disablePort (s : State) (n : Nat) : State :=
  let s := setPState s n .absent
  updLink s n fun l => { l with
    driving := false, step := 0, missed := 0, lost := false, hdr := 0, dlRt := [], dlMbx := noMailbox }

end Sys2Proof.Machine
end

