-- ==== Sys2Proof/Machine/FarEnd.lean ====
section
/-! DEFINITION. The far ends (R160 to R184, R202, R209, R450, R451): frames on their links, local ticks, COAST, latches,
configuration, streams, tunnel requests and firmware, and the messages that the controller receives from them. -/
namespace Sys2Proof.Machine

/-! ### Per-link fields -/

/-- A link of the far end is in LISTEN. -/
def feListen (f : FarEnd) (u : Bool) : Bool := if u then f.listen1 else f.listen0
/-- Sets LISTEN of a link. -/
def feSetListen (f : FarEnd) (u b : Bool) : FarEnd := if u then { f with listen1 := b } else { f with listen0 := b }
/-- STEP of the last valid TRAIN frame on a link. -/
def feStep (f : FarEnd) (u : Bool) : Nat := if u then f.step1 else f.step0
/-- Consecutive valid TRAIN frames on a link. -/
def feTrains (f : FarEnd) (u : Bool) : Nat := if u then f.trains1 else f.trains0
/-- Records the last STEP and the run of TRAIN frames of a link. -/
def feSetTrain (f : FarEnd) (u : Bool) (step run : Nat) : FarEnd :=
  if u then { f with step1 := step, trains1 := run } else { f with step0 := step, trains0 := run }
/-- The link of unit u is the one obeyed. -/
def feObeys (f : FarEnd) (u : Bool) : Bool := f.obeys == (if u then 2 else 1)
/-- The obeyed link delivered a valid frame with AUTH = 1 in this round. -/
def feAuth (f : FarEnd) : Bool := (f.obeys == 1 && f.auth0) || (f.obeys == 2 && f.auth1)
/-- The obeyed link is in LISTEN. -/
def feObeyListen (f : FarEnd) : Bool := (f.obeys == 1 && f.listen0) || (f.obeys == 2 && f.listen1)

/-- LOCKOUT of the uplink header: a latched protection holds the stage off (R154, R202, R209). -/
def feLockout (f : FarEnd) : Bool := f.fastLatched || f.ovLatched

/-- The far end enters the hem state (R162, R163). -/
def feHem (f : FarEnd) : FarEnd :=
  { f with inHem := true, clearRun := 0, throttle := true, pfw := true, spare := 0 }

/-- Payload bytes of a segment by the W_CODE of a frame. -/
def payOf (c : BitVec 2) : Nat := segPayload (codeW c)

/-- Marks that a valid frame, and one with AUTH = 1, has arrived on a link in this round. -/
def feMark (f : FarEnd) (u auth : Bool) : FarEnd :=
  if u then { f with valid1 := true, auth1 := f.auth1 || auth } else { f with valid0 := true, auth0 := f.auth0 || auth }

/-- A frame on a link gives the far end SEQ and DL_OK: that of the link it obeys; while it obeys none, that of the link it
takes its local tick from, the lowest that delivers valid frames (R154, R160; notes/assumptions/22.md). -/
def feTimes (f : FarEnd) (u : Bool) : Bool := feObeys f u || (f.obeys == 0 && (!u || !f.valid0))

/-- Takes SEQ from a valid frame (R154). -/
def feSeq (f : FarEnd) (u : Bool) (d : DownFrame) : FarEnd := if feTimes f u then { f with seq := d.seq, dlOk := true } else f

/-! ### Configuration words (R179, R194, R450) -/

/-- FE_STATE (R450). -/
def feState (f : FarEnd) (dual : Bool) : Word :=
  BitVec.ofNat 32 (b2n f.staged.isSome * 256 + f.obeys * 64 + b2n (f.listen1 && dual) * 32 + b2n f.listen0 * 16
    + b2n f.ovLatched * 8 + b2n (feLockout f) * 4 + b2n f.inCoast * 2 + b2n f.inHem)

/-- FAST_LIMIT in effect at a far end. -/
def feFast (n : Nat) (f : FarEnd) : Word := f.fastLimit.getD (Config.fastLimitOf n)

/-- The value of a configuration word; none where the address is not defined for the class (R179, R194). -/
def feWord (n cls : Nat) (dual : Bool) (f : FarEnd) (a : Nat) : Option Word :=
  match a with
  | 0 => some (feState f dual)
  | 1 => some (BitVec.ofNat 32 f.coastRounds)
  | 2 => some (BitVec.ofNat 32 f.tickAdvance)
  | 0x100 => some (feFast n f)
  | 0x101 => some (BitVec.ofNat 32 f.fastMode)
  | 0x102 => if cls = 5 then some f.ovLevel else none
  | 0x103 => if cls = 5 then some f.ovRelease else none
  | _ => none

/-- A finite FP32 number within bounds. -/
def f32In (w : Word) (lo hi : Rat) : Bool :=
  !f32IsNaN w && !f32IsInf w && decide (lo ≤ f32Val w) && decide (f32Val w ≤ hi)

/-- Status of one word of a CFG_WRITE (R179): 0 OK, 1 BAD_ADDR, 2 RANGE, 3 READ_ONLY. The ranges are those of the objects
that the words come from. -/
def feCheck (cls a : Nat) (w : Word) : Nat :=
  match a with
  | 0 => 3
  | 1 => if w.toNat ≤ 4096 then 0 else 2
  | 2 => if w.toNat ≤ 20 then 0 else 2
  | 0x100 => if f32In w 0 2000 then 0 else 2
  | 0x101 => if w.toNat ≤ 1 then 0 else 2
  | 0x102 => if cls ≠ 5 then 1 else if f32In w 1 100 then 0 else 2
  | 0x103 => if cls ≠ 5 then 1 else if f32In w 0 100 then 0 else 2
  | _ => 1

/-- Writes one word. -/
def feSetWord (f : FarEnd) (a : Nat) (w : Word) : FarEnd :=
  match a with
  | 1 => { f with coastRounds := w.toNat }
  | 2 => { f with tickAdvance := w.toNat }
  | 0x100 => { f with fastLimit := some w }
  | 0x101 => { f with fastMode := w.toNat }
  | 0x102 => { f with ovLevel := w }
  | 0x103 => { f with ovRelease := w }
  | _ => f

/-- A configuration write, whole or not at all: the far end after it and the status (R179, R194). -/
def feWrite (cls : Nat) (f : FarEnd) (addr : Nat) (words : List Word) : FarEnd × Nat :=
  match (words.zipIdx.map fun x => feCheck cls (addr + x.2) x.1).find? fun st => st != 0 with
  | some st => (f, st)
  | none =>
    let g := words.zipIdx.foldl (fun g x => feSetWord g (addr + x.2) x.1) f
    if cls = 5 ∧ f32Val g.ovLevel ≤ f32Val g.ovRelease then (f, 2) else (g, 0)

/-! ### Uplinks (R154, R156, R166) -/

/-- Two links (CAPS bit 0, R172). -/
def feDual (s : State) (n : Nat) : Bool := (link s n).caps.toNat.testBit 0

/-- The uplink header (R154). -/
def feHeader (f : FarEnd) (cls : Byte) : Word :=
  BitVec.ofNat 32 (f.obeys * 2 ^ 30 + b2n f.inHem * 2 ^ 29 + b2n f.inCoast * 2 ^ 28 + f.seq.toNat * 2 ^ 22
    + b2n f.dlOk * 2 ^ 21 + b2n (feLockout f) * 2 ^ 20 + b2n f.staged.isSome * 2 ^ 19 + cls.toNat * 256)

/-- RT of a RUN uplink (R156, R159). -/
def feRt (f : FarEnd) : List Byte :=
  let t (k : Nat) : List Byte := leBytes 2 ((f.temps[k]?).getD 0).toNat
  wordBytes f.status ++ (f.samples.map fun c => leBytes 2 c.toNat).flatten ++ t 0 ++ t 1 ++ t 2
    ++ leBytes 1 (Nat.min f.temps.length 3 * 64 + b2n f.fresh * 32 + b2n f.near * 16 + f.group % 16) ++ [0]
    ++ [f.ackId, f.ackCode, 0, 0]

/-- RT of a training uplink: the identity of the far end and what it has received (R169, R172). -/
def feTrainRt (n : Nat) (f : FarEnd) : List Byte :=
  let id := Config.feIdentity n
  let step := leAt f.echo 1 1
  sliceB id 0 12 ++ wordBytes f.fwVersion ++ leBytes 2 f.fwFamily ++ sliceB id 0x12 2
    ++ (if 3 ≤ step then sliceB f.echo 0 1 else [0]) ++ sliceB f.echo 1 5 ++ List.replicate 14 0

/-- The far end answers a link in this round, whether or not the frame passed its CRC: TRAIN frames in LISTEN from the 8th
valid one in a row on, RUN frames elsewhere (R166, R169, R173). -/
def feAnswers (f : FarEnd) (u : Bool) (d : DownFrame) : Bool :=
  d.eof && (if feListen f u then d.train && (decide (2 ≤ feStep f u) || decide (8 ≤ feTrains f u)) else !d.train)

/-- The mailbox side after this round's segment, and the mailbox of the uplink (R166, R174, R175). -/
def feMail (pay : Nat) (m : MboxSide) : MboxSide × Mailbox :=
  let r := sendSeg false pay (setHold pay (if resendDue 8 m then redoFirst m else m))
  (r.1, mailboxOf r.1 r.2)

/-- Sends the uplink. A segment goes with it on the obeyed link; the other link carries the same content, and while no link
is obeyed the mailbox carries none (R154, R166). -/
def feSend (n : Nat) (f : FarEnd) (cls : Byte) (u : Bool) (d : DownFrame) : FarEnd :=
  if !feAnswers f u d then f
  else
    let f := { f with upHdr := feHeader f cls, upRt := if d.train then feTrainRt n f else feRt f }
    if d.train then { f with upMbx := noMailbox }
    else if feObeys f u then
      let r := feMail (payOf d.wCode) f.mbx
      { f with mbx := r.1, upMbx := r.2 }
    else if f.obeys = 0 then { f with upMbx := mailboxOf f.mbx none }
    else f

/-- The uplink frame that the far end of a port sent last, from its header to its CRC (R147, R156). -/
def sentUp (s : State) (n : Nat) : List Byte :=
  let f := farEnd s n
  let b := upBytes (mboxBytes s.wheel.w) f.upHdr f.upRt f.upMbx
  b ++ wordBytes (crc32 b)

/-- The code groups of that frame from its preamble to its EOF: a burst that starts with negative running disparity (R145,
R148). -/
def sentUpLine (s : State) (n : Nat) : List (BitVec 10) := burst false 8 (sentUp s n)

/-! ### DOWNLINK_FRAME (R160 to R166, R173, R180) -/

/-- A valid TRAIN frame (R169, R173): the link enters LISTEN; parameters are taken from PARAM on. -/
def feTrain (f : FarEnd) (u : Bool) (d : DownFrame) : FarEnd :=
  let step := leAt d.rt 1 1
  let f := feSetTrain (feSetListen f u true) u step (feTrains f u + 1)
  let f := if 3 ≤ step then { f with newAdvance := leAt d.rt 2 2, newCoast := leAt d.rt 4 2 } else f
  let f := { f with echo := sliceB d.rt 0 6 }
  if !feObeys f u then f
  else if d.auth then feHem { f with inCoast := false, coastTicks := 0, missRun := 0 }
  else feHem f

/-- The arm state of a frame of the obeyed link (R136, R138, R180). The first COMMIT frame on time is that of the round
before a seam, whose SEQ is 63. -/
def feArm (f : FarEnd) (d : DownFrame) : FarEnd :=
  match f.staged with
  | none => f
  | some (ident, _, _) =>
    let drop := { f with staged := none, armedSeen := false, commitSeen := false, commitNext := false }
    if d.armState.toNat = 3 then drop
    else if d.armState.toNat = 1 then (if d.armId = ident then { f with armedSeen := true } else drop)
    else if d.armState.toNat = 2 then
      (if d.armId = ident && !f.commitSeen then
        { f with commitSeen := true, commitNext := true, commitLate := decide (d.seq.toNat ≠ 63) }
      else f)
    else if f.armedSeen && !f.commitSeen then drop
    else f

/-- A valid RUN frame on a link that is not, or no longer, in LISTEN (R162, R164, R165). -/
def feRun (f : FarEnd) (u : Bool) (d : DownFrame) (round : Word) : FarEnd :=
  let f := if d.auth then (if u then { f with cmd1 := some (sliceB d.rt 0 24) } else { f with cmd0 := some (sliceB d.rt 0 24) })
    else f
  if !feObeys f u then f
  else if !d.auth then
    (if d.hem then feHem f else { f with clearRun := 0 })
  else
    let f := if d.hem then feHem f else { f with clearRun := f.clearRun + 1 }
    let f := { f with fastTherm := d.fastTherm, inCoast := false, coastTicks := 0, missRun := 0 }
    let f := feArm f d
    { f with mbx := recvMbox true (fun _ => false) f.mbx d.mbx round }

/-- The run of valid TRAIN frames breaks, unless the far end answers on the link already (R169). -/
def feBreak (f : FarEnd) (u : Bool) : FarEnd :=
  if 8 ≤ feTrains f u then f else feSetTrain f u (feStep f u) 0

/-- The first valid RUN frame after CHECK: the link leaves LISTEN, the parameters of training are adopted and the mailbox
of the obeyed link restarts (R169, R173, R175). -/
def feTrained (f : FarEnd) (u : Bool) : FarEnd :=
  let f := feSetTrain (feSetListen f u false) u 0 0
  let f := { f with coastRounds := f.newCoast, tickAdvance := f.newAdvance }
  if feObeys f u then { f with mbx := mboxRestart f.mbx } else f

/-- A valid frame on a link. -/
def feValid (f : FarEnd) (u : Bool) (d : DownFrame) (round : Word) : FarEnd :=
  let f := feMark (feSeq f u d) u d.auth
  if d.train then feTrain f u d
  else if !feListen f u then feRun f u d round
  else if feStep f u == 4 then feRun (feTrained f u) u d round
  else feBreak f u

/-- DOWNLINK_FRAME on the link of unit 0 or 1. -/
def execDownlinkFrame (n : PortId) (unit : Bool) (d : DownFrame) (s : State) : Out :=
  .next (let f := farEnd s n
  let g := if downGood unit d then feValid f unit d s.wheel.round else feBreak f unit
  setFarEnd s n (feSend n g (link s n).cls unit d))

/-! ### FE_LOCAL_TICK (R159 to R165) -/

/-- The link obeyed from the end of a round on (R164). -/
def feNextObeys (f : FarEnd) : Nat :=
  match f.obeys with
  | 0 => if f.auth0 then 1 else if f.auth1 then 2 else 0
  | 1 => if !f.auth0 && f.auth1 then 2 else 1
  | _ => if !f.auth1 && f.auth0 then 1 else 2

/-- Enters COAST; with COAST_ROUNDS 0 the hem state at once (R165). -/
def feCoast (f : FarEnd) (ticks : Nat) : FarEnd :=
  { f with inCoast := true, coastTicks := ticks, status := setBit f.status 4 }

/-- COAST expires: the hem state, and LISTEN for the link that was obeyed (R165, R173). -/
def feExpire (f : FarEnd) : FarEnd :=
  let f := if f.obeys = 0 then f else feSetListen (feSetTrain f (f.obeys == 2) 0 0) (f.obeys == 2) true
  { (feHem f) with inCoast := false, coastTicks := 0, missRun := 0, obeys := 0 }

/-- Starts to obey a link: the mailbox restarts, and while that link is in LISTEN the far end is in the hem state (R164,
R173, R175). -/
def feObey (f : FarEnd) (o : Nat) : FarEnd :=
  let f := { f with obeys := o, mbx := mboxRestart f.mbx, clearRun := 0, missRun := 0, inCoast := false, coastTicks := 0 }
  if feObeyListen f then feHem f else f

/-- End of a round: obedience, conflict, missing frames, which break the runs of R162 and R169 (R164, R165). -/
def feRoundEnd (f : FarEnd) : FarEnd :=
  let both := f.auth0 && f.auth1
  let run := if both then f.conflictRun + 1 else 0
  let miss := if f.obeys = 0 ∨ feAuth f = true then 0 else f.missRun + 1
  let o := feNextObeys f
  let f := if f.valid0 then f else feBreak f false
  let f := if f.valid1 then f else feBreak f true
  let f := { f with
    conflictRun := run, status := setBitIf (decide (3 < run)) f.status 6, missRun := miss,
    clearRun := if feAuth f then f.clearRun else 0, mbx := ageSegs f.mbx,
    coastTicks := if f.inCoast then f.coastTicks + 1 else f.coastTicks }
  let f := if o = f.obeys then f else feObey f o
  let f := if decide (4 ≤ f.missRun) && !f.inCoast then feCoast f 1 else f
  if f.inCoast && decide (f.coastRounds ≤ f.coastTicks) then feExpire f else f

/-- A staged change applies at the tick after its first COMMIT frame (R138, R180). -/
def feApply (cls : Nat) (f : FarEnd) : FarEnd :=
  match f.staged with
  | some (ident, a, ws) =>
    if f.commitNext then
      let (g, st) := feWrite cls f a ws
      { g with
        staged := none, armedSeen := false, commitNext := false, commitSeen := false, ackId := ident,
        ackCode := if st ≠ 0 then 5 else if f.commitLate then 4 else 3 }
    else f
  | none => f

/-- The group of a list that was sent longest ago, the lowest of several. -/
def oldestGroup (ages : Tab Nat) : List Nat → Option Nat
  | [] => none
  | g :: t => match oldestGroup ages t with
    | some h => if tget 0 ages g < tget 0 ages h then some h else some g
    | none => some g

/-- The temperature group that a round sends (R159): one near its limit; else one that has waited 48 rounds, so that each of 16
is sent within 64; else, when FAST_THERM asks for one, the oldest; else the one that the measurement lists first. -/
def pickGroup (f : FarEnd) (groups : Nat) (m : FeMeas) : Option Nat :=
  let all := List.range groups
  let due := all.filter fun g => decide (48 ≤ tget 0 f.groupAge g)
  let asked := if f.fastTherm then oldestGroup f.groupAge all else none
  (((oldestGroup f.groupAge m.near).orElse fun _ => oldestGroup f.groupAge due).orElse fun _ => asked).orElse fun _ =>
    m.temps.head?.map (·.1)

/-- The temperatures of a round (R159): the values of the group sent, with FRESH, or those sent before. -/
def feTemps (f : FarEnd) (groups : Nat) (m : FeMeas) : FarEnd :=
  let ages := (List.range groups).foldl (fun t g => tset 0 t g (tget 0 t g + 1)) f.groupAge
  match pickGroup f groups m with
  | none => { f with fresh := false, near := false, groupAge := ages }
  | some g => { f with
      group := g, temps := ((m.temps.find? fun x => x.1 == g).map (·.2)).getD [], fresh := true, near := !m.near.isEmpty,
      groupAge := tdel ages g }

/-- Sample slots that a class uses, from SAMPLE0 on (R192). -/
def usedSamples (cls : Nat) : Nat := if cls = 1 then 7 else if 2 ≤ cls ∧ cls ≤ 6 then 4 else 0

/-- SAMPLE0 to SAMPLE11 of a round: an unused slot carries 0x0000 (R157, R192). A class without a table entry uses what it
likes. -/
def feSamples (cls : Nat) (l : List Sample) : List (BitVec 16) :=
  (List.range 12).map fun i =>
    if (cls = 0 ∨ 6 < cls) ∨ i < usedSamples cls then (l[i]?).elim 0 sampleCode else 0

/-- STATUS bits whose causes a far end of a class reports from its own stage: LOCAL_SUPPLY, OVERTEMP and the class bits that
its class defines (R158, R193). -/
def causeMask (cls : Nat) : Word :=
  let w : Word := 0x0C
  let w := setBitIf (decide (1 ≤ cls ∧ cls ≤ 6)) w 8
  setBitIf (cls == 1 || cls == 3 || cls == 4) w 9

/-! ### What the stage does (R12, R161, R163, R191, R202, R209) -/

/-- A field of the command in force. -/
def cmdField (f : FarEnd) (off bytes : Nat) : Nat := leAt f.cmd off bytes

/-- Every gate is off: in the hem state, after the fast limit until the next local tick or under its latch, and under the
over-voltage latch, but for low-side switches; SHED turns the gates of a rectifier off (R163, R190, R202, R209). -/
def feGatesOff (f : FarEnd) (cls : Nat) : Bool :=
  f.inHem || f.cut || f.fastLatched || f.ovLatched || ((cls == 1 || cls == 2) && (cmdField f 0x10 2).testBit 8)

/-- The edges of a round, in s after the local tick; none where an edge is not generated (R161). -/
def feEdges (f : FarEnd) (cls : Nat) : List (Option Rat) :=
  (List.range 4).map fun k =>
    if feGatesOff f cls || !(cmdField f 0x10 2).testBit (k + 1) then none
    else some (((cmdField f (2 * k) 2 : Nat) : Rat) * f.period / 65536)

/-- The low-side switches of a TRAY_IBC: on under the over-voltage latch, which holds in the hem state too; else switched
while LS_EN and no other cause holds the gates off (R163, R190, R209). -/
def feLowSide (f : FarEnd) : Bool := f.ovLatched || (!feGatesOff f 5 && (cmdField f 0x10 2).testBit 8)

/-- The series switch of a BUS_TAP or the pack contactor of a BATT_CONV is closed (R163, R190, R202, R213). -/
def feSwitch (f : FarEnd) (cls : Nat) : Bool :=
  !feGatesOff f cls && ((cls == 4 && (cmdField f 0x10 2).testBit 0) || (cls == 3 && (cmdField f 0x10 2).testBit 9))

/-- The current at which pulses end in COAST: ILIMIT of the last valid frame; none outside COAST (R12, R191). -/
def feCoastLimit (f : FarEnd) : Option Word := if f.inCoast then some (BitVec.ofNat 32 (cmdField f 0x0C 4)) else none

/-- A stage current of the round has exceeded the limit of COAST, and its pulse was ended (R191). -/
def feOverCoast (f : FarEnd) (peak : Rat) : Bool := (feCoastLimit f).any fun w => decide (f32Val w < peak)

/-- Applies the command of the last frame (R161). -/
def feCommand (f : FarEnd) : FarEnd :=
  let c := if f.obeys = 1 then f.cmd0 else if f.obeys = 2 then f.cmd1 else none
  match (if f.inHem then none else c) with
  | some c =>
    let sb := leAt c 0x12 1
    { f with cmd := c, throttle := sb.testBit 0, pfw := sb.testBit 1, spare := BitVec.ofNat 8 (sb / 4) }
  | none => f

/-- A stream whose message is due: the one before it, if it has not started, is dropped and counted in DROPPED of the new
one (R181). -/
def feTelem (n draw q : Nat) (x : Stream) (f : FarEnd) : FarEnd :=
  let late := f.mbx.out.any fun e => e.1 == q
  let lost := if late then x.dropped + 1 else 0
  let body := leBytes 2 (Nat.min lost 65535) ++ (Config.telemData n x.source (16 * draw + q)).take 1030
  { f with
    mbx := enqueue { f.mbx with out := f.mbx.out.filter fun e => e.1 != q } q (message 0xB0 0 body),
    streams := tput f.streams q { x with wait := 0, dropped := lost } }

/-- A round of one telemetry stream (R181). -/
def feStream (n draw : Nat) (f : FarEnd) (q : Nat) : FarEnd :=
  match tfind f.streams q with
  | none => f
  | some x =>
    if !x.enable then f
    else if x.decimate ≤ x.wait + 1 then feTelem n draw q x f
    else { f with streams := tput f.streams q { x with wait := x.wait + 1 } }

/-- The telemetry streams of a round (R181). -/
def feStreams (n draw : Nat) (f : FarEnd) : FarEnd := (f.streams.map (·.1)).foldl (feStream n draw) f

/-- FE_LOCAL_TICK. The data of telemetry is a free value, drawn once for the tick. -/
def execFeLocalTick (n : PortId) (m : FeMeas) (s : State) : Out :=
  .next (let cls := (link s n).cls.toNat
  let old := farEnd s n
  let f := feRoundEnd old
  let f := if f.inHem && decide (4 ≤ f.clearRun) && f.obeys != 0 && !feObeyListen f then { f with inHem := false } else f
  let f := feStreams n s.draws (feApply cls (feCommand f))
  let f := feTemps { f with samples := feSamples cls m.samples } (link s n).groupCount m
  setFarEnd { s with draws := s.draws + 1 } n { f with
    status := f.status ||| (m.causes &&& causeMask cls), cut := false, pulseEnded := feOverCoast old m.peak, period := m.interval,
    auth0 := false, auth1 := false, valid0 := false, valid1 := false, cmd0 := none, cmd1 := none, dlOk := false,
    seq := f.seq + 1 })

/-- COAST: the fourth missing frame in a row (R165). -/
def execCoast (n : PortId) (s : State) : Out :=
  .next (let f := farEnd s n
  if f.obeys != 0 && !f.inCoast && !feAuth f && decide (3 ≤ f.missRun) then
    let f := feCoast f 0
    setFarEnd s n (if f.coastRounds = 0 then feExpire f else f)
  else s)

/-- COAST_EXPIRY (R165). -/
def execCoastExpiry (n : PortId) (s : State) : Out :=
  .next (let f := farEnd s n
  if f.inCoast && decide (f.coastRounds ≤ f.coastTicks) then setFarEnd s n (feExpire f) else s)

/-! ### Latches and restart (R173, R202, R209, R451) -/

/-- FAST_TRIP: conduction ends; under PULSE the commanded edges resume at the next local tick, under LATCH the gates stay
off (R202). -/
def execFastTrip (n : PortId) (s : State) : Out :=
  .next (updFe s n fun f => { f with
    status := setBit f.status 0, cut := true, fastLatched := f.fastLatched || f.fastMode == 1 })

/-- OV_LATCH of a TRAY_IBC (R209). -/
def execOvLatch (n : PortId) (s : State) : Out :=
  .next (if (link s n).cls == 5 then
    updFe s n fun f => { f with status := setBit f.status 1, ovLatched := true }
  else s)

/-- A far end after a restart (R173, R209, R451): default configuration, every link in LISTEN, RESTARTED set, the
over-voltage latch kept. -/
def feFresh (f : FarEnd) : FarEnd :=
  { status := setBit f.status 5, ovLatched := f.ovLatched, fwVersion := f.fwVersion, fwFamily := f.fwFamily,
    fwKept := f.fwKept }

/-- FE_RESTART. -/
def execFeRestart (n : PortId) (s : State) : Out := .next (updFe s n feFresh)

/-! ### Messages that a far end serves (R178 to R184) -/

/-- TAG of the first message received on a queue. -/
def inTag (m : MboxSide) (q : Nat) : Nat :=
  match m.inbox.find? fun e => e.1 == q with
  | some e => leAt e.2.1 1 1
  | none => 0

/-- Answers the first message of queue `q` on queue `r`, which it takes off. -/
def feReply (f : FarEnd) (q r ty : Nat) (body : List Byte) : FarEnd :=
  let t := inTag f.mbx q
  { f with mbx := enqueue (dropInbox q f.mbx) r (message ty t body) }

/-- CFG_WRITE (R179). -/
def execCfgWrite (n : PortId) (addr : Nat) (words : List Word) (s : State) : Out :=
  .next (updFe s n fun f =>
    let (g, st) := feWrite (link s n).cls.toNat f addr words
    feReply g 0 1 0x81 (leBytes 4 st))

/-- CFG_READ (R179). -/
def execCfgRead (n : PortId) (addr count : Nat) (s : State) : Out :=
  .next (updFe s n fun f =>
    let ws := (List.range count).map fun k => feWord n (link s n).cls.toNat (feDual s n) f (addr + k)
    if ws.all (·.isSome) then feReply f 0 1 0x81 (leBytes 4 0 ++ (ws.map fun w => wordBytes (w.getD 0)).flatten)
    else feReply f 0 1 0x81 (leBytes 4 1))

/-- CFG_STAGE: held and acknowledged READY, or REFUSED where it could not be applied (R136, R180). -/
def execCfgStage (n : PortId) (armId : Byte) (addr : Nat) (words : List Word) (s : State) : Out :=
  .next (updFe s n fun f =>
    let (_, st) := feWrite (link s n).cls.toNat f addr words
    let f := { f with
      mbx := dropInbox 0 f.mbx, armedSeen := false, commitSeen := false, commitNext := false, ackId := armId }
    if st = 0 then { f with staged := some (armId, addr, words), ackCode := 1 }
    else { f with staged := none, ackCode := 2 })

/-- CLEAR_STATUS: named bits clear unless their cause is still present; a latch is released only then (R158, R202,
R211). -/
def execClearStatus (n : PortId) (mask causes : Word) (s : State) : Out :=
  .next (updFe s n fun f =>
    let gone := clearBits mask causes
    { f with
      mbx := dropInbox 0 f.mbx, status := clearBits f.status gone, fastLatched := f.fastLatched && !hasBit gone 0,
      ovLatched := f.ovLatched && !hasBit gone 1 })

/-- TELEM_SET (R181). -/
def execTelemSet (n : PortId) (stream : Nat) (enable : Bool) (decimate : Nat) (source : Word) (s : State) : Out :=
  .next (updFe s n fun f =>
    let f := { f with mbx := dropInbox 0 f.mbx }
    if stream < 6 ∨ 13 < stream then f
    else { f with streams := tset {} f.streams stream { enable := enable, decimate := decimate, source := source } })

/-- TW_XFER: transactions run one at a time in the order received (R183). -/
def execTwXfer (n : PortId) (x : Xfer) (s : State) : Out :=
  .next (updFe s n fun f => { f with tw := f.tw ++ [(inTag f.mbx 2, x)], mbx := dropInbox 2 f.mbx })

/-- STATUS of a tunnelled transaction: NO_BUS where the far end has no tunnel or no such bus; an error of a PEC arises only
where one is checked (R172, R183). -/
def tunnelStatus (caps : Byte) (x : Xfer) (status : TwStatus) : TwStatus :=
  if !caps.toNat.testBit 1 || decide (1 < x.bus.toNat) then 7 else twStatus x status

/-- The body of the TW_RESULT of a transaction (R183). -/
def twResult (x : Xfer) (status : TwStatus) (rdata : List Byte) : List Byte :=
  [status] ++ leBytes 1 (twData x status rdata).length ++ [0, 0] ++ twData x status rdata

/-- TUNNEL_TRANSACTION_DONE: the oldest transaction ends and is answered by a TW_RESULT; BUS_STUCK sets TUNNEL_FAULT
(R158, R183). -/
def execTunnelTransactionDone (n : PortId) (status : TwStatus) (rdata : List Byte) (s : State) : Out :=
  .next (match (farEnd s n).tw with
  | [] => s
  | (t, x) :: rest =>
    let st := tunnelStatus (link s n).caps x status
    updFe s n fun f => { f with
      tw := rest, status := setBitIf (st == 6) f.status 7,
      mbx := enqueue f.mbx 3 (message 0x90 t (twResult x st rdata)) })

/-- DIAG_ECHO: the bytes come back unchanged (R178). -/
def execDiagEcho (n : PortId) (data : List Byte) (s : State) : Out := .next (updFe s n fun f => feReply f 14 14 0xE1 data)

/-! ### Firmware reception (R184) -/

/-- Answers FW_STATUS. -/
def fwReply (f : FarEnd) (st : Nat) (ver : Word) : FarEnd := feReply f 5 1 0xA1 (leBytes 4 st ++ wordBytes ver)

/-- FW_BEGIN: SIZE above an area of the store, FAMILY other than its own (R172, R184). -/
def execFwBegin (n : PortId) (size : Nat) (crc version : Word) (family : Nat) (s : State) : Out :=
  .next (updFe s n fun f =>
    if 262144 < size then fwReply { f with fw := none } 2 version
    else if (link s n).fwFamily ≠ family then fwReply { f with fw := none } 3 version
    else { f with
      fw := some { size := size, crc := crc, version := version, family := family, data := [], complete := false },
      mbx := dropInbox 5 f.mbx })

/-- FW_BLOCK: its CRC, and ascending order without a gap (R184). -/
def execFwBlock (n : PortId) (offset : Nat) (crc : Word) (data : List Byte) (s : State) : Out :=
  .next (updFe s n fun f =>
    match f.fw with
    | none => fwReply f 5 0
    | some x =>
      if offset ≠ x.data.length then fwReply { f with fw := none } 5 x.version
      else if crc32 data ≠ crc then fwReply { f with fw := none } 1 x.version
      else if x.size < offset + data.length then fwReply { f with fw := none } 2 x.version
      else { f with fw := some { x with data := x.data ++ data }, mbx := dropInbox 5 f.mbx })

/-- FW_END: the whole image and its CRC (R184). -/
def execFwEnd (n : PortId) (s : State) : Out :=
  .next (updFe s n fun f =>
    match f.fw with
    | none => fwReply f 5 0
    | some x =>
      if x.data.length ≠ x.size then fwReply { f with fw := none } 2 x.version
      else if crc32 x.data ≠ x.crc then fwReply { f with fw := none } 1 x.version
      else fwReply { f with fw := some { x with complete := true } } 0 x.version)

/-- The far end after the activation of an image that starts: the image before it is kept (R173, R184). -/
def feActivated (f : FarEnd) (x : FwRx) : FarEnd :=
  feFresh { f with fwVersion := x.version, fwFamily := x.family, fwKept := (f.fwVersion, f.fwFamily) }

/-- FW_ACTIVATE: a restart into the new image, into LISTEN. Whether the new image starts is free; where it does not, the far
end restarts into the one it has kept runnable (R173, R184). Without a complete image it keeps the one that runs and answers
ORDER. -/
def execFwActivate (n : PortId) (s : State) : Out :=
  .next (match (farEnd s n).fw with
  | some x =>
    if x.complete then
      let (b, s) := drawBool s
      updFe s n fun f => if b then feActivated f x else feFresh f
    else updFe s n fun f => fwReply f 5 x.version
  | none => updFe s n fun f => fwReply f 5 0)

/-! ### Messages that the controller receives -/

/-- CFG_RESULT: CFG_FAIL on any status other than OK (R195). -/
def execCfgResult (n : PortId) (status : Byte) (_words : List Word) (s : State) : Out :=
  .next (let s := updLink s n fun l => { l with
      mbx := dropInbox 1 l.mbx, cfgOut := false, cfgOk := if l.cfgOut then status == 0 else l.cfgOk }
  if status == 0 then s else stick s n 26)

/-- FW_STATUS: after an OK of the whole image FW_ACTIVATE is sent; any other status ends the load (R184, R185). -/
def execFwStatus (n : PortId) (status : Byte) (_version : Word) (s : State) : Out :=
  .next (let s := updLink s n fun l => { l with mbx := dropInbox 1 l.mbx }
  if (link s n).fwLoad != 1 then s
  else if status == 0 then updLink (sendMsg s n 5 0x23 []) n fun l => { l with fwLoad := 2 }
  else updLink s n fun l => { l with fwLoad := 0, fwStart := false, fwDone := true })

/-- Packs whose management unit sits on a bus of a port's far end (R260). -/
def packsOn (s : State) (n bus : Nat) : List Nat :=
  allPacks.filter fun p => (pack s p).bound == some n && cfg s (0x2600 + p) 2 == bus && bus != 0xFF

/-- EVENT: recorded under code 0x1000 + n with the round in which it occurred, its stamp less AGE; an SMBALERT from a
pack's bus sets PMU_ALERT (R182, R260, R364). The stamp is that of the queue manager where the message stands in queue 4. -/
def execEvent (n : PortId) (code age : Nat) (stamp : Word) (data : List Byte) (s : State) : Out :=
  .next (let stamp := ((firstIn 4 (link s n).mbx).map (·.2)).getD stamp
  let s := updLink s n fun l => { l with mbx := dropInbox 4 l.mbx }
  let s := addRecord s (0x1000 + n) (stamp - BitVec.ofNat 32 age) (leBytes 2 code ++ leBytes 2 age ++ data)
  if code = Config.smbalertCode.toNat then
    forAll (packsOn s n (Config.smbalertBus data).toNat) (fun s p => updPack s p fun k => { k with
      sticky := setBit k.sticky 5, idWant := true }) s
  else s)

/-- SMBALERT: the far end reports an EVENT on queue 4 (R183). -/
def execSmbalert (n : PortId) (bus : Nat) (s : State) : Out :=
  .next (let body := leBytes 2 Config.smbalertCode.toNat ++ [0, 0] ++ Config.smbalertData (BitVec.ofNat 8 bus)
  updFe s n fun f => { f with mbx := enqueue f.mbx 4 (message 0xA0 0 body) })

/-- DIAG_REPLY: the controller takes a diagnostic reply (R178). -/
def execDiagReply (n : PortId) (_data : List Byte) (s : State) : Out :=
  .next (updLink s n fun l => { l with mbx := dropInbox 14 l.mbx })

end Sys2Proof.Machine
end

