-- ==== Sys2Proof/Machine/Hem.lean ====
section
/-! DEFINITION. The Hem and the thermal module (10): die sensors, supply monitor, KILL_N, the releases of the hem state,
and thermal derating (R289 to R300, R402, R433). -/
namespace Sys2Proof.Machine

/-! ### Causes of controller scope -/

/-- DIE_CONVERSION: codes in 1/16 °C; two conversions in a row at DIE_CRIT raise the doubt (R293, R402). -/
def execDieConversion (codes : List (BitVec 16)) (s : State) : Out :=
  .next (let c := (List.range 8).map fun k => (codes[k]?).getD 0
  let top : Rat := mkRat (c.foldl (fun m x => if m < x.toInt then x.toInt else m) (-32768)) 16
  let run := if cfgF s 0x2700 0x0B ≤ top then s.hem.dieRun + 1 else 0
  let h := s.hem
  let s := { s with hem := { h with
      dieCodes := c, dieMax := top, dieRun := run,
      summary := setBitIf (decide (cfgF s 0x2700 0x0A ≤ top)) h.summary 5 } }
  if decide (2 ≤ run) && !hasBit s.hem.summary 2 then raiseCtrl s 2 else s)

/-- Monitor window of a rail in mV, numbered as SUPPLY numbers them; VBAT is not monitored (R433). -/
def railWindow (rail : Nat) : Option (Nat × Nat) :=
  match rail with
  | 0 | 1 => some (740, 860)
  | 2 => some (835, 965)
  | 3 | 4 | 5 => some (1670, 1930)
  | 6 | 7 => some (3050, 3550)
  | _ => none

/-- Every output goes to high impedance and stays so until the next start: links, mate link and network send nothing, and
WHEEL_SYNC_OUT and GPIO pins are not driven (R435). -/
def outputsOff (s : State) : State :=
  { s with
    boot := { s.boot with highZ := true }, wheel := { s.wheel with syncOut := 0 },
    links := s.links.map fun x => (x.1, { x.2 with driving := false }) }

/-- SUPPLY: a monitored rail (0 VDD_CE, 1 VDD_SOC, 2 VDD_SL, 3 VDD_SLH, 4 VDD_ADC, 5 VDD_IO18, 6 VDD_IO33, 7 VAUX; 8 is
VBAT, which is not monitored) was outside its window for a time in ns (R433). A core rail, one of the two of 0.80 V, takes the
outputs with it (R435; DEDUCED, notes/assumptions/75.md). -/
def execSupply (rail : Byte) (ns : Nat) (s : State) : Out :=
  .next (let s := if (railWindow rail.toNat).isSome && decide (1000 < ns) then raiseCtrl s 1 else s
  if rail.toNat < 2 then outputsOff s else s)

/-- KILL_N: a level recognised after 40 ns; low forces HEM = 1 into every header, a rising edge releases nothing (R296).
-/
def execKillN (low : Bool) (s : State) : Out :=
  .next (let s := { s with hem := { s.hem with killLow := low } }
  if low then raiseCtrl s 0 else s)

/-- Bits of SUMMARY whose cause is still present (R9, R293, R296, R300). -/
def summaryCauses (s : State) : Word :=
  let h := s.hem
  let slip := hasBit s.wheel.sticky 2 || hasBit s.wheel.sticky 3
  setBitIf h.killLow (setBitIf (decide (cfgF s 0x2700 0x0B - cfgF s 0x2700 0x0C ≤ h.dieMax) && hasBit h.summary 2)
    (setBitIf slip (setBitIf (hasBit s.arr.arraySticky 0)
      (setBitIf (decide (cfgF s 0x2700 0x0A ≤ h.dieMax)) 0 5) 4) 3) 2) 0

/-- A W1C write to SUMMARY (R300). -/
def summaryWrite (s : State) (v : Word) : Nat × State :=
  (stOK, { s with hem := { s.hem with
    summary := clearBits s.hem.summary (clearBits (v &&& 0x3F) (summaryCauses s)) } })

/-! ### Leaving the hem state (R298) -/

/-- CLEAR_CONTROLLER (R298). -/
def clearController (s : State) (v : Nat) : Nat × State :=
  if v = 0 then (stOK, s)
  else if s.hem.summary.toNat % 32 ≠ 0 then (stState, s)
  else if s.hem.held then (stOK, { s with hem := { s.hem with release := some (skipNow s) } })
  else (stOK, s)

/-- CLEAR_SLEEVE (R298). -/
def clearSleeve (s : State) (sl : Nat) : Nat × State :=
  if ctrlHeld s || sleeveDoubts (sleeve s sl).sticky != 0 then (stState, s)
  else if (sleeve s sl).held then (stOK, updSleeve s sl fun x => { x with restart := some (skipNow s) })
  else (stOK, s)

/-- A CLEAR_PORT of this port would be refused (R298). -/
def clearPortRefused (s : State) (n : Nat) : Bool :=
  let c := ctl s n
  (link s n).state != .hem || ctrlHeld s || (sleeve s (n / 8)).held || hasBit (link s n).sticky 0
    || (c.tripReason == 3 && (link s (partner n)).state == .lockout)
    || (c.tripReason == 6 && decide (pcfgF s n 0x40 - pcfgF s n 0x42 < c.tMax))

/-- CLEAR_PORT: the TRIP latch and the holds of a failed armed change or a lost link are released (R298). -/
def clearPort (s : State) (n : Nat) : Nat × State :=
  if clearPortRefused s n then (stState, s)
  else (stOK, updCtl s n fun c => { c with
    tripped := false, armHold := false, lostHold := false, release := some (skipNow s) })

/-- CLEAR_GROUP (R298, R344). -/
def clearGroup (s : State) (g : Nat) : Nat × State :=
  let ms := members s g
  let ok := ms.filter fun n => !clearPortRefused s n
  let bad := ms.find? (clearPortRefused s)
  let old := tget {} s.net.gres g
  let res : GroupRes := { old with
    written := ok, late := [], failPort := bad.getD 0xFFFF, failStatus := if bad.isSome then stState else 0 }
  let s := forAll ok (fun s n => (clearPort s n).2) s
  (stOK, { s with net := { s.net with gres := tput s.net.gres g res } })

/-- A Sleeve whose restart is due at this seam starts its seed rounds, unless a doubt of it is recorded (R84, R295). -/
def sleeveBack (s : State) (sl : Nat) : State :=
  if sleeveDoubts (sleeve s sl).sticky != 0 then updSleeve s sl fun x => { x with restart := none }
  else
    let s := if s.arr.started && !(sleeve s sl).parked then restartSleeve s sl
      else updSleeve s sl fun x => { x with held := false, halted := x.parked, halting := false, restart := none }
    markFree s (sleevePorts sl)

/-- Releases at a seam: the controller hold, then Sleeves (R298). -/
def seamReleases (s : State) : State :=
  let s := match s.hem.release with
    | none => s
    | some (k + 1) => { s with hem := { s.hem with release := some k } }
    | some 0 =>
      if s.hem.summary.toNat % 32 ≠ 0 then { s with hem := { s.hem with release := none } }
      else
        let s := { s with hem := { s.hem with release := none, held := false } }
        let s := forAll allSleeves (fun s sl =>
          if sleeveDoubts (sleeve s sl).sticky == 0 then updSleeve s sl fun x => { x with restart := some 0 } else s) s
        markFree s (linkPorts s)
  forAll allSleeves (fun s sl =>
    match (sleeve s sl).restart with
    | none => s
    | some (k + 1) => updSleeve s sl fun x => { x with restart := some k }
    | some 0 => if s.hem.held then updSleeve s sl fun x => { x with restart := none } else sleeveBack s sl) s

/-- HEM_N (R297): it changes at the tick at which the frames change. -/
def hemPin (s : State) : State :=
  let held (n : Nat) := (link s n).state == .hem || (link s n).state == .lockout
  let low := ctrlHeld s || s.boot.recovery || (cfg s 0x2300 6 == 1 && (linkPorts s).any held)
  { s with hem := { s.hem with hemN := !low } }

/-! ### Thermal module (R289 to R292) -/

/-- The thermal module, 0x15, supervises a port; it runs on the rack-level engines of the port's Sleeve (R3, R23, R289;
notes/assumptions/34.md). -/
def thermOn (s : State) (n : Nat) : Bool :=
  stockModule s 0x15 && rackBody s (n / 8) && stockPort s n && (link s n).cls != 0 && decide (0 < (link s n).groupCount)

/-- The reports of a port's temperature groups grow a round older (R253, R289). -/
def ageTemps (s : State) (n : Nat) : State :=
  updCtl s n fun c => { c with
    ages := (List.range (link s n).groupCount).foldl (fun a g => tset 0 a g (tget 0 a g + 1)) c.ages }

/-- The highest valid temperature among the latest reports of the groups, °C. -/
def maxTemp (s : State) (n : Nat) : Option Rat :=
  ((ctl s n).temps.map fun g => g.2.map fun c => mkRat c.toInt 64).flatten.foldl
    (fun m x => match m with
      | some y => some (rmax x y)
      | none => some x) none

/-- STALE (R289). -/
def staleNow (s : State) (n : Nat) : State :=
  updCtl s n fun c => { c with stale := true, thermSticky := setBit c.thermSticky 2 }

/-- STALE (R289). -/
def execStale (n : PortId) (s : State) : Out :=
  .next (if thermOn s n && groupsStale s n && !(ctl s n).stale then staleNow s n else s)

/-- The thermal module in a round (R289, R292). -/
def thermRound (s : State) (n : Nat) : State :=
  let s := ageTemps s n
  if !thermOn s n then s
  else
    let t := (maxTemp s n).getD (ctl s n).tMax
    let s := updCtl s n fun c => { c with tMax := t, stale := false }
    let s := if groupsStale s n then staleNow s n else s
    let warn := pcfgF s n 0x40
    let fast := decide (warn - 5 ≤ t) || decide (0 < (ctl s n).derate) || decide (pcfgF s n 0x43 / 2 ≤ (ctl s n).tRate)
    let s := updCtl s n fun c => { c with cmd := { c.cmd with fastTherm := fast } }
    if pcfgF s n 0x41 ≤ t && !((ctl s n).tripped && (ctl s n).tripReason == 6) then tripPort s n 6 else s

/-- The largest derate level of a port (R290). -/
def derateMax (s : State) (n : Nat) : Nat := (16 * (100 - pcfgF s n 0x45) / 100).floor.toNat

/-- T_RATE over the last RATE_WINDOW seams (R290); before that many seams it keeps its value. -/
def rateOf (s : State) (n : Nat) : Rat :=
  let k := cfg s 0x2700 0x0D
  let c := ctl s n
  match c.hist[k]? with
  | some old => q40 ((c.tMax - old) / ((k : Rat) * 1024 * roundTime s))
  | none => c.tRate

/-- The derate step of a port at a seam (R290). -/
def thermSeam (s : State) (n : Nat) : State :=
  if !thermOn s n then s
  else
    let k := cfg s 0x2700 0x0D
    let s := updCtl s n fun c => { c with hist := (c.tMax :: c.hist).take (k + 1) }
    let rate := rateOf s n
    let c := ctl s n
    let warn := pcfgF s n 0x40
    let lim := pcfgF s n 0x43
    let hot := c.stale || decide (warn ≤ c.tMax) || decide (lim ≤ rate)
    let cool := !c.stale && decide (c.tMax ≤ warn - pcfgF s n 0x42) && decide (rate < lim / 2)
    let since := c.sinceStep + 1
    let ready := decide (pcfg s n 0x44 ≤ since)
    let up := ready && hot && decide (c.derate < derateMax s n)
    let down := ready && !hot && cool && decide (0 < c.derate)
    updCtl s n fun c => { c with
      tRate := rate, derate := if up then c.derate + 1 else if down then c.derate - 1 else c.derate,
      sinceStep := if up || down then 0 else since,
      thermSticky := setBitIf (decide (lim ≤ rate)) (setBitIf (decide (warn ≤ c.tMax)) c.thermSticky 0) 1 }

/-- HEADROOM (R292). -/
def headroom (s : State) (n : Nat) : Rat :=
  let own (k : Nat) : Rat := pcfgF s k 0x40 - (ctl s k).tMax
  let p := partner n
  if (clsOf s n == 1 || clsOf s n == 2) && decide (0 < (link s p).groupCount) then
    (if (link s n).groupCount = 0 then own p else rmin (own n) (own p))
  else own n

/-- A W1C write of 0x3000+n.44 (R302). -/
def thermStickyWrite (s : State) (n : Nat) (v : Word) : Nat × State :=
  let c := ctl s n
  let causes := setBitIf c.stale (setBitIf (decide (pcfgF s n 0x43 ≤ c.tRate) && thermOn s n)
    (setBitIf (decide (pcfgF s n 0x40 ≤ c.tMax) && thermOn s n) 0 0) 1) 2
  (stOK, updCtl s n fun c => { c with thermSticky := clearBits c.thermSticky (clearBits (v &&& 7) causes) })

end Sys2Proof.Machine
end

