-- ==== Sys2Proof/Machine/Seq.lean ====
section
/-! DEFINITION. The sequencing table, reverse shutdowns and the early warning's timed shutdown (R279 to R288, R411). -/
namespace Sys2Proof.Machine

/-! ### Steps -/

/-- Step i as it runs. -/
def stepSt (s : State) (i : Nat) : SeqStep := tget {} s.sq.steps i
/-- Replaces step i. -/
def setStep (s : State) (i : Nat) (x : SeqStep) : State := { s with sq := { s.sq with steps := tput s.sq.steps i x } }
/-- Updates step i. -/
def updStep (s : State) (i : Nat) (f : SeqStep → SeqStep) : State := setStep s i (f (stepSt s i))
/-- A field of step i in the table. -/
def stepCfg (s : State) (i sub : Nat) : Nat := cfg s (0x2400 + i) sub
/-- Sets bits of 0x23F0.09. -/
def seqStick (s : State) (b : Nat) : State := { s with sq := { s.sq with sticky := setBit s.sq.sticky b } }

/-- The ports of a step's target (R279). -/
def targetPorts (s : State) (i : Nat) : List Nat :=
  let t := stepCfg s i 2
  if t < 0x100 then [t] else members s (t - 0x100)

/-- The values that a step's START and stop use (R280). -/
def stepVals (s : State) (i : Nat) : StepVals :=
  { onDelay := stepCfg s i 3, rampUp := stepCfg s i 4, offDelay := stepCfg s i 5, rampDown := stepCfg s i 6 }

/-- A started step that a reverse shutdown stops. -/
def startedStep (x : SeqStep) : Bool := x.state == 1 || x.state == 2 || x.state == 3

/-- A port counts as stopped (R286). -/
def isStopped (s : State) (n : Nat) : Bool := !isLive (link s n).state

/-! ### Reverse shutdown (R286 to R288) -/

/-- The end of a reverse shutdown (R285, R286). -/
def shutdownEnd (s : State) : State :=
  { s with sq := { s.sq with
      shutdown := false, stopOrder := [], deadline := none, cancellable := false,
      autoWant := s.sq.autoWant || (s.sq.origin == 4 && cfg s 0x23F0 8 == 1),
      state := if hasBit s.sq.sticky 1 then 6 else 5 } }

/-- A step enters STOPPING: its ports stop directly in this round, under its values (R286). -/
def stopStep (s : State) (i : Nat) : State :=
  let x := stepSt s i
  let s := x.ports.foldl (fun s n => stopInRound s n x.vals) s
  let s := setStep s i { x with state := 4 }
  { s with sq := { s.sq with step := i, state := 4 } }

/-- Passes over the steps whose ports are all stopped and stops the next one (R286). -/
def stopMore : Nat → State → State
  | 0, s => s
  | k + 1, s =>
    match s.sq.stopOrder with
    | [] => shutdownEnd s
    | i :: rest =>
      let x := stepSt s i
      if x.state != 4 then stopMore k (stopStep s i)
      else if x.ports.all (isStopped s) then
        let s := setStep s i { x with state := 5 }
        stopMore k { s with sq := { s.sq with stopOrder := rest } }
      else s

/-- The first step stops (R287). -/
def stopFirst (s : State) : State :=
  stopMore 1024 { s with sq := { s.sq with
    deadline := none, cancellable := false, nextWait := none, runPend := none, ended := false, state := 4 } }

/-- Rounds of T_PFW, at least 1 (R287). -/
def pfwRounds (s : State) : Nat :=
  Nat.max 1 (roundR (cfgF s 0x23F0 7 / 1000 * s.wheel.fTick * ((s.wheel.w : Nat) : Rat))).toNat

/-- PFW is raised: PFW_N is low, and the sidebands of every TRAY_IBC port carry it from this round's command on (R240,
R287). -/
def raisePfw (s : State) : State :=
  let s := { s with flow := { s.flow with pfw := true } }
  forAll (portsOf s 5) (fun s n => portOutput (updCtl s n fun c => { c with cmd := { c.cmd with pfw := true } }) n) s

/-- A reverse shutdown begins (R286 to R288): with a running TRAY_IBC of a started step PFW is raised and the first step
waits for the deadline. -/
def beginShutdown (s : State) (origin : Nat) : State :=
  if s.sq.shutdown then
    (if s.sq.origin == 4 && origin != 4 then { s with sq := { s.sq with origin := origin, cancellable := false } } else s)
  else
    let order := s.sq.order.filter fun i => startedStep (stepSt s i)
    let trays := order.any fun i => (stepSt s i).ports.any fun n => clsOf s n == 5 && (link s n).state == .running
    let s := { s with sq := { s.sq with shutdown := true, failWant := false, origin := origin, stopOrder := order } }
    if trays then
      seqStick (raisePfw { s with
        sq := { s.sq with deadline := some (pfwRounds s), cancellable := origin == 4, state := 3 } }) 3
    else stopFirst s

/-- The deadline has come (R287). -/
def deadlineDue (s : State) : Bool := s.sq.shutdown && s.sq.deadline == some 0

/-- PFW_DEADLINE: the first step stops (R287). -/
def execPfwDeadline (s : State) : Out := .next (if deadlineDue s then stopFirst s else s)

/-! ### Failures (R283, R284) -/

/-- A member of a step fails (R283). -/
def memberFail (s : State) (i n : Nat) : State :=
  if stepCfg s i 0x0B == 1 then
    let s := updStep s i fun x => { x with members := x.members.filter fun k => k != n }
    let s := if (link s n).state == .starting then queueCmd s n 2 else s
    seqStick s 4
  else
    let first := !hasBit s.sq.sticky 1
    let s := updStep (seqStick s 1) i fun x => { x with state := 3 }
    { s with sq := { s.sq with
        failWant := true, nextWait := none,
        failStep := if first then i else s.sq.failStep, failPort := if first then n else s.sq.failPort } }

/-- The members of a STARTING step that have entered HEM or LOCKOUT (R283). -/
def lostMembers (s : State) (i : Nat) : List Nat :=
  (stepSt s i).members.filter fun n => (link s n).state == .hem || (link s n).state == .lockout

/-- A member has held PG for PG_HOLD rounds (R282). -/
def heldPg (s : State) (i n : Nat) : Bool := decide (stepCfg s i 7 ≤ (ctl s n).pgRun)

/-- A step is UP (R282). -/
def upDue (s : State) (i : Nat) : Bool :=
  (stepSt s i).state == 1 && !s.boot.restarting && (stepSt s i).members.all (heldPg s i)

/-- The table is UP when END has been reached and every step is UP (R282). -/
def tableUp (s : State) : State :=
  if s.sq.state == 1 && s.sq.ended && (s.sq.order.all fun i => (stepSt s i).state == 2) then
    seqStick { s with sq := { s.sq with state := 2 } } 0
  else s

/-- STEP_UP (R282). -/
def stepUpNow (s : State) (i : Nat) : State := tableUp (updStep s i fun x => { x with state := 2, bad := [] })

/-- STEP_UP (R282). -/
def execStepUp (i : Fin 256) (s : State) : Out := .next (if upDue s i then stepUpNow s i else s)

/-- A step has not become UP within TIMEOUT seams of its START seam (R283). -/
def stepLate (s : State) (i : Nat) : Bool :=
  (stepSt s i).state == 1 && !s.boot.restarting
    && decide (stepCfg s i 8 ≤ (s.wheel.seam - (stepSt s i).startSeam).toNat) && !upDue s i

/-- STEP_TIMEOUT: the members that hold the step back fail; the shutdown of the rack begins at this seam (R283). -/
def stepLateNow (s : State) (i : Nat) : State :=
  let s := ((stepSt s i).members.filter fun n => !heldPg s i n).foldl (fun s n => memberFail s i n) s
  if s.sq.failWant then beginShutdown s 2 else s

/-- STEP_TIMEOUT (R283). -/
def execStepTimeout (i : Fin 256) (s : State) : Out := .next (if stepLate s i then stepLateNow s i else s)

/-- A member of a step is at fault: in HEM or LOCKOUT, or without PG for PG_HOLD rounds (R284). -/
def atFault (s : State) (i n : Nat) : Bool :=
  let t := (link s n).state
  t == .hem || t == .lockout || decide (stepCfg s i 7 ≤ (ctl s n).pgLow)

/-- A member of an UP step was at fault when this round began, and the fault has not been raised (R284). -/
def railDue (s : State) (i n : Nat) : Bool :=
  let x := stepSt s i
  x.state == 2 && x.fault.contains n && !x.bad.contains n && !ctrlHeld s && !s.sq.shutdown
    && !((ctl s n).tripped && (ctl s n).tripReason == 5) && atFault s i n

/-- A rail fault (R284). -/
def railNow (s : State) (i n : Nat) : State :=
  let s := updStep s i fun x => { x with bad := x.bad ++ [n] }
  if stepCfg s i 0x0B == 1 then seqStick s 4
  else
    let s := seqStick { s with sq := { s.sq with failStep := i, failPort := n } } 2
    beginShutdown s 3

/-- The steps that have run in this table. -/
def stepNos (s : State) : List Nat := s.sq.steps.map (·.1)

/-- RAIL_FAULT of a port (R284). -/
def railPort (s : State) (n : Nat) : State := (stepNos s).foldl (fun s i => if railDue s i n then railNow s i n else s) s

/-- RAIL_FAULT (R284). -/
def execRailFault (n : PortId) (s : State) : Out := .next (railPort s n)

/-! ### The forward run (R279 to R282, R285) -/

/-- A START of a member under a step at a seam whose round has begun (R281). A BUS_TAP without a
tray, and a TRAY_IBC whose tap has none, are skipped. -/
def startMember (i : Nat) (v : StepVals) (s : State) (n : Nat) : State :=
  let c := clsOf s n
  let away (k : Nat) := !(ctl s k).presence
  if (link s n).state == .running then updStep s i fun x => { x with members := x.members ++ [n] }
  else if c == 4 && away n then s
  else if c == 5 && clsOf s (partner n) == 4 && away (partner n) then
    updStep s i fun x => { x with skipped := x.skipped ++ [n] }
  else
    let ok := startStatus s n == stOK
    let s := updStep s i fun x => { x with members := x.members ++ [n] }
    if ok then updCtl (startNow s n v) n fun c => { c with since := 1 } else memberFail s i n

/-- A step of ACTION START starts at this seam (R281, R282). -/
def startAction (s : State) (i : Nat) : State :=
  let ports := targetPorts s i
  let v := stepVals s i
  let s := setStep s i { state := 1, ports := ports, startSeam := s.wheel.seam, vals := v }
  let s := { s with sq := { s.sq with
      order := i :: s.sq.order.filter fun k => k != i, step := i, nextStep := i + 1,
      nextWait := if stepCfg s i 9 == 1 then some (Nat.max 1 (stepCfg s i 0x0A)) else none } }
  let s := ports.foldl (startMember i v) s
  if s.sq.failWant then beginShutdown s 2 else s

/-- Starts the next step; a DELAY of 0 seams passes at once (R279, R282). -/
def startSteps : Nat → State → State
  | 0, s => s
  | k + 1, s =>
    let i := s.sq.nextStep
    let act := if 256 ≤ i then 0 else stepCfg s i 1
    if act = 1 then startAction s i
    else if act = 2 then
      let d := stepCfg s i 0x0A
      let s := setStep s i { state := 2, startSeam := s.wheel.seam }
      let s := { s with sq := { s.sq with step := i, nextStep := i + 1, nextWait := some d } }
      if d = 0 then startSteps k s else s
    else tableUp { s with sq := { s.sq with ended := true, nextWait := none } }

/-- A step is due to start (R282). -/
def startDue (s : State) : Bool :=
  s.sq.state == 1 && !s.sq.shutdown && !s.sq.failWant && s.sq.nextWait == some 0 && !s.boot.restarting
    && s.wheel.ris == 0

/-- STEP_START (R279 to R282). -/
def execStepStart (s : State) : Out := .next (if startDue s then startSteps 257 s else s)

/-- SEQ_CMD RUN may be accepted (R285). -/
def runOk (s : State) : Bool :=
  !hasBit s.sq.sticky 1 && !s.sq.shutdown && !s.sq.failWant && s.sq.state != 1 && s.sq.state != 2

/-- SEQ_CMD RUN (R285). -/
def runWrite (s : State) : Nat × State :=
  if runOk s then (stOK, { s with sq := { s.sq with runPend := some (skipNow s) } }) else (stState, s)

/-- SEQ_CMD SHUTDOWN (R285). -/
def shutdownWrite (s : State) : Nat × State :=
  if (stepNos s).any fun i => startedStep (stepSt s i) && s.sq.order.contains i then (stOK, beginShutdown s 1)
  else if s.sq.shutdown then (stOK, beginShutdown s 1)
  else (stState, s)

/-- A write of SEQ_CMD (R285). -/
def seqCmd (s : State) (v : Nat) : Nat × State := if v = 1 then runWrite s else shutdownWrite s

/-- The table begins at its seam: PFW is released, every step is IDLE (R285, R287). -/
def beginRun (s : State) : State :=
  { s with
    sq := { s.sq with
      steps := [], state := 1, step := 0, nextStep := 0, nextWait := some 0, ended := false, order := [],
      failWant := false, runPend := none, stopOrder := [], origin := 0 },
    flow := { s.flow with pfw := false } }

/-! ### Starting by itself (R285, R411) -/

/-- RECT_DCDC ports of a feed. -/
def groupDcdc (s : State) (f : Feed) : List Nat := (portsOf s 2).filter fun n => feedOf n == f

/-- A feed's group holds V_BUS at or above BUS_UV (R285). -/
def busHeld (s : State) : Bool :=
  match s.flow.active with
  | some f => s.flow.vFormed && decide (cfgF s 0x2503 2 ≤ s.flow.vBus)
      && (groupDcdc s f).any fun n => (link s n).state == .running
  | none => false

/-- No start-up firmware load and no write of R195 is outstanding (R411). -/
def startQuiet (s : State) : Bool := s.links.all fun x => !x.2.cfgOut && !(x.2.fwStart && x.2.fwLoad != 0)

/-- The power-up RUN is due (R411). -/
def powerRunDue (s : State) : Bool :=
  !s.sq.autoDone && s.arr.started && commands s && startQuiet s && s.wheel.ris == 0 && !s.boot.restarting

/-- The RUN after a bus collapse or a HOLDUP shutdown is due (R285). -/
def coldRunDue (s : State) : Bool :=
  s.sq.autoWant && busHeld s && runOk s && s.sq.runPend.isNone && s.wheel.ris == 0 && commands s && !s.boot.restarting

/-- Ports whose only hold is a trip with reason 0x05 become READY (R285). -/
def freeCollapsed (s : State) (n : Nat) : State :=
  let c := ctl s n
  if (link s n).state == .hem && c.tripped && c.tripReason == 5 then
    let s := updCtl s n fun c => { c with tripped := false }
    if portHeld s n then updCtl s n fun c => { c with tripped := true } else setPState s n (freeState s n)
  else s

/-- AUTO_START at a seam (R285, R411). -/
def autoStartNow (s : State) : State :=
  let s :=
    if coldRunDue s then
      let s := seqStick (forAll (linkPorts s) freeCollapsed s) 5
      { s with sq := { s.sq with autoWant := false, runPend := some 0 } }
    else s
  if powerRunDue s then
    let on := cfg s 0x23F0 8 == 1 && runOk s && s.sq.runPend.isNone
    { s with sq := { s.sq with autoDone := true, runPend := if on then some 0 else s.sq.runPend } }
  else s

/-- AUTO_START (R285, R411). -/
def execAutoStart (s : State) : Out := .next (autoStartNow s)

/-! ### Seam and tick -/

/-- TRAY_IBC ports that a step skipped start once the table is UP and their tap is RUNNING (R281). -/
def startSkipped (s : State) (i : Nat) : State :=
  if s.sq.state != 2 then s
  else
    let x := stepSt s i
    x.skipped.foldl (fun s n =>
      if (link s (partner n)).state == .running && startStatus s n == stOK then
        startNow (updStep s i fun x => { x with skipped := x.skipped.filter fun k => k != n }) n x.vals
      else s) s

/-- The sequencer at a seam: RUN, the count to the next step, the shutdown of a failed step (R282, R283, R285). -/
def seamSeq (s : State) : State :=
  let s := if s.sq.failWant then beginShutdown s 2 else s
  let s := (stepNos s).foldl startSkipped s
  let last := stepSt s s.sq.step
  let wait := match s.sq.nextWait with
    | some (k + 1) => some k
    | some 0 => some 0
    | none =>
      if s.sq.state == 1 && !s.sq.ended && !s.sq.shutdown && !s.sq.order.isEmpty && last.state == 2 then
        some (stepCfg s s.sq.step 0x0A)
      else none
  let s := { s with sq := { s.sq with nextWait := wait } }
  match s.sq.runPend with
  | some 0 => beginRun s
  | some (k + 1) => { s with sq := { s.sq with runPend := some k } }
  | none => s

/-- What the sequencer left undone in the round that ends (notes/assumptions/6.md). -/
def seqCatchUp (s : State) : State :=
  let s := autoStartNow s
  let s := if startDue s then startSteps 257 s else s
  let s := (stepNos s).foldl (fun s i => if upDue s i then stepUpNow s i else s) s
  let s := if s.wheel.ris == 0 then (stepNos s).foldl (fun s i => if stepLate s i then stepLateNow s i else s) s else s
  if deadlineDue s then stopFirst s else s

/-- The sequencer in a round (R283, R284, R286, R287). -/
def seqRound (s : State) : State :=
  let s := (stepNos s).foldl (fun s i =>
    if (stepSt s i).state == 1 then (lostMembers s i).foldl (fun s n => memberFail s i n) s else s) s
  let s := (stepNos s).foldl (fun s i => updStep s i fun x => { x with
    fault := if x.state == 2 then x.members.filter (atFault s i) else [],
    bad := x.bad.filter fun n => !((link s n).state == .running && (ctl s n).pg) }) s
  let s := match s.sq.deadline with
    | some (k + 1) => { s with sq := { s.sq with deadline := some k } }
    | _ => s
  if s.sq.shutdown && s.sq.deadline.isNone then stopMore 1024 s else s

/-- Rail faults of the round that ends that no command has raised (R284). -/
def railCatchUp (s : State) : State := (linkPorts s).foldl railPort s

/-- A W1C write of 0x23F0.09 (R301). -/
def seqStickyWrite (s : State) (v : Word) : Nat × State :=
  (stOK, { s with sq := { s.sq with sticky := clearBits s.sq.sticky (v &&& 0x3F) } })

end Sys2Proof.Machine
end

