-- ==== Sys2Proof/Machine/Battery.lean ====
section
/-! DEFINITION. The battery shelf (09): the BATT_CONV module's charge counting, rests and pulses in a round, the estimator
at a seam, pack identity, the charge watchdog, ship mode and the service button (R252 to R278). The bus-side setpoint
of a pack's port is formed with the rack modules. -/
namespace Sys2Proof.Machine

/-! ### Quantities of a pack -/

/-- A configuration value of pack p. -/
def kcfg (s : State) (p sub : Nat) : Nat := cfg s (0x2600 + p) sub
/-- An F32 configuration value of pack p. -/
def kcfgF (s : State) (p sub : Nat) : Rat := cfgF s (0x2600 + p) sub
/-- SERIES. -/
def series (s : State) (p : Nat) : Rat := (kcfg s p 7 : Nat)
/-- CAP_LEARNED in Ah; 0 in the state stands for DESIGN_AH (R259). -/
def capAh (s : State) (p : Nat) : Rat := if (pack s p).capLearned = 0 then kcfgF s p 5 else (pack s p).capLearned
/-- SOH in percent (R258). -/
def soh (s : State) (p : Nat) : Rat := if kcfgF s p 5 = 0 then 100 else capAh s p / kcfgF s p 5 * 100
/-- Usable energy in kWh (R258). -/
def usable (s : State) (p : Nat) : Rat := kcfgF s p 6 * soh s p / 100
/-- The rest threshold of R255 in A. -/
def restAmps (s : State) (p : Nat) : Rat := capAh s p / 100
/-- Sets a bit of the pack sticky word. -/
def packStick (s : State) (p b : Nat) : State := updPack s p fun k => { k with sticky := setBit k.sticky b }
/-- The port that a pack is bound to: the one its PORT names, while the loaded pattern declares that BATT_CONV (R252). -/
def boundTo (s : State) (p : Nat) : Option Nat := (pack s p).bound.filter fun n => declClass s n == 3
/-- Bound packs and their ports. -/
def boundPacks (s : State) : List (Nat × Nat) := allPacks.filterMap fun p => (boundTo s p).map fun n => (p, n)
/-- Ampere-hours of a change of the accumulator, in units of 1 nAs. -/
def ahOf (d : BitVec 64) : Rat := (d.toInt : Rat) / 3600000000000

/-- A BATT_CONV port by declaration (R15). -/
def battPorts (s : State) : List Nat := portsOf s 3

/-- T_PACK (R253). -/
def packTemp (s : State) (p n : Nat) : Option Rat :=
  let g := kcfg s p 8
  if 128 ≤ tget 0 (ctl s n).ages g then none
  else
    match tfind (ctl s n).temps g with
    | none => none
    | some l => (l.map fun c => mkRat c.toInt 64).foldl (fun m x => match m with
      | some y => some (rmax x y)
      | none => some x) none

/-- The contactor of the pack's converter is commanded closed (R269). -/
def contactorOn (s : State) (n : Nat) : Bool := hasBit ((ctl s n).cmd.mode.setWidth 32) 1

/-! ### Charging (R264, R265) -/

/-- T_PACK lies within the charge window, narrowed by a margin. -/
def inWindow (s : State) (p : Nat) (margin : Rat) : Bool :=
  let k := pack s p
  k.tValid && decide (cfgF s 0x26F0 7 + margin ≤ k.tPack) && decide (k.tPack ≤ cfgF s 0x26F0 8 - margin)

/-- The conditions of R264 but for temperature and FULL. -/
def mayCharge (s : State) (p n : Nat) : Bool :=
  (link s n).state == .running && kcfg s p 9 == 1 && !s.shelf.ship && !(pack s p).waitRest

/-- Whole seams of a time in s at F_NOM, to the nearest, at least 1 (R264). -/
def seamsOf (s : State) (t : Rat) : Nat :=
  Nat.max 1 (roundR (t * fNom s * ((s.wheel.w : Nat) : Rat) / 1024)).toNat

/-- The margin by which T_PACK must lie inside the window for a pulse to begin (R265). -/
def tempMargin (s : State) (p : Nat) : Rat := if (pack s p).tempHold then 2 else 0

/-- The state of a pack that does not charge (0x2600+p.18). -/
def idleState (s : State) (p n : Nat) : Nat :=
  if s.shelf.ship then 6
  else if (pack s p).full then 3
  else if (pack s p).waitRest then 4
  else if mayCharge s p n && (pack s p).tValid && !inWindow s p (tempMargin s p) then 5
  else 0

/-- I_C in A and V_C × SERIES in V (R264). -/
def chargeAmps (s : State) (p : Nat) : Rat := f32Val s.shelf.effIchg * capAh s p
/-- The held voltage of a pulse (R264). -/
def chargeVolts (s : State) (p : Nat) : Rat := f32Val s.shelf.effVchg * series s p

/-- A pulse begins. -/
def pulseStart (s : State) (p : Nat) : State :=
  updPack s p fun k => { k with
    chgState := 1, chgSeams := 0, tempHold := false, cvHeld := false, termLow := false, onV := [], onI := [] }

/-- The pulse ends: V_ON and I_ON are taken (R259). -/
def pulseStop (s : State) (p state : Nat) : State :=
  updPack s p fun k => { k with
    chgState := state, chgSeams := 0, vOn := q40 (mean k.onV), iOn := q40 (mean k.onI), offRounds := 0, offSum := 0,
    offGood := false, impPend := state == 2 || state == 3 }

/-- A pulse has lasted T_ON (R264). -/
def pulseDue (s : State) (p : Nat) : Bool :=
  (pack s p).chgState == 1 && decide (seamsOf s (cfgF s 0x26F0 5) ≤ (pack s p).chgSeams)

/-- CHARGE_PULSE_END: REST, or FULL when the voltage was held and the current fell below I_TERM (R264, R265). -/
def pulseEnd (s : State) (p : Nat) : State :=
  let k := pack s p
  if k.cvHeld && k.termLow then updPack (pulseStop s p 3) p fun k => { k with full := true } else pulseStop s p 2

/-- CHARGE_PULSE_END (R259, R264, R265). -/
def execChargePulseEnd (p : PackId) (s : State) : Out := .next (if pulseDue s p then pulseEnd s p else s)

/-- A rest has lasted T_REST (R264). -/
def chargeRestDue (s : State) (p : Nat) : Bool :=
  (pack s p).chgState == 2 && decide (seamsOf s (cfgF s 0x26F0 6) ≤ (pack s p).chgSeams)

/-- CHARGE_REST_END: the next pulse begins (R264). -/
def execChargeRestEnd (p : PackId) (s : State) : Out := .next (if chargeRestDue s p then pulseStart s p else s)

/-- The charge state in a round: what ends a pulse or a rest at once (R264, R265). -/
def chargeCheck (s : State) (p n : Nat) : State :=
  let k := pack s p
  if k.chgState != 1 && k.chgState != 2 then s
  else if !mayCharge s p n then pulseStop s p (idleState s p n)
  else if !k.tValid then pulseStop s p 0
  else if inWindow s p 0 then s
  else if k.chgState = 1 then packStick (updPack (pulseStop s p 5) p fun k => { k with tempHold := true }) p 3
  else pulseStop s p 5

/-- The charge state at a seam: counts, FULL left below RECHARGE, new pulses (R264, R265). -/
def chargeSeam (s : State) (p n : Nat) : State :=
  let again := cfgF s 0x26F0 4
  let s := updPack s p fun k => { k with full := k.full && decide (again ≤ k.soc) }
  let k := pack s p
  if k.chgState = 1 ∨ k.chgState = 2 then updPack s p fun k => { k with chgSeams := k.chgSeams + 1 }
  else if mayCharge s p n && !k.full && inWindow s p (tempMargin s p) then pulseStart s p
  else updPack s p fun k => { k with chgState := idleState s p n }

/-- The regulated charge current of a round: I_C, or while the voltage is held a free value up to it (R264, R266). -/
def chargeRequest (s : State) (p : Nat) : State :=
  let k := pack s p
  if k.chgState != 1 then updPack s p fun k => { k with request := 0 }
  else if k.cvHeld then
    let (x, s) := drawRat s
    updPack s p fun k => { k with request := rclamp x 0 (chargeAmps s p) }
  else updPack s p fun k => { k with request := chargeAmps s p }

/-! ### The round of a pack (R253 to R256, R259, R265, R268, R274) -/

/-- Adds 1 to a tally bin of a Sleeve (R75, R78). -/
def binAt (s : State) (sl bin : Nat) : State :=
  let k := sl * 1536 + bin
  let v := tget 0 s.arr.bins k
  if v = 0xFFFFFFFF then updSleeve s sl fun x => { x with sticky := setBit x.sticky 13 }
  else { s with arr := { s.arr with bins := tset 0 s.arr.bins k (v + 1) } }

/-- The tallies of a round (R274). -/
def packTallies (s : State) (p n : Nat) : State :=
  let sl := n / 8
  let j := n % 8
  let k := pack s p
  let put (s : State) (slot : Nat) (x : Rat) : State := presentTo s sl (slot + 4 * j) (f32Of x)
  let s := put (put (put s 96 k.vNow) 97 k.iNow) 99 (ctl s n).nowP
  let s := if k.tValid then
      binAt (put s 98 k.tPack) sl (1024 + 32 * j + (rclamp ((k.tPack + 20) / 5) 0 15).floor.toNat)
    else s
  let c := capAh s p
  let x := if c = 0 then 15 else rmin (rabs k.iNow / c * 8) 15
  binAt s sl (1040 + 32 * j + x.floor.toNat)

/-- The impedance sample of a rest: rounds 64 to 127 after the current first fell below the rest threshold (R259). -/
def impedanceStep (s : State) (p : Nat) : State :=
  let k := pack s p
  if !k.impPend then s
  else
    let low := decide (rabs k.iNow < restAmps s p)
    if k.offRounds = 0 && !low then s
    else if !low then updPack s p fun k => { k with impPend := false }
    else
      let r := k.offRounds
      let sum := if 64 ≤ r then k.offSum + k.vNow else k.offSum
      if r < 127 then updPack s p fun k => { k with offRounds := r + 1, offSum := sum }
      else
        let i := rabs k.iOn
        let ok := decide (capAh s p / 10 ≤ i) && decide (0 < i) && k.tValid && decide (15 ≤ k.tPack)
          && decide (k.tPack ≤ 35)
        let z := (k.vOn - sum / 64) / i * 1000
        let next := if k.impedance = 0 then z else k.impedance + (z - k.impedance) / 16
        updPack s p fun k => { k with
          impPend := false, offRounds := 0, offSum := 0, impedance := if ok then q40 next else k.impedance }

/-- Charge counted in a round (R254) and the energy that the hold-up module integrates (R227). -/
def countCharge (s : State) (p n : Nat) : State :=
  let i := q40 (sampleVal s n 2)
  let v := q40 (sampleVal s n 3)
  let t := roundTime s
  updPack s p fun k =>
    let x := if (link s n).frameOk then k.chargeFrac + i * t * 1000000000 else k.chargeFrac
    let w := x.floor
    { k with
      iNow := i, vNow := v, charge := k.charge + BitVec.ofInt 64 w, chargeFrac := q40 (x - (w : Rat)),
      energy := q40 (k.energy - i * v * t / 3600000) }

/-- The rest of R255 and the wait of R256 in a round. -/
def restStep (s : State) (p n : Nat) : State :=
  let t := roundTime s
  let lim := restAmps s p
  let temp := packTemp s p n
  let on := contactorOn s n
  let cap := capAh s p
  let ok := (link s n).frameOk
  updPack s p fun k =>
    let tp := temp.getD k.tPack
    let rest := decide (rabs k.iNow < lim) && temp.isSome && decide (10 ≤ tp) && decide (tp ≤ 45) && on
    let used := rmax 0 (k.discharged + q40 (k.iNow * t / 3600))
    let mean := rest && ok && decide (k.avgFrom ≤ k.restTime) && decide (k.restTime < k.avgFrom + 60)
    { k with
      tPack := tp, tValid := temp.isSome, resting := rest, restTime := if rest then q40 (k.restTime + t) else 0,
      avgFrom := if rest then k.avgFrom else 1140,
      avgSum := if mean then k.avgSum + k.vNow else if rest then k.avgSum else 0,
      avgN := if mean then k.avgN + 1 else if rest then k.avgN else 0,
      restDone := rest && k.restDone, discharged := used, waitRest := k.waitRest || decide (cap / 100 < used) }

/-- The pulse in a round: held voltage, termination, the last 64 rounds (R259, R264, R265). -/
def pulseStep (s : State) (p : Nat) : State :=
  let v := chargeVolts s p
  let term := cfgF s 0x26F0 3 * capAh s p
  updPack s p fun k =>
    if k.chgState != 1 then k
    else
      let held := k.cvHeld || decide (v ≤ k.vNow)
      { k with
        cvHeld := held, termLow := k.termLow || (held && decide (rabs k.iNow < term)),
        onV := (k.vNow :: k.onV).take 64, onI := (k.iNow :: k.onI).take 64 }

/-- The module's work of a round for one pack. -/
def packRound (s : State) (p n : Nat) : State :=
  if !moduleRuns s n then s
  else
    let s := pulseStep (restStep (countCharge s p n) p n) p
    let s := chargeRequest (chargeCheck (impedanceStep s p) p n) p
    if hemBit s n then s else packTallies s p n

/-- The bus is valid (R270). -/
def busOk (s : State) : Bool :=
  let l := (portsOf s 2 ++ battPorts s).filter fun n => (link s n).frameOk
  !l.isEmpty && l.all fun n =>
    decide (cfgF s 0x2503 2 ≤ sampleVal s n 1) && decide (sampleVal s n 1 ≤ cfgF s 0x2503 1 * 11 / 10)

/-- The unbroken valid bus time (R270), and the count of the charge watchdog, which the Collar keeps (R267). -/
def shipTime (s : State) : State :=
  { s with shelf := { s.shelf with
    busValid := if s.shelf.ship && busOk s then q40 (s.shelf.busValid + s.wheel.tRound) else 0,
    cwdTime := if s.boot.collarUp && !s.boot.restarting then q40 (s.shelf.cwdTime + s.wheel.tRound) else s.shelf.cwdTime } }

/-! ### Long rest and learning (R255 to R257) -/

/-- The open-circuit voltage of point k of the cell table. -/
def ocv (s : State) (k : Nat) : Rat := cfgF s 0x26F1 (k + 1)

/-- SOC in percent by linear interpolation (R255); none outside the table, where no value is stated. -/
def socOcv (s : State) (v : Rat) : Option Rat :=
  ((List.range 10).find? fun k => decide (ocv s k ≤ v) && decide (v ≤ ocv s (k + 1))).map fun k =>
    q40 (((k : Nat) : Rat) * 10 + (v - ocv s k) / (ocv s (k + 1) - ocv s k) * 10)

/-- The learning interval is closed by a rest point (R257). -/
def learnClose (s : State) (p : Nat) (x : Rat) : State :=
  let k := pack s p
  let d := rabs (x - k.learnSoc)
  if !k.learnOpen || decide (d < 40) || decide (604800 < k.learnTime) then s
  else
    let sample := q40 (rabs (ahOf (k.charge - k.learnCharge)) / (d / 100))
    let design := kcfgF s p 5
    if sample < design / 2 ∨ design * 11 / 10 < sample then packStick s p 2
    else
      let cap := capAh s p
      let s := packStick s p 1
      updPack s p fun k => { k with
        capLearned := if k.conf = 0 then sample else q40 ((cap + sample) / 2),
        conf := if k.conf = 0 then 1 else if rabs (cap - sample) ≤ design * 5 / 100 then 2 else 1 }

/-- A rest has reached 20 min, and 60 s of it have been averaged (R255, R273). -/
def restDue (s : State) (p : Nat) : Bool :=
  let k := pack s p
  (boundTo s p).isSome && k.resting && !k.restDone && decide (1200 ≤ k.restTime) && decide (k.avgFrom + 60 ≤ k.restTime)
    && decide (0 < k.avgN) && domainRuns s && !s.boot.restarting

/-- LONG_REST: the pack voltage averaged over the last 60 s gives SOC, a free value where the table states none; a rest point
closes one learning interval and opens the next (R255 to R257; notes/assumptions/42.md). -/
def longRest (s : State) (p : Nat) (unstated : Rat) : State :=
  let k := pack s p
  let x := (socOcv s (k.avgSum / ((k.avgN : Nat) : Rat) / series s p)).getD unstated
  let s := learnClose s p x
  updPack s p fun k => { k with
    soc := x, restDone := true, rested := true, waitRest := false, discharged := 0, learnOpen := true, learnSoc := x,
    learnCharge := k.charge, learnTime := 0 }

/-- LONG_REST; `unstated` is SOC where the cell table states none (R255). -/
def execLongRest (p : PackId) (unstated : Rat) (s : State) : Out :=
  .next (if restDue s p then longRest s p unstated else s)

/-! ### Identity (R260 to R262) -/

/-- The read of a pack's identity: one TW_XFER on PMU_BUS (R260). -/
def readIdent (s : State) (p : Nat) : State :=
  match boundTo s p with
  | none => s
  | some n =>
    if kcfg s p 2 = 0xFF ∨ !commands s ∨ s.boot.restarting then s
    else
      let body := leBytes 1 (kcfg s p 2) ++ leBytes 1 (kcfg s p 3) ++ [2, 1, 32, 0] ++ leBytes 2 25 ++ leBytes 1 (kcfg s p 4)
      let s := updLink s n fun l => { l with idTag := l.idTag ++ [l.tag] }
      sendMsg s n 2 0x10 body

/-- PMU_ID_READ (R260). -/
def execPmuIdRead (p : PackId) (s : State) : Out := .next (readIdent s p)

/-- The Collar's reads of a round: at a start, at READY, on an SMBALERT and every 60 s, by a unit with authority (R260). -/
def identRound (s : State) (p : Nat) : State :=
  let t := s.wheel.tRound
  let s := updPack s p fun k => { k with
    idAge := q40 (k.idAge + t), idWant := k.idWant || decide (60 ≤ k.idAge + t) }
  if !(pack s p).idWant || !commands s || s.boot.restarting then s
  else readIdent (updPack s p fun k => { k with idWant := false, idAge := 0 }) p

/-- An open learning interval grows older, whether or not the pack's module runs (R257). -/
def learnRound (s : State) (p : Nat) : State :=
  let t := s.wheel.tRound
  updPack s p fun k => { k with learnTime := if k.learnOpen then q40 (k.learnTime + t) else k.learnTime }

/-- Every pack's round. -/
def battRound (s : State) : State :=
  (boundPacks s).foldl (fun s x => packRound (identRound (learnRound s x.1) x.1) x.1 x.2) s

/-- An identity read, or a failed read (R261, R262). -/
def takeIdent (s : State) (p : Nat) (ok : Bool) (id : List Byte) : State :=
  if !ok || id.all (· == 0) then
    let s := updPack s p fun k => { k with idState := 0 }
    if kcfg s p 2 = 0xFF then s else packStick s p 4
  else
    let k := pack s p
    let changed := !k.ident.isEmpty && k.ident != id
    let s := updPack s p fun k => { k with
      ident := id, idState := 1, conf := if changed then 0 else k.conf, learnOpen := if changed then false else k.learnOpen }
    if changed then packStick s p 0 else s

/-- TW_RESULT: the answer to an identity read (R183, R260 to R262); the controller sends no other tunnel transaction. -/
def execTwResult (n : PortId) (status : TwStatus) (rdata : List Byte) (s : State) : Out :=
  .next (let l := link s n
  let tag := inTag l.mbx 3
  let s := setLink s n { l with
      idTag := l.idTag.filter fun t => t != tag, mbx := dropInbox 3 l.mbx }
  match (if l.idTag.contains tag then packOf s n else none) with
  | some p => takeIdent s p (status == 0) (rdata.take 32)
  | none => s)

/-! ### The seam of a pack (R252, R254, R258, R263) -/

/-- The values of a new binding and of a PACK_RESET (R259, R263). -/
def freshPack (k : Pack) : Pack :=
  { k with soc := 50, conf := 0, capLearned := 0, learnOpen := false, discharged := 0, rested := false, chargeSeam := k.charge }

/-- A binding takes effect at its seam (R252). -/
def bindNow (s : State) (p v : Nat) : State :=
  let old := (pack s p).bound
  let new : Option Nat := if v = 0xFFFF then none else some v
  if old == new then s
  else updPack s p fun k =>
    let k := if new.isSome then { freshPack k with impedance := 0 } else k
    { k with
      bound := new, chgState := if new.isSome then 0 else 7, chgSeams := 0, request := 0, resting := false, restTime := 0,
      restDone := false, waitRest := false, impPend := false, tValid := false, full := false, tempHold := false,
      energy := 0, usableE := 0, idWant := true }

/-- PACK_RESET at its seam (R263, R360). -/
def packResetNow (s : State) (p : Nat) : State :=
  let s := updPack s p fun k => { freshPack k with impedance := 0, ident := [], idState := 0 }
  let mine (sl j key : Nat) : Bool :=
    key / 1536 == sl && decide (1024 + 32 * j ≤ key % 1536) && decide (key % 1536 < 1056 + 32 * j)
  let slots (sl j key : Nat) : Bool :=
    key / 128 == sl && decide (96 + 4 * j ≤ key % 128) && decide (key % 128 < 100 + 4 * j)
  let r := s.recorder
  let r := { r with wipe := r.wipe ++ [(p, (pack s p).bound)], stageSoc := r.stageSoc.filter fun x => x.1 / 16 != p }
  let r := match (pack s p).bound with
    | none => r
    | some n => { r with
        stageBins := r.stageBins.filter fun x => !mine (n / 8) (n % 8) x.1,
        stageExts := r.stageExts.filter fun x => !slots (n / 8) (n % 8) x.1 }
  readIdent { s with recorder := r } p

/-- The estimator's part of a seam: SOC from the counted charge once a rest point has set it, its bin, and the energies that
the hold-up module uses (R227, R254, R258, R259, R274). -/
def estimate (s : State) (p : Nat) : State :=
  let k := pack s p
  let cap := capAh s p
  let x := if cap = 0 ∨ !k.rested then k.soc else k.soc - ahOf (k.charge - k.chargeSeam) / cap * 100
  let y := q40 (rclamp x 0 100)
  let s := if x < 0 ∨ 100 < x then packStick s p 6 else s
  let s := updPack s p fun k => { k with
      soc := y, chargeSeam := k.charge, usableE := q40 (usable s p), energy := q40 (y / 100 * usable s p) }
  let key := p * 16 + (rmin (y / 10) 9).floor.toNat
  { s with recorder := { s.recorder with stageSoc := tset 0 s.recorder.stageSoc key (tget 0 s.recorder.stageSoc key + 1) } }

/-- The effective charge values that reach the engines at a seam (R267). -/
def effectiveCharge (s : State) : State :=
  if s.boot.restarting then s
  else
    let low (a b : Nat) : Word :=
      let x := BitVec.ofNat 32 (cfg s 0x26F0 a)
      let y := BitVec.ofNat 32 (cfg s 0x26F0 b)
      if s.shelf.cwdSafe && decide (f32Val y < f32Val x) then y else x
    { s with shelf := { s.shelf with effIchg := low 1 0x0A, effVchg := low 2 0x0B } }

/-- A BATT_CONV port enters HEM under the contactor hold (R269, R271). -/
def openContactors (s : State) : State := portsToHem s (battPorts s)

/-- Packs and ship mode at a seam; binding changes have been taken with the configuration writes. -/
def battSeam (s : State) : State :=
  let s := allPacks.foldl (fun s p =>
    match (pack s p).resetPend with
    | some 0 => updPack (packResetNow s p) p fun k => { k with resetPend := none }
    | some (k + 1) => updPack s p fun x => { x with resetPend := some k }
    | none => s) s
  let s := match s.shelf.shipPend with
    | some 0 => openContactors { s with shelf := { s.shelf with shipPend := none, ship := true, busValid := 0 } }
    | some (k + 1) => { s with shelf := { s.shelf with shipPend := some k } }
    | none => s
  let s := if s.boot.restarting then s else (boundPacks s).foldl (fun s x => estimate s x.1) s
  let s := effectiveCharge s
  (boundPacks s).foldl (fun s x => if moduleRuns s x.2 then chargeSeam s x.1 x.2 else s) s

/-! ### Object writes of the shelf -/

/-- The check of a write of PORT (R252). -/
def portStatus (s : State) (p v : Nat) : Nat :=
  let ix := 0x2600 + p
  let held := match (pack s p).bound with
    | some n => n != v && isLive (link s n).state
    | none => false
  let empty := latest s ix 5 == 0 || latest s ix 6 == 0 || latest s ix 7 == 0
  if v = 0xFFFF then (if held then stState else stOK)
  else if 0xFF < v then stRange
  else if declClass s v ≠ 3 then stRange
  else if allPacks.any fun q => q != p && latest s (0x2600 + q) 1 == v then stRange
  else if empty then stRange
  else if held then stState
  else stOK

/-- A write of PACK_RESET (R263). -/
def packResetWrite (s : State) (p v : Nat) : Nat × State :=
  if v = 0 then (stOK, s) else (stOK, updPack s p fun k => { k with resetPend := some (skipNow s) })

/-- A write of SHIP_CMD (R269). -/
def shipWrite (s : State) (v : Nat) : Nat × State :=
  if v = 0 then (stOK, s)
  else if s.flow.state = 2 ∨ s.flow.state = 3 then (stState, s)
  else (stOK, { s with shelf := { s.shelf with shipPend := some (skipNow s) } })

/-- A write of CWD_KICK restarts the count; it does not end the fallback (R267). -/
def kickWrite (s : State) (_v : Nat) : Nat × State := (stOK, { s with shelf := { s.shelf with cwdTime := 0 } })

/-- An accepted write of ICHG or VCHG restarts the count and ends the fallback; the values reach the engines at the next seam
(R267). -/
def hostCharge (s : State) : State := { s with shelf := { s.shelf with cwdSafe := false, cwdTime := 0 } }

/-- No host contact for T_CWD (R267). -/
def cwdDue (s : State) : Bool :=
  s.boot.collarUp && !s.boot.restarting && !s.shelf.cwdSafe && decide (cfgF s 0x26F0 9 ≤ s.shelf.cwdTime)

/-- The charge watchdog expires (R267). -/
def cwdNow (s : State) : State :=
  { s with shelf := { s.shelf with cwdSafe := true, sticky := setBit s.shelf.sticky 0 } }

/-- CWD_EXPIRY (R267). -/
def execCwdExpiry (s : State) : Out := .next (if cwdDue s then cwdNow s else s)

/-! ### Ship mode and the service button (R270, R271) -/

/-- A BATT_CONV port comes back when ship mode ends, and is started at the next seam (R270). -/
def shipBack (s : State) (n : Nat) : State :=
  if (link s n).state == .hem && !portHeld s n then
    let s := setPState s n (freeState s n)
    if startStatus s n = stOK then queueCmd s n 1 else s
  else s

/-- The bus has been valid for 10 s in ship mode (R270). -/
def shipDue (s : State) : Bool := s.shelf.ship && busOk s && decide (10 ≤ s.shelf.busValid)

/-- Ship mode ends (R270). -/
def shipNow (s : State) : State :=
  let s := { s with shelf := { s.shelf with ship := false, busValid := 0, sticky := setBit s.shelf.sticky 3 } }
  forAll (battPorts s) shipBack s

/-- SHIP_EXIT (R270). -/
def execShipExit (s : State) : Out := .next (if shipDue s then shipNow s else s)

/-- What the packs left undone in the round that ends (notes/assumptions/6.md). -/
def battCatchUp (s : State) : State :=
  let s := (boundPacks s).foldl (fun s x =>
    let s := if pulseDue s x.1 then pulseEnd s x.1 else s
    let s := if chargeRestDue s x.1 then pulseStart s x.1 else s
    if restDue s x.1 then let r := drawRat s; longRest r.2 x.1 r.1 else s) s
  let s := if cwdDue s then cwdNow s else s
  if shipDue s then shipNow s else s

/-- SVC_BTN_N: low for 10 s without a break, or released (R271). -/
def execSvcBtnN (held : Bool) (s : State) : Out :=
  .next (let h := s.shelf
  if !held then { s with shelf := { h with btnLow := false, btnUsed := false } }
  else if h.btnUsed || h.svcOpen then { s with shelf := { h with btnLow := true } }
  else
    let h := { h with btnLow := true, btnUsed := true }
    if s.flow.state = 2 ∨ s.flow.state = 3 then
      addRecord { s with shelf := { h with sticky := setBit h.sticky 1 } } (Config.recordCode 1).toNat s.wheel.round
        (Config.recordData 1)
    else
      let s := openContactors { s with shelf := { h with sticky := setBit h.sticky 2, svcOpen := true } }
      addRecord s (Config.recordCode 2).toNat s.wheel.round (Config.recordData 2))

end Sys2Proof.Machine
end

