-- ==== Sys2Proof/Machine/Flow.lean ====
section
/-! DEFINITION. The rack modules (08): the balance of a round, input target and battery share, sharing and shedding, the
two feeds and their transfers, hold-up with its early warning, smoothing and capping (R224 to R251). -/
namespace Sys2Proof.Machine

/-! ### What the modules read -/

/-- The sharing module runs in this round (R3). -/
def shareRuns (s : State) : Bool := rackModule s 0x10
/-- The feed and transfer module runs in this round (R3). -/
def feedRuns (s : State) : Bool := rackModule s 0x11
/-- The hold-up module, which also splits the battery share, runs in this round (R3; notes/assumptions/34.md). -/
def holdRuns (s : State) : Bool := rackModule s 0x12
/-- The capping module runs in this round (R3). -/
def capRuns (s : State) : Bool := rackModule s 0x14
/-- One of the modules that form the balance and the target runs (R224, R225). -/
def rackRuns (s : State) : Bool := shareRuns s || feedRuns s || holdRuns s || capRuns s

/-- The flags of a feed in the wheel block that the engines read in this round (R59). -/
def shownBits (s : State) (f : Feed) : Nat := (mget s.arr.blkRead (match f with | .A => 48 | .B => 80)).toNat
/-- ANGLE_VALID as shown. -/
def shownAngle (s : State) (f : Feed) : Bool := (shownBits s f).testBit 0
/-- PRESENT as shown. -/
def shownPresent (s : State) (f : Feed) : Bool := (shownBits s f).testBit 1

/-- A feed as the modules read it is not lost: PRESENT, or restarted in hold-up with its angle valid (R39, R233, R241). -/
def feedUp (s : State) (f : Feed) : Bool := shownPresent s f || (s.flow.restarted == some f && shownAngle s f)

/-- Rectifier modules of a feed, by RECT_DCDC port (R15). -/
def modulesOf (s : State) (f : Feed) : List Nat := groupDcdc s f
/-- Both ports of a module are RUNNING (R229, R233). -/
def bothRun (s : State) (n : Nat) : Bool :=
  (link s n).state == .running && (link s (partner n)).state == .running
/-- A module is available (R229). -/
def available (s : State) (n : Nat) : Bool := bothRun s n && !(ctl s n).shed
/-- Capacity of a module in W: RATING × V_BUS, reduced by saturation or derating (R208, R229, R291). -/
def capacity (s : State) (n : Nat) : Rat := rating s n * s.flow.vBus * limitFactor s n
/-- Sum over a list. -/
def sumOf (l : List Nat) (f : Nat → Rat) : Rat := l.foldl (fun a n => a + f n) 0
/-- Capacity of the available modules of a feed. -/
def groupCapacity (s : State) (f : Feed) : Rat := sumOf ((modulesOf s f).filter (available s)) (capacity s)

/-- Hold-up is in progress (R238 to R242). -/
def inHoldup (s : State) : Bool := s.flow.state == 3 || s.flow.state == 4

/-- A feed is standby ready (R233). -/
def standbyReady (s : State) (f : Feed) : Bool :=
  s.flow.active != some f && s.flow.active.isSome && shownPresent s f
    && decide (cfgF s 0x2501 3 ≤ (feedSt s f).presentTime) && (modulesOf s f).any (bothRun s)

/-- PREFERRED_FEED. -/
def preferred (s : State) : Feed := if cfg s 0x2501 4 = 0 then .A else .B

/-- Rounds of a ramp of T_XFER (R234). -/
def rampRounds (s : State) : Nat :=
  (cfgF s 0x2501 2 / 1000 * s.wheel.fTick * ((s.wheel.w : Nat) : Rat)).ceil.toNat

/-- The selected cap in W (R245). -/
def capWatts (s : State) : Rat := cfgF s 0x2505 (if s.flow.capEff = 1 then 2 else 1) * 1000

/-- Sets a bit of 0x2500.10. -/
def flowStick (s : State) (b : Nat) : State := { s with flow := { s.flow with sticky := setBit s.flow.sticky b } }

/-! ### Energy (R21, R22, R226) -/

/-- Packs that contribute energy and Lining, with their ports (R22). -/
def contributors (s : State) : List (Nat × Nat) := (boundPacks s).filter fun x => isLive (link s x.2).state
/-- Stored energy of the contributing packs in kWh (0x2500.09, R240). -/
def storedKwh (s : State) : Rat := (contributors s).foldl (fun a x => a + (pack s x.1).energy) 0
/-- A pack's share of the Lining in kWh (R22). -/
def liningShare (s : State) (p : Nat) : Rat :=
  let all := (contributors s).foldl (fun a x => a + (pack s x.1).usableE) 0
  cfgF s 0x2503 3 * (pack s p).usableE / all
/-- The reserve may be drawn on: in hold-up and during a bridge (R21, R226). -/
def openReserve (s : State) : Bool := inHoldup s || s.flow.bridging
/-- Bound packs whose port is RUNNING and reports no pack limit (R226, R268). -/
def activePacks (s : State) : List (Nat × Nat) :=
  (boundPacks s).filter fun x => (link s x.2).state == .running && !hasBit (link s x.2).feStatus 9
/-- RATING × V_BUS of a pack's port. -/
def packWatts (s : State) (n : Nat) : Rat := rating s n * s.flow.vBus
/-- Packs that dis_max counts (R226). -/
def disPacks (s : State) : List (Nat × Nat) :=
  (activePacks s).filter fun x => openReserve s || decide (liningShare s x.1 < (pack s x.1).energy)
/-- Packs that abs_max counts (R226). -/
def absPacks (s : State) : List (Nat × Nat) :=
  (activePacks s).filter fun x => decide ((pack s x.1).energy < cfgF s 0x2504 3 / 100 * (pack s x.1).usableE)

/-! ### Splitting a power (R228, R230) -/

/-- Items: key, weight, limit. An amount is split in proportion to the weights; the remainder of an item at its limit is
spread over the others by the same rule. Items of no weight at all share alike. -/
def split : Nat → Rat → List (Nat × Rat × Rat) → List (Nat × Rat)
  | 0, _, _ => []
  | k + 1, amount, items =>
    if items.isEmpty then []
    else
      let w := items.foldl (fun a x => a + x.2.1) 0
      let part (x : Nat × Rat × Rat) : Rat :=
        if w = 0 then amount / (items.length : Nat) else amount * x.2.1 / w
      let excess := items.filter fun x => x.2.2 < part x
      if excess.isEmpty then items.map fun x => (x.1, q40 (part x))
      else
        let used := excess.foldl (fun a x => a + x.2.2) 0
        (excess.map fun x => (x.1, q40 x.2.2)) ++ split k (amount - used) (items.filter fun x => !(x.2.2 < part x))

/-- The part of a key, 0 when it has none. -/
def partOf (l : List (Nat × Rat)) (k : Nat) : Rat := ((l.find? fun x => x.1 == k).map (·.2)).getD 0

/-! ### Sharing (R230) -/

/-- The weight of a module in THERMAL mode (R230). -/
def thermWeight (s : State) (n : Nat) : Rat :=
  if (link s n).groupCount = 0 && (link s (partner n)).groupCount == 0 then 1
  else rclamp (headroom s n / cfgF s 0x2502 4) (1 / 20) 1

/-- Output power of each available module of a group for a group output (R230). -/
def allocate (s : State) (f : Feed) (out : Rat) : List (Nat × Rat) :=
  let l := (modulesOf s f).filter (available s)
  if cfg s 0x2502 1 = 2 then
    let w := sumOf l fun n => capacity s n * thermWeight s n
    l.map fun n => (n, q40 (rmin (capacity s n) (out * (capacity s n * thermWeight s n) / w)))
  else split (l.length + 1) out (l.map fun n => (n, 1, capacity s n))

/-- The share of the group output that a feed's group carries in this round (R18, R234 to R237, R241). -/
def shareOf (s : State) (f : Feed) : Rat :=
  match s.flow.ramp with
  | none => if s.flow.active == some f then 1 else 0
  | some r =>
    let x := if r.all = 0 then 1 else mkRat (Nat.min r.done r.all : Nat) r.all
    match r.kind with
    | 1 => if r.incoming = f then x else 1 - x
    | 5 => if s.flow.active == some f then r.start + (1 - r.start) * x else 0
    | _ => if r.incoming = f then x else 0

/-! ### Input target and battery share (R225, R228, R238, R266) -/

/-- P_TGT, the battery share and cap_short from the demand of the round (R225). -/
def target (s : State) : State :=
  let f := s.flow
  let dis := sumOf ((disPacks s).map (·.2)) (packWatts s)
  let abs := sumOf ((absPacks s).map (·.2)) (packWatts s)
  let cap := capWatts s
  let lo := f.pDem - dis
  let hi := f.pDem + abs
  let step := cfgF s 0x2504 2 * 1000 * s.wheel.tRound
  let smooth := cfg s 0x2504 1 == 1 && f.ramp.isNone && !f.owned && rackModule s 0x13
  let want := if smooth then rclamp f.pDem (f.pPrev - step) (f.pPrev + step) else f.pDem
  let full := rclamp (if capRuns s then rmin want cap else want) lo hi
  let tgt := q40 (full * (shareOf s .A + shareOf s .B))
  { s with flow := { f with
      disMax := dis, absMax := abs, pTgt := tgt, pCmd := f.pDem - tgt, capShort := decide (cap < lo) } }

/-- The reference of a RECT_DCDC port: its power at the bus voltage (R230). -/
def setDcdc (l : List (Nat × Rat)) (s : State) (n : Nat) : State :=
  updCtl s n fun c => { c with cmd := { c.cmd with setpoint := f32Of (partOf l n / s.flow.vBus) } }

/-- The part of its share that a module gives: one just unshed ramps over 64 rounds (R232). -/
def unshedPart (s : State) (n : Nat) : Rat := mkRat (Nat.min (ctl s n).unshedRamp 64 : Nat) 64

/-- What a group's modules give of their shares, and what the battery takes over: the part that modules just unshed do not give
yet falls to the battery within dis_max, and the rest of it to the remaining modules up to their capacity (R232). -/
def rampShares (s : State) (l : List (Nat × Rat)) : List (Nat × Rat) × Rat :=
  let rising := l.filter fun x => decide ((ctl s x.1).unshedRamp < 64)
  let steady := l.filter fun x => decide (64 ≤ (ctl s x.1).unshedRamp)
  let short := rising.foldl (fun a x => a + x.2 * (1 - unshedPart s x.1)) 0
  let batt := rmin short (rmax 0 (s.flow.disMax - rmax 0 s.flow.pCmd))
  let extra := split (steady.length + 1) (short - batt) (steady.map fun x => (x.1, 1, rmax 0 (capacity s x.1 - x.2)))
  ((rising.map fun x => (x.1, q40 (x.2 * unshedPart s x.1))) ++ (steady.map fun x => (x.1, x.2 + partOf extra x.1)), batt)

/-- The group of a feed (R18, R230, R232). P_TGT becomes output power by the group efficiency. -/
def setGroup (s : State) (f : Feed) : State :=
  let all := shareOf s .A + shareOf s .B
  let out := if all = 0 then 0 else s.flow.pTgt / all * shareOf s f * (feedSt s f).eff
  let r := rampShares s (allocate s f out)
  let s := { s with flow := { s.flow with pCmd := s.flow.pCmd + r.2 } }
  (modulesOf s f).foldl (setDcdc r.1) s

/-- The largest discharge of a pack: RATING × V_BUS, or what it delivers at the discharge limit (R228, R268). -/
def packTop (s : State) (p n : Nat) : Rat :=
  if (pack s p).vNow ≤ cfgF s 0x26F0 0x0E * series s p then rmax 0 (rmin (packWatts s n) (ctl s n).nowP) else packWatts s n

/-- The bus-side setpoint of a pack's port for a net power, positive when discharging; the trim by which SAMPLE2 follows is the
control law's, a free value (R190, R266). -/
def setPackPort (s : State) (n : Nat) (net : Rat) : State :=
  let (trim, s) := if net = 0 then ((0 : Rat), s) else drawRat s
  let i := if net = 0 then 0 else rmax 0 (rabs net / s.flow.vBus + trim)
  let i := if net < 0 then -i else i
  updCtl s n fun c =>
    let m := if net < 0 then c.cmd.mode ||| 1 else c.cmd.mode &&& 0xFE
    { c with cmd := { c.cmd with setpoint := f32Of i, mode := m } }

/-- The battery share split among the packs: taken off the charge requests first, then as discharge or absorption (R228,
R266). -/
def setPacks (s : State) : State :=
  let p := s.flow.pCmd
  let chg (x : Nat × Nat) : Rat := (pack s x.1).request * (pack s x.1).vNow
  let keep := if 0 < p && decide (0 < s.flow.pChg) then 1 - rmin p s.flow.pChg / s.flow.pChg else 1
  let dis := disPacks s
  let give := rmax 0 (p - s.flow.pChg)
  let weight (x : Nat × Nat) : Rat :=
    if openReserve s then (pack s x.1).energy else (pack s x.1).energy - liningShare s x.1
  let out := split (dis.length + 1) give (dis.map fun x => (x.2, weight x, packTop s x.1 x.2))
  let abs := absPacks s
  let room (x : Nat × Nat) : Rat := cfgF s 0x2504 3 / 100 * (pack s x.1).usableE - (pack s x.1).energy
  let most (x : Nat × Nat) : Rat := rmax 0 (rmin (packWatts s x.2) (chargeAmps s x.1 * (pack s x.1).vNow - chg x * keep))
  let inn := split (abs.length + 1) (rmax 0 (-p)) (abs.map fun x => (x.2, room x, most x))
  (boundPacks s).foldl (fun s x => setPackPort s x.2 (partOf out x.2 - (chg x * keep + partOf inn x.2))) s

/-- Currents of the round from the state of the feeds (R225 to R230). -/
def flowShare (s : State) : State :=
  let s := if rackRuns s then target s else s
  let s := if shareRuns s then setGroup (setGroup s .A) .B else s
  if holdRuns s then setPacks s else s

/-- After an event of the round the commands of the rectifiers and packs are formed again. -/
def flowAgain (s : State) : State :=
  let s := flowShare s
  if rackRuns s then forAll (portsOf s 1 ++ portsOf s 2 ++ portsOf s 3 ++ portsOf s 5) portOutput s else s

/-! ### Feeds: transfers (R233 to R237) -/

/-- A feed's modules are held with SHED (R233, R238, R241). -/
def heldShed (s : State) (f : Feed) : Bool :=
  if inHoldup s then s.flow.restarted != some f && !(s.flow.active == some f) else !feedUp s f

/-- Sets SHED of every module: held by its feed, or shed for efficiency (R231, R233). -/
def setShed (s : State) : State :=
  let one (f : Feed) (s : State) (n : Nat) : State :=
    let b := heldShed s f || s.flow.shedOrder.contains n
    let s := updCtl s n fun c => { c with shed := b }
    updCtl s (partner n) fun c => { c with shed := b }
  (modulesOf s .B).foldl (one .B) ((modulesOf s .A).foldl (one .A) s)

/-- The conditions of a planned transfer to a feed (R234). -/
def xferOk (s : State) (f : Feed) : Bool :=
  s.flow.active.isSome && standbyReady s f && s.flow.state == 0 && s.flow.ramp.isNone
    && decide (s.flow.pDem ≤ sumOf ((modulesOf s f).filter (bothRun s)) (capacity s))

/-- A write of XFER_CMD (R234). -/
def xferWrite (s : State) (v : Nat) : Nat × State :=
  let f : Feed := if v = 0 then .A else .B
  if xferOk s f then (stOK, { s with flow := { s.flow with xferPend := some (f, skipNow s) } }) else (stState, s)

/-- The seam of a planned transfer (R234). -/
def xferSeam (s : State) : State :=
  match s.flow.xferPend with
  | none => s
  | some (f, k + 1) => { s with flow := { s.flow with xferPend := some (f, k) } }
  | some (f, 0) =>
    let s := { s with flow := { s.flow with xferPend := none } }
    if xferOk s f then { s with flow := { s.flow with
        state := 1, ramp := some { kind := 1, incoming := f, start := 0, done := 1, all := rampRounds s } } }
    else flowStick s 2

/-- The active feed is lost and the other one is standby ready (R237). -/
def suddenDue (s : State) : Bool :=
  match s.flow.active with
  | some f => !inHoldup s && !feedUp s f && standbyReady s (otherFeed f)
      && (match s.flow.ramp with | none => true | some r => r.kind == 5)
  | none => false

/-- SUDDEN_XFER: the battery bridges, the standby group will ramp up (R237). -/
def suddenNow (s : State) : State :=
  match s.flow.active with
  | some f => flowStick { s with flow := { s.flow with
      state := 2, bridging := true,
      ramp := some { kind := 2, incoming := otherFeed f, start := 0, done := 0, all := rampRounds s } } } 1
  | none => s

/-- SUDDEN_XFER (R237). -/
def execSuddenXfer (s : State) : Out :=
  .next (if feedRuns s && suddenDue s then flowAgain (suddenNow s) else s)

/-- A feed has an available module that can carry current (R238). -/
def canCarry (s : State) (f : Feed) : Bool :=
  let inRamp := match s.flow.ramp with | some r => r.kind != 5 && r.incoming == f | none => false
  feedUp s f && (modulesOf s f).any (bothRun s)
    && (s.flow.active == some f || inRamp || standbyReady s f)

/-- Hold-up begins (R238). -/
def holdupDue (s : State) : Bool :=
  s.flow.everActive && !inHoldup s && !canCarry s .A && !canCarry s .B

/-- HOLDUP: every rectifier is shed, no feed is active, the battery carries the demand (R238). -/
def holdupNow (s : State) : State :=
  let inXfer := s.flow.state == 1
  let s := { s with flow := { s.flow with
      state := 3, active := none, ramp := none, xferPend := none, bridging := false, restarted := none, rampDone := false,
      warned := false, holdTime := 0 } }
  let s := flowStick s 3
  let s := if inXfer then flowStick s 1 else s
  setShed s

/-- HOLDUP (R238). -/
def execHoldup (s : State) : Out := .next (if holdRuns s && holdupDue s then flowAgain (holdupNow s) else s)

/-- The early warning is due (R240). -/
def warningDue (s : State) : Bool :=
  inHoldup s && !s.flow.warned && decide (storedKwh s ≤ cfgF s 0x2503 4)

/-- PFW in the sidebands of every TRAY_IBC port. -/
def setPfw (s : State) : State :=
  forAll (portsOf s 5) (fun s n => updCtl s n fun c => { c with cmd := { c.cmd with pfw := s.flow.pfw } }) s

/-- EARLY_WARNING: PFW is raised and the timed shutdown starts (R240, R287). -/
def warningNow (s : State) : State :=
  let s := flowStick { s with flow := { s.flow with warned := true, pfw := true } } 4
  setPfw (beginShutdown s 4)

/-- EARLY_WARNING (R240). -/
def execEarlyWarning (s : State) : Out := .next (if holdRuns s && warningDue s then flowAgain (warningNow s) else s)

/-- The end of a hold-up; a timed shutdown before its deadline is cancelled. The feed restarted in it runs on whether or not it
is PRESENT (R233, R242). -/
def holdupEnd (s : State) : State :=
  let s := { s with flow := { s.flow with state := 0, rampDone := false, bridging := false, ramp := none } }
  let before := match s.sq.deadline with | some (_ + 1) => true | _ => false
  if s.sq.shutdown && s.sq.cancellable && before then
    let up := s.sq.ended && s.sq.order.all fun i => (stepSt s i).state == 2
    let s := { s with
      sq := { s.sq with
        shutdown := false, deadline := none, cancellable := false, stopOrder := [], state := if up then 2 else 1 },
      flow := { s.flow with pfw := false } }
    flowStick (setPfw s) 5
  else s

/-- The conditions of R242. -/
def holdupEndDue (s : State) : Bool :=
  inHoldup s && s.flow.rampDone && s.flow.vFormed && decide (cfgF s 0x2503 2 ≤ s.flow.vBus)

/-- A ramp has run its rounds. -/
def xferRampDue (s : State) : Bool :=
  match s.flow.ramp with
  | some r => decide (r.all ≤ r.done)
  | none => false

/-- XFER_RAMP_COMPLETE: the incoming feed is active, or the returning group is at full output (R234, R236, R241, R242). -/
def xferRampNow (s : State) : State :=
  match s.flow.ramp with
  | none => s
  | some r =>
    let f := { s.flow with ramp := none, bridging := false }
    match r.kind with
    | 1 => flowStick { s with flow := { f with state := 0, active := some r.incoming } } 0
    | 2 => { s with flow := { f with state := 0, active := some r.incoming } }
    | 4 =>
      let s := { s with flow := { f with state := 3, rampDone := true } }
      if holdupEndDue s then holdupEnd s else s
    | _ => { s with flow := { f with state := 0 } }

/-- XFER_RAMP_COMPLETE (R234). -/
def execXferRampComplete (s : State) : Out :=
  .next (if feedRuns s && xferRampDue s then flowAgain (xferRampNow s) else s)

/-! ### Bus collapse (R243, R285) -/

/-- Four rounds below BUS_UV, armed (R243). -/
def collapseDue (s : State) : Bool := s.flow.collapseArmed && decide (4 ≤ s.flow.collapseRun)

/-- BUS_COLLAPSE: every BUS_TAP trips with reason 0x05, the table ends, a timed shutdown is abandoned (R243, R285). -/
def collapseNow (s : State) : State :=
  let s := flowStick { s with flow := { s.flow with collapseArmed := false, collapseRun := 0 } } 6
  let s := forAll (portsOf s 4) (fun s n => tripPort s n 5) s
  { s with sq := { s.sq with
      steps := s.sq.steps.map fun x => (x.1, { x.2 with state := 5 }),
      state := 5, shutdown := false, deadline := none, cancellable := false, stopOrder := [], nextWait := none,
      failWant := false, runPend := none, autoWant := cfg s 0x23F0 8 == 1 } }

/-- BUS_COLLAPSE (R243). -/
def execBusCollapse (s : State) : Out := .next (if holdRuns s && collapseDue s then collapseNow s else s)

/-! ### Shedding (R231, R232) -/

/-- Loss in percent of input at a load of x of capacity, from the loss table of a module, linear between points; below the
first point no value is stated and it is free (R231, R250). -/
def lossPct (s : State) (n : Nat) (x : Rat) : Rat × State :=
  let t := 0x2520 + pcfg s n 0x3C
  let y := rmin x 1 * 8
  if y < 1 then drawRat s
  else
    let k := y.floor.toNat
    let a := cfgF s t k
    let b := cfgF s t (Nat.min 8 (k + 1))
    (a + (b - a) * (y - (k : Rat)), s)

/-- Summed loss in W of a set of modules at an equal share of an output. -/
def setLoss (s : State) (l : List Nat) (out : Rat) : Rat × State :=
  let each := out / (l.length : Nat)
  l.foldl (fun (acc : Rat × State) n =>
    let (pct, s) := lossPct acc.2 n (each / capacity acc.2 n)
    (acc.1 + each * pct / rmax 1 (100 - pct), s)) (0, s)

/-- Available modules in the order in which they would be shed: the most recently unshed first, then from the last port
(R231). -/
def shedCandidates (s : State) (l : List Nat) : List Nat :=
  let recent := s.flow.unshedOrder.reverse.filter fun n => l.contains n
  recent ++ (l.filter fun n => !recent.contains n).reverse

/-- The unshed capacity that R231 demands. -/
def shedNeed (s : State) (dem : Rat) : Rat := dem * (1 + cfgF s 0x2502 2 / 100)

/-- The number of modules with the least summed loss among those that meet the constraint, out of the available modules `l` and
those `gone` of the same group that are shed for efficiency, which come first in the order of dropping (R231). -/
def bestCount (s : State) (l gone : List Nat) (out : Rat) : Nat × State :=
  let order := (gone.filter (bothRun s)).reverse ++ shedCandidates s l
  let need := shedNeed s s.flow.demMax
  let (best, s) := (List.range order.length).foldl (fun (acc : Option (Nat × Rat) × State) d =>
    let set := order.drop d
    if sumOf set (capacity acc.2) < need then acc
    else
      let (x, s) := setLoss acc.2 set out
      match acc.1 with
      | some (_, y) => (if x < y then some (set.length, x) else acc.1, s)
      | none => (some (set.length, x), s)) (none, s)
  ((best.map (·.1)).getD l.length, s)

/-- The choice of N at a seam (R231). -/
def shedSeam (s : State) : State :=
  if cfg s 0x2502 1 ≠ 1 then
    { s with flow := { s.flow with shedRun := 0, shedWant := false, shedOrder := [] } }
  else
    match s.flow.active with
    | none => s
    | some f =>
      let l := (modulesOf s f).filter (available s)
      let gone := s.flow.shedOrder.filter fun k => (modulesOf s f).contains k
      let (n, s) := bestCount s l gone (s.flow.pTgt * (feedSt s f).eff)
      let run := if n < l.length then s.flow.shedRun + 1 else 0
      { s with flow := { s.flow with shedRun := run, shedWant := decide (cfg s 0x2502 3 ≤ run) } }

/-- SHED: one module of the active feed is shed (R231). -/
def shedNow (s : State) : State :=
  let s := { s with flow := { s.flow with shedWant := false } }
  match s.flow.active with
  | none => s
  | some f =>
    match shedCandidates s ((modulesOf s f).filter (available s)) with
    | [] => s
    | n :: _ => setShed { s with flow := { s.flow with
        shedOrder := n :: s.flow.shedOrder, unshedOrder := s.flow.unshedOrder.filter fun k => k != n } }

/-- SHED (R231). -/
def execShed (s : State) : Out := .next (if shareRuns s && s.flow.shedWant then flowAgain (shedNow s) else s)

/-- Unsheds modules of the active group, the most recently shed first, until the constraint of R231 holds again (R232). -/
def unshed : Nat → Rat → State → State
  | 0, _, s => s
  | k + 1, need, s =>
    match s.flow.active with
    | none => s
    | some f =>
      match s.flow.shedOrder.filter fun n => (modulesOf s f).contains n with
      | [] => s
      | n :: _ =>
        if need ≤ groupCapacity s f then s
        else
          let s := setShed { s with flow := { s.flow with
            shedOrder := s.flow.shedOrder.filter fun i => i != n, unshedOrder := s.flow.unshedOrder ++ [n] } }
          unshed k need (updCtl s n fun c => { c with unshedRamp := 0 })

/-- The unshed path of a round (R232). -/
def unshedStep (s : State) : State :=
  match s.flow.active with
  | some f =>
    if !s.flow.shedOrder.isEmpty && decide (groupCapacity s f / (1 + cfgF s 0x2502 2 / 200) < s.flow.pDem) then
      unshed 256 (shedNeed s s.flow.pDem) s
    else s
  | none => s

/-! ### Capping (R245 to R249) -/

/-- CAP_N changes its level; it is sampled at ticks (R245). -/
def execCapN (low : Bool) (s : State) : Out := .next { s with flow := { s.flow with capPin := low } }

/-- The selection from the two last samples and CAP_SELECT (R245). -/
def selectCap (s : State) : State :=
  let low := s.flow.capLow1 && s.flow.capLow2
  { s with flow := { s.flow with capEff := if low || cfg s 0x2505 3 == 1 then 1 else 0 } }

/-- CAP_SELECT set by the dictionary or by the urgent CAP (R245, R350). -/
def capSelectNow (s : State) (v : Nat) : State := selectCap (setCfg s 0x2505 3 v)

/-- The sampler of CAP_N at a tick; the selection stands in receive entry 63 of every Sleeve from cycle 0 (R245). -/
def sampleCap (s : State) : State :=
  let s := selectCap { s with flow := { s.flow with capLow1 := s.flow.capPin, capLow2 := s.flow.capLow1 } }
  let r : YokeRx := { due := 0, entry := 63, word := some (BitVec.ofNat 64 s.flow.capEff) }
  forAll allSleeves (fun s n => updSleeve s n fun x => { x with rx := x.rx ++ [r] }) s

/-- Fraction of RATING that the tap limit leaves (R246). -/
def tapFraction (s : State) (steps : Nat) : Rat := rmax (cfgF s 0x2505 8 / 100) (mkRat (16 - (steps : Nat) : Int) 16)

/-- A tap limit step is due (R246). -/
def tapStepDue (s : State) : Bool :=
  let f := s.flow
  f.capShort && decide (cfg s 0x2505 5 ≤ f.duty) && decide (cfgF s 0x2505 6 ≤ f.hardTime)
    && (f.tapSteps == 0 || decide (cfg s 0x2505 7 ≤ f.tapWait))
    && decide (cfgF s 0x2505 8 / 100 < tapFraction s f.tapSteps)

/-- TAP_LIMIT_STEP: the tap limit falls by 1/16 of RATING (R246). -/
def tapStepNow (s : State) : State :=
  flowStick { s with flow := { s.flow with tapSteps := s.flow.tapSteps + 1, tapWait := 0, lowSeams := 0 } } 10

/-- TAP_LIMIT_STEP (R246, R248). -/
def execTapLimitStep (s : State) : Out := .next (if capRuns s && tapStepDue s then flowAgain (tapStepNow s) else s)

/-- The thermal pause duty that a tray asks for: the larger derate level of its two ports (R291). -/
def thermDutyOf (s : State) (n : Nat) : Nat := Nat.max (ctl s n).derate (ctl s (partner n)).derate

/-- THROTTLE of each tray in the present slot, from the larger of the capping duty and its thermal duty (R247, R291). -/
def setThrottle (s : State) : State :=
  (portsOf s 5).zipIdx.foldl (fun s x =>
    let on := decide ((s.flow.slot + 16 - x.2 % 16) % 16 < Nat.max s.flow.dutyNow (ctl s x.1).thermDuty)
    updCtl s x.1 fun c => { c with cmd := { c.cmd with throttle := on } }) s

/-- A slot boundary is due (R247). -/
def slotDue (s : State) : Bool := decide (cfg s 0x2505 4 ≤ s.flow.slotRounds)

/-- THROTTLE_SLOT: the next slot begins; a change of D takes effect with the first of 16 (R247). -/
def slotNow (s : State) : State :=
  let k := (s.flow.slot + 1) % 16
  let s := if k = 0 then forAll (portsOf s 5) (fun s n => updCtl s n fun c => { c with thermDuty := thermDutyOf s n }) s else s
  setThrottle { s with flow := { s.flow with
    slot := k, slotRounds := 0, dutyNow := if k = 0 then s.flow.duty else s.flow.dutyNow } }

/-- THROTTLE_SLOT (R247). -/
def execThrottleSlot (s : State) : Out := .next (if capRuns s && slotDue s then flowAgain (slotNow s) else s)

/-- The highest capping stage in action (0x2500.0C). -/
def capStage (s : State) : Nat :=
  let f := s.flow
  if 0 < f.tapSteps then 3 else if 0 < f.duty then 2
  else if decide (capWatts s < f.pDem) && decide (0 < f.pCmd) then 1 else 0

/-- Stages 2 and 3 at a seam (R239, R246, R249). -/
def capSeam (s : State) : State :=
  let f := s.flow
  if !capRuns s then s
  else
    let short := decide (f.sumN < 2 * f.shortRounds)
    let low := decide (0 < f.sumN) && decide (f.sumIn / (f.sumN : Nat) < capWatts s * (1 - cfgF s 0x2505 9 / 100))
    let s := { s with flow := { s.flow with tapWait := f.tapWait + 1 } }
    if short then
      let s := { s with flow := { s.flow with lowSeams := 0 } }
      if f.duty < cfg s 0x2505 5 then flowStick { s with flow := { s.flow with duty := f.duty + 1 } } 9 else s
    else if !low then { s with flow := { s.flow with lowSeams := 0 } }
    else
      let k := f.lowSeams + 1
      if 0 < f.tapSteps then
        (if cfg s 0x2505 7 ≤ k then { s with flow := { s.flow with tapSteps := f.tapSteps - 1, tapWait := 0, lowSeams := 0 } }
         else { s with flow := { s.flow with lowSeams := k } })
      else { s with flow := { s.flow with lowSeams := k, duty := if 16 < k then f.duty - 1 else f.duty } }

/-! ### The round and the seam -/

/-- The sums of R17, V_BUS and P_DEM of a round (R224, R225). The voltage loop is a control law: a free value. -/
def balance (s : State) : State :=
  let bus := (portsOf s 2 ++ portsOf s 3).filter fun n => (link s n).state == .running && (link s n).frameOk
  let sumP (l : List Nat) : Rat := sumOf l fun n => (ctl s n).nowP
  let v := if bus.isEmpty then s.flow.vBus else q40 (sumOf bus (fun n => sampleVal s n 1) / (bus.length : Nat))
  let load := sumP (portsOf s 4 ++ portsOf s 6)
  let chg := (boundPacks s).foldl (fun a x => a + (pack s x.1).request * (pack s x.1).vNow) 0
  let pin := sumP (portsOf s 1)
  let batt := sumP (portsOf s 3)
  let (pi, s) := drawRat s
  let dem := q40 (load + chg + pi)
  let f := s.flow
  { s with flow := { f with
      vBus := v, vFormed := !bus.isEmpty, pIn := pin, pLoad := load, pBatt := batt, pBus := pin + batt - load,
      pChg := chg, pDem := dem, pPrev := f.pTgt,
      sumIn := f.sumIn + pin, sumLoad := f.sumLoad + load, sumBatt := f.sumBatt + batt, sumV := f.sumV + v,
      sumN := f.sumN + 1, demMax := rmax f.demMax dem } }

/-- The sums from which a group's efficiency is measured. -/
def effStep (s : State) (f : Feed) : State :=
  let l := modulesOf s f
  let pout := sumOf l fun n => (ctl s n).nowP
  let pin := sumOf l fun n => (ctl s (partner n)).nowP
  setFeed s f { (feedSt s f) with effIn := (feedSt s f).effIn + pin, effOut := (feedSt s f).effOut + pout }

/-- The group efficiency of the interval that ends: none below 1 % of the group's available capacity. -/
def effSeam (s : State) (f : Feed) : State :=
  let x := feedSt s f
  let n : Rat := (s.flow.sumN : Nat)
  let ok := decide (0 < n) && decide (groupCapacity s f / 100 * n < x.effIn) && decide (0 < x.effIn)
  setFeed s f { x with eff := if ok then q40 (x.effOut / x.effIn) else x.eff, effIn := 0, effOut := 0 }

/-- The first activation of a feed (R233). -/
def firstActive (s : State) : State :=
  let ok (f : Feed) : Bool := shownPresent s f && (modulesOf s f).any (available s)
  if s.flow.everActive then s
  else
    let pick : Option Feed := if ok .A && ok .B then some (preferred s) else if ok .A then some .A
      else if ok .B then some .B else none
    match pick with
    | some f => { s with flow := { s.flow with active := some f, everActive := true } }
    | none => s

/-- Loss of a feed during a planned transfer (R236), and of a feed restarted in hold-up (R241). -/
def xferLoss (s : State) : State :=
  match s.flow.ramp with
  | none =>
    match s.flow.restarted with
    | some f =>
      if feedUp s f then s
      else if inHoldup s && s.flow.rampDone then
        { s with flow := { s.flow with active := none, restarted := none, rampDone := false } }
      else { s with flow := { s.flow with restarted := none } }
    | none => s
  | some r =>
    if r.kind = 1 then
      let inLost := !feedUp s r.incoming
      let outLost := !feedUp s (otherFeed r.incoming)
      if inLost && outLost then s
      else if inLost then
        let x := shareOf s (otherFeed r.incoming)
        let back : XferRamp :=
          { kind := 5, incoming := otherFeed r.incoming, start := x, done := 0, all := rampRounds s }
        flowStick { s with flow := { s.flow with bridging := true, ramp := some back } } 2
      else if outLost then
        let on : XferRamp := { r with kind := 2 }
        flowStick { s with flow := { s.flow with state := 2, bridging := true, ramp := some on } } 1
      else s
    else if r.kind = 4 && !feedUp s r.incoming then
      { s with flow := { s.flow with state := 3, active := none, ramp := none, restarted := none } }
    else s

/-- A feed whose ANGLE_VALID rises in hold-up is restarted (R241). -/
def feedRestart (s : State) : State :=
  let rose (f : Feed) : Bool := shownAngle s f && !(match f with | .A => s.flow.sawA | .B => s.flow.sawB)
  if s.flow.state = 3 && s.flow.restarted.isNone then
    let pick : Option Feed := if rose .A && rose .B then some (preferred s) else if rose .A then some .A
      else if rose .B then some .B else none
    match pick with
    | some f => { s with flow := { s.flow with
        state := 4, active := some f, restarted := some f,
        ramp := some { kind := 4, incoming := f, start := 0, done := 0, all := rampRounds s } } }
    | none => s
  else s

/-- Counts of a round: ramps, unshed ramps, hold-up time, collapse, hard cap time, slots. -/
def flowCount (s : State) : State :=
  let f := s.flow
  let uv := cfgF s 0x2503 2
  let ok := f.vFormed && decide (uv ≤ f.vBus)
  let low := f.vFormed && decide (f.vBus < uv)
  { s with flow := { f with
      ramp := f.ramp.map fun r => { r with done := r.done + 1 },
      holdTime := if inHoldup s then q40 (f.holdTime + s.wheel.tRound) else f.holdTime,
      collapseRun := if low then f.collapseRun + 1 else if ok then 0 else f.collapseRun,
      collapseArmed := f.collapseArmed || ok, slotRounds := f.slotRounds + 1,
      sawA := shownAngle s .A, sawB := shownAngle s .B } }

/-- What the round's target says of the cap and of the battery (R225, R239, R246, R251). -/
def shortStep (s : State) : State :=
  let f := s.flow
  let weak := inHoldup s && decide (f.disMax < f.pDem)
  let s := if f.capShort && capRuns s then flowStick s 8 else s
  let s := if weak then flowStick s 7 else s
  { s with flow := { s.flow with
      shortRounds := if f.capShort || weak then f.shortRounds + 1 else f.shortRounds,
      hardTime := if f.capShort && decide (cfg s 0x2505 5 ≤ f.duty) then q40 (f.hardTime + s.wheel.tRound) else 0 } }

/-- What the rack modules left undone in the round that ends (notes/assumptions/6.md). -/
def flowCatchUp (s : State) : State :=
  let s := if holdRuns s && collapseDue s then collapseNow s else s
  let s := if feedRuns s && xferRampDue s then xferRampNow s else s
  let s := if feedRuns s && suddenDue s then suddenNow s else s
  let s := if holdRuns s && holdupDue s then holdupNow s else s
  let s := if holdRuns s && warningDue s then warningNow s else s
  let s := if shareRuns s && s.flow.shedWant then shedNow s else s
  let s := if capRuns s && tapStepDue s then tapStepNow s else s
  if capRuns s && slotDue s then slotNow s else s

/-- The feeds in a round: losses, restarts, the ramp, the end of hold-up and the first activation (R233 to R242). -/
def feedRound (s : State) : State :=
  let s := if feedRuns s then xferLoss s else s
  let s := flowCount (if holdRuns s then feedRestart s else s)
  let s := { s with flow := { s.flow with owned := s.flow.ramp.isSome } }
  let s := if holdRuns s && holdupEndDue s then holdupEnd s else s
  if feedRuns s then firstActive (setShed s) else s

/-- The unshed ramps and the unshed path of a round (R232). -/
def unshedRound (s : State) : State :=
  unshedStep (forAll (portsOf s 2) (fun s n => updCtl s n fun c => { c with
    unshedRamp := if c.unshedRamp < 64 then c.unshedRamp + 1 else 64 }) s)

/-- The rack modules in a round; the ports' commands are formed after it. -/
def flowRound (s : State) : State :=
  if !rackRuns s then s
  else
    let s := feedRound (effStep (effStep (balance s) .A) .B)
    let s := if shareRuns s then unshedRound s else s
    let s := shortStep (flowShare s)
    setPfw (if capRuns s then setThrottle s else s)

/-- The rack modules at a seam (R231, R234, R246, R249, R250). -/
def flowSeam (s : State) : State :=
  if !rackRuns s then s
  else
    let s := effSeam (effSeam s .A) .B
    let s := capSeam (if shareRuns s then shedSeam s else s)
    let f := s.flow
    let n : Rat := (f.sumN : Nat)
    let avg (x : Rat) (old : Word) : Word := if f.sumN = 0 then old else f32Of (x / n)
    let s := { s with flow := { f with
        avgIn := avg (f.sumIn / 1000) f.avgIn, avgLoad := avg (f.sumLoad / 1000) f.avgLoad,
        avgBatt := avg (f.sumBatt / 1000) f.avgBatt, avgV := avg f.sumV f.avgV,
        sumIn := 0, sumLoad := 0, sumBatt := 0, sumV := 0, sumN := 0, shortRounds := 0, demMax := 0 } }
    if feedRuns s then xferSeam s else s

/-- RESYNC_LEFT in s (0x2500.04). -/
def resyncLeft (s : State) : Rat :=
  match s.flow.active with
  | some f => rmax 0 (cfgF s 0x2501 3 - (feedSt s (otherFeed f)).presentTime)
  | none => 0

/-- Unshed modules of the active feed (0x2500.0A). -/
def unshedCount (s : State) : Nat :=
  match s.flow.active with
  | some f => ((modulesOf s f).filter (available s)).length
  | none => 0

/-- Bits of 0x2500.10 whose cause is still present (R9). -/
def flowCauses (s : State) : Word :=
  let f := s.flow
  let weak := inHoldup s && decide (f.disMax < f.pDem)
  setBitIf (inHoldup s) (setBitIf (inHoldup s && f.pfw) (setBitIf weak (setBitIf f.capShort
    (setBitIf (decide (0 < f.duty)) (setBitIf (decide (0 < f.tapSteps)) 0 10) 9) 8) 7) 4) 3

/-- A W1C write of 0x2500.10 (R251). -/
def flowStickyWrite (s : State) (v : Word) : Nat × State :=
  (stOK, { s with flow := { s.flow with
    sticky := clearBits s.flow.sticky (clearBits (v &&& 0x7FF) (flowCauses s)) } })

end Sys2Proof.Machine
end

