-- ==== Sys2Proof/Machine/Recorder.lean ====
section
/-! DEFINITION. The recorder (13): flushes into the record ring, checkpoints, folds of the tallies, the power-fail detect,
the trace ring and its slots, and freeze (R354 to R379, R426, R436). -/
namespace Sys2Proof.Machine

/-! ### The record ring (R367, R370, R371) -/

/-- Size of the record ring and where it stands in MRAM (R354). -/
def ringSize : Nat := 4194304
/-- MRAM offset of the record Pocket (R354). -/
def ringBase : Nat := 0x01900000

/-- The ring as flushes change it: MRAM, records held, head offset, free values drawn. -/
structure RingSt where
  mram : Mem
  held : List (Nat × Nat × Word)
  head : Nat
  draws : Nat
  deriving DecidableEq, Repr

/-- Records that a stretch of the ring does not overwrite. -/
def keepHeld (l : List (Nat × Nat × Word)) (o n : Nat) : List (Nat × Nat × Word) :=
  l.filter fun x => decide (x.1 + x.2.1 ≤ o) || decide (o + n ≤ x.1)

/-- The bytes of a PAD record: its code and its length are given, the rest is free (R370). -/
def padBytes (draws n : Nat) : List Byte :=
  (List.range n).map fun k =>
    if k = 4 ∨ k = 5 then 0
    else if k = 6 ∨ k = 7 then ((leBytes 2 n)[k - 6]?).getD 0
    else (Config.freeWord (draws + k)).setWidth 8

/-- Writes one record; one that would cross the end of the ring is preceded by a PAD and starts at offset 0 (R370). -/
def ringPut (g : RingSt) (r : Rec) : RingSt :=
  let n := r.bytes.length
  let g := if g.head + n ≤ ringSize then g
    else
      let k := ringSize - g.head
      { mram := mwrite g.mram (ringBase + g.head) (padBytes g.draws k), held := keepHeld g.held g.head k, head := 0,
        draws := g.draws + k }
  { g with
    mram := mwrite g.mram (ringBase + g.head) r.bytes, held := keepHeld g.held g.head n ++ [(g.head, n, r.seq)],
    head := g.head + n }

/-- The ring with the buffer laid into it, as the host reads it (R371). -/
def ringOver (s : State) : RingSt :=
  let r := s.recorder
  r.buffer.foldl ringPut { mram := s.mram, held := r.held, head := r.head, draws := s.draws }

/-- A flush: whole records in SEQ order (R367). -/
def flushNow (s : State) (us : Nat) : State :=
  let g := ringOver s
  let r := s.recorder
  { s with
    mram := g.mram, draws := g.draws,
    recorder := { r with
      held := g.held, head := g.head, buffer := [], flushTime := Nat.min us 0xFFFF,
      oldest := ((g.held.head?).map fun x => x.2.2).getD 0 } }

/-- The Collar firmware runs (R406, R412). -/
def collarRuns (s : State) : Bool := s.boot.collarUp && !s.boot.restarting

/-- A flush is due: a critical record, or half the buffer full (R367). -/
def flushDue (s : State) : Bool :=
  s.recorder.buffer.any (fun r => critical r.code) || decide (131072 ≤ bufferFill s.recorder.buffer)

/-- FLUSH, with its duration in µs (R367). -/
def execFlush (us : Nat) (s : State) : Out := .next (if collarRuns s && flushDue s then flushNow s us else s)

/-! ### Folds of the tallies (R357 to R360) -/

/-- The copy in use: valid, with the higher GENERATION (R359). -/
def newerIsA (r : Recorder) : Bool :=
  if r.copyA.valid && r.copyB.valid then decide (r.copyB.generation ≤ r.copyA.generation) else r.copyA.valid
/-- The copy in use. -/
def newerCopy (r : Recorder) : TallyCopy := if newerIsA r then r.copyA else r.copyB

/-- A round stamp as operating hours, at the present length of a round (R358). -/
def stampHours (s : State) (round : Word) : Word :=
  let back := ((s.wheel.round - round).toNat : Rat) * roundTime s
  BitVec.ofNat 32 (rmax 0 (mkRat (hoursNow s : Nat) 65536 - back)).floor.toNat

/-- Merges a staged slot into a slot of the copy (R76, R358). -/
def foldExt (s : State) (c : ExtCopy) (x : Ext) : ExtCopy :=
  let c := if fCmp x.min c.min < 0 then
      { c with min := x.min, minHours := stampHours s x.minRound, minCycle := s.boot.cycles } else c
  if 0 < fCmp x.max c.max then
    { c with max := x.max, maxHours := stampHours s x.maxRound, maxCycle := s.boot.cycles } else c

/-- The tally keys of a pack's port (R274, R360). -/
def packBin (n key : Nat) : Bool :=
  key / 1536 == n / 8 && decide (1024 + 32 * (n % 8) ≤ key % 1536) && decide (key % 1536 < 1056 + 32 * (n % 8))
/-- The slot keys of a pack's port. -/
def packSlot (n key : Nat) : Bool :=
  key / 128 == n / 8 && decide (96 + 4 * (n % 8) ≤ key % 128) && decide (key % 128 < 100 + 4 * (n % 8))

/-- Clears the tallies of a pack in a copy (R360). -/
def wipeCopy (c : TallyCopy) (x : Nat × Option Nat) : TallyCopy :=
  let c := { c with soc := c.soc.filter fun y => y.1 / 16 != x.1 }
  match x.2 with
  | none => c
  | some n => { c with
      bins := c.bins.filter fun y => !packBin n y.1,
      exts := c.exts.filter fun y => !packSlot n y.1 }

/-- A bin of a copy saturates at 2⁶⁴ − 1 (R358). -/
def addBin (t : Tab Nat) (k v : Nat) : Tab Nat := tset 0 t k (Nat.min (tget 0 t k + v) (2 ^ 64 - 1))

/-- A fold: the copy with the lower GENERATION becomes the newer copy plus the staging area (R358). -/
def foldNow (s : State) : State :=
  let r := s.recorder
  let c := r.wipe.foldl wipeCopy (newerCopy r)
  let c : TallyCopy :=
    { bins := r.stageBins.foldl (fun t x => addBin t x.1 x.2.toNat) c.bins,
      exts := r.stageExts.foldl (fun t x => tset {} t x.1 (foldExt s (tget {} t x.1) x.2)) c.exts,
      soc := r.stageSoc.foldl (fun t x => addBin t x.1 x.2) c.soc,
      invalid := (c.invalid ++ r.stageInvalid).eraseDups,
      generation := c.generation + 1, foldHours := BitVec.ofNat 32 s.boot.hours, foldCycle := s.boot.cycles, valid := true }
  let toB := newerIsA r
  { s with recorder := { r with
      copyA := if toB then r.copyA else c, copyB := if toB then c else r.copyB,
      stageBins := [], stageExts := [], stageInvalid := [], stageSoc := [], wipe := [],
      lastFold := some (hoursNow s) } }

/-- A write of FOLD (R358). -/
def foldWrite (s : State) (v : Nat) : Nat × State :=
  if v = 0 then (stOK, s)
  else
    match s.recorder.lastFold with
    | some t => if hoursNow s < t + 16 * 65536 then (stState, s) else (stOK, foldNow s)
    | none => (stOK, foldNow s)

/-! ### Checkpoints and power-fail (R368, R426, R436) -/

/-- A checkpoint goes into the next slot of the ring (R426). -/
def checkpointNow (s : State) (cause : Nat) : State :=
  let r := s.recorder
  let cp : Checkpoint :=
    { seq := r.cpSeq + 1, hours := s.boot.hours, frac := s.boot.hoursFrac, cause := cause, cycles := s.boot.cycles.toNat,
      clock := s.boot.aoClock, energy := s.ctls.map fun x => (x.1, (x.2.energyFwd, x.2.energyRev)), packs := s.shelf.packs }
  { s with recorder := { r with cpSeq := r.cpSeq + 1, checkpoints := tput r.checkpoints (r.cpSeq % 64) cp } }

/-- CHECKPOINT: operating hours cross a multiple of 64 s; the buffer is flushed and the tallies are folded (R358, R367,
R426). -/
def execCheckpoint (s : State) : Out :=
  .next (if collarRuns s && !s.boot.frozen then foldNow (flushNow (checkpointNow s 0) s.recorder.flushTime) else s)

/-- POWER_FAIL_DETECT: record, flush, checkpoint, in this order; a flush beyond 3 ms sets FLUSH_LATE (R368, R436). -/
def execPowerFailDetect (rail : Byte) (us : Nat) (s : State) : Out :=
  .next (if collarRuns s then
    let s := flushNow (addRecord s 0x0002 s.wheel.round [rail]) us
    let s := if 3000 < us then { s with recorder := { s.recorder with sticky := setBit s.recorder.sticky 7 } } else s
    checkpointNow s 1
  else s)

/-- A write of LOCATE: the ring offset of a record for a session, or 0xFFFF_FFFF (R371). -/
def locateNow (s : State) (session : Nat) (v : Word) : State :=
  match tfind s.net.sessions session with
  | none => s
  | some x =>
    let at_ := ((ringOver s).held.find? fun r => r.2.2 == v).map fun r => BitVec.ofNat 32 r.1
    { s with net := { s.net with sessions := tput s.net.sessions session { x with locate := at_.getD 0xFFFFFFFF } } }

/-- LOCATE (R371). -/
def execLocate (session : Nat) (v : Word) (s : State) : Out := .next (locateNow s session v)

/-! ### Trace (R372 to R375) -/

/-- FLAGS of a trace entry (R372). -/
def traceFlags (l : Link) : Nat :=
  let up (k : Nat) : Nat := if l.frameOk then b2n (hasBit l.upHeader k) else 0
  let down (k : Nat) : Nat := if l.driving then b2n (hasBit l.hdr k) else 0
  down 10 * 128 + down 30 * 64 + up 20 * 32 + up 28 * 16 + up 29 * 8
    + (if l.frameOk then 1 else if l.crcErr then 2 else 4)

/-- The entry of a port for the round that ends (R372). -/
def traceEntry (s : State) (n : Nat) : List Byte :=
  let l := link s n
  if !l.frameOk then leBytes 1 (traceFlags l) ++ List.replicate 15 0
  else
    let pick := (bitsOf (pcfg s n 0x25) 12).take 6
    let samples := (pick.map fun k => leBytes 2 (leAt l.upRt (4 + 2 * k) 2)).flatten
    let h := l.upHeader.toNat
    leBytes 1 (traceFlags l) ++ leBytes 1 (h / 2 ^ 22 % 64 + h / 2 ^ 30 * 64) ++ leBytes 2 (leAt l.upRt 0 2)
      ++ sliceB samples 0 12

/-- Bytes of a round in the ring. -/
def traceRow : Nat := 4096

/-- The link hardware writes the entries of the round that ends (R372). -/
def traceWrite (s : State) : State :=
  let r := s.recorder
  if r.traceState == 0 || (r.traceState == 1 && r.postLeft != 0) then
    let base := s.wheel.round.toNat % 512 * traceRow
    let new := (allPorts.map fun n =>
      (((traceEntry s n).zipIdx.map fun b => (base + 16 * n + b.2, b.1)).filter fun c => c.2 != 0)).flatten
    let old := r.trace
    { s with recorder := { r with
        trace := (old.filter fun c => c.1 < base) ++ new ++ (old.filter fun c => base + traceRow ≤ c.1),
        postLeft := if r.traceState = 1 then r.postLeft - 1 else r.postLeft,
        lastRound := if r.traceState = 1 then s.wheel.round else r.lastRound } }
  else s

/-- The ring is to be held (R373). -/
def traceHoldDue (s : State) : Bool := s.recorder.traceState == 1 && s.recorder.postLeft == 0

/-- TRACE_HOLD (R373). -/
def traceHoldNow (s : State) : State := { s with recorder := { s.recorder with traceState := 2 } }

/-- TRACE_HOLD (R373). -/
def execTraceHold (s : State) : Out := .next (if traceHoldDue s then traceHoldNow s else s)

/-- MRAM offset of a trace slot (R354, R374). -/
def slotAddr (len k : Nat) : Nat := 0x01D00000 + k * len * traceRow

/-- The slot that takes the window: the next free one in turn, else the oldest (R355, R374). -/
def nextSlot (r : Recorder) : Nat :=
  let count := slotCount r.lenNow
  let from_ := ((r.slotAge.getLast?).map (· + 1)).getD 0
  let turn := (List.range count).map fun j => (from_ + j) % count
  match turn.find? fun k => !r.slots.contains k with
  | some k => k
  | none => (r.slotAge.head?).getD 0

/-- TRACE_COPY: the held window goes to its slot, TRACE_SAVED is recorded and the ring resumes (R374). -/
def traceCopyNow (s : State) : State :=
  let r := s.recorder
  let k := nextSlot r
  let len := r.lenNow
  let first := r.lastRound - BitVec.ofNat 32 (len - 1)
  let a := slotAddr len k
  let cells := r.trace.filterMap fun c =>
    let idx := (c.1 / traceRow + 512 - first.toNat % 512) % 512
    if idx < len then some (a + idx * traceRow + c.1 % traceRow, c.2) else none
  let mram := cells.foldl (fun m c => mset m c.1 c.2) (mclear s.mram a (a + len * traceRow))
  let s := { s with
    mram := mram,
    recorder := { r with
      traceState := 0, slots := if r.slots.contains k then r.slots else r.slots ++ [k],
      slotAge := (r.slotAge.filter fun j => j != k) ++ [k], slotFirst := tput r.slotFirst k first } }
  addRecord s 0x0060 s.wheel.round (leBytes 1 k ++ wordBytes first ++ wordBytes r.trigRound ++ leBytes 1 r.trigSrc)

/-- TRACE_COPY (R374). -/
def execTraceCopy (s : State) : Out := .next (if s.recorder.traceState == 2 && collarRuns s then traceCopyNow s else s)

/-- A write of TRACE_NOW (R373). -/
def traceNowWrite (s : State) (v : Nat) : Nat × State := if v = 0 then (stOK, s) else (stOK, trigger s 3)

/-- A write of RELEASE frees a slot (R374, R378). -/
def releaseWrite (s : State) (v : Nat) : Nat × State :=
  if slotCount s.recorder.lenNow ≤ v then (stRange, s)
  else (stOK, { s with recorder := { s.recorder with
    slots := s.recorder.slots.filter fun k => k != v, slotAge := s.recorder.slotAge.filter fun k => k != v } })

/-- TRACE_LEN takes effect at its seam and frees every slot (R375). -/
def traceLenNow (s : State) (v : Nat) : State :=
  { s with recorder := { s.recorder with lenNow := v, slots := [], slotAge := [], slotFirst := [] } }

/-! ### Freeze (R376, R377) -/

/-- The controller begins to freeze: from now on the headers carry HEM = 1 (R376). -/
def freezeStart (s : State) (src : Nat) : State :=
  if s.boot.freezing != 0 || s.boot.frozen || s.boot.recovery then s
  else { s with boot := { s.boot with freezing := 1, freezeSrc := src } }

/-- FREEZE_N: a low level of at least 40 ns (R376). -/
def execFreezeN (low : Bool) (s : State) : Out := .next (if low then freezeStart s 0 else s)

/-- A write of FREEZE (R376). -/
def freezeWrite (s : State) (v : Nat) : Nat × State := if v = 0 then (stOK, s) else (stOK, freezeStart s 1)

/-- The tick at which every wheel-domain clock stops; the FREEZE record is written (R376, R377). -/
def freezeStop (s : State) : State :=
  let s := { s with
    boot := { s.boot with frozen := true, frozenRound := s.wheel.round },
    recorder := { s.recorder with traceState := 3 } }
  addRecord s 0x0003 s.wheel.round (leBytes 1 s.boot.freezeSrc ++ wordBytes s.wheel.round)

/-- A W1C write of 0x2800.0C (R379). -/
def recStickyWrite (s : State) (v : Word) : Nat × State :=
  (stOK, { s with recorder := { s.recorder with sticky := clearBits s.recorder.sticky (v &&& 0x1FF) } })

end Sys2Proof.Machine
end

