-- ==== Sys2Proof/Machine/Periph.lean ====
section
/-! DEFINITION. Two-wire controllers, timers and GPIO (14): R380 to R398, R403 to R405. -/
namespace Sys2Proof.Machine

/-! ### Two-wire controllers (R380 to R389) -/

/-- Two-wire controller c. -/
def twc (s : State) (c : Nat) : Tw := tget {} s.tws c
/-- Updates two-wire controller c. -/
def updTw (s : State) (c : Nat) (f : Tw → Tw) : State := { s with tws := tset {} s.tws c (f (twc s c)) }

/-- ENABLE of CTRL (R387). -/
def twEnabled (t : Tw) : Bool := hasBit t.ctrl 0
/-- A transaction runs: the head of the queue (R380). -/
def twRuns (t : Tw) : Bool := twEnabled t && !t.queue.isEmpty

/-- Status of a write of XFER (R183, R380, R387). -/
def xferStatus (t : Tw) (x : Xfer) : Nat :=
  if x.timeout.toNat = 0 ∨ 1000 < x.timeout.toNat ∨ 255 < x.wdata.length then stRange
  else if !twEnabled t || decide (4 ≤ t.queue.length) then stState
  else stOK

/-- A write of XFER queues a transaction under the next XFER_ID (R380). -/
def twXferWrite (s : State) (c : Nat) (x : Xfer) : Nat × State :=
  let st := xferStatus (twc s c) x
  (st, if st = stOK then updTw s c fun t => { t with count := t.count + 1, queue := t.queue ++ [(t.count + 1, x)] } else s)

/-- The timing in force, in units of 10 ns: LOW, HIGH, SETUP, HOLD and the samples of the filter (R381, R382). -/
def twTiming (t : Tw) : Nat × Nat × Nat × Nat × Nat :=
  if hasBit t.ctrl 11 then (t.div, t.div, t.div / 2, t.div / 4, t.ctrl.toNat / 2 ^ 14 % 16 + 1)
  else (t.scl.toNat / 65536, t.scl.toNat % 65536, t.data.toNat / 65536, t.data.toNat % 65536, 5)

/-- The SCL period in ns for a rise time of the bus in ns (R381, R382). -/
def twPeriod (t : Tw) (rise : Nat) : Nat :=
  let x := twTiming t
  (x.1 + x.2.1 + x.2.2.2.2) * 10 + rise

/-- RESULT of a completed transaction: XFER_ID, 2 reserved bytes and the TW_RESULT of R183 (R380). -/
def twResultBytes (id : Word) (status : Byte) (rdata : List Byte) : List Byte :=
  leBytes 2 id.toNat ++ [0, 0, status] ++ leBytes 1 rdata.length ++ [0, 0] ++ rdata

/-- A CTRL, timing or divider value takes effect (R383, R387). -/
def twApply (t : Tw) (sub : Nat) (v : Word) : Tw :=
  if sub = 1 then
    let t := { t with ctrl := v &&& 0x00FFFC01 }
    if hasBit t.ctrl 10 && t.alert then { t with sticky := setBit t.sticky 2 } else t
  else if sub = 2 then { t with scl := v }
  else if sub = 3 then { t with data := v }
  else { t with div := v.toNat % 65536 }

/-- The transaction that runs ends after its STOP, which leaves both lines high unless the bus is stuck; writes that waited for
it take effect (R380, R383, R385, R388). -/
def twEnd (t : Tw) (status : Byte) (rdata : List Byte) : Tw :=
  match t.queue with
  | [] => t
  | (id, x) :: rest =>
    let st := twStatus x status
    let k := st.toNat
    let t := { t with
      queue := rest, result := twResultBytes id st (twData x st rdata), sda := k != 6, scLine := true,
      sticky := setBitIf (k == 5) (setBitIf (k == 1 || k == 2) (setBitIf (k == 6) t.sticky 0) 3) 4 }
    t.later.foldl (fun t w => twApply t w.1 w.2) { t with later := [] }

/-- TW_TRANSACTION_DONE (R380). -/
def execTwTransactionDone (c : TwId) (status : TwStatus) (rdata : List Byte) (s : State) : Out :=
  .next (if twRuns (twc s c) then updTw s c fun t => twEnd t status rdata else s)

/-- STRETCH_TIMEOUT: SCL and SDA are released and the transaction ends with TIMEOUT (R384). -/
def execStretchTimeout (c : TwId) (s : State) : Out :=
  .next (if twRuns (twc s c) then updTw s c fun t =>
    let t := twEnd t 4 []
    { t with sticky := setBit t.sticky 1, sda := true, scLine := true }
  else s)

/-- A bus clear, and whether SDA is high after its STOP (R385). -/
def busClear (t : Tw) (sda : Bool) : Tw :=
  { t with clears := t.clears + 1, sda := sda, scLine := true, sticky := setBitIf (!sda) t.sticky 0 }

/-- A write of CLEAR: a bus clear while the controller is idle; ignored while a transaction runs (R383, R385). -/
def clearWrite (s : State) (c : Nat) (sda : Bool) : Nat × State :=
  (stOK, if twRuns (twc s c) then s else updTw s c fun t => busClear t sda)

/-- TW_ALERT: the level of TW_ALERTc_N (R386). -/
def execTwAlert (c : TwId) (low : Bool) (s : State) : Out :=
  .next (updTw s c fun t => { t with
    alert := low, sticky := setBitIf (low && hasBit t.ctrl 10) t.sticky 2 })

/-- The value of a timing object that the latest accepted write gives (R448). -/
def twLatest (t : Tw) (sub : Nat) : Word :=
  match (t.later.filter fun w => w.1 == sub).getLast? with
  | some w => w.2
  | none => if sub = 2 then t.scl else t.data

/-- Status of a write of CTRL, SCL_TIMING, DATA_TIMING or COMPAT_DIV (R381, R387, R389). -/
def twCtrlStatus (t : Tw) (sub : Nat) (v : Word) : Nat :=
  let fits (scl data : Word) : Bool :=
    decide (10 ≤ scl.toNat % 65536) && decide (data.toNat / 65536 + data.toNat % 65536 + 4 ≤ scl.toNat / 65536)
  if sub = 1 then (if v.toNat / 4096 % 4 = 3 then stRange else stOK)
  else if sub = 2 then (if fits v (twLatest t 3) then stOK else stRange)
  else if sub = 3 then (if fits (twLatest t 2) v then stOK else stRange)
  else if 10 ≤ v.toNat ∧ v.toNat ≤ 4095 then stOK else stRange

/-- A write of CTRL, SCL_TIMING, DATA_TIMING or COMPAT_DIV; while a transaction runs it waits for its STOP, but for CLEAR,
which is ignored then (R383). What SDA reads after a clear begun here is free. -/
def twCtrlWrite (s : State) (c sub : Nat) (v : Word) : Nat × State :=
  let st := twCtrlStatus (twc s c) sub v
  if st ≠ stOK then (st, s)
  else if twRuns (twc s c) then (stOK, updTw s c fun t => { t with later := t.later ++ [(sub, v)] })
  else
    let s := updTw s c fun t => twApply t sub v
    if sub = 1 && hasBit v 1 then
      let (b, s) := drawBool s
      (stOK, updTw s c fun t => busClear t b)
    else (stOK, s)

/-- STATUS of a two-wire controller (R388). -/
def twStatusWord (t : Tw) : Word :=
  setBitIf t.scLine (setBitIf t.sda (setBitIf t.alert (t.sticky ||| BitVec.ofNat 32 (Nat.min t.queue.length 4 * 65536)) 10) 9) 8

/-- A W1C write of STATUS (R9, R388). -/
def twStickyWrite (s : State) (c : Nat) (v : Word) : Nat × State :=
  (stOK, updTw s c fun t =>
    let gone := v &&& 0x1F
    let gone := if t.alert && hasBit t.ctrl 10 then clearBits gone 4 else gone
    let gone := if t.sda then gone else clearBits gone 1
    { t with sticky := clearBits t.sticky gone })

/-! ### Timers (R390 to R398) -/

/-- Timer channel t. -/
def tmr (s : State) (t : Nat) : Timer := tget {} s.timers t
/-- Updates timer channel t. -/
def updTmr (s : State) (t : Nat) (f : Timer → Timer) : State := { s with timers := tset {} s.timers t (f (tmr s t)) }
/-- A field of CTRL (R396). -/
def tcf (x : Timer) (lo n : Nat) : Nat := x.ctrl.toNat / 2 ^ lo % 2 ^ n
/-- ENABLE. -/
def tEnabled (x : Timer) : Bool := hasBit x.ctrl 31
/-- Channel that TRIG_SRC names (R392). -/
def trigSrc (s : State) (t : Nat) : Nat := t / 8 * 8 + tcf (tmr s t) 26 3
/-- The output of a channel: in PWM mode high while the count is below COMPARE (R390). -/
def tOut (x : Timer) : Bool := tcf x 12 2 == 2 && decide (x.count.toNat < x.compare.toNat)

/-- Level of a GPIO pin: what drives it, or what is applied from outside (R403). -/
def pinLevel (s : State) (p : Nat) : Bool :=
  let g := s.gpio
  let func := (tget 0 g.func (p / 8)).toNat / 2 ^ (4 * (p % 8)) % 16
  let out := if func < 2 then g.out.toNat.testBit p else tOut (tmr s p)
  let applied := g.pins.toNat.testBit p
  if s.boot.highZ then applied
  else if func = 0 then (if g.dir.toNat.testBit p then out else applied)
  else if func = 2 then out
  else out && applied

/-- The gates of a channel are open (R392). -/
def gatesOpen (s : State) (t : Nat) : Bool :=
  let x := tmr s t
  let pin := pinLevel s (tcf x 18 6)
  (!hasBit x.ctrl 14 || (pin == hasBit x.ctrl 15)) && (tcf x 29 2 != 1 || tOut (tmr s (trigSrc s t)))

/-- The channel counts in this cycle (R390, R392, R395). -/
def tRuns (s : State) (t : Nat) : Bool := tEnabled (tmr s t) && domainRuns s && gatesOpen s t

/-- Trigger events clock the channel in place of CLK (R392). -/
def trigClocked (s : State) (t : Nat) : Bool := tcf (tmr s t) 29 2 == 3
/-- The wheel tick clocks the channel (R390). -/
def tickClocked (s : State) (t : Nat) : Bool := !trigClocked s t && tcf (tmr s t) 10 2 == 1

/-- Channels of the group that act on an event of a channel (R392). -/
def listeners (s : State) (t evt act : Nat) : List Nat :=
  (List.range 8).filterMap fun j =>
    let u := t / 8 * 8 + j
    let x := tmr s u
    if u != t && tEnabled x && tcf x 29 2 == act && trigSrc s u == t && tcf x 25 1 == evt then some u else none

/-- What happens to a channel: a wrap, a compare event, a reset, an event of its clock. -/
inductive TEvent where
  | wrap | compare | zero | clock
  deriving DecidableEq, Repr

/-- Performs an event of a channel and what it triggers, to a depth of `k` channels (R390 to R392). -/
def tFire : Nat → TEvent → Nat → State → State
  | 0, _, _, s => s
  | k + 1, e, t, s =>
    let raise (evt : Nat) (s : State) : State :=
      let s := (listeners s t evt 2).foldl (fun s u => tFire k .zero u s) s
      (listeners s t evt 3).foldl (fun s u => if tRuns s u then tFire k .clock u s else s) s
    let x := tmr s t
    match e with
    | .wrap =>
      let s := updTmr s t fun x => { x with
        count := 0, period := x.prePeriod, compare := x.preCompare, sticky := setBit x.sticky 0 }
      let s := raise 0 s
      if x.preCompare = 0 then tFire k .compare t s else s
    | .compare => raise 1 (updTmr s t fun x => { x with count := x.compare, sticky := setBit x.sticky 1 })
    | .zero =>
      let s := updTmr s t fun x => { x with count := 0 }
      if x.compare = 0 then tFire k .compare t s else s
    | .clock =>
      if x.presc < tcf x 0 8 then updTmr s t fun x => { x with presc := x.presc + 1 }
      else
        let s := updTmr s t fun x => { x with presc := 0 }
        if x.count = x.period then tFire k .wrap t s
        else
          let s := updTmr s t fun x => { x with count := x.count + 1 }
          if x.count + 1 = x.compare then tFire k .compare t s else s

/-- Depth of trigger chains: the channels of a group, with the events of each. -/
def tDepth : Nat := 24

/-- TIMER_WRAP of a channel whose clock is outside the model's time (R390). -/
def execTimerWrap (t : TimerId) (s : State) : Out :=
  .next (if tRuns s t && !trigClocked s t && !tickClocked s t then tFire tDepth .wrap t s else s)

/-- COMPARE_EVENT of such a channel (R390). -/
def execCompareEvent (t : TimerId) (s : State) : Out :=
  .next (if tRuns s t && !trigClocked s t && !tickClocked s t then tFire tDepth .compare t s else s)

/-- The channels that the wheel tick clocks (R390). -/
def timersTick (s : State) : State :=
  (s.timers.map (·.1)).foldl (fun s t => if tickClocked s t && tRuns s t then tFire tDepth .clock t s else s) s

/-- The count after a number of steps that pass no wrap event; it wraps from PERIOD. -/
def tAdvance (s : State) (t steps : Nat) : State :=
  if tRuns s t && !trigClocked s t && !tickClocked s t then updTmr s t fun x => { x with
    count := BitVec.ofNat 32 ((x.count.toNat + steps) % (x.period.toNat + 1)) }
  else s

/-- CAPTURE_EDGE: the count enters the capture queue; a full queue sets CAP_OVF (R393). -/
def execCaptureEdge (t : TimerId) (steps : Nat) (s : State) : Out :=
  .next (let s := tAdvance s t steps
  let x := tmr s t
  if !tEnabled x || tcf x 12 2 != 1 || !domainRuns s then s
  else if x.caps.length < 4 then updTmr s t fun x => { x with caps := x.caps ++ [x.count] }
  else updTmr s t fun x => { x with sticky := setBit x.sticky 2 })

/-- A read of CAPTURE: the oldest entry, removed, or 0xFFFF_FFFF (R393). -/
def captureRead (s : State) (t : Nat) : Word × State :=
  match (tmr s t).caps with
  | [] => (0xFFFFFFFF, s)
  | c :: rest => (c, updTmr s t fun x => { x with caps := rest })

/-- Channel t and its odd partner form a cascade (R394). -/
def cascade (s : State) (t : Nat) : Bool :=
  t % 2 == 0 && trigClocked s (t + 1) && trigSrc s (t + 1) == t && tcf (tmr s (t + 1)) 25 1 == 0

/-- A read of COUNT; of a cascaded even channel it latches the partner's count (R394). -/
def countRead (s : State) (t : Nat) : Word × State :=
  ((tmr s t).count, if cascade s t then updTmr s (t + 1) fun x => { x with latched := x.count } else s)

/-- A write of COUNT loads the counter (R391). -/
def countWrite (s : State) (t : Nat) (v : Word) : Nat × State :=
  let s := updTmr s t fun x => { x with count := v }
  (stOK, if tRuns s t && (tmr s t).compare == v then tFire tDepth .compare t s else s)

/-- A write of PERIOD or COMPARE goes to the preload register; while the channel is disabled it takes effect at once
(R391). -/
def preloadWrite (s : State) (t : Nat) (isCompare : Bool) (v : Word) : Nat × State :=
  (stOK, updTmr s t fun x =>
    let now := !tEnabled x
    if isCompare then { x with preCompare := v, compare := if now then v else x.compare }
    else { x with prePeriod := v, period := if now then v else x.period })

/-- A write of CTRL (R392, R396). A channel names itself when TRIG_SRC does while TRIG_ACT gives it an act: the reset value of
channel 8g has TRIG_SRC 0 (DEDUCED, notes/assumptions/49.md). -/
def timerCtrlWrite (s : State) (t : Nat) (v : Word) : Nat × State :=
  let n := v.toNat
  if 47 < n / 2 ^ 18 % 64 ∨ n / 2 ^ 16 % 4 = 3 ∨ n / 2 ^ 12 % 4 = 3 ∨ (n / 2 ^ 29 % 4 ≠ 0 ∧ n / 2 ^ 26 % 8 = t % 8) then
    (stRange, s)
  else (stOK, updTmr s t fun x => { x with ctrl := v &&& 0xFFFFFCFF })

/-- STATUS of a timer (R397). -/
def timerStatus (s : State) (t : Nat) : Word :=
  let x := tmr s t
  setBitIf (tRuns s t) (x.sticky ||| BitVec.ofNat 32 (Nat.min x.caps.length 4 * 512)) 8

/-- A W1C write of STATUS (R397). -/
def timerStickyWrite (s : State) (t : Nat) (v : Word) : Nat × State :=
  (stOK, updTmr s t fun x => { x with sticky := clearBits x.sticky (v &&& 0xF) })

/-- Steps that a channel makes up after a sleep of `e` ticks of the 32.768 kHz clock (R395). -/
def makeupSteps (s : State) (x : Timer) (e : Nat) : Nat :=
  let n : Rat := match tcf x 10 2 with
    | 0 => mkRat (e * 100000000 : Nat) 32768
    | 1 => mkRat (e : Nat) 32768 * fNom s * ((s.wheel.w : Nat) : Rat)
    | 3 => (e : Nat)
    | _ => 0
  (n / ((tcf x 0 8 + 1 : Nat) : Rat)).floor.toNat

/-- Adds steps to a channel, modulo PERIOD + 1: WRAP and CMP if crossed (R395); the number of wraps. -/
def makeupAdd (x : Timer) (n : Nat) : Timer × Nat :=
  let m := x.period.toNat + 1
  let sum := x.count.toNat + n
  let wraps := sum / m
  let cmp := x.compare.toNat
  let crossed := decide (cmp < m) && decide (0 < (sum + m - cmp) / m - (x.count.toNat + m - cmp) / m)
  ({ x with
      count := BitVec.ofNat 32 (sum % m),
      sticky := setBitIf true (setBitIf crossed (setBitIf (decide (0 < wraps)) x.sticky 0) 1) 3 }, wraps)

/-- The make-up of a channel on wake, then of the channels that its wraps clock (R395). -/
def makeup (s : State) (e : Nat) : State :=
  let on (t : Nat) : Bool := tEnabled (tmr s t) && hasBit (tmr s t).ctrl 24
  (s.timers.map (·.1)).foldl (fun s t =>
    if on t && !trigClocked s t then
      let (x, wraps) := makeupAdd (tmr s t) (makeupSteps s (tmr s t) e)
      let s := updTmr s t fun _ => x
      (listeners s t 0 3).foldl (fun s u =>
        if on u then updTmr s u fun y => (makeupAdd y (wraps / (tcf y 0 8 + 1))).1 else s) s
    else s) s

/-! ### GPIO (R403 to R405) -/

/-- The part of a 48-bit register that a sub of 32 bits names. -/
def gpioHalf (hi : Bool) (v : BitVec 48) : Word := if hi then (v >>> 32).setWidth 32 else v.setWidth 32

/-- The bits of a 48-bit register that a value written to a sub names. -/
def gpioBits (hi : Bool) (v : Word) : BitVec 48 := if hi then (v.setWidth 48 &&& 0xFFFF) <<< 32 else v.setWidth 48

/-- Replaces one half of a 48-bit register. -/
def gpioPut (hi : Bool) (old : BitVec 48) (v : Word) : BitVec 48 :=
  if hi then (old &&& 0xFFFFFFFF) ||| gpioBits true v else (old &&& 0xFFFF00000000) ||| gpioBits false v

/-- SET and CLR change only the OUT bits written as 1 (R404). -/
def gpioSet (s : State) (hi : Bool) (v : Word) : Nat × State :=
  (stOK, { s with gpio := { s.gpio with out := s.gpio.out ||| gpioBits hi v } })
/-- A write of CLR (R404). -/
def gpioClr (s : State) (hi : Bool) (v : Word) : Nat × State :=
  (stOK, { s with gpio := { s.gpio with out := s.gpio.out &&& ~~~(gpioBits hi v) } })

/-- A write of FUNC of pins 8k to 8k + 7 (R403). -/
def gpioFunc (s : State) (k : Nat) (v : Word) : Nat × State :=
  if (List.range 8).any fun j => decide (3 < v.toNat / 2 ^ (4 * j) % 16) then (stRange, s)
  else (stOK, { s with gpio := { s.gpio with func := tset 0 s.gpio.func k v } })

/-- Levels of all pins. -/
def gpioIn (s : State) : BitVec 48 :=
  BitVec.ofNat 48 ((List.range 48).foldl (fun a p => if pinLevel s p then a + 2 ^ p else a) 0)

end Sys2Proof.Machine
end

