-- ==== Sys2Proof/Machine/Pair.lean ====
section
/-! DEFINITION. The redundant pair (11): arbitration, mirror and joining, digests, takeover, handover (R303 to R325). -/
namespace Sys2Proof.Machine

/-- Sets a bit of 0x2200.0E. -/
def pairStick (s : State) (b : Nat) : State := { s with pair := { s.pair with sticky := setBit s.pair.sticky b } }
/-- The unit follows its mate's rounds in shadow: HOT, or joining from J+5 on (R311, R315). -/
def inShadow (s : State) : Bool :=
  s.pair.role == .hot || (s.pair.role == .joining && match s.pair.join with | some k => decide (5 ≤ k) | none => false)
/-- The mate commands, as far as known. -/
def mateCommands (s : State) : Bool := s.pair.mateRole == some .active || s.pair.mateRole == some .solo
/-- Sends a CTRL record to the mate (R308, R313). -/
def sendCtrl (s : State) (c : Ctrl) : State :=
  if s.pair.role == .active && s.pair.link == 2 then { s with pair := { s.pair with sentCtrl := s.pair.sentCtrl ++ [c] } }
  else s

/-- The HELLO of this unit (R308). -/
def ownHello (s : State) : Hello :=
  { unit := s.pair.unit, role := s.pair.role, ident := s.pat.run.ident, version := s.pat.run.version,
    crcSection := crcSection s.pat.run, cfgDigest := Config.cfgDigest s.cfg, seam := s.wheel.seam }

/-- Sends a record to the mate (R308). -/
def sendRec (s : State) (r : MateRec) : State :=
  if s.pair.link == 2 && !s.boot.highZ then { s with pair := { s.pair with sent := s.pair.sent ++ [r] } } else s

/-- The mate's role becomes known: a mate that joins starts the sweep, one that no longer does ends it (R310, R311). -/
def mateRoleIs (s : State) (r : Role) : State :=
  let p := s.pair
  { s with pair := { p with
      mateRole := some r,
      sweepNext := if r == .joining then (if p.mateRole == some .joining then p.sweepNext else some 0) else none,
      sweepSl := if r == .hot || r == .joining then p.sweepSl else [] } }

/-- A role that the mate has not been told of yet is sent to it (R308). -/
def tellRole (s : State) : State :=
  if s.pair.told == s.pair.role then s
  else
    let s := { s with pair := { s.pair with told := s.pair.role } }
    if s.pair.link == 2 then { s with pair := { s.pair with sentCtrl := s.pair.sentCtrl ++ [.role s.pair.role] } } else s

/-- The copy of the identity and configuration Pocket that an ACTIVE sends to its mate once, before the mate's seam J
(R313). -/
def sendCopy (s : State) : State :=
  if s.pair.role != .active || s.pair.link != 2 || s.pair.copied then s
  else
    let text := (s.net.levelKeys.map fun x => Ctrl.bytes 0x1200 x.1 x.2)
      ++ (s.net.imageKeys.map fun x => Ctrl.bytes 0x1210 x.1 x.2) ++ s.net.labels.map fun x => Ctrl.bytes (0x3200 + x.1) 11 x.2
    let vals := (s.cfg.filter fun x => x.1 != okey 0x2201 1).map fun x => Ctrl.config (x.1 / 256) (x.1 % 256) x.2
    { s with pair := { s.pair with copied := true, sentCtrl := s.pair.sentCtrl ++ vals ++ text } }

/-! ### Wheel mode by role (R306) -/

/-- WHEEL_MODE in force: the configured one in SOLO and ACTIVE and until arbitration has ended, SYNC in every other role
(R306, R411; DEDUCED, notes/assumptions/23.md). -/
def roleMode (s : State) : Nat :=
  if commands s || !s.pair.settled || s.pair.activeAtSeam then cfg s 0x2001 1 else 1

/-- A change of the wheel mode: a lead change (R46, R306); a LOCKED wheel that does not meet the criteria for the new
reference goes to REACQUIRE. A wheel that enters SYNC runs on at its tick frequency until the first pulse is placed, and
loses its reference only under R50 (DEDUCED, notes/assumptions/7.md). -/
def setMode (s : State) (m : Nat) : State :=
  if m = s.wheel.mode then s
  else
    let s := { s with wheel := { s.wheel with
        mode := m, syncPresent := false, syncLost := false, syncMissed := 0, syncPlaced := false, syncCycles := 0,
        syncAge := 0, syncFreq := f32Of s.wheel.fTick } }
    if s.wheel.state == .locked && m != 2 && refPresent s then
      let err := phaseError s
      if decide (rabs err < 1 / 2) && decide (rabs (refFreq s - s.wheel.fTick) < 1 / 100) then s
      else wheelTo s .reacquire
    else s

/-! ### Roles (R304) -/

/-- Halts every Sleeve of a unit that joins or is cold (R304). -/
def parkAll (s : State) : State :=
  forAll allSleeves (fun s n => updSleeve s n fun x => { x with halted := true, halting := false, parked := true }) s

/-- Sleeves halted by joining run again, with seed rounds, where no hold keeps them halted (R304, OUT). -/
def unparkAll (s : State) : State :=
  forAll allSleeves (fun s n =>
    if (sleeve s n).parked then
      let s := updSleeve s n fun x => { x with parked := false }
      if s.arr.started && !(sleeve s n).held && !s.hem.held then restartSleeve s n else s
    else s) s

/-- What a unit sends from the tick at which it becomes SOLO or ACTIVE (R410). -/
def startSends (s : State) : State :=
  forAll (linkPorts s) (fun s n =>
    if (link s n).state == .absent || (link s n).state == .training then s else sendStart s n) s

/-- A unit takes a role (R304, R306, R410). -/
def toRole (s : State) (r : Role) : State :=
  if s.pair.role == r then s
  else
    let had := commands s
    let s := { s with pair := { s.pair with
        role := r, nextRole := none, join := if r == .joining then some 0 else none, hotSeams := 0,
        activeAtSeam := false, takeAtSeam := none } }
    let s := match r with
      | .joining => parkAll { s with pair := { s.pair with sweepLines := 0, resync := 0, resyncLines := [] } }
      | .cold => parkAll s
      | .out => unparkAll s
      | _ => s
    let s := setMode s (roleMode s)
    if commands s && !had then startSends s else s

/-! ### Arbitration (R305) -/

/-- The pattern identities of a HELLO differ from this unit's. -/
def helloDiffers (s : State) (h : Hello) : Bool :=
  h.ident != s.pat.run.ident || h.version != s.pat.run.version || h.crcSection != crcSection s.pat.run

/-- Valid uplinks that report OBEYS as a unit: 1 unit 0, 2 unit 1 (R305, R320). -/
def obeyCount (s : State) (code : Nat) : Nat :=
  (s.links.filter fun x => x.2.frameOk && x.2.obeys == code).length

/-- Both units are SOLO: the one that more uplinks report becomes ACTIVE, unit 0 on a tie (R305). -/
def bothSolo (s : State) (h : Hello) : State :=
  let own := obeyCount s (s.pair.unit + 1)
  let mate := obeyCount s (h.unit + 1)
  if decide (mate < own) || (own == mate && s.pair.unit == 0) then toRole s .active
  else
    let s := { s with pair := { s.pair with nextRole := some .out } }
    if helloDiffers s h then pairStick s 3 else s

/-- HELLO (R305, R308). -/
def execHello (h : Hello) (s : State) : Out :=
  .next (if s.pair.link != 2 then s
  else
    let mate := h.role == .solo || h.role == .active
    let s := mateRoleIs s h.role
    let s := { s with pair := { s.pair with
        hello := some h,
        seamOffset := if mate && !commands s then (h.seam.toNat : Int) - s.wheel.seam.toNat else s.pair.seamOffset } }
    if h.unit = s.pair.unit then pairStick { s with pair := { s.pair with settled := true } } 2
    else
      sendCopy <| tellRole <| match s.pair.role with
      | .out =>
        if s.pair.settled then s
        else
          let s := { s with pair := { s.pair with settled := true } }
          if !mate && s.pair.unit == 0 then { s with pair := { s.pair with activeAtSeam := true } }
          else if helloDiffers s h then pairStick s 3
          else s
      | .solo => if mate then bothSolo s h else if helloDiffers s h then s else toRole s .active
      | _ => s)

/-- ARBITRATION_TIMEOUT: no HELLO has arrived (R305). -/
def execArbitrationTimeout (s : State) : Out :=
  .next (if s.pair.settled || s.pair.hello.isSome || s.pair.role != .out then s
  else
    let s := { s with pair := { s.pair with settled := true } }
    if s.pair.unit = 1 && (s.links.any fun x => x.2.frameOk && x.2.obeys == 1) then pairStick s 0
    else toRole s .solo)

/-- MATE_LINK_UP: all lanes are present (R305, R308). -/
def execMateLinkUp (s : State) : Out :=
  .next { s with pair := { s.pair with link := 2, lanes := List.range 8 } }

/-- LANE_DOWN: a JOINING or HOT unit becomes COLD, an ACTIVE unit stays ACTIVE; with the link lost it sets MATE_LOST
(R308, R320). -/
def execLaneDown (lane : Fin 8) (s : State) : Out :=
  .next (let lanes := s.pair.lanes.filter fun k => k != lane.val
  let s := pairStick { s with pair := { s.pair with
      lanes := lanes, link := if lanes.isEmpty then 0 else if s.pair.link = 0 then 0 else 1, copied := false,
      mateRole := if lanes.isEmpty then none else s.pair.mateRole, sweepNext := none, sweepSl := [] } } 1
  let s := if lanes.isEmpty && s.pair.role == .active then pairStick s 0 else s
  if s.pair.role == .joining || s.pair.role == .hot then toRole s .cold else s)

/-! ### Mirror (R307 to R311) -/

/-- WHEEL: the active's block takes the place of the unit's own (R307). -/
def execWheel (block : List Byte) (s : State) : Out :=
  .next (if s.pair.link != 2 || commands s then s
  else { s with
    arr := { s.arr with blkFill := if s.pair.blockLate then s.arr.blkFill else mwrite [] 0 (sliceB block 0 132) },
    pair := { s.pair with wheelGot := true } })

/-- WHEEL_BLOCK_DEADLINE: the own block is used and the round is an input split for every Sleeve (R307). -/
def execWheelBlockDeadline (s : State) : Out :=
  .next (if inShadow s && !s.pair.wheelGot then pairStick { s with pair := { s.pair with blockLate := true } } 4 else s)

/-- Writes a persistent word of an engine (R108, R309). -/
def mirrorWord (s : State) (e idx : Nat) (w : Word) : State :=
  setDmem s (mputWord s.arr.dmem (e * 4096 + 0xF00 + idx % 64 * 4) w)

/-- The stream of a Sleeve is written: the unit joins, or the Sleeve is in resynchronisation (R309). -/
def mirrors (s : State) (sl : Nat) : Bool :=
  (s.pair.role == .joining && s.pair.join.isSome && !inShadow s) || (s.pair.role == .hot && hasBit s.pair.resync sl)

/-- STORE: engine in the Sleeve, word index and value, in the order received (R309). -/
def execStore (sl : SleeveId) (words : List (Nat × Nat × Word)) (s : State) : Out :=
  .next (if mirrors s sl then words.foldl (fun s w => mirrorWord s (32 * sl.val + w.1 % 32) w.2.1 w.2.2) s else s)

/-- SWEEP: line ℓ is 16 persistent words of engine ℓ ÷ 4, quarter ℓ mod 4 (R310, R317). -/
def execSweep (line : Nat) (words : List Word) (s : State) : Out :=
  .next (let sl := line / 128
  if 4096 ≤ line ∨ mirrors s sl = false then s
  else
    let s := ((words.take 16).zipIdx).foldl (fun s w => mirrorWord s (line / 4) (16 * (line % 4) + w.2) w.1) s
    if s.pair.role == .joining then
      (if line = s.pair.sweepLines then { s with pair := { s.pair with sweepLines := line + 1 } } else s)
    else
      let k := tget 0 s.pair.resyncLines sl
      { s with pair := { s.pair with
          resyncLines := if k < 128 then tput s.pair.resyncLines sl (k + 1) else s.pair.resyncLines } })

/-! ### Digests (R316, R317) -/

/-- The digest of a Sleeve: its 256 snapshot bytes, then its stored words in issue order (R316). -/
def digestOf (s : State) (sl : Nat) : Word :=
  crc32 (mread s.arr.dlBuf (sl * 256) 256 ++ ((sleeve s sl).stores.map fun x => wordBytes x.word).flatten)

/-- The FRAME_OK bits of a Sleeve's uplinks as its engines read them in this round (R58, R316). -/
def frameMask (s : State) (sl : Nat) : Byte :=
  BitVec.ofNat 8 ((List.range 8).foldl (fun a j =>
    a + (mget s.arr.upRead (sl * 1024 + 64 * j + 44)).toNat % 2 * 2 ^ j) 0)

/-- The words of a line of the sweep (R310). -/
def sweepWords (s : State) (line : Nat) : List Word :=
  (List.range 16).map fun k =>
    BitVec.ofNat 32 (leNat (mread s.arr.dmem (line / 4 * 4096 + 0xF00 + (16 * (line % 4) + k) * 4) 4))

/-- The line that an ACTIVE sweeps in the round that ends: of a joining mate, else of the first Sleeve in
resynchronisation (R310, R317). -/
def sweepRound (s : State) : State :=
  match s.pair.sweepNext, s.pair.sweepSl with
  | some k, _ =>
    sendRec { s with pair := { s.pair with sweepNext := if k < 4095 then some (k + 1) else none } } (.sweep k (sweepWords s k))
  | none, (sl, k) :: t =>
    let line := 128 * sl + k
    sendRec { s with pair := { s.pair with sweepSl := if k < 127 then (sl, k + 1) :: t else t } }
      (.sweep line (sweepWords s line))
  | none, [] => s

/-- The WHEEL, STORE and SWEEP records of an ACTIVE in the round that ends (R307 to R310). -/
def activeRecords (s : State) : State :=
  if s.pair.role != .active || s.pair.link != 2 then s
  else
    let s := sendRec s (.wheel (wheelBlock s))
    sweepRound (allSleeves.foldl (fun s n => sendRec s (.store n (sleeve s n).stores)) s)

/-- The digests of the round that ends, formed while the mate link is up, and the records of that round (R308, R316). -/
def pairDigest (s : State) : State :=
  let s := activeRecords { s with pair := { s.pair with sent := [] } }
  if s.pair.link = 2 && (s.pair.role == .active || inShadow s) then
    let ds := allSleeves.map (digestOf s)
    let fs := allSleeves.map (frameMask s)
    sendRec { s with pair := { s.pair with digests := ds.zipIdx.map fun x => (x.2, x.1), frameOks := fs } } (.digest ds fs)
  else s

/-- The comparison of one Sleeve (R317). -/
def compareSleeve (ds : List Word) (fs : List Byte) (s : State) (sl : Nat) : State :=
  let x := sleeve s sl
  if hasBit s.pair.resync sl || x.halted then s
  else if s.pair.ownPrev || (fs[sl]?).getD 0 != (s.pair.frameOks[sl]?).getD 0 then
    let s := pairStick { s with pair := { s.pair with
        resync := setBit s.pair.resync sl, resyncLines := tput s.pair.resyncLines sl 0 } } 4
    setSleeve s sl { x with halting := true, parked := true }
  else if (ds[sl]?).getD 0 != tget 0 s.pair.digests sl then
    pairStick { s with pair := { s.pair with
        mismatches := s.pair.mismatches + 1, mismatchRound := s.wheel.round - 1, mismatchSleeve := sl,
        nextRole := some .cold } } 5
  else s

/-- The Sleeves whose FRAME_OK bits differ are swept by an ACTIVE for its HOT mate, which resynchronises them: each once, in
Sleeve order (R317; DEDUCED, notes/assumptions/23.md). -/
def noteSplits (fs : List Byte) (s : State) : State :=
  let new := allSleeves.filter fun n =>
    (fs[n]?).getD 0 != (s.pair.frameOks[n]?).getD 0 && !(s.pair.sweepSl.any fun x => x.1 == n) && !(sleeve s n).halted
  { s with pair := { s.pair with sweepSl := s.pair.sweepSl ++ new.map fun n => (n, 0) } }

/-- DIGEST: the record of the round before (R316, R317). -/
def execDigest (digests : List Word) (frameOk : List Byte) (s : State) : Out :=
  .next (if inShadow s then allSleeves.foldl (compareSleeve digests frameOk) s
  else if s.pair.role == .active && s.pair.mateRole == some .hot then noteSplits frameOk s else s)

/-! ### Takeover (R318 to R322) -/

/-- An engine's persistent region is the active's: its four lines have been swept, or it ran in shadow (R322). -/
def covered (s : State) (e : Nat) : Bool :=
  match s.pair.role with
  | .hot => !hasBit s.pair.resync (e / 32) || decide (4 * (e % 32 + 1) ≤ tget 0 s.pair.resyncLines (e / 32))
  | .joining => decide (4 * (e + 1) ≤ s.pair.sweepLines)
  | _ => false

/-- The persistent region of an engine as at a cold load (R125, R322). -/
def coldRegion (s : State) (e : Nat) : State :=
  (List.range 64).foldl (fun s k => mirrorWord s e k (wordInit s.pat.run e (960 + k))) s

/-- A Sleeve runs its seed body from the next tick (R322). -/
def seedFromTick (s : State) (sl : Nat) : State :=
  updSleeve (clearSleeveEngines s sl) sl fun x => { x with
    halted := false, halting := false, parked := false, seedLeft := s.pat.run.seedRounds + 1, seedMute := false }

/-- Ports whose far ends have entered the hem state in the gap of a takeover, by R165 and the COAST_ROUNDS sent in training
(R322). -/
def gapTrips (s : State) : State :=
  forAll (linkPorts s) (fun s n =>
    let l := link s n
    if counting l.state && decide (l.coastSent + 3 ≤ (s.wheel.round - s.pair.lossRound).toNat) then tripPort s n 7 else s) s

/-- The unit has authority from this tick: records, trace, coverage, trips for a gap beyond COAST (R318 to R322). No far-end
firmware is loaded at a takeover (R186). -/
def takeAuthority (s : State) : State :=
  let cause := s.pair.nextCause
  let gap := if cause = 2 ∨ cause = 3 then s.pair.gapRounds else (s.wheel.round - s.pair.lossRound).toNat
  let s := { s with pair := { s.pair with
      lastTakeover := cause, takeoverRound := s.wheel.round, gapRounds := gap, seedLeft := none, nextRole := none,
      countPend := if cause = 1 ∨ cause = 4 ∨ cause = 5 then some 2 else none,
      mateRole := if cause = 3 then some .hot else none } }
  let s := forAll (linkPorts s) (fun s n => updLink s n fun l => { l with fwDone := true }) s
  let s := toRole (pairStick s 7) .active
  let s := if cause = 4 ∨ cause = 5 then gapTrips (pairStick s 8) else s
  let s := trigger s 4
  addRecord s 0x0030 s.wheel.round (leBytes 1 cause ++ wordBytes (f32Of s.pair.coverage))

/-- A takeover for the loss of the active is due (R318). -/
def takeoverDue (s : State) : Bool :=
  let able := match s.pair.role with
    | .hot | .joining => true
    | .cold => cfg s 0x2201 4 == 1
    | _ => false
  able && mateCommands s && !s.pair.wheelGot && s.pair.seedLeft.isNone && s.pair.nextRole != some .active
    && !s.boot.frozen

/-- TAKEOVER (R318, R319, R322). -/
def takeoverNow (s : State) : State :=
  let kept := ((List.range 1024).filter (covered s)).length
  let whole := allSleeves.foldl (fun w n => setBitIf ((sleeveEngines n).all (covered s)) w n) (0 : Word)
  let seeds : List Nat := match s.pair.role with
    | .hot => allSleeves.filter fun n => hasBit s.pair.resync n
    | _ => allSleeves
  let cause := if s.pair.role == .cold then 5 else if seeds.isEmpty then 1 else 4
  let bare := ((List.range 1024).filter fun e => seeds.contains (e / 32) && !covered s e)
  let s := { s with pair := { s.pair with
      coverage := mkRat (4 * kept * 100 : Nat) 4096, covered := whole, lossRound := s.wheel.round, nextCause := cause } }
  if seeds.isEmpty then { s with pair := { s.pair with nextRole := some .active } }
  else
    let s := forAll seeds seedFromTick (forAll bare coldRegion s)
    { s with pair := { s.pair with seedLeft := some (s.pat.run.seedRounds + 2), resync := 0, resyncLines := [] } }

/-- TAKEOVER (R318). -/
def execTakeover (s : State) : Out := .next (if takeoverDue s then takeoverNow s else s)

/-- More valid uplinks report the mate than this unit in the round of the count (R320). -/
def splitDue (s : State) : Bool :=
  s.pair.countPend == some 0 && decide (obeyCount s (s.pair.unit + 1) < obeyCount s (2 - s.pair.unit))

/-- SPLIT_WITHDRAW: AUTH is cleared from the next tick (R320). -/
def splitNow (s : State) : State :=
  pairStick { s with pair := { s.pair with countPend := none, nextRole := some .cold } } 6

/-- SPLIT_WITHDRAW (R320). -/
def execSplitWithdraw (s : State) : Out := .next (if splitDue s then splitNow s else s)

/-- A handover on the mate's doubt: this unit has AUTH from the next tick (R318). The gap depends on when the doubt was
detected in its round: a free value. -/
def takeHandover (s : State) : State :=
  if s.pair.role == .hot && s.hem.summary &&& 0x1F == 0 && !(allSleeves.any fun n => sleeveDoubts (sleeve s n).sticky != 0) then
    let (b, s) := drawBool s
    { s with pair := { s.pair with
        nextRole := some .active, nextCause := 2, gapRounds := b2n b, coverage := 100, covered := 0xFFFFFFFF } }
  else s

/-- A write of HANDOVER: ACTIVE with a HOT mate only (R318, R324). -/
def handoverWrite (s : State) (v : Nat) : Nat × State :=
  if v = 0 then (stOK, s)
  else if s.pair.role == .active && s.pair.mateRole == some .hot then
    (stOK, sendCtrl { s with pair := { s.pair with handover := some (skipNow s) } } (Ctrl.role .hot))
  else (stState, s)

/-- A write of WITHDRAW (R324). -/
def withdrawWrite (s : State) (v : Nat) : Nat × State :=
  if v = 0 then (stOK, s)
  else if s.pair.role == .active then (stState, s)
  else (stOK, { s with pair := { s.pair with withdraw := some (skipNow s) } })

/-! ### Tick and seam -/

/-- HELLO is sent every 1 ms until arbitration has ended (R308). -/
def helloTick (s : State) : State :=
  if s.pair.settled || s.pair.link != 2 then s
  else
    let age := s.pair.helloAge + s.wheel.tRound
    if age < 1 / 1000 then { s with pair := { s.pair with helloAge := q40 age } }
    else sendRec { s with pair := { s.pair with helloAge := 0 } } (.hello (ownHello s))

/-- The pair at a tick, after the counters (R305, R318, R320, R322). -/
def pairTick (s : State) : State :=
  let s := helloTick { s with pair := { s.pair with sentCtrl := [] } }
  let s := if s.pair.seedLeft.isSome then gapTrips s else s
  let s := match s.pair.nextRole with
    | some .active => takeAuthority s
    | some r => toRole { s with pair := { s.pair with nextRole := none } } r
    | none => s
  let s := match s.pair.seedLeft with
    | some 0 | some 1 => takeAuthority s
    | some (k + 2) => { s with pair := { s.pair with seedLeft := some (k + 1) } }
    | none => s
  let s := if s.pair.role == .cold && s.pair.seedLeft.isNone && !(sleeve s 0).parked then parkAll s else s
  let s := if splitDue s then toRole (pairStick { s with pair := { s.pair with countPend := none } } 6) .cold else s
  let s := tellRole s
  { s with pair := { s.pair with countPend := match s.pair.countPend with
        | some (k + 1) => some k
        | _ => none } }

/-- A unit starts joining at this seam (R323). -/
def joinOk (s : State) : Bool :=
  (s.pair.role == .out || s.pair.role == .cold) && s.pair.settled && s.pair.mateRole == some .active && s.pair.link == 2
    && cfg s 0x2201 2 == 1 && !ctrlHeld s && !(allSleeves.any fun n => (sleeve s n).held)
    && !hasBit s.pair.sticky 5 && !hasBit s.pair.sticky 6 && !hasBit s.pair.sticky 3 && s.pair.seedLeft.isNone
    && s.pair.withdraw.isNone

/-- A joining unit at a seam (R306, R311). -/
def joinSeam (s : State) : State :=
  match s.pair.join with
  | none => s
  | some k =>
    if k = 3 then
      (if s.pair.sweepLines < 4096 then s
       else
        let s := forAll allSleeves (fun s n =>
          let s := updSleeve s n fun x => { x with parked := false }
          if (sleeve s n).held then s
          else updSleeve (restartSleeve s n) n fun x => { x with seedMute := true }) s
        { s with pair := { s.pair with join := some 4 } })
    else if k < 6 then { s with pair := { s.pair with join := some (k + 1) } }
    else if s.wheel.state == .locked && s.wheel.mode == 1 then toRole s .hot
    else s

/-- Sleeves in resynchronisation at a seam: the seed body, then comparison again (R317). -/
def resyncSeam (s : State) : State :=
  allSleeves.foldl (fun s n =>
    let k := tget 0 s.pair.resyncLines n
    if !hasBit s.pair.resync n then s
    else if k = 128 then
      let s := updSleeve (restartSleeve (updSleeve s n fun x => { x with parked := false }) n) n fun x => { x with
        seedMute := true }
      { s with pair := { s.pair with resyncLines := tput s.pair.resyncLines n 129 } }
    else if 128 < k then { s with pair := { s.pair with
      resync := clearBits s.pair.resync (bitW n), resyncLines := tdel s.pair.resyncLines n } }
    else s) s

/-- Collar state that the ACTIVE sends at every seam (R313). -/
def sendState (s : State) : State :=
  if s.pair.role != .active || s.pair.link != 2 then s
  else
    let s := (boundPacks s).foldl (fun s x =>
      if h : x.1 < 32 then
        let k := pack s x.1
        sendCtrl s (.packState ⟨x.1, h⟩ (f32Of k.soc) (f32Of k.capLearned) k.conf k.rested)
      else s) s
    sendCtrl (sendCtrl s (.sequencer s.sq.state s.sq.step)) (.watchdog s.shelf.cwdSafe (f32Of s.shelf.cwdTime))

/-- The pair at a seam (R305, R311, R313, R317, R318, R323, R324). -/
def pairSeam (s : State) : State :=
  let s := if s.pair.activeAtSeam && s.arr.started then toRole s .active else s
  let s : State := match s.pair.handover with
    | some 0 => toRole { s with pair := { s.pair with handover := none, mateRole := some .active } } .hot
    | some (k + 1) => { s with pair := { s.pair with handover := some k } }
    | none => s
  let s := match s.pair.takeAtSeam with
    | some 0 =>
      let hot := s.pair.role == Role.hot
      let s := { s with pair := { s.pair with takeAtSeam := none } }
      if hot then takeAuthority { s with pair := { s.pair with
        nextCause := 3, gapRounds := 0, coverage := 100, covered := 0xFFFFFFFF } }
      else s
    | some (k + 1) => { s with pair := { s.pair with takeAtSeam := some k } }
    | none => s
  let s := match s.pair.withdraw with
    | some 0 => toRole { s with pair := { s.pair with withdraw := none } } .out
    | some (k + 1) => { s with pair := { s.pair with withdraw := some k } }
    | none => s
  let s := if s.pair.role == .joining then joinSeam s else s
  let s := if s.pair.role == .hot then resyncSeam s else s
  let diff := match s.pair.hello with
    | some h => helloDiffers s h
    | none => true
  let s := if joinOk s then (if diff then pairStick s 3 else toRole s .joining) else s
  let s := if s.pair.settled then sendRec s (.hello (ownHello s)) else s
  sendState (sendCopy (tellRole s))

/-- Bits of 0x2200.0E whose cause is still present (R9): the mate link is lost, a lane is down, the units share a number,
their patterns differ, a Sleeve is in resynchronisation. -/
def pairCauses (s : State) : Word :=
  let p := s.pair
  let same := match p.hello with
    | some h => p.link == 2 && h.unit == p.unit
    | none => false
  let diff := match p.hello with
    | some h => p.link == 2 && helloDiffers s h
    | none => false
  setBitIf p.lanes.isEmpty (setBitIf (decide (p.lanes.length < 8))
    (setBitIf same (setBitIf diff (setBitIf (decide (p.resync ≠ 0)) 0 4) 3) 2) 1) 0

/-- A W1C write of 0x2200.0E (R325). -/
def pairStickyWrite (s : State) (v : Word) : Nat × State :=
  (stOK, { s with pair := { s.pair with
    sticky := clearBits s.pair.sticky (clearBits (v &&& 0x1FF) (pairCauses s)) } })

end Sys2Proof.Machine
end

