-- ==== Sys2Proof/Machine/Startup.lean ====
section
/-! DEFINITION. Start-up, update and recovery (15): resets and the phases of a cold start, the Collar-only restart, images
and their verification, activation, sleep and wake, and the power state (R406 to R429, R434, R441, R271 to R273). -/
namespace Sys2Proof.Machine

/-! ### Resets (R406, R421, R434, R441) -/

/-- The checkpoint in force: the highest CP_SEQ (R426). -/
def checkpointInForce (s : State) : Option Checkpoint :=
  s.recorder.checkpoints.foldl (fun m x => match m with
    | some c => if c.seq < x.2.seq then some x.2 else m
    | none => some x.2) none

/-- What the recorder finds in MRAM at a start: ring, trace slots, tally copies, checkpoints. SEQ goes on from the highest
one in the ring (R363). -/
def recorderAtStart (s : State) : Recorder :=
  let r := s.recorder
  { newest := ((r.held.getLast?).map fun x => x.2.2).getD 0, oldest := ((r.held.head?).map fun x => x.2.2).getD 0,
    head := r.head, held := r.held, copyA := r.copyA, copyB := r.copyB, slots := r.slots, slotAge := r.slotAge,
    slotFirst := r.slotFirst, lenNow := cfg s 0x2810 2, checkpoints := r.checkpoints, cpSeq := r.cpSeq }

/-- What a reset leaves of a pack: its stored identity (R261). -/
def packAtStart (k : Pack) : Pack := { ident := k.ident, idState := 0 }

/-- The configuration that a start finds: MARGIN is 0 at every start (R217). -/
def cfgAtStart (s : State) : Tab Nat :=
  s.cfg.filter fun x => !(decide (0x3100 ≤ x.1 / 256) && decide (x.1 / 256 < 0x3200) && x.1 % 256 == 0x10)

/-- Boot state after a reset: the always-on domain, images and keys stay (R406, R425). -/
def bootAtStart (s : State) (cause mode : Nat) : Boot :=
  let b := s.boot
  { coldP0 := mode != 1, recovery := mode == 1, cause := cause, bootMode := mode, bootSlot := b.bootSlot,
    runningSlot := b.runningSlot, confirmed := b.confirmed, trial := b.trial, slotVer := b.slotVer,
    slotValid := b.slotValid, areas := b.areas, aoClock := b.aoClock, aoRem := b.aoRem, hours := b.hours,
    hoursFrac := b.hoursFrac, cycles := b.cycles, aoValid := b.aoValid }

/-- The controller at a reset release: every register at its reset value, with what MRAM, the always-on domain, the pins
and the far ends keep (R406, R407); SVC_RESET survives the reset that it caused (R278). BOOT_MODE 1 starts the recovery ROM
(R421). -/
def resetNow (s : State) (cause mode : Nat) : State :=
  let wheel : Wheel := { fTick := fNom s, fHold := fNom s, mode := cfg s 0x2001 1 }
  let pat : Pattern := { recordedSlot := s.pat.recordedSlot, paramVals := s.pat.paramVals }
  let shelf : Shelf :=
    { packs := s.shelf.packs.map fun x => (x.1, packAtStart x.2), ship := s.shelf.ship, btnLow := s.shelf.btnLow,
      btnUsed := s.shelf.btnUsed,
      sticky := if cause = 2 then s.shelf.sticky &&& 4 else 0, effIchg := BitVec.ofNat 32 (cfg s 0x26F0 1),
      effVchg := BitVec.ofNat 32 (cfg s 0x26F0 2) }
  let net : Net :=
    { levelKeys := s.net.levelKeys, imageKeys := s.net.imageKeys, labels := s.net.labels, ethUp := s.net.ethUp }
  let r := State.reset
  let t : State := { r with
    pending := s.pending, wheel := wheel, pat := pat, fes := s.fes, shelf := shelf, net := net,
    flow := { r.flow with capPin := s.flow.capPin }, pair := { r.pair with unit := cfg s 0x2201 1 },
    hem := { r.hem with killLow := s.hem.killLow, hemN := false }, recorder := recorderAtStart s,
    gpio := { r.gpio with pins := s.gpio.pins }, boot := bootAtStart s cause mode, cfg := cfgAtStart s, mram := s.mram,
    draws := s.draws }
  if s.hem.killLow then raiseCtrl t 0 else t

/-- Held in reset (R434, R441). -/
def inReset (s : State) : Bool := s.boot.internal || s.boot.tcxoLost

/-- RESET_N: the rising edge, with BOOT_MODE sampled; while the internal reset or a missing TCXO holds the controller, the
start waits for the end of that hold (R406, R421, R434, R441). -/
def execResetN (bootMode : BitVec 2) (s : State) : Out :=
  .next (if inReset s then
    let t := resetNow s (if s.boot.internal then s.boot.cause else 1) bootMode.toNat
    { t with boot := { t.boot with internal := s.boot.internal, tcxoLost := s.boot.tcxoLost } }
  else resetNow s 1 bootMode.toNat)

/-- VAUX_RISE: the power-cycle count rises, before P0, and the internal reset begins (R425, R434). -/
def execVauxRise (s : State) : Out :=
  .next (let t := resetNow s 0 s.boot.bootMode
  { t with boot := { t.boot with cycles := t.boot.cycles + 1, internal := true } })

/-- INTERNAL_RESET_END: every rail has been in its window for 2 ms (R434). -/
def execInternalResetEnd (s : State) : Out := .next { s with boot := { s.boot with internal := false } }

/-- TCXO_LOSS: the controller holds itself in reset; the always-on domain goes on (R441). RESET_CAUSE has no code for
it: a free value. -/
def execTcxoLoss (s : State) : Out :=
  .next (let (w, s) := drawWord s
  let t := resetNow s (w.toNat % 5) s.boot.bootMode
  { t with boot := { t.boot with tcxoLost := true, internal := s.boot.internal } })

/-- TCXO_RETURN (R441). -/
def execTcxoReturn (s : State) : Out := .next { s with boot := { s.boot with tcxoLost := false } }

/-- SVC_RESET: 2 s after a service press (R271). -/
def execSvcReset (bootMode : BitVec 2) (s : State) : Out :=
  .next (if s.shelf.svcOpen then resetNow s 2 bootMode.toNat else s)

/-! ### P0 and P1 (R406 to R408, R427) -/

/-- The load of a pattern slot in P1 (R406). -/
def beginP1 (s : State) (slot : Nat) (other : Bool) : State :=
  { s with pat := { s.pat with
      p1 := some other, loading := some (slot, true), loadResult := 0xFF, loadDetail := 0 } }

/-- AO_VALID clear: the always-on domain starts from the checkpoint in force (R427). -/
def restoreAo (s : State) : State :=
  let cp := checkpointInForce s
  let b := s.boot
  let b := if b.aoValid then b else { b with
    sticky := setBit b.sticky 4, hours := (cp.map (·.hours)).getD 0, hoursFrac := (cp.map (·.frac)).getD 0,
    cycles := BitVec.ofNat 32 ((cp.map (·.cycles)).getD 0 + 1), aoClock := 0, aoRem := 0, aoValid := true }
  let unclean := match cp with
    | some c => c.cause != 1
    | none => false
  { s with boot := { b with sticky := setBitIf unclean b.sticky 5 } }

/-- The estimator state of a pack as the checkpoint holds it, `off` s before this start (R257, R426). -/
def packRestored (off : Rat) (old : Pack) (k : Pack) : Pack :=
  { old with
    soc := k.soc, rested := k.rested, conf := k.conf, capLearned := k.capLearned, impedance := k.impedance, charge := k.charge,
    chargeFrac := k.chargeFrac, chargeSeam := k.charge, learnOpen := k.learnOpen, learnSoc := k.learnSoc,
    learnCharge := k.learnCharge, learnTime := if k.learnOpen then q40 (k.learnTime + off) else k.learnTime,
    discharged := k.discharged, waitRest := k.waitRest }

/-- Time in s since a checkpoint was written, by the 32.768 kHz clock; after AO_LOST the clock has restarted and the time is
free (R425, R427). -/
def sinceCheckpoint (s : State) (c : Checkpoint) : Rat × State :=
  if hasBit s.boot.sticky 4 then
    let (x, s) := drawRat s
    (rmax 0 x, s)
  else (mkRat ((s.boot.aoClock + 2 ^ 48 - c.clock) % 2 ^ 48 : Nat) 32768, s)

/-- Energy accumulators and the estimator from the checkpoint in force, bindings from the configuration (R219, R252,
R426). -/
def restoreData (s : State) : State :=
  let s := match checkpointInForce s with
    | none => s
    | some c =>
      let s := c.energy.foldl (fun s x => updCtl s x.1 fun k => { k with energyFwd := x.2.1, energyRev := x.2.2 }) s
      let (off, s) := sinceCheckpoint s c
      c.packs.foldl (fun s x => updPack s x.1 fun k => packRestored off k x.2) s
  allPacks.foldl (fun s p =>
    let v := kcfg s p 1
    if v = 0xFFFF then s else updPack s p fun k => { k with bound := some v, chgState := 0 }) s

/-- The tally copies at a start, and the seconds lost since the last fold (R359). -/
def restoreTallies (s : State) : State :=
  let r := s.recorder
  let some' := r.copyA.valid || r.copyB.valid
  let lost := s.boot.hours - (newerCopy r).foldHours.toNat
  let r := { r with sticky := setBitIf (!(r.copyA.valid && r.copyB.valid)) r.sticky 5 }
  if some' then { s with recorder := { r with gapS := lost, sticky := setBit r.sticky 3 } }
  else { s with recorder := { r with
    copyA := { generation := 1, valid := true }, copyB := { generation := 0, valid := true } } }

/-- An unconfirmed trial firmware was restarted: the confirmed slot boots again (R419). -/
def revertTrial (s : State) : State :=
  if s.boot.trial then { s with boot := { s.boot with
    trial := false, bootSlot := s.boot.confirmed, sticky := setBit s.boot.sticky 2 } }
  else s

/-- A Collar slot holds an image that the boot ROM accepts (R406). -/
def slotOk (s : State) (x : Nat) : Bool := tget false s.boot.slotValid x

/-- The slot that P0 runs: BOOT_SLOT, or the other one (R406). -/
def p0Slot (s : State) : Option Nat :=
  let b := s.boot.bootSlot
  if slotOk s b then some b else if slotOk s (1 - b) then some (1 - b) else none

/-- The Collar's work at a start, once its firmware runs: P1 begins (R359, R406, R426, R427). -/
def coldStart (s : State) : State :=
  let s := restoreTallies (restoreData (restoreAo s))
  let s := addRecord s 0x0001 s.wheel.round (leBytes 1 s.boot.cause ++ leBytes 4 s.recorder.gapS)
  beginP1 s s.pat.recordedSlot false

/-- P0 is under way, of a cold start or of a restart of the Collar alone. -/
def inP0 (s : State) : Bool := !inReset s && (s.boot.coldP0 || s.boot.restarting)

/-- P0 has ended (R406, R412, R421). -/
def bootDone (s : State) : State :=
  if !inP0 s then s
  else
    let cold := s.boot.coldP0
    let s := if cold then revertTrial s else s
    match p0Slot s with
    | none => { s with boot := { s.boot with
        coldP0 := false, restarting := false, collarUp := false, recovery := true, sticky := setBit s.boot.sticky 3 } }
    | some k =>
      let s := { s with boot := { s.boot with
          coldP0 := false, restarting := false, collarUp := true, runningSlot := k,
          sticky := setBitIf (decide (k ≠ s.boot.bootSlot)) s.boot.sticky 0 } }
      if cold then coldStart s else s

/-- The pattern of P1 is accepted and loaded. Its timebase takes effect in one step: at the next tick, or at the next cycle
start when W changes (R130, R406 to R408). -/
def p1Accepted (s : State) (img : PatImg) (slot : Nat) : State :=
  let fallback := s.pat.p1 == some true
  let s := coldLoad s img
  { s with
    pat := { s.pat with
      p1 := none, loading := none, loadResult := 0, loadDetail := 0, activeSlot := slot, recordedSlot := slot,
      shadow := noPattern, shadowState := 0 },
    wheel := { s.wheel with
      newBase := if img.w = s.wheel.w && img.l = s.wheel.l then none else some (img.w, img.l) },
    boot := { s.boot with sticky := setBitIf fallback s.boot.sticky 1 } }

/-- LOAD_CHECKS_COMPLETE: the loader has read the image and applied the checks of R129 (R129 to R131, R408). -/
def execLoadChecksComplete (img : PatImg) (s : State) : Out :=
  .next (match (if collarRuns s then s.pat.loading else none) with
  | none => s
  | some (slot, restart) =>
    let first := s.pat.p1.isSome || (restart && s.pat.activeSlot == 0xFF)
    match loadFault s img (!restart) with
    | some f =>
      let s := loadFailed s f
      if s.pat.p1 == some false then beginP1 s (1 - slot) true
      else { s with pat := { s.pat with p1 := none, shadowState := if restart then s.pat.shadowState else 0 } }
    | none => if first then p1Accepted s img slot else loadAccepted s img slot restart)

/-! ### Collar-only restart (R412, R413) -/

/-- A pending commit, armed change or group write (R413). -/
def changePending (s : State) : Bool :=
  s.pat.shadowState == 2 || s.arm.queued || s.arm.state == 1 || s.arm.state == 2
    || s.net.pend.any fun p => isImage p.index

/-- A pending group write reports its whole membership as not written (R413). -/
def groupLost (s : State) (p : PendWrite) : State :=
  let g := imageGroup p.index
  let res := tget {} s.net.gres g
  { s with net := { s.net with gres := tput s.net.gres g { res with written := [], late := members s g } } }

/-- R413: what a restart that is not an activation ends unperformed. -/
def endChanges (s : State) : State :=
  let s := if s.pat.shadowState == 2 then commitFailed s else s
  let s := if s.arm.queued || s.arm.state == 1 || (s.arm.state == 2 && !s.arm.committing) then
      { s with arm := { s.arm with abortNext := true, queued := false } }
    else s
  let s := (s.net.pend.filter fun p => isImage p.index).foldl groupLost s
  { s with net := { s.net with pend := s.net.pend.filter fun p => !isImage p.index } }

/-- The Collar's two cores are reset and P0 runs (R412); the charge watchdog then counts from 0 (R267). -/
def collarDown (s : State) (watchdog : Bool) : State :=
  { s with
    boot := { s.boot with restarting := true, cause := if watchdog then 4 else s.boot.cause },
    shelf := { s.shelf with cwdTime := 0 } }

/-- COLLAR_RESTART (R412, R413, R419). -/
def execCollarRestart (c : RestartCause) (s : State) : Out :=
  .next (if !collarRuns s then s
  else match c with
  | .activation => collarDown s false
  | .watchdog => collarDown (endChanges (revertTrial s)) true
  | .lockstep => collarDown (endChanges (revertTrial s)) false)

/-! ### Images (R414 to R420) -/

/-- Download target x. -/
def dl (s : State) (x : Nat) : Dl := tget {} s.boot.dls x
/-- Replaces a download target. -/
def setDl (s : State) (x : Nat) (d : Dl) : State := { s with boot := { s.boot with dls := tset {} s.boot.dls x d } }

/-- Where a target's image stands in MRAM (R354, R417). -/
def dlAddr (s : State) (x : Nat) : Nat :=
  if x = 0 then 0 else if x = 1 then 0x200000 else if x = 2 then 0x400000 else if x = 3 then 0xC00000
  else areaAddr (dl s x).area

/-- Size of a target's object (R417, R428). -/
def dlSize (x : Nat) : Nat := if x < 2 then 2097152 else if x < 4 then 8388608 else 262144

/-- The content of a target becomes invalid (R415). -/
def dlInvalid (s : State) (x : Nat) : State :=
  if x < 2 then { s with boot := { s.boot with slotValid := tset false s.boot.slotValid x false } } else s

/-- Bytes covered by disjoint rising ranges. -/
def rangeSum (l : List (Nat × Nat)) : Nat := (l.map fun r => r.2 - r.1).sum

/-- Adds the range [a, b) to disjoint rising ranges. -/
def rangeAdd : List (Nat × Nat) → Nat → Nat → List (Nat × Nat)
  | [], a, b => [(a, b)]
  | (c, d) :: t, a, b =>
    if b < c then (a, b) :: (c, d) :: t
    else if d < a then (c, d) :: rangeAdd t a b
    else rangeAdd t (Nat.min a c) (Nat.max b d)

/-- A target is returned to IDLE with its content invalid (R415). -/
def dlIdle (s : State) (x : Nat) : State := setDl (dlInvalid s x) x {}

/-- DOWNLOAD_TIMEOUT: no block for 600 s (R415). -/
def execDownloadTimeout (x : Fin 5) (s : State) : Out := .next (if (dl s x).state = 1 then dlIdle s x else s)

/-- A write of DL_ABORT (R415). -/
def dlAbortWrite (s : State) (x v : Nat) : Nat × State :=
  if v = 0 then (stOK, s) else if (dl s x).state = 1 ∨ (dl s x).state = 2 then (stOK, dlIdle s x) else (stOK, s)

/-- The checks of the image reason table on a Collar or far-end image (R414, R416): the first that fails. -/
def imageReason (s : State) (x : Nat) (readBackOk lanistanOk customerOk : Bool) : Nat :=
  let h := mread s.mram (dlAddr s x) 32
  let far := x == 4
  let key := leAt h 7 1
  let empty := far && (tget [] s.net.imageKeys key).isEmpty
  if leAt h 0 4 ≠ 0x474D4946 ∨ leAt h 4 2 ≠ 1 ∨ leAt h 0x1C 4 ≠ (crc32 (h.take 28)).toNat
      ∨ leAt h 0x13 9 ≠ 0 then 1
  else if leAt h 8 4 ≠ (dl s x).total ∨ dlSize x < leAt h 8 4 then 2
  else if leAt h 6 1 ≠ (if far then 2 else 1) ∨ (if far then key < 1 ∨ 4 < key else key ≠ 0) then 3
  else if !readBackOk then 4
  else if !(if far then customerOk else lanistanOk) || empty then 5
  else if x < 2 ∧ leAt h 0x0C 4 < cfg s 0x1800 10 then 6
  else 0

/-- The image becomes usable (R415, R417): a Collar slot, or the image held for a far-end family. -/
def imageVerified (s : State) (x : Nat) : State :=
  let h := mread s.mram (dlAddr s x) 32
  let ver := BitVec.ofNat 32 (leAt h 0x0C 4)
  if x < 2 then { s with boot := { s.boot with
      slotVer := tput s.boot.slotVer x ver, slotValid := tset false s.boot.slotValid x true } }
  else if x = 4 then
    let fam := leAt h 0x10 2
    { s with boot := { s.boot with
        areas := tput (s.boot.areas.filter fun a => a.2.1 != fam) (dl s x).area (fam, ver) } }
  else s

/-- An entry of a pattern's section directory as MRAM holds it: OFFSET, SIZE and CRC (R122). -/
def dirEntry (s : State) (a dir k : Nat) : Nat × Nat × Word :=
  let e := mread s.mram (a + dir + 16 * k) 16
  (leAt e 4 4, leAt e 8 4, BitVec.ofNat 32 (leAt e 12 4))

/-- The first of checks 0x01 to 0x04 of R129 that fails on a downloaded pattern (R122, R123, R416). A read-back that differs
counts as check 0x04, before the signature (DESIGN CHOICE, notes/assumptions/24.md). -/
def patternReason (s : State) (x : Nat) (readBackOk lanistanOk customerOk : Bool) : Nat :=
  let a := dlAddr s x
  let h := mread s.mram a 64
  let size := leAt h 8 4
  let dir := leAt h 0x24 4
  let n := leAt h 0x22 2
  let l := (List.range n).map (dirEntry s a dir)
  let parts := (dir, 16 * n) :: l.map fun e => (e.1, e.2.1)
  let inside (p : Nat × Nat) : Bool := decide (64 ≤ p.1) && decide (p.1 + p.2 + 96 ≤ size)
  let apart (p q : Nat × Nat) : Bool := decide (p.1 + p.2 ≤ q.1) || decide (q.1 + q.2 ≤ p.1)
  let clash := parts.zipIdx.any fun p => (parts.drop (p.2 + 1)).any fun q => !apart p.1 q
  let key := leAt h 0x38 4
  let stock := leAt h 0x18 4 % 2 == 1
  if leAt h 0 4 ≠ 0x31544150 ∨ leAt h 4 2 ≠ 1 ∨ leAt h 6 2 ≠ 0x40 ∨ leAt h 0x3C 4 ≠ (crc32 (h.take 60)).toNat then 1
  else if dlSize x < size ∨ (clash || !(parts.all inside)) = true then 2
  else if l.any fun e => crc32 (mread s.mram (a + e.1) e.2.1) != e.2.2 then 3
  else if !readBackOk || !(if stock then lanistanOk else customerOk) || stock != (key == 0) || (key != 0 && (tget [] s.net.imageKeys key).isEmpty) then 4
  else 0

/-- VERIFICATION_COMPLETE: `readBackOk`, every block reads back from MRAM as received; the signature verifies with the Lanistan
key for what the slot holds (`lanistanOk`), with the customer key in KEY_SLOT (`customerOk`) (R123, R414 to R417). -/
def execVerificationComplete (x : Fin 5) (readBackOk lanistanOk customerOk : Bool) (s : State) : Out :=
  .next (if (dl s x).state ≠ 2 then s
  else
    let code := if x.val = 2 ∨ x.val = 3 then patternReason s x readBackOk lanistanOk customerOk
      else imageReason s x readBackOk lanistanOk customerOk
    let s' := setDl s x { dl s x with state := if code = 0 then 3 else 4, reason := code }
    if code = 0 then imageVerified s' x else s')

/-- VERSION of a Collar slot; 0 if invalid (R428). -/
def slotVersion (s : State) (x : Nat) : Word :=
  if !slotOk s x then 0
  else match tfind s.boot.slotVer x with
    | some v => v
    | none => Config.shippedVersion

/-- A write of ACTIVATE (R413, R419, R422). -/
def activateWrite (s : State) (v : Nat) : Nat × State :=
  if (dl s v).state ≠ 3 then (stState, s)
  else if s.boot.recovery then
    let s := { s with boot := { s.boot with bootSlot := v, confirmed := v, trial := false } }
    (stOK, resetNow s 3 0)
  else if changePending s then (stBusy, s)
  else (stOK, collarDown { s with boot := { s.boot with bootSlot := v, trial := true } } false)

/-- The running firmware is confirmed (R419). -/
def confirmNow (s : State) : State :=
  { s with boot := { s.boot with trial := false, confirmed := s.boot.runningSlot } }

/-- A write of CONFIRM (R419). -/
def confirmWrite (s : State) (v : Nat) : Nat × State :=
  if v = 0 ∨ s.boot.trial = false then (stOK, s) else (stOK, confirmNow s)

/-- TRIAL_CONFIRM: the trial firmware has run for 60 s (R419). -/
def execTrialConfirm (s : State) : Out := .next (if s.boot.trial && collarRuns s then confirmNow s else s)

/-- A write of FW_FLOOR (R420). -/
def floorWrite (s : State) (v : Nat) : Nat × State :=
  if v < cfg s 0x1800 10 ∨ s.boot.trial = true ∨ (slotVersion s s.boot.runningSlot).toNat < v then (stRange, s)
  else (stOK, setCfg s 0x1800 10 v)

/-- A write of FE_LOAD (R418). -/
def feLoadWrite (s : State) (v : Nat) : Nat × State :=
  let n := cfg s 0x1810 1
  let l := link s n
  if v = 0 then (stOK, s)
  else if l.state != .hem || !commands s || (areaOf s l.fwFamily).isNone || l.fwLoad != 0 then (stState, s)
  else (stOK, fwSend s n)

/-- LOADS_ACTIVE (R428). -/
def loadsActive (s : State) : Nat := (s.links.filter fun x => x.2.fwLoad != 0).length

/-! ### Power state (R423) -/

/-- POWER_STATE (R423). -/
def powerState (s : State) : Nat :=
  let b := s.boot
  if b.frozen then 6
  else if b.recovery then 8
  else if b.coldP0 || b.restarting then 0
  else if !s.arr.started then 1
  else if b.asleep then 7
  else if ctrlHeld s then 4
  else if s.shelf.ship then 5
  else if (allSleeves.any fun n => (sleeve s n).halted) || hasBit b.sticky 1 || hasBit b.sticky 2 then 3
  else 2

/-! ### Sleep and wake (R272, R273, R395, R424) -/

/-- A write of SLEEP_CMD (R424). -/
def sleepWrite (s : State) (v : Nat) : Nat × State :=
  let p := powerState s
  if v = 0 then (stOK, s)
  else if (p == 2 || p == 3 || p == 5) && s.pair.role == .solo && !(s.links.any fun x => isLive x.2.state)
      && s.boot.sleeping.isNone then
    (stOK, { s with boot := { s.boot with sleeping := some (17 + skipNow s) } })
  else (stState, s)

/-- The wheel domain stops; the estimator stores its state and closes its learning intervals (R272, R424). -/
def sleepNow (s : State) : State :=
  { s with
    boot := { s.boot with sleeping := none, asleep := true },
    shelf := { s.shelf with
      sleepClock := s.boot.aoClock,
      packs := s.shelf.packs.map fun x => (x.1, { x.2 with learnOpen := false, sleepRest := x.2.resting }) } }

/-- The estimator on wake after `t` s of sleep: a rest that goes on averages the voltage over the first 60 s after it (R272,
R273). -/
def packWake (s : State) (t : Rat) (current : Bool) (p : Nat) : State :=
  let drop := cfgF s 0x26F0 18 * t / 2592000
  let s := packStick s p 7
  updPack s p fun k =>
    let rest := k.sleepRest && !current
    { k with
      soc := q40 (rmax 0 (k.soc - drop)), sleepRest := false, resting := rest,
      restTime := if rest then q40 (k.restTime + t) else 0, avgFrom := if rest then q40 (k.restTime + t) else 1140,
      avgSum := 0, avgN := 0, restDone := rest && k.restDone,
      conf := if current then k.conf - 1 else k.conf }

/-- A port on wake: it is trained again (P3). -/
def portWake (s : State) (n : Nat) : State :=
  let s := setPState s n .absent
  updLink s n fun l => { l with
    driving := false, step := 0, stepRounds := 0, stepRun := 0, missed := 0, taken := false, frameOk := false }

/-- SLEEP is left after `ticks` of the 32.768 kHz clock: P1 to P5 run without P0 (R424). -/
def wakeNow (s : State) (ticks : Nat) (current : Bool) : State :=
  let s := passTime s (mkRat ticks 32768)
  let s := { s with boot := { s.boot with asleep := false, wave := 0, waveOn := false, lastTrain := none } }
  let s := makeup s ticks
  let s := (boundPacks s).foldl (fun s x => packWake s (mkRat ticks 32768) current x.1) s
  let s := forAll (linkPorts s) portWake s
  let s := wheelTo s .free
  let flow : Flow := { capPin := s.flow.capPin, sticky := s.flow.sticky }
  let s := { s with
    arr := { s.arr with started := false, scrubWhole := false, yoke := [], reds := [] },
    hem := { s.hem with startHold := true },
    pat := { s.pat with shadow := noPattern, shadowState := 0, startPend := false, restartPend := false },
    sq := { sticky := s.sq.sticky }, flow := flow }
  beginP1 s s.pat.recordedSlot false

/-- A write of WAKE (R424); how long the sleep lasted is a free value. -/
def wakeWrite (s : State) (v : Nat) : Nat × State :=
  if v = 0 ∨ s.boot.asleep = false then (stOK, s)
  else
    let (r, s) := drawRat s
    (stOK, wakeNow s r.floor.toNat false)

/-- WAKE_N: a low level at an enabled input (R272, R424). -/
def execWakeN (k : Fin 4) (ticks : Nat) (s : State) : Out :=
  .next (if s.boot.asleep && (cfg s 0x26F0 19).testBit k then wakeNow s ticks (k == 0) else s)

/-- A W1C write of 0x1020.07 (R429). -/
def bootStickyWrite (s : State) (v : Word) : Nat × State :=
  (stOK, { s with boot := { s.boot with sticky := clearBits s.boot.sticky (v &&& 0x3F) } })

end Sys2Proof.Machine
end

