-- ==== Sys2Proof/Machine/Dict.lean ====
section
/-! DEFINITION. Writes of dictionary objects (R326 to R331, R342 to R344, R351, R448): the order of the checks, the effect of
every writable object, group writes, what takes effect at a seam, and the commands that are writes of one object. -/
namespace Sys2Proof.Machine

/-! ### The object named (R326, R328, R329) -/

/-- Order of the levels (R329). -/
def levelNo : Level → Nat
  | .observe => 0 | .operate => 1 | .service => 2 | .factory => 3

/-- The recovery ROM serves these objects alone (R422). -/
def recoveryIndex (ix : Nat) : Bool :=
  ix == 0x1000 || ix == 0x1010 || ix == 0x1011 || ix == 0x1020 || ix == 0x1800 || ix == 0x1808 || ix == 0x1809

/-- The index is present (R326). -/
def indexHere (s : State) (ix : Nat) : Bool :=
  if s.boot.recovery then recoveryIndex ix
  else isImage ix || (s.pat.run.params.any fun p => p.index == ix) || indexKnown ix

/-- The object as its table describes it; a group image has the objects of 0x3100 + n, and at sub 0xF4 the port sticky
word (R342). COUNT64 is an object of even channels only, LATCHED of odd ones (R398). -/
def rowHere (s : State) (ix sub : Nat) : Option Row :=
  if isImage ix then
    ((if sub = 0xF4 then rowOf 0x3000 4 else rowOf 0x3100 sub).map fun r =>
      { r with acc := if r.acc == .rw || r.acc == .wo || r.acc == .w1c then .wo else .ro })
  else if 0x2940 ≤ ix ∧ ix < 0x2980 ∧ ((sub = 8 ∧ ix % 2 = 1) ∨ (sub = 9 ∧ ix % 2 = 0)) then none
  else match paramAt s ix sub with
    | some p => some ⟨ix, 1, sub, sub, p.ty, .rw, if p.service then .service else .operate, p.dflt, .any⟩
    | none => rowOf ix sub

/-- NO_INDEX, NO_SUB or ACCESS of a write or a read (R351). -/
def accessStatus (s : State) (lvl : Level) (ix sub : Nat) (write : Bool) : Nat :=
  if !indexHere s ix then stNoIndex
  else match rowHere s ix sub with
    | none => stNoSub
    | some r =>
      let kind := if write then r.acc == .rw || r.acc == .wo || r.acc == .w1c else r.acc != .wo
      if kind && decide (levelNo r.level ≤ levelNo lvl) then stOK else stAccess

/-- The value lies within the range of the object's table (R327, R448). -/
def rngOk (r : Row) (v : Nat) : Bool :=
  (r.ty != 10 || v / 2 ^ 23 % 256 != 255) && match r.rng with
    | .any => true
    | .nat lo hi => decide (lo ≤ v) && decide (v ≤ hi)
    | .int lo hi => decide (lo ≤ rawI8 v) && decide (rawI8 v ≤ hi)
    | .f32 lo hi => decide (rawF lo ≤ rawF v) && decide (rawF v ≤ rawF hi)
    | .oneOf l => l.contains v

/-- Reserved bits of a written value are ignored (R8). -/
def dropReserved (ix sub v : Nat) : Nat :=
  if ix = 0x26F0 ∧ sub = 19 then v % 16
  else if ix = 0x2810 ∧ sub = 4 then v % 32
  else if ix = 0x29C0 ∧ (sub = 2 ∨ sub = 4) then v % 65536
  else if ((0x3100 ≤ ix ∧ ix < 0x3200) ∨ isImage ix) ∧ sub = 0x25 then v % 4096
  else v

/-! ### Relations between objects (R252, R448 and the tables) -/

/-- RANGE unless a condition holds. -/
def orRange (b : Bool) : Nat := if b then stOK else stRange

/-- Usable energy of the bound packs in kWh. -/
def boundEnergy (s : State) : Rat := (boundPacks s).foldl (fun a x => a + usable s x.1) 0

/-- Relations of wheel, bus, battery and die objects. -/
def relRack (s : State) (ix sub v : Nat) : Nat :=
  let f := rawF v
  let o (k : Nat) : Rat := latestF s ix k
  match ix, sub with
  | 0x2001, 2 => checkNom s v
  | 0x2001, 3 => checkMainsMax s v
  | 0x2001, 4 => checkMainsMin s v
  | 0x2001, 9 => orRange (decide (f < o 10))
  | 0x2001, 10 => orRange (decide (o 9 < f))
  | 0x2503, 1 => orRange (decide (o 2 ≤ f * 95 / 100))
  | 0x2503, 2 => orRange (decide (f ≤ o 1 * 95 / 100))
  | 0x2503, 3 => orRange (decide (o 4 ≤ f) && decide (f ≤ boundEnergy s))
  | 0x2503, 4 => orRange (decide (f ≤ o 3))
  | 0x26F1, k => orRange ((decide (k ≤ 1) || decide (o (k - 1) < f)) && (decide (11 ≤ k) || decide (f < o (k + 1))))
  | 0x2700, 10 => orRange (decide (f ≤ o 11 - 5))
  | 0x2700, 11 => orRange (decide (o 10 + 5 ≤ f))
  | _, _ => stOK

/-- Relations of port objects. -/
def relPort (s : State) (n sub v : Nat) : Nat :=
  let f := rawF v
  let o (k : Nat) : Rat := latestF s (0x3100 + n) k
  match sub with
  | 8 => orRange (latest s (0x3500 + v) 1 != 0)
  | 0x0B => orRange (pathClassOk s n sub && decide (o 0x0C < f))
  | 0x0C => orRange (pathClassOk s n sub && decide (f < o 0x0B))
  | 0x10 => marginStatus s n v
  | 0x14 => orRange (decide (f < o 0x15))
  | 0x15 => orRange (decide (o 0x14 < f))
  | 0x40 => orRange (decide (f < o 0x41))
  | 0x41 => orRange (decide (o 0x40 < f))
  | _ => stOK

/-- The check of a configuration write against other objects. -/
def relStatus (s : State) (ix sub v : Nat) : Nat :=
  if 0x3100 ≤ ix ∧ ix < 0x3200 then relPort s (ix - 0x3100) sub v
  else if 0x2600 ≤ ix ∧ ix < 0x2620 ∧ sub = 1 then portStatus s (ix - 0x2600) v
  else relRack s ix sub v

/-! ### Configuration writes (R35, R313) -/

/-- Configuration objects that take effect at the next seam; the others take effect at once (DEDUCED where the chapter names no
time, notes/assumptions/78.md). -/
def deferred (ix sub : Nat) : Bool :=
  ix == 0x2001 || (decide (0x2500 ≤ ix) && decide (ix < 0x2800)) || ix == 0x2300 || ix == 0x23F0
    || (ix == 0x2810 && sub == 2) || (decide (0x2980 ≤ ix) && decide (ix < 0x2990))
    || (decide (0x3100 ≤ ix) && decide (ix < 0x3300))

/-- Sends an accepted configuration value to the mate (R313). -/
def mirrorConfig (s : State) (ix sub v : Nat) : State :=
  if ix = 0x2201 ∧ sub = 1 then s else sendCtrl s (.config ix sub v)

/-- An accepted write whose effect is more than a configuration value is sent to the mate, which performs it at the same seam:
loads, commits and exported parameters (R312), curves, group writes, and the commands without which a shadow could not compute
the active's rounds (R313; DEDUCED, notes/assumptions/23.md). -/
def mirrored (r : Nat × State) (ix sub v : Nat) : Nat × State :=
  (r.1, if r.1 = stOK then sendCtrl r.2 (.command ix sub v) else r.2)

/-- Queues a value for its seam. -/
def queueWrite (s : State) (ix sub v : Nat) : State :=
  { s with net := { s.net with
    pend := s.net.pend ++ [{ index := ix, sub := sub, value := v, skip := skipNow s }] } }

/-- A write of a configuration object. -/
def plainWrite (s : State) (ix sub v : Nat) : Nat × State :=
  let st := relStatus s ix sub v
  if st ≠ stOK then (st, s)
  else (stOK, mirrorConfig (if deferred ix sub then queueWrite s ix sub v else setCfg s ix sub v) ix sub v)

/-! ### Objects with an effect of their own -/

/-- Bits of 0x2000.09 whose cause is still present (R9, R52). -/
def wheelCauses (s : State) : Word :=
  let w := s.wheel
  let slip := w.state == .slip
  setBitIf (w.state == .holdover) (setBitIf (slip && w.slipHigh) (setBitIf (slip && !w.slipHigh)
    (setBitIf (w.mode == 1 && w.syncLost) (setBitIf s.feedA.jump (setBitIf s.feedB.jump 0 6) 5) 4) 3) 2) 1

/-- A W1C write of 0x2000.09 (R52). -/
def wheelStickyWrite (s : State) (v : Word) : Nat × State :=
  (stOK, { s with wheel := { s.wheel with
    sticky := clearBits s.wheel.sticky (clearBits (v &&& 0x1FF) (wheelCauses s)) } })

/-- A W1C write of 0x2140.04 (R85). -/
def arrayStickyWrite (s : State) (v : Word) : Nat × State :=
  (stOK, { s with arr := { s.arr with arraySticky := clearBits s.arr.arraySticky (v &&& 1) } })

/-- A W1C write of 0x2160 + s.02 (R86). -/
def sleeveStickyWrite (s : State) (n : Nat) (v : Word) : Nat × State :=
  (stOK, updSleeve s n fun x => { x with sticky := clearBits x.sticky (v &&& 0x7F7F) })

/-- A W1C write of the flags of an engine (R120). -/
def engFlagsWrite (s : State) (e v : Nat) : Nat × State :=
  (stOK, updEngine s e fun x => { x with flags := x.flags &&& ~~~(BitVec.ofNat 16 v) })

/-- A W1C write of 0x2980 + c.03 (R401). -/
def senseStickyWrite (s : State) (c : Nat) (v : Word) : Nat × State :=
  let causes := setBitIf (s.sense.ovr.toNat.testBit c) (setBitIf (s.sense.suspect.toNat.testBit c) 0 1) 0
  (stOK, { s with sense := { s.sense with
    sticky := tset 0 s.sense.sticky c (clearBits (tget 0 s.sense.sticky c) (clearBits (v &&& 3) causes)) } })

/-- A W1C write of 0x26F0.14; CWD_EXPIRED stays set while the fallback lasts (R9, R278). -/
def shelfStickyWrite (s : State) (v : Word) : Nat × State :=
  let causes := setBitIf s.shelf.cwdSafe 0 0
  (stOK, { s with shelf := { s.shelf with sticky := clearBits s.shelf.sticky (clearBits (v &&& 0xF) causes) } })

/-- A W1C write of 0x2600 + p.1C (R277). -/
def packStickyWrite (s : State) (p : Nat) (v : Word) : Nat × State :=
  let k := pack s p
  let causes := setBitIf (decide (k.idState = 0) && k.bound.isSome && decide (kcfg s p 2 ≠ 0xFF)) 0 4
  let causes := setBitIf (k.chgState == 5) causes 3
  (stOK, updPack s p fun k => { k with sticky := clearBits k.sticky (clearBits (v &&& 0xFF) causes) })

/-- A session closes, with its subscriptions (R335, R345). -/
def closeNow (s : State) (k : Nat) : State :=
  { s with net := { s.net with
    sessions := tdel s.net.sessions k, subs := s.net.subs.filter fun x => x.session != k } }

/-- A write of CLOSE_SESSION (R335, R352). -/
def closeWrite (s : State) (k : Nat) : Nat × State :=
  if (tfind s.net.sessions k).isSome then (stOK, closeNow s k) else (stRange, s)

/-- A write of HUSHED (R349). -/
def hushWrite (s : State) (v : Nat) : Nat × State := (stOK, { s with net := { s.net with hushed := v != 0 } })

/-- A write of CAP_SELECT (R245, R350). -/
def capSelectWrite (s : State) (v : Nat) : Nat × State :=
  (stOK, sendCtrl (capSelectNow s v) (.capSelect (BitVec.ofNat 8 v)))

/-- A write of a field of a sequencing step (R301). -/
def stepWrite (s : State) (i sub v : Nat) : Nat × State :=
  if (stepSt s i).state = 1 ∨ (stepSt s i).state = 2 then (stBusy, s) else plainWrite s (0x2400 + i) sub v

/-- A release, sent to the mate as well (R298, R313). -/
def withRelease (r : Nat × State) (scope n : Nat) : Nat × State :=
  (r.1, if r.1 = stOK then sendCtrl r.2 (.release scope n) else r.2)

/-- A write of CLEAR_GROUP: every port release in it is sent to the mate as well (R298, R313, R344). -/
def clearGroupWrite (s : State) (g : Nat) : Nat × State :=
  let ok := (members s g).filter fun n => !clearPortRefused s n
  let r := clearGroup s g
  (r.1, forAll ok (fun s n => sendCtrl s (.release 0 n)) r.2)

/-- A write of membership: not while a group write of the group awaits its seam or its commit (R26). -/
def memberWrite (s : State) (g k v : Nat) : Nat × State :=
  if (s.net.pend.any fun p => isImage p.index && imageGroup p.index == g)
      || (s.arm.group == some g && (s.arm.queued || s.arm.state == 1 || s.arm.state == 2)) then (stBusy, s)
  else plainWrite s (0x3200 + g) k v

/-- A breaker curve object is staged until APPLY (R204). -/
def stageCurve (s : State) (c sub v : Nat) : Nat × State :=
  mirrored (stOK, { s with net := { s.net with staged := tput s.net.staged (c * 256 + sub) v } }) (0x3500 + c) sub v

/-- A write of GPIO registers (R404, R405). -/
def gpioWrite (s : State) (sub v : Nat) : Nat × State :=
  let w := BitVec.ofNat 32 v
  let g := s.gpio
  match sub with
  | 1 => (stOK, { s with gpio := { g with dir := gpioPut false g.dir w } })
  | 2 => (stOK, { s with gpio := { g with dir := gpioPut true g.dir w } })
  | 3 => (stOK, { s with gpio := { g with out := gpioPut false g.out w } })
  | 4 => (stOK, { s with gpio := { g with out := gpioPut true g.out w } })
  | 13 => gpioSet s false w
  | 14 => gpioSet s true w
  | 15 => gpioClr s false w
  | 16 => gpioClr s true w
  | _ => if 7 ≤ sub ∧ sub ≤ 12 then gpioFunc s (sub - 7) w else (stOK, s)

/-- Writes below 0x2000. -/
def effect1000 (s : State) (ix sub v : Nat) : Nat × State :=
  let w := BitVec.ofNat 32 v
  match ix, sub with
  | 0x1100, 7 => closeWrite s v
  | 0x1130, 1 => hushWrite s v
  | 0x1020, 4 => sleepWrite s v
  | 0x1020, 5 => wakeWrite s v
  | 0x1020, 7 => bootStickyWrite s w
  | 0x1800, 6 => activateWrite s v
  | 0x1800, 7 => confirmWrite s v
  | 0x1800, 10 => floorWrite s v
  | 0x1810, 2 => feLoadWrite s v
  | _, _ => if 0x1808 ≤ ix ∧ ix < 0x180D then dlAbortWrite s (ix - 0x1808) v else plainWrite s ix sub v

/-- Writes from 0x2000 to 0x23FF. -/
def effect2000 (s : State) (ix sub v : Nat) : Nat × State :=
  let w := BitVec.ofNat 32 v
  match ix, sub with
  | 0x2000, 9 => wheelStickyWrite s w
  | 0x2140, 4 => arrayStickyWrite s w
  | 0x2101, 3 => if v = 0 then (stOK, s) else mirrored (loadStartNow s) ix sub v
  | 0x2101, 6 => if v = 0 then (stOK, s) else mirrored (commitNow s) ix sub v
  | 0x2300, 1 => summaryWrite s w
  | 0x2310, 1 => if v = 0 then (stOK, s) else withRelease (clearController s v) 2 0
  | 0x2310, 2 => withRelease (clearSleeve s v) 1 v
  | 0x2310, 3 => withRelease (clearPort s v) 0 v
  | 0x2310, 4 => clearGroupWrite s v
  | 0x23F0, 1 => seqCmd s v
  | 0x23F0, 9 => seqStickyWrite s w
  | 0x2200, 14 => pairStickyWrite s w
  | 0x2201, 3 => handoverWrite s v
  | 0x2201, 5 => withdrawWrite s v
  | _, _ =>
    if 0x2160 ≤ ix ∧ ix < 0x2180 then sleeveStickyWrite s (ix - 0x2160) w
    else if 0x2180 ≤ ix ∧ ix < 0x21A0 then engFlagsWrite s (32 * (ix - 0x2180) + (sub - 1)) v
    else plainWrite s ix sub v

/-- Writes from 0x2400 to 0x27FF. -/
def effect2400 (s : State) (ix sub v : Nat) : Nat × State :=
  let w := BitVec.ofNat 32 v
  match ix, sub with
  | 0x2500, 16 => flowStickyWrite s w
  | 0x2501, 1 => mirrored (xferWrite s v) ix sub v
  | 0x2505, 3 => capSelectWrite s v
  | 0x26F0, 1 => let r := plainWrite s ix sub v; (r.1, if r.1 = stOK then hostCharge r.2 else r.2)
  | 0x26F0, 2 => let r := plainWrite s ix sub v; (r.1, if r.1 = stOK then hostCharge r.2 else r.2)
  | 0x26F0, 12 => kickWrite s v
  | 0x26F0, 15 => mirrored (shipWrite s v) ix sub v
  | 0x26F0, 20 => shelfStickyWrite s w
  | _, _ =>
    if ix < 0x2500 then stepWrite s (ix - 0x2400) sub v
    else if 0x2600 ≤ ix ∧ ix < 0x2620 ∧ sub = 10 then mirrored (packResetWrite s (ix - 0x2600) v) ix sub v
    else if 0x2600 ≤ ix ∧ ix < 0x2620 ∧ sub = 28 then packStickyWrite s (ix - 0x2600) w
    else plainWrite s ix sub v

/-- Writes of a timer channel (R391, R396, R397). -/
def timerWrite (s : State) (t sub v : Nat) : Nat × State :=
  let w := BitVec.ofNat 32 v
  match sub with
  | 1 => timerCtrlWrite s t w
  | 2 => countWrite s t w
  | 3 => preloadWrite s t false w
  | 4 => preloadWrite s t true w
  | _ => timerStickyWrite s t w

/-- Writes from 0x2800 to 0x2FFF. -/
def effect2800 (s : State) (ix sub v : Nat) : Nat × State :=
  let w := BitVec.ofNat 32 v
  match ix, sub with
  | 0x2800, 7 => (stOK, s)
  | 0x2800, 12 => recStickyWrite s w
  | 0x2810, 5 => traceNowWrite s v
  | 0x2810, 8 => releaseWrite s v
  | 0x2820, 1 => freezeWrite s v
  | 0x29C0, k => gpioWrite s k v
  | _, _ =>
    if 0x2900 ≤ ix ∧ ix < 0x2910 then
      (if sub = 4 then twStickyWrite s (ix - 0x2900) w else twCtrlWrite s (ix - 0x2900) sub w)
    else if 0x2940 ≤ ix ∧ ix < 0x2980 then timerWrite s (ix - 0x2940) sub v
    else if 0x2980 ≤ ix ∧ ix < 0x2990 ∧ sub = 3 then senseStickyWrite s (ix - 0x2980) w
    else plainWrite s ix sub v

/-- Writes of a port's configuration (R195, R198, R216, R220). -/
def effect3100 (s : State) (n sub v : Nat) : Nat × State :=
  if sub = 1 then mirrored (portCmd s n v) (0x3100 + n) sub v
  else if sub = 0x1B then snapWrite s n v
  else if 9 ≤ sub ∧ sub ≤ 0x0C then
    let st := relPort s n sub v
    if st ≠ stOK then (st, s)
    else
      let r := pathWrite s [n] sub v
      (r.1, if r.1 = stOK then mirrorConfig r.2 (0x3100 + n) sub v else r.2)
  else plainWrite s (0x3100 + n) sub v

/-- The effect of a write, and its status from RANGE on. -/
def effect (s : State) (ix sub v : Nat) : Nat × State :=
  if ix < 0x2000 then effect1000 s ix sub v
  else if ix < 0x2400 then effect2000 s ix sub v
  else if ix < 0x2800 then effect2400 s ix sub v
  else if ix < 0x3000 then effect2800 s ix sub v
  else if ix < 0x3100 then
    (if sub = 4 then portStickyWrite s (ix - 0x3000) (BitVec.ofNat 32 v)
     else thermStickyWrite s (ix - 0x3000) (BitVec.ofNat 32 v))
  else if ix < 0x3200 then effect3100 s (ix - 0x3100) sub v
  else if ix < 0x3300 then memberWrite s (ix - 0x3200) sub v
  else if 0x3500 ≤ ix ∧ ix < 0x3510 then
    (if sub = 0x13 then mirrored (applyWrite s (ix - 0x3500) v) ix sub v else stageCurve s (ix - 0x3500) sub v)
  else if ix = 0x6080 then foldWrite s v
  else (stOK, s)

/-! ### Group writes (R342 to R344) -/

/-- A far-end path object (R195). -/
def isPath (sub : Nat) : Bool := decide (9 ≤ sub) && decide (sub ≤ 0x0C)

/-- Status of a group write's object for one member. -/
def memberStatus (s : State) (sub v n : Nat) : Nat :=
  if sub = 0xF4 then stOK
  else if isPath sub then relPort s n sub v
  else (effect3100 s n sub v).1

/-- TELEM_SET to a far end: a stream begins or ends; DECIMATE and SOURCE are free, since no rule states them (R181, R187). -/
def telemSetMsg (s : State) (n q : Nat) (on : Bool) : State :=
  let r := Config.freeWord s.draws
  let w := Config.freeWord (s.draws + 1)
  sendMsg { s with draws := s.draws + 2 } n 0 6 (leBytes 1 q ++ leBytes 1 (b2n on) ++ leBytes 2 (r.toNat % 65536) ++ wordBytes w)

/-- TELEM_MASK takes effect: each stream whose bit changes is enabled or disabled at the far end, by a unit with authority
(R164, R187). -/
def telemMaskNow (s : State) (n old v : Nat) : State :=
  if !commands s then s
  else ((List.range 8).filter fun k => old.testBit k != v.testBit k).foldl (fun s k =>
    telemSetMsg s n (k + 6) (v.testBit k)) s

/-- Replaces the results of a group. -/
def setRes (s : State) (g : Nat) (r : GroupRes) : State := { s with net := { s.net with gres := tput s.net.gres g r } }

/-- A write of a group image (R342). -/
def groupWrite (s : State) (ix sub v : Nat) : Nat × State :=
  let g := imageGroup ix
  let ms := members s g
  let old := tget {} s.net.gres g
  match ms.find? fun n => memberStatus s sub v n != stOK with
  | some n =>
    (stGroup, setRes s g { old with
      written := [], late := [], failPort := n, failStatus := memberStatus s sub v n, target := sub })
  | none =>
    let res : GroupRes :=
      { written := [], late := [], failPort := 0xFFFF, failStatus := 0, target := sub,
        applySeam := s.wheel.seam + BitVec.ofNat 32 (1 + skipNow s) }
    if isPath sub then
      let r := pathWrite s ms sub v
      if r.1 ≠ stOK then (r.1, s)
      else
        let t := setRes r.2 g { res with written := ms }
        let t := if t.arm.queued then { t with arm := { t.arm with group := some g } } else t
        mirrored (stOK, t) ix sub v
    else
      let t := if sub = 1 then forAll ms (fun s n => queueCmd s n v) s else s
      mirrored (stOK, queueWrite (setRes t g res) ix sub v) ix sub v

/-! ### What a seam applies -/

/-- A value takes effect at its seam. -/
def applyOne (s : State) (ix sub v : Nat) : State :=
  let t := setCfg s ix sub v
  if 0x2600 ≤ ix ∧ ix < 0x2620 ∧ sub = 1 then bindNow t (ix - 0x2600) v
  else if ix = 0x2810 ∧ sub = 2 then traceLenNow t v
  else if 0x3100 ≤ ix ∧ ix < 0x3200 ∧ sub = 0x10 then marginNow t (ix - 0x3100) v
  else if 0x3100 ≤ ix ∧ ix < 0x3200 ∧ sub = 0x20 ∧ v = 0 then disablePort t (ix - 0x3100)
  else if 0x3100 ≤ ix ∧ ix < 0x3200 ∧ sub = 0x24 then telemMaskNow t (ix - 0x3100) (cfg s ix sub) v
  else t

/-- A group write at its seam for one member that passes the checks again. -/
def applyMember (s : State) (sub v n : Nat) : State :=
  if sub = 1 then s
  else if sub = 0xF4 then (portStickyWrite s n (BitVec.ofNat 32 v)).2
  else if sub = 0x1B then (if v = 0 then s else snapNow s n)
  else applyOne s (0x3100 + n) sub v

/-- A group write at its seam: members that no longer meet a condition are left unchanged (R343). -/
def applyGroup (s : State) (p : PendWrite) : State :=
  let g := imageGroup p.index
  let ms := members s g
  let ok := ms.filter fun n => memberStatus s p.sub p.value n == stOK
  let late := ms.filter fun n => memberStatus s p.sub p.value n != stOK
  let s := forAll ok (fun s n => applyMember s p.sub p.value n) s
  let s := if p.sub = 1 then
      forAll late (fun s n => updCtl s n fun c => { c with pend := c.pend.filter fun x => x != (p.value, 0) }) s
    else s
  setRes s g { tget {} s.net.gres g with written := ok, late := late, applySeam := s.wheel.seam }

/-- The writes that a seam applies, in the order of their acceptance (R27, R35). -/
def applyPend (s : State) : State :=
  let due := s.net.pend.filter fun p => p.skip == 0
  let later := (s.net.pend.filter fun p => p.skip != 0).map fun p => { p with skip := p.skip - 1 }
  let s := { s with net := { s.net with pend := later } }
  due.foldl (fun s p => if isImage p.index then applyGroup s p else applyOne s p.index p.sub p.value) s

/-! ### The checks of a write in order (R351) -/

/-- The Collar's server, or that of the recovery ROM, runs (R412, R422). -/
def serverRuns (s : State) : Bool := (collarRuns s || s.boot.recovery) && !inReset s

/-- STATE for every write of this object in the present state or role (R314, R377, R424). -/
def gated (s : State) (ix sub : Nat) : Bool :=
  s.boot.frozen || (s.boot.asleep && !(ix == 0x1020 && sub == 5))
    || (!commands s && !s.boot.recovery && !(decide (ix < 0x1300) || (decide (0x1800 ≤ ix) && decide (ix < 0x1900))
      || (decide (0x2200 ≤ ix) && decide (ix < 0x2300))))

/-- A write of an exported parameter (R127, R134). -/
def paramWrite (s : State) (p : Param) (v : Nat) : Nat × State :=
  if !paramInRange p v then (stRange, s)
  else if s.pat.shadowState == 2 then (stBusy, s)
  else mirrored (stOK, queueParam s p.index p.sub v) p.index p.sub v

/-- The effect of a write whose object, access and type are right; STATE of the controller or role comes after RANGE and
before every other refusal. -/
def rightWrite (s : State) (ix sub v : Nat) : Nat × State :=
  let r := match paramAt s ix sub with
    | some p => paramWrite s p v
    | none =>
      let v := dropReserved ix sub v
      if isImage ix then groupWrite s ix sub v else effect s ix sub v
  if r.1 = stRange then r else if gated s ix sub then (stState, s) else r

/-- A write of a number to an object (R351). -/
def objWrite (s : State) (lvl : Level) (ix sub v : Nat) : Nat × State :=
  let a := accessStatus s lvl ix sub true
  if a ≠ stOK then (a, s)
  else match rowHere s ix sub with
    | none => (stNoSub, s)
    | some r =>
      if 11 ≤ r.ty ∨ (r.ty = 1 ∧ 1 < v) then (stType, s)
      else if !rngOk r v then (stRange, s)
      else rightWrite s ix sub v

/-- Bytes of a number type (R327). -/
def typeSize (ty : Nat) : Nat :=
  match ty with
  | 1 | 2 | 6 => 1
  | 3 | 7 => 2
  | 4 | 8 | 10 => 4
  | 5 | 9 => 8
  | _ => 0

/-- Continuation bytes of UTF-8. -/
def contBytes (l : List Byte) (k : Nat) : Bool := decide (k ≤ l.length) && (l.take k).all fun b => b.toNat / 64 == 2

/-- Valid UTF-8, looked at by lead bytes; `fuel` bounds the length. -/
def utf8Ok : Nat → List Byte → Bool
  | 0, l => l.isEmpty
  | _ + 1, [] => true
  | k + 1, b :: t =>
    let x := b.toNat
    let y := ((t.head?).getD 0).toNat
    if x < 0x80 then utf8Ok k t
    else if 0xC2 ≤ x ∧ x < 0xE0 then contBytes t 1 && utf8Ok k (t.drop 1)
    else if 0xE0 ≤ x ∧ x < 0xF0 then
      contBytes t 2 && (x != 0xE0 || decide (0xA0 ≤ y)) && (x != 0xED || decide (y < 0xA0)) && utf8Ok k (t.drop 2)
    else if 0xF0 ≤ x ∧ x < 0xF5 then
      contBytes t 3 && (x != 0xF0 || decide (0x90 ≤ y)) && (x != 0xF4 || decide (y < 0x90)) && utf8Ok k (t.drop 3)
    else false

/-- A write of a LABEL (R25, R327). -/
def labelWrite (s : State) (g : Nat) (bytes : List Byte) : Nat × State :=
  match bytes with
  | [] => (stType, s)
  | n :: t =>
    if t.length ≠ n.toNat ∨ utf8Ok t.length t = false then (stType, s)
    else if 16 < n.toNat then (stRange, s)
    else if gated s (0x3200 + g) 11 then (stState, s)
    else (stOK, sendCtrl { s with net := { s.net with labels := tset [] s.net.labels g t } } (.bytes (0x3200 + g) 11 t))

/-- One item of a WRITE, for a session (R327, R330, R351). -/
def writeItem (s : State) (lvl : Level) (session : Nat) (i : WriteItem) : Nat × State :=
  let a := accessStatus s lvl i.index i.sub true
  if a ≠ stOK then (a, s)
  else match rowHere s i.index i.sub with
    | none => (stNoSub, s)
    | some r =>
      if i.ty ≠ r.ty ∨ r.ty = 12 then (stType, s)
      else if r.ty = 11 then labelWrite s (i.index - 0x3200) i.value
      else if i.value.length ≠ typeSize r.ty then (stType, s)
      else
        let o := objWrite s lvl i.index i.sub (leNat i.value)
        if i.index = 0x2800 ∧ i.sub = 7 ∧ o.1 = stOK then (stOK, locateNow o.2 session (BitVec.ofNat 32 (leNat i.value)))
        else o

/-- Keys (R353): 32 bytes not all zero. -/
def levelKeyWrite (s : State) (lvl : Level) (k : Nat) (key : List Byte) : Nat × State :=
  let a := accessStatus s lvl 0x1200 k true
  if a ≠ stOK then (a, s)
  else if key.length ≠ 32 ∨ (key.all fun b => b == 0) = true then (stRange, s)
  else if gated s 0x1200 k then (stState, s)
  else (stOK, sendCtrl { s with net := { s.net with levelKeys := tput s.net.levelKeys k key } } (.bytes 0x1200 k key))

/-- Image keys (R353): 97 bytes, a point on the curve. -/
def imageKeyWrite (s : State) (lvl : Level) (k : Nat) (key : List Byte) : Nat × State :=
  let a := accessStatus s lvl 0x1210 k true
  if a ≠ stOK then (a, s)
  else if key.length ≠ 97 ∨ Config.onCurve key = false then (stRange, s)
  else if gated s 0x1210 k then (stState, s)
  else (stOK, sendCtrl { s with net := { s.net with imageKeys := tput s.net.imageKeys k key } } (.bytes 0x1210 k key))

/-- A write of XFER (R380). -/
def xferObjWrite (s : State) (lvl : Level) (c : Nat) (x : Xfer) : Nat × State :=
  let a := accessStatus s lvl (0x2900 + c) 0x10 true
  if a ≠ stOK then (a, s)
  else if xferStatus (twc s c) x = stRange then (stRange, s)
  else if gated s (0x2900 + c) 0x10 then (stState, s)
  else twXferWrite s c x

/-- A write of CTRL of a two-wire controller with CLEAR = 1 and its other fields kept; the level of SDA after the STOP is
the bus's (R385). -/
def clearObjWrite (s : State) (lvl : Level) (c : Nat) (sda : Bool) : Nat × State :=
  let a := accessStatus s lvl (0x2900 + c) 1 true
  if a ≠ stOK then (a, s) else if gated s (0x2900 + c) 1 then (stState, s) else clearWrite s c sda

/-! ### CTRL records of the mate (R308, R312, R313, R318, R350) -/

/-- A write that the ACTIVE performed, performed here too; a commit ends a join (R312). -/
def mateCommand (s : State) (ix sub v : Nat) : State :=
  if s.pair.role == .joining && ix == 0x2101 && sub == 6 then toRole s .out
  else match paramAt s ix sub with
    | some p => (paramWrite s p v).2
    | none => if isImage ix then (groupWrite s ix sub v).2 else (effect s ix sub v).2

/-- A string or key of the ACTIVE (R313). -/
def mateBytes (s : State) (ix sub : Nat) (v : List Byte) : State :=
  if ix = 0x1200 then { s with net := { s.net with levelKeys := tput s.net.levelKeys sub v } }
  else if ix = 0x1210 then { s with net := { s.net with imageKeys := tput s.net.imageKeys sub v } }
  else { s with net := { s.net with labels := tset [] s.net.labels (ix - 0x3200) v } }

/-- CTRL. A configuration value takes effect at the same seam as in the active. -/
def execCtrl (c : Ctrl) (s : State) : Out :=
  .next (if s.pair.link != 2 then s
  else match c with
  | .handover => takeHandover s
  | .role r =>
    let s := mateRoleIs s r
    if r == .hot && s.pair.role == .hot then { s with pair := { s.pair with takeAtSeam := some (skipNow s) } } else s
  | .config ix sub v =>
    if commands s || (ix == 0x2201 && sub == 1) then s
    else { s with net := { s.net with
      pend := s.net.pend ++ [{ index := ix, sub := sub, value := v, skip := skipNow s }] } }
  | .command ix sub v => if commands s then s else mateCommand s ix sub v
  | .bytes ix sub v => if commands s then s else mateBytes s ix sub v
  | .capSelect a => if commands s then s else capSelectNow s a.toNat
  | .release scope n =>
    if commands s then s
    else if scope = 0 then (clearPort s n).2 else if scope = 1 then (clearSleeve s n).2 else (clearController s 1).2
  | .packState p soc cap conf rested =>
    if commands s then s
    else updPack s p fun k => { k with soc := f32Val soc, capLearned := f32Val cap, conf := conf, rested := rested }
  | .watchdog safe count =>
    if commands s then s else { s with shelf := { s.shelf with cwdSafe := safe, cwdTime := f32Val count } }
  | .sequencer st step => if commands s then s else { s with sq := { s.sq with state := st, step := step } })

/-! ### Commands that write one object -/

/-- What the server answers; with no server running nothing is executed (notes/assumptions/1.md). -/
def served (s : State) (f : State → Nat × State) : State :=
  if !serverRuns s || s.boot.frozen then withStatus s stState
  else
    let s := { s with net := { s.net with msgNo := s.net.msgNo + 1 } }
    let r := f s
    withStatus r.2 r.1

/-- A write of a number to one object. -/
def cmd (s : State) (lvl : Level) (ix sub v : Nat) : State := served s fun s => objWrite s lvl ix sub v

/-- WHEEL_MODE (R41, R51). -/
def execWheelMode (lvl : Level) (v : Byte) (s : State) : Out := .next (cmd s lvl 0x2001 1 v.toNat)
/-- F_MAINS_MAX (R32, R33). -/
def execFMainsMax (lvl : Level) (v : Word) (s : State) : Out := .next (cmd s lvl 0x2001 3 v.toNat)
/-- F_MAINS_MIN (R32, R33). -/
def execFMainsMin (lvl : Level) (v : Word) (s : State) : Out := .next (cmd s lvl 0x2001 4 v.toNat)
/-- F_NOM (R33). -/
def execFNom (lvl : Level) (v : Word) (s : State) : Out := .next (cmd s lvl 0x2001 2 v.toNat)
/-- LOAD_START (R130). -/
def execLoadStart (lvl : Level) (v : Byte) (s : State) : Out := .next (cmd s lvl 0x2101 3 v.toNat)
/-- COMMIT (R132). -/
def execCommit (lvl : Level) (v : Byte) (s : State) : Out := .next (cmd s lvl 0x2101 6 v.toNat)
/-- EXPORTED_PARAMETER (R127). -/
def execExportedParameter (lvl : Level) (item : WriteItem) (s : State) : Out :=
  .next (served s fun s => if 0x5000 ≤ item.index ∧ item.index ≤ 0x5FFF then writeItem s lvl 0 item else (stNoIndex, s))
/-- START (R198). -/
def execStart (lvl : Level) (n : PortId) (s : State) : Out := .next (cmd s lvl (0x3100 + n) 1 1)
/-- STOP (R198). -/
def execStop (lvl : Level) (n : PortId) (s : State) : Out := .next (cmd s lvl (0x3100 + n) 1 2)
/-- APPLY (R204). -/
def execApply (lvl : Level) (c : CurveId) (v : Byte) (s : State) : Out := .next (cmd s lvl (0x3500 + c) 0x13 v.toNat)
/-- MARGIN (R216). -/
def execMargin (lvl : Level) (n : PortId) (v : Byte) (s : State) : Out := .next (cmd s lvl (0x3100 + n) 0x10 v.toNat)
/-- SNAP (R220). -/
def execSnap (lvl : Level) (n : PortId) (v : Byte) (s : State) : Out := .next (cmd s lvl (0x3100 + n) 0x1B v.toNat)
/-- Sub of a far-end path field (R195). -/
def pathSub : FePath → Nat
  | .fastLimit => 9 | .fastMode => 0x0A | .ovLevel => 0x0B | .ovRelease => 0x0C
/-- FAR_END_PATH_WRITE (R195). -/
def execFarEndPathWrite (lvl : Level) (n : PortId) (f : FePath) (v : Word) (s : State) : Out :=
  .next (cmd s lvl (0x3100 + n) (pathSub f) v.toNat)
/-- FAST_TRIP_CLEAR: a write of the FAST_TRIP and FE_LOCKOUT bits among `bits` (R203). -/
def execFastTripClear (lvl : Level) (n : PortId) (bits : Word) (s : State) : Out :=
  .next (cmd s lvl (0x3000 + n) 4 (bits &&& 0x30000).toNat)
/-- OV_LATCH_CLEAR (R211). -/
def execOvLatchClear (lvl : Level) (n : PortId) (s : State) : Out := .next (cmd s lvl (0x3000 + n) 4 (2 ^ 21))
/-- XFER_CMD (R234). -/
def execXferCmd (lvl : Level) (v : Byte) (s : State) : Out := .next (cmd s lvl 0x2501 1 v.toNat)
/-- CAP_SELECT (R245). -/
def execCapSelect (lvl : Level) (v : Byte) (s : State) : Out := .next (cmd s lvl 0x2505 3 v.toNat)
/-- PORT of a pack (R252). -/
def execPort (lvl : Level) (p : PackId) (v : BitVec 16) (s : State) : Out := .next (cmd s lvl (0x2600 + p) 1 v.toNat)
/-- PACK_RESET (R263). -/
def execPackReset (lvl : Level) (p : PackId) (v : Byte) (s : State) : Out := .next (cmd s lvl (0x2600 + p) 10 v.toNat)
/-- CWD_KICK (R267). -/
def execCwdKick (lvl : Level) (v : Byte) (s : State) : Out := .next (cmd s lvl 0x26F0 12 v.toNat)
/-- ICHG (R267). -/
def execIchg (lvl : Level) (v : Word) (s : State) : Out := .next (cmd s lvl 0x26F0 1 v.toNat)
/-- VCHG (R267). -/
def execVchg (lvl : Level) (v : Word) (s : State) : Out := .next (cmd s lvl 0x26F0 2 v.toNat)
/-- SHIP_CMD (R269). -/
def execShipCmd (lvl : Level) (v : Byte) (s : State) : Out := .next (cmd s lvl 0x26F0 15 v.toNat)
/-- RUN (R285). -/
def execRun (lvl : Level) (s : State) : Out := .next (cmd s lvl 0x23F0 1 1)
/-- SHUTDOWN (R285). -/
def execShutdown (lvl : Level) (s : State) : Out := .next (cmd s lvl 0x23F0 1 2)
/-- CLEAR_CONTROLLER (R298). -/
def execClearController (lvl : Level) (v : Byte) (s : State) : Out := .next (cmd s lvl 0x2310 1 v.toNat)
/-- CLEAR_SLEEVE (R298). -/
def execClearSleeve (lvl : Level) (v : Byte) (s : State) : Out := .next (cmd s lvl 0x2310 2 v.toNat)
/-- CLEAR_PORT (R298). -/
def execClearPort (lvl : Level) (v : BitVec 16) (s : State) : Out := .next (cmd s lvl 0x2310 3 v.toNat)
/-- CLEAR_GROUP (R298). -/
def execClearGroup (lvl : Level) (v : Byte) (s : State) : Out := .next (cmd s lvl 0x2310 4 v.toNat)
/-- HANDOVER (R318). -/
def execHandover (lvl : Level) (v : Byte) (s : State) : Out := .next (cmd s lvl 0x2201 3 v.toNat)
/-- WITHDRAW (R324). -/
def execWithdraw (lvl : Level) (v : Byte) (s : State) : Out := .next (cmd s lvl 0x2201 5 v.toNat)
/-- HUSHED (R349). -/
def execHushed (lvl : Level) (v : Byte) (s : State) : Out := .next (cmd s lvl 0x1130 1 v.toNat)
/-- CLOSE_SESSION (R335). -/
def execCloseSession (lvl : Level) (v : BitVec 16) (s : State) : Out := .next (cmd s lvl 0x1100 7 v.toNat)
/-- LEVEL_KEY (R333, R353). -/
def execLevelKey (lvl : Level) (k : Nat) (key : List Byte) (s : State) : Out :=
  .next (served s fun s => levelKeyWrite s lvl k key)
/-- IMAGE_KEY (R353). -/
def execImageKey (lvl : Level) (k : Nat) (key : List Byte) (s : State) : Out :=
  .next (served s fun s => imageKeyWrite s lvl k key)
/-- MEMBERS (R25, R26). -/
def execMembers (lvl : Level) (g : GroupId) (k : Nat) (v : Word) (s : State) : Out :=
  .next (served s fun s => if 1 ≤ k ∧ k ≤ 8 then objWrite s lvl (0x3200 + g) k v.toNat else (stNoSub, s))
/-- GROUP_WRITE (R342). -/
def execGroupWrite (lvl : Level) (g : Option GroupId) (sub ty : Nat) (value : List Byte) (s : State) : Out :=
  .next (served s fun s =>
    let ix := match g with
      | some k => 0x3300 + k.val
      | none => 0x33FF
    writeItem s lvl 0 { index := ix, sub := sub, ty := ty, value := value })
/-- OBJECT_WRITE (R328). -/
def execObjectWrite (lvl : Level) (item : WriteItem) (s : State) : Out := .next (served s fun s => writeItem s lvl 0 item)
/-- FOLD (R358). -/
def execFold (lvl : Level) (v : Byte) (s : State) : Out := .next (cmd s lvl 0x6080 3 v.toNat)
/-- TRACE_NOW (R373). -/
def execTraceNow (lvl : Level) (v : Byte) (s : State) : Out := .next (cmd s lvl 0x2810 5 v.toNat)
/-- RELEASE (R374). -/
def execRelease (lvl : Level) (v : Byte) (s : State) : Out := .next (cmd s lvl 0x2810 8 v.toNat)
/-- TRACE_LEN (R375). -/
def execTraceLen (lvl : Level) (v : BitVec 16) (s : State) : Out := .next (cmd s lvl 0x2810 2 v.toNat)
/-- FREEZE (R376). -/
def execFreeze (lvl : Level) (v : Byte) (s : State) : Out := .next (cmd s lvl 0x2820 1 v.toNat)
/-- XFER (R380). -/
def execXfer (lvl : Level) (c : TwId) (x : Xfer) (s : State) : Out := .next (served s fun s => xferObjWrite s lvl c x)
/-- CLEAR (R385). -/
def execClear (lvl : Level) (c : TwId) (sda : Bool) (s : State) : Out := .next (served s fun s => clearObjWrite s lvl c sda)
/-- TWO_WIRE_CTRL: CTRL, SCL_TIMING, DATA_TIMING or COMPAT_DIV (R383). -/
def execTwoWireCtrl (lvl : Level) (c : TwId) (sub : Nat) (v : Word) (s : State) : Out :=
  .next (served s fun s =>
    if sub = 1 ∨ sub = 2 ∨ sub = 3 ∨ sub = 5 then objWrite s lvl (0x2900 + c) sub v.toNat else (stNoSub, s))
/-- TIMER_PRELOAD_WRITE (R391). -/
def execTimerPreloadWrite (lvl : Level) (t : TimerId) (isCompare : Bool) (v : Word) (s : State) : Out :=
  .next (cmd s lvl (0x2940 + t) (if isCompare then 4 else 3) v.toNat)
/-- COUNT (R391). -/
def execCount (lvl : Level) (t : TimerId) (v : Word) (s : State) : Out := .next (cmd s lvl (0x2940 + t) 2 v.toNat)
/-- SET (R404). -/
def execSet (lvl : Level) (hi : Bool) (v : Word) (s : State) : Out := .next (cmd s lvl 0x29C0 (if hi then 14 else 13) v.toNat)
/-- CLR (R404). -/
def execClr (lvl : Level) (hi : Bool) (v : Word) (s : State) : Out := .next (cmd s lvl 0x29C0 (if hi then 16 else 15) v.toNat)
/-- DL_ABORT (R415). -/
def execDlAbort (lvl : Level) (x : Fin 5) (v : Byte) (s : State) : Out := .next (cmd s lvl (0x1808 + x) 5 v.toNat)
/-- ACTIVATE (R419). -/
def execActivate (lvl : Level) (v : Byte) (s : State) : Out := .next (cmd s lvl 0x1800 6 v.toNat)
/-- CONFIRM (R419). -/
def execConfirm (lvl : Level) (v : Byte) (s : State) : Out := .next (cmd s lvl 0x1800 7 v.toNat)
/-- FW_FLOOR (R420). -/
def execFwFloor (lvl : Level) (v : Word) (s : State) : Out := .next (cmd s lvl 0x1800 10 v.toNat)
/-- FE_LOAD (R418). -/
def execFeLoad (lvl : Level) (v : Byte) (s : State) : Out := .next (cmd s lvl 0x1810 2 v.toNat)
/-- SLEEP_CMD (R424). -/
def execSleepCmd (lvl : Level) (v : Byte) (s : State) : Out := .next (cmd s lvl 0x1020 4 v.toNat)
/-- WAKE (R424). -/
def execWake (lvl : Level) (v : Byte) (s : State) : Out := .next (cmd s lvl 0x1020 5 v.toNat)

end Sys2Proof.Machine
end

