-- ==== Sys2Proof/Machine/EngineArith.lean ====
section
/-! DEFINITION. Integer, logic, predicate, fixed-point and FP32 instructions of the engines (R96 to R106), one
meaning each over the shared issue of Operands.lean. -/
namespace Sys2Proof.Machine

/-- ADD (R97). -/
def execAdd (e : EngineId) (p : Pred) (rd ra rb : Reg) (s : State) : Out :=
  issueR s e p 1 rd ra rb fun a b => (a + b, 0)

/-- SUB (R97). -/
def execSub (e : EngineId) (p : Pred) (rd ra rb : Reg) (s : State) : Out :=
  issueR s e p 1 rd ra rb fun a b => (a - b, 0)

/-- AND (R96). -/
def execAndR (e : EngineId) (p : Pred) (rd ra rb : Reg) (s : State) : Out :=
  issueR s e p 1 rd ra rb fun a b => (a &&& b, 0)

/-- OR (R96). -/
def execOrR (e : EngineId) (p : Pred) (rd ra rb : Reg) (s : State) : Out :=
  issueR s e p 1 rd ra rb fun a b => (a ||| b, 0)

/-- XOR (R96). -/
def execXorR (e : EngineId) (p : Pred) (rd ra rb : Reg) (s : State) : Out :=
  issueR s e p 1 rd ra rb fun a b => (a ^^^ b, 0)

/-- SHL by vb bits 4:0 (R96). -/
def execShl (e : EngineId) (p : Pred) (rd ra rb : Reg) (s : State) : Out :=
  issueR s e p 1 rd ra rb fun a b => (a <<< (b.toNat % 32), 0)

/-- SHR by vb bits 4:0 (R96). -/
def execShr (e : EngineId) (p : Pred) (rd ra rb : Reg) (s : State) : Out :=
  issueR s e p 1 rd ra rb fun a b => (a >>> (b.toNat % 32), 0)

/-- SRA by vb bits 4:0 (R96). -/
def execSra (e : EngineId) (p : Pred) (rd ra rb : Reg) (s : State) : Out :=
  issueR s e p 1 rd ra rb fun a b => (a.sshiftRight (b.toNat % 32), 0)

/-- MIN, signed (R96). -/
def execMin (e : EngineId) (p : Pred) (rd ra rb : Reg) (s : State) : Out :=
  issueR s e p 1 rd ra rb fun a b => (if a.toInt ≤ b.toInt then a else b, 0)

/-- MAX, signed (R96). -/
def execMax (e : EngineId) (p : Pred) (rd ra rb : Reg) (s : State) : Out :=
  issueR s e p 1 rd ra rb fun a b => (if a.toInt ≤ b.toInt then b else a, 0)

/-- MINU (R96). -/
def execMinu (e : EngineId) (p : Pred) (rd ra rb : Reg) (s : State) : Out :=
  issueR s e p 1 rd ra rb fun a b => (if a.toNat ≤ b.toNat then a else b, 0)

/-- MAXU (R96). -/
def execMaxu (e : EngineId) (p : Pred) (rd ra rb : Reg) (s : State) : Out :=
  issueR s e p 1 rd ra rb fun a b => (if a.toNat ≤ b.toNat then b else a, 0)

/-- SEXTH: va bits 15:0 sign-extended (R96). -/
def execSexth (e : EngineId) (p : Pred) (rd ra : Reg) (s : State) : Out :=
  issueReg s e p 1 rd fun en => let a := rreg en ra.toNat; ((a.setWidth 16).signExtend 32, 0)

/-- ZEXTH: va bits 15:0 zero-extended (R96). -/
def execZexth (e : EngineId) (p : Pred) (rd ra : Reg) (s : State) : Out :=
  issueReg s e p 1 rd fun en => let a := rreg en ra.toNat; ((a.setWidth 16).setWidth 32, 0)

/-- HIGHH: va bits 31:16 sign-extended (R96). -/
def execHighh (e : EngineId) (p : Pred) (rd ra : Reg) (s : State) : Out :=
  issueReg s e p 1 rd fun en => let a := rreg en ra.toNat; (a.sshiftRight 16, 0)

/-- ADDI: va + sext(IMM12) (R96). -/
def execAddi (e : EngineId) (p : Pred) (rd ra : Reg) (imm : BitVec 12) (s : State) : Out :=
  issueReg s e p 1 rd fun en => (effAddr en ra imm, 0)

/-- ANDI (R96). -/
def execAndi (e : EngineId) (p : Pred) (rd ra : Reg) (imm : BitVec 12) (s : State) : Out :=
  issueReg s e p 1 rd fun en => (rreg en ra.toNat &&& zext12 imm, 0)

/-- ORI (R96). -/
def execOri (e : EngineId) (p : Pred) (rd ra : Reg) (imm : BitVec 12) (s : State) : Out :=
  issueReg s e p 1 rd fun en => (rreg en ra.toNat ||| zext12 imm, 0)

/-- XORI (R96). -/
def execXori (e : EngineId) (p : Pred) (rd ra : Reg) (imm : BitVec 12) (s : State) : Out :=
  issueReg s e p 1 rd fun en => (rreg en ra.toNat ^^^ zext12 imm, 0)

/-- The shift that IMM bits 6:5 select (R96); 0b11 is not listed, and its result is open. -/
def shiftImm (a : Word) (imm : BitVec 12) (free : Word) : Word :=
  let n := imm.toNat % 32
  match imm.toNat / 32 % 4 with
  | 0 => a <<< n
  | 1 => a >>> n
  | 2 => a.sshiftRight n
  | _ => free

/-- SHIFTI (R96). The result of the unlisted selection 0b11 is a free value (notes/assumptions/2.md). -/
def execShifti (e : EngineId) (p : Pred) (rd ra : Reg) (imm : BitVec 12) (s : State) : Out :=
  .next (issueS s e p fun s =>
    let (free, s) := if imm.toNat / 32 % 4 = 3 then drawWord s else (0, s)
    updEngine s e fun en => launchReg en 1 rd.toNat (shiftImm (rreg en ra.toNat) imm free, 0))

/-- MOVI: sext(IMM16) (R96). -/
def execMovi (e : EngineId) (p : Pred) (rd : Reg) (imm : BitVec 16) (s : State) : Out :=
  issueReg s e p 1 rd fun _ => (imm.signExtend 32, 0)

/-- MOVH: IMM16 above vd bits 15:0 (R96). -/
def execMovh (e : EngineId) (p : Pred) (rd : Reg) (imm : BitVec 16) (s : State) : Out :=
  issueReg s e p 1 rd fun en => (imm ++ (rreg en rd.toNat).setWidth 16, 0)

/-- SEL: va if p[k] XOR negate, else vb (R96). -/
def execSel (e : EngineId) (p : Pred) (rd ra rb : Reg) (neg : Bool) (k : BitVec 3) (s : State) : Out :=
  issueReg s e p 1 rd fun en => (if rpred en k.toNat != neg then rreg en ra.toNat else rreg en rb.toNat, 0)

/-- CMP EQ (R97). -/
def execCmpEq (e : EngineId) (p : Pred) (pd : BitVec 3) (ra rb : Reg) (s : State) : Out :=
  issueCmp s e p pd ra rb fun a b => (a == b, 0)

/-- CMP NE (R97). -/
def execCmpNe (e : EngineId) (p : Pred) (pd : BitVec 3) (ra rb : Reg) (s : State) : Out :=
  issueCmp s e p pd ra rb fun a b => (a != b, 0)

/-- CMP LT, signed (R97). -/
def execCmpLt (e : EngineId) (p : Pred) (pd : BitVec 3) (ra rb : Reg) (s : State) : Out :=
  issueCmp s e p pd ra rb fun a b => (decide (a.toInt < b.toInt), 0)

/-- CMP LE, signed (R97). -/
def execCmpLe (e : EngineId) (p : Pred) (pd : BitVec 3) (ra rb : Reg) (s : State) : Out :=
  issueCmp s e p pd ra rb fun a b => (decide (a.toInt ≤ b.toInt), 0)

/-- CMP LTU (R97). -/
def execCmpLtu (e : EngineId) (p : Pred) (pd : BitVec 3) (ra rb : Reg) (s : State) : Out :=
  issueCmp s e p pd ra rb fun a b => (decide (a.toNat < b.toNat), 0)

/-- CMP LEU (R97). -/
def execCmpLeu (e : EngineId) (p : Pred) (pd : BitVec 3) (ra rb : Reg) (s : State) : Out :=
  issueCmp s e p pd ra rb fun a b => (decide (a.toNat ≤ b.toNat), 0)

/-- CMP FEQ (R104). -/
def execCmpFeq (e : EngineId) (p : Pred) (pd : BitVec 3) (ra rb : Reg) (s : State) : Out :=
  issueCmp s e p pd ra rb fun a b => fRel 0 a b

/-- CMP FNE (R104). -/
def execCmpFne (e : EngineId) (p : Pred) (pd : BitVec 3) (ra rb : Reg) (s : State) : Out :=
  issueCmp s e p pd ra rb fun a b => fRel 1 a b

/-- CMP FLT (R104). -/
def execCmpFlt (e : EngineId) (p : Pred) (pd : BitVec 3) (ra rb : Reg) (s : State) : Out :=
  issueCmp s e p pd ra rb fun a b => fRel 2 a b

/-- CMP FLE (R104). -/
def execCmpFle (e : EngineId) (p : Pred) (pd : BitVec 3) (ra rb : Reg) (s : State) : Out :=
  issueCmp s e p pd ra rb fun a b => fRel 3 a b

/-- PAND (R96). -/
def execPand (e : EngineId) (p : Pred) (pd pa pb : BitVec 3) (s : State) : Out :=
  issuePlog s e p pd pa pb fun x y => x && y

/-- POR (R96). -/
def execPor (e : EngineId) (p : Pred) (pd pa pb : BitVec 3) (s : State) : Out :=
  issuePlog s e p pd pa pb fun x y => x || y

/-- PXOR (R96). -/
def execPxor (e : EngineId) (p : Pred) (pd pa pb : BitVec 3) (s : State) : Out :=
  issuePlog s e p pd pa pb fun x y => x != y

/-- PANDN (R96). -/
def execPandn (e : EngineId) (p : Pred) (pd pa pb : BitVec 3) (s : State) : Out :=
  issuePlog s e p pd pa pb fun x y => x && !y

/-- MUL: low half of the product (R97). -/
def execMul (e : EngineId) (p : Pred) (rd ra rb : Reg) (s : State) : Out :=
  issueR s e p 2 rd ra rb fun a b => (a * b, 0)

/-- MULH: bits 63:32 of the signed product (R97). -/
def execMulh (e : EngineId) (p : Pred) (rd ra rb : Reg) (s : State) : Out :=
  issueR s e p 2 rd ra rb fun a b => (BitVec.ofInt 32 (a.toInt * b.toInt / 4294967296), 0)

/-- MULHU: bits 63:32 of the unsigned product (R97). -/
def execMulhu (e : EngineId) (p : Pred) (rd ra rb : Reg) (s : State) : Out :=
  issueR s e p 2 rd ra rb fun a b => (BitVec.ofNat 32 (a.toNat * b.toNat / 2 ^ 32), 0)

/-- QMUL15 (R99). -/
def execQmul15 (e : EngineId) (p : Pred) (rd ra rb : Reg) (s : State) : Out :=
  issueR s e p 2 rd ra rb fun a b => qMul15 a b

/-- QMUL31 (R99). -/
def execQmul31 (e : EngineId) (p : Pred) (rd ra rb : Reg) (s : State) : Out :=
  issueR s e p 2 rd ra rb fun a b => qMul31 a b

/-- QADD15 (R99). -/
def execQadd15 (e : EngineId) (p : Pred) (rd ra rb : Reg) (s : State) : Out :=
  issueR s e p 1 rd ra rb fun a b => satN 16 (q15 a + q15 b)

/-- QSUB15 (R99). -/
def execQsub15 (e : EngineId) (p : Pred) (rd ra rb : Reg) (s : State) : Out :=
  issueR s e p 1 rd ra rb fun a b => satN 16 (q15 a - q15 b)

/-- QADD31 (R99). -/
def execQadd31 (e : EngineId) (p : Pred) (rd ra rb : Reg) (s : State) : Out :=
  issueR s e p 1 rd ra rb fun a b => satN 32 (a.toInt + b.toInt)

/-- QSUB31 (R99). -/
def execQsub31 (e : EngineId) (p : Pred) (rd ra rb : Reg) (s : State) : Out :=
  issueR s e p 1 rd ra rb fun a b => satN 32 (a.toInt - b.toInt)

/-- A multiply-accumulate: the addend reaches the accumulator in the last stage (R93, R100). -/
def issueMac (s : State) (e : Nat) (p : Pred) (acc : Bool) (ra rb : Reg) (f : Word → Word → Int) : Out :=
  .next (issue s e p fun en => launch en 3 (.acc acc) (.addend (f (rreg en ra.toNat) (rreg en rb.toNat))) 0)

/-- MAC: acc + va × vb (R93, R100). -/
def execMac (e : EngineId) (p : Pred) (acc : Bool) (ra rb : Reg) (s : State) : Out :=
  issueMac s e p acc ra rb fun a b => a.toInt * b.toInt

/-- MSU: acc − va × vb (R93, R100). -/
def execMsu (e : EngineId) (p : Pred) (acc : Bool) (ra rb : Reg) (s : State) : Out :=
  issueMac s e p acc ra rb fun a b => -(a.toInt * b.toInt)

/-- MACQ15: acc + the Q30 product (R93, R100). -/
def execMacq15 (e : EngineId) (p : Pred) (acc : Bool) (ra rb : Reg) (s : State) : Out :=
  issueMac s e p acc ra rb fun a b => q15 a * q15 b

/-- MSUQ15: acc − the Q30 product (R93, R100). -/
def execMsuq15 (e : EngineId) (p : Pred) (acc : Bool) (ra rb : Reg) (s : State) : Out :=
  issueMac s e p acc ra rb fun a b => -(q15 a * q15 b)

/-- CLRA (R96). -/
def execClra (e : EngineId) (p : Pred) (acc : Bool) (s : State) : Out :=
  .next (issue s e p fun en => launch en 3 (.acc acc) (.acc 0) 0)

/-- LDA: sext(va) to 64 bits (R96). -/
def execLda (e : EngineId) (p : Pred) (acc : Bool) (ra : Reg) (s : State) : Out :=
  .next (issue s e p fun en => launch en 3 (.acc acc) (.acc ((rreg en ra.toNat).signExtend 64)) 0)

/-- RDACC (R100). -/
def execRdacc (e : EngineId) (p : Pred) (rd : Reg) (acc : Bool) (shift : BitVec 6) (s : State) : Out :=
  issueReg s e p 1 rd fun en => accRead (racc en acc) shift.toNat

/-- FADD (R101). -/
def execFadd (e : EngineId) (p : Pred) (rd ra rb : Reg) (s : State) : Out :=
  issueR s e p 3 rd ra rb fun a b => fAdd a b

/-- FSUB (R101). -/
def execFsub (e : EngineId) (p : Pred) (rd ra rb : Reg) (s : State) : Out :=
  issueR s e p 3 rd ra rb fun a b => fSub a b

/-- FMUL (R101). -/
def execFmul (e : EngineId) (p : Pred) (rd ra rb : Reg) (s : State) : Out :=
  issueR s e p 3 rd ra rb fun a b => fMul a b

/-- FMIN (R102). -/
def execFmin (e : EngineId) (p : Pred) (rd ra rb : Reg) (s : State) : Out :=
  issueR s e p 1 rd ra rb fun a b => fMinMax false a b

/-- FMAX (R102). -/
def execFmax (e : EngineId) (p : Pred) (rd ra rb : Reg) (s : State) : Out :=
  issueR s e p 1 rd ra rb fun a b => fMinMax true a b

/-- FABS (R102). -/
def execFabs (e : EngineId) (p : Pred) (rd ra : Reg) (s : State) : Out :=
  issueReg s e p 1 rd fun en => let a := rreg en ra.toNat; (fAbsW a, 0)

/-- FNEG (R102). -/
def execFneg (e : EngineId) (p : Pred) (rd ra : Reg) (s : State) : Out :=
  issueReg s e p 1 rd fun en => let a := rreg en ra.toNat; (fNegW a, 0)

/-- I2F (R103). -/
def execI2f (e : EngineId) (p : Pred) (rd ra : Reg) (s : State) : Out :=
  issueReg s e p 3 rd fun en => let a := rreg en ra.toNat; iToF a.toInt 0

/-- F2I (R103). -/
def execF2i (e : EngineId) (p : Pred) (rd ra : Reg) (s : State) : Out :=
  issueReg s e p 3 rd fun en => let a := rreg en ra.toNat; fToI a 0 (loS 32) (hiS 32)

/-- Q15F (R103). -/
def execQ15f (e : EngineId) (p : Pred) (rd ra : Reg) (s : State) : Out :=
  issueReg s e p 3 rd fun en => let a := rreg en ra.toNat; iToF (q15 a) 15

/-- FQ15 (R103). -/
def execFq15 (e : EngineId) (p : Pred) (rd ra : Reg) (s : State) : Out :=
  issueReg s e p 3 rd fun en => let a := rreg en ra.toNat; fToI a 15 (loS 16) (hiS 16)

/-- Q31F (R103). -/
def execQ31f (e : EngineId) (p : Pred) (rd ra : Reg) (s : State) : Out :=
  issueReg s e p 3 rd fun en => let a := rreg en ra.toNat; iToF a.toInt 31

/-- FQ31 (R103). -/
def execFq31 (e : EngineId) (p : Pred) (rd ra : Reg) (s : State) : Out :=
  issueReg s e p 3 rd fun en => let a := rreg en ra.toNat; fToI a 31 (loS 32) (hiS 32)

/-- FMA: va × vb + vd, one rounding (R102). -/
def execFma (e : EngineId) (p : Pred) (rd ra rb : Reg) (s : State) : Out :=
  issueReg s e p 4 rd fun en => fFma (rreg en ra.toNat) (rreg en rb.toNat) (rreg en rd.toNat)

/-- The negated multiplicand of FMS; a NaN stays a NaN (R102). -/
def fMsNeg (a : Word) : Word := fNegW a

/-- FMS: vd − va × vb, one rounding (R102). -/
def execFms (e : EngineId) (p : Pred) (rd ra rb : Reg) (s : State) : Out :=
  issueReg s e p 4 rd fun en => fFma (fMsNeg (rreg en ra.toNat)) (rreg en rb.toNat) (rreg en rd.toNat)

/-- FDIV (R101, R105). -/
def execFdiv (e : EngineId) (p : Pred) (rd ra rb : Reg) (s : State) : Out :=
  issueDiv s e p rd ra rb fun a b => fDiv a b

/-- IDIV (R98, R105). -/
def execIdiv (e : EngineId) (p : Pred) (rd ra rb : Reg) (s : State) : Out :=
  issueDiv s e p rd ra rb fun a b => iDiv a b

/-- UDIV (R98, R105). -/
def execUdiv (e : EngineId) (p : Pred) (rd ra rb : Reg) (s : State) : Out :=
  issueDiv s e p rd ra rb fun a b => uDiv a b

/-- FSQRT (R101, R105). -/
def execFsqrt (e : EngineId) (p : Pred) (rd ra : Reg) (s : State) : Out :=
  issueDiv s e p rd ra ra fun a _ => fSqrt a

/-- (x - X0) * INV_DX with one rounding; an infinity goes through the operation rules of R101. -/
def interpU (x x0 inv : Word) : Word × BitVec 16 :=
  if f32IsNaN x || f32IsNaN x0 || f32IsNaN inv then (f32NaN, fNV)
  else if f32IsInf x || f32IsInf x0 || f32IsInf inv then
    let (d, f1) := fSub x x0
    let (m, f2) := fMul d inv
    (m, f1 ||| f2)
  else
    let dx := f32Val x - f32Val x0
    f32Round (decide (dx < 0) != f32Neg inv) (dx * f32Val inv)

/-- u clamped to 0 to N - 1, and whether it was. -/
def interpClamp (n : Nat) (u : Word) : Rat × Bool :=
  let top : Rat := ((n - 1 : Nat) : Rat)
  let low := f32Neg u && !f32IsZero u
  let high := !f32Neg u && (f32IsInf u || decide (top < f32Val u))
  (if low then 0 else if high then top else f32Val u, low || high)

/-- The interval of the table in which a clamped u lies. -/
def interpIndex (n : Nat) (v : Rat) : Nat := Nat.min v.floor.toNat (n - 2)

/-- The table has a number of points that R106 admits, and the lookup reaches its points. -/
def interpGood (rd : Nat → Word) (x : Word) : Bool :=
  decide (2 ≤ (rd 0).toNat) && decide ((rd 0).toNat ≤ 64) && !f32IsNaN (interpU x (rd 1) (rd 2)).1

/-- The table lookup of INTERP (R106): the word at index k of the table is `rd k`. Only NV and LUT_CLAMP are set. -/
def interp (rd : Nat → Word) (x : Word) : Word × BitVec 16 :=
  if !interpGood rd x then (f32NaN, fNV)
  else
    let n := (rd 0).toNat
    let (u, fu) := interpU x (rd 1) (rd 2)
    let (v, clamped) := interpClamp n u
    let i := interpIndex n v
    let y := rd (3 + i)
    let (d, fd) := fSub (rd (4 + i)) y
    let (r, fr) := fFma (f32Of (v - ((i : Nat) : Rat))) d y
    (r, ((fu ||| fd ||| fr) &&& fNV) ||| (if clamped then fLUT else 0))

/-- The words of the table that a lookup reads. -/
def interpReads (rd : Nat → Word) (x : Word) : List Nat :=
  let i := interpIndex (rd 0).toNat (interpClamp (rd 0).toNat (interpU x (rd 1) (rd 2)).1).1
  if interpGood rd x then [0, 1, 2, 3 + i, 4 + i] else [0, 1, 2]

/-- Reads words of data memory under ECC; whether none of them holds an uncorrectable error (R79, R82). -/
def dmTable (s : State) (e : Nat) (words : List Nat) : Bool × State :=
  (words.all fun k => decide (upsetAt s (dmemKey e k) ≤ 1), words.foldl (fun s k => dmemEcc s e k) s)

/-- INTERP (R106): the table stands in data memory from the word address in vb on, wrapping within it (R107). An
uncorrectable error in a word that it reads leaves result and flags open. -/
def execInterp (e : EngineId) (p : Pred) (rd ra rb : Reg) (s : State) : Out :=
  .next (issueS s e p fun s =>
    let base := (rreg (engine s e) rb.toNat).toNat
    let x := rreg (engine s e) ra.toNat
    let word (k : Nat) := dmWord s e (base + 4 * k)
    let (good, t) := dmTable s e ((interpReads word x).map fun k => (base + 4 * k) / 4 % 1024)
    if good then updEngine t e fun en => launchReg en 4 rd.toNat (interp word x)
    else
      let (w, t) := drawWord t
      let (f, t) := drawWord t
      updEngine t e fun en => launchReg en 4 rd.toNat (w, f.setWidth 16 &&& (fNV ||| fLUT)))

end Sys2Proof.Machine
end

