-- ==== Sys2Proof/Machine/Objects.lean ====
section
/-! DEFINITION. Reads of dictionary objects (R328, R341, R361, R371, R393, R394): the value in effect of every readable
object, the bytes of every domain, and the commands that are reads of one object. -/
namespace Sys2Proof.Machine

/-- Raw FP32 word of a number. -/
def rawOf (x : Rat) : Nat := (f32Of x).toNat

/-- A number whose bit k is `f k`. -/
def maskOf (n : Nat) (f : Nat → Bool) : Nat := (List.range n).foldl (fun a k => if f k then a + 2 ^ k else a) 0

/-- Length of the session table. -/
def sessionsOpen (s : State) : Nat := s.net.sessions.length

/-! ### Values by region -/

/-- Identity and communication (R352, R353). -/
def value1000 (s : State) (session ix sub : Nat) : Nat :=
  let n := s.net
  match ix, sub with
  | 0x1000, 3 => Config.serial.toNat
  | 0x1000, 4 => Config.siliconRev.toNat
  | 0x1000, 5 => (if s.boot.recovery then Config.romVersion else slotVersion s s.boot.runningSlot).toNat
  | 0x1100, 1 => sessionsOpen s
  | 0x1100, 2 => 64
  | 0x1100, 3 => 120
  | 0x1100, 4 => n.authFail.toNat
  | 0x1100, 5 => n.replay.toNat
  | 0x1100, 6 => n.refused.toNat
  | 0x1100, 8 => session
  | 0x1100, 9 => n.rxqDropped.toNat
  | 0x1100, 10 => n.subs.length
  | 0x1100, 11 => n.telemDropped.toNat
  | 0x1130, 1 => b2n n.hushed
  | 0x1130, 2 => n.urgAccepted.toNat
  | 0x1130, 3 => n.urgRejected.toNat
  | 0x1130, 4 => n.urgLimited.toNat
  | 0x1140, k => ((tfind n.sessions k).map fun x => x.clientId.toNat).getD 0
  | 0x1141, k => ((tfind n.sessions k).map fun x => levelNo x.level).getD 0xFF
  | 0x1200, _ => 7
  | 0x1210, _ => maskOf 4 fun k => !(tget [] n.imageKeys (k + 1)).isEmpty
  | 0x1010, 1 => s.boot.hours % 2 ^ 32
  | 0x1010, 2 => s.boot.hoursFrac
  | 0x1011, 1 => s.boot.cycles.toNat
  | 0x1020, 1 => powerState s
  | 0x1020, 2 => s.boot.cause
  | 0x1020, 3 => s.boot.bootMode
  | 0x1020, 6 => s.boot.aoClock
  | 0x1020, 7 => s.boot.sticky.toNat
  | _, _ =>
    if ix = 0x1101 ∨ ix = 0x1102 then
      let e := ix - 0x1101
      match sub with
      | 1 => b2n (tget false n.ethUp e)
      | 11 => tget 0 n.rxDropped e
      | 12 => tget 0 n.urgRx e
      | _ => if 3 ≤ sub ∧ sub ≤ 5 ∧ cfg s ix 2 = 1 then (Config.lease e sub).toNat else cfg s ix sub
    else if (ix = 0x1110 ∨ ix = 0x1111) ∧ sub = 5 then tget 0 n.canBus (ix - 0x1110)
    else cfg s ix sub

/-- Images and update (R428). -/
def value1800 (s : State) (ix sub : Nat) : Nat :=
  let b := s.boot
  match ix, sub with
  | 0x1800, 3 => b.bootSlot
  | 0x1800, 4 => b.runningSlot
  | 0x1800, 5 => b2n b.trial
  | 0x1800, 8 => (slotVersion s 0).toNat
  | 0x1800, 9 => (slotVersion s 1).toNat
  | 0x1803, k => ((tfind b.areas (k - 1)).map fun x => 2 ^ 63 + x.1 % 65536 * 2 ^ 32 + x.2.toNat).getD 0
  | 0x1810, 3 => loadsActive s
  | _, _ =>
    if 0x1808 ≤ ix ∧ ix < 0x180D then
      let d := dl s (ix - 0x1808)
      match sub with
      | 1 => d.state
      | 2 => d.reason
      | 3 => rangeSum d.ranges
      | _ => d.total
    else cfg s ix sub

/-- The FP32 word of a phase error: the nearest, but never +180.0, which the range of R447 excludes. -/
def phaseRaw (x : Rat) : Nat := if 180 ≤ f32Val (f32Of x) then 0x4333FFFF else rawOf x

/-- The wheel (R51). -/
def valueWheel (s : State) (ix sub : Nat) : Nat :=
  let w := s.wheel
  let f := feedSt s (if ix = 0x2002 then .A else .B)
  match ix, sub with
  | 0x2000, 1 => wheelCode w.state
  | 0x2000, 2 => leadCode s
  | 0x2000, 3 => rawOf w.fTick
  | 0x2000, 4 => rawOf (w.fTick * (w.w : Nat) * (w.l : Nat) / 1000000)
  | 0x2000, 5 => phaseRaw w.phaseErr
  | 0x2000, 6 => w.round.toNat
  | 0x2000, 7 => w.seam.toNat
  | 0x2000, 8 => w.ric
  | 0x2000, 9 => w.sticky.toNat
  | 0x2004, 1 => w.w
  | 0x2004, 2 => w.l
  | 0x2004, 3 => rawOf (fMax s * (w.w : Nat) * (w.l : Nat) / 1000000)
  | 0x2004, 4 => rawOf (fMin s * (w.w : Nat) * (w.l : Nat) / 1000000)
  | 0x2001, k => cfg s 0x2001 k
  | _, 1 => f.angle.toNat
  | _, 2 => b2n f.angleValid
  | _, 3 => f.freq.toNat
  | _, 4 => f.mag.toNat
  | _, 5 => f.neg.toNat
  | _, _ => b2n f.present

/-- Patterns, arm and commit, the array (R85, R86, R120, R143). -/
def value2100 (s : State) (ix sub : Nat) : Nat :=
  let p := s.pat
  let a := s.arm
  let x := sleeve s (ix - 0x2160)
  match ix, sub with
  | 0x2100, 1 => p.activeSlot
  | 0x2100, 2 => p.run.ident.toNat
  | 0x2100, 3 => p.run.version.toNat
  | 0x2100, 4 => if p.activeSlot = 0xFF ∨ p.run.stock then 0 else 1
  | 0x2100, 5 => p.commitSeam.toNat
  | 0x2100, 6 => p.shadowState
  | 0x2101, 4 => p.loadResult
  | 0x2101, 5 => p.loadDetail.toNat
  | 0x2101, 7 => p.commitAt.toNat
  | 0x2102, 1 => a.state
  | 0x2102, 2 => a.ident.toNat
  | 0x2102, 3 => a.seam.toNat
  | 0x2102, 6 => a.acked.length
  | 0x2102, 7 => a.involved.length
  | 0x2102, 9 => a.last
  | 0x2103, m => if p.activeSlot = 0xFF then 0 else if stockModule s m then 1 else 2
  | 0x2110, k => tget 0 a.outcome (k - 1)
  | 0x2111, k => tget 0 a.outcome (128 + (k - 1))
  | 0x2140, 1 => maskOf 32 fun k => (sleeve s k).halted
  | 0x2140, 2 => s.arr.correctedTotal.toNat
  | 0x2140, 3 => s.arr.scrubPasses.toNat
  | 0x2140, 4 => s.arr.arraySticky.toNat
  | _, _ =>
    if 0x2160 ≤ ix ∧ ix < 0x2180 then
      match sub with
      | 1 => b2n x.halted
      | 2 => x.sticky.toNat
      | 3 => x.corrected.toNat
      | 4 => x.doubtRound.toNat
      | 5 => x.doubtEngine
      | _ => x.doubtDetail
    else if 0x2180 ≤ ix ∧ ix < 0x21A0 then
      (if sub = 0x21 then maskOf 32 fun j => (engine s (32 * (ix - 0x2180) + j)).flags != 0
       else (engine s (32 * (ix - 0x2180) + (sub - 1))).flags.toNat)
    else cfg s ix sub

/-- The pair (R324). -/
def value2200 (s : State) (ix sub : Nat) : Nat :=
  let p := s.pair
  match ix, sub with
  | 0x2200, 1 => roleCode p.role
  | 0x2200, 2 => (p.mateRole.map roleCode).getD 0xFF
  | 0x2200, 3 => p.link
  | 0x2200, 4 => p.lanes.length
  | 0x2200, 5 => (BitVec.ofInt 32 p.seamOffset).toNat
  | 0x2200, 6 => p.sweepLines
  | 0x2200, 7 => p.resync.toNat
  | 0x2200, 8 => p.mismatches.toNat
  | 0x2200, 9 => p.lastTakeover
  | 0x2200, 10 => rawOf p.coverage
  | 0x2200, 11 => p.covered.toNat
  | 0x2200, 12 => p.gapRounds
  | 0x2200, 13 => p.takeoverRound.toNat
  | 0x2200, 14 => p.sticky.toNat
  | _, _ => cfg s ix sub

/-- The port is in HEM or LOCKOUT. -/
def heldPort (s : State) (n : Nat) : Bool := (link s n).state == .hem || (link s n).state == .lockout

/-- HEM_SCOPE: the widest hold in force (0x2300.02). -/
def hemScope (s : State) : Nat :=
  if ctrlHeld s then 3
  else if allSleeves.any fun k => (sleeve s k).held then 2
  else if (linkPorts s).any fun n => heldPort s n || portHeld s n then 1
  else 0

/-- Hem, releases and the sequencer (R286, R299). -/
def value2300 (s : State) (ix sub : Nat) : Nat :=
  let q := s.sq
  match ix, sub with
  | 0x2300, 1 => s.hem.summary.toNat
  | 0x2300, 2 => hemScope s
  | 0x2300, 3 => ((linkPorts s).filter (heldPort s)).length
  | 0x2300, 4 => s.hem.firstCause
  | 0x2300, 5 => s.hem.firstRound.toNat
  | 0x2301, k => maskOf 32 fun j => heldPort s (32 * (k - 1) + j)
  | 0x23F0, 2 => q.state
  | 0x23F0, 3 => q.step
  | 0x23F0, 4 => q.failStep
  | 0x23F0, 5 => q.failPort
  | 0x23F0, 6 => q.origin
  | 0x23F0, 9 => q.sticky.toNat
  | _, _ => if 0x2400 ≤ ix ∧ ix < 0x2500 ∧ sub = 12 then (stepSt s (ix - 0x2400)).state else cfg s ix sub

/-- Power flow (R249). -/
def value2500 (s : State) (ix sub : Nat) : Nat :=
  let f := s.flow
  match ix, sub with
  | 0x2500, 1 => f.state
  | 0x2500, 2 => feedCode f.active
  | 0x2500, 3 => match f.active with
    | some x => b2n (standbyReady s (otherFeed x))
    | none => 0
  | 0x2500, 4 => rawOf (resyncLeft s)
  | 0x2500, 5 => f.avgIn.toNat
  | 0x2500, 6 => f.avgLoad.toNat
  | 0x2500, 7 => f.avgBatt.toNat
  | 0x2500, 8 => f.avgV.toNat
  | 0x2500, 9 => rawOf (storedKwh s)
  | 0x2500, 10 => unshedCount s
  | 0x2500, 11 => f.capEff
  | 0x2500, 12 => capStage s
  | 0x2500, 13 => f.duty
  | 0x2500, 14 => rawOf (tapFraction s f.tapSteps * 100)
  | 0x2500, 15 => rawOf f.holdTime
  | 0x2500, 16 => f.sticky.toNat
  | _, _ => cfg s ix sub

/-- Packs and battery globals (R275, R276). -/
def value2600 (s : State) (ix sub : Nat) : Nat :=
  let p := ix - 0x2600
  let k := pack s p
  match ix, sub with
  | 0x26F0, 13 => b2n s.shelf.cwdSafe
  | 0x26F0, 16 => b2n s.shelf.ship
  | 0x26F0, 17 => rawOf s.shelf.busValid
  | 0x26F0, 20 => s.shelf.sticky.toNat
  | 0x26F0, j => cfg s 0x26F0 j
  | 0x26F1, j => cfg s 0x26F1 j
  | _, 16 => rawOf k.soc
  | _, 17 => k.conf
  | _, 18 => rawOf (k.soc / 100 * usable s p)
  | _, 19 => rawOf (capAh s p)
  | _, 20 => rawOf (soh s p)
  | _, 21 => rawOf k.impedance
  | _, 23 => if kcfg s p 2 = 0xFF then 2 else k.idState
  | _, 24 => if (boundTo s p).isSome then k.chgState else 7
  | _, 25 => rawOf k.tPack
  | _, 26 => b2n k.learnOpen
  | _, 27 => rawOf k.restTime
  | _, 28 => k.sticky.toNat
  | _, j => cfg s ix j

/-- Thermal (R300). -/
def value2700 (s : State) (sub : Nat) : Nat :=
  if sub = 1 then rawOf s.hem.dieMax
  else if 2 ≤ sub ∧ sub ≤ 9 then rawOf ((i16 ((s.hem.dieCodes[sub - 2]?).getD 0) : Rat) / 16)
  else if sub = 14 then (s.ctls.filter fun x => x.2.derate != 0).length
  else cfg s 0x2700 sub

/-- The recorder (R378). -/
def value2800 (s : State) (session ix sub : Nat) : Nat :=
  let r := s.recorder
  match ix, sub with
  | 0x2800, 1 => r.newest.toNat
  | 0x2800, 2 => (match r.held with | x :: _ => x.2.2.toNat | [] => 0)
  | 0x2800, 3 => r.head
  | 0x2800, 4 => r.lost.toNat
  | 0x2800, 5 => r.suppTotal.toNat
  | 0x2800, 6 => r.limiters.length
  | 0x2800, 7 => (match tfind s.net.sessions session with | some x => x.locate.toNat | none => 0xFFFFFFFF)
  | 0x2800, 12 => r.sticky.toNat
  | 0x2800, 13 => r.flushTime
  | 0x2800, 14 => bufferFill r.buffer
  | 0x2810, 1 => r.traceState
  | 0x2810, 7 => maskOf 8 fun k => r.slots.contains k
  | 0x2810, 9 => r.missed.toNat
  | 0x2820, _ => s.boot.frozenRound.toNat
  | _, _ => cfg s ix sub

/-- Two-wire controllers, timers, local sense and GPIO (R389, R398, R401, R405). -/
def value2900 (s : State) (ix sub : Nat) : Nat :=
  let t := twc s (ix - 0x2900)
  let c := ix - 0x2940
  let x := tmr s c
  let h := ix - 0x2980
  let g := s.gpio
  if ix < 0x2940 then
    match sub with
    | 1 => t.ctrl.toNat
    | 2 => t.scl.toNat
    | 3 => t.data.toNat
    | 4 => (twStatusWord t).toNat
    | 5 => t.div
    | _ => t.count.toNat
  else if ix < 0x2980 then
    match sub with
    | 1 => x.ctrl.toNat
    | 2 => x.count.toNat
    | 3 => x.period.toNat
    | 4 => x.compare.toNat
    | 5 => (timerStatus s c).toNat
    | 7 => x.count.toNat + (timerStatus s c).toNat * 2 ^ 32
    | 8 => x.count.toNat + (tmr s (c + 1)).count.toNat * 2 ^ 32
    | _ => x.latched.toNat
  else if ix < 0x2990 then
    match sub with
    | 1 => ((s.sense.codes[h]?).getD 0).toNat
    | 3 => (tget 0 s.sense.sticky h).toNat
    | 4 => tget 0 s.sense.ovrCount h
    | _ => cfg s ix sub
  else
    match sub with
    | 1 => (gpioHalf false g.dir).toNat
    | 2 => (gpioHalf true g.dir).toNat
    | 3 => (gpioHalf false g.out).toNat
    | 4 => (gpioHalf true g.out).toNat
    | 5 => (gpioHalf false (gpioIn s)).toNat
    | 6 => (gpioHalf true (gpioIn s)).toNat
    | k => (tget 0 g.func (k - 7)).toNat

/-- LIVE of a port (R221). -/
def liveBits (s : State) (n : Nat) : Nat :=
  let c := ctl s n
  let h := (link s n).upHeader
  b2n c.pg + 2 * b2n c.satNow + 4 * b2n c.reduced + 8 * b2n (c.margin != 0) + 16 * b2n c.presence + 32 * b2n c.bypass
    + 64 * b2n (hasBit h 28) + 128 * b2n (hasBit h 29)

/-- Port status, control side (R221, R300). -/
def valuePortCtl (s : State) (n sub : Nat) : Nat :=
  let c := ctl s n
  match sub with
  | 3 => c.tripReason.toNat
  | 5 => liveBits s n
  | 6 => c.current.toNat
  | 7 => c.voltage.toNat
  | 8 => c.power.toNat
  | 9 => c.energyFwd.toNat
  | 0x0A => c.energyRev.toNat
  | 0x0B => rawOf (mkRat (c.heat : Nat) (2 ^ 48))
  | 0x0C => c.insStage
  | 0x11 => c.snapRound.toNat
  | 0x12 => c.snapI.toNat
  | 0x13 => c.snapV.toNat
  | 0x14 => c.snapP.toNat
  | 0x15 => c.snapFwd.toNat
  | 0x16 => c.snapRev.toNat
  | 0x17 => c.snapCount.toNat
  | 0x40 => rawOf c.tMax
  | 0x41 => rawOf c.tRate
  | 0x42 => rawOf (headroom s n)
  | 0x43 => c.derate
  | _ => c.thermSticky.toNat

/-- Port status (R188, R221, R300). -/
def value3000 (s : State) (n sub : Nat) : Nat :=
  let l := link s n
  match sub with
  | 1 => match l.state with
    | .absent => 0 | .training => 1 | .discovered => 2 | .ready => 3 | .starting => 4 | .running => 5
    | .stopping => 6 | .hem => 7 | .lockout => 8
  | 2 => l.cls.toNat
  | 4 => l.sticky.toNat
  | 0x18 => l.feStatus.toNat
  | 0x20 => l.uid.toNat
  | 0x21 => l.fwVersion.toNat
  | 0x22 => l.hwVersion.toNat
  | 0x23 => l.loopDelay
  | 0x24 => l.framesOk.toNat
  | 0x25 => l.framesBad.toNat
  | 0x26 => l.framesMissing.toNat
  | 0x27 => l.missedMax
  | 0x28 => l.obeys
  | 0x29 => l.mbxResent.toNat
  | _ => if 0x30 ≤ sub ∧ sub ≤ 0x3F then Nat.min (queueBytes l.mbx (sub - 0x30)) 2072 else valuePortCtl s n sub

/-- Groups and group results (R25, R344). -/
def value3200 (s : State) (ix sub : Nat) : Nat :=
  if ix < 0x3300 then
    match sub with
    | 9 => (members s (ix - 0x3200)).length
    | 10 => b2n (s.net.pend.any fun p => p.index == ix && decide (p.sub ≤ 8))
    | _ => cfg s ix sub
  else if ix < 0x3500 then
    let r := tget {} s.net.gres (if ix = 0x34FF then 32 else ix - 0x3400)
    if sub ≤ 8 then maskOf 32 fun j => r.written.contains (32 * (sub - 1) + j)
    else if sub ≤ 16 then maskOf 32 fun j => r.late.contains (32 * (sub - 9) + j)
    else match sub with
      | 17 => r.failPort
      | 18 => r.failStatus
      | 19 => r.applySeam.toNat
      | _ => r.target
  else cfg s ix sub

/-- Tally read-out (R361, R378). -/
def value6000 (s : State) (ix sub : Nat) : Nat :=
  let c := newerCopy s.recorder
  match ix, sub with
  | 0x6080, 1 => c.generation % 2 ^ 32
  | 0x6080, 2 => c.foldHours.toNat
  | 0x6080, _ => s.recorder.gapS % 2 ^ 32
  | _, b => tget 0 c.soc ((ix - 0x6040) * 16 + (b - 1))

/-- The value in effect of an object that is a number, for a reader's session (R328). -/
def objValue (s : State) (session ix sub : Nat) : Nat :=
  match paramAt s ix sub with
  | some p => paramValue s p
  | none =>
    if ix < 0x1800 then value1000 s session ix sub
    else if ix < 0x2000 then value1800 s ix sub
    else if ix < 0x2100 then valueWheel s ix sub
    else if ix < 0x2200 then value2100 s ix sub
    else if ix < 0x2300 then value2200 s ix sub
    else if ix < 0x2500 then value2300 s ix sub
    else if ix < 0x2600 then value2500 s ix sub
    else if ix < 0x2700 then value2600 s ix sub
    else if ix < 0x2800 then value2700 s sub
    else if ix < 0x2900 then value2800 s session ix sub
    else if ix < 0x3000 then value2900 s ix sub
    else if ix < 0x3100 then value3000 s (ix - 0x3000) sub
    else if ix < 0x3200 then cfg s ix sub
    else if ix < 0x6000 then value3200 s ix sub
    else value6000 s ix sub

/-! ### Reads with an effect, strings, items -/

/-- A read of a number: its status, its value and the state after it. CAPTURE removes an entry, COUNT of a cascade latches
the partner, COUNT64 needs a cascade (R393, R394). -/
def readNum (s : State) (session ix sub : Nat) : Nat × Nat × State :=
  if 0x2940 ≤ ix ∧ ix < 0x2980 ∧ sub = 6 then
    let r := captureRead s (ix - 0x2940)
    (stOK, r.1.toNat, r.2)
  else if 0x2940 ≤ ix ∧ ix < 0x2980 ∧ sub = 2 then
    let r := countRead s (ix - 0x2940)
    (stOK, r.1.toNat, r.2)
  else if 0x2940 ≤ ix ∧ ix < 0x2980 ∧ sub = 8 ∧ cascade s (ix - 0x2940) = false then (stState, 0, s)
  else (stOK, objValue s session ix sub, s)

/-- ASCII bytes of a text. -/
def asciiBytes (t : String) : List Byte := t.toList.map fun c => BitVec.ofNat 8 c.toNat

/-- The bytes of a string object (R25, R275, R352). -/
def strValue (s : State) (ix sub : Nat) : List Byte :=
  if ix = 0x1000 then asciiBytes (if sub = 1 then "Lanistan Microsystems" else "FLM1024-FB1849")
  else if ix < 0x3200 then (pack s (ix - 0x2600)).ident
  else tget [] s.net.labels (ix - 0x3200)

/-- A READ of one object: status, type, value bytes, state after it (R327, R330). -/
def readItem (s : State) (lvl : Level) (session ix sub : Nat) : Nat × Nat × List Byte × State :=
  let a := accessStatus s lvl ix sub false
  match rowHere s ix sub with
  | none => (if a = stOK then stNoSub else a, 0, [], s)
  | some r =>
    if a ≠ stOK then (a, 0, [], s)
    else if r.ty = 12 then (stType, r.ty, [], s)
    else if r.ty = 11 then
      let t := strValue s ix sub
      (stOK, r.ty, BitVec.ofNat 8 t.length :: t, s)
    else
      let v := readNum s session ix sub
      (v.1, r.ty, if v.1 = stOK then leBytes (typeSize r.ty) v.2.1 else [], v.2.2)

/-- The value that a command row reads from one object is kept as the controller answered it. -/
def readObj (s : State) (lvl : Level) (ix sub : Nat) : State :=
  if !serverRuns s then withStatus s stState
  else
    let r := readItem s lvl 0 ix sub
    withStatus { r.2.2.2 with net := { r.2.2.2.net with value := leNat r.2.2.1 } } r.1

/-! ### Domains (R341, R361, R371) -/

/-- Size of a domain that is read; none when it holds nothing to read (0x2811). -/
def domainLen (s : State) (ix sub : Nat) : Option Nat :=
  match ix, sub with
  | 0x2801, 1 => some ringSize
  | 0x2801, _ => some Config.catalogue.length
  | 0x2811, k => if s.recorder.slots.contains (k - 1) then some (s.recorder.lenNow * traceRow) else none
  | 0x1210, k => some (tget [] s.net.imageKeys k).length
  | _, 1 => some 12288
  | _, 2 => some 3072
  | _, 3 => some 208
  | _, _ => some (twc s (ix - 0x2900)).result.length

/-- Bytes of an extreme slot of a copy (R357). -/
def extBytes (x : ExtCopy) : List Byte :=
  wordBytes x.min ++ wordBytes x.max ++ wordBytes x.minHours ++ wordBytes x.maxHours ++ wordBytes x.minCycle
    ++ wordBytes x.maxCycle

/-- Byte j of a tally domain of Sleeve n, from the copy in use. -/
def tallyByte (c : TallyCopy) (n sub j : Nat) : Byte :=
  match sub with
  | 1 => ((leBytes 8 (tget 0 c.bins (n * 1536 + j / 8)))[j % 8]?).getD 0
  | 2 => ((extBytes (tget {} c.exts (n * 128 + j / 24)))[j % 24]?).getD 0
  | _ => BitVec.ofNat 8 (maskOf 8 fun b => c.invalid.contains (n * 2048 + 8 * j + b))

/-- `n` bytes of a domain from an offset on. -/
def domainBytes (s : State) (ix sub off n : Nat) : List Byte :=
  match ix, sub with
  | 0x2801, 1 => mread (ringOver s).mram (ringBase + off) n
  | 0x2801, _ => sliceB Config.catalogue off n
  | 0x2811, k => mread s.mram (slotAddr s.recorder.lenNow (k - 1) + off) n
  | 0x1210, k => sliceB (tget [] s.net.imageKeys k) off n
  | _, k =>
    if ix < 0x2910 then sliceB (twc s (ix - 0x2900)).result off n
    else (List.range n).map fun j => tallyByte (newerCopy s.recorder) (ix - 0x6000) k (off + j)

/-- A DOMAIN_READ of an object: status and data, cut at the end of the domain (notes/assumptions/30.md). -/
def domainReadItem (s : State) (lvl : Level) (ix sub off n : Nat) : Nat × List Byte :=
  let a := accessStatus s lvl ix sub false
  match rowHere s ix sub with
  | none => (if a = stOK then stNoSub else a, [])
  | some r =>
    if a ≠ stOK then (a, [])
    else if r.ty ≠ 12 then (stType, [])
    else if n < 1 ∨ 1024 < n then (stRange, [])
    else match domainLen s ix sub with
      | none => (stState, [])
      | some len => if len < off then (stRange, []) else (stOK, domainBytes s ix sub off (Nat.min n (len - off)))

/-! ### Commands that read one object -/

/-- CAPTURE (R393). -/
def execCapture (lvl : Level) (t : TimerId) (s : State) : Out := .next (readObj s lvl (0x2940 + t) 6)

/-- COUNT_READ: a read of COUNT `steps` steps of the channel after the last command (R391, R394). -/
def execCountRead (lvl : Level) (t : TimerId) (steps : Nat) (s : State) : Out :=
  .next (readObj (tAdvance s t steps) lvl (0x2940 + t) 2)

/-- COUNT64 (R394). -/
def execCount64 (lvl : Level) (t : TimerId) (steps : Nat) (s : State) : Out :=
  .next (readObj (tAdvance s t steps) lvl (0x2940 + t) 8)

end Sys2Proof.Machine
end

