-- ==== Sys2Proof/Machine/Net.lean ====
section
/-! DEFINITION. The field network (R330 to R341, R345 to R350): messages and their checks, sessions, the server, the urgent
responder, subscriptions, and the Ethernet, CAN FD and SMBus interfaces. -/
namespace Sys2Proof.Machine

/-! ### Messages as bytes (R330) -/

/-- Bytes of a response or TELEM message: header, body, tag. -/
def replyBytes (r : Reply) : List Byte :=
  let head := leBytes 1 1 ++ leBytes 1 r.kind ++ leBytes 1 (if r.kind < 0x80 then 0 else 1) ++ leBytes 1 r.count
    ++ leBytes 2 r.session ++ leBytes 2 0 ++ leBytes 4 r.seq ++ leBytes 2 r.body.length ++ leBytes 2 r.tag
  head ++ r.body ++ Config.tagOf (head ++ r.body)

/-- Items of a READ or SUBSCRIBE: INDEX, SUB and a reserved byte. -/
def parseReads : Nat → List Byte → Option (List ReadItem)
  | 0, l => if l.isEmpty then some [] else none
  | n + 1, a :: b :: c :: _ :: t => (parseReads n t).map fun r => ⟨leNat [a, b], c.toNat⟩ :: r
  | _ + 1, _ => none

/-- A reserved byte of such items is not 0. -/
def readsReserved : List Byte → Bool
  | _ :: _ :: _ :: d :: t => d != 0 || readsReserved t
  | _ => false

/-- Items of a WRITE. -/
def parseWrites : Nat → List Byte → Option (List WriteItem)
  | 0, l => if l.isEmpty then some [] else none
  | n + 1, a :: b :: c :: d :: e :: f :: t =>
    let k := leNat [e, f]
    if t.length < k then none
    else (parseWrites n (t.drop k)).map fun r => ⟨leNat [a, b], c.toNat, d.toNat, t.take k⟩ :: r
  | _ + 1, _ => none

/-- Level of a code (R329). -/
def levelOf (k : Nat) : Option Level :=
  match k with
  | 0 => some .observe | 1 => some .operate | 2 => some .service | 3 => some .factory | _ => none

/-- The request that a body spells, and whether a reserved field in it is not 0. -/
def parseBody (kind count : Nat) (b : List Byte) : Req × Bool :=
  let bad : Req × Bool := (.bad kind, false)
  match kind with
  | 0x01 => match levelOf (leAt b 0 1) with
    | some lvl => if b.length = 28 then
        (.openS lvl (BitVec.ofNat 128 (leAt b 4 16)) (BitVec.ofNat 64 (leAt b 20 8)), leAt b 1 3 != 0) else bad
    | none => bad
  | 0x02 => (.close, false)
  | 0x10 => ((match parseReads count b with | some l => .read l | none => .bad kind), readsReserved b)
  | 0x11 => ((match parseWrites count b with | some l => .write l | none => .bad kind), false)
  | 0x12 => if b.length < 16 then bad else
      (.domainWrite ⟨leAt b 0 2, leAt b 2 1, leAt b 4 4, leAt b 8 4, BitVec.ofNat 32 (leAt b 12 4), b.drop 16⟩,
        leAt b 3 1 != 0)
  | 0x13 => if b.length ≠ 10 then bad else
      (.domainRead (leAt b 0 2) (leAt b 2 1) (leAt b 4 4) (leAt b 8 2), leAt b 3 1 != 0)
  | 0x20 => ((match parseReads (leAt b 3 1) (b.drop 4) with
      | some l => .subscribe (leAt b 0 1) (leAt b 1 2) l
      | none => .bad kind), readsReserved (b.drop 4))
  | 0x30 => if b.length ≠ 4 then bad else
      (.urgent (BitVec.ofNat 8 (leAt b 0 1)) (BitVec.ofNat 8 (leAt b 1 1)), leAt b 2 2 != 0)
  | _ => bad

/-- Kinds that a host sends. -/
def hostKind (k : Nat) : Bool := [0x01, 0x02, 0x10, 0x11, 0x12, 0x13, 0x20, 0x30].contains k

/-- A message as received. One that R330 discards is handed on as one whose tag fails: both are discarded and counted in
AUTH_FAIL. -/
def parseMsg (src : Iface) (macOk : Bool) (l : List Byte) : InMsg :=
  let kind := leAt l 1 1
  let len := leAt l 12 2
  let p := parseBody kind (leAt l 3 1) (sliceB l 16 len)
  let form := leAt l 0 1 == 1 && hostKind kind && leAt l 2 1 == 0 && leAt l 6 2 == 0 && decide (len ≤ 1200)
    && decide (l.length = 48 + len) && !p.2
  { src := src, tag := leAt l 14 2, auth := ⟨leAt l 4 2, leAt l 8 4, macOk && form⟩, req := p.1 }

/-! ### Sending in order of precedence (R347) -/

/-- The telemetry bucket of a line holds two maximum frames (R347). -/
def telemDepth (k : Nat) : Rat := if k < 2 then 2636 else 128

/-- A line that has sent nothing yet: nothing waits, and its bucket is full. -/
def freshLine (k : Nat) : Line := { tokens := telemDepth k }
/-- Line k: Ethernet ports 0 and 1, then CAN channels. -/
def line (s : State) (k : Nat) : Line := tget (freshLine k) s.net.lines k
/-- Replaces line k. -/
def setLine (s : State) (k : Nat) (l : Line) : State :=
  { s with net := { s.net with lines := tset (freshLine k) s.net.lines k l } }
/-- The line that a message leaves by. -/
def lineOf : Iface → Option Nat
  | .eth e _ _ => some (e % 2)
  | .can c _ => some (2 + c % 2)
  | _ => none

/-- Bytes of a message on the wire: a UDP frame over IPv4 with tag, preamble and gap, or CAN FD frames of 64 bytes with 63 of
the message in each (notes/assumptions/30.md). -/
def wireBytes (k : Nat) (r : Reply) : Nat :=
  let n := 48 + r.body.length
  if k < 2 then n + 70 else 64 * ((n + 62) / 63)

/-- Bytes per second of a line (R337, R339). -/
def lineRate (s : State) (k : Nat) : Rat := if k < 2 then 125000000 else (cfg s (0x1110 + (k - 2)) 4 : Nat) / 8

/-- Bytes per second that the telemetry bucket of a line gains: TELEM_MAX percent (R347). -/
def telemRate (s : State) (k : Nat) : Rat :=
  lineRate s k * (if k < 2 then cfgF s (0x1101 + k) 13 else cfgF s (0x1110 + (k - 2)) 6) / 100

/-- The fill of its bucket from which a TELEM message may start. One of more than two maximum CAN FD frames starts at a full
bucket and leaves it below zero, since R347 shapes frames and the model sends whole messages (DESIGN CHOICE,
notes/assumptions/30.md). -/
def telemNeed (k : Nat) (r : Reply) : Rat := rmin (telemDepth k) (wireBytes k r : Nat)

/-- The sending of a message starts. -/
def lineStart (s : State) (k : Nat) (l : Line) (r : Reply) : State :=
  let s := setLine s k { l with busy := q40 (l.busy + (wireBytes k r : Nat) / lineRate s k) }
  if s.boot.highZ then s else { s with net := { s.net with out := s.net.out ++ [r] } }

/-- A line that is free starts what waits, in strict order: urgent replies, responses, telemetry as its bucket allows; under
HUSH no telemetry. A TELEM message takes its SEQ when it starts (R334, R347, R349). -/
def linePump : Nat → State → Nat → State
  | 0, s, _ => s
  | fuel + 1, s, k =>
    let l := line s k
    if 0 < l.busy then s
    else match l.urg, l.resp, l.tel with
    | r :: t, _, _ => linePump fuel (lineStart s k { l with urg := t } r) k
    | [], r :: t, _ => linePump fuel (lineStart s k { l with resp := t } r) k
    | [], [], r :: t =>
      if s.net.hushed then setLine s k { l with busy := 0, tel := [] }
      else match tfind s.net.sessions r.session with
        | none => linePump fuel (setLine s k { l with tel := t }) k
        | some x =>
          if l.tokens < telemNeed k r then setLine s k { l with busy := 0 }
          else
            let s := { s with net := { s.net with
              sessions := tput s.net.sessions r.session { x with outSeq := x.outSeq + 1 } } }
            linePump fuel (lineStart s k { l with tel := t, tokens := l.tokens - (wireBytes k r : Nat) }
              { r with seq := x.outSeq + 1 }) k
    | [], [], [] => setLine s k { l with busy := 0 }

/-- Messages that wait at a line. -/
def lineLoad (l : Line) : Nat := l.urg.length + l.resp.length + l.tel.length

/-- A round passes at every line. -/
def netTick (s : State) : State :=
  s.net.lines.foldl (fun s x =>
    let k := x.1
    let l := line s k
    let l := { l with
      busy := l.busy - s.wheel.tRound, tokens := q40 (rmin (telemDepth k) (l.tokens + telemRate s k * s.wheel.tRound)) }
    linePump (lineLoad l + 1) (setLine s k l) k) s

/-- Puts a message at a line, which starts it at once when it is free. Where the wheel domain stands still and no time passes in
the model, it is sent at once (DESIGN CHOICE, notes/assumptions/30.md). -/
def lineSend (s : State) (k : Nat) (r : Reply) : State :=
  if !domainRuns s then { s with net := { s.net with out := s.net.out ++ [r] } }
  else
    let l := line s k
    let l := if r.kind = 0xB0 then { l with urg := l.urg ++ [r] }
      else if r.kind = 0x21 then { l with tel := l.tel ++ [r] } else { l with resp := l.resp ++ [r] }
    linePump (lineLoad l + 1) (setLine s k l) k

/-- Sends a message; on the SMBus it waits to be read (R340), an Ethernet port or CAN channel sends it in its turn (R347). -/
def sendReply (s : State) (r : Reply) : State :=
  if s.boot.highZ then s
  else match lineOf r.dest with
  | some k => lineSend s k r
  | none =>
    let s := { s with net := { s.net with out := s.net.out ++ [r] } }
    if r.dest == .smb then { s with net := { s.net with smbResp := replyBytes r, smbSent := 0, smbReady := true } } else s

/-! ### Replies and sessions (R332 to R335) -/

/-- A message is discarded and counted in AUTH_FAIL (R330, R334). -/
def discard (s : State) : State := { s with net := { s.net with authFail := s.net.authFail + 1 } }

/-- Replaces session k. -/
def setSession (s : State) (k : Nat) (x : Session) : State :=
  { s with net := { s.net with sessions := tput s.net.sessions k x } }

/-- A status as it travels. -/
def statusBytes (st : Nat) : List Byte := leBytes 2 st

/-- Lowest session number that is free. -/
def freeSession (s : State) : Nat :=
  ((List.range 64).map (· + 1)).find? (fun k => (tfind s.net.sessions k).isNone) |>.getD 0

/-- A refused OPEN (R332, R335); SERVER_NONCE of a refusal is free. -/
def refuseOpen (s : State) (m : InMsg) (st : Nat) : State :=
  let nonce := Config.freeNonce s.draws
  let s := { s with draws := s.draws + 1 }
  sendReply s ⟨m.src, 0x81, 0, 0, m.tag, 0, leBytes 2 0 ++ statusBytes st ++ leBytes 16 nonce.toNat ++ leBytes 2 120⟩

/-- OPEN (R332, R333, R335, R422). -/
def openMsg (s : State) (m : InMsg) (lvl : Level) (nonce : BitVec 128) (client : BitVec 64) : State :=
  match s.net.sessions.find? fun x => x.2.clientNonce == nonce with
  | some x => sendReply s ⟨m.src, 0x81, x.1, 1, x.2.replyTag, 0, x.2.reply⟩
  | none =>
    if s.boot.frozen || s.boot.asleep || (s.boot.recovery && lvl != .service) then refuseOpen s m stState
    else if 64 ≤ sessionsOpen s then
      refuseOpen { s with net := { s.net with refused := s.net.refused + 1 } } m stFull
    else
      let k := freeSession s
      let server := Config.freeNonce s.draws
      let body := leBytes 2 k ++ statusBytes stOK ++ leBytes 16 server.toNat ++ leBytes 2 120
      let x : Session :=
        { level := lvl, clientNonce := nonce, serverNonce := server, clientId := client, seq := 0, urgSeq := 0, outSeq := 1,
          outUrg := 0, idle := 0, locate := 0xFFFFFFFF, replyTag := m.tag, reply := body }
      let s := setSession { s with draws := s.draws + 1 } k x
      sendReply s ⟨m.src, 0x81, k, 1, m.tag, 0, body⟩

/-! ### Items -/

/-- A READ response item (R330). -/
def readReply (ix sub : Nat) (r : Nat × Nat × List Byte) : List Byte :=
  leBytes 2 ix ++ leBytes 1 sub ++ leBytes 1 r.2.1 ++ statusBytes r.1 ++ leBytes 2 r.2.2.length ++ r.2.2

/-- Reads items in order (R331). -/
def readItems (lvl : Level) (session : Nat) : List (Nat × Nat) → State → List Byte × State
  | [], s => ([], s)
  | i :: t, s =>
    let r := readItem s lvl session i.1 i.2
    let rest := readItems lvl session t r.2.2.2
    (readReply i.1 i.2 (r.1, r.2.1, r.2.2.1) ++ rest.1, rest.2)

/-- Writes items in order, each on its own (R331); FROZEN answers STATE (R377). -/
def writeItems (lvl : Level) (session : Nat) : List WriteItem → State → List Byte × State
  | [], s => ([], s)
  | i :: t, s =>
    let r := if s.boot.frozen then (stState, s) else writeItem s lvl session i
    let rest := writeItems lvl session t r.2
    (leBytes 2 i.index ++ leBytes 1 i.sub ++ [0] ++ statusBytes r.1 ++ rest.1, rest.2)

/-! ### Domain writes (R341, R353, R380, R415) -/

/-- The download target of an object. -/
def dlTarget (ix sub : Nat) : Option Nat :=
  match ix, sub with
  | 0x1800, 1 => some 0
  | 0x1800, 2 => some 1
  | 0x1801, 1 => some 2
  | 0x1801, 2 => some 3
  | 0x1802, 1 => some 4
  | _, _ => none

/-- Area of the far-end store that is free (R417). -/
def freeArea (s : State) : Option Nat := (List.range 16).find? fun k => (tfind s.boot.areas k).isNone

/-- A download cannot begin or go on (R415). -/
def dlState (s : State) (x : Nat) : Bool :=
  if x < 2 then !s.boot.recovery && (s.boot.runningSlot == x || (s.boot.trial && s.boot.runningSlot == 1 - x))
  else if x < 4 then s.pat.activeSlot == x - 2
    || ((s.pat.shadowState == 1 || s.pat.shadowState == 2) && s.pat.shadowSlot == x - 2)
  else (dl s x).state != 1 && (freeArea s).isNone

/-- A block of an image (R415): the first fixes TOTAL, the one that completes the transfer starts verification. -/
def dlBlock (s : State) (x : Nat) (b : DomainBlock) : State :=
  let s := if (dl s x).state = 1 then s
    else setDl (dlInvalid s x) x { state := 1, total := b.total, area := (freeArea s).getD 0 }
  let d := dl s x
  let ranges := rangeAdd d.ranges b.offset (b.offset + b.data.length)
  let s := setMram s (mwrite s.mram (dlAddr s x + b.offset) b.data)
  setDl s x { d with ranges := ranges, state := if rangeSum ranges = d.total then 2 else 1 }

/-- Largest TOTAL of a domain object; the length of a key is checked as R353 says. -/
def domainMax (ix sub : Nat) : Nat :=
  match dlTarget ix sub with
  | some x => dlSize x
  | none => if ix < 0x2000 then 2 ^ 32 else 263

/-- TOTAL of the transfer in progress on an object. -/
def domainTotal (s : State) (ix sub : Nat) : Option Nat :=
  match dlTarget ix sub with
  | some x => if (dl s x).state = 1 then some (dl s x).total else none
  | none => (tfind s.net.xfers (okey ix sub)).map (·.total)

/-- A block that R341 refuses. -/
def badBlock (s : State) (b : DomainBlock) : Bool :=
  crc32 b.data != b.crc || decide (b.total < b.offset + b.data.length)
    || ((match rowHere s b.index b.sub with | some r => r.ty == 12 | none => false)
      && (decide (domainMax b.index b.sub < b.total)
        || (match domainTotal s b.index b.sub with | some t => t != b.total | none => false)))

/-- A transaction of a TW_XFER body (R183). -/
def parseXfer (l : List Byte) : Xfer :=
  { bus := (l[0]?).getD 0, addr := (l[1]?).getD 0, flags := (l[2]?).getD 0, rlen := (l[4]?).getD 0,
    timeout := BitVec.ofNat 16 (leAt l 6 2), wdata := (l.drop 8).take ((l[3]?).getD 0).toNat }

/-- The whole content of a key or of XFER has arrived. -/
def domainDone (s : State) (lvl : Level) (ix sub : Nat) (l : List Byte) : Nat × State :=
  if ix = 0x1200 then levelKeyWrite s lvl sub l
  else if ix = 0x1210 then imageKeyWrite s lvl sub l
  else if l.length < 8 ∨ l.length ≠ 8 + ((l[3]?).getD 0).toNat then (stRange, s)
  else xferObjWrite s lvl (ix - 0x2900) (parseXfer l)

/-- A block of another object: kept until the transfer is complete (R341). -/
def bufBlock (s : State) (lvl : Level) (b : DomainBlock) : Nat × State :=
  let key := okey b.index b.sub
  let d := (tfind s.net.xfers key).getD { total := b.total, ranges := [], data := [] }
  let d : DomBuf :=
    { d with ranges := rangeAdd d.ranges b.offset (b.offset + b.data.length), data := mwrite d.data b.offset b.data }
  if rangeSum d.ranges = d.total then
    domainDone { s with net := { s.net with xfers := tdel s.net.xfers key } } lvl b.index b.sub (mread d.data 0 d.total)
  else (stOK, { s with net := { s.net with xfers := tput s.net.xfers key d } })

/-- A length of a key or of XFER that no completion can make right. -/
def badTotal (b : DomainBlock) : Bool :=
  (b.index == 0x1200 && b.total != 32) || (b.index == 0x1210 && b.total != 97)
    || (decide (0x2900 ≤ b.index) && decide (b.total < 8))

/-- A DOMAIN_WRITE (R341, R351). -/
def domainWriteMsg (s : State) (lvl : Level) (b : DomainBlock) : Nat × State :=
  let a := accessStatus s lvl b.index b.sub true
  if badBlock s b then (stBlock, s)
  else if a ≠ stOK then (a, s)
  else match rowHere s b.index b.sub with
    | none => (stNoSub, s)
    | some r =>
      if r.ty ≠ 12 then (stType, s)
      else if b.data.length < 1 ∨ 1024 < b.data.length ∨ badTotal b = true then (stRange, s)
      else if gated s b.index b.sub then (stState, s)
      else match dlTarget b.index b.sub with
        | some x => if dlState s x then (stState, s) else (stOK, dlBlock s x b)
        | none => bufBlock s lvl b

/-! ### Subscriptions (R345, R346) -/

/-- The far-end stream that a subscription item forwards. -/
def streamOf (ix sub : Nat) : Option (Nat × Nat) :=
  if 0x3000 ≤ ix ∧ ix < 0x3100 ∧ 0xF6 ≤ sub ∧ sub ≤ 0xFD then some (ix - 0x3000, sub - 0xF0) else none

/-- Status of a subscription item. -/
def subStatus (s : State) (lvl : Level) (i : ReadItem) : Nat :=
  match streamOf i.index i.sub with
  | some (n, q) => if (pcfg s n 0x24).testBit (q - 6) then stOK else stState
  | none =>
    let a := accessStatus s lvl i.index i.sub false
    if a ≠ stOK then a
    else match rowHere s i.index i.sub with
      | some r => if r.ty = 12 then stType else stOK
      | none => stNoSub

/-- Enables the stream of an accepted item (R345). -/
def enableStream (s : State) (i : ReadItem) : State :=
  match streamOf i.index i.sub with
  | some (n, q) => telemSetMsg s n q true
  | none => s

/-- Subscriptions other than one of a session. -/
def otherSubs (s : State) (session subId : Nat) : List Sub :=
  s.net.subs.filter fun x => !(x.session == session && x.subId == subId)

/-- SUBSCRIBE (R340, R345): a status per item. -/
def subscribeMsg (s : State) (dest : Iface) (lvl : Level) (session subId period : Nat) (items : List ReadItem) :
    List Nat × State :=
  let same (st : Nat) : List Nat := items.map fun _ => st
  let rest := otherSubs s session subId
  if dest == .smb || s.boot.frozen || s.boot.asleep then (same stState, s)
  else if 15 < subId ∨ 32 < items.length ∨ 65535 < period ∨ (items = [] ∧ period ≠ 0) then (same stRange, s)
  else if period = 0 then (same stOK, { s with net := { s.net with subs := rest } })
  else if 256 ≤ rest.length then (same stRange, s)
  else
    let sts := items.map (subStatus s lvl)
    let good := items.filter fun i => subStatus s lvl i == stOK
    if good.isEmpty then (sts, s)
    else
      let x : Sub :=
        { dest := dest, session := session, subId := subId, period := period, items := good.map fun i => (i.index, i.sub),
          wait := period, dropped := 0, due := none }
      let s := { s with net := { s.net with subs := rest ++ [x] } }
      (sts, good.foldl enableStream s)

/-- Where the TELEM messages of a subscription go: the source of its SUBSCRIBE, with TELEM_PCP (R337, R352). -/
def telemDest (s : State) : Iface → Iface
  | .eth e peer _ => .eth e peer (cfg s (0x1101 + e) 14)
  | d => d

/-- A TELEM message of a subscription waits at its line. -/
def telemWaits (s : State) (x : Sub) : Bool :=
  match lineOf x.dest with
  | none => false
  | some k => (line s k).tel.any fun r => r.session == x.session && r.body.head? == some (BitVec.ofNat 8 x.subId)

/-- The TELEM messages of a subscription that wait at its line are dropped. -/
def dropTelem (s : State) (x : Sub) : State :=
  match lineOf x.dest with
  | none => s
  | some k => setLine s k { line s k with
      tel := (line s k).tel.filter fun r => !(r.session == x.session && r.body.head? == some (BitVec.ofNat 8 x.subId)) }

/-- Sends a TELEM message of a session, in the sequence space of K_MAC (R334, R346). -/
def sendTelem (s : State) (x : Sub) (count : Nat) (body : List Byte) : State :=
  match tfind s.net.sessions x.session with
  | none => s
  | some y =>
    match lineOf x.dest with
    | some _ => sendReply s ⟨telemDest s x.dest, 0x21, x.session, 0, 0, count, body⟩
    | none =>
      let s := setSession s x.session { y with outSeq := y.outSeq + 1 }
      sendReply s ⟨x.dest, 0x21, x.session, y.outSeq + 1, 0, count, body⟩

/-- A seam for one subscription: its message becomes due with the values of this seam; one that has not started before is
dropped. Under HUSH it sends nothing and counts nothing (R346, R349). -/
def subSeam (s : State) (x : Sub) : State × Sub :=
  if 1 < x.wait then (s, { x with wait := x.wait - 1 })
  else if s.net.hushed then (s, { x with wait := x.period, due := none })
  else
    let lvl := ((tfind s.net.sessions x.session).map fun y => y.level).getD .observe
    let items := x.items.filter fun i => (streamOf i.1 i.2).isNone
    let r := readItems lvl x.session items s
    let lost := x.due.isSome || telemWaits s x
    let t := dropTelem r.2 x
    let t := if lost then { t with net := { t.net with telemDropped := t.net.telemDropped + 1 } } else t
    (t, { x with wait := x.period, dropped := if lost then x.dropped + 1 else x.dropped, due := some (s.wheel.seam, r.1) })

/-- A seam for every subscription. -/
def subsSeam (s : State) : State :=
  if !collarRuns s then s
  else
    let r := s.net.subs.foldl (fun (p : State × List Sub) x => let q := subSeam p.1 x; (q.1, p.2 ++ [q.2])) (s, [])
    { r.1 with net := { r.1.net with subs := r.2 } }

/-- Replaces a subscription. -/
def putSub (s : State) (x : Sub) : State :=
  let l := s.net.subs.map fun y => if y.session == x.session && y.subId == x.subId then x else y
  { s with net := { s.net with subs := l } }

/-- SUBSCRIPTION_PERIOD: the due message of a subscription is sent (R346). -/
def execSubscriptionPeriod (session subId : Nat) (s : State) : Out :=
  .next (match s.net.subs.find? fun x => x.session == session && x.subId == subId with
  | none => s
  | some x => match x.due with
    | none => s
    | some (seam, items) =>
      if s.net.hushed then putSub s { x with due := none }
      else
        let body := leBytes 1 x.subId ++ [0] ++ leBytes 2 (Nat.min x.dropped 0xFFFF) ++ wordBytes seam ++ items
        let s := putSub s { x with due := none, dropped := 0 }
        sendTelem s x x.items.length body)

/-- TELEM: a telemetry message of a far end is forwarded to the subscriptions that name its stream. Its stamp is that of the
queue manager where the message stands in its queue (R181, R182, R346). -/
def execTelem (n : PortId) (queue dropped : Nat) (stamp : Word) (data : List Byte) (s : State) : Out :=
  .next (let stamp := ((firstIn queue (link s n).mbx).map (·.2)).getD stamp
  let s := updLink s n fun l => { l with mbx := dropInbox queue l.mbx }
  if s.net.hushed || !(decide (6 ≤ queue) && decide (queue ≤ 13)) then s
  else (s.net.subs.filter fun x => x.items.contains (0x3000 + n, 0xF0 + queue)).foldl (fun s x =>
    sendTelem s x 1 (leBytes 1 x.subId ++ [0] ++ leBytes 2 dropped ++ wordBytes stamp ++ data)) s)

/-! ### The urgent class (R348 to R350) -/

/-- The effect of an urgent command whose message is accepted, and its status. -/
def urgentEffect (s : State) (command arg : Byte) : Nat × State :=
  if command = 1 then (stOK, { s with net := { s.net with hushed := true } })
  else if command = 2 ∧ arg.toNat ≤ 1 then (if commands s then capSelectWrite s arg.toNat else (stState, s))
  else (stRange, s)

/-- Where the reply to an URGENT goes: on Ethernet with PCP 7 (R348). -/
def urgentDest : Iface → Iface
  | .eth e peer _ => .eth e peer 7
  | d => d

/-- An URGENT message; `blocked` is what the server adds for one that it handles itself (R339, R377, R424). -/
def urgentMsg (s : State) (m : InMsg) (blocked : Bool) (command arg : Byte) : State :=
  match tfind s.net.sessions m.auth.session with
  | none => discard s
  | some x =>
    if !m.auth.macOk then discard s
    else
      let stale := decide (m.auth.seq ≤ x.urgSeq)
      let y := if stale then { x with outUrg := x.outUrg + 1 }
        else { x with outUrg := x.outUrg + 1, urgSeq := m.auth.seq, idle := 0 }
      let s := setSession s m.auth.session y
      let r := if stale then (stAuth, { s with net := { s.net with replay := s.net.replay + 1 } })
        else if levelNo x.level < levelNo .operate then (stAccess, s)
        else if blocked then (stState, s)
        else urgentEffect s command arg
      let t := if r.1 = stOK then { r.2 with net := { r.2.net with urgAccepted := r.2.net.urgAccepted + 1 } }
        else { r.2 with net := { r.2.net with urgRejected := r.2.net.urgRejected + 1 } }
      sendReply t ⟨urgentDest m.src, 0xB0, m.auth.session, y.outUrg, m.tag, 0, statusBytes r.1⟩

/-! ### The server (R331, R334, R336, R377, R424) -/

/-- Kind code of a request. -/
def reqKind : Req → Nat
  | .openS .. => 0x01 | .close => 0x02 | .read _ => 0x10 | .write _ => 0x11 | .domainWrite _ => 0x12
  | .domainRead .. => 0x13 | .subscribe .. => 0x20 | .urgent .. => 0x30 | .bad k => k

/-- Statuses of a list, as they travel. -/
def statusList (l : List Nat) : List Byte := (l.map statusBytes).flatten

/-- The effect of an accepted message of a session: items answered, body, state after it. -/
def runReq (s : State) (m : InMsg) (lvl : Level) : Nat × List Byte × State :=
  let k := m.auth.session
  let asleep := s.boot.asleep
  match m.req with
  | .close => if asleep then (0, statusBytes stState, s) else (0, [], closeNow s k)
  | .read l =>
    let r := readItems lvl k (l.map fun i => (i.index, i.sub)) s
    (l.length, r.1, r.2)
  | .write l =>
    let r := writeItems lvl k l s
    (l.length, r.1, r.2)
  | .domainWrite b =>
    let r := if s.boot.frozen || asleep then (stState, s) else domainWriteMsg s lvl b
    (1, statusBytes r.1, r.2)
  | .domainRead ix sub off len =>
    let r := if asleep then (stState, []) else domainReadItem s lvl ix sub off len
    (1, statusBytes r.1 ++ r.2, s)
  | .subscribe id per l =>
    let r := subscribeMsg s m.src lvl k id per l
    (l.length, statusList r.1, r.2)
  | _ => (0, statusBytes stType, s)

/-- A message of an open session (R334). -/
def sessionMsg (s : State) (m : InMsg) : State :=
  match tfind s.net.sessions m.auth.session with
  | none => discard s
  | some x =>
    if !m.auth.macOk then discard s
    else
      let answer (t : State) (count : Nat) (body : List Byte) : State :=
        sendReply t ⟨m.src, reqKind m.req + 0x80, m.auth.session, x.outSeq + 1, m.tag, count, body⟩
      if m.auth.seq ≤ x.seq then
        let s := setSession s m.auth.session { x with outSeq := x.outSeq + 1 }
        answer { s with net := { s.net with replay := s.net.replay + 1 } } 0 (statusBytes stAuth)
      else
        let s := setSession s m.auth.session { x with seq := m.auth.seq, outSeq := x.outSeq + 1, idle := 0 }
        let r := runReq { s with net := { s.net with msgNo := s.net.msgNo + 1 } } m x.level
        answer r.2.2 r.1 r.2.1

/-- The server handles one message. -/
def handle (s : State) (m : InMsg) : State :=
  match m.req with
  | .openS lvl nonce client => if m.auth.macOk then openMsg s m lvl nonce client else discard s
  | .urgent c a => urgentMsg s m (s.boot.frozen || s.boot.asleep) c a
  | _ => sessionMsg s m

/-- Holds a message while the Collar alone restarts (R336). -/
def holdMsg (s : State) (m : InMsg) : State :=
  if s.net.ingress.length < 256 then { s with net := { s.net with ingress := s.net.ingress ++ [m] } }
  else { s with net := { s.net with rxqDropped := s.net.rxqDropped + 1 } }

/-- A non-urgent message arrives (R336). -/
def receive (s : State) (m : InMsg) : State :=
  if serverRuns s then handle s m
  else if s.boot.restarting && !inReset s then holdMsg s m
  else s

/-- The urgent responder works: not in reset, not in RECOVERY (R348, R422). -/
def responderRuns (s : State) : Bool := !inReset s && !s.boot.recovery && !s.boot.coldP0

/-- An urgent message at the responder (R348). -/
def respond (s : State) (m : InMsg) (command arg : Byte) : State :=
  if responderRuns s then urgentMsg s m false command arg else s

/-- COLLAR_BOOT_DONE: P0 has ended; the server executes what its ingress queue holds, in order (R336, R406, R412). -/
def execCollarBootDone (s : State) : Out :=
  .next (let t := bootDone s
  if inP0 s && serverRuns t then
    let held := t.net.ingress
    held.foldl handle { t with net := { t.net with ingress := [], smbBusy := false } }
  else t)

/-! ### Commands that are messages -/

/-- A message handed to the server by the host, whatever interface brought it. -/
def hostMsg (a : Auth) (q : Req) : InMsg := { src := .host, tag := 0, auth := a, req := q }

/-- OPEN (R332). -/
def execOpenS (lvl : Level) (nonce : BitVec 128) (client : BitVec 64) (macOk : Bool) (s : State) : Out :=
  .next (receive s (hostMsg ⟨0, 0, macOk⟩ (.openS lvl nonce client)))
/-- CLOSE (R335). -/
def execClose (a : Auth) (s : State) : Out := .next (receive s (hostMsg a .close))
/-- READ (R331). -/
def execRead (a : Auth) (items : List ReadItem) (s : State) : Out := .next (receive s (hostMsg a (.read items)))
/-- WRITE (R331). -/
def execWrite (a : Auth) (items : List WriteItem) (s : State) : Out := .next (receive s (hostMsg a (.write items)))
/-- DOMAIN_WRITE (R341). -/
def execDomainWrite (a : Auth) (b : DomainBlock) (s : State) : Out := .next (receive s (hostMsg a (.domainWrite b)))
/-- DOMAIN_READ (R341). -/
def execDomainRead (a : Auth) (index sub offset length : Nat) (s : State) : Out :=
  .next (receive s (hostMsg a (.domainRead index sub offset length)))
/-- SUBSCRIBE (R345). -/
def execSubscribe (a : Auth) (subId period : Nat) (items : List ReadItem) (s : State) : Out :=
  .next (receive s (hostMsg a (.subscribe subId period items)))
/-- URGENT at the responder (R348). -/
def execUrgent (a : Auth) (command arg : Byte) (s : State) : Out :=
  .next (respond s (hostMsg a (.urgent command arg)) command arg)
/-- HUSH (R349). -/
def execHush (a : Auth) (s : State) : Out := .next (respond s (hostMsg a (.urgent 1 0)) 1 0)
/-- CAP (R350). -/
def execCap (a : Auth) (arg : Byte) (s : State) : Out := .next (respond s (hostMsg a (.urgent 2 arg)) 2 arg)

/-- SESSION_IDLE_CHECK: the once-per-second check (R335); the timers count through a restart of the Collar (R336). The first
check after a message comes less than 1 s after it, so 120 s have passed at the 121st (DEDUCED, notes/assumptions/61.md). -/
def execSessionIdleCheck (s : State) : Out :=
  .next (if inReset s then s
  else
    let l := s.net.sessions.map fun x => (x.1, { x.2 with idle := x.2.idle + 1 })
    let s := { s with net := { s.net with sessions := l } }
    if serverRuns s then (l.filter fun x => decide (121 ≤ x.2.idle)).foldl (fun s x => closeNow s x.1) s else s)

/-! ### Ethernet (R337, R338) -/

/-- Tokens of a bucket after `us` microseconds. -/
def fill (rate depth tokens : Rat) (us : Nat) : Rat := rmin depth (tokens + rate * (us : Rat) / 1000000)

/-- The port accepts the frame's tag and length, and it is no fragment (R337). -/
def frameTaken (s : State) (e size : Nat) (fragment : Bool) (vlan : Option Nat) : Bool :=
  let v := cfg s (0x1101 + e) 9
  !fragment && decide (size ≤ 1522) && (v == 0 || vlan == some v)

/-- Adds 1 to a 64-bit counter of an Ethernet port. -/
def count64Of (t : Tab Nat) (e : Nat) : Tab Nat := tset 0 t e ((tget 0 t e + 1) % 2 ^ 64)

/-- A frame that is not urgent, or is treated so: it needs a token of the non-urgent bucket (R338). -/
def plainFrame (s : State) (e : Nat) (rdp : Bool) (m : InMsg) : State :=
  let t := tget 256 s.net.tokens e
  if t < 1 then { s with net := { s.net with rxDropped := count64Of s.net.rxDropped e } }
  else
    let s := { s with net := { s.net with tokens := tput s.net.tokens e (t - 1) } }
    if rdp then receive s m else s

/-- ETHERNET_FRAME, `us` after the last frame of the port (R337, R338). -/
def execEthernetFrame (e : Fin 2) (size : Nat) (fragment : Bool) (vlan : Option Nat) (pcp : Nat) (udp : UdpPorts)
    (macOk : Bool) (us : Nat) (rdp : List Byte) (s : State) : Out :=
  .next (if inReset s || s.boot.coldP0 then s
  else
    let n := s.net
    let s := { s with net := { n with
      ethUp := tput n.ethUp e true,
      urgTokens := tput n.urgTokens e (fill 1000 16 (tget 16 n.urgTokens e) us),
      tokens := tput n.tokens e (fill 50000 256 (tget 256 n.tokens e) us) } }
    if !frameTaken s e size fragment vlan then s
    else
      let ours := decide (udp.dst = cfg s (0x1101 + e) 10)
      let m := parseMsg (.eth e udp.src (if vlan.isSome then pcp else 0)) macOk rdp
      if vlan.isSome && pcp == 7 && ours && leAt rdp 1 1 == 0x30 then
        let u := tget 0 s.net.urgTokens e
        if u < 1 then
          plainFrame { s with net := { s.net with urgLimited := s.net.urgLimited + 1 } } e true m
        else
          let s := { s with net := { s.net with
            urgTokens := tput s.net.urgTokens e (u - 1), urgRx := count64Of s.net.urgRx e } }
          match m.req with
          | .urgent c a => respond s m c a
          | _ => if responderRuns s then discard s else s
      else plainFrame s e ours m)

/-! ### CAN FD (R339) -/

/-- A segment joins its message: the message so far, and whether it is whole; none when it is discarded. -/
def joinPart (old : Option CanPart) (flag : Byte) (data : List Byte) : Option (CanPart × Bool) :=
  let f := flag.toNat
  let last := f.testBit 6
  if f.testBit 7 then (if f % 64 = 0 then some ({ next := 1, bytes := data }, last) else none)
  else match old with
    | none => none
    | some p => if f % 64 = p.next then some ({ next := p.next + 1, bytes := p.bytes ++ data }, last) else none

/-- A message with the padding of its last segment cut off. -/
def cutMsg (l : List Byte) : List Byte := l.take (48 + leAt l 12 2)

/-- CAN_FD_FRAME (R339). -/
def execCanFdFrame (c : Fin 2) (ident : BitVec 29) (data : List Byte) (macOk : Bool) (s : State) : Out :=
  .next (let v := ident.toNat
  let src := v / 2 ^ 12 % 128
  let key := c.val * 65536 + src * 16 + v / 256 % 16
  if inReset s || s.boot.coldP0 || cfg s (0x1110 + c) 1 == 0 || decide (v / 2 ^ 19 % 128 ≠ cfg s (0x1110 + c) 2) then s
  else match data with
    | [] => s
    | flag :: t =>
      let drop := { s with net := { s.net with parts := tdel s.net.parts key } }
      match joinPart (tfind s.net.parts key) flag t with
      | none => drop
      | some (p, false) => { s with net := { s.net with parts := tput s.net.parts key p } }
      | some (p, true) => receive drop (parseMsg (.can c src) macOk (cutMsg p.bytes)))

/-- CAN_REASSEMBLY_TIMEOUT: a message incomplete 100 ms after its first segment is discarded (R339). -/
def execCanReassemblyTimeout (c : Fin 2) (src stream : Nat) (s : State) : Out :=
  .next { s with net := { s.net with parts := tdel s.net.parts (c.val * 65536 + src * 16 + stream) } }

/-! ### SMBus target (R340) -/

/-- A whole request on the SMBus: BUSY until it is answered or discarded. -/
def smbRequest (s : State) (l : List Byte) (macOk : Bool) : State :=
  let s := { s with net := { s.net with smbReq := [], smbNext := 0, smbReady := false, smbResp := [] } }
  let held := s.net.ingress.length
  let t := receive s (parseMsg .smb macOk l)
  { t with net := { t.net with smbBusy := decide (held < t.net.ingress.length) } }

/-- MSG_WRITE (R340). -/
def execMsgWrite (flag : Byte) (data : List Byte) (pecPresent pecOk macOk : Bool) (s : State) : Out :=
  .next (if inReset s || s.boot.coldP0 then s
  else if s.net.smbBusy || (pecPresent && !pecOk) || (!pecPresent && cfg s 0x1118 2 != 0) then
    { s with net := { s.net with smbNack := true } }
  else
    let n := s.net
    let s := { s with net := { n with smbNack := false } }
    let old : Option CanPart := if n.smbReq.isEmpty then none else some { next := n.smbNext, bytes := n.smbReq }
    let drop := { s with net := { s.net with smbReq := [], smbNext := 0 } }
    match joinPart old flag data with
    | none => drop
    | some (p, last) =>
      if 1248 < p.bytes.length then { drop with net := { drop.net with smbOver := true } }
      else if last then smbRequest { s with net := { s.net with smbOver := false } } (cutMsg p.bytes) macOk
      else { s with net := { s.net with smbReq := p.bytes, smbNext := p.next } })

/-- MSG_READ: the next segment of the response, or a block of count 0 (R340). -/
def execMsgRead (s : State) : Out :=
  .next (if inReset s || s.boot.coldP0 then s
  else if !s.net.smbReady then { s with net := { s.net with smbBlock := [] } }
  else
    let n := s.net
    let seg := (n.smbResp.drop n.smbSent).take 254
    let sent := n.smbSent + seg.length
    let last := decide (n.smbResp.length ≤ sent)
    let flag := b2n (n.smbSent == 0) * 128 + b2n last * 64 + n.smbSent / 254 % 64
    { s with net := { n with smbBlock := BitVec.ofNat 8 flag :: seg, smbSent := sent, smbReady := !last } })

/-- GW_STATUS (R340). -/
def execGwStatus (s : State) : Out :=
  .next (if inReset s || s.boot.coldP0 then s
  else
    let n := s.net
    { s with net := { n with smbByte := BitVec.ofNat 8 (b2n n.smbReady + 2 * b2n n.smbBusy + 4 * b2n n.smbOver) } })

end Sys2Proof.Machine
end

