-- ==== Sys2Proof/Machine/Tick.lean ====
section
/-! DEFINITION. The tick, the seam and the wheel's events between them (R28 to R46, R83, R84, R125, R200, R297, R376, R424,
R435): the order in which everything that a tick or a seam starts takes place. -/
namespace Sys2Proof.Machine

/-! ### The wheel's events -/

/-- ANGLE_VALID of a feed rises (R37). -/
def execAngleValid (f : Feed) (s : State) : Out := .next (if domainRuns s then angleValidNow s f else s)

/-- FEED_LOSS, at the 64th consecutive tick below LOSS_LEVEL (R39, R41). -/
def execFeedLoss (f : Feed) (s : State) : Out := .next (if domainRuns s && lossDue (feedSt s f) then feedLost s f else s)

/-- FEED_RETURN, after RETURN_CYCLES unbroken cycles above RETURN_LEVEL; a wheel that waits for a reference takes it
(R40, R41). -/
def execFeedReturn (f : Feed) (s : State) : Out :=
  .next (if domainRuns s && returnDue s (feedSt s f) then wheelEnter (feedReturned s f) else s)

/-- LOCK_ACHIEVED (R41). -/
def execLockAchieved (s : State) : Out := .next (if domainRuns s then lockNow s else s)

/-- What the wheel left undone in the round that ends (notes/assumptions/6.md). -/
def wheelCatchUp (s : State) : State :=
  let lost (s : State) (f : Feed) : State := if lossDue (feedSt s f) then feedLost s f else s
  let back (s : State) (f : Feed) : State := if returnDue s (feedSt s f) then feedReturned s f else s
  let valid (s : State) (f : Feed) : State := if angleDue s (feedSt s f) then angleValidNow s f else s
  let s := valid (valid (back (back (lost (lost s .A) .B) .A) .B) .A) .B
  let s := syncLossNow s
  lockNow (slipReturnNow (lockLossNow (slipNow s)))

/-! ### The seam -/

/-- SEAM_CLOSE: round 1,008 of the interval closes the preparation of the seam (R35). -/
def execSeamClose (s : State) : Out :=
  .next (if domainRuns s && decide (1008 ≤ s.wheel.ris) then { s with wheel := { s.wheel with closed := true } } else s)

/-- The scrubber's count of an interval that it covered wholly, and the interval that begins (R80, R85). -/
def seamScrub (s : State) : State :=
  { s with arr := { s.arr with
      scrubPasses := if s.arr.scrubWhole && scrubRuns s then s.arr.scrubPasses + 1 else s.arr.scrubPasses,
      scrubWhole := scrubRuns s } }

/-- P4: the engines start at the first seam after LOCKED, or after P1 when the wheel stays FREE (R406, R408). -/
def seamStart (s : State) : State :=
  let locked := s.wheel.mode == 2 || (s.wheel.state != .free && s.wheel.state != .acquire)
  if !s.arr.started && !s.pat.startPend && s.pat.p1.isNone && s.pat.activeSlot != 0xFF && s.wheel.newBase.isNone && locked
      && s.pat.holdSeam != s.wheel.seam then
    startEngines s
  else s

/-- A SLEEP that awaits its seam: 16 rounds of HEM = 1 begin (R424). -/
def seamSleep (s : State) : State :=
  match s.boot.sleeping with
  | some k => if 16 < k then { s with boot := { s.boot with sleeping := some (k - 1) } } else s
  | none => s

/-- What a seam does to the ports (R198, R218, R290). -/
def seamPort (s : State) (n : Nat) : State := thermSeam (publish (seamCmds s n) n) n

/-! ### The tick -/

/-- What the round that ends left undone: each event that was due and no command has brought (notes/assumptions/6.md). -/
def roundEnd (s : State) : State :=
  let s := if traceHoldDue s then traceHoldNow s else s
  let s := commitCatchUp s
  let s := arrayCatchUp (wheelCatchUp s)
  let s := forAll (linkPorts s) linkCatchUp s
  let s := forAll (linkPorts s) portCatchUp s
  let s := seqCatchUp (railCatchUp (flowCatchUp (battCatchUp s)))
  let s := if armDeadline s then armFinish s else s
  if takeoverDue s then takeoverNow s else s

/-- A Sleeve at a tick: entries are empty again, a doubt's halt takes effect, and the body of the round begins
(R54, R69, R84, R125). -/
def sleeveTick (s : State) (sl : Nat) : State :=
  let s := updSleeve s sl fun x => { x with
    halted := x.halted || x.halting, halting := false, rx := [], stores := [], trips := [] }
  let x := sleeve s sl
  if !s.arr.started || x.halted || x.parked then s
  else startSleeve (updSleeve s sl fun x => { x with
    seedLeft := x.seedLeft - 1, seedMute := x.seedMute && decide (1 < x.seedLeft) }) sl

/-- The engine array at a tick, before what a seam changes in it. -/
def arrayTick (s : State) : State :=
  sampleCap (forAll allSleeves sleeveTick (foldResults s))

/-- The stock modules of a port in the round that begins. -/
def portTick (s : State) (n : Nat) : State :=
  let s := portAdvance s n
  let s := if (ctl s n).snapPend then snapNow s n else s
  thermRound (portMeasure s n) n

/-- Steps of FREEZE and SLEEP that a tick takes (R376, R424). -/
def haltTick (s : State) : State :=
  { s with boot := { s.boot with
      freezing := if s.boot.freezing = 1 then 2 else s.boot.freezing,
      sleeping := match s.boot.sleeping with
        | some k => if k ≤ 16 then some (k - 1) else some k
        | none => none } }

/-- A round begins: modules, mailboxes and downlink frames. -/
def roundBegin (s : State) : State :=
  let s := forAll (linkPorts s) portTick s
  let s := flowRound (shipTime (battRound s))
  let s := seqRound (forAll (linkPorts s) portOutput s)
  let s := forAll (linkPorts s) mboxTick (waveEnd s)
  linkNew (latchHeaders (hemPin (haltTick s)))

/-- What the wheel and the pair take at a tick, under the configuration in effect from it on. -/
def tickMeasure (s : State) (i : TickIn) : State := pairTick (wheelMeasure s i)

/-- Everything that a seam performs, at the tick that starts its first round; the round then begins (R35). -/
def seamNow (s : State) : State :=
  let i := s.wheel.seamIn
  let s := { s with wheel := { s.wheel with closed := false, seamDue := false } }
  let s := forAll allSleeves seamSweep (seamSleep (seamScrub s))
  let s := tickMeasure (seamParams (applyPend s)) i
  let s := seamRestart (seamArmCommit (armDecide (seamArm (seamCommit s))))
  let s := forAll (linkPorts s) leaveHem s
  let s := seamStart (seamReleases s)
  let s := forAll (linkPorts s) seamPort s
  let s := pairSeam (seamSeq (flowSeam (battSeam s)))
  let s := moveLead s
  let s := goFree (setMode s (roleMode s))
  subsSeam (roundBegin (wheelSet s))

/-- SEAM: what the seam changes, and the round that begins under it (R35). -/
def execSeam (s : State) : Out := .next (if domainRuns s && s.wheel.seamDue then seamNow s else s)

/-- The part of a tick that no seam can change: the round ends, B0 and B1 exchange, the counters advance (R28, R34, R56). -/
def tickFront (s : State) (i : TickIn) : State :=
  let s := takeUpsets (exchange (pairDigest (traceWrite (roundEnd s)))) i.upsets
  let s := wheelCount s
  let s := { s with wheel := { s.wheel with
      seamIn := i, closed := s.wheel.closed || decide (1009 ≤ s.wheel.ris) } }
  timersTick (arrayTick (tickArm (netTick (passTime s s.wheel.tRound))))

/-- A tick of a running wheel. At a seam the rest of the tick is SEAM's, which a sender puts next; a SEAM that has not come
by the next tick is performed then (notes/assumptions/6.md). -/
def tickNow (s : State) (i : TickIn) : State :=
  let s := tickFront (if s.wheel.seamDue then seamNow s else s) i
  if s.wheel.seamDue then s else roundBegin (wheelSet (tickMeasure s i))

/-- TICK (R28). The tick at which FREEZE stops the clocks, and the one at which SLEEP does, start no round (R376, R424). -/
def execTick (i : TickIn) (s : State) : Out :=
  .next (if !domainRuns s then s
  else if s.boot.freezing = 2 then freezeStop s
  else if s.boot.sleeping = some 1 then sleepNow s
  else tickNow s i)

end Sys2Proof.Machine
end

