-- ==== Sys2Proof/Machine/Dispatch.lean ====
section
/-! DEFINITION. The dispatch: one arm for each constructor of `Instr`, in the order of the opcode table, each a
direct call of that command's own meaning. -/
namespace Sys2Proof.Machine

/-- The effect of a command on everything but the queue. -/
def exec (i : Instr) (s : State) : Host.Outcome State Fault Refusal :=
  match i with
  | .tick k => Sys2Proof.Machine.execTick k s
  | .seam => Sys2Proof.Machine.execSeam s
  | .seamClose => Sys2Proof.Machine.execSeamClose s
  | .angleValid f => Sys2Proof.Machine.execAngleValid f s
  | .feedLoss f => Sys2Proof.Machine.execFeedLoss f s
  | .feedReturn f => Sys2Proof.Machine.execFeedReturn f s
  | .lockAchieved => Sys2Proof.Machine.execLockAchieved s
  | .lockLoss => Sys2Proof.Machine.execLockLoss s
  | .slip => Sys2Proof.Machine.execSlip s
  | .slipReturn => Sys2Proof.Machine.execSlipReturn s
  | .syncPulse width lagNs freq => Sys2Proof.Machine.execSyncPulse width lagNs freq s
  | .syncLoss => Sys2Proof.Machine.execSyncLoss s
  | .wheelMode lvl v => Sys2Proof.Machine.execWheelMode lvl v s
  | .fMainsMax lvl v => Sys2Proof.Machine.execFMainsMax lvl v s
  | .fMainsMin lvl v => Sys2Proof.Machine.execFMainsMin lvl v s
  | .fNom lvl v => Sys2Proof.Machine.execFNom lvl v s
  | .overrunCheck e => Sys2Proof.Machine.execOverrunCheck e s
  | .scrub errs => Sys2Proof.Machine.execScrub errs s
  | .instrCrcCheck e => Sys2Proof.Machine.execInstrCrcCheck e s
  | .downlinkSnapshot => Sys2Proof.Machine.execDownlinkSnapshot s
  | .resultWriteback e cycle => Sys2Proof.Machine.execResultWriteback e cycle s
  | .yokeArrival d ue => Sys2Proof.Machine.execYokeArrival d ue s
  | .reductionResult cycle ue => Sys2Proof.Machine.execReductionResult cycle ue s
  | .tallySweep sl => Sys2Proof.Machine.execTallySweep sl s
  | .nop e => Sys2Proof.Machine.execNop e s
  | .unlistedOpcode e word => Sys2Proof.Machine.execUnlistedOpcode e word s
  | .add e p rd ra rb => Sys2Proof.Machine.execAdd e p rd ra rb s
  | .sub e p rd ra rb => Sys2Proof.Machine.execSub e p rd ra rb s
  | .andR e p rd ra rb => Sys2Proof.Machine.execAndR e p rd ra rb s
  | .orR e p rd ra rb => Sys2Proof.Machine.execOrR e p rd ra rb s
  | .xorR e p rd ra rb => Sys2Proof.Machine.execXorR e p rd ra rb s
  | .shl e p rd ra rb => Sys2Proof.Machine.execShl e p rd ra rb s
  | .shr e p rd ra rb => Sys2Proof.Machine.execShr e p rd ra rb s
  | .sra e p rd ra rb => Sys2Proof.Machine.execSra e p rd ra rb s
  | .min e p rd ra rb => Sys2Proof.Machine.execMin e p rd ra rb s
  | .max e p rd ra rb => Sys2Proof.Machine.execMax e p rd ra rb s
  | .minu e p rd ra rb => Sys2Proof.Machine.execMinu e p rd ra rb s
  | .maxu e p rd ra rb => Sys2Proof.Machine.execMaxu e p rd ra rb s
  | .sexth e p rd ra => Sys2Proof.Machine.execSexth e p rd ra s
  | .zexth e p rd ra => Sys2Proof.Machine.execZexth e p rd ra s
  | .highh e p rd ra => Sys2Proof.Machine.execHighh e p rd ra s
  | .addi e p rd ra imm => Sys2Proof.Machine.execAddi e p rd ra imm s
  | .andi e p rd ra imm => Sys2Proof.Machine.execAndi e p rd ra imm s
  | .ori e p rd ra imm => Sys2Proof.Machine.execOri e p rd ra imm s
  | .xori e p rd ra imm => Sys2Proof.Machine.execXori e p rd ra imm s
  | .shifti e p rd ra imm => Sys2Proof.Machine.execShifti e p rd ra imm s
  | .movi e p rd imm => Sys2Proof.Machine.execMovi e p rd imm s
  | .movh e p rd imm => Sys2Proof.Machine.execMovh e p rd imm s
  | .sel e p rd ra rb neg k => Sys2Proof.Machine.execSel e p rd ra rb neg k s
  | .cmpEq e p pd ra rb => Sys2Proof.Machine.execCmpEq e p pd ra rb s
  | .cmpNe e p pd ra rb => Sys2Proof.Machine.execCmpNe e p pd ra rb s
  | .cmpLt e p pd ra rb => Sys2Proof.Machine.execCmpLt e p pd ra rb s
  | .cmpLe e p pd ra rb => Sys2Proof.Machine.execCmpLe e p pd ra rb s
  | .cmpLtu e p pd ra rb => Sys2Proof.Machine.execCmpLtu e p pd ra rb s
  | .cmpLeu e p pd ra rb => Sys2Proof.Machine.execCmpLeu e p pd ra rb s
  | .cmpFeq e p pd ra rb => Sys2Proof.Machine.execCmpFeq e p pd ra rb s
  | .cmpFne e p pd ra rb => Sys2Proof.Machine.execCmpFne e p pd ra rb s
  | .cmpFlt e p pd ra rb => Sys2Proof.Machine.execCmpFlt e p pd ra rb s
  | .cmpFle e p pd ra rb => Sys2Proof.Machine.execCmpFle e p pd ra rb s
  | .pand e p pd pa pb => Sys2Proof.Machine.execPand e p pd pa pb s
  | .por e p pd pa pb => Sys2Proof.Machine.execPor e p pd pa pb s
  | .pxor e p pd pa pb => Sys2Proof.Machine.execPxor e p pd pa pb s
  | .pandn e p pd pa pb => Sys2Proof.Machine.execPandn e p pd pa pb s
  | .mul e p rd ra rb => Sys2Proof.Machine.execMul e p rd ra rb s
  | .mulh e p rd ra rb => Sys2Proof.Machine.execMulh e p rd ra rb s
  | .mulhu e p rd ra rb => Sys2Proof.Machine.execMulhu e p rd ra rb s
  | .qmul15 e p rd ra rb => Sys2Proof.Machine.execQmul15 e p rd ra rb s
  | .qmul31 e p rd ra rb => Sys2Proof.Machine.execQmul31 e p rd ra rb s
  | .qadd15 e p rd ra rb => Sys2Proof.Machine.execQadd15 e p rd ra rb s
  | .qsub15 e p rd ra rb => Sys2Proof.Machine.execQsub15 e p rd ra rb s
  | .qadd31 e p rd ra rb => Sys2Proof.Machine.execQadd31 e p rd ra rb s
  | .qsub31 e p rd ra rb => Sys2Proof.Machine.execQsub31 e p rd ra rb s
  | .mac e p acc ra rb => Sys2Proof.Machine.execMac e p acc ra rb s
  | .msu e p acc ra rb => Sys2Proof.Machine.execMsu e p acc ra rb s
  | .macq15 e p acc ra rb => Sys2Proof.Machine.execMacq15 e p acc ra rb s
  | .msuq15 e p acc ra rb => Sys2Proof.Machine.execMsuq15 e p acc ra rb s
  | .clra e p acc => Sys2Proof.Machine.execClra e p acc s
  | .lda e p acc ra => Sys2Proof.Machine.execLda e p acc ra s
  | .rdacc e p rd acc shift => Sys2Proof.Machine.execRdacc e p rd acc shift s
  | .fadd e p rd ra rb => Sys2Proof.Machine.execFadd e p rd ra rb s
  | .fsub e p rd ra rb => Sys2Proof.Machine.execFsub e p rd ra rb s
  | .fmul e p rd ra rb => Sys2Proof.Machine.execFmul e p rd ra rb s
  | .fmin e p rd ra rb => Sys2Proof.Machine.execFmin e p rd ra rb s
  | .fmax e p rd ra rb => Sys2Proof.Machine.execFmax e p rd ra rb s
  | .fabs e p rd ra => Sys2Proof.Machine.execFabs e p rd ra s
  | .fneg e p rd ra => Sys2Proof.Machine.execFneg e p rd ra s
  | .i2f e p rd ra => Sys2Proof.Machine.execI2f e p rd ra s
  | .f2i e p rd ra => Sys2Proof.Machine.execF2i e p rd ra s
  | .q15f e p rd ra => Sys2Proof.Machine.execQ15f e p rd ra s
  | .fq15 e p rd ra => Sys2Proof.Machine.execFq15 e p rd ra s
  | .q31f e p rd ra => Sys2Proof.Machine.execQ31f e p rd ra s
  | .fq31 e p rd ra => Sys2Proof.Machine.execFq31 e p rd ra s
  | .fma e p rd ra rb => Sys2Proof.Machine.execFma e p rd ra rb s
  | .fms e p rd ra rb => Sys2Proof.Machine.execFms e p rd ra rb s
  | .fdiv e p rd ra rb => Sys2Proof.Machine.execFdiv e p rd ra rb s
  | .fsqrt e p rd ra => Sys2Proof.Machine.execFsqrt e p rd ra s
  | .idiv e p rd ra rb => Sys2Proof.Machine.execIdiv e p rd ra rb s
  | .udiv e p rd ra rb => Sys2Proof.Machine.execUdiv e p rd ra rb s
  | .interp e p rd ra rb => Sys2Proof.Machine.execInterp e p rd ra rb s
  | .ld e p rd ra imm => Sys2Proof.Machine.execLd e p rd ra imm s
  | .st e p rd ra imm => Sys2Proof.Machine.execSt e p rd ra imm s
  | .stp e p rd idx => Sys2Proof.Machine.execStp e p rd idx s
  | .lds e p rd ra imm => Sys2Proof.Machine.execLds e p rd ra imm s
  | .ldsd e p rd ra imm => Sys2Proof.Machine.execLdsd e p rd ra imm s
  | .sts e p rd ra imm => Sys2Proof.Machine.execSts e p rd ra imm s
  | .stsd e p rd ra imm => Sys2Proof.Machine.execStsd e p rd ra imm s
  | .ysend e p ra => Sys2Proof.Machine.execYsend e p ra s
  | .yrecv e p rd entry => Sys2Proof.Machine.execYrecv e p rd entry s
  | .yred e p ra => Sys2Proof.Machine.execYred e p ra s
  | .yres e p rd mask r => Sys2Proof.Machine.execYres e p rd mask r s
  | .tally e p ra imm => Sys2Proof.Machine.execTally e p ra imm s
  | .extreme e p ra slot => Sys2Proof.Machine.execExtreme e p ra slot s
  | .trip e p reason j => Sys2Proof.Machine.execTrip e p reason j s
  | .rdw e p rd sel => Sys2Proof.Machine.execRdw e p rd sel s
  | .rdflg e p rd => Sys2Proof.Machine.execRdflg e p rd s
  | .clrflg e p mask => Sys2Proof.Machine.execClrflg e p mask s
  | .repeatI e pfield count len => Sys2Proof.Machine.execRepeatI e pfield count len s
  | .ridx e p rd outer => Sys2Proof.Machine.execRidx e p rd outer s
  | .endround e => Sys2Proof.Machine.execEndround e s
  | .loadStart lvl v => Sys2Proof.Machine.execLoadStart lvl v s
  | .loadChecksComplete img => Sys2Proof.Machine.execLoadChecksComplete img s
  | .commit lvl v => Sys2Proof.Machine.execCommit lvl v s
  | .commitStaging => Sys2Proof.Machine.execCommitStaging s
  | .shadowReadback => Sys2Proof.Machine.execShadowReadback s
  | .seedRounds sl => Sys2Proof.Machine.execSeedRounds sl s
  | .exportedParameter lvl item => Sys2Proof.Machine.execExportedParameter lvl item s
  | .parameterApply => Sys2Proof.Machine.execParameterApply s
  | .armDecision => Sys2Proof.Machine.execArmDecision s
  | .armApplyDeadline => Sys2Proof.Machine.execArmApplyDeadline s
  | .uplinkFrame n f => Sys2Proof.Machine.execUplinkFrame n f s
  | .noFrame n outsideWindow => Sys2Proof.Machine.execNoFrame n outsideWindow s
  | .linkLost n => Sys2Proof.Machine.execLinkLost n s
  | .trainingWave => Sys2Proof.Machine.execTrainingWave s
  | .trainingTimeout n => Sys2Proof.Machine.execTrainingTimeout n s
  | .retrainStart n => Sys2Proof.Machine.execRetrainStart n s
  | .mailboxResend n => Sys2Proof.Machine.execMailboxResend n s
  | .fwRetrainTimeout n => Sys2Proof.Machine.execFwRetrainTimeout n s
  | .downlinkFrame n unit f => Sys2Proof.Machine.execDownlinkFrame n unit f s
  | .feLocalTick n m => Sys2Proof.Machine.execFeLocalTick n m s
  | .coast n => Sys2Proof.Machine.execCoast n s
  | .coastExpiry n => Sys2Proof.Machine.execCoastExpiry n s
  | .fastTrip n => Sys2Proof.Machine.execFastTrip n s
  | .ovLatch n => Sys2Proof.Machine.execOvLatch n s
  | .feRestart n => Sys2Proof.Machine.execFeRestart n s
  | .cfgWrite n addr words => Sys2Proof.Machine.execCfgWrite n addr words s
  | .cfgRead n addr count => Sys2Proof.Machine.execCfgRead n addr count s
  | .cfgStage n armId addr words => Sys2Proof.Machine.execCfgStage n armId addr words s
  | .clearStatus n mask causes => Sys2Proof.Machine.execClearStatus n mask causes s
  | .telemSet n stream enable decimate source => Sys2Proof.Machine.execTelemSet n stream enable decimate source s
  | .cfgResult n status words => Sys2Proof.Machine.execCfgResult n status words s
  | .fwStatus n status version => Sys2Proof.Machine.execFwStatus n status version s
  | .twXfer n x => Sys2Proof.Machine.execTwXfer n x s
  | .twResult n status rdata => Sys2Proof.Machine.execTwResult n status rdata s
  | .event n code age stamp data => Sys2Proof.Machine.execEvent n code age stamp data s
  | .fwBegin n size crc version family => Sys2Proof.Machine.execFwBegin n size crc version family s
  | .fwBlock n offset crc data => Sys2Proof.Machine.execFwBlock n offset crc data s
  | .fwEnd n => Sys2Proof.Machine.execFwEnd n s
  | .fwActivate n => Sys2Proof.Machine.execFwActivate n s
  | .telem n queue dropped stamp data => Sys2Proof.Machine.execTelem n queue dropped stamp data s
  | .diagEcho n data => Sys2Proof.Machine.execDiagEcho n data s
  | .diagReply n data => Sys2Proof.Machine.execDiagReply n data s
  | .start lvl n => Sys2Proof.Machine.execStart lvl n s
  | .stop lvl n => Sys2Proof.Machine.execStop lvl n s
  | .onDelay n => Sys2Proof.Machine.execOnDelay n s
  | .rampComplete n => Sys2Proof.Machine.execRampComplete n s
  | .offDelay n => Sys2Proof.Machine.execOffDelay n s
  | .rampDownComplete n => Sys2Proof.Machine.execRampDownComplete n s
  | .overload n => Sys2Proof.Machine.execOverload n s
  | .satAction n => Sys2Proof.Machine.execSatAction n s
  | .insDebounce n => Sys2Proof.Machine.execInsDebounce n s
  | .insDelay n => Sys2Proof.Machine.execInsDelay n s
  | .inrushTimeout n => Sys2Proof.Machine.execInrushTimeout n s
  | .apply lvl c v => Sys2Proof.Machine.execApply lvl c v s
  | .margin lvl n v => Sys2Proof.Machine.execMargin lvl n v s
  | .snap lvl n v => Sys2Proof.Machine.execSnap lvl n v s
  | .farEndPathWrite lvl n field v => Sys2Proof.Machine.execFarEndPathWrite lvl n field v s
  | .fastTripClear lvl n bits => Sys2Proof.Machine.execFastTripClear lvl n bits s
  | .ovLatchClear lvl n => Sys2Proof.Machine.execOvLatchClear lvl n s
  | .stale n => Sys2Proof.Machine.execStale n s
  | .xferCmd lvl v => Sys2Proof.Machine.execXferCmd lvl v s
  | .xferRampComplete => Sys2Proof.Machine.execXferRampComplete s
  | .suddenXfer => Sys2Proof.Machine.execSuddenXfer s
  | .holdup => Sys2Proof.Machine.execHoldup s
  | .earlyWarning => Sys2Proof.Machine.execEarlyWarning s
  | .busCollapse => Sys2Proof.Machine.execBusCollapse s
  | .shed => Sys2Proof.Machine.execShed s
  | .capN low => Sys2Proof.Machine.execCapN low s
  | .capSelect lvl v => Sys2Proof.Machine.execCapSelect lvl v s
  | .tapLimitStep => Sys2Proof.Machine.execTapLimitStep s
  | .throttleSlot => Sys2Proof.Machine.execThrottleSlot s
  | .port lvl p v => Sys2Proof.Machine.execPort lvl p v s
  | .longRest p unstated => Sys2Proof.Machine.execLongRest p unstated s
  | .chargePulseEnd p => Sys2Proof.Machine.execChargePulseEnd p s
  | .chargeRestEnd p => Sys2Proof.Machine.execChargeRestEnd p s
  | .pmuIdRead p => Sys2Proof.Machine.execPmuIdRead p s
  | .packReset lvl p v => Sys2Proof.Machine.execPackReset lvl p v s
  | .cwdExpiry => Sys2Proof.Machine.execCwdExpiry s
  | .cwdKick lvl v => Sys2Proof.Machine.execCwdKick lvl v s
  | .ichg lvl v => Sys2Proof.Machine.execIchg lvl v s
  | .vchg lvl v => Sys2Proof.Machine.execVchg lvl v s
  | .shipCmd lvl v => Sys2Proof.Machine.execShipCmd lvl v s
  | .shipExit => Sys2Proof.Machine.execShipExit s
  | .svcBtnN held => Sys2Proof.Machine.execSvcBtnN held s
  | .svcReset bootMode => Sys2Proof.Machine.execSvcReset bootMode s
  | .run lvl => Sys2Proof.Machine.execRun lvl s
  | .shutdown lvl => Sys2Proof.Machine.execShutdown lvl s
  | .autoStart => Sys2Proof.Machine.execAutoStart s
  | .stepStart => Sys2Proof.Machine.execStepStart s
  | .stepUp k => Sys2Proof.Machine.execStepUp k s
  | .stepTimeout k => Sys2Proof.Machine.execStepTimeout k s
  | .railFault n => Sys2Proof.Machine.execRailFault n s
  | .pfwDeadline => Sys2Proof.Machine.execPfwDeadline s
  | .dieConversion codes => Sys2Proof.Machine.execDieConversion codes s
  | .supply rail ns => Sys2Proof.Machine.execSupply rail ns s
  | .killN low => Sys2Proof.Machine.execKillN low s
  | .clearController lvl v => Sys2Proof.Machine.execClearController lvl v s
  | .clearSleeve lvl v => Sys2Proof.Machine.execClearSleeve lvl v s
  | .clearPort lvl v => Sys2Proof.Machine.execClearPort lvl v s
  | .clearGroup lvl v => Sys2Proof.Machine.execClearGroup lvl v s
  | .hello h => Sys2Proof.Machine.execHello h s
  | .arbitrationTimeout => Sys2Proof.Machine.execArbitrationTimeout s
  | .wheel block => Sys2Proof.Machine.execWheel block s
  | .wheelBlockDeadline => Sys2Proof.Machine.execWheelBlockDeadline s
  | .store sl words => Sys2Proof.Machine.execStore sl words s
  | .sweep line words => Sys2Proof.Machine.execSweep line words s
  | .digest digests frameOk => Sys2Proof.Machine.execDigest digests frameOk s
  | .ctrl c => Sys2Proof.Machine.execCtrl c s
  | .laneDown lane => Sys2Proof.Machine.execLaneDown lane s
  | .takeover => Sys2Proof.Machine.execTakeover s
  | .splitWithdraw => Sys2Proof.Machine.execSplitWithdraw s
  | .handover lvl v => Sys2Proof.Machine.execHandover lvl v s
  | .withdraw lvl v => Sys2Proof.Machine.execWithdraw lvl v s
  | .ethernetFrame e size fragment vlan pcp udp macOk us rdp => Sys2Proof.Machine.execEthernetFrame e size fragment vlan pcp udp macOk us rdp s
  | .canFdFrame c ident data macOk => Sys2Proof.Machine.execCanFdFrame c ident data macOk s
  | .canReassemblyTimeout c src stream => Sys2Proof.Machine.execCanReassemblyTimeout c src stream s
  | .msgWrite flag data pecPresent pecOk macOk => Sys2Proof.Machine.execMsgWrite flag data pecPresent pecOk macOk s
  | .msgRead => Sys2Proof.Machine.execMsgRead s
  | .gwStatus => Sys2Proof.Machine.execGwStatus s
  | .openS lvl nonce client macOk => Sys2Proof.Machine.execOpenS lvl nonce client macOk s
  | .close a => Sys2Proof.Machine.execClose a s
  | .read a items => Sys2Proof.Machine.execRead a items s
  | .write a items => Sys2Proof.Machine.execWrite a items s
  | .domainWrite a b => Sys2Proof.Machine.execDomainWrite a b s
  | .domainRead a index sub offset length => Sys2Proof.Machine.execDomainRead a index sub offset length s
  | .subscribe a subId period items => Sys2Proof.Machine.execSubscribe a subId period items s
  | .urgent a command arg => Sys2Proof.Machine.execUrgent a command arg s
  | .hush a => Sys2Proof.Machine.execHush a s
  | .cap a arg => Sys2Proof.Machine.execCap a arg s
  | .hushed lvl v => Sys2Proof.Machine.execHushed lvl v s
  | .subscriptionPeriod session subId => Sys2Proof.Machine.execSubscriptionPeriod session subId s
  | .sessionIdleCheck => Sys2Proof.Machine.execSessionIdleCheck s
  | .closeSession lvl v => Sys2Proof.Machine.execCloseSession lvl v s
  | .levelKey lvl k key => Sys2Proof.Machine.execLevelKey lvl k key s
  | .imageKey lvl k key => Sys2Proof.Machine.execImageKey lvl k key s
  | .members lvl g k v => Sys2Proof.Machine.execMembers lvl g k v s
  | .groupWrite lvl g sub ty value => Sys2Proof.Machine.execGroupWrite lvl g sub ty value s
  | .objectWrite lvl item => Sys2Proof.Machine.execObjectWrite lvl item s
  | .flush us => Sys2Proof.Machine.execFlush us s
  | .checkpoint => Sys2Proof.Machine.execCheckpoint s
  | .fold lvl v => Sys2Proof.Machine.execFold lvl v s
  | .powerFailDetect rail us => Sys2Proof.Machine.execPowerFailDetect rail us s
  | .locate session v => Sys2Proof.Machine.execLocate session v s
  | .traceHold => Sys2Proof.Machine.execTraceHold s
  | .traceCopy => Sys2Proof.Machine.execTraceCopy s
  | .traceNow lvl v => Sys2Proof.Machine.execTraceNow lvl v s
  | .release lvl v => Sys2Proof.Machine.execRelease lvl v s
  | .traceLen lvl v => Sys2Proof.Machine.execTraceLen lvl v s
  | .freezeN low => Sys2Proof.Machine.execFreezeN low s
  | .freeze lvl v => Sys2Proof.Machine.execFreeze lvl v s
  | .xfer lvl c x => Sys2Proof.Machine.execXfer lvl c x s
  | .twTransactionDone c status rdata => Sys2Proof.Machine.execTwTransactionDone c status rdata s
  | .stretchTimeout c => Sys2Proof.Machine.execStretchTimeout c s
  | .clear lvl c sdaAfter => Sys2Proof.Machine.execClear lvl c sdaAfter s
  | .twAlert c low => Sys2Proof.Machine.execTwAlert c low s
  | .twoWireCtrl lvl c sub v => Sys2Proof.Machine.execTwoWireCtrl lvl c sub v s
  | .timerWrap t => Sys2Proof.Machine.execTimerWrap t s
  | .compareEvent t => Sys2Proof.Machine.execCompareEvent t s
  | .captureEdge t steps => Sys2Proof.Machine.execCaptureEdge t steps s
  | .capture lvl t => Sys2Proof.Machine.execCapture lvl t s
  | .timerPreloadWrite lvl t isCompare v => Sys2Proof.Machine.execTimerPreloadWrite lvl t isCompare v s
  | .count lvl t v => Sys2Proof.Machine.execCount lvl t v s
  | .countRead lvl t steps => Sys2Proof.Machine.execCountRead lvl t steps s
  | .count64 lvl t steps => Sys2Proof.Machine.execCount64 lvl t steps s
  | .set lvl hi v => Sys2Proof.Machine.execSet lvl hi v s
  | .clr lvl hi v => Sys2Proof.Machine.execClr lvl hi v s
  | .vauxRise => Sys2Proof.Machine.execVauxRise s
  | .resetN bootMode => Sys2Proof.Machine.execResetN bootMode s
  | .collarBootDone => Sys2Proof.Machine.execCollarBootDone s
  | .collarRestart c => Sys2Proof.Machine.execCollarRestart c s
  | .tcxoLoss => Sys2Proof.Machine.execTcxoLoss s
  | .verificationComplete x readBackOk lanistanOk customerOk => Sys2Proof.Machine.execVerificationComplete x readBackOk lanistanOk customerOk s
  | .downloadTimeout x => Sys2Proof.Machine.execDownloadTimeout x s
  | .dlAbort lvl x v => Sys2Proof.Machine.execDlAbort lvl x v s
  | .activate lvl v => Sys2Proof.Machine.execActivate lvl v s
  | .confirm lvl v => Sys2Proof.Machine.execConfirm lvl v s
  | .trialConfirm => Sys2Proof.Machine.execTrialConfirm s
  | .fwFloor lvl v => Sys2Proof.Machine.execFwFloor lvl v s
  | .feLoad lvl v => Sys2Proof.Machine.execFeLoad lvl v s
  | .sleepCmd lvl v => Sys2Proof.Machine.execSleepCmd lvl v s
  | .wake lvl v => Sys2Proof.Machine.execWake lvl v s
  | .wakeN k ticks => Sys2Proof.Machine.execWakeN k ticks s
  | .mateLinkUp => Sys2Proof.Machine.execMateLinkUp s
  | .internalResetEnd => Sys2Proof.Machine.execInternalResetEnd s
  | .tcxoReturn => Sys2Proof.Machine.execTcxoReturn s
  | .smbalert n bus => Sys2Proof.Machine.execSmbalert n bus s
  | .tunnelTransactionDone n status rdata => Sys2Proof.Machine.execTunnelTransactionDone n status rdata s

end Sys2Proof.Machine
end

