-- ==== Sys2Proof/Safety.lean ====
section
/-! DEFINITION. What claims say about whole states and about the parts of the block: the memories keep their canonical
form and the counters of the wheel the relations of R34; what it means that an instruction delivers a result (R91), that
the dictionary server admits a write (R351), that ports, far ends, packs or the rack modules alone have changed, and
which message a command hands to the server. -/
namespace Sys2Proof

open Sys2Proof.Machine

/-- Every byte memory of the machine has its canonical form. -/
def memoriesWf (s : State) : Prop :=
  Memory.wf s.arr.dmem = true ∧ Memory.wf s.arr.shm = true ∧ Memory.wf s.arr.upRead = true
    ∧ Memory.wf s.arr.blkRead = true ∧ Memory.wf s.arr.blkFill = true
    ∧ Memory.wf s.arr.dlBuf = true ∧ Memory.wf s.recorder.trace = true ∧ Memory.wf s.mram = true

/-- R34: round in seam is round in cycle modulo 1,024 and round index modulo 1,024. -/
def countersAgree (s : State) : Prop :=
  s.wheel.ris = s.wheel.ric % 1024 ∧ s.wheel.round.toNat % 1024 = s.wheel.ris

/-- The three timebases of R29. -/
def legalW (w : Nat) : Prop := w = 4096 ∨ w = 8192 ∨ w = 16384

/-- The wheel's counters (R28, R34): the timebase is legal, a new one that awaits its tick as well, the accumulator is round in
cycle times 2³²/W, and the counters of cycle, interval and index agree. -/
def wheelInv (s : State) : Prop :=
  legalW s.wheel.w ∧ s.wheel.ric < s.wheel.w ∧ s.wheel.acc.toNat = s.wheel.ric * (2 ^ 32 / s.wheel.w) ∧ countersAgree s
    ∧ ∀ b ∈ s.wheel.newBase, legalW b.1

/-! ### What claims say about an engine -/

/-- Engine e as an instruction that issues finds it: the results due by its cycle are written (R91). -/
def found (s : State) (e : Nat) : Engine := settle (engine s e) (engine s e).cycle

/-- Engine e of `t` at the end of a cycle counted from the present cycle of engine e in `s`: what an instruction that issues
`k` cycles later reads. -/
def after (s t : State) (e k : Nat) : Engine := settle (engine t e) ((engine s e).cycle + k)

/-- Engine e of `s` at the end of such a cycle if it issues nothing. -/
def untouched (s : State) (e k : Nat) : Engine := settle (found s e) ((engine s e).cycle + k)

/-- Two engines read alike, registers, predicates and accumulators, but for one destination. -/
def agreeOff (d : Dest) (a b : Engine) : Prop :=
  (∀ r, d ≠ .reg r → rreg a r = rreg b r) ∧ (∀ k, d ≠ .pred k → rpred a k = rpred b k)
    ∧ ∀ h, d ≠ .acc h → racc a h = racc b h

/-- The instruction word that engine e fetches bears no ECC error (R79, R82). -/
def FetchClean (s : State) (e : Nat) : Prop := upsetAt s (imemKey e (engine s e).pc) = 0

/-- The engine runs and may issue from a word without ECC error (R54, R79, R84, R116). -/
def MayIssue (s : State) (e : Nat) : Prop := canIssue s e = true ∧ FetchClean s e

/-- The engine may issue, and the predicate of the instruction holds (R88). -/
def Issues (s : State) (e : Nat) (p : Pred) : Prop := MayIssue s e ∧ predOk (found s e) p = true

/-- No earlier result for a destination is in flight. -/
def Clear (s : State) (e : Nat) (d : Dest) : Prop := ∀ g ∈ (found s e).flight, g.dest ≠ d

/-- From `s` to `t` engine e has passed one word and one cycle, and no other engine has changed (R54, R114). -/
def PassesWord (s t : State) (e : Nat) : Prop :=
  (∀ j, j ≠ e → engine t j = engine s j) ∧ (engine t e).cycle = (engine s e).cycle + 1
    ∧ (engine t e).reps = (advance (engine s e).reps ((engine s e).pc + 1)).1
    ∧ (engine t e).pc = (advance (engine s e).reps ((engine s e).pc + 1)).2 ∧ (engine t e).ended = (engine s e).ended

/-- Nothing outside the engines has changed from `s` to `t`. -/
def OnlyEngines (s t : State) : Prop := t = { s with arr := { s.arr with engines := t.arr.engines } }

/-- From `s` to `t` engine e has put a result for destination `d` in flight with a latency, and flags `fl` with it: every
other register, predicate and accumulator reads in every later cycle what it would have read without the instruction, and
so do the flags but for `fl`, which are set from the result's cycle on (R91, R118). -/
def Launches (s t : State) (e : Nat) (d : Dest) (lat : Nat) (fl : BitVec 16) : Prop :=
  ∀ k, agreeOff d (after s t e k) (untouched s e k)
    ∧ (after s t e k).flags = (untouched s e k).flags ||| (if lat ≤ k then fl else 0)

/-- A register of engine e reads `w` from the result's cycle on, and its old value before; v0 reads 0 (R89, R91). -/
def RegFrom (s t : State) (e : Nat) (rd : Reg) (lat : Nat) (w : Word) : Prop :=
  ∀ k, rreg (after s t e k) rd.toNat = if rd = 0 then 0 else if lat ≤ k then w else rreg (found s e) rd.toNat

/-- The command is an instruction of engine e that delivers a word and flags to a register, and does nothing else. -/
def GivesReg (c : Instr) (s : State) (e : Nat) (rd : Reg) (lat : Nat) (x : Word × BitVec 16) : Prop :=
  ∃ t, exec c s = .next t ∧ OnlyEngines s t ∧ PassesWord s t e ∧ (engine t e).divFree = (engine s e).divFree
    ∧ (engine t e).stps = (engine s e).stps ∧ RegFrom s t e rd lat x.1 ∧ Launches s t e (.reg rd.toNat) lat x.2

/-- The command is an instruction of engine e that delivers a truth value and flags to a predicate one cycle later; p0 stays
true (R89, R91). -/
def GivesPred (c : Instr) (s : State) (e : Nat) (pd : BitVec 3) (x : Bool × BitVec 16) : Prop :=
  ∃ t, exec c s = .next t ∧ OnlyEngines s t ∧ PassesWord s t e ∧ (engine t e).divFree = (engine s e).divFree
    ∧ (engine t e).stps = (engine s e).stps ∧ Launches s t e (.pred pd.toNat) 1 x.2
    ∧ ∀ k, rpred (after s t e k) pd.toNat = if pd = 0 then true else if 1 ≤ k then x.1 else rpred (found s e) pd.toNat

/-- The command is an instruction of engine e that delivers a value and flags to an accumulator three cycles later. -/
def GivesAcc (c : Instr) (s : State) (e : Nat) (h : Bool) (x : BitVec 64 × BitVec 16) : Prop :=
  ∃ t, exec c s = .next t ∧ OnlyEngines s t ∧ PassesWord s t e ∧ (engine t e).divFree = (engine s e).divFree
    ∧ (engine t e).stps = (engine s e).stps ∧ Launches s t e (.acc h) 3 x.2
    ∧ ∀ k, racc (after s t e k) h = if 3 ≤ k then x.1 else racc (found s e) h

/-- From `s` to `t` engine e has passed one word and one cycle and put nothing in flight; no other engine has changed. -/
def Passes (s t : State) (e : Nat) : Prop :=
  PassesWord s t e ∧ (engine t e).divFree = (engine s e).divFree ∧ (engine t e).stps = (engine s e).stps
    ∧ Launches s t e .none 0 0

/-- The command is an instruction of engine e that passes its cycle and does nothing else (R54, R88). -/
def OnlyPasses (c : Instr) (s : State) (e : Nat) : Prop :=
  ∃ t, exec c s = .next t ∧ OnlyEngines s t ∧ Passes s t e

/-- From `s` to `t` engine e has passed its word and put a pair of words in flight for an even register and the next, without
flags: each half reads as `RegFrom` says, and everything else as without the instruction (R89, R91). -/
def LaunchesPair (s t : State) (e : Nat) (rd : Reg) (lat : Nat) (lo hi : Word) : Prop :=
  PassesWord s t e ∧ (engine t e).divFree = (engine s e).divFree ∧ (engine t e).stps = (engine s e).stps
    ∧ RegFrom s t e (rd &&& 0x1E) lat lo ∧ RegFrom s t e (rd ||| 1) lat hi
    ∧ ∀ k, (∀ r, r ≠ (rd &&& 0x1E).toNat → r ≠ (rd ||| 1).toNat → rreg (after s t e k) r = rreg (untouched s e k) r)
      ∧ (∀ j, rpred (after s t e k) j = rpred (untouched s e k) j)
      ∧ (∀ h, racc (after s t e k) h = racc (untouched s e k) h)
      ∧ (after s t e k).flags = (untouched s e k).flags

/-- The word at an address of a memory, least significant byte first. -/
def wordAt (m : Mem) (a : Nat) : Word := mget m (a + 3) ++ mget m (a + 2) ++ mget m (a + 1) ++ mget m a

/-- From `m` to `m'` nothing outside `n` bytes from `a` on has changed. -/
def SameOutside (m m' : Mem) (a n : Nat) : Prop := ∀ x, x < a ∨ a + n ≤ x → mget m' x = mget m x

/-- Engine and predicate field of an instruction that executes under a predicate (R88). -/
def predOf : Instr → Option (EngineId × Pred)
  | .add e p _ _ _ => some (e, p)
  | .sub e p _ _ _ => some (e, p)
  | .andR e p _ _ _ => some (e, p)
  | .orR e p _ _ _ => some (e, p)
  | .xorR e p _ _ _ => some (e, p)
  | .shl e p _ _ _ => some (e, p)
  | .shr e p _ _ _ => some (e, p)
  | .sra e p _ _ _ => some (e, p)
  | .min e p _ _ _ => some (e, p)
  | .max e p _ _ _ => some (e, p)
  | .minu e p _ _ _ => some (e, p)
  | .maxu e p _ _ _ => some (e, p)
  | .sexth e p _ _ => some (e, p)
  | .zexth e p _ _ => some (e, p)
  | .highh e p _ _ => some (e, p)
  | .addi e p _ _ _ => some (e, p)
  | .andi e p _ _ _ => some (e, p)
  | .ori e p _ _ _ => some (e, p)
  | .xori e p _ _ _ => some (e, p)
  | .shifti e p _ _ _ => some (e, p)
  | .movi e p _ _ => some (e, p)
  | .movh e p _ _ => some (e, p)
  | .sel e p _ _ _ _ _ => some (e, p)
  | .cmpEq e p _ _ _ => some (e, p)
  | .cmpNe e p _ _ _ => some (e, p)
  | .cmpLt e p _ _ _ => some (e, p)
  | .cmpLe e p _ _ _ => some (e, p)
  | .cmpLtu e p _ _ _ => some (e, p)
  | .cmpLeu e p _ _ _ => some (e, p)
  | .cmpFeq e p _ _ _ => some (e, p)
  | .cmpFne e p _ _ _ => some (e, p)
  | .cmpFlt e p _ _ _ => some (e, p)
  | .cmpFle e p _ _ _ => some (e, p)
  | .pand e p _ _ _ => some (e, p)
  | .por e p _ _ _ => some (e, p)
  | .pxor e p _ _ _ => some (e, p)
  | .pandn e p _ _ _ => some (e, p)
  | .mul e p _ _ _ => some (e, p)
  | .mulh e p _ _ _ => some (e, p)
  | .mulhu e p _ _ _ => some (e, p)
  | .qmul15 e p _ _ _ => some (e, p)
  | .qmul31 e p _ _ _ => some (e, p)
  | .qadd15 e p _ _ _ => some (e, p)
  | .qsub15 e p _ _ _ => some (e, p)
  | .qadd31 e p _ _ _ => some (e, p)
  | .qsub31 e p _ _ _ => some (e, p)
  | .mac e p _ _ _ => some (e, p)
  | .msu e p _ _ _ => some (e, p)
  | .macq15 e p _ _ _ => some (e, p)
  | .msuq15 e p _ _ _ => some (e, p)
  | .clra e p _ => some (e, p)
  | .lda e p _ _ => some (e, p)
  | .rdacc e p _ _ _ => some (e, p)
  | .fadd e p _ _ _ => some (e, p)
  | .fsub e p _ _ _ => some (e, p)
  | .fmul e p _ _ _ => some (e, p)
  | .fmin e p _ _ _ => some (e, p)
  | .fmax e p _ _ _ => some (e, p)
  | .fabs e p _ _ => some (e, p)
  | .fneg e p _ _ => some (e, p)
  | .i2f e p _ _ => some (e, p)
  | .f2i e p _ _ => some (e, p)
  | .q15f e p _ _ => some (e, p)
  | .fq15 e p _ _ => some (e, p)
  | .q31f e p _ _ => some (e, p)
  | .fq31 e p _ _ => some (e, p)
  | .fma e p _ _ _ => some (e, p)
  | .fms e p _ _ _ => some (e, p)
  | .fdiv e p _ _ _ => some (e, p)
  | .fsqrt e p _ _ => some (e, p)
  | .idiv e p _ _ _ => some (e, p)
  | .udiv e p _ _ _ => some (e, p)
  | .interp e p _ _ _ => some (e, p)
  | .ld e p _ _ _ => some (e, p)
  | .st e p _ _ _ => some (e, p)
  | .stp e p _ _ => some (e, p)
  | .lds e p _ _ _ => some (e, p)
  | .ldsd e p _ _ _ => some (e, p)
  | .sts e p _ _ _ => some (e, p)
  | .stsd e p _ _ _ => some (e, p)
  | .ysend e p _ => some (e, p)
  | .yrecv e p _ _ => some (e, p)
  | .yred e p _ => some (e, p)
  | .yres e p _ _ _ => some (e, p)
  | .tally e p _ _ => some (e, p)
  | .extreme e p _ _ => some (e, p)
  | .trip e p _ _ => some (e, p)
  | .rdw e p _ _ => some (e, p)
  | .rdflg e p _ => some (e, p)
  | .clrflg e p _ => some (e, p)
  | .ridx e p _ _ => some (e, p)
  | _ => none

/-! ### What claims say about the dictionary server -/

/-- What the server leaves of a message that changes nothing but its status: the message is counted, the status recorded. -/
def answered (s : State) (st : Nat) : State := { s with net := { s.net with msgNo := s.net.msgNo + 1, status := st } }

/-- The state that the checks of a message see: the message is counted (R331). -/
def taken (s : State) : State := { s with net := { s.net with msgNo := s.net.msgNo + 1 } }

/-- Level, index, subindex and value of a command that writes one number to one object (R328). -/
def objectOf : Instr → Option (Level × Nat × Nat × Nat)
  | .wheelMode l v => some (l, 0x2001, 1, v.toNat)
  | .fNom l v => some (l, 0x2001, 2, v.toNat)
  | .fMainsMax l v => some (l, 0x2001, 3, v.toNat)
  | .fMainsMin l v => some (l, 0x2001, 4, v.toNat)
  | .loadStart l v => some (l, 0x2101, 3, v.toNat)
  | .commit l v => some (l, 0x2101, 6, v.toNat)
  | .start l n => some (l, 0x3100 + n.val, 1, 1)
  | .stop l n => some (l, 0x3100 + n.val, 1, 2)
  | .apply l c v => some (l, 0x3500 + c.val, 0x13, v.toNat)
  | .margin l n v => some (l, 0x3100 + n.val, 0x10, v.toNat)
  | .snap l n v => some (l, 0x3100 + n.val, 0x1B, v.toNat)
  | .farEndPathWrite l n f v => some (l, 0x3100 + n.val, pathSub f, v.toNat)
  | .fastTripClear l n bits => some (l, 0x3000 + n.val, 4, (bits &&& 0x30000).toNat)
  | .ovLatchClear l n => some (l, 0x3000 + n.val, 4, 0x200000)
  | .xferCmd l v => some (l, 0x2501, 1, v.toNat)
  | .capSelect l v => some (l, 0x2505, 3, v.toNat)
  | .port l p v => some (l, 0x2600 + p.val, 1, v.toNat)
  | .packReset l p v => some (l, 0x2600 + p.val, 10, v.toNat)
  | .ichg l v => some (l, 0x26F0, 1, v.toNat)
  | .vchg l v => some (l, 0x26F0, 2, v.toNat)
  | .cwdKick l v => some (l, 0x26F0, 12, v.toNat)
  | .shipCmd l v => some (l, 0x26F0, 15, v.toNat)
  | .run l => some (l, 0x23F0, 1, 1)
  | .shutdown l => some (l, 0x23F0, 1, 2)
  | .clearController l v => some (l, 0x2310, 1, v.toNat)
  | .clearSleeve l v => some (l, 0x2310, 2, v.toNat)
  | .clearPort l v => some (l, 0x2310, 3, v.toNat)
  | .clearGroup l v => some (l, 0x2310, 4, v.toNat)
  | .handover l v => some (l, 0x2201, 3, v.toNat)
  | .withdraw l v => some (l, 0x2201, 5, v.toNat)
  | .hushed l v => some (l, 0x1130, 1, v.toNat)
  | .closeSession l v => some (l, 0x1100, 7, v.toNat)
  | .fold l v => some (l, 0x6080, 3, v.toNat)
  | .traceNow l v => some (l, 0x2810, 5, v.toNat)
  | .release l v => some (l, 0x2810, 8, v.toNat)
  | .traceLen l v => some (l, 0x2810, 2, v.toNat)
  | .freeze l v => some (l, 0x2820, 1, v.toNat)
  | .timerPreloadWrite l t b v => some (l, 0x2940 + t.val, if b then 4 else 3, v.toNat)
  | .count l t v => some (l, 0x2940 + t.val, 2, v.toNat)
  | .set l hi v => some (l, 0x29C0, if hi then 14 else 13, v.toNat)
  | .clr l hi v => some (l, 0x29C0, if hi then 16 else 15, v.toNat)
  | .dlAbort l x v => some (l, 0x1808 + x.val, 5, v.toNat)
  | .activate l v => some (l, 0x1800, 6, v.toNat)
  | .confirm l v => some (l, 0x1800, 7, v.toNat)
  | .fwFloor l v => some (l, 0x1800, 10, v.toNat)
  | .feLoad l v => some (l, 0x1810, 2, v.toNat)
  | .sleepCmd l v => some (l, 0x1020, 4, v.toNat)
  | .wake l v => some (l, 0x1020, 5, v.toNat)
  | _ => none

/-- A server runs that executes messages (R412, R422). -/
def Serves (s : State) : Prop := serverRuns s = true ∧ s.boot.frozen = false

/-- A number may be written to an object at a level (R351): a server runs, the object is there and writable at the level, it
is no exported parameter and no group image, the value is of its type and range, and state and role admit the write. -/
def Admits (s : State) (lvl : Level) (ix sub v : Nat) : Prop :=
  Serves s ∧ accessStatus (taken s) lvl ix sub true = stOK ∧ paramAt s ix sub = none ∧ isImage ix = false
    ∧ gated s ix sub = false ∧ ∃ r, rowHere (taken s) ix sub = some r ∧ r.ty < 11
      ∧ (r.ty = 1 → v ≤ 1) ∧ rngOk r v = true

/-! ### What claims say about ports and far ends -/

/-- Every port but those of a list stands as it was. -/
def PortsStand (s t : State) (l : List Nat) : Prop := ∀ m, m ∉ l → link t m = link s m ∧ ctl t m = ctl s m

/-- Nothing of the configuration has changed but MARGIN objects of ports, which return to 0 (R217). -/
def MarginOnly (d d' : Tab Nat) : Prop :=
  ∀ k, tfind d' k = tfind d k ∨ ∃ n, k = okey (0x3100 + n) 0x10 ∧ tfind d' k = some 0

/-- Nothing outside ports, packs and the recorder has changed, but that a port which leaves RUNNING has its MARGIN object at 0
(R217). -/
def OnlyPorts (s t : State) : Prop :=
  t = { s with links := t.links, ctls := t.ctls, shelf := t.shelf, recorder := t.recorder, cfg := t.cfg }
    ∧ MarginOnly s.cfg t.cfg

/-- A port has entered HEM, unless its state was none from DISCOVERED to STOPPING (R196). -/
def EntersHem (s t : State) (n : Nat) : Prop :=
  (link t n).state = if canHem (link s n).state then .hem else (link s n).state

/-- Nothing but one far end has changed. -/
def OnlyFarEnd (s t : State) (n : Nat) : Prop := t = { s with fes := t.fes } ∧ ∀ k, k ≠ n → farEnd t k = farEnd s k

/-- Nothing but the link side of one port has changed. -/
def OnlyLink (s t : State) (n : Nat) : Prop := t = { s with links := t.links } ∧ ∀ k, k ≠ n → link t k = link s k

/-- Nothing but the control side of one port has changed. -/
def OnlyCtl (s t : State) (n : Nat) : Prop := t = { s with ctls := t.ctls } ∧ ∀ k, k ≠ n → ctl t k = ctl s k

/-- Nothing but one pack has changed. -/
def OnlyPack (s t : State) (p : Nat) : Prop :=
  t = { s with shelf := { s.shelf with packs := t.shelf.packs } } ∧ ∀ k, k ≠ p → pack t k = pack s k

/-- The redundancy controller after it has taken a role from which no join, handover or start is under way (R304). -/
def roleOf (p : Pair) (r : Role) : Pair :=
  { p with role := r, nextRole := none, join := none, hotSeams := 0, activeAtSeam := false, takeAtSeam := none }

/-! ### What claims say about messages -/

/-- The message that a command hands to the server, whatever interface brought it (R330, R331). -/
def messageOf : Instr → Option InMsg
  | .openS lvl nonce client macOk => some (hostMsg ⟨0, 0, macOk⟩ (.openS lvl nonce client))
  | .close a => some (hostMsg a .close)
  | .read a items => some (hostMsg a (.read items))
  | .write a items => some (hostMsg a (.write items))
  | .domainWrite a b => some (hostMsg a (.domainWrite b))
  | .domainRead a index sub offset length => some (hostMsg a (.domainRead index sub offset length))
  | .subscribe a subId period items => some (hostMsg a (.subscribe subId period items))
  | _ => none

/-- Authentication, command and argument of an urgent message (R348). -/
def urgentOf : Instr → Option (Auth × Byte × Byte)
  | .urgent a command arg => some (a, command, arg)
  | .hush a => some (a, 1, 0)
  | .cap a arg => some (a, 2, arg)
  | _ => none

/-- A state that has sent one more message to the host; with its outputs at high impedance it sends none (R435). -/
def sends (s : State) (r : Reply) : State :=
  if s.boot.highZ then s else { s with net := { s.net with out := s.net.out ++ [r] } }

/-- The state in which the server executes an accepted message of session `x`: the session has taken its SEQ, its idle time
starts again, the answer's SEQ is the next one (R334, R335). -/
def accepted (s : State) (a : Auth) (x : Session) : State :=
  { s with net := { s.net with
    sessions := tput s.net.sessions a.session { x with seq := a.seq, outSeq := x.outSeq + 1, idle := 0 },
    msgNo := s.net.msgNo + 1 } }

/-! ### What claims say about the rack modules -/

/-- The rack modules' state is `f`, but for what the balance of the round makes anew: target, share, limits (R225). -/
def FlowIs (t : State) (f : Flow) : Prop :=
  t.flow = { f with
    disMax := t.flow.disMax, absMax := t.flow.absMax, pTgt := t.flow.pTgt, pCmd := t.flow.pCmd, capShort := t.flow.capShort }

/-- Nothing has changed but the rack modules' state, the commands of the ports with their SHED flags, the downlink slots that
carry them, and free values drawn. -/
def OnlyCommands (s t : State) : Prop :=
  t = { s with flow := t.flow, ctls := t.ctls, draws := t.draws, arr := { s.arr with shm := t.arr.shm } }
    ∧ ∀ n, ctl t n = { ctl s n with cmd := (ctl t n).cmd, shed := (ctl t n).shed }

/-- Every rectifier port, by its RECT_DCDC port, of either feed. -/
def allModules (s : State) : List Nat := modulesOf s .A ++ modulesOf s .B

end Sys2Proof
end

