-- ==== Sys2Proof/Certificates/Slice0/Obligations.lean ====
section
/-! DEFINITION. The statements about this model, family by family in the order of the spec's chapters. Each docstring names
the rules it rests on; the terms used are those of Sys2Proof/Safety.lean and of the model. -/
open Sys2Proof Sys2Proof.Machine

/-! ### Engines (03, 04) -/

/-- ADD to MAXU, SEXTH to MOVH and SEL deliver their result one cycle later, SHIFTI the shift by IMM bits 4:0 that bits
6:5 select. For the unlisted selection 0b11 the value is a free value (notes/assumptions/2.md) and everything else is as
for the others. Rests on R91, R96, R97. -/
def Obligations.IntegerInstructionsGiveTheirResults : Prop :=
  (∀ (s : State) (e : EngineId) (p : Pred) (rd ra rb : Reg) (imm : BitVec 12) (imm16 : BitVec 16) (neg : Bool) (k : BitVec 3),
      Issues s e p → Clear s e (.reg rd.toNat) →
      let a := rreg (found s e) ra.toNat
      let b := rreg (found s e) rb.toNat
      GivesReg (.add e p rd ra rb) s e rd 1 (a + b, 0)
      ∧ GivesReg (.sub e p rd ra rb) s e rd 1 (a - b, 0)
      ∧ GivesReg (.andR e p rd ra rb) s e rd 1 (a &&& b, 0)
      ∧ GivesReg (.orR e p rd ra rb) s e rd 1 (a ||| b, 0)
      ∧ GivesReg (.xorR e p rd ra rb) s e rd 1 (a ^^^ b, 0)
      ∧ GivesReg (.shl e p rd ra rb) s e rd 1 (a <<< (b &&& 31), 0)
      ∧ GivesReg (.shr e p rd ra rb) s e rd 1 (a >>> (b &&& 31), 0)
      ∧ GivesReg (.sra e p rd ra rb) s e rd 1 (a.sshiftRight' (b &&& 31), 0)
      ∧ GivesReg (.min e p rd ra rb) s e rd 1 (if b.slt a then b else a, 0)
      ∧ GivesReg (.max e p rd ra rb) s e rd 1 (if a.slt b then b else a, 0)
      ∧ GivesReg (.minu e p rd ra rb) s e rd 1 (if b < a then b else a, 0)
      ∧ GivesReg (.maxu e p rd ra rb) s e rd 1 (if a < b then b else a, 0)
      ∧ GivesReg (.sexth e p rd ra) s e rd 1 ((a.setWidth 16).signExtend 32, 0)
      ∧ GivesReg (.zexth e p rd ra) s e rd 1 (a &&& 0xFFFF, 0)
      ∧ GivesReg (.highh e p rd ra) s e rd 1 (((a >>> 16).setWidth 16).signExtend 32, 0)
      ∧ GivesReg (.addi e p rd ra imm) s e rd 1 (a + imm.signExtend 32, 0)
      ∧ GivesReg (.andi e p rd ra imm) s e rd 1 (a &&& imm.setWidth 32, 0)
      ∧ GivesReg (.ori e p rd ra imm) s e rd 1 (a ||| imm.setWidth 32, 0)
      ∧ GivesReg (.xori e p rd ra imm) s e rd 1 (a ^^^ imm.setWidth 32, 0)
      ∧ GivesReg (.movi e p rd imm16) s e rd 1 (imm16.signExtend 32, 0)
      ∧ GivesReg (.movh e p rd imm16) s e rd 1 (imm16 ++ (rreg (found s e) rd.toNat).setWidth 16, 0)
      ∧ GivesReg (.sel e p rd ra rb neg k) s e rd 1 (if rpred (found s e) k.toNat = neg then b else a, 0))
  ∧ (∀ (s : State) (e : EngineId) (p : Pred) (rd ra : Reg) (imm : BitVec 12), Issues s e p → Clear s e (.reg rd.toNat) →
      let a := rreg (found s e) ra.toNat
      let n := imm.toNat % 32
      (imm.toNat / 32 % 4 = 0 → GivesReg (.shifti e p rd ra imm) s e rd 1 (a <<< n, 0))
      ∧ (imm.toNat / 32 % 4 = 1 → GivesReg (.shifti e p rd ra imm) s e rd 1 (a >>> n, 0))
      ∧ (imm.toNat / 32 % 4 = 2 → GivesReg (.shifti e p rd ra imm) s e rd 1 (a.sshiftRight n, 0))
      ∧ (imm.toNat / 32 % 4 = 3 → ∃ t w, exec (.shifti e p rd ra imm) s = .next t
          ∧ t = { s with arr := { s.arr with engines := t.arr.engines }, draws := t.draws } ∧ PassesWord s t e
          ∧ RegFrom s t e rd 1 w ∧ Launches s t e (.reg rd.toNat) 1 0))

/-- MUL, MULH and MULHU deliver the halves of the product after two cycles, the fixed-point instructions their rounded
and saturated results; saturation to 16 and to 32 bits gives the nearest value of the range, and SAT where that is
another value. Rests on R97, R99, R100. -/
def Obligations.ProductsAndFixedPointGiveTheirResults : Prop :=
  (∀ (s : State) (e : EngineId) (p : Pred) (rd ra rb : Reg), Issues s e p → Clear s e (.reg rd.toNat) →
      let a := rreg (found s e) ra.toNat
      let b := rreg (found s e) rb.toNat
      let qa := (a.setWidth 16).toInt
      let qb := (b.setWidth 16).toInt
      GivesReg (.mul e p rd ra rb) s e rd 2 (a * b, 0)
      ∧ GivesReg (.mulh e p rd ra rb) s e rd 2 (BitVec.ofInt 32 (a.toInt * b.toInt / 4294967296), 0)
      ∧ GivesReg (.mulhu e p rd ra rb) s e rd 2 (BitVec.ofNat 32 (a.toNat * b.toNat / 4294967296), 0)
      ∧ GivesReg (.qmul15 e p rd ra rb) s e rd 2 (satN 16 ((qa * qb + 16384) / 32768))
      ∧ GivesReg (.qmul31 e p rd ra rb) s e rd 2 (satN 32 ((a.toInt * b.toInt + 1073741824) / 2147483648))
      ∧ GivesReg (.qadd15 e p rd ra rb) s e rd 1 (satN 16 (qa + qb))
      ∧ GivesReg (.qsub15 e p rd ra rb) s e rd 1 (satN 16 (qa - qb))
      ∧ GivesReg (.qadd31 e p rd ra rb) s e rd 1 (satN 32 (a.toInt + b.toInt))
      ∧ GivesReg (.qsub31 e p rd ra rb) s e rd 1 (satN 32 (a.toInt - b.toInt)))
  ∧ (∀ x : Int, ∀ r ∈ [((16 : Nat), (-32768 : Int), (32767 : Int)), (32, -2147483648, 2147483647)],
      (r.2.1 ≤ x → x ≤ r.2.2 → (satN r.1 x).1.toInt = x ∧ (satN r.1 x).2 = 0)
      ∧ (x < r.2.1 → (satN r.1 x).1.toInt = r.2.1 ∧ (satN r.1 x).2 = fSAT)
      ∧ (r.2.2 < x → (satN r.1 x).1.toInt = r.2.2 ∧ (satN r.1 x).2 = fSAT))

/-- The FP32 instructions deliver their result with the latency of the table. A sum, difference, product, quotient or
fused product and sum that FP32 represents is delivered exactly and without a flag; a NaN operand gives the canonical
NaN and NV. Rests on R101 to R103. -/
def Obligations.FloatInstructionsGiveTheirResults : Prop :=
  (∀ (s : State) (e : EngineId) (p : Pred) (rd ra rb : Reg), Issues s e p → Clear s e (.reg rd.toNat) →
      let a := rreg (found s e) ra.toNat
      let b := rreg (found s e) rb.toNat
      let d := rreg (found s e) rd.toNat
      GivesReg (.fadd e p rd ra rb) s e rd 3 (fAdd a b)
      ∧ GivesReg (.fsub e p rd ra rb) s e rd 3 (fSub a b)
      ∧ GivesReg (.fmul e p rd ra rb) s e rd 3 (fMul a b)
      ∧ GivesReg (.fmin e p rd ra rb) s e rd 1 (fMinMax false a b)
      ∧ GivesReg (.fmax e p rd ra rb) s e rd 1 (fMinMax true a b)
      ∧ GivesReg (.fabs e p rd ra) s e rd 1 (a &&& 0x7FFFFFFF, 0)
      ∧ GivesReg (.fneg e p rd ra) s e rd 1 (a ^^^ 0x80000000, 0)
      ∧ GivesReg (.i2f e p rd ra) s e rd 3 (iToF a.toInt 0)
      ∧ GivesReg (.f2i e p rd ra) s e rd 3 (fToI a 0 (-2147483648) 2147483647)
      ∧ GivesReg (.q15f e p rd ra) s e rd 3 (iToF (a.setWidth 16).toInt 15)
      ∧ GivesReg (.fq15 e p rd ra) s e rd 3 (fToI a 15 (-32768) 32767)
      ∧ GivesReg (.q31f e p rd ra) s e rd 3 (iToF a.toInt 31)
      ∧ GivesReg (.fq31 e p rd ra) s e rd 3 (fToI a 31 (-2147483648) 2147483647)
      ∧ GivesReg (.fma e p rd ra rb) s e rd 4 (fFma a b d)
      ∧ GivesReg (.fms e p rd ra rb) s e rd 4 (fFma (a ^^^ 0x80000000) b d))
  ∧ (∀ a b d w : Word,
      (f32IsNaN a = true → fAdd a b = (0x7FC00000, fNV) ∧ fSub a b = (0x7FC00000, fNV) ∧ fMul a b = (0x7FC00000, fNV)
        ∧ fDiv a b = (0x7FC00000, fNV) ∧ fFma a b d = (0x7FC00000, fNV) ∧ fSqrt a = (0x7FC00000, fNV))
      ∧ (f32Exp a ≠ 255 → f32Exp b ≠ 255 → f32Exp w ≠ 255 → f32Exp w ≠ 0 →
          (f32Val a + f32Val b = f32Val w → fAdd a b = (w, 0))
          ∧ (f32Val a - f32Val b = f32Val w → fSub a b = (w, 0))
          ∧ (f32Val a * f32Val b = f32Val w → fMul a b = (w, 0))
          ∧ (f32Val a / f32Val b = f32Val w → fDiv a b = (w, 0))
          ∧ (f32Exp d ≠ 255 → f32Val a * f32Val b + f32Val d = f32Val w → fFma a b d = (w, 0))))

/-- Comparisons and predicate operations deliver a truth value one cycle later. Rests on R96, R97, R104. -/
def Obligations.PredicateInstructionsGiveTheirTruth : Prop :=
  ∀ (s : State) (e : EngineId) (p : Pred) (pd pa pb : BitVec 3) (ra rb : Reg), Issues s e p → Clear s e (.pred pd.toNat) →
    let a := rreg (found s e) ra.toNat
    let b := rreg (found s e) rb.toNat
    let x := rpred (found s e) pa.toNat
    let y := rpred (found s e) pb.toNat
    GivesPred (.cmpEq e p pd ra rb) s e pd (decide (a = b), 0)
    ∧ GivesPred (.cmpNe e p pd ra rb) s e pd (decide (a ≠ b), 0)
    ∧ GivesPred (.cmpLt e p pd ra rb) s e pd (a.slt b, 0)
    ∧ GivesPred (.cmpLe e p pd ra rb) s e pd (a.sle b, 0)
    ∧ GivesPred (.cmpLtu e p pd ra rb) s e pd (a.ult b, 0)
    ∧ GivesPred (.cmpLeu e p pd ra rb) s e pd (a.ule b, 0)
    ∧ GivesPred (.cmpFeq e p pd ra rb) s e pd (fRel 0 a b)
    ∧ GivesPred (.cmpFne e p pd ra rb) s e pd (fRel 1 a b)
    ∧ GivesPred (.cmpFlt e p pd ra rb) s e pd (fRel 2 a b)
    ∧ GivesPred (.cmpFle e p pd ra rb) s e pd (fRel 3 a b)
    ∧ GivesPred (.pand e p pd pa pb) s e pd (x && y, 0)
    ∧ GivesPred (.por e p pd pa pb) s e pd (x || y, 0)
    ∧ GivesPred (.pxor e p pd pa pb) s e pd (x ^^ y, 0)
    ∧ GivesPred (.pandn e p pd pa pb) s e pd (x && !y, 0)

/-- FEQ, FLT and FLE give 0, and FNE gives 1, when either operand is a NaN, and all four then set NV; +0 and -0 compare
equal (R104). -/
def Obligations.FloatComparesOnNaNAndZero : Prop :=
  ∀ (s : State) (e : EngineId) (p : Pred) (pd : BitVec 3) (ra rb : Reg), Issues s e p → Clear s e (.pred pd.toNat) →
    let a := rreg (found s e) ra.toNat
    let b := rreg (found s e) rb.toNat
    let zero (w : Word) : Prop := w = 0 ∨ w = 0x80000000
    ∃ eq ne lt le : Bool × BitVec 16,
      GivesPred (.cmpFeq e p pd ra rb) s e pd eq ∧ GivesPred (.cmpFne e p pd ra rb) s e pd ne
      ∧ GivesPred (.cmpFlt e p pd ra rb) s e pd lt ∧ GivesPred (.cmpFle e p pd ra rb) s e pd le
      ∧ ((f32IsNaN a = true ∨ f32IsNaN b = true) → eq = (false, fNV) ∧ ne = (true, fNV) ∧ lt = (false, fNV) ∧ le = (false, fNV))
      ∧ (zero a → zero b → eq = (true, 0) ∧ ne = (false, 0) ∧ lt = (false, 0) ∧ le = (true, 0))

/-- CLRA, LDA and the multiply-accumulates deliver to their accumulator after three cycles, saturated at 64 bits with
SAT; RDACC reads one, rounded, shifted and saturated. Two MACs into one accumulator in consecutive cycles each add to
the result of the one before. Rests on R93, R96, R100. -/
def Obligations.AccumulatorInstructionsGiveTheirResults : Prop :=
  (∀ (s : State) (e : EngineId) (p : Pred) (acc : Bool) (rd ra rb : Reg) (shift : BitVec 6), Issues s e p →
      let a := rreg (found s e) ra.toNat
      let b := rreg (found s e) rb.toNat
      let qa := (a.setWidth 16).toInt
      let qb := (b.setWidth 16).toInt
      let old := racc (found s e) acc
      (Clear s e (.acc acc) →
        GivesAcc (.clra e p acc) s e acc (0, 0)
        ∧ GivesAcc (.lda e p acc ra) s e acc (a.signExtend 64, 0)
        ∧ GivesAcc (.mac e p acc ra rb) s e acc (accAdd old (a.toInt * b.toInt))
        ∧ GivesAcc (.msu e p acc ra rb) s e acc (accAdd old (-(a.toInt * b.toInt)))
        ∧ GivesAcc (.macq15 e p acc ra rb) s e acc (accAdd old (qa * qb))
        ∧ GivesAcc (.msuq15 e p acc ra rb) s e acc (accAdd old (-(qa * qb))))
      ∧ (Clear s e (.reg rd.toNat) →
        GivesReg (.rdacc e p rd acc shift) s e rd 1
          (satN 32 ((old.toInt + (if shift = 0 then 0
            else ((2 ^ (shift.toNat - 1) : Nat) : Int))) / ((2 ^ shift.toNat : Nat) : Int)))))
  ∧ (∀ (s t : State) (e : EngineId) (p q : Pred) (acc : Bool) (ra rb rc rd : Reg), Issues s e p → Clear s e (.acc acc) →
      exec (.mac e p acc ra rb) s = .next t → Issues t e q →
      ∃ u, exec (.mac e q acc rc rd) t = .next u
        ∧ racc (after t u e 3) acc
          = (accAdd (accAdd (racc (found s e) acc) ((rreg (found s e) ra.toNat).toInt * (rreg (found s e) rb.toNat).toInt)).1
              ((rreg (found t e) rc.toNat).toInt * (rreg (found t e) rd.toNat).toInt)).1)

/-- The divider instructions deliver after twelve cycles and hold the divider for as long; while it is held such an
instruction delivers nothing and sets DIV_BUSY. Rests on R101, R105. -/
def Obligations.DividerTakesOneOperationAtATime : Prop :=
  ∀ (s : State) (e : EngineId) (p : Pred) (rd ra rb : Reg), Issues s e p → Clear s e (.reg rd.toNat) →
    let a := rreg (found s e) ra.toNat
    let b := rreg (found s e) rb.toNat
    ∀ cx ∈ [(Instr.fdiv e p rd ra rb, fDiv a b), (.idiv e p rd ra rb, iDiv a b), (.udiv e p rd ra rb, uDiv a b),
      (.fsqrt e p rd ra, fSqrt a)],
      ∃ t, exec cx.1 s = .next t ∧ OnlyEngines s t ∧ PassesWord s t e ∧ (engine t e).stps = (engine s e).stps
        ∧ ((engine s e).divFree ≤ (engine s e).cycle →
            RegFrom s t e rd 12 cx.2.1 ∧ Launches s t e (.reg rd.toNat) 12 cx.2.2
              ∧ (engine t e).divFree = (engine s e).cycle + 12)
        ∧ ((engine s e).cycle < (engine s e).divFree →
            Launches s t e .none 0 fDIVBUSY ∧ (engine t e).divFree = (engine s e).divFree)

/-- IDIV divides signed and truncates towards zero, UDIV divides unsigned. Division by zero returns 0x7FFF_FFFF for a
dividend of 0 or above, 0x8000_0000 for a negative one and 0xFFFF_FFFF for UDIV, and sets DZ. IDIV of 0x8000_0000 by -1
returns 0x7FFF_FFFF and sets SAT (R98). -/
def Obligations.IntegerDivisionTruncates : Prop :=
  ∀ (s : State) (e : EngineId) (p : Pred) (rd ra rb : Reg), Issues s e p → Clear s e (.reg rd.toNat) →
    (engine s e).divFree ≤ (engine s e).cycle →
    let a := rreg (found s e) ra.toNat
    let b := rreg (found s e) rb.toNat
    ∃ (t u : State) (q r : Word) (fq fr : BitVec 16),
      exec (.idiv e p rd ra rb) s = .next t ∧ RegFrom s t e rd 12 q ∧ Launches s t e (.reg rd.toNat) 12 fq
      ∧ exec (.udiv e p rd ra rb) s = .next u ∧ RegFrom s u e rd 12 r ∧ Launches s u e (.reg rd.toNat) 12 fr
      ∧ (b = 0 → q = (if 0 ≤ a.toInt then 0x7FFFFFFF else 0x80000000) ∧ fq = fDZ ∧ r = 0xFFFFFFFF ∧ fr = fDZ)
      ∧ (a = 0x80000000 → b = 0xFFFFFFFF → q = 0x7FFFFFFF ∧ fq = fSAT)
      ∧ (b ≠ 0 → ¬(a = 0x80000000 ∧ b = 0xFFFFFFFF) → q.toInt = a.toInt.tdiv b.toInt ∧ fq = 0)
      ∧ (b ≠ 0 → r.toNat = a.toNat / b.toNat ∧ fr = 0)

/-- An instruction whose predicate is false passes its cycle and does nothing else, NOP too; an unlisted word sets
ILL_OP besides where its predicate holds. Rests on R88, R96. -/
def Obligations.FalsePredicateOnlyPasses : Prop :=
  (∀ (c : Instr) (s : State) (e : EngineId) (p : Pred), predOf c = some (e, p) → MayIssue s e →
      predOk (found s e) p = false → OnlyPasses c s e)
  ∧ (∀ (s : State) (e : EngineId), MayIssue s e → OnlyPasses (.nop e) s e)
  ∧ (∀ (s : State) (e : EngineId) (w : Word), MayIssue s e → listedWord w = false →
      (predOk (found s e) (wPred w) = false → OnlyPasses (.unlistedOpcode e w) s e)
      ∧ (predOk (found s e) (wPred w) = true → ∃ t, exec (.unlistedOpcode e w) s = .next t ∧ OnlyEngines s t ∧ PassesWord s t e
          ∧ (engine t e).divFree = (engine s e).divFree ∧ (engine t e).stps = (engine s e).stps ∧ Launches s t e .none 0 fILL))

/-- LD and ST use bits 11:2 of the computed address; bits 1:0 and 31:12 are ignored. ST changes no byte outside its
word. An ST that falls in 0xF00 to 0xFFF is discarded and sets PST_STORE in its Sleeve (R107, R55). -/
def Obligations.DataMemoryLoadsAndStores : Prop :=
  ∀ (s : State) (e : EngineId) (p : Pred) (rd ra : Reg) (imm : BitVec 12), Issues s e p →
    let x := ((rreg (found s e) ra.toNat + imm.signExtend 32) &&& 0xFFC).toNat
    let v := rreg (found s e) rd.toNat
    let key := dmemKey e (x / 4)
    let sl := sleeve s (e / 32)
    (Clear s e (.reg rd.toNat) → upsetAt s key = 0 → GivesReg (.ld e p rd ra imm) s e rd 2 (wordAt s.arr.dmem (4096 * e + x), 0))
    ∧ (Clear s e (.reg rd.toNat) → upsetAt s key = 1 → ∃ t, exec (.ld e p rd ra imm) s = .next t
        ∧ t = { s with arr := { s.arr with
              engines := t.arr.engines, sleeves := t.arr.sleeves, correctedTotal := s.arr.correctedTotal + 1 } }
        ∧ PassesWord s t e ∧ RegFrom s t e rd 2 (wordAt s.arr.dmem (4096 * e + x)) ∧ Launches s t e (.reg rd.toNat) 2 0
        ∧ (sl.corrected ≠ 0xFFFFFFFF
          → sleeve t (e / 32) = { sl with corrected := sl.corrected + 1, sticky := sl.sticky ||| 0x100 })
        ∧ ∀ k, k ≠ e.val / 32 → sleeve t k = sleeve s k)
    ∧ (2 ≤ upsetAt s key → ∃ t, exec (.ld e p rd ra imm) s = .next t ∧ PassesWord s t e
        ∧ (sleeve t (e / 32)).sticky = sl.sticky ||| 0x10 ∧ (sleeve t (e / 32)).held = true)
    ∧ (x < 0xF00 → ∃ t, exec (.st e p rd ra imm) s = .next t
        ∧ t = { s with arr := { s.arr with engines := t.arr.engines, dmem := t.arr.dmem, upsets := t.arr.upsets } } ∧ Passes s t e
        ∧ wordAt t.arr.dmem (4096 * e + x) = v ∧ SameOutside s.arr.dmem t.arr.dmem (4096 * e + x) 4
        ∧ upsetAt t key = 0 ∧ ∀ k, k ≠ key → upsetAt t k = upsetAt s k)
    ∧ (0xF00 ≤ x → ∃ t, exec (.st e p rd ra imm) s = .next t
        ∧ t = { s with arr := { s.arr with engines := t.arr.engines, sleeves := t.arr.sleeves } } ∧ Passes s t e
        ∧ sleeve t (e / 32) = { sleeve s (e / 32) with sticky := (sleeve s (e / 32)).sticky ||| 0x200 }
        ∧ ∀ k, k ≠ e.val / 32 → sleeve t k = sleeve s k)

/-- Inside a granted window LDS and STS use bits 15:2 of the computed address, LDSD and STSD bits 15:3, and the double
forms move the word at the lower address through vd and the one at the higher address through vd+1; no other byte
changes. Rests on R63, R109. -/
def Obligations.SharedMemoryLoadsAndStores : Prop :=
  ∀ (s : State) (e : EngineId) (p : Pred) (rd ra : Reg) (imm : BitVec 12), Issues s e p →
    let a := rreg (found s e) ra.toNat + imm.signExtend 32
    let x := (a &&& 0xFFFC).toNat
    let z := (a &&& 0xFFF8).toNat
    let sl := e.val / 32
    let key := shmEccKey sl z
    let word (k : Nat) : Word := shmByte s sl (k + 3) ++ shmByte s sl (k + 2) ++ shmByte s sl (k + 1) ++ shmByte s sl k
    (windowOk s e (x / 4096) (engine s e).cycle false = true → upsetAt s key = 0 →
      (Clear s e (.reg rd.toNat) → GivesReg (.lds e p rd ra imm) s e rd 4 (word x, 0))
      ∧ (Clear s e (.reg (rd &&& 0x1E).toNat) → Clear s e (.reg (rd ||| 1).toNat) →
          ∃ t, exec (.ldsd e p rd ra imm) s = .next t ∧ OnlyEngines s t ∧ LaunchesPair s t e rd 4 (word z) (word (z + 4))))
    ∧ (windowOk s e (x / 4096) (engine s e).cycle true = true →
      (upsetAt s key = 0 → ∃ t, exec (.sts e p rd ra imm) s = .next t
        ∧ t = { s with arr := { s.arr with engines := t.arr.engines, shm := t.arr.shm } } ∧ Passes s t e
        ∧ wordAt t.arr.shm (65536 * sl + x) = rreg (found s e) rd.toNat ∧ SameOutside s.arr.shm t.arr.shm (65536 * sl + x) 4)
      ∧ ∃ t, exec (.stsd e p rd ra imm) s = .next t
        ∧ t = { s with arr := { s.arr with engines := t.arr.engines, shm := t.arr.shm, upsets := t.arr.upsets } } ∧ Passes s t e
        ∧ upsetAt t key = 0 ∧ (∀ k, k ≠ key → upsetAt t k = upsetAt s k)
        ∧ wordAt t.arr.shm (65536 * sl + z) = rreg (found s e) (rd &&& 0x1E).toNat
        ∧ wordAt t.arr.shm (65536 * sl + z + 4) = rreg (found s e) (rd ||| 1).toNat
        ∧ SameOutside s.arr.shm t.arr.shm (65536 * sl + z) 8)

/-- STP stores within its budget. An access outside a granted window raises WINDOW, one of YSEND, YRED, TALLY and
EXTREME outside its slot raises SLOT: the doubt is recorded with its place, the ports of the Sleeve that are on enter
HEM, and nothing is stored, sent, contributed or counted. Rests on R55, R63 to R65, R70, R83, R108, R110, R111. -/
def Obligations.StoresAndGrantsAreGuarded : Prop :=
  (∀ (s : State) (e : EngineId) (p : Pred) (rd : Reg) (idx : BitVec 6), Issues s e p →
      let budget := if s.wheel.w = 4096 then 8 else if s.wheel.w = 8192 then 4 else 2
      let x := 4096 * e.val + 0xF00 + 4 * idx.toNat
      let v := rreg (found s e) rd.toNat
      let sl := sleeve s (e / 32)
      ∃ t, exec (.stp e p rd idx) s = .next t
        ∧ t = { s with arr := { s.arr with
              engines := t.arr.engines, dmem := t.arr.dmem, sleeves := t.arr.sleeves, upsets := t.arr.upsets } }
        ∧ (∀ k, k ≠ dmemKey e (0x3C0 + idx.toNat) → upsetAt t k = upsetAt s k)
        ∧ PassesWord s t e ∧ (engine t e).divFree = (engine s e).divFree ∧ (engine t e).stps = (engine s e).stps + 1
        ∧ (∀ k, k ≠ e.val / 32 → sleeve t k = sleeve s k)
        ∧ ((engine s e).stps < budget → sl.seedMute = false → Launches s t e .none 0 0
            ∧ wordAt t.arr.dmem x = v ∧ SameOutside s.arr.dmem t.arr.dmem x 4
            ∧ sleeve t (e / 32) = { sl with stores := sl.stores ++ [{ engine := e, idx := idx.toNat, word := v }] })
        ∧ ((engine s e).stps < budget → sl.seedMute = true → Launches s t e .none 0 0 ∧ t.arr.dmem = s.arr.dmem
          ∧ sleeve t (e / 32) = sl)
        ∧ (budget ≤ (engine s e).stps → Launches s t e .none 0 fSTPOVER ∧ t.arr.dmem = s.arr.dmem ∧ sleeve t (e / 32) = sl))
  ∧ (∀ (s : State) (e : EngineId) (p : Pred) (rd ra : Reg) (imm : BitVec 12) (slot : BitVec 7), Issues s e p →
      let a := rreg (found s e) ra.toNat + imm.signExtend 32
      let bank := (a &&& 0xFFFC).toNat / 4096
      let c := (engine s e).cycle
      let sl := e.val / 32
      let doubt (i : Instr) (bit b : Nat) (fl : BitVec 16) : Prop := ∃ t, exec i s = .next t ∧ PassesWord s t e
        ∧ (engine t e).divFree = (engine s e).divFree ∧ (engine t e).stps = (engine s e).stps ∧ Launches s t e .none 0 fl
        ∧ t.arr = { s.arr with engines := t.arr.engines, sleeves := t.arr.sleeves }
        ∧ (∀ k, k ≠ sl → sleeve t k = sleeve s k)
        ∧ (sleeve t sl).sticky = (sleeve s sl).sticky ||| BitVec.ofNat 32 (2 ^ bit)
        ∧ (sleeve t sl).held = true ∧ (sleeve t sl).halting = true
        ∧ ((sleeve s sl).sticky &&& 0x7F = 0 → (sleeve t sl).doubtRound = s.wheel.round ∧ (sleeve t sl).doubtEngine = e % 32
            ∧ (sleeve t sl).doubtDetail = 4096 * b + c % 4096)
        ∧ ∀ n, n / 8 = sl → canHem (link s n).state = true → (link t n).state = .hem
      (windowOk s e bank c false = false → doubt (.lds e p rd ra imm) 1 bank 0 ∧ doubt (.ldsd e p rd ra imm) 1 bank 0)
      ∧ (windowOk s e bank c true = false → doubt (.sts e p rd ra imm) 1 bank 0 ∧ doubt (.stsd e p rd ra imm) 1 bank 0)
      ∧ (windowOk s e 16 c true = false → doubt (.tally e p ra imm) 2 15 (if 1536 ≤ a.toNat then fTALLY else 0)
          ∧ doubt (.extreme e p ra slot) 2 15 0)
      ∧ ((∀ t ∈ sendsOf s sl, ¬(t.cycle = c ∧ t.sleeve = sl ∧ t.engine = e % 32)) → doubt (.ysend e p ra) 2 15 0)
      ∧ ((∀ t ∈ redsOf s sl, ¬(t.cycle = c ∧ (sl, e.val % 32) ∈ t.contributors)) → doubt (.yred e p ra) 2 15 0))

/-- A YSEND in its slot puts the pair on its way to the slot's entry, due six cycles later; its arrival fills that
entry, or empties it with YOKE_UE; YRECV delivers the entry's pair, or two canonical NaNs with YOKE_EMPTY. A YRED
contributes its word; the result over the tree of the 32 Sleeves and the mask of contributors reach the result register,
a NaN and mask 0 with RED_UE on an uncorrectable error; YRES reads either. Rests on R68, R69, R71 to R74, R110. -/
def Obligations.YokeAndReductionsDeliver : Prop :=
  ((∀ (s : State) (e : EngineId) (p : Pred) (ra : Reg) (t0 : SendSlot), Issues s e p →
      (sendsOf s (e / 32)).find? (fun t => t.cycle == (engine s e).cycle && t.sleeve == e.val / 32 && t.engine == e.val % 32) = some t0 →
      ∃ t, exec (.ysend e p ra) s = .next t
        ∧ t = { s with arr := { s.arr with engines := t.arr.engines, yoke := t.arr.yoke } } ∧ Passes s t e
        ∧ t.arr.yoke = s.arr.yoke ++ [⟨(engine s e).cycle + 6, t0.dst, t0.entry,
            rreg (found s e) (ra ||| 1).toNat ++ rreg (found s e) (ra &&& 0x1E).toNat⟩])
    ∧ (∀ (s : State) (d : SleeveId) (ue : Bool) (m : YokeMsg) (l l' : List YokeMsg), s.arr.yoke = l ++ m :: l' → m.dst = d →
      (∀ g ∈ l, g.dst ≠ d) →
      ∃ t, exec (.yokeArrival d ue) s = .next t
        ∧ t = { s with arr := { s.arr with yoke := l ++ l', sleeves := t.arr.sleeves } } ∧ (∀ k, k ≠ d.val
          → sleeve t k = sleeve s k)
        ∧ sleeve t d = { sleeve s d with
            rx := (sleeve s d).rx ++ [⟨m.due, m.entry, if ue then none else some m.word⟩]
            sticky := if ue then (sleeve s d).sticky ||| 0x400 else (sleeve s d).sticky })
    ∧ (∀ (s : State) (d : SleeveId) (entry cycle : Nat),
      ((∀ r ∈ (sleeve s d).rx, r.entry = entry → cycle < r.due) → (∀ m ∈ s.arr.yoke, m.dst = d.val → m.entry = entry
        → cycle < m.due) →
        recvWord s d entry cycle = none)
      ∧ (∀ r ∈ (sleeve s d).rx, r.entry = entry → r.due ≤ cycle →
          (∀ x ∈ (sleeve s d).rx, x ≠ r → x.entry = entry → x.due < r.due ∨ cycle < x.due) →
          (∀ m ∈ s.arr.yoke, m.dst = d.val → m.entry = entry → m.due < r.due ∨ cycle < m.due) → recvWord s d entry cycle = r.word)
      ∧ (∀ m ∈ s.arr.yoke, m.dst = d.val → m.entry = entry → m.due ≤ cycle →
          (∀ x ∈ (sleeve s d).rx, x.entry = entry → x.due < m.due ∨ cycle < x.due) →
          (∀ x ∈ s.arr.yoke, x ≠ m → x.dst = d.val → x.entry = entry → x.due < m.due ∨ cycle < x.due) →
          recvWord s d entry cycle = some m.word))
    ∧ (∀ (s : State) (e : EngineId) (p : Pred) (rd : Reg) (entry : BitVec 6), Issues s e p →
      Clear s e (.reg (rd &&& 0x1E).toNat) → Clear s e (.reg (rd ||| 1).toNat) →
      let x := sleeve s (e / 32)
      let r := recvWord s (e / 32) entry.toNat (engine s e).cycle
      ∃ t, exec (.yrecv e p rd entry) s = .next t
        ∧ t = { s with arr := { s.arr with engines := t.arr.engines, sleeves := t.arr.sleeves } } ∧ (∀ k, k ≠ e.val / 32
          → sleeve t k = sleeve s k)
        ∧ (∀ w, r = some w → sleeve t (e / 32) = x ∧ LaunchesPair s t e rd 2 (w.setWidth 32) ((w >>> 32).setWidth 32))
        ∧ (r = none → sleeve t (e / 32) = { x with sticky := x.sticky ||| 0x800 } ∧ LaunchesPair s t e rd 2 0x7FC00000 0x7FC00000)))
  ∧ ((∀ (s : State) (e : EngineId) (p : Pred) (ra : Reg) (t0 : RedSlot), Issues s e p →
      (redsOf s (e / 32)).find? (fun t => t.cycle == (engine s e).cycle && t.contributors.contains (e.val / 32, e.val % 32)) = some t0 →
      (∀ m ∈ s.arr.reds, ofSlot t0 m = false) →
      ∃ t, exec (.yred e p ra) s = .next t
        ∧ t = { s with arr := { s.arr with engines := t.arr.engines, reds := t.arr.reds } } ∧ Passes s t e
        ∧ t.arr.reds = s.arr.reds ++ [⟨(engine s e).cycle + 12, t0.isMax, t0.res, [(e.val / 32, rreg (found s e) ra.toNat)]⟩])
    ∧ (∀ (s : State) (e : EngineId) (p : Pred) (ra : Reg) (t0 : RedSlot) (m : RedMsg) (l l' : List RedMsg), Issues s e p →
      (redsOf s (e / 32)).find? (fun t => t.cycle == (engine s e).cycle && t.contributors.contains (e.val / 32, e.val % 32)) = some t0 →
      s.arr.reds = l ++ m :: l' → ofSlot t0 m = true → (∀ g ∈ l ++ l', ofSlot t0 g = false) →
      ∃ t, exec (.yred e p ra) s = .next t
        ∧ t = { s with arr := { s.arr with engines := t.arr.engines, reds := t.arr.reds } } ∧ Passes s t e
        ∧ ∃ parts, t.arr.reds = l ++ { m with parts := parts } :: l' ∧ tfind parts (e.val / 32) = some (rreg (found s e) ra.toNat)
          ∧ ∀ k, k ≠ e.val / 32 → tfind parts k = tfind m.parts k)
    ∧ (∀ (s : State) (cycle : Nat) (t0 : RedSlot), (slotsNow s).filter (fun t => t.cycle == cycle && !slotDone s t) = [t0] →
      let parts := ((s.arr.reds.find? (ofSlot t0)).map (·.parts)).getD []
      (∃ t, exec (.reductionResult cycle false) s = .next t
        ∧ t = { s with arr := { s.arr with
            resNew := s.arr.resNew ++ [⟨cycle + 12, t0.isMax, t0.res, treeReduce t0.isMax parts, partMask parts⟩] } })
      ∧ ∃ t, exec (.reductionResult cycle true) s = .next t
        ∧ t.arr.resNew = s.arr.resNew ++ [⟨cycle + 12, t0.isMax, t0.res, 0x7FC00000, 0⟩]
        ∧ hasBit t.arr.arraySticky 0 = true ∧ hasBit t.hem.summary 4 = true)
    ∧ (∀ (s : State) (cycle : Nat) (t0 : RedSlot) (l l' : List RedSlot), slotsNow s = l ++ t0 :: l' →
      (∀ x ∈ l ++ l', x.res ≠ t0.res) → (∀ d ∈ s.arr.resNew, d.res ≠ t0.res) →
      let parts := ((s.arr.reds.find? (ofSlot t0)).map (·.parts)).getD []
      resAt s t0.res cycle = if t0.cycle + 12 ≤ cycle then (treeReduce t0.isMax parts, partMask parts)
        else (tget 0 s.arr.res t0.res, tget 0 s.arr.resMask t0.res))
    ∧ (∀ (s : State) (r cycle : Nat), (∀ x ∈ slotsNow s, x.res ≠ r) → (∀ d ∈ s.arr.resNew, d.res ≠ r) →
        resAt s r cycle = (tget 0 s.arr.res r, tget 0 s.arr.resMask r))
    ∧ ∀ (s : State) (e : EngineId) (p : Pred) (rd : Reg) (mask : Bool) (r : BitVec 4), Issues s e p → Clear s e (.reg rd.toNat) →
        let x := resAt s r.toNat (engine s e).cycle
        GivesReg (.yres e p rd mask r) s e rd 1 (if mask then x.2 else x.1, 0))

/-- In its window TALLY adds 1 to bin va + sext(IMM12), increments nothing and sets TALLY_RANGE outside 0 to 1,535; a
bin at 0xFFFF_FFFF stays there and TALLY_SAT is set (R78). EXTREME presents va to its slot, which keeps strictly lower
and strictly higher values with their rounds, and sets EXT_NAN on a NaN. -/
def Obligations.TalliesCountAndExtremesKeep : Prop :=
  ∀ (s : State) (e : EngineId) (p : Pred) (ra : Reg) (imm : BitVec 12) (slot : BitVec 7), Issues s e p →
    windowOk s e 16 (engine s e).cycle true = true →
    let bin := (rreg (found s e) ra.toNat + imm.signExtend 32).toNat
    let key := 1536 * (e.val / 32) + bin
    let v := tget 0 s.arr.bins key
    let f := fFlush (rreg (found s e) ra.toNat)
    let x := tget {} s.arr.exts (128 * (e.val / 32) + slot.toNat)
    let clean (k : Nat) : Prop := upsetAt s (tallyKey (e / 32) k) = 0
    ((bin < 1536 → clean (bin / 2)) → ∃ t, exec (.tally e p ra imm) s = .next t
      ∧ t = { s with arr := { s.arr with engines := t.arr.engines, bins := t.arr.bins, sleeves := t.arr.sleeves } }
      ∧ PassesWord s t e ∧ (engine t e).divFree = (engine s e).divFree ∧ (engine t e).stps = (engine s e).stps
      ∧ (∀ k, k ≠ e.val / 32 → sleeve t k = sleeve s k)
      ∧ (1536 ≤ bin → Launches s t e .none 0 fTALLY ∧ t.arr.bins = s.arr.bins ∧ sleeve t (e / 32) = sleeve s (e / 32))
      ∧ (bin < 1536 → Launches s t e .none 0 0 ∧ (∀ k, k ≠ key → tget 0 t.arr.bins k = tget 0 s.arr.bins k)
          ∧ (v ≠ 0xFFFFFFFF → tget 0 t.arr.bins key = v + 1 ∧ sleeve t (e / 32) = sleeve s (e / 32))
          ∧ (v = 0xFFFFFFFF → tget 0 t.arr.bins key = v
              ∧ sleeve t (e / 32) = { sleeve s (e / 32) with sticky := (sleeve s (e / 32)).sticky ||| 0x2000 })))
    ∧ (clean (768 + 2 * slot.toNat) → clean (769 + 2 * slot.toNat) → ∃ t, exec (.extreme e p ra slot) s = .next t
      ∧ t = { s with arr := { s.arr with engines := t.arr.engines, exts := t.arr.exts, sleeves := t.arr.sleeves } } ∧ Passes s t e
      ∧ (∀ k, k ≠ e.val / 32 → sleeve t k = sleeve s k)
      ∧ (∀ k, k ≠ 128 * (e.val / 32) + slot.toNat → tget {} t.arr.exts k = tget {} s.arr.exts k)
      ∧ let y := tget {} t.arr.exts (128 * (e.val / 32) + slot.toNat)
        (f32IsNaN (rreg (found s e) ra.toNat) = true → y = x
          ∧ sleeve t (e / 32) = { sleeve s (e / 32) with sticky := (sleeve s (e / 32)).sticky ||| 0x1000 })
        ∧ (f32IsNaN (rreg (found s e) ra.toNat) = false → sleeve t (e / 32) = sleeve s (e / 32)
          ∧ (y.min, y.minRound) = (if fCmp f x.min < 0 then (f, s.wheel.round) else (x.min, x.minRound))
          ∧ (y.max, y.maxRound) = (if 0 < fCmp f x.max then (f, s.wheel.round) else (x.max, x.maxRound))))

/-- What the hardware does in a round outside the engines: result write-back, overrun check, instruction check,
scrubber, downlink snapshot and tally sweep. TRIP puts its port into HEM and records the reason of the earliest TRIP of
the round. Rests on R60, R66, R77, R80 to R82, R91, R112. -/
def Obligations.RoundHardwareDoesItsWork : Prop :=
  ((∀ (s : State) (e : EngineId) (cycle : Nat), ∃ t, exec (.resultWriteback e cycle) s = .next t ∧ OnlyEngines s t
        ∧ engine t e = settle (engine s e) cycle ∧ ∀ j, j ≠ e.val → engine t j = engine s j)
    ∧ (∀ (s : State) (e : EngineId), canIssue s e = true → upsetAt s (imemKey e (engine s e).pc) = 1 →
      ∃ t, exec (.nop e) s = .next t ∧ engine t e = nextWord (found s e)
        ∧ (sleeve t (e / 32)).sticky = (sleeve s (e / 32)).sticky ||| 0x100 ∧ t.arr.correctedTotal = s.arr.correctedTotal + 1)
    ∧ (∀ (s : State) (e : EngineId), bodyRuns s e = true →
      ((engine s e).ended = false ∨ s.wheel.l - 64 < (engine s e).cycle) →
      ∃ t, exec (.overrunCheck e) s = .next t ∧ hasBit (sleeve t (e / 32)).sticky 0 = true ∧ (sleeve t (e / 32)).halting = true
        ∧ t.arr.engines = s.arr.engines)
    ∧ (∀ (s : State) (e : EngineId), scrubRuns s = true → s.arr.scrubWhole = true → s.wheel.ris = 1023 →
      bankCrc (bankWords s.arr.imem e) ≠ recordedCrc s.pat.run e →
      ∃ t, exec (.instrCrcCheck e) s = .next t ∧ hasBit (sleeve t (e / 32)).sticky 6 = true ∧ (sleeve t (e / 32)).halting = true)
    ∧ (∀ (s : State) (sl : SleeveId), scrubRuns s = true → quietMemory s = true →
      (∃ t, exec (.scrub [{ place := .shm sl 2, uncorrectable := false }]) s = .next t
        ∧ t = { s with arr := { s.arr with
              sleeves := t.arr.sleeves, correctedTotal := s.arr.correctedTotal + 1, scrubbed := true } }
        ∧ (sleeve t sl).sticky = (sleeve s sl).sticky ||| 0x100)
      ∧ ∃ t, exec (.scrub [{ place := .shm sl 2, uncorrectable := true }]) s = .next t
        ∧ hasBit (sleeve t sl).sticky 5 = true ∧ (sleeve t sl).halting = true)
    ∧ (∀ (s : State) (k : Nat), scrubRuns s = true → s.arr.upsets = [(k, 1)] →
      ∃ t, exec (.scrub []) s = .next t ∧ t.arr.upsets = (if (scrubPlace s k).isSome then [] else [(k, 1)])
        ∧ t.arr.correctedTotal = s.arr.correctedTotal + (if (scrubPlace s k).isSome then 1 else 0))
    ∧ (∀ s : State, domainRuns s = true → ∃ t, exec .downlinkSnapshot s = .next t
        ∧ (quietMemory s = true → t = { s with arr := { s.arr with dlBuf := t.arr.dlBuf, snapped := true } })
        ∧ ∀ n < 256, ∀ k < 32, mget t.arr.dlBuf (32 * n + k) = mget s.arr.shm (65536 * (n / 8) + 0x2000 + 32 * (n % 8) + k))
    ∧ ∀ (s : State) (sl : SleeveId), domainRuns s = true → ∃ t, exec (.tallySweep sl) s = .next t
        ∧ (quietMemory s = true → t = { s with
              arr := { s.arr with bins := t.arr.bins, exts := t.arr.exts, invalid := t.arr.invalid, sweepAge := t.arr.sweepAge }
              recorder := t.recorder })
        ∧ (∀ k, k / 1536 = sl.val → tget 0 t.arr.bins k = 0) ∧ (∀ k, k / 1536 ≠ sl.val → tget 0 t.arr.bins k = tget 0 s.arr.bins k)
        ∧ (∀ k, k / 128 = sl.val → tget {} t.arr.exts k = {}) ∧ ∀ k, k / 128 ≠ sl.val → tget {} t.arr.exts k = tget {} s.arr.exts k)
  ∧ (∀ (s : State) (e : EngineId) (p : Pred) (reason : Byte) (j : BitVec 3), Issues s e p →
      let n := 8 * (e.val / 32) + j.toNat
      (tfind (sleeve s (e / 32)).trips j.toNat = none →
        ∃ t, exec (.trip e p reason j) s = .next t ∧ Passes s t e ∧ (ctl t n).tripped = true ∧ (ctl t n).tripReason = reason
          ∧ (canHem (link s n).state = true → (link t n).state = .hem)
          ∧ tfind (sleeve t (e / 32)).trips j.toNat = some ((engine s e).cycle, e.val, reason)
          ∧ ∀ m, m ≠ n → link t m = link s m ∧ ctl t m = ctl s m)
      ∧ ∀ c0 e0 r0, tfind (sleeve s (e / 32)).trips j.toNat = some (c0, e0, r0) →
        ∃ t, exec (.trip e p reason j) s = .next t ∧ Passes s t e ∧ t.links = s.links
          ∧ ((engine s e).cycle < c0 ∨ ((engine s e).cycle = c0 ∧ e.val < e0) →
              ctl t n = { ctl s n with tripReason := reason }
                ∧ tfind (sleeve t (e / 32)).trips j.toNat = some ((engine s e).cycle, e.val, reason))
          ∧ (¬((engine s e).cycle < c0 ∨ ((engine s e).cycle = c0 ∧ e.val < e0)) → ctl t n = ctl s n
            ∧ t.arr.sleeves = s.arr.sleeves))

/-- RDW delivers the wheel's counters as they stand in the round, RDFLG the flags as they stood at the end of the cycle
before, RIDX the index of the REPEAT level named, INTERP the table's interpolation. CLRFLG clears the flags of its mask
but for those set in its cycle, ENDROUND ends the body, REPEAT opens a level or, ill-formed, sets ILL_OP; at the end of
a body the next iteration starts until COUNT+1 have run. Rests on R106, R113 to R116, R118, R119. -/
def Obligations.ReadsFlagsRepeatAndEndOfRound : Prop :=
  (∀ (s : State) (e : EngineId) (p : Pred) (rd ra rb : Reg) (sel : BitVec 4) (outer : Bool), Issues s e p
      → Clear s e (.reg rd.toNat) →
      let b := (rreg (found s e) rb.toNat).toNat
      GivesReg (.rdw e p rd sel) s e rd 1 (match sel.toNat with
        | 0 => (s.wheel.acc, 0) | 1 => (s.wheel.round, 0) | 2 => (s.wheel.seam, 0) | 3 => (BitVec.ofNat 32 s.wheel.ris, 0)
        | 4 => (BitVec.ofNat 32 s.wheel.ric, 0) | 5 => (BitVec.ofNat 32 s.wheel.w, 0) | 6 => (BitVec.ofNat 32 s.wheel.l, 0)
        | _ => (0, fILL))
      ∧ GivesReg (.rdflg e p rd) s e rd 1 ((match (engine s e).cycle with
        | 0 => engine s e | c + 1 => settle (engine s e) c).flags.setWidth 32, 0)
      ∧ GivesReg (.ridx e p rd outer) s e rd 1 (match (engine s e).reps.reverse, outer with
        | r :: _, true => BitVec.ofNat 32 r.iter
        | _ :: r :: _, false => BitVec.ofNat 32 r.iter
        | _, _ => 0, 0)
      ∧ ((∀ k, upsetAt s (dmemKey e k) = 0) → GivesReg (.interp e p rd ra rb) s e rd 4
          (interp (fun k => wordAt s.arr.dmem (4096 * e + (b + 4 * k) / 4 % 1024 * 4)) (rreg (found s e) ra.toNat))))
  ∧ ((∀ (s : State) (e : EngineId) (p : Pred) (mask : BitVec 11), Issues s e p →
      ∃ t, exec (.clrflg e p mask) s = .next t ∧ OnlyEngines s t ∧ PassesWord s t e
        ∧ (engine t e).flags = ((found s e).flags &&& ~~~(mask.setWidth 16))
            ||| (settle { (match (engine s e).cycle with | 0 => engine s e | c + 1 => settle (engine s e) c) with flags := 0 }
              (engine s e).cycle).flags
        ∧ ∀ k, agreeOff .none (after s t e k) (untouched s e k))
    ∧ (∀ (s : State) (e : EngineId), MayIssue s e →
      ∃ t, exec (.endround e) s = .next t ∧ OnlyEngines s t ∧ engine t e = nextWord { found s e with ended := true }
        ∧ (∀ j, j ≠ e.val → engine t j = engine s j) ∧ canIssue t e = false)
    ∧ ∀ (s : State) (e : EngineId) (pfield : BitVec 4) (count len : BitVec 10), MayIssue s e →
      let en := engine s e
      let good := pfield = 0 ∧ len ≠ 0 ∧ (en.reps = [] ∨ ∃ o, en.reps = [o] ∧ en.pc + 1 + len.toNat ≤ o.start + o.len)
      ∃ t, exec (.repeatI e pfield count len) s = .next t ∧ OnlyEngines s t ∧ (∀ j, j ≠ e.val → engine t j = engine s j)
        ∧ (good → engine t e = { found s e with
              pc := en.pc + 1, cycle := en.cycle + 1, issued := en.issued + 1, reps := ⟨en.pc + 1, len.toNat, 0, count.toNat⟩ :: en.reps })
        ∧ (¬good → engine t e = nextWord (setFlags (found s e) fILL)))
  ∧ (∀ (r : RepLevel) (outer : List RepLevel) (pc : Nat),
      (pc ≠ r.start + r.len → advance (r :: outer) pc = (r :: outer, pc))
      ∧ (pc = r.start + r.len → r.iter < r.last → advance (r :: outer) pc = ({ r with iter := r.iter + 1 } :: outer, r.start))
      ∧ (pc = r.start + r.len → r.last ≤ r.iter → advance (r :: outer) pc = advance outer pc))

/-! ### Phase wheel (02) -/

/-- An angle becomes valid, a feed is lost after 64 ticks below LOSS_LEVEL and returns after RETURN_CYCLES cycles; the
wheel moves between its states as the table says, SLIP being a doubt that holds every port that is on; a sync pulse is
classified by its width and carries the reference, 64 missing ones lose it (where a pulse that comes out of place sets
the sequence is the model's choice, notes/assumptions/7.md). Rests on R37, R39 to R41, R43, R48 to R50, R52. -/
def Obligations.FeedsAndTheWheelFollowTheirTables : Prop :=
  (∀ (s : State) (f : Feed), domainRuns s = true →
      let x := feedSt s f
      (x.angleValid = false → x.risen.isSome = true → ∃ t, exec (.angleValid f) s = .next t
          ∧ t = { s with feedA := t.feedA, feedB := t.feedB }
          ∧ feedSt t f = { x with angleValid := true, angle := x.rawAngle, freq := x.rawFreq, last := some (x.rawAngle, x.rawFreq) }
          ∧ feedSt t (otherFeed f) = feedSt s (otherFeed f))
      ∧ (64 ≤ x.below → (x.present = true ∨ x.angleValid = true) → ∃ t, exec (.feedLoss f) s = .next t
          ∧ t = { s with feedA := t.feedA, feedB := t.feedB, wheel := t.wheel, recorder := t.recorder }
          ∧ (feedSt t f).present = false ∧ (feedSt t f).angleValid = false ∧ (feedSt t f).angle = 0 ∧ (feedSt t f).freq = 0
          ∧ feedSt t (otherFeed f) = feedSt s (otherFeed f)
          ∧ (s.wheel.mode = 1 ∨ s.wheel.lead ≠ some f → t.wheel = s.wheel)
          ∧ (s.wheel.mode ≠ 1 → s.wheel.lead = some f → t.wheel.state = (match s.wheel.state with
              | .acquire => .free | .free => .free | _ => .holdover)))
      ∧ (x.present = false → x.above = true → ((cfg s 0x2001 11 : Nat) : Rat) ≤ x.aboveCycles
        → ∃ t, exec (.feedReturn f) s = .next t
          ∧ t = { s with feedA := t.feedA, feedB := t.feedB, wheel := t.wheel }
          ∧ (feedSt t f).present = true ∧ feedSt t (otherFeed f) = feedSt s (otherFeed f)))
  ∧ (∀ s : State,
      let w := s.wheel
      let moved (t : State) (st : WState) : Prop := t = { s with wheel := t.wheel } ∧ t.wheel.state = st
        ∧ (t.wheel.round, t.wheel.ric, t.wheel.ris, t.wheel.seam, t.wheel.fTick) = (w.round, w.ric, w.ris, w.seam, w.fTick)
        ∧ t.wheel.sticky = (if w.state = .locked then w.sticky ||| 1 else w.sticky)
      (domainRuns s = true → (w.state = .acquire ∨ w.state = .reacquire) → 2 ≤ w.lockCycles → refLossDue s = false
        → slipDue s = false →
        ∃ t, exec .lockAchieved s = .next t ∧ moved t .locked)
      ∧ (w.state = .locked → 64 ≤ w.lossRun → refLossDue s = false → slipDue s = false → ∃ t, exec .lockLoss s = .next t
        ∧ moved t .reacquire)
      ∧ (w.state = .slip → ((cfg s 0x2001 11 : Nat) : Rat) ≤ w.inCycles → refLossDue s = false →
          ∃ t, exec .slipReturn s = .next t ∧ moved t .reacquire)
      ∧ (slipDue s = true → ∃ t, exec .slip s = .next t ∧ t.wheel.state = .slip
          ∧ t.wheel.slipHigh = decide (fMax s < refFreq s) ∧ hasBit t.wheel.sticky (if fMax s < refFreq s then 2 else 3) = true
          ∧ t.hem.held = true ∧ hasBit t.hem.summary 3 = true
          ∧ (∀ n ∈ linkPorts s, canHem (link s n).state = true → (link t n).state = .hem)
          ∧ (∀ n, n ∉ linkPorts s → link t n = link s n) ∧ t.arr.engines = s.arr.engines ∧ t.net = s.net
          ∧ MarginOnly s.cfg t.cfg))
  ∧ (∀ (s : State) (width : Nat) (lag : Int) (freq : Word), s.wheel.mode = 1 →
      let w := s.wheel
      let kind : Nat := if width < 96 then 0 else if width < 192 then 1 else 2
      let n := pulseSteps s lag
      let place := pulsePlace s kind lag
      let placeKind : Nat := if place = 0 then 2 else if place % 1024 = 0 then 1 else 0
      (∃ t, exec (.syncPulse width lag freq) s = .next t ∧ t = { s with wheel := t.wheel }
        ∧ (t.wheel.state, t.wheel.round, t.wheel.ric, t.wheel.ris, t.wheel.seam, t.wheel.sticky)
            = (w.state, w.round, w.ric, w.ris, w.seam, w.sticky)
        ∧ (n < 1 → t = s)
        ∧ (1 ≤ n → kind = placeKind → t.wheel.syncPlaced = true ∧ t.wheel.syncRic = place ∧ t.wheel.syncLag = lag
            ∧ t.wheel.syncFreq = freq ∧ t.wheel.syncMissed = 0
            ∧ t.wheel.syncCycles = (if n = 1 then w.syncCycles else 0) + mkRat 1 w.w
            ∧ (t.wheel.syncPresent = true ↔ w.syncPresent = true ∨ ((cfg s 0x2001 11 : Nat) : Rat) ≤ t.wheel.syncCycles))
        ∧ (1 ≤ n → kind ≠ placeKind → t.wheel.syncCycles = 0 ∧ t.wheel.syncPresent = w.syncPresent
            ∧ t.wheel.syncMissed = w.syncMissed ∧ t.wheel.syncFreq = w.syncFreq
            ∧ (¬(kind = 2 ∧ w.syncPlaced = true) → t.wheel.syncRic = w.syncRic)))
      ∧ (w.syncLost = false → 64 ≤ w.syncMissed → ∃ t, exec .syncLoss s = .next t ∧ t = { s with wheel := t.wheel }
          ∧ t.wheel.syncPresent = false ∧ t.wheel.syncLost = true ∧ hasBit t.wheel.sticky 4 = true
          ∧ t.wheel.state = (match w.state with | .acquire => .free | .locked => .holdover | .reacquire => .holdover | .slip => .holdover | x => x)))

/-! ### The block as a whole -/

/-- For every state and command, a step with the command at the front of the queue is exec of it on the state with the
queue's rest. On an empty queue the block idles, which is the model's choice (notes/assumptions/1.md). -/
def Obligations.StepRunsTheFrontCommand : Prop :=
  (∀ (s : State) (c : Instr), step { s with pending := c :: s.pending } = exec c s)
  ∧ ∀ s : State, s.pending = [] → step s = .next s

/-- In every state every command answers a next state, and the commands that wait stay as they were. That a command with
which the spec has nothing to do leaves the state alone is the model's choice (notes/assumptions/1.md). -/
def Obligations.CommandsLeaveTheQueueAlone : Prop :=  ∀ (c : Instr) (s : State), ∃ t, exec c s = .next t ∧ t.pending = s.pending

/-- After reset the wheel is FREE on the boot timebase with every counter 0, no pattern runs, no Sleeve has a doubt,
every port is ABSENT, the controller hold of the start-up is in force, the unit is OUT, no session is open, tallies are
empty, registers, accumulators and predicates are 0 but p0. Rests on R34, R42, R51, R90, R297, R305, R407. -/
def Obligations.ResetLeavesTheSpecifiedValues : Prop :=
  let s := State.reset
  s.pending = [] ∧ s.wheel.state = .free ∧ (s.wheel.w, s.wheel.l) = (8192, 2048) ∧ (s.wheel.round, s.wheel.seam) = (0, 0)
  ∧ (s.wheel.ric, s.wheel.ris) = (0, 0) ∧ s.wheel.sticky = 0 ∧ s.pat.activeSlot = 0xFF ∧ s.pat.shadowState = 0
  ∧ (∀ k, (sleeve s k).sticky = 0 ∧ (sleeve s k).doubtEngine = 0xFF) ∧ (∀ n, (link s n).state = .absent ∧ hemBit s n = true)
  ∧ ctrlHeld s = true ∧ s.pair.role = .out ∧ s.net.sessions = [] ∧ s.arr.bins = []
  ∧ (∀ e r k h, rreg (engine s e) r = 0 ∧ racc (engine s e) h = 0 ∧ (0 < k → rpred (engine s e) k = false)
    ∧ rpred (engine s e) 0 = true)
  ∧ s.flow.active = none ∧ (∀ ix sub, cfg s ix sub = dfltOf s ix sub)

/-- A tick advances round index, accumulator and the counters of cycle and interval, and the seam index at each 1,024th
round; only a new timebase that awaits its tick may set accumulator and cycle counter otherwise. A seam takes the
accepted writes whose interval has come and leaves the others one interval nearer; round 1,008 closes the next seam's
preparation. Rests on R28, R34, R35, R130. -/
def Obligations.TicksAndSeamsAdvanceTheMachine : Prop :=
  (∀ (s : State) (i : TickIn), domainRuns s = true → s.boot.freezing ≠ 2 → s.boot.sleeping ≠ some 1 →
      let w := s.wheel
      ∃ t, exec (.tick i) s = .next t ∧ t.wheel.round = w.round + 1
        ∧ t.wheel.ris = (w.ris + 1) % 1024 ∧ t.wheel.seam = (if (w.ris + 1) % 1024 = 0 then w.seam + 1 else w.seam)
        ∧ (t.wheel.seamDue = true ↔ (w.ris + 1) % 1024 = 0)
        ∧ (w.newBase = none → t.wheel.acc = w.acc + BitVec.ofNat 32 (2 ^ 32 / w.w) ∧ t.wheel.ric = (w.ric + 1) % w.w
          ∧ t.wheel.w = w.w ∧ t.wheel.l = w.l))
  ∧ (∀ s : State, domainRuns s = true →
      (s.wheel.seamDue = true → ∃ t, exec .seam s = .next t ∧ t.wheel.closed = false ∧ t.wheel.seamDue = false
        ∧ (t.wheel.round, t.wheel.acc, t.wheel.ric, t.wheel.ris, t.wheel.seam)
            = (s.wheel.round, s.wheel.acc, s.wheel.ric, s.wheel.ris, s.wheel.seam)
        ∧ t.net.pend = (s.net.pend.filter fun p => p.skip != 0).map fun p => { p with skip := p.skip - 1 })
      ∧ (1008 ≤ s.wheel.ris → exec .seamClose s = .next { s with wheel := { s.wheel with closed := true } }))

/-- The relations of the wheel's counters and the canonical form of every byte memory hold in the reset state. Rests on
R34; the canonical form is the model's. -/
def Obligations.ResetMeetsTheInvariants : Prop := wheelInv State.reset ∧ memoriesWf State.reset

/-- From every state in which they hold, every step keeps these relations: the accumulator is round in cycle times
2^32/W, round in cycle lies below W, round in seam is round in cycle and round index modulo 1,024, and W is one of the
three timebases. Rests on R28 and R34. -/
def Obligations.StepKeepsTheCounters : Prop := ∀ s t : State, wheelInv s → step s = .next t → wheelInv t

/-- From every state in which every byte memory has its canonical form, every step leaves every byte memory in it. The
canonical form is the model's; what it keeps apart are the memories of the engine array and the MRAM. -/
def Obligations.StepKeepsTheMemories : Prop := ∀ s t : State, memoriesWf s → step s = .next t → memoriesWf t

/-! ### Object dictionary: the checks of a write, and configuration (12) -/

/-- The checks of a write come in one order, and a write that fails one changes nothing but its status: NO_INDEX,
NO_SUB, ACCESS, TYPE, RANGE; where state or role forbid it, STATE unless the value is out of range. With no server
running nothing is executed, which is the model's choice (notes/assumptions/1.md). Rests on R351. -/
def Obligations.RefusedWritesChangeNothing : Prop :=
  (∀ (c : Instr) (s : State) (lvl : Level) (ix sub v : Nat), objectOf c = some (lvl, ix, sub, v) →
    (¬Serves s → exec c s = .next (withStatus s stState))
    ∧ (Serves s →
      (indexHere (taken s) ix = false → exec c s = .next (answered s stNoIndex))
      ∧ ∀ r, indexHere (taken s) ix = true → rowHere (taken s) ix sub = some r →
        (r.acc = .ro ∨ r.acc = .con ∨ levelNo lvl < levelNo r.level → exec c s = .next (answered s stAccess))
        ∧ (accessStatus (taken s) lvl ix sub true = stOK →
          (r.ty = 1 → 1 < v → exec c s = .next (answered s stType))
          ∧ (r.ty < 11 → (r.ty = 1 → v ≤ 1) → rngOk r v = false → exec c s = .next (answered s stRange))
          ∧ (r.ty < 11 → (r.ty = 1 → v ≤ 1) → rngOk r v = true → gated s ix sub = true →
            ∃ t, exec c s = .next t ∧ (t = answered s stState ∨ t.net.status = stRange)))))
  ∧ ∀ (s : State) (lvl : Level) (i : WriteItem),
    (¬Serves s → exec (.objectWrite lvl i) s = .next (withStatus s stState))
    ∧ (Serves s →
      (indexHere (taken s) i.index = false → exec (.objectWrite lvl i) s = .next (answered s stNoIndex))
      ∧ (indexHere (taken s) i.index = true → rowHere (taken s) i.index i.sub = none →
          exec (.objectWrite lvl i) s = .next (answered s stNoSub))
      ∧ ∀ r, indexHere (taken s) i.index = true → rowHere (taken s) i.index i.sub = some r →
        (r.acc = .ro ∨ r.acc = .con ∨ levelNo lvl < levelNo r.level → exec (.objectWrite lvl i) s = .next (answered s stAccess))
        ∧ (accessStatus (taken s) lvl i.index i.sub true = stOK →
          (i.ty ≠ r.ty ∨ r.ty = 12 ∨ (r.ty < 11 ∧ i.value.length ≠ typeSize r.ty))
            → exec (.objectWrite lvl i) s = .next (answered s stType)))

/-- A configuration write that passes its checks waits for its seam and is told to the mate; one that a related object
forbids changes nothing; ICHG and VCHG end the fallback of the charge watchdog. A membership write is refused while a
group write of that group awaits its seam; an OBJECT_WRITE does what the command for that object does; a group write of
a plain object is accepted for all members or for none. Rests on R26, R35, R267, R313, R328, R342, R448. -/
def Obligations.ConfigurationWritesWaitForTheirSeam : Prop :=
  (∀ (s : State) (lvl : Level) (b : Byte) (h : BitVec 16) (w : Word) (n : PortId) (p : PackId),
      let waits (c : Instr) (ix sub v : Nat) : Prop := Admits s lvl ix sub v →
        let st := relStatus (taken s) ix sub v
        (st = stOK → exec c s = .next (sendCtrl { answered s stOK with net := { (answered s stOK).net with
            pend := s.net.pend ++ [⟨ix, sub, v, skipNow s⟩] } } (.config ix sub v)))
        ∧ (st ≠ stOK → exec c s = .next (answered s st))
      waits (.wheelMode lvl b) 0x2001 1 b.toNat ∧ waits (.fNom lvl w) 0x2001 2 w.toNat ∧ waits (.fMainsMax lvl w) 0x2001 3 w.toNat
      ∧ waits (.fMainsMin lvl w) 0x2001 4 w.toNat ∧ waits (.margin lvl n b) (0x3100 + n) 0x10 b.toNat
      ∧ waits (.port lvl p h) (0x2600 + p) 1 h.toNat ∧ waits (.traceLen lvl h) 0x2810 2 h.toNat
      ∧ ∀ vchg : Bool, Admits s lvl 0x26F0 (if vchg then 2 else 1) w.toNat →
          let sub := if vchg then 2 else 1
          exec (if vchg then .vchg lvl w
            else .ichg lvl w) s = .next { sendCtrl { answered s stOK with net := { (answered s stOK).net with
            pend := s.net.pend ++ [⟨0x26F0, sub, w.toNat, skipNow s⟩] } } (.config 0x26F0 sub w.toNat) with
              shelf := { s.shelf with cwdSafe := false, cwdTime := 0 } })
  ∧ ((∀ (s : State) (lvl : Level) (g : GroupId) (k : Nat) (w : Word), 1 ≤ k → k ≤ 8 → Admits s lvl (0x3200 + g) k w.toNat →
      ((∃ p ∈ s.net.pend, isImage p.index = true ∧ imageGroup p.index = g.val)
        → exec (.members lvl g k w) s = .next (answered s stBusy))
      ∧ ((∀ p ∈ s.net.pend, isImage p.index = false) → s.arm.group = none →
          exec (.members lvl g k w) s = .next (sendCtrl { answered s stOK with net := { (answered s stOK).net with
            pend := s.net.pend ++ [⟨0x3200 + g, k, w.toNat, skipNow s⟩] } } (.config (0x3200 + g) k w.toNat))))
    ∧ (∀ (c : Instr) (s : State) (lvl : Level) (ix sub v : Nat) (r : Row) (item : WriteItem), objectOf c = some (lvl, ix, sub, v) →
      accessStatus (taken s) lvl ix sub true = stOK → rowHere (taken s) ix sub = some r → r.ty < 11 → item.index = ix
        → item.sub = sub →
      item.ty = r.ty → item.value.length = typeSize r.ty → leNat item.value = v →
      exec (.objectWrite lvl item) s = exec c s)
    ∧ ∀ (s : State) (lvl : Level) (g : Option GroupId) (sub ty : Nat) (value : List Byte) (r : Row), Serves s →
      let ix := match g with | some k => 0x3300 + k.val | none => 0x33FF
      let v := dropReserved ix sub (leNat value)
      accessStatus (taken s) lvl ix sub true = stOK → paramAt s ix sub = none → gated s ix sub = false →
      rowHere (taken s) ix sub = some r → ty = r.ty → r.ty < 11 → value.length = typeSize r.ty → (r.ty = 1 → leNat value ≤ 1) →
      rngOk r (leNat value) = true → isPath sub = false →
      (members s (imageGroup ix) ≠ [] → (∃ n ∈ members s (imageGroup ix), memberStatus (taken s) sub v n ≠ stOK) →
        ∃ t, exec (.groupWrite lvl g sub ty value) s = .next t
          ∧ t = { answered s stGroup with net := { (answered s stGroup).net with gres := t.net.gres } }
          ∧ (tget {} t.net.gres (imageGroup ix)).failPort ∈ members s (imageGroup ix)
          ∧ (tget {} t.net.gres (imageGroup ix)).failStatus = memberStatus (taken s) sub v (tget {} t.net.gres (imageGroup ix)).failPort
          ∧ (tget {} t.net.gres (imageGroup ix)).written = [])
      ∧ ((∀ n ∈ members s (imageGroup ix), memberStatus (taken s) sub v n = stOK) →
        let base := answered s stOK
        let told := if sub = 1 then forAll (members s (imageGroup ix)) (fun s n => queueCmd s n v) base else base
        ∃ gres, exec (.groupWrite lvl g sub ty value) s = .next (sendCtrl { told with net := { base.net with
            gres := gres, pend := s.net.pend ++ [⟨ix, sub, v, skipNow s⟩] } } (.command ix sub v))
          ∧ (tget {} gres (imageGroup ix)).failPort = 0xFFFF ∧ (tget {} gres (imageGroup ix)).target = sub
          ∧ (tget {} gres (imageGroup ix)).applySeam = s.wheel.seam + BitVec.ofNat 32 (1 + skipNow s)))

/-! ### Pattern loading, swaps and armed changes (05) -/

/-- A load starts at LOAD_START and ends with the first failing check of the table or accepted: READY in the shadow for
a hitless load, awaiting the halt for a RESTART load. An accepted image has every section whole and in its place, a
signature under the key that its STOCK bit asks for, and the modules of the catalogue; hitless, it has the running
timebase and PERSIST_ID. Rests on R121 to R123, R129 to R131, R134, R142. -/
def Obligations.LoadsAreCheckedInOrder : Prop :=
  (∀ (s : State) (lvl : Level) (v : Byte), Admits s lvl 0x2101 3 v.toNat →
    let restart := latest s 0x2101 2 == 1
    (v = 0 → exec (.loadStart lvl v) s = .next (answered s stOK))
    ∧ (v ≠ 0 → s.pat.shadowState = 2 → exec (.loadStart lvl v) s = .next (answered s stBusy))
    ∧ (v ≠ 0 → s.pat.shadowState ≠ 2 → exec (.loadStart lvl v) s = .next (sendCtrl { answered s stOK with
        pat := { s.pat with
          loading := some (latest s 0x2101 1, restart), loadResult := 0xFF, loadDetail := 0,
          shadowState := if restart then s.pat.shadowState else 0 } } (.command 0x2101 3 v.toNat))))
  ∧ (∀ (s : State) (img : PatImg) (slot : Nat) (restart : Bool), collarRuns s = true → s.pat.p1 = none →
    s.pat.loading = some (slot, restart) → (restart = false ∨ s.pat.activeSlot ≠ 0xFF) →
    (∀ f, loadFault s img (!restart) = some f → ∃ w : Word,
      exec (.loadChecksComplete img) s = .next { s with draws := s.draws + 1, pat := { s.pat with
        loading := none, p1 := none, loadResult := f.code, loadDetail := w,
        shadowState := if restart then s.pat.shadowState else 0 } }
      ∧ (∀ d, f.low = some d → w.toNat % 65536 = d % 65536)
      ∧ ∀ k, f.sect = some k → k < 65536 → w.toNat / 65536 = k)
    ∧ (loadFault s img (!restart) = none → restart = true → exec (.loadChecksComplete img) s = .next { s with
        pat := { s.pat with
          loading := none, loadResult := 0, loadDetail := 0, shadowSlot := slot, shadow := img, shadowState := 0,
          restartPend := true, restartSkip := skipNow s },
        wheel := { s.wheel with newBase := if img.w = s.wheel.w ∧ img.l = s.wheel.l then none else some (img.w, img.l) } })
    ∧ (loadFault s img (!restart) = none → restart = false → ∃ t, exec (.loadChecksComplete img) s = .next t
        ∧ t = { s with arr := { s.arr with imemShadow := t.arr.imemShadow }, pat := { s.pat with
          loading := none, loadResult := 0, loadDetail := 0, shadowSlot := slot, shadow := img, shadowState := 1, readBack := false } }))
  ∧ ∀ (s : State) (img : PatImg) (hitless : Bool),
    (img.magic ≠ 0x31544150 ∨ img.format ≠ 1 ∨ img.headerSize ≠ 0x40 ∨ crc32 (headerBytes img) ≠ img.headerCrc →
        loadFault s img hitless = some { code := 0x01 })
    ∧ (img.magic = 0x31544150 → img.format = 1 → img.headerSize = 0x40 → crc32 (headerBytes img) = img.headerCrc →
        8388608 < img.imageSize → loadFault s img hitless = some { code := 0x02 })
    ∧ (loadFault s img hitless = none →
        (∀ x ∈ img.sections, crc32 x.data = x.crc ∧ x.offset % 16 = 0 ∧ 64 ≤ x.offset
          ∧ x.offset + x.data.length + 96 ≤ img.imageSize)
        ∧ img.sigKey = some img.keySlot ∧ img.keySlot ≤ 4 ∧ (img.stock = true ↔ img.keySlot = 0)
        ∧ (img.keySlot ≠ 0 → tget [] s.net.imageKeys img.keySlot ≠ [])
        ∧ legalW img.w ∧ 512 ≤ img.l ∧ img.l ≤ 4096 ∧ img.l % 64 = 0 ∧ img.seedRounds ≤ 64
        ∧ (∀ e < 1024, bankCrc (engWords img e) = recordedCrc img e)
        ∧ (∀ m ∈ img.modules, m.version = Config.moduleVersion m.ident ∧ m.digest = Config.moduleDigest m.ident)
        ∧ (hitless = true → img.w = s.wheel.w ∧ img.l = s.wheel.l ∧ img.persistId = s.pat.run.persistId))

/-- COMMIT makes a READY shadow PENDING for the seam after next; the interval before writes 32 of the new pattern's
words an engine and round and, before round 1,008, reads the shadow banks back, FAILED with SWAP_VERIFY on a mismatch;
the swap exchanges banks and tables and leaves every word that is no parameter's target; after the last seed round a
Sleeve runs its round body. Rests on R125, R132 to R134. -/
def Obligations.CommitsStageVerifyAndSwap : Prop :=
  (∀ (s : State) (lvl : Level) (v : Byte), Admits s lvl 0x2101 6 v.toNat →
    (v = 0 → exec (.commit lvl v) s = .next (answered s stOK))
    ∧ (v ≠ 0 → s.pat.shadowState = 2 → exec (.commit lvl v) s = .next (answered s stBusy))
    ∧ (v ≠ 0 → s.pat.shadowState ≠ 1 → s.pat.shadowState ≠ 2 → exec (.commit lvl v) s = .next (answered s stState))
    ∧ (v ≠ 0 → s.pat.shadowState = 1 → exec (.commit lvl v) s = .next (sendCtrl { answered s stOK with
        pat := { s.pat with
          shadowState := 2, readBack := false, commitAt := s.wheel.seam + (if s.wheel.closed then 3 else 2) } }
        (.command 0x2101 6 v.toNat))))
  ∧ (∀ s : State, s.pat.shadowState = 2 → s.wheel.seam + 1 = s.pat.commitAt →
    (s.wheel.ris ≤ 1022 →
      let now (e : Nat) := ((stagedWords s.pat.shadow e).drop (32 * s.wheel.ris)).take 32
      ∃ t, exec .commitStaging s = .next t
      ∧ t = { s with arr := { s.arr with dmem := t.arr.dmem, upsets := t.arr.upsets }, pat := { s.pat with staged := true } }
      ∧ ∀ e < 1024, ∀ k < 1024,
          wordAt t.arr.dmem (4096 * e + 4 * k) = (if k ∈ now e then stagedValue s e k else wordAt s.arr.dmem (4096 * e + 4 * k))
          ∧ upsetAt t (dmemKey e k) = if k ∈ now e then 0 else upsetAt s (dmemKey e k))
    ∧ (1008 ≤ s.wheel.ris → exec .shadowReadback s = .next s)
    ∧ (s.pat.readBack = false → s.wheel.ris < 1008 →
        (∀ e < 1024, bankCrc (bankWords s.arr.imemShadow e) = recordedCrc s.pat.shadow e) →
        exec .shadowReadback s = .next { s with pat := { s.pat with readBack := true } })
    ∧ (s.pat.readBack = false → s.wheel.ris < 1008 →
        ∀ e < 1024, bankCrc (bankWords s.arr.imemShadow e) ≠ recordedCrc s.pat.shadow e →
        exec .shadowReadback s = .next { s with pat := { s.pat with
          shadowState := 3, loadResult := 0x25, bound := false, readBack := false } }))
  ∧ (∀ s : State, let t := swapPattern s
      t.arr.imem = s.arr.imemShadow ∧ t.arr.imemShadow = s.arr.imem ∧ t.pat.run = s.pat.shadow
        ∧ t.pat.activeSlot = s.pat.shadowSlot
      ∧ (∀ e k, k < 1024 → (∀ p ∈ s.pat.shadow.params, ∀ x ∈ p.targets, x.2 < 1024 ∧ x ≠ (e, k)) →
          wordAt t.arr.dmem (4096 * e + 4 * k) = wordAt s.arr.dmem (4096 * e + 4 * k))
      ∧ t.pat.shadowState = 0 ∧ t.pat.commitSeam = s.wheel.seam ∧ t.links = s.links ∧ t.ctls = s.ctls ∧ t.wheel = s.wheel)
  ∧ ∀ (s : State) (sl : SleeveId), (sleeve s sl).seedLeft = 1 → ∃ t, exec (.seedRounds sl) s = .next t
      ∧ t = { s with arr := { s.arr with sleeves := t.arr.sleeves } }
      ∧ sleeve t sl = { sleeve s sl with seedLeft := 0, seedMute := false } ∧ ∀ k, k ≠ sl.val → sleeve t k = sleeve s k

/-- A write of an exported parameter within its range waits for its seam, BUSY while a commit is pending; round 1,023 of
the interval writes a waiting value into its target words and nothing else. That an I8 or I16 fills its words with its
sign is the model's reading. Rests on log entry 8; R127, R128, R134. -/
def Obligations.ExportedParametersReachTheirWords : Prop :=
  (∀ (s : State) (lvl : Level) (item : WriteItem) (p : Param) (r : Row), Serves s → 0x5000 ≤ item.index → item.index ≤ 0x5FFF →
    paramAt s item.index item.sub = some p → accessStatus (taken s) lvl item.index item.sub true = stOK →
    rowHere (taken s) item.index item.sub = some r → item.ty = r.ty → r.ty < 11 → item.value.length = typeSize r.ty →
    (r.ty = 1 → leNat item.value ≤ 1) → rngOk r (leNat item.value) = true → gated s item.index item.sub = false →
    let v := leNat item.value
    (paramInRange p v = false → exec (.exportedParameter lvl item) s = .next (answered s stRange))
    ∧ (paramInRange p v = true → s.pat.shadowState = 2 → exec (.exportedParameter lvl item) s = .next (answered s stBusy))
    ∧ (paramInRange p v = true → s.pat.shadowState ≠ 2
      → exec (.exportedParameter lvl item) s = .next (sendCtrl { answered s stOK with
        pat := { s.pat with params := s.pat.params ++ [⟨p.index, p.sub, v, skipNow s, s.net.msgNo + 1⟩] } }
        (.command p.index p.sub v))))
  ∧ ∀ s : State, s.wheel.ris = 1023 →
    (s.pat.paramsDone = true → exec .parameterApply s = .next s)
    ∧ ∀ (w : ParamWrite) (p : Param), s.pat.paramsDone = false → s.pat.params.filter (fun x => x.skip == 0) = [w] →
      paramAt s w.index w.sub = some p → (∀ e < 1024, (p.targets.filter fun t => t.1 == e).length ≤ 32) →
      (∀ t ∈ p.targets, t.2 < 1024) →
      ∃ t, exec .parameterApply s = .next t
        ∧ t = { s with arr := { s.arr with dmem := t.arr.dmem, upsets := t.arr.upsets }, pat := { s.pat with
            paramsDone := true, params := s.pat.params.filter (fun x => x.skip != 0), paramVals := t.pat.paramVals } }
        ∧ (∀ e k, k < 1024 → wordAt t.arr.dmem (4096 * e + 4 * k)
            = if (e, k) ∈ p.targets then paramWord p.ty w.value else wordAt s.arr.dmem (4096 * e + 4 * k))
        ∧ tfind t.pat.paramVals (okey w.index w.sub) = some w.value
        ∧ ∀ k, k ≠ okey w.index w.sub → tfind t.pat.paramVals k = tfind s.pat.paramVals k

/-- An armed change is decided at seam S + 2: committed when every involved port has acknowledged or partial commits are
allowed, aborted otherwise; four rounds after the commit seam each port gets its outcome, and a port that failed or said
nothing enters HEM alone. Rests on R137, R139, R141. A write of a far-end path object to a port that is not live is sent
at once as a CFG_WRITE; to a live port it is armed under the next identity, or BUSY while another change is under way; a
group write arms its live members together (R135, R194, R195, R342). What is sent is offered to queue 0, which takes it
when it has room. Rests on R178. -/
def Obligations.ArmedChangesAreDecidedAndReported : Prop :=
  ((∀ s : State, s.arm.state = 1 → s.wheel.seam = s.arm.seam + 2 → s.wheel.ris = 0 →
      ((∀ n ∈ s.arm.involved, n ∈ s.arm.acked) ∨ cfg s 0x2102 4 = 1 →
        exec .armDecision s = .next { s with arm := { s.arm with state := 2, since := 0, committing := false } })
      ∧ ((∃ n ∈ s.arm.involved, n ∉ s.arm.acked) → cfg s 0x2102 4 ≠ 1 → ∃ t, exec .armDecision s = .next t
          ∧ t = { s with
              arm := { s.arm with state := 3, hdrLeft := 16, last := 3, queued := false, group := none, outcome := t.arm.outcome },
              pat := if s.pat.bound then { s.pat with bound := false, shadowState := 1 } else s.pat }
          ∧ ∀ n ∈ s.arm.involved, tfind t.arm.outcome n = some ((if n ∈ s.arm.acked then 0x80 else 0) + 3)))
    ∧ ∀ s : State, s.arm.state = 2 → s.arm.last = 0 → 4 ≤ s.arm.since →
      let code (n : Nat) := tget 0 s.arm.reported n
      let failed (n : Nat) : Prop := n ∈ s.arm.involved ∧ n ∈ s.arm.acked ∧ code n ≠ 3 ∧ code n ≠ 4
      ∃ t, exec .armApplyDeadline s = .next t
        ∧ t = { s with arm := { s.arm with last := t.arm.last, outcome := t.arm.outcome }, links := t.links, ctls := t.ctls, shelf := t.shelf, cfg := t.cfg }
        ∧ MarginOnly s.cfg t.cfg
        ∧ (∀ n ∈ s.arm.involved, n ∈ s.arm.acked →
            tfind t.arm.outcome n = some (if code n = 3 then 0x81 else if code n = 4 then 0x82 else 0x85))
        ∧ ((∀ n ∈ s.arm.involved, n ∈ s.arm.acked ∧ (code n = 3 ∨ code n = 4)) → t.arm.last = 1)
        ∧ ((∃ n, failed n) → t.arm.last = 2)
        ∧ (∀ n, failed n → (ctl t n).armHold = true ∧ (canHem (link s n).state = true → (link t n).state = .hem)
            ∧ (canHem (link s n).state = false → (link t n).state = (link s n).state))
        ∧ ∀ n, ¬failed n → link t n = link s n ∧ ctl t n = ctl s n)
  ∧ ((∀ (s : State) (lvl : Level) (n : PortId) (f : FePath) (w : Word), Admits s lvl (0x3100 + n) (pathSub f) w.toNat →
      relPort (taken s) n (pathSub f) w.toNat = stOK →
      let addr := 0x0100 + (pathSub f - 9)
      let t := (link s n).state
      let told (u : State) := sendCtrl u (.config (0x3100 + n) (pathSub f) w.toNat)
      (t = .absent ∨ t = .training →
        exec (.farEndPathWrite lvl n f w) s = .next (told (setCfg (answered s stOK) (0x3100 + n) (pathSub f) w.toNat)))
      ∧ (t = .ready ∨ t = .discovered ∨ t = .hem ∨ t = .lockout → commands s = true →
        ∃ u, exec (.farEndPathWrite lvl n f w) s = .next (told u)
          ∧ u = { setCfg (answered s stOK) (0x3100 + n) (pathSub f) w.toNat with links := u.links }
          ∧ cfg u (0x3100 + n) (pathSub f) = w.toNat ∧ (∀ k, k ≠ n.val → link u k = link s k)
          ∧ (link u n).mbx = offer (poolBytes s) (link s n).mbx 0
              (message 0x01 (link s n).tag (leBytes 2 addr ++ leBytes 2 1 ++ wordBytes w)))
      ∧ (isLive t = true → armFree s = false → exec (.farEndPathWrite lvl n f w) s = .next (answered s stBusy))
      ∧ (isLive t = true → armFree s = true →
          let ident : Byte := if s.arm.ident = 255 then 1 else s.arm.ident + 1
          ∃ u, exec (.farEndPathWrite lvl n f w) s = .next (told u) ∧ u = { answered s stOK with links := u.links, arm := u.arm }
          ∧ u.arm = { s.arm with
              ident := ident, queued := true, skip := skipNow s, involved := [n.val], acked := [], reported := [], outcome := [],
              last := 0, values := [(n.val, pathSub f, w.toNat)], group := none }
          ∧ (∀ k, k ≠ n.val → link u k = link s k)
          ∧ (link u n).mbx = offer (poolBytes s) (link s n).mbx 0
              (message 0x03 (link s n).tag ([ident, 0, 0, 0] ++ leBytes 2 addr ++ leBytes 2 1 ++ wordBytes w))))
    ∧ ∀ (s : State) (lvl : Level) (g : Option GroupId) (sub ty : Nat) (value : List Byte) (r : Row), Serves s →
      let ix := match g with | some k => 0x3300 + k.val | none => 0x33FF
      let v := dropReserved ix sub (leNat value)
      let ms := members s (imageGroup ix)
      accessStatus (taken s) lvl ix sub true = stOK → paramAt s ix sub = none → gated s ix sub = false →
      rowHere (taken s) ix sub = some r → ty = r.ty → r.ty < 11 → value.length = typeSize r.ty → (r.ty = 1 → leNat value ≤ 1) →
      rngOk r (leNat value) = true → isPath sub = true → (∀ n ∈ ms, relPort (taken s) n sub v = stOK) →
      ((∃ n ∈ ms, isLive (link s n).state = true) → armFree s = false →
        exec (.groupWrite lvl g sub ty value) s = .next (answered s stBusy))
      ∧ ((∃ n ∈ ms, isLive (link s n).state = true) → armFree s = true →
        ∃ u, exec (.groupWrite lvl g sub ty value) s = .next (sendCtrl u (.command ix sub v))
          ∧ (∀ n, n ∈ u.arm.involved ↔ n ∈ ms ∧ isLive (link s n).state = true) ∧ u.arm.queued = true
          ∧ u.arm.group = some (imageGroup ix) ∧ (∀ x ∈ u.arm.values, x.2 = (sub, v))
          ∧ (tget {} u.net.gres (imageGroup ix)).written = ms)
      ∧ ((∀ n ∈ ms, isLive (link s n).state = false) →
        ∃ u, exec (.groupWrite lvl g sub ty value) s = .next (sendCtrl u (.command ix sub v))
          ∧ u.arm = s.arm ∧ (∀ n ∈ ms, n < 256 → cfg u (0x3100 + n) sub = v)
          ∧ (tget {} u.net.gres (imageGroup ix)).written = ms))

/-! ### Stage links (06): the controller's side -/

/-- A port takes one uplink, or its absence, in a round: outside the window or without one the round counts as missing,
with code groups that do not spell it or a wrong CRC as bad, and a valid one ends the run of missing rounds and brings
its samples. Rests on R57, R58, R145 to R147, R151, R167, R192. -/
def Obligations.UplinksAreTakenOnceInARound : Prop :=
  ∀ (s : State) (n : PortId) (f : UpFrame) (outside : Bool),
    let l := link s n
    let missed := Nat.min (l.missed + 1) 8191
    let b := upBytes (mboxBytes s.wheel.w) f.header f.rt f.mbx
    (upGood s.wheel.w f = true ↔ spells f.line (b ++ wordBytes f.crc) = true ∧ f.crc = crc32 b)
    ∧ (takesFrame s n = false → exec (.uplinkFrame n f) s = .next s ∧ exec (.noFrame n outside) s = .next s)
    ∧ (takesFrame s n = true → counting l.state = true →
      (∃ t, exec (.noFrame n outside) s = .next t ∧ OnlyLink s t n ∧ link t n = { l with
          taken := true, frameOk := false, crcErr := false, noFrame := true, missed := missed,
          missedMax := Nat.max l.missedMax missed, framesMissing := l.framesMissing + 1,
          sticky := l.sticky ||| (if outside then 0x60 else 0x20) })
      ∧ (f.delayNs < 108 ∨ 164 < f.delayNs → exec (.uplinkFrame n f) s = exec (.noFrame n true) s)
      ∧ (108 ≤ f.delayNs → f.delayNs ≤ 164 → upGood s.wheel.w f = false → ∃ t, exec (.uplinkFrame n f) s = .next t
        ∧ OnlyLink s t n
          ∧ link t n = { l with
            taken := true, frameOk := false, crcErr := true, noFrame := false, missed := missed,
            missedMax := Nat.max l.missedMax missed, framesBad := l.framesBad + 1, sticky := l.sticky ||| 0x30 }))
    ∧ (takesFrame s n = true → 108 ≤ f.delayNs → f.delayNs ≤ 164 → upGood s.wheel.w f = true → l.state ≠ .training → ∃ t,
        exec (.uplinkFrame n f) s = .next t ∧ t = { s with
          links := t.links, ctls := t.ctls, shelf := t.shelf, recorder := t.recorder, arm := t.arm, cfg := t.cfg }
        ∧ MarginOnly s.cfg t.cfg
        ∧ (link t n).taken = true ∧ (link t n).frameOk = true ∧ (link t n).crcErr = false ∧ (link t n).noFrame = false
        ∧ (link t n).missed = 0 ∧ (link t n).upRt = sliceB f.rt 0 40 ∧ (link t n).framesOk = l.framesOk + 1
        ∧ (link t n).feStatus = BitVec.ofNat 32 (leAt f.rt 0 4)
        ∧ (ctl t n).samples = (List.range 12).map (fun k => BitVec.ofNat 16 (leAt f.rt (4 + 2 * k) 2))
        ∧ (hasBit (link t n).sticky 7 = true ↔ hasBit l.sticky 7 = true ∨ f.header.toNat / 2 ^ 22 % 64 ≠ s.wheel.round.toNat % 64)
        ∧ (hasBit f.header 20 = true → canHem l.state = true ∨ l.state = .hem → l.fwLoad ≠ 2 →
            (link t n).state = .lockout ∧ hasBit (link t n).sticky 17 = true)
        ∧ ∀ m, m ≠ n → m ≠ partner n → link t m = link s m ∧ ctl t m = ctl s m)

/-- LINK_LOST comes after 4 + COAST_ROUNDS missing rounds, puts the port into HEM under a hold of its own and has it
trained again; a far end that restarts after FW_ACTIVATE is trained again without it. Rests on R167, R185, R294.
Training goes by waves of 32 ports and then port by port; a step that times out leaves the port ABSENT with TRAIN_FAIL;
a restart of a lost far end that does not come back in time fails its firmware load; in the 8th round since its sending
the oldest unacknowledged segment is due for resending. Rests on R168, R169, R172, R175, R185. Training: IDENT takes the
identity after four equal copies and derives TICK_ADVANCE from the mean delay; the port completes training in DISCOVERED
or, under a hold, in HEM, and with FW_FAIL and LINK_LOST when a load has not brought its version. That a round without a
frame ends the run of CHECK alone is the model's reading. Rests on log entry 22; R169 to R171, R185. -/
def Obligations.PortsAreTrainedAndLostLinksHeld : Prop :=
  (∀ (s : State) (n : PortId), counting (link s n).state = true → (link s n).lost = false →
      ((link s n).missed < 4 + (link s n).coastSent ∨ (link s n).fwLoad = 2 → exec (.linkLost n) s = .next s)
      ∧ (4 + (link s n).coastSent ≤ (link s n).missed → (link s n).fwLoad ≠ 2 → ∃ t, exec (.linkLost n) s = .next t ∧ OnlyPorts s t
        ∧ PortsStand s t [n.val]
          ∧ EntersHem s t n ∧ (link t n).lost = true ∧ (link t n).sticky = (link s n).sticky ||| 1 ∧ (ctl t n).lostHold = true
          ∧ portHeld t n = true ∧ hemBit t n = true))
  ∧ ((∀ s : State, linksRun s = true → s.boot.waveOn = false → s.boot.wave < 8 → ∃ t, exec .trainingWave s = .next t
        ∧ t = { s with links := t.links, ctls := t.ctls, shelf := t.shelf, cfg := t.cfg,
                        boot := { s.boot with wave := s.boot.wave + 1, waveOn := true } }
        ∧ MarginOnly s.cfg t.cfg
        ∧ ∀ n, (n / 32 = s.boot.wave ∧ enabledPort s n = true ∧ (link s n).state = .absent ∧ (link s n).lost = false →
              (link t n).state = .training ∧ (link t n).step = 1 ∧ (link t n).driving = !s.boot.highZ ∧ (link t n).stepRounds = 0
              ∧ (link t n).tickAdvance = 0)
          ∧ (¬(n / 32 = s.boot.wave ∧ enabledPort s n = true ∧ (link s n).state = .absent ∧ (link s n).lost = false) →
              link t n = link s n ∧ ctl t n = ctl s n))
    ∧ (∀ (s : State) (n : PortId), linksRun s = true → wavesDone s = true → nextTraining s = some n.val →
        (allPorts.filter fun k => (link s k).state == .training).length < 32 → ∃ t, exec (.retrainStart n) s = .next t
        ∧ t = { s with links := t.links, ctls := t.ctls, shelf := t.shelf, cfg := t.cfg, boot := { s.boot with lastTrain := some n.val } }
        ∧ MarginOnly s.cfg t.cfg ∧ PortsStand s t [n.val] ∧ (link t n).state = .training ∧ (link t n).step = 1
        ∧ (link t n).driving = !s.boot.highZ)
    ∧ (∀ (s : State) (n : PortId), (link s n).state = .training →
        ((link s n).stepRounds < (if (link s n).step = 1 then 128 else if (link s n).step = 4 then 64 else 32) →
          exec (.trainingTimeout n) s = .next s)
        ∧ ((if (link s n).step = 1 then 128 else if (link s n).step = 4 then 64 else 32) ≤ (link s n).stepRounds →
          ∃ t, exec (.trainingTimeout n) s = .next t ∧ OnlyPorts s t ∧ PortsStand s t [n.val] ∧ (link t n).state = .absent
            ∧ (link t n).driving = false ∧ (link t n).step = 0 ∧ (link t n).sticky = (link s n).sticky ||| 2))
    ∧ (∀ (s : State) (n : PortId), (link s n).fwLoad = 2 →
        ((link s n).fwTime < 1 / 10 → exec (.fwRetrainTimeout n) s = .next s)
        ∧ (1 / 10 ≤ (link s n).fwTime → ∃ t, exec (.fwRetrainTimeout n) s = .next t ∧ OnlyPorts s t ∧ PortsStand s t [n.val]
          ∧ EntersHem s t n ∧ (link t n).fwLoad = 0 ∧ (link t n).fwDone = true ∧ (link t n).lost = true
        ∧ (link t n).sticky = (link s n).sticky ||| 0x201))
    ∧ ∀ (s : State) (n : PortId) (g : Seg) (rest : List Seg), commands s = true → (link s n).mbx.sent = g :: rest →
        (7 ≤ g.age → (link s n).taken = true → 0 < (link s n).mbx.redo → ∃ t, exec (.mailboxResend n) s = .next t ∧ OnlyLink s t n
          ∧ link t n = { link s n with mbx := { (link s n).mbx with redo := 0 } })
        ∧ (g.age < 7 ∨ (link s n).taken = false → exec (.mailboxResend n) s = .next s))
  ∧ (∀ (s : State) (n : PortId) (f : UpFrame), takesFrame s n = true → 108 ≤ f.delayNs → f.delayNs ≤ 164
      → upGood s.wheel.w f = true →
      (link s n).state = .training →
      let l := link s n
      let ident := sliceB f.rt 0 20
      let obeyed (t : State) : Prop := (link t n).taken = true ∧ (link t n).frameOk = true ∧ (link t n).missed = 0
        ∧ (link t n).framesOk = l.framesOk + 1
      (l.step = 1 → ∃ t, exec (.uplinkFrame n f) s = .next t ∧ OnlyLink s t n ∧ obeyed t ∧ (link t n).step = 2
        ∧ (link t n).state = .training)
      ∧ (l.step = 2 → ∃ t, exec (.uplinkFrame n f) s = .next t ∧ OnlyLink s t n ∧ obeyed t ∧ (link t n).state = .training
          ∧ let run := if ident = l.identity then l.stepRun + 1 else 1
            (run < 4 → (link t n).step = 2 ∧ (link t n).stepRun = run ∧ (link t n).identity = ident
              ∧ (link t n).delaySum = l.delaySum + f.delayNs ∧ (link t n).delayCount = l.delayCount + 1)
            ∧ (4 ≤ run → (link t n).step = 3 ∧ (link t n).uid = BitVec.ofNat 64 (leAt ident 0 8)
              ∧ (link t n).cls = (ident[8]?).getD 0 ∧ (link t n).fwVersion = BitVec.ofNat 32 (leAt ident 0x0C 4)
              ∧ (link t n).coastSent = pcfg s n 0x21
              ∧ (link t n).tickAdvance = Nat.min ((((l.delaySum + f.delayNs : Nat) : Rat) / ((l.delayCount + 1 : Nat) : Rat) - 116) / 2 + 1 / 2).floor.toNat 20))
      ∧ (l.step = 3 → ∃ t, exec (.uplinkFrame n f) s = .next t ∧ OnlyLink s t n ∧ obeyed t ∧ (link t n).state = .training
          ∧ let ok := leAt f.rt 0x14 1 = n.val ∧ leAt f.rt 0x16 2 = l.tickAdvance ∧ leAt f.rt 0x18 2 = l.coastSent
            (ok → l.stepRun = 3 → (link t n).step = 4) ∧ (ok → l.stepRun < 3 → (link t n).step = 3
              ∧ (link t n).stepRun = l.stepRun + 1)
            ∧ (¬ok → (link t n).step = 3 ∧ (link t n).stepRun = 0))
      ∧ (l.step = 4 → hasBit f.header 21 = true → 31 ≤ l.stepRun →
          ((l.fwLoad = 2 → l.fwVersion = l.fwImage) → ∃ t, exec (.uplinkFrame n f) s = .next t
            ∧ (link t n).step = 0 ∧ (link t n).missed = 0 ∧ (link t n).lost = false ∧ PortsStand s t [n.val]
            ∧ (heldNoStart s n = true → (link t n).state = .hem)
            ∧ (heldNoStart s n = false → (link t n).state = .discovered ∨ (link t n).state = .ready)
            ∧ (l.fwLoad = 2 → (link t n).fwLoad = 0 ∧ (link t n).fwDone = true))
          ∧ (l.fwLoad = 2 → l.fwVersion ≠ l.fwImage → ∃ t, exec (.uplinkFrame n f) s = .next t
            ∧ (link t n).step = 0 ∧ (link t n).state = .hem ∧ (link t n).fwLoad = 0 ∧ (link t n).fwDone = true
            ∧ (link t n).lost = true ∧ hasBit (link t n).sticky 9 = true ∧ PortsStand s t [n.val]))
      ∧ ∀ outside : Bool, ∃ t, exec (.noFrame n outside) s = .next t ∧ OnlyLink s t n
          ∧ link t n = { l with
              taken := true, frameOk := false, crcErr := false, noFrame := true, sticky := l.sticky ||| (if outside then 0x40
                else 0),
              stepRun := if l.step = 4 then 0 else l.stepRun })

/-! ### Far ends (06) -/

/-- What a downlink frame does at a far end: a bad one breaks the run of TRAIN frames; a TRAIN frame puts its link into
LISTEN and, on the link obeyed, the stage into the hem state; the first RUN frame after CHECK adopts the parameters of
training; a RUN frame with AUTH on the obeyed link carries command, HEM, arm state and mailbox; a frame of the other
unit is only noted. Which link gives SEQ and DL_OK while none is obeyed is the model's reading. Rests on log entry 22;
R154, R160 to R166, R169, R173. -/
def Obligations.FarEndsFollowTheFramesTheyObey : Prop :=
  ∀ (s : State) (n : PortId) (u : Bool) (d : DownFrame),
    let f := farEnd s n
    let good := downGood u d
    ∃ t, exec (.downlinkFrame n u d) s = .next t ∧ OnlyFarEnd s t n
      ∧ let g := farEnd t n
        (g.samples, g.coastRounds, g.fastLimit, g.fastMode, g.fastLatched, g.ovLatched, g.fwVersion)
          = (f.samples, if good && !d.train && feListen f u && feStep f u == 4 then f.newCoast else f.coastRounds,
             f.fastLimit, f.fastMode, f.fastLatched, f.ovLatched, f.fwVersion)
        ∧ (good = false → feTrains g u = (if 8 ≤ feTrains f u then feTrains f u else 0)
            ∧ (g.obeys, g.inHem, g.cmd0, g.cmd1, g.staged, g.clearRun, g.auth0, g.auth1, g.seq, g.dlOk)
            = (f.obeys, f.inHem, f.cmd0, f.cmd1, f.staged, f.clearRun, f.auth0, f.auth1, f.seq, f.dlOk))
        ∧ (good = true → d.auth = true → (if u then g.auth1 else g.auth0) = true)
        ∧ (good = true → feTimes f u = true → g.seq = d.seq ∧ g.dlOk = true)
        ∧ (good = true → feTimes f u = false → g.seq = f.seq ∧ g.dlOk = f.dlOk)
        ∧ (good = true → d.train = true → feListen g u = true ∧ feStep g u = leAt d.rt 1 1 ∧ feTrains g u = feTrains f u + 1
            ∧ (3 ≤ leAt d.rt 1 1 → g.newAdvance = leAt d.rt 2 2 ∧ g.newCoast = leAt d.rt 4 2)
            ∧ (feObeys f u = true → g.inHem = true ∧ g.throttle = true ∧ g.pfw = true
                ∧ (d.auth = true → g.inCoast = false ∧ g.missRun = 0))
            ∧ (feObeys f u = false → g.inHem = f.inHem ∧ g.throttle = f.throttle ∧ g.pfw = f.pfw))
        ∧ (good = true → d.train = false → feListen f u = true → feStep f u ≠ 4 →
            (g.inHem, g.cmd0, g.cmd1, g.staged, g.mbx.inbox) = (f.inHem, f.cmd0, f.cmd1, f.staged, f.mbx.inbox)
              ∧ feListen g u = true)
        ∧ (good = true → d.train = false → feListen f u = true → feStep f u = 4 → feListen g u = false
            ∧ g.tickAdvance = f.newAdvance ∧ feTrains g u = 0)
        ∧ (good = true → d.train = false → feListen f u = false → feObeys f u = false →
            (g.inHem, g.staged, g.clearRun) = (f.inHem, f.staged, f.clearRun)
            ∧ (d.auth = true → (if u then g.cmd1 else g.cmd0) = some (sliceB d.rt 0 24)))
        ∧ (good = true → d.train = false → feListen f u = false → feObeys f u = true → d.auth = false →
            (g.cmd0, g.cmd1, g.staged) = (f.cmd0, f.cmd1, f.staged) ∧ g.clearRun = 0 ∧ g.inHem = (f.inHem || d.hem))
        ∧ (good = true → d.train = false → feListen f u = false → feObeys f u = true → d.auth = true →
            (if u then g.cmd1 else g.cmd0) = some (sliceB d.rt 0 24) ∧ g.seq = d.seq ∧ g.dlOk = true ∧ g.inCoast = false
            ∧ g.missRun = 0 ∧ (d.hem = true → g.inHem = true ∧ g.clearRun = 0 ∧ g.throttle = true ∧ g.pfw = true)
            ∧ (d.hem = false → g.inHem = f.inHem ∧ g.clearRun = f.clearRun + 1)
            ∧ g.mbx.inbox = (recvMbox true (fun _ => false) f.mbx d.mbx s.wheel.round).inbox
            ∧ (d.armState = 3 → g.staged = none)
            ∧ ∀ x, f.staged = some x →
              (d.armState = 1 → g.staged = (if d.armId = x.1 then some x else none))
              ∧ (d.armState = 2 → d.armId = x.1 → f.commitSeen = false →
                  g.staged = some x ∧ g.commitNext = true ∧ g.commitLate = decide (d.seq ≠ 63)))

/-- The local tick of a far end whose obeyed link brought its frame: the hem state ends after four frames with HEM = 0,
the command of the frame applies outside it, the samples are those of the tick, clamped to their codes, and the causes
that its class reports set their STATUS bits; four rounds without a frame start COAST, in which pulses above the ILIMIT
of the last valid frame end, and COAST expires into the hem state after COAST_ROUNDS. Rests on R12, R157, R158, R161 to
R165, R173, R191, R193. The latches of a far end and its restart: FAST_TRIP latches where FAST_MODE says so, the
over-voltage latch is a TRAY_IBC's alone and outlives a restart; LOCKOUT is either latch; CLEAR_STATUS clears what has
no cause any more; either ends conduction, and the over-voltage latch turns the low-side switches on. Rests on R154,
R158, R173, R202, R209, R211, R451. -/
def Obligations.FarEndTicksLatchesAndRestart : Prop :=
  ((∀ (s : State) (n : PortId) (m : FeMeas), let f := farEnd s n
      let cls := (link s n).cls.toNat
      ∃ t, exec (.feLocalTick n m) s = .next t ∧ OnlyFarEnd { s with draws := s.draws + 1 } t n
        ∧ (farEnd t n).cut = false ∧ (farEnd t n).period = m.interval ∧ (farEnd t n).dlOk = false
        ∧ (∀ i v, i < usedSamples cls → m.samples[i]? = some (.value v) →
            (farEnd t n).samples[i]? = some (BitVec.ofInt 16 (max (-32767) (min 32766 v))))
        ∧ (∀ i neg, i < usedSamples cls → m.samples[i]? = some (.over neg) →
            (farEnd t n).samples[i]? = some (if neg then 0x8000 else 0x7FFF))
        ∧ (∀ i, 1 ≤ cls → cls ≤ 6 → usedSamples cls ≤ i → i < 12 → (farEnd t n).samples[i]? = some 0)
        ∧ ((farEnd t n).pulseEnded = true ↔ f.inCoast = true ∧ f32Val (BitVec.ofNat 32 (leAt f.cmd 0x0C 4)) < m.peak))
    ∧ (∀ (s : State) (n : PortId) (m : FeMeas), let f := farEnd s n
      f.obeys = 1 → f.auth0 = true → f.auth1 = false → f.inCoast = false →
      let hem := f.inHem && !(decide (4 ≤ f.clearRun) && !f.listen0)
      ∃ t, exec (.feLocalTick n m) s = .next t ∧ OnlyFarEnd { s with draws := s.draws + 1 } t n
        ∧ (farEnd t n).inHem = hem ∧ (farEnd t n).seq = f.seq + 1 ∧ (farEnd t n).missRun = 0
        ∧ (farEnd t n).obeys = 1 ∧ (farEnd t n).auth0 = false ∧ (farEnd t n).cmd0 = none
        ∧ (farEnd t n).status = f.status ||| (m.causes &&& causeMask (link s n).cls.toNat)
        ∧ (∀ c, hem = false → f.cmd0 = some c → (farEnd t n).cmd = c ∧ (farEnd t n).throttle = (leAt c 0x12 1).testBit 0
            ∧ (farEnd t n).pfw = (leAt c 0x12 1).testBit 1)
        ∧ (hem = true ∨ f.cmd0 = none → (farEnd t n).cmd = f.cmd ∧ (farEnd t n).throttle = f.throttle ∧ (farEnd t n).pfw = f.pfw))
    ∧ (∀ (s : State) (n : PortId) (m : FeMeas), let f := farEnd s n
      f.obeys = 1 → f.auth0 = false → f.auth1 = false → f.inCoast = false → f.missRun = 3 → 1 < f.coastRounds → f.cmd0 = none →
      ∃ t, exec (.feLocalTick n m) s = .next t ∧ OnlyFarEnd { s with draws := s.draws + 1 } t n ∧ (farEnd t n).inCoast = true
        ∧ (farEnd t n).coastTicks = 1 ∧ hasBit (farEnd t n).status 4 = true ∧ (farEnd t n).cmd = f.cmd ∧ (farEnd t n).clearRun = 0)
    ∧ (∀ (s : State) (n : PortId) (m : FeMeas) (ident : Byte) (a : Nat) (ws : List Word), let f := farEnd s n
      f.staged = some (ident, a, ws) → f.commitNext = true → f.obeys = 1 → f.auth0 = true → f.auth1 = false → f.inCoast = false →
      ∃ t, exec (.feLocalTick n m) s = .next t ∧ OnlyFarEnd { s with draws := s.draws + 1 } t n ∧ (farEnd t n).staged = none
        ∧ (farEnd t n).ackId = ident
        ∧ ((feWrite (link s n).cls.toNat f a ws).2 = 0 → (farEnd t n).ackCode = if f.commitLate then 4 else 3)
        ∧ ((feWrite (link s n).cls.toNat f a ws).2 ≠ 0 → (farEnd t n).ackCode = 5 ∧ (farEnd t n).fastLimit = f.fastLimit
            ∧ (farEnd t n).fastMode = f.fastMode ∧ (farEnd t n).ovLevel = f.ovLevel ∧ (farEnd t n).ovRelease = f.ovRelease))
    ∧ (∀ (s : State) (n : PortId), let f := farEnd s n
      f.obeys ≠ 0 → f.inCoast = false → feAuth f = false → 3 ≤ f.missRun →
      ∃ t, exec (.coast n) s = .next t ∧ OnlyFarEnd s t n
        ∧ (f.coastRounds ≠ 0 → farEnd t n = { f with inCoast := true, coastTicks := 0, status := f.status ||| 0x10 })
        ∧ (f.coastRounds = 0 → (farEnd t n).inHem = true ∧ (farEnd t n).throttle = true ∧ (farEnd t n).pfw = true
          ∧ (farEnd t n).obeys = 0))
    ∧ ∀ (s : State) (n : PortId), let f := farEnd s n
      f.inCoast = true → f.coastRounds ≤ f.coastTicks → ∃ t, exec (.coastExpiry n) s = .next t ∧ OnlyFarEnd s t n
        ∧ (farEnd t n).inCoast = false ∧ (farEnd t n).inHem = true ∧ (farEnd t n).throttle = true ∧ (farEnd t n).pfw = true
        ∧ (farEnd t n).spare = 0 ∧ (farEnd t n).obeys = 0
        ∧ (f.obeys = 1 → (farEnd t n).listen0 = true) ∧ (f.obeys = 2 → (farEnd t n).listen1 = true)
        ∧ ((farEnd t n).status, (farEnd t n).cmd, (farEnd t n).staged) = (f.status, f.cmd, f.staged))
  ∧ (∀ (s : State) (n : PortId) (mask causes : Word),
      let f := farEnd s n
      (∃ t, exec (.fastTrip n) s = .next t ∧ OnlyFarEnd s t n
        ∧ farEnd t n = { f with status := f.status ||| 1, cut := true, fastLatched := f.fastLatched || f.fastMode == 1 }
        ∧ feGatesOff (farEnd t n) (link s n).cls.toNat = true
        ∧ (f.fastMode = 1 → feLockout (farEnd t n) = true))
      ∧ ((link s n).cls = 5 → ∃ t, exec (.ovLatch n) s = .next t ∧ OnlyFarEnd s t n
        ∧ farEnd t n = { f with status := f.status ||| 2, ovLatched := true } ∧ feLockout (farEnd t n) = true
        ∧ feGatesOff (farEnd t n) 5 = true ∧ feLowSide (farEnd t n) = true)
      ∧ ((link s n).cls ≠ 5 → exec (.ovLatch n) s = .next s)
      ∧ (∃ t, exec (.feRestart n) s = .next t ∧ OnlyFarEnd s t n ∧ hasBit (farEnd t n).status 5 = true
        ∧ (farEnd t n).ovLatched = f.ovLatched ∧ (farEnd t n).fastLatched = false ∧ (farEnd t n).obeys = 0
        ∧ (farEnd t n).listen0 = true ∧ (farEnd t n).listen1 = true ∧ (farEnd t n).inHem = true ∧ (farEnd t n).staged = none
        ∧ (farEnd t n).coastRounds = 32 ∧ (farEnd t n).fastLimit = none ∧ (farEnd t n).fastMode = 1)
      ∧ ∃ t, exec (.clearStatus n mask causes) s = .next t ∧ OnlyFarEnd s t n
        ∧ farEnd t n = { f with
            mbx := dropInbox 0 f.mbx, status := f.status &&& ~~~(mask &&& ~~~causes),
            fastLatched := f.fastLatched && !hasBit (mask &&& ~~~causes) 0, ovLatched := f.ovLatched && !hasBit (mask &&& ~~~causes) 1 })

/-- Configuration messages at a far end: a CFG_WRITE takes every word or none and says why by its first bad word,
OV_RELEASE below OV_LEVEL asked of the words together; a CFG_READ gives the words in effect, a CFG_STAGE is held and
acknowledged READY or REFUSED; each answer carries the TAG of its request on queue 1. Rests on R136, R178 to R180, R194.
A firmware image reaches a far end in order: begun for its own family and size, blocks without a gap and each with its
CRC, ended whole, activated by a restart into it or, where it does not start, into the image kept; every error is
reported and ends the load. Rests on R172, R173, R184. -/
def Obligations.FarEndConfigurationAndFirmware : Prop :=
  (∀ (s : State) (n : PortId) (addr count : Nat) (words : List Word) (ident : Byte),
      let f := farEnd s n
      let cls := (link s n).cls.toNat
      let tag := inTag f.mbx 0
      let sent (st : Nat) (more : List Byte) : MboxSide := enqueue (dropInbox 0 f.mbx) 1 (message 0x81 tag (leBytes 4 st ++ more))
      let new (a : Nat) (old : Word) : Word := if addr ≤ a then (words[a - addr]?).getD old else old
      let ordered := cls = 5 → f32Val (new 0x103 f.ovRelease) < f32Val (new 0x102 f.ovLevel)
      (∃ t, exec (.cfgWrite n addr words) s = .next t ∧ OnlyFarEnd s t n
        ∧ (∀ k, ∀ h : k < words.length, feCheck cls (addr + k) words[k] ≠ 0 →
            (∀ j, ∀ h : j < words.length, j < k → feCheck cls (addr + j) words[j] = 0) →
            farEnd t n = { f with mbx := sent (feCheck cls (addr + k) words[k]) [] })
        ∧ ((∀ k, ∀ h : k < words.length, feCheck cls (addr + k) words[k] = 0) →
            (¬ordered → farEnd t n = { f with mbx := sent 2 [] })
            ∧ (ordered → (farEnd t n).mbx = sent 0 []
              ∧ (∀ k, ∀ h : k < words.length, feWord n cls (feDual s n) (farEnd t n) (addr + k) = some words[k])
              ∧ ∀ a, (a < addr ∨ addr + words.length ≤ a) →
                feWord n cls (feDual s n) (farEnd t n) a = feWord n cls (feDual s n) f a)))
      ∧ (∃ t, exec (.cfgRead n addr count) s = .next t ∧ OnlyFarEnd s t n
        ∧ ((∃ k < count, feWord n cls (feDual s n) f (addr + k) = none) → farEnd t n = { f with mbx := sent 1 [] })
        ∧ ((∀ k < count, feWord n cls (feDual s n) f (addr + k) ≠ none) → farEnd t n = { f with
            mbx := sent 0 ((List.range count).map fun k => wordBytes ((feWord n cls (feDual s n) f (addr + k)).getD 0)).flatten }))
      ∧ ∃ t, exec (.cfgStage n ident addr words) s = .next t ∧ OnlyFarEnd s t n ∧ (farEnd t n).ackId = ident
        ∧ (farEnd t n).mbx = dropInbox 0 f.mbx
        ∧ ((feWrite cls f addr words).2 = 0 → (farEnd t n).staged = some (ident, addr, words) ∧ (farEnd t n).ackCode = 1)
        ∧ ((feWrite cls f addr words).2 ≠ 0 → (farEnd t n).staged = none ∧ (farEnd t n).ackCode = 2)
        ∧ (∀ a, a ≠ 0 → feWord n cls (feDual s n) (farEnd t n) a = feWord n cls (feDual s n) f a))
  ∧ (∀ (s : State) (n : PortId) (size : Nat) (crc version : Word) (family offset : Nat) (data : List Byte) (x : FwRx),
      let f := farEnd s n
      let status (st : Nat) (ver : Word) : MboxSide :=
        enqueue (dropInbox 5 f.mbx) 1 (message 0xA1 (inTag f.mbx 5) (leBytes 4 st ++ wordBytes ver))
      (∃ t, exec (.fwBegin n size crc version family) s = .next t ∧ OnlyFarEnd s t n
        ∧ (262144 < size → farEnd t n = { f with fw := none, mbx := status 2 version })
        ∧ (size ≤ 262144 → (link s n).fwFamily ≠ family → farEnd t n = { f with fw := none, mbx := status 3 version })
        ∧ (size ≤ 262144 → (link s n).fwFamily = family → farEnd t n = { f with
            fw := some ⟨size, crc, version, family, [], false⟩, mbx := dropInbox 5 f.mbx }))
      ∧ (f.fw = none → (∃ t, exec (.fwBlock n offset crc data) s = .next t ∧ OnlyFarEnd s t n
        ∧ farEnd t n = { f with mbx := status 5 0 })
        ∧ (∃ t, exec (.fwEnd n) s = .next t ∧ OnlyFarEnd s t n ∧ farEnd t n = { f with mbx := status 5 0 })
        ∧ ∃ t, exec (.fwActivate n) s = .next t ∧ OnlyFarEnd s t n ∧ farEnd t n = { f with mbx := status 5 0 })
      ∧ (f.fw = some x →
        (∃ t, exec (.fwBlock n offset crc data) s = .next t ∧ OnlyFarEnd s t n
          ∧ (offset ≠ x.data.length → farEnd t n = { f with fw := none, mbx := status 5 x.version })
          ∧ (offset = x.data.length → crc32 data ≠ crc → farEnd t n = { f with fw := none, mbx := status 1 x.version })
          ∧ (offset = x.data.length → crc32 data = crc → offset + data.length ≤ x.size →
              farEnd t n = { f with fw := some { x with data := x.data ++ data }, mbx := dropInbox 5 f.mbx })
          ∧ (offset = x.data.length → crc32 data = crc → x.size < offset + data.length →
              farEnd t n = { f with fw := none, mbx := status 2 x.version }))
        ∧ (∃ t, exec (.fwEnd n) s = .next t ∧ OnlyFarEnd s t n
          ∧ (x.data.length ≠ x.size → farEnd t n = { f with fw := none, mbx := status 2 x.version })
          ∧ (x.data.length = x.size → crc32 x.data ≠ x.crc → farEnd t n = { f with fw := none, mbx := status 1 x.version })
          ∧ (x.data.length = x.size → crc32 x.data = x.crc →
              farEnd t n = { f with fw := some { x with complete := true }, mbx := status 0 x.version }))
        ∧ (x.complete = true → ∃ t, exec (.fwActivate n) s = .next t ∧ OnlyFarEnd { s with draws := s.draws + 1 } t n
            ∧ ((farEnd t n).fwVersion, (farEnd t n).fwFamily)
              = (if (drawBool s).1 then (x.version, x.family) else (f.fwVersion, f.fwFamily))
            ∧ (farEnd t n).listen0 = true ∧ (farEnd t n).obeys = 0 ∧ hasBit (farEnd t n).status 5 = true)
        ∧ (x.complete = false → ∃ t, exec (.fwActivate n) s = .next t ∧ OnlyFarEnd s t n
            ∧ farEnd t n = { f with mbx := status 5 x.version })))

/-- Requests that a far end serves beside configuration: a stream is set up on queues 6 to 13, tunnel transactions run
in their order and are answered under their TAG with at most RLEN bytes, NO_BUS where there is no such bus, BUS_STUCK
sets TUNNEL_FAULT, an echo comes back unchanged. Rests on R158, R178, R181, R183. What the controller takes from a far
end: a configuration result (CFG_FAIL unless OK), the end of a firmware load, the answer to an identity read of its
pack, an event as a record of the port's code in the round of its first segment, telemetry for its subscribers, which a
free Ethernet port or CAN channel sends as its bucket allows and a busy one keeps, a diagnostic reply. Rests on R181 to
R185, R195, R260 to R262, R346, R347, R364. -/
def Obligations.MailboxMessagesAreServed : Prop :=
  (∀ (s : State) (n : PortId) (stream decimate bus : Nat) (enable : Bool) (source : Word) (x : Xfer) (data : List Byte) (status : TwStatus),
      let f := farEnd s n
      (∃ t, exec (.telemSet n stream enable decimate source) s = .next t ∧ OnlyFarEnd s t n
        ∧ (6 ≤ stream → stream ≤ 13 → (farEnd t n).mbx = dropInbox 0 f.mbx
            ∧ tget {} (farEnd t n).streams stream = { enable := enable, decimate := decimate, source := source }
            ∧ ∀ k, k ≠ stream → tget {} (farEnd t n).streams k = tget {} f.streams k)
        ∧ (stream < 6 ∨ 13 < stream → farEnd t n = { f with mbx := dropInbox 0 f.mbx }))
      ∧ (∃ t, exec (.twXfer n x) s = .next t ∧ OnlyFarEnd s t n
        ∧ farEnd t n = { f with tw := f.tw ++ [(inTag f.mbx 2, x)], mbx := dropInbox 2 f.mbx })
      ∧ (∀ tag y rest, f.tw = (tag, y) :: rest → 
          let bus := (link s n).caps.toNat.testBit 1 = true ∧ y.bus.toNat ≤ 1
          ∃ t st ans, exec (.tunnelTransactionDone n status data) s = .next t ∧ OnlyFarEnd s t n
          ∧ farEnd t n = { f with
              tw := rest, status := if st = 6 then f.status ||| 0x80 else f.status,
              mbx := enqueue f.mbx 3 (message 0x90 tag ([st] ++ leBytes 1 ans.length ++ [0, 0] ++ ans)) }
          ∧ (¬bus → st = 7) ∧ (bus → status ≠ 5 ∨ y.flags.toNat.testBit 0 = true → st = status)
          ∧ (bus → status = 5 → y.flags.toNat.testBit 0 = false → st = 0)
          ∧ (st = 1 ∨ st = 7 → ans = []) ∧ (st ≠ 1 → st ≠ 7 → ans = data.take y.rlen.toNat))
      ∧ (∃ t, exec (.diagEcho n data) s = .next t ∧ OnlyFarEnd s t n
        ∧ farEnd t n = { f with mbx := enqueue (dropInbox 14 f.mbx) 14 (message 0xE1 (inTag f.mbx 14) data) })
      ∧ ∃ t, exec (.smbalert n bus) s = .next t ∧ OnlyFarEnd s t n
        ∧ farEnd t n = { f with mbx := enqueue f.mbx 4 (message 0xA0 0 (leBytes 2 Config.smbalertCode.toNat ++ [0, 0]
            ++ Config.smbalertData (BitVec.ofNat 8 bus))) })
  ∧ (∀ (s : State) (n : PortId) (status : Byte) (words : List Word) (version stamp : Word) (data : List Byte) (code age queue dropped : Nat),
      let l := link s n
      (∃ t, exec (.cfgResult n status words) s = .next t ∧ OnlyLink s t n ∧ link t n = { l with
          mbx := dropInbox 1 l.mbx, cfgOut := false, cfgOk := if l.cfgOut then status == 0 else l.cfgOk,
          sticky := if status = 0 then l.sticky else l.sticky ||| 0x4000000 })
      ∧ (∃ t, exec (.fwStatus n status version) s = .next t ∧ OnlyLink s t n
        ∧ (l.fwLoad ≠ 1 → link t n = { l with mbx := dropInbox 1 l.mbx })
        ∧ (l.fwLoad = 1 → status = 0 → (link t n).fwLoad = 2
            ∧ (link t n).mbx = offer (poolBytes (setLink s n { l with mbx := dropInbox 1 l.mbx })) (dropInbox 1 l.mbx) 5
                (message 0x23 l.tag []))
        ∧ (l.fwLoad = 1 → status ≠ 0 → link t n = { l with
            mbx := dropInbox 1 l.mbx, fwLoad := 0, fwStart := false, fwDone := true }))
      ∧ (∀ p, packOf s n = some p → inTag l.mbx 3 ∈ l.idTag → ∃ t, exec (.twResult n status data) s = .next t
        ∧ t = { s with links := t.links, shelf := { s.shelf with packs := t.shelf.packs } } ∧ (∀ k, k ≠ n.val → link t k = link s k)
        ∧ (∀ k, k ≠ p → pack t k = pack s k)
        ∧ (status = 0 → (∃ b ∈ data.take 32, b ≠ 0) → (pack t p).ident = data.take 32 ∧ (pack t p).idState = 1
            ∧ ((pack s p).ident ≠ [] → (pack s p).ident ≠ data.take 32 → (pack t p).conf = 0 ∧ (pack t p).learnOpen = false
                ∧ (pack t p).sticky = (pack s p).sticky ||| 1)
            ∧ ((pack s p).ident = [] ∨ (pack s p).ident = data.take 32 → (pack t p).conf = (pack s p).conf
                ∧ (pack t p).sticky = (pack s p).sticky))
        ∧ (status ≠ 0 ∨ (∀ b ∈ data.take 32, b = 0) → (pack t p).idState = 0 ∧ (pack t p).ident = (pack s p).ident
            ∧ (pack t p).sticky = (if kcfg s p 2 = 0xFF then (pack s p).sticky else (pack s p).sticky ||| 0x10)))
      ∧ (inTag l.mbx 3 ∉ l.idTag → ∃ t, exec (.twResult n status data) s = .next t ∧ OnlyLink s t n
        ∧ (link t n).mbx = dropInbox 3 l.mbx)
      ∧ (∃ t, exec (.event n code age stamp data) s = .next t ∧ t = { s with
            links := t.links, recorder := t.recorder, shelf := { s.shelf with packs := t.shelf.packs } }
        ∧ (∀ k, k ≠ n.val → link t k = link s k) ∧ (link t n).mbx = dropInbox 4 l.mbx
        ∧ let stamp := ((firstIn 4 l.mbx).map (·.2)).getD stamp
          t.recorder = (addRecord s (0x1000 + n) (stamp - BitVec.ofNat 32 age) (leBytes 2 code ++ leBytes 2 age ++ data)).recorder
        ∧ (code ≠ Config.smbalertCode.toNat → t.shelf = s.shelf))
      ∧ (∃ t, exec (.telem n queue dropped stamp data) s = .next t ∧ t = { s with links := t.links, net := t.net }
        ∧ (∀ k, k ≠ n.val → link t k = link s k) ∧ (link t n).mbx = dropInbox queue l.mbx
        ∧ (s.net.hushed = true ∨ queue < 6 ∨ 13 < queue → t.net = s.net)
        ∧ (∀ x y, s.net.hushed = false → s.boot.highZ = false → 6 ≤ queue → queue ≤ 13 →
            tfind s.net.sessions x.session = some y
              → (s.net.subs.filter fun x => x.items.contains (0x3000 + n.val, 0xF0 + queue)) = [x] →
            let stamp := ((firstIn queue l.mbx).map (·.2)).getD stamp
            let r : Reply := ⟨telemDest s x.dest, 0x21, x.session, y.outSeq + 1, 0, 1,
              leBytes 1 x.subId ++ [0] ++ leBytes 2 dropped ++ wordBytes stamp ++ data⟩
            (lineOf x.dest = none → x.dest ≠ .smb → t.net = { s.net with
                sessions := tput s.net.sessions x.session { y with outSeq := y.outSeq + 1 }, out := s.net.out ++ [r] })
            ∧ ∀ k, lineOf x.dest = some k → domainRuns s = true →
              (0 < (line s k).busy → t.net.out = s.net.out ∧ (line t k).tel = (line s k).tel ++ [{ r with seq := 0 }])
              ∧ ((line s k).busy ≤ 0 → (line s k).urg = [] → (line s k).resp = [] → (line s k).tel = [] →
                telemNeed k r ≤ (line s k).tokens → t.net.out = s.net.out ++ [r]
                  ∧ t.net.sessions = tput s.net.sessions x.session { y with outSeq := y.outSeq + 1 }
                  ∧ (line t k).tokens = (line s k).tokens - (wireBytes k r : Nat))))
      ∧ ∃ t, exec (.diagReply n data) s = .next t ∧ OnlyLink s t n ∧ link t n = { l with mbx := dropInbox 14 l.mbx })

/-! ### Stage control (07) -/

/-- STOP is queued for the next seam and START too where its conditions hold; of two for one seam the last applies;
on-delay, ramp, off-delay and ramp-down take a port from STARTING to RUNNING and from STOPPING, where RUN stays as it
was, to RUN = 0. Rests on R196, R198 to R200. -/
def Obligations.PortsStartAndStop : Prop :=
  (∀ (s : State) (lvl : Level) (n : PortId),
    let queued (cmd : Nat) (c : Instr) : Prop := ∃ t, exec c s = .next (sendCtrl t (.command (0x3100 + n) 1 cmd))
      ∧ t = { answered s stOK with ctls := t.ctls }
      ∧ (∀ k, k ≠ n.val → ctl t k = ctl s k)
      ∧ ctl t n = { ctl s n with pend := ((ctl s n).pend.filter fun p => p.2 != skipNow s) ++ [(cmd, skipNow s)] }
    (Admits s lvl (0x3100 + n) 1 2 → queued 2 (.stop lvl n))
    ∧ (Admits s lvl (0x3100 + n) 1 1 →
      let ready := (link s n).state = .ready ∧ 0 < latestF s (0x3100 + n) 7 ∧ latestF s (0x3100 + n) 7 < latestF s (0x3100 + n) 9
        ∧ (isVolt (clsOf s n) = true → 0 < latestF s (0x3100 + n) 6) ∧ (link s n).cfgOk = true ∧ (link s n).fwLoad = 0
          ∧ 2 * (ctl s n).heat < 2 ^ 48
        ∧ (clsOf s n = 4 → (ctl s n).presence = true)
      (ready → queued 1 (.start lvl n)) ∧ (¬ready → exec (.start lvl n) s = .next (answered s stState))))
  ∧ (∀ (s : State) (n : PortId), (link s n).state = .starting → clsOf s n ≠ 4 → (ctl s n).ramp = none →
    let wait := Nat.max (stepOr (ctl s n).vals.onDelay (pcfg s n 2)) 4
    ((ctl s n).since < wait → exec (.onDelay n) s = .next s)
    ∧ (wait ≤ (ctl s n).since → ∃ t, exec (.onDelay n) s = .next t ∧ OnlyCtl s t n
      ∧ (ctl t n).ramp = some (0, stepOr (ctl s n).vals.rampUp (pcfg s n 3))
      ∧ (ctl t n).rampFrom = (if isVolt (clsOf s n) then regV s n else 0)))
  ∧ (∀ (s : State) (n : PortId) (k all : Nat), (link s n).state = .starting → (ctl s n).ramp = some (k, all) →
    (k = 0 ∨ k < all → exec (.rampComplete n) s = .next s)
    ∧ (0 < k → all ≤ k → ∃ t, exec (.rampComplete n) s = .next t
      ∧ t = { s with links := t.links, ctls := t.ctls, shelf := t.shelf }
      ∧ PortsStand s t [n.val] ∧ (∀ p, pack t p = pack s p) ∧ link t n = { link s n with state := .running }
      ∧ ctl t n = { ctl s n with ramp := none, value := q40 (rampTarget s n) }))
  ∧ (∀ (s : State) (n : PortId), (link s n).state = .stopping → (ctl s n).down = false → (ctl s n).readyNext = false →
    let wait := stepOr (ctl s n).vals.offDelay (pcfg s n 4)
    ((ctl s n).since < wait → exec (.offDelay n) s = .next s)
    ∧ (wait ≤ (ctl s n).since → ∃ t, exec (.offDelay n) s = .next t ∧ OnlyCtl s t n
      ∧ let all := ((ctl s n).ramp.map (·.2)).getD 0
        (clsOf s n = 4 ∨ all = 0 → runBit t n = false ∧ ctl t n = { ctl s n with
          bypass := false, down := true, readyNext := true, ramp := some (0, 0), value := 0 })
        ∧ (clsOf s n ≠ 4 → all ≠ 0 → ctl t n = { ctl s n with down := true, ramp := some (0, all), rampFrom := (ctl s n).value }
            ∧ runBit t n = (ctl s n).cmd.run)))
  ∧ ∀ (s : State) (n : PortId) (k all : Nat), (link s n).state = .stopping → (ctl s n).down = true → (ctl s n).readyNext = false →
    (ctl s n).ramp = some (k, all) →
    (k = 0 ∨ k < all → exec (.rampDownComplete n) s = .next s)
    ∧ (0 < k → all ≤ k → ∃ t, exec (.rampDownComplete n) s = .next t ∧ OnlyCtl s t n
      ∧ ctl t n = { ctl s n with readyNext := true, ramp := some (0, 0), value := 0 } ∧ runBit t n = false)

/-- OVERLOAD at heat 2⁴⁸, SAT_ACTION after SAT_TIME and an inrush that lasts too long trip their port with reasons 1, 2
and 4, or reduce it once; the debounce and the delay of an insertion lead to its inrush. Rests on R205 to R208, R212 to
R214. -/
def Obligations.ProtectionsTripTheirPort : Prop :=
  ∀ (s : State) (n : PortId),
    let trips (c : Instr) (bits : Word) (reason : Byte) : Prop := ∃ t, exec c s = .next t ∧ OnlyPorts s t ∧ PortsStand s t [n.val]
      ∧ EntersHem s t n ∧ (link t n).sticky = (link s n).sticky ||| bits ∧ (ctl t n).tripped = true
      ∧ (ctl t n).tripReason = reason ∧ (ctl t n).heat = (ctl s n).heat ∧ portHeld t n = true
    let live := (link s n).state = .starting ∨ (link s n).state = .running
    (2 ^ 48 ≤ (ctl s n).heat → breakerOn s n = true ∨ (ctl s n).tripped = false ∨ (ctl s n).tripReason ≠ 1 →
      trips (.overload n) 0x40000 1)
    ∧ (live → (clsOf s n = 4 → (link s n).state = .running ∧ (ctl s n).bypass = true) → breakerOn s n = true)
    ∧ ((ctl s n).heat < 2 ^ 48 → exec (.overload n) s = .next s)
    ∧ ((ctl s n).satNow = true → live → pcfg s n 0x0D ≤ (ctl s n).satRun →
      (pcfg s n 0x0E = 1 ∧ (ctl s n).reduced = false → ∃ t, exec (.satAction n) s = .next t
        ∧ t = { s with links := t.links, ctls := t.ctls } ∧ PortsStand s t [n.val]
        ∧ link t n = { link s n with sticky := (link s n).sticky ||| 0x100000 }
        ∧ ctl t n = { ctl s n with reduced := true, satRun := 0 })
      ∧ (¬(pcfg s n 0x0E = 1 ∧ (ctl s n).reduced = false) → trips (.satAction n) 0x100000 2))
    ∧ ((link s n).state = .starting → (ctl s n).insStage = 2 → pcfg s n 0x16 ≤ (ctl s n).insRun →
      ∃ t, exec (.insDebounce n) s = .next t ∧ OnlyCtl s t n ∧ ctl t n = { ctl s n with insStage := 3, insRun := 0 })
    ∧ ((link s n).state = .starting → (ctl s n).insStage = 3 → pcfg s n 0x17 * 1024 ≤ (ctl s n).insRun →
      Nat.max (stepOr (ctl s n).vals.onDelay (pcfg s n 2)) 4 ≤ (ctl s n).since →
      ∃ t, exec (.insDelay n) s = .next t ∧ OnlyCtl s t n
        ∧ ctl t n = { ctl s n with insStage := 4, insRun := 0, insCharge := 0, insV0 := sampleVal s n 2 }
        ∧ (clsOf s n = 4 → runBit t n = true))
    ∧ ((link s n).state = .starting → (ctl s n).insStage = 4 → pcfg s n 0x1A ≤ (ctl s n).insRun
      → trips (.inrushTimeout n) 0x400000 4)

/-- APPLY makes a curve that rises in current and falls in time effective from the next seam, whole or not at all; SNAP
latches at the next tick; clearing latched protections asks the far end and leaves bits whose cause is present. Rests on
R9, R203, R204, R211, R220. -/
def Obligations.CurvesSnapshotsAndLatches : Prop :=
  (∀ (s : State) (lvl : Level) (c : CurveId) (v : Byte), Admits s lvl (0x3500 + c) 0x13 v.toNat →
    let told (u : State) := sendCtrl u (.command (0x3500 + c) 0x13 v.toNat)
    (v = 0 → exec (.apply lvl c v) s = .next (told (answered s stOK)))
    ∧ (v ≠ 0 → applyStatus (taken s) c ≠ stOK → exec (.apply lvl c v) s = .next (answered s (applyStatus (taken s) c)))
    ∧ (v ≠ 0 → applyStatus (taken s) c = stOK
      → exec (.apply lvl c v) s = .next (told { answered s stOK with net := { (answered s stOK).net with
        staged := s.net.staged.filter fun x => x.1 / 256 != c.val,
        pend := s.net.pend ++ (s.net.staged.filter fun x => x.1 / 256 == c.val).map fun x =>
          ⟨0x3500 + c.val, x.1 % 256, x.2, skipNow s⟩ } })))
  ∧ (∀ (s : State) (c : Nat), let k := stagedVal s c 1
    (k = 1 ∨ 8 < k → applyStatus s c = stRange)
    ∧ (k = 0 → (∃ n < 256, latest s (0x3100 + n) 8 = c) → applyStatus s c = stState)
    ∧ (applyStatus s c = stOK → k ≠ 0 → ∀ i, i + 1 < k →
        f32Val (BitVec.ofNat 32 (stagedVal s c (2 + i))) < f32Val (BitVec.ofNat 32 (stagedVal s c (3 + i)))
        ∧ f32Val (BitVec.ofNat 32 (stagedVal s c (0x0B + i))) < f32Val (BitVec.ofNat 32 (stagedVal s c (0x0A + i)))))
  ∧ (∀ (s : State) (lvl : Level) (n : PortId) (v : Byte), Admits s lvl (0x3100 + n) 0x1B v.toNat →
    (v = 0 → exec (.snap lvl n v) s = .next (answered s stOK))
    ∧ (v ≠ 0 → ∃ t, exec (.snap lvl n v) s = .next t ∧ t = { answered s stOK with ctls := t.ctls }
        ∧ (∀ k, k ≠ n.val → ctl t k = ctl s k) ∧ ctl t n = { ctl s n with snapPend := true }))
  ∧ (∀ (s : State) (lvl : Level) (n : PortId) (bits : Word), Admits s lvl (0x3000 + n) 4 (bits &&& 0x30000).toNat →
    (link s n).state ≠ .lockout → bits &&& 0x30000 ≠ 0 →
    let mask : Word := (if hasBit bits 16 then 1 else 0) ||| (if hasBit bits 17 then 3 else 0)
    ∃ t, exec (.fastTripClear lvl n bits) s = .next t ∧ t = { answered s stOK with links := t.links }
      ∧ (∀ k, k ≠ n.val → link t k = link s k)
      ∧ let l : Link := { link s n with sticky := (link s n).sticky &&& ~~~(bits &&& 0x30000) }
        link t n = { l with tag := (l.tag + 1) % 256, mbx := offer (poolBytes (setLink s n l)) (link s n).mbx 0 (message 0x04 (link s n).tag (wordBytes mask)) })
  ∧ ∀ (s : State) (lvl : Level) (n : PortId), Admits s lvl (0x3000 + n) 4 0x200000 → (link s n).state ≠ .lockout →
    ∃ t, exec (.ovLatchClear lvl n) s = .next t ∧ t = { answered s stOK with links := t.links }
      ∧ (∀ k, k ≠ n.val → link t k = link s k)
      ∧ let l : Link := { link s n with sticky := (link s n).sticky &&& ~~~0x200000 }
        link t n = { l with tag := (l.tag + 1) % 256, mbx := offer (poolBytes (setLink s n l)) (link s n).mbx 0 (message 0x04 (link s n).tag (wordBytes 2)) }

/-! ### Power flow (08) -/

/-- A planned transfer needs a standby that is ready and able, and waits for its seam; the incoming feed becomes active
when its ramp has run; a sudden one is bridged by the battery; with no feed left hold-up begins and every rectifier is
shed. Rests on R233 to R238, R251. -/
def Obligations.FeedsTransferAndHoldUp : Prop :=
  (∀ (s : State) (lvl : Level) (v : Byte), Admits s lvl 0x2501 1 v.toNat →
    let f : Feed := if v = 0 then .A else .B
    (xferOk s f = true → exec (.xferCmd lvl v) s = .next (sendCtrl { answered s stOK with flow := { s.flow with
        xferPend := some (f, skipNow s) } } (.command 0x2501 1 v.toNat)))
    ∧ (xferOk s f = false → exec (.xferCmd lvl v) s = .next (answered s stState)))
  ∧ (∀ (s : State) (f : Feed), xferOk s f = true ↔ s.flow.active ≠ none ∧ standbyReady s f = true ∧ s.flow.state = 0
      ∧ s.flow.ramp = none ∧ s.flow.pDem ≤ sumOf ((modulesOf s f).filter (bothRun s)) (capacity s))
  ∧ (∀ (s : State) (r : XferRamp), feedRuns s = true → s.flow.ramp = some r →
    (r.done < r.all → exec .xferRampComplete s = .next s)
    ∧ (r.all ≤ r.done → ∃ t, exec .xferRampComplete s = .next t
      ∧ (r.kind = 1 → OnlyCommands s t ∧ FlowIs t { s.flow with
          ramp := none, bridging := false, state := 0, active := some r.incoming, sticky := s.flow.sticky ||| 1 })
      ∧ (r.kind = 2 → OnlyCommands s t ∧ FlowIs t { s.flow with
          ramp := none, bridging := false, state := 0, active := some r.incoming })
      ∧ (r.kind = 4 → s.flow.vFormed = false ∨ s.flow.vBus < cfgF s 0x2503 2 → OnlyCommands s t ∧ FlowIs t { s.flow with
          ramp := none, bridging := false, state := 3, rampDone := true })
      ∧ (r.kind = 4 → s.flow.vFormed = true → cfgF s 0x2503 2 ≤ s.flow.vBus →
          t.flow.state = 0 ∧ t.flow.ramp = none ∧ t.flow.rampDone = false ∧ t.flow.active = s.flow.active
          ∧ t.flow.restarted = s.flow.restarted)
      ∧ (r.kind = 5 → OnlyCommands s t ∧ FlowIs t { s.flow with ramp := none, bridging := false, state := 0 })))
  ∧ (∀ (s : State) (f : Feed), feedRuns s = true → s.flow.active = some f → suddenDue s = true →
    ∃ t, exec .suddenXfer s = .next t ∧ OnlyCommands s t ∧ FlowIs t { s.flow with
      state := 2, bridging := true, sticky := s.flow.sticky ||| 2,
      ramp := some { kind := 2, incoming := otherFeed f, start := 0, done := 0, all := rampRounds s } })
  ∧ ∀ s : State, holdRuns s = true → s.flow.everActive = true → s.flow.state ≠ 3 → s.flow.state ≠ 4 →
    canCarry s .A = false → canCarry s .B = false →
    ∃ t, exec .holdup s = .next t ∧ OnlyCommands s t ∧ FlowIs t { s.flow with
      state := 3, active := none, ramp := none, xferPend := none, bridging := false, restarted := none, rampDone := false,
      warned := false, holdTime := 0, sticky := s.flow.sticky ||| (if s.flow.state = 1 then 0xA else 8) }
      ∧ ∀ n ∈ allModules s, (ctl t n).shed = true ∧ (ctl t (partner n)).shed = true

/-- The early warning raises PFW to every tray and starts the timed shutdown; a collapsed bus trips every tap with
reason 5, ends the table and abandons a shutdown; SHED sheds the module chosen. Rests on R231, R240, R243, R285, R287.
CAP_N is sampled at ticks and low for two of them, or CAP_SELECT, selects the second cap; the tap limit falls by steps
and the throttle slots pass round the trays, each under the larger of the capping duty and its thermal duty. Rests on
R245 to R247, R291. -/
def Obligations.WarningCollapseSheddingAndCaps : Prop :=
  ((∀ s : State, holdRuns s = true → (s.flow.state = 3 ∨ s.flow.state = 4) → s.flow.warned = false →
      (cfgF s 0x2503 4 < storedKwh s → exec .earlyWarning s = .next s)
      ∧ (storedKwh s ≤ cfgF s 0x2503 4 → ∃ t, exec .earlyWarning s = .next t ∧ t.flow.warned = true ∧ t.flow.pfw = true
        ∧ hasBit t.flow.sticky 4 = true ∧ (∀ n ∈ portsOf s 5, (ctl t n).cmd.pfw = true)
        ∧ (s.sq.shutdown = false → (∃ i ∈ s.sq.order, startedStep (stepSt s i) = true ∧ ∃ n ∈ (stepSt s i).ports,
              clsOf s n = 5 ∧ (link s n).state = .running) →
            t.sq.shutdown = true ∧ t.sq.origin = 4 ∧ t.sq.deadline = some (pfwRounds s) ∧ t.sq.cancellable = true
            ∧ hasBit t.sq.sticky 3 = true ∧ t.links = s.links)))
    ∧ (∀ s : State, holdRuns s = true → s.flow.collapseArmed = true →
      (s.flow.collapseRun < 4 → exec .busCollapse s = .next s)
      ∧ (4 ≤ s.flow.collapseRun → ∃ t, exec .busCollapse s = .next t
        ∧ t = { s with
            links := t.links, ctls := t.ctls, shelf := t.shelf, recorder := t.recorder, sq := t.sq, cfg := t.cfg,
            flow := { s.flow with collapseArmed := false, collapseRun := 0, sticky := s.flow.sticky ||| 0x40 } }
        ∧ MarginOnly s.cfg t.cfg ∧ PortsStand s t (portsOf s 4)
        ∧ (∀ n ∈ portsOf s 4, EntersHem s t n ∧ (ctl t n).tripped = true ∧ (ctl t n).tripReason = 5)
        ∧ t.sq.state = 5 ∧ t.sq.shutdown = false ∧ t.sq.deadline = none ∧ (∀ x ∈ t.sq.steps, x.2.state = 5)
        ∧ (t.sq.autoWant = true ↔ cfg s 0x23F0 8 = 1)))
    ∧ ∀ (s : State) (f : Feed) (n : Nat) (l : List Nat), shareRuns s = true → s.flow.shedWant = true → s.flow.active = some f →
      shedCandidates s ((modulesOf s f).filter (available s)) = n :: l →
      (∀ m ∈ allModules s, partner m ≠ n) → partner n ∉ allModules s →
      ∃ t, exec .shed s = .next t ∧ OnlyCommands s t ∧ FlowIs t { s.flow with
        shedWant := false, shedOrder := n :: s.flow.shedOrder, unshedOrder := s.flow.unshedOrder.filter fun k => k != n }
        ∧ (ctl t n).shed = true ∧ (ctl t (partner n)).shed = true)
  ∧ ((∀ (s : State) (low : Bool), exec (.capN low) s = .next { s with flow := { s.flow with capPin := low } })
    ∧ (∀ (s : State) (lvl : Level) (v : Byte), Admits s lvl 0x2505 3 v.toNat → ∃ t, exec (.capSelect lvl v) s = .next t
        ∧ t = { answered s stOK with cfg := t.cfg, pair := t.pair, flow := { s.flow with
            capEff := if (s.flow.capLow1 && s.flow.capLow2) || v == 1 then 1 else 0 } }
        ∧ cfg t 0x2505 3 = v.toNat ∧ (∀ ix sub, sub < 256 → ¬(ix = 0x2505 ∧ sub = 3) → cfg t ix sub = cfg s ix sub)
        ∧ t.pair = (sendCtrl s (.capSelect v)).pair)
    ∧ (∀ s : State, capRuns s = true →
        (tapStepDue s = true → ∃ t, exec .tapLimitStep s = .next t ∧ OnlyCommands s t ∧ FlowIs t { s.flow with
          tapSteps := s.flow.tapSteps + 1, tapWait := 0, lowSeams := 0, sticky := s.flow.sticky ||| 0x400 })
        ∧ (s.flow.capShort = false → exec .tapLimitStep s = .next s))
    ∧ ∀ s : State, capRuns s = true →
        (s.flow.slotRounds < cfg s 0x2505 4 → exec .throttleSlot s = .next s)
        ∧ (cfg s 0x2505 4 ≤ s.flow.slotRounds → (portsOf s 5).Nodup →
          let k := (s.flow.slot + 1) % 16
          let d := if k = 0 then s.flow.duty else s.flow.dutyNow
          let asked := forAll (portsOf s 5) (fun s n => updCtl s n fun c => { c with
            thermDuty := Nat.max (ctl s n).derate (ctl s (partner n)).derate }) s
          let u := if k = 0 then asked else s
          ∃ t, exec .throttleSlot s = .next t ∧ OnlyCommands u t
            ∧ FlowIs t { s.flow with slot := k, slotRounds := 0, dutyNow := d }
            ∧ ∀ i n, (portsOf s 5)[i]? = some n →
              ((ctl t n).cmd.throttle = true ↔ (k + 16 - i % 16) % 16 < Nat.max d (ctl u n).thermDuty)))

/-! ### Battery shelf (09) -/

/-- LONG_REST, after 20 minutes of rest and from the mean of 60 s, gives SOC from the cell table and closes one learning
interval as it opens the next; a pulse ends in REST, or FULL when the voltage was held and the current fell, and a rest
in the next pulse; the identity is read over the tunnel; PACK_RESET waits for its seam. Rests on R255 to R264. T_CWD
after the last contact of the host the charge watchdog falls back to the safe values until the host writes again, which
a kick does not end; ship mode waits for its seam, not during a transfer or hold-up, and ends when the bus has been
valid for 10 s; a service press opens the contactors and resets. Rests on R267 to R271, R406. -/
def Obligations.PacksAndTheShelfAreKept : Prop :=
  ((∀ (s : State) (p : PackId) (x : Rat),
      let k := pack s p
      let v := k.avgSum / ((k.avgN : Nat) : Rat) / series s p
      (k.restTime < 1200 ∨ k.resting = false ∨ k.restDone = true → exec (.longRest p x) s = .next s)
      ∧ (boundTo s p ≠ none → k.resting = true → k.restDone = false → 1200 ≤ k.restTime → k.avgFrom + 60 ≤ k.restTime →
        0 < k.avgN → domainRuns s = true → s.boot.restarting = false → ∃ t, exec (.longRest p x) s = .next t
        ∧ t = { s with shelf := { s.shelf with packs := t.shelf.packs } } ∧ (∀ k, k ≠ p.val → pack t k = pack s k)
        ∧ (pack t p).restDone = true ∧ (pack t p).waitRest = false ∧ (pack t p).discharged = 0 ∧ (pack t p).learnOpen = true
        ∧ (pack t p).learnCharge = k.charge ∧ (pack t p).learnTime = 0 ∧ (pack t p).learnSoc = (pack t p).soc
        ∧ ∀ k, k < 10 → (∀ j < 10, ocv s j < ocv s (j + 1)) → ocv s k < v → v ≤ ocv s (k + 1) →
            (pack t p).soc = q40 ((k : Rat) * 10 + (v - ocv s k) / (ocv s (k + 1) - ocv s k) * 10)))
    ∧ (∀ (s : State) (p : PackId), (pack s p).chgState = 1 →
      ((pack s p).chgSeams < seamsOf s (cfgF s 0x26F0 5) → exec (.chargePulseEnd p) s = .next s)
      ∧ (seamsOf s (cfgF s 0x26F0 5) ≤ (pack s p).chgSeams → ∃ t, exec (.chargePulseEnd p) s = .next t ∧ OnlyPack s t p
        ∧ (pack t p).chgState = (if (pack s p).cvHeld && (pack s p).termLow then 3 else 2) ∧ (pack t p).chgSeams = 0
        ∧ ((pack s p).cvHeld = true → (pack s p).termLow = true → (pack t p).full = true)
        ∧ (pack t p).vOn = q40 (mean (pack s p).onV) ∧ (pack t p).iOn = q40 (mean (pack s p).onI) ∧ (pack t p).impPend = true))
    ∧ (∀ (s : State) (p : PackId), (pack s p).chgState = 2 →
      ((pack s p).chgSeams < seamsOf s (cfgF s 0x26F0 6) → exec (.chargeRestEnd p) s = .next s)
      ∧ (seamsOf s (cfgF s 0x26F0 6) ≤ (pack s p).chgSeams → ∃ t, exec (.chargeRestEnd p) s = .next t ∧ OnlyPack s t p
        ∧ pack t p = { pack s p with chgState := 1, chgSeams := 0, tempHold := false, cvHeld := false, termLow := false, onV := [], onI := [] }))
    ∧ (∀ (s : State) (p : PackId),
      (boundTo s p = none ∨ kcfg s p 2 = 0xFF ∨ commands s = false ∨ s.boot.restarting = true → exec (.pmuIdRead p) s = .next s)
      ∧ ∀ n, boundTo s p = some n → kcfg s p 2 ≠ 0xFF → commands s = true → s.boot.restarting = false →
        let l : Link := { link s n with idTag := (link s n).idTag ++ [(link s n).tag] }
        ∃ t, exec (.pmuIdRead p) s = .next t ∧ OnlyLink s t n ∧ link t n = { l with
          tag := (l.tag + 1) % 256, mbx := offer (poolBytes (setLink s n l)) l.mbx 2 (message 0x10 l.tag
            (leBytes 1 (kcfg s p 2) ++ leBytes 1 (kcfg s p 3) ++ [2, 1, 32, 0] ++ leBytes 2 25 ++ leBytes 1 (kcfg s p 4))) })
    ∧ ∀ (s : State) (lvl : Level) (p : PackId) (v : Byte), Admits s lvl (0x2600 + p) 10 v.toNat →
      let told (u : State) := sendCtrl u (.command (0x2600 + p) 10 v.toNat)
      (v = 0 → exec (.packReset lvl p v) s = .next (told (answered s stOK)))
      ∧ (v ≠ 0 → ∃ t, exec (.packReset lvl p v) s = .next (told t)
          ∧ t = { answered s stOK with shelf := { s.shelf with packs := t.shelf.packs } } ∧ (∀ k, k ≠ p.val → pack t k = pack s k)
          ∧ pack t p = { pack s p with resetPend := some (skipNow s) }))
  ∧ ((∀ s : State, s.boot.collarUp = true → s.boot.restarting = false → s.shelf.cwdSafe = false →
      (s.shelf.cwdTime < cfgF s 0x26F0 9 → exec .cwdExpiry s = .next s)
      ∧ (cfgF s 0x26F0 9 ≤ s.shelf.cwdTime →
        exec .cwdExpiry s = .next { s with shelf := { s.shelf with cwdSafe := true, sticky := s.shelf.sticky ||| 1 } }))
    ∧ (∀ (s : State) (lvl : Level) (v : Byte), Admits s lvl 0x26F0 12 v.toNat →
      exec (.cwdKick lvl v) s = .next { answered s stOK with shelf := { s.shelf with cwdTime := 0 } })
    ∧ (∀ (s : State) (lvl : Level) (v : Byte), Admits s lvl 0x26F0 15 v.toNat →
      let told (u : State) := sendCtrl u (.command 0x26F0 15 v.toNat)
      (v = 0 → exec (.shipCmd lvl v) s = .next (told (answered s stOK)))
      ∧ (v ≠ 0 → s.flow.state = 2 ∨ s.flow.state = 3 → exec (.shipCmd lvl v) s = .next (answered s stState))
      ∧ (v ≠ 0 → s.flow.state ≠ 2 → s.flow.state ≠ 3 → exec (.shipCmd lvl v) s = .next (told { answered s stOK with
          shelf := { s.shelf with shipPend := some (skipNow s) } })))
    ∧ (∀ s : State, s.shelf.ship = true → busOk s = true → s.shelf.busValid < 10 → exec .shipExit s = .next s)
    ∧ (∀ s : State, s.shelf.ship = true → busOk s = true → 10 ≤ s.shelf.busValid → ∃ t, exec .shipExit s = .next t
        ∧ t = { s with links := t.links, ctls := t.ctls, shelf := { s.shelf with
            packs := t.shelf.packs, ship := false, busValid := 0, sticky := s.shelf.sticky ||| 8 } }
        ∧ PortsStand s t (battPorts s)
        ∧ ∀ n ∈ battPorts s, (link t n).state = if (link s n).state = .hem ∧
            portHeld { s with shelf := { s.shelf with ship := false } } n = false then freeState s n else (link s n).state)
    ∧ (∀ s : State, exec (.svcBtnN false) s = .next { s with shelf := { s.shelf with btnLow := false, btnUsed := false } })
    ∧ (∀ s : State, s.shelf.btnUsed = false → s.shelf.svcOpen = false → ∃ t, exec (.svcBtnN true) s = .next t
        ∧ t.shelf.btnLow = true ∧ t.shelf.btnUsed = true
        ∧ (s.flow.state = 2 ∨ s.flow.state = 3 → t.shelf.svcOpen = false ∧ t.shelf.sticky = s.shelf.sticky ||| 2
          ∧ t.links = s.links)
        ∧ (s.flow.state ≠ 2 → s.flow.state ≠ 3 → t.shelf.svcOpen = true ∧ t.shelf.sticky = s.shelf.sticky ||| 4
            ∧ (∀ n ∈ battPorts s, EntersHem s t n ∧ (declClass s n = 3 → portHeld t n = true)) ∧ PortsStand s t (battPorts s)))
    ∧ ∀ (s : State) (mode : BitVec 2), (s.shelf.svcOpen = false → exec (.svcReset mode) s = .next s)
        ∧ (s.shelf.svcOpen = true → exec (.svcReset mode) s = .next (resetNow s 2 mode.toNat)))

/-! ### Sequencing (10) -/

/-- SEQ_CMD: RUN waits for its seam unless a failure is recorded, a shutdown or a run is under way; SHUTDOWN needs a
started step; the table starts by itself once at power-up where it is told to, and after a collapse or a hold-up
shutdown once a feed holds the bus. Rests on R285, R411. The table's steps: END ends it, a DELAY waits, a step is UP
when every member has held PG, and the table with it; a member that holds a step back fails it, which begins the
shutdown at that seam, or is dropped where the step may run degraded. Rests on R279 to R283. A rail fault of an UP step
is recorded and, unless the step may run degraded, starts the shutdown; at the deadline of the early warning the first
step to stop enters STOPPING with its ports. Rests on R284, R286, R287. -/
def Obligations.TheSequenceRisesAndFails : Prop :=
  ((∀ (s : State) (lvl : Level), Admits s lvl 0x23F0 1 1 →
      let free := hasBit s.sq.sticky 1 = false ∧ s.sq.shutdown = false ∧ s.sq.failWant = false ∧ s.sq.state ≠ 1 ∧ s.sq.state ≠ 2
      (free → exec (.run lvl) s = .next { answered s stOK with sq := { s.sq with runPend := some (skipNow s) } })
      ∧ (¬free → exec (.run lvl) s = .next (answered s stState)))
    ∧ (∀ (s : State) (lvl : Level), Admits s lvl 0x23F0 1 2 → s.sq.shutdown = false →
      let started := s.sq.order.filter fun i => startedStep (stepSt s i)
      ((∀ i ∈ stepNos s, ¬(startedStep (stepSt s i) = true ∧ i ∈ s.sq.order)) → exec (.shutdown lvl) s = .next (answered s stState))
      ∧ ((∃ i ∈ stepNos s, startedStep (stepSt s i) = true ∧ i ∈ s.sq.order ∧ ∃ n ∈ (stepSt s i).ports,
            clsOf s n = 5 ∧ (link s n).state = .running) →
          ∃ t, exec (.shutdown lvl) s = .next t ∧ t = { answered s stOK with
            sq := { s.sq with
              shutdown := true, failWant := false, origin := 1, stopOrder := started, deadline := some (pfwRounds s),
              cancellable := false, state := 3, sticky := s.sq.sticky ||| 8 },
            flow := { s.flow with pfw := true }, ctls := t.ctls, draws := t.draws, arr := { s.arr with shm := t.arr.shm } }
          ∧ (∀ n, ctl t n = { ctl s n with cmd := (ctl t n).cmd }) ∧ ∀ n ∈ portsOf s 5, (ctl t n).cmd.pfw = true))
    ∧ ∀ s : State,
      (coldRunDue s = true → ∃ t, exec .autoStart s = .next t ∧ t.sq.autoWant = false ∧ t.sq.runPend = some 0
        ∧ t.sq.sticky = s.sq.sticky ||| 0x20 ∧ (powerRunDue s = false → t.sq.autoDone = s.sq.autoDone))
      ∧ (coldRunDue s = false →
        (powerRunDue s = false → exec .autoStart s = .next s)
        ∧ (powerRunDue s = true → exec .autoStart s = .next { s with sq := { s.sq with
            autoDone := true,
            runPend := if cfg s 0x23F0 8 = 1 ∧ runOk s = true ∧ s.sq.runPend = none then some 0 else s.sq.runPend } })))
  ∧ ((∀ s : State, s.sq.state = 1 → s.sq.shutdown = false → s.sq.failWant = false → s.sq.nextWait = some 0 →
      s.boot.restarting = false → s.wheel.ris = 0 →
      let i := s.sq.nextStep
      (i < 256 → stepCfg s i 1 = 2 → stepCfg s i 0x0A ≠ 0 → exec .stepStart s = .next { s with sq := { s.sq with
          steps := tput s.sq.steps i { state := 2, startSeam := s.wheel.seam }, step := i, nextStep := i + 1,
          nextWait := some (stepCfg s i 0x0A) } })
      ∧ ((256 ≤ i ∨ stepCfg s i 1 = 0) → (∃ k ∈ s.sq.order, (stepSt s k).state ≠ 2) →
          exec .stepStart s = .next { s with sq := { s.sq with ended := true, nextWait := none } })
      ∧ ((256 ≤ i ∨ stepCfg s i 1 = 0) → (∀ k ∈ s.sq.order, (stepSt s k).state = 2) →
          exec .stepStart s = .next { s with sq := { s.sq with
            ended := true, nextWait := none, state := 2, sticky := s.sq.sticky ||| 1 } })
      ∧ (i < 256 → stepCfg s i 1 = 1 → stepCfg s i 2 < 0x100 → (link s (stepCfg s i 2)).state = .ready →
          startStatus s (stepCfg s i 2) = stOK → clsOf s (stepCfg s i 2) = 1 →
          ∃ t, exec .stepStart s = .next t ∧ t = { s with links := t.links, ctls := t.ctls, shelf := t.shelf, sq := t.sq }
            ∧ PortsStand s t [stepCfg s i 2] ∧ (link t (stepCfg s i 2)).state = .starting
            ∧ (ctl t (stepCfg s i 2)).vals = stepVals s i ∧ (ctl t (stepCfg s i 2)).since = 1
            ∧ (stepSt t i).state = 1 ∧ (stepSt t i).members = [stepCfg s i 2] ∧ (stepSt t i).startSeam = s.wheel.seam
            ∧ t.sq.step = i ∧ t.sq.nextStep = i + 1))
    ∧ (∀ (s : State) (k : Fin 256), (stepSt s k).state = 1 → s.boot.restarting = false →
      ((∃ n ∈ (stepSt s k).members, (ctl s n).pgRun < stepCfg s k 7) → exec (.stepUp k) s = .next s)
      ∧ ((∀ n ∈ (stepSt s k).members, stepCfg s k 7 ≤ (ctl s n).pgRun) → ∃ t, exec (.stepUp k) s = .next t
          ∧ t = { s with sq := t.sq } ∧ (stepSt t k).state = 2 ∧ (∀ j, j ≠ k.val → stepSt t j = stepSt s j)
          ∧ (s.sq.state = 1 → s.sq.ended = true → (∀ j ∈ s.sq.order, j = k.val ∨ (stepSt s j).state = 2) →
              t.sq.state = 2 ∧ t.sq.sticky = s.sq.sticky ||| 1)
          ∧ (s.sq.ended = false → t.sq.state = s.sq.state ∧ t.sq.sticky = s.sq.sticky)))
    ∧ ∀ (s : State) (k : Fin 256) (n : Nat), (stepSt s k).state = 1 → s.boot.restarting = false → (stepSt s k).members = [n] →
      (ctl s n).pgRun < stepCfg s k 7 →
      ((s.wheel.seam - (stepSt s k).startSeam).toNat < stepCfg s k 8 → exec (.stepTimeout k) s = .next s)
      ∧ (stepCfg s k 8 ≤ (s.wheel.seam - (stepSt s k).startSeam).toNat → ∃ t, exec (.stepTimeout k) s = .next t
        ∧ (stepCfg s k 0x0B = 1 → s.sq.failWant = false → t = { s with sq := t.sq, ctls := t.ctls }
            ∧ (stepSt t k).members = [] ∧ (stepSt t k).state = 1 ∧ hasBit t.sq.sticky 4 = true
            ∧ ((link s n).state = .starting → (2, skipNow s) ∈ (ctl t n).pend) ∧ t.sq.failWant = false)
        ∧ (stepCfg s k 0x0B ≠ 1 → hasBit t.sq.sticky 1 = true
            ∧ (hasBit s.sq.sticky 1 = false → t.sq.failStep = k.val ∧ t.sq.failPort = n)
            ∧ (s.sq.shutdown = false → (∃ i ∈ s.sq.order, startedStep (stepSt s i) = true
                  ∧ ∃ m ∈ (stepSt s i).ports, clsOf s m = 5 ∧ (link s m).state = .running) →
                t.sq.shutdown = true ∧ t.sq.origin = 2 ∧ t.sq.deadline = some (pfwRounds s) ∧ t.flow.pfw = true))))
  ∧ ((∀ (s : State) (n : PortId) (i : Nat), stepNos s = [i] → railDue s i n = true → ∃ t, exec (.railFault n) s = .next t
        ∧ n.val ∈ (stepSt t i).bad
        ∧ (stepCfg s i 0x0B = 1 → t = { s with sq := t.sq } ∧ hasBit t.sq.sticky 4 = true ∧ t.sq.shutdown = s.sq.shutdown)
        ∧ (stepCfg s i 0x0B ≠ 1 → hasBit t.sq.sticky 2 = true ∧ t.sq.failStep = i ∧ t.sq.failPort = n.val
            ∧ (i ∈ s.sq.order → (∃ m ∈ (stepSt s i).ports, clsOf s m = 5 ∧ (link s m).state = .running) →
                t.sq.shutdown = true ∧ t.sq.origin = 3 ∧ t.sq.deadline = some (pfwRounds s) ∧ t.flow.pfw = true)))
    ∧ (∀ (s : State) (n : PortId), (∀ i ∈ stepNos s, railDue s i n = false) → exec (.railFault n) s = .next s)
    ∧ ∀ (s : State) (i : Nat) (rest : List Nat) (n : Nat),
      (s.sq.shutdown = true → s.sq.deadline = some 0 → s.sq.stopOrder = i :: rest → (stepSt s i).state = 2 →
        (stepSt s i).ports = [n] → (link s n).state = .running →
        ∃ t, exec .pfwDeadline s = .next t ∧ t = { s with
            links := t.links, ctls := t.ctls, shelf := t.shelf, sq := t.sq, cfg := t.cfg, draws := t.draws,
            arr := { s.arr with shm := t.arr.shm } }
          ∧ MarginOnly s.cfg t.cfg ∧ PortsStand s t [n] ∧ (link t n).state = .stopping ∧ (ctl t n).vals = (stepSt s i).vals
          ∧ (ctl t n).since = 1
          ∧ (stepOr (stepSt s i).vals.offDelay (pcfg s n 4) ≠ 0 →
              (ctl t n).ramp = some (0, stepOr (stepSt s i).vals.rampDown (pcfg s n 5)))
          ∧ (stepSt t i).state = 4 ∧ t.sq.deadline = none ∧ t.sq.cancellable = false ∧ t.sq.state = 4 ∧ t.sq.stopOrder = i :: rest)
      ∧ (s.sq.deadline ≠ some 0 → exec .pfwDeadline s = .next s))

/-! ### Hem and thermal (10) -/

/-- The doubts of controller scope: two die conversions at DIE_CRIT, a rail outside its window for more than 1 µs,
KILL_N low. Each sets its SUMMARY bit, holds every port that is on, halts every Sleeve at the next tick and records
itself; the first cause stands. A core rail outside its window puts every output into high impedance besides. Rests on
R289, R293, R294, R296, R402, R433, R435. Causes that raise nothing: a rising KILL_N, a short or unmonitored excursion,
die temperatures below DIE_CRIT. Rests on R289, R296, R402, R433. -/
def Obligations.DoubtsHoldEveryPort : Prop :=
  ((∀ (s : State) (bit : Nat) (c : Instr), (bit = 0 ∧ c = .killN true)
        ∨ (bit = 1 ∧ ∃ rail : Byte, ∃ ns, 2 ≤ rail.toNat ∧ rail.toNat < 8 ∧ 1000 < ns ∧ c = .supply rail ns)
        ∨ (bit = 2 ∧ s.hem.dieRun ≥ 1 ∧ hasBit s.hem.summary 2 = false ∧ ∃ codes : List (BitVec 16), codes.length = 8
            ∧ (∃ x ∈ codes, cfgF s 0x2700 0x0B ≤ mkRat x.toInt 16) ∧ c = .dieConversion codes) →
      ∃ t, exec c s = .next t ∧ hasBit t.hem.summary bit = true ∧ t.hem.held = true ∧ ctrlHeld t = true
        ∧ (∀ n ∈ linkPorts s, EntersHem s t n) ∧ (∀ n, n ∉ linkPorts s → link t n = link s n)
        ∧ (∀ k < 32, (sleeve t k).halting = true) ∧ (∀ n, hemBit t n = true)
        ∧ (s.hem.summary &&& 0x1F = 0 → t.hem.firstCause = bit ∧ t.hem.firstRound = s.wheel.round)
        ∧ t.arr.engines = s.arr.engines ∧ t.wheel = s.wheel ∧ t.net = s.net ∧ MarginOnly s.cfg t.cfg ∧ t.boot = s.boot)
    ∧ ∀ (s : State) (rail : Byte) (ns : Nat), rail.toNat < 2 → ∃ t, exec (.supply rail ns) s = .next t
        ∧ t.boot.highZ = true ∧ t.wheel = { s.wheel with syncOut := 0 } ∧ (∀ n, (link t n).driving = false)
        ∧ (1000 < ns → hasBit t.hem.summary 1 = true ∧ t.hem.held = true ∧ (∀ n ∈ linkPorts s, EntersHem s t n)
            ∧ (∀ k < 32, (sleeve t k).halting = true) ∧ ∀ n, hemBit t n = true)
        ∧ (ns ≤ 1000 → t.hem = s.hem ∧ t.ctls = s.ctls ∧ t.arr = s.arr
            ∧ ∀ n, link t n = { link s n with driving := false }))
  ∧ (∀ s : State, (exec (.killN false) s = .next { s with hem := { s.hem with killLow := false } })
      ∧ (∀ (rail : Byte) (ns : Nat), (8 ≤ rail.toNat ∨ (2 ≤ rail.toNat ∧ ns ≤ 1000)) → exec (.supply rail ns) s = .next s)
      ∧ ∀ codes : List (BitVec 16), codes.length = 8 → (∀ x ∈ codes, mkRat x.toInt 16 < cfgF s 0x2700 0x0B) →
        ∃ t, exec (.dieConversion codes) s = .next t ∧ t = { s with hem := { s.hem with
            dieCodes := codes, dieMax := t.hem.dieMax, dieRun := 0, summary := t.hem.summary } }
          ∧ (∀ x ∈ codes, mkRat x.toInt 16 ≤ t.hem.dieMax) ∧ (∃ x ∈ codes, mkRat x.toInt 16 = t.hem.dieMax)
          ∧ t.hem.summary = (if cfgF s 0x2700 0x0A ≤ t.hem.dieMax then s.hem.summary ||| 0x20 else s.hem.summary))

/-- The releases: CLEAR_CONTROLLER needs every cause cleared, CLEAR_SLEEVE no broader hold and no doubt of its own,
CLEAR_PORT a port in HEM under no broader hold; each waits for its seam and is told to the mate; CLEAR_GROUP releases
what it can and names the first port refused; a port with a stale temperature report is marked. Rests on R289, R298,
R313, R344. -/
def Obligations.HoldsAreReleasedAtSeams : Prop :=
  (∀ (s : State) (lvl : Level) (v : Byte), Admits s lvl 0x2310 1 v.toNat →
    (v = 0 → exec (.clearController lvl v) s = .next (answered s stOK))
    ∧ (v ≠ 0 → s.hem.summary.toNat % 32 ≠ 0 → exec (.clearController lvl v) s = .next (answered s stState))
    ∧ (v ≠ 0 → s.hem.summary.toNat % 32 = 0 → s.hem.held = true → exec (.clearController lvl v) s = .next
        (sendCtrl { answered s stOK with hem := { s.hem with release := some (skipNow s) } } (.release 2 0))))
  ∧ (∀ (s : State) (lvl : Level) (v : Byte), Admits s lvl 0x2310 2 v.toNat →
    (ctrlHeld s = true ∨ (sleeve s v.toNat).sticky &&& 0x7F ≠ 0 → exec (.clearSleeve lvl v) s = .next (answered s stState))
    ∧ (ctrlHeld s = false → (sleeve s v.toNat).sticky &&& 0x7F = 0 → (sleeve s v.toNat).held = true →
        ∃ t, exec (.clearSleeve lvl v) s = .next t
          ∧ t = sendCtrl { answered s stOK with arr := { s.arr with sleeves := t.arr.sleeves } } (.release 1 v.toNat)
          ∧ (∀ k, k ≠ v.toNat → sleeve t k = sleeve s k)
          ∧ sleeve t v.toNat = { sleeve s v.toNat with restart := some (skipNow s) }))
  ∧ (∀ (s : State) (lvl : Level) (v : BitVec 16), Admits s lvl 0x2310 3 v.toNat →
    let n := v.toNat
    ((link s n).state ≠ .hem ∨ ctrlHeld s = true ∨ (sleeve s (n / 8)).held = true ∨ hasBit (link s n).sticky 0 = true →
      exec (.clearPort lvl v) s = .next (answered s stState))
    ∧ (clearPortRefused s n = false → ∃ t, exec (.clearPort lvl v) s = .next t
        ∧ t = sendCtrl { answered s stOK with ctls := t.ctls } (.release 0 n) ∧ (∀ k, k ≠ n → ctl t k = ctl s k)
        ∧ ctl t n = { ctl s n with tripped := false, armHold := false, lostHold := false, release := some (skipNow s) }))
  ∧ (∀ (s : State) (lvl : Level) (v : Byte), Admits s lvl 0x2310 4 v.toNat →
    let ms := members s v.toNat
    ∃ t, exec (.clearGroup lvl v) s = .next t
      ∧ t = { answered s stOK with
          ctls := t.ctls, net := { (answered s stOK).net with gres := t.net.gres },
          pair := { s.pair with sentCtrl := s.pair.sentCtrl ++
            (if s.pair.role = .active ∧ s.pair.link = 2 then
              (ms.filter fun n => !clearPortRefused s n).map (Ctrl.release 0) else []) } }
      ∧ (∀ n, (n ∈ ms ∧ clearPortRefused s n = false) → (ctl t n).tripped = false ∧ (ctl t n).armHold = false
          ∧ (ctl t n).release = some (skipNow s))
      ∧ (∀ n, ¬(n ∈ ms ∧ clearPortRefused s n = false) → ctl t n = ctl s n)
      ∧ (tget {} t.net.gres v.toNat).written = ms.filter (fun n => !clearPortRefused s n)
      ∧ ((∀ n ∈ ms, clearPortRefused s n = false) → (tget {} t.net.gres v.toNat).failPort = 0xFFFF)
      ∧ (∀ n, ms.find? (clearPortRefused s) = some n → (tget {} t.net.gres v.toNat).failPort = n
          ∧ (tget {} t.net.gres v.toNat).failStatus = stState))
  ∧ ∀ (s : State) (n : PortId), thermOn s n = true → (ctl s n).stale = false →
    ((∀ g < (link s n).groupCount, tget 0 (ctl s n).ages g < 128) → exec (.stale n) s = .next s)
    ∧ ((∃ g < (link s n).groupCount, 128 ≤ tget 0 (ctl s n).ages g) → ∃ t, exec (.stale n) s = .next t ∧ OnlyCtl s t n
        ∧ ctl t n = { ctl s n with stale := true, thermSticky := (ctl s n).thermSticky ||| 4 })

/-! ### Redundant pair (11) -/

/-- HELLO, the end of arbitration and the lanes of the mate link settle a unit's role: out of two that command the one
that more uplinks report stays, equal unit numbers are flagged, a JOINING or HOT unit that loses a lane becomes COLD; a
unit tells the mate its new role, and an ACTIVE copies its configuration to the mate once. Rests on R305, R306, R308,
R313, R320, R410. -/
def Obligations.ArbitrationAssignsRoles : Prop :=
  (∀ (s : State) (h : Hello),
    let mate := h.role = .solo ∨ h.role = .active
    let p : Pair := { s.pair with
      hello := some h, mateRole := some h.role,
      sweepNext := if h.role = .joining then (if s.pair.mateRole = some .joining then s.pair.sweepNext else some 0) else none,
      sweepSl := if h.role = .hot ∨ h.role = .joining then s.pair.sweepSl else [],
      seamOffset := if mate ∧ commands s = false then (h.seam.toNat : Int) - s.wheel.seam.toNat else s.pair.seamOffset }
    let own := obeyCount s (s.pair.unit + 1)
    let other := obeyCount s (h.unit + 1)
    (s.pair.link ≠ 2 → exec (.hello h) s = .next s)
    ∧ (s.pair.link = 2 →
      (h.unit = s.pair.unit → exec (.hello h) s = .next { s with pair := { p with settled := true, sticky := p.sticky ||| 4 } })
      ∧ (h.unit ≠ s.pair.unit →
        (s.pair.role = .out → s.pair.settled = false → ¬mate → s.pair.unit = 0 →
          exec (.hello h) s = .next (sendCopy (tellRole { s with
            pair := { p with settled := true, activeAtSeam := true } })))
        ∧ (s.pair.role = .out → s.pair.settled = false → mate ∨ s.pair.unit ≠ 0
          → exec (.hello h) s = .next (sendCopy (tellRole { s with
            pair := { p with settled := true, sticky := if helloDiffers s h then p.sticky ||| 8 else p.sticky } })))
        ∧ (s.pair.role = .solo → ¬mate → helloDiffers s h = false → ∃ t, exec (.hello h) s = .next (sendCopy (tellRole t))
            ∧ t = { s with pair := roleOf p .active, wheel := t.wheel } ∧ t.wheel.mode = cfg s 0x2001 1)
        ∧ (s.pair.role = .solo → mate → other < own ∨ (own = other ∧ s.pair.unit = 0)
          → ∃ t, exec (.hello h) s = .next (sendCopy (tellRole t))
            ∧ t = { s with pair := roleOf p .active, wheel := t.wheel } ∧ t.wheel.mode = cfg s 0x2001 1)
        ∧ (s.pair.role = .solo → mate → ¬(other < own ∨ (own = other ∧ s.pair.unit = 0))
          → exec (.hello h) s = .next (sendCopy (tellRole { s with
            pair := { p with nextRole := some .out, sticky := if helloDiffers s h then p.sticky ||| 8 else p.sticky } })))
        ∧ ((s.pair.role = .out ∧ s.pair.settled = true) ∨ (s.pair.role = .solo ∧ ¬mate ∧ helloDiffers s h = true)
            ∨ s.pair.role = .active ∨ s.pair.role = .hot ∨ s.pair.role = .joining
            ∨ s.pair.role = .cold → exec (.hello h) s = .next (sendCopy (tellRole { s with pair := p }))))))
  ∧ (∀ s : State,
    (s.pair.told = s.pair.role → tellRole s = s)
    ∧ (s.pair.told ≠ s.pair.role → tellRole s = { s with pair := { s.pair with
        told := s.pair.role,
        sentCtrl := s.pair.sentCtrl ++ (if s.pair.link = 2 then [Ctrl.role s.pair.role] else []) } })
    ∧ (s.pair.role ≠ .active ∨ s.pair.link ≠ 2 ∨ s.pair.copied = true → sendCopy s = s)
    ∧ (s.pair.role = .active → s.pair.link = 2 → s.pair.copied = false → ∃ l,
        sendCopy s = { s with pair := { s.pair with copied := true, sentCtrl := s.pair.sentCtrl ++ l } }
        ∧ (∀ ix sub v, sub < 256 → tfind s.cfg (okey ix sub) = some v → ¬(ix = 0x2201 ∧ sub = 1) → Ctrl.config ix sub v ∈ l)
        ∧ (∀ k b, tfind s.net.levelKeys k = some b → Ctrl.bytes 0x1200 k b ∈ l)
        ∧ (∀ k b, tfind s.net.imageKeys k = some b → Ctrl.bytes 0x1210 k b ∈ l)
        ∧ ∀ n b, tfind s.net.labels n = some b → Ctrl.bytes (0x3200 + n) 11 b ∈ l))
  ∧ (∀ s : State,
    let waits := s.pair.settled = false ∧ s.pair.hello = none ∧ s.pair.role = .out
    let heard := s.pair.unit = 1 ∧ ∃ x ∈ s.links, x.2.frameOk = true ∧ x.2.obeys = 1
    (¬waits → exec .arbitrationTimeout s = .next s)
    ∧ (waits → heard → exec .arbitrationTimeout s = .next { s with
        pair := { s.pair with settled := true, sticky := s.pair.sticky ||| 1 } })
    ∧ (waits → ¬heard → ∃ t, exec .arbitrationTimeout s = .next t
      ∧ t = { s with pair := roleOf { s.pair with settled := true } .solo, wheel := t.wheel, links := t.links }
      ∧ t.wheel.mode = cfg s 0x2001 1
      ∧ ∀ n ∈ linkPorts s, (link s n).state ≠ .absent → (link s n).state ≠ .training →
          (link t n).cfgOut = true ∧ (link t n).cfgOk = false))
  ∧ (∀ s : State, exec .mateLinkUp s = .next { s with pair := { s.pair with link := 2, lanes := List.range 8 } })
  ∧ ∀ (s : State) (lane : Fin 8),
    let lanes := s.pair.lanes.filter fun k => k != lane.val
    let p : Pair := { s.pair with
      lanes := lanes, link := if lanes = [] ∨ s.pair.link = 0 then 0 else 1, copied := false, sweepNext := none, sweepSl := [],
      mateRole := if lanes = [] then none else s.pair.mateRole,
      sticky := s.pair.sticky ||| (if lanes = [] ∧ s.pair.role = .active then 3 else 2) }
    (s.pair.role ≠ .joining → s.pair.role ≠ .hot → exec (.laneDown lane) s = .next { s with pair := p })
    ∧ (s.pair.role = .joining ∨ s.pair.role = .hot → ∃ t, exec (.laneDown lane) s = .next t
      ∧ t = { s with pair := roleOf p .cold, wheel := t.wheel, arr := { s.arr with sleeves := t.arr.sleeves } }
      ∧ t.wheel.mode = (if s.pair.settled then 1 else cfg s 0x2001 1)
      ∧ ∀ n < 32, sleeve t n = { sleeve s n with halted := true, halting := false, parked := true })

/-- A shadow unit follows the active's record of each round: a WHEEL block that is late splits the inputs, stores and
swept lines reach the persistent words, digests send a Sleeve with split inputs to resynchronisation and a unit with a
mismatch to COLD; an ACTIVE sweeps a Sleeve with split inputs for its HOT mate. Rests on R307, R309, R310, R315 to R317. -/
def Obligations.ShadowFollowsTheActive : Prop :=
  ∀ s : State,
    let shadow := s.pair.role = .hot ∨ (s.pair.role = .joining ∧ ∃ k, s.pair.join = some k ∧ 5 ≤ k)
    let takes (sl : Nat) := (s.pair.role = .joining ∧ ∃ k, s.pair.join = some k ∧ k < 5)
      ∨ (s.pair.role = .hot ∧ hasBit s.pair.resync sl = true)
    (shadow → s.pair.wheelGot = false → exec .wheelBlockDeadline s = .next { s with
        pair := { s.pair with blockLate := true, sticky := s.pair.sticky ||| 0x10 } })
    ∧ (¬(shadow ∧ s.pair.wheelGot = false) → exec .wheelBlockDeadline s = .next s)
    ∧ (∀ (sl : SleeveId) (words : List (Nat × Nat × Word)),
      let place (x : Nat × Nat × Word) : Nat := (32 * sl.val + x.1 % 32) * 4096 + 0xF00 + x.2.1 % 64 * 4
      (¬takes sl → exec (.store sl words) s = .next s)
      ∧ (takes sl → ∃ t, exec (.store sl words) s = .next t ∧ t = { s with arr := { s.arr with dmem := t.arr.dmem } }
        ∧ (∀ a, (∀ x ∈ words, a < place x ∨ place x + 4 ≤ a) → mget t.arr.dmem a = mget s.arr.dmem a)
        ∧ ∀ pre x post, words = pre ++ x :: post → (∀ y ∈ post, place y ≠ place x) → wordAt t.arr.dmem (place x) = x.2.2))
    ∧ (∀ (line : Nat) (words : List Word), words.length = 16 →
      let base := line / 4 * 4096 + 0xF00 + line % 4 * 64
      (4096 ≤ line ∨ ¬takes (line / 128) → exec (.sweep line words) s = .next s)
      ∧ (line < 4096 → takes (line / 128) → ∃ t, exec (.sweep line words) s = .next t
        ∧ t = { s with arr := { s.arr with dmem := t.arr.dmem }, pair := { s.pair with
            sweepLines := if s.pair.role = .joining ∧ line = s.pair.sweepLines then line + 1 else s.pair.sweepLines,
            resyncLines := t.pair.resyncLines } }
        ∧ SameOutside s.arr.dmem t.arr.dmem base 64
        ∧ (∀ k w, words[k]? = some w → wordAt t.arr.dmem (base + 4 * k) = w)
        ∧ (∀ n, tget 0 t.pair.resyncLines n = tget 0 s.pair.resyncLines n
            + (if s.pair.role = .hot ∧ n = line / 128 ∧ tget 0 s.pair.resyncLines n < 128 then 1 else 0))))
    ∧ ∀ (ds : List Word) (fs : List Byte),
      let runs (n : Nat) := hasBit s.pair.resync n = false ∧ (sleeve s n).halted = false
      let split (n : Nat) := runs n ∧ (s.pair.ownPrev = true ∨ (fs[n]?).getD 0 ≠ (s.pair.frameOks[n]?).getD 0)
      let wrong (n : Nat) := runs n ∧ ¬split n ∧ (ds[n]?).getD 0 ≠ tget 0 s.pair.digests n
      (¬shadow → ¬(s.pair.role = .active ∧ s.pair.mateRole = some .hot) → exec (.digest ds fs) s = .next s)
      ∧ (s.pair.role = .active → s.pair.mateRole = some .hot → ∃ l, exec (.digest ds fs) s = .next { s with pair := { s.pair with
          sweepSl := s.pair.sweepSl ++ l } }
        ∧ (l.map Prod.fst).Nodup
        ∧ ∀ x, x ∈ l ↔ x.2 = 0 ∧ x.1 < 32 ∧ (sleeve s x.1).halted = false
            ∧ (fs[x.1]?).getD 0 ≠ (s.pair.frameOks[x.1]?).getD 0 ∧ ∀ y ∈ s.pair.sweepSl, y.1 ≠ x.1)
      ∧ (shadow → ∃ t, exec (.digest ds fs) s = .next t
        ∧ t = { s with arr := { s.arr with sleeves := t.arr.sleeves }, pair := { s.pair with
            resync := t.pair.resync, resyncLines := t.pair.resyncLines, sticky := t.pair.sticky, mismatches := t.pair.mismatches,
            mismatchRound := t.pair.mismatchRound, mismatchSleeve := t.pair.mismatchSleeve, nextRole := t.pair.nextRole } }
        ∧ (∀ n < 32, (split n → hasBit t.pair.resync n = true ∧ tget 0 t.pair.resyncLines n = 0
              ∧ sleeve t n = { sleeve s n with halting := true, parked := true } ∧ hasBit t.pair.sticky 4 = true)
            ∧ (¬split n → hasBit t.pair.resync n = hasBit s.pair.resync n ∧ sleeve t n = sleeve s n
              ∧ tget 0 t.pair.resyncLines n = tget 0 s.pair.resyncLines n))
        ∧ ((∃ n < 32, wrong n) → t.pair.nextRole = some .cold ∧ hasBit t.pair.sticky 5 = true
            ∧ t.pair.mismatchRound = s.wheel.round - 1 ∧ t.pair.mismatchSleeve < 32 ∧ wrong t.pair.mismatchSleeve
            ∧ ∀ n < 32, wrong n → n ≤ t.pair.mismatchSleeve)
        ∧ ((∀ n < 32, ¬wrong n) → t.pair.nextRole = s.pair.nextRole ∧ hasBit t.pair.sticky 5 = hasBit s.pair.sticky 5
            ∧ t.pair.mismatchRound = s.pair.mismatchRound ∧ t.pair.mismatchSleeve = s.pair.mismatchSleeve)
        ∧ t.pair.mismatches = s.pair.mismatches + BitVec.ofNat 32 (allSleeves.filter fun n => decide (wrong n)).length
        ∧ ((∀ n < 32, ¬split n) → hasBit t.pair.sticky 4 = hasBit s.pair.sticky 4)
        ∧ ∀ b, b ≠ 4 → b ≠ 5 → hasBit t.pair.sticky b = hasBit s.pair.sticky b)

/-- Authority changes hands only for the causes of the spec: a HOT, a JOINING or an admitted COLD unit takes over when
the WHEEL record of a commanding mate is missing, a HOT one on its announcement; fewer reports than the mate has end it;
HANDOVER and WITHDRAW wait for their seam; records of the mate, with its writes, keys and pack state, are followed by a
unit that does not command. Rests on R308, R312, R313, R318 to R322, R324. -/
def Obligations.AuthorityChangesHands : Prop :=
  (∀ s : State,
    let due := (s.pair.role = .hot ∨ s.pair.role = .joining ∨ (s.pair.role = .cold ∧ cfg s 0x2201 4 = 1))
      ∧ (s.pair.mateRole = some .active ∨ s.pair.mateRole = some .solo) ∧ s.pair.wheelGot = false ∧ s.pair.seedLeft = none
      ∧ s.pair.nextRole ≠ some .active ∧ s.boot.frozen = false
    (¬due → exec .takeover s = .next s)
    ∧ (due → s.pair.role = .hot → s.pair.resync = 0 → exec .takeover s = .next { s with pair := { s.pair with
        lossRound := s.wheel.round, nextCause := 1, coverage := 100, covered := 0xFFFFFFFF, nextRole := some .active } })
    ∧ (due → s.pair.role ≠ .hot ∨ (∃ n < 32, hasBit s.pair.resync n = true) → ∃ t, exec .takeover s = .next t
      ∧ t = { s with
          arr := { s.arr with dmem := t.arr.dmem, engines := t.arr.engines, sleeves := t.arr.sleeves },
          pair := { s.pair with
            lossRound := s.wheel.round, nextCause := if s.pair.role = .cold then 5 else 4, coverage := t.pair.coverage,
            covered := t.pair.covered, seedLeft := some (s.pat.run.seedRounds + 2), resync := 0, resyncLines := [] } }
      ∧ t.pair.coverage = mkRat (4 * ((List.range 1024).filter (covered s)).length * 100) 4096
      ∧ (∀ n < 32, hasBit t.pair.covered n = (sleeveEngines n).all (covered s))
      ∧ (∀ a, a % 4096 < 0xF00 ∨ 1024 * 4096 ≤ a → mget t.arr.dmem a = mget s.arr.dmem a)
      ∧ (∀ e, e / 32 < 32 → engine t e =
          if s.pair.role ≠ .hot ∨ hasBit s.pair.resync (e / 32) = true then {} else engine s e)
      ∧ ∀ n < 32,
          let seeds := s.pair.role ≠ .hot ∨ hasBit s.pair.resync n = true
          (seeds → sleeve t n = { sleeve s n with
              halted := false, halting := false, parked := false, seedLeft := s.pat.run.seedRounds + 1, seedMute := false })
          ∧ (¬seeds → sleeve t n = sleeve s n)
          ∧ ∀ e k, e / 32 = n → k < 64 →
              (seeds → covered s e = false →
                wordAt t.arr.dmem (e * 4096 + 0xF00 + 4 * k) = wordInit s.pat.run e (960 + k))
              ∧ (¬seeds ∨ covered s e = true →
                wordAt t.arr.dmem (e * 4096 + 0xF00 + 4 * k) = wordAt s.arr.dmem (e * 4096 + 0xF00 + 4 * k))))
  ∧ (∀ s : State,
    let due := s.pair.countPend = some 0 ∧ obeyCount s (s.pair.unit + 1) < obeyCount s (2 - s.pair.unit)
    (due → exec .splitWithdraw s = .next { s with pair := { s.pair with
        countPend := none, nextRole := some .cold, sticky := s.pair.sticky ||| 0x40 } })
    ∧ (¬due → exec .splitWithdraw s = .next s))
  ∧ (∀ (s : State) (lvl : Level) (v : Byte), Admits s lvl 0x2201 3 v.toNat →
    (v = 0 → exec (.handover lvl v) s = .next (answered s stOK))
    ∧ (v ≠ 0 → s.pair.role = .active → s.pair.mateRole = some .hot → exec (.handover lvl v) s = .next { answered s stOK with
        pair := { s.pair with
          handover := some (skipNow s),
          sentCtrl := s.pair.sentCtrl ++ (if s.pair.link = 2 then [Ctrl.role .hot] else []) } })
    ∧ (v ≠ 0 → ¬(s.pair.role = .active ∧ s.pair.mateRole = some .hot) →
        exec (.handover lvl v) s = .next (answered s stState)))
  ∧ (∀ (s : State) (lvl : Level) (v : Byte), Admits s lvl 0x2201 5 v.toNat →
    (v = 0 → exec (.withdraw lvl v) s = .next (answered s stOK))
    ∧ (v ≠ 0 → s.pair.role = .active → exec (.withdraw lvl v) s = .next (answered s stState))
    ∧ (v ≠ 0 → s.pair.role ≠ .active → exec (.withdraw lvl v) s = .next { answered s stOK with
        pair := { s.pair with withdraw := some (skipNow s) } }))
  ∧ ∀ s : State,
    (∀ c, s.pair.link ≠ 2 → exec (.ctrl c) s = .next s)
    ∧ (s.pair.link = 2 →
      (∀ r, exec (.ctrl (.role r)) s = .next { s with pair := { s.pair with
          mateRole := some r,
          sweepNext := if r = .joining then (if s.pair.mateRole = some .joining then s.pair.sweepNext else some 0) else none,
          sweepSl := if r = .hot ∨ r = .joining then s.pair.sweepSl else [],
          takeAtSeam := if r = .hot ∧ s.pair.role = .hot then some (skipNow s) else s.pair.takeAtSeam } })
      ∧ (s.pair.role = .hot → s.hem.summary &&& 0x1F = 0 → (∀ n < 32, (sleeve s n).sticky &&& 0x7F = 0) →
          exec (.ctrl .handover) s = .next { s with draws := s.draws + 1, pair := { s.pair with
            nextRole := some .active, nextCause := 2, gapRounds := if Config.freeBool s.draws then 1 else 0, coverage := 100,
            covered := 0xFFFFFFFF } })
      ∧ (s.pair.role ≠ .hot → exec (.ctrl .handover) s = .next s)
      ∧ ((s.hem.summary &&& 0x1F ≠ 0 ∨ ∃ n < 32, (sleeve s n).sticky &&& 0x7F ≠ 0) → exec (.ctrl .handover) s = .next s)
      ∧ (commands s = true → ∀ c, (∀ r, c ≠ .role r) → exec (.ctrl c) s = .next s)
      ∧ (commands s = false →
        (∀ ix sub v, ¬(ix = 0x2201 ∧ sub = 1) → exec (.ctrl (.config ix sub v)) s = .next { s with
            net := { s.net with pend := s.net.pend ++ [⟨ix, sub, v, skipNow s⟩] } })
        ∧ (∀ v, exec (.ctrl (.config 0x2201 1 v)) s = .next s)
        ∧ (∀ v, s.pair.role = .joining → ∃ t, exec (.ctrl (.command 0x2101 6 v)) s = .next t
            ∧ t = { s with pair := roleOf s.pair .out, wheel := t.wheel, arr := t.arr })
        ∧ (∀ ix sub v, ¬(s.pair.role = .joining ∧ ix = 0x2101 ∧ sub = 6) → paramAt s ix sub = none → isImage ix = false →
            exec (.ctrl (.command ix sub v)) s = .next (effect s ix sub v).2)
        ∧ (∀ ix sub v, ¬(s.pair.role = .joining ∧ ix = 0x2101 ∧ sub = 6) → paramAt s ix sub = none → isImage ix = true →
            exec (.ctrl (.command ix sub v)) s = .next (groupWrite s ix sub v).2)
        ∧ (∀ ix sub v p, ¬(s.pair.role = .joining ∧ ix = 0x2101 ∧ sub = 6) → paramAt s ix sub = some p →
            exec (.ctrl (.command ix sub v)) s = .next (paramWrite s p v).2)
        ∧ (∀ k b, exec (.ctrl (.bytes 0x1200 k b)) s = .next { s with
            net := { s.net with levelKeys := tput s.net.levelKeys k b } })
        ∧ (∀ k b, exec (.ctrl (.bytes 0x1210 k b)) s = .next { s with
            net := { s.net with imageKeys := tput s.net.imageKeys k b } })
        ∧ (∀ n b, exec (.ctrl (.bytes (0x3200 + n) 11 b)) s = .next { s with
            net := { s.net with labels := tset [] s.net.labels n b } })
        ∧ (∀ a : Byte, ∃ t, exec (.ctrl (.capSelect a)) s = .next t
            ∧ t = { s with
                cfg := tput s.cfg (okey 0x2505 3) a.toNat,
                flow := { s.flow with
                  capEff := if (s.flow.capLow1 = true ∧ s.flow.capLow2 = true) ∨ cfg t 0x2505 3 = 1 then 1 else 0 } })
        ∧ (∀ scope n, exec (.ctrl (.release scope n)) s = .next (if scope = 0 then (clearPort s n).2
            else if scope = 1 then (clearSleeve s n).2 else (clearController s 1).2))
        ∧ (∀ (p : PackId) soc cap conf rested, ∃ t, exec (.ctrl (.packState p soc cap conf rested)) s = .next t ∧ OnlyPack s t p
            ∧ pack t p = { pack s p with soc := f32Val soc, capLearned := f32Val cap, conf := conf, rested := rested })
        ∧ (∀ safe count, exec (.ctrl (.watchdog safe count)) s = .next { s with
            shelf := { s.shelf with cwdSafe := safe, cwdTime := f32Val count } })
        ∧ ∀ st step, exec (.ctrl (.sequencer st step)) s = .next { s with sq := { s.sq with state := st, step := step } }))

/-! ### The field network (12) -/

/-- A message reaches the server only where one runs: a restarting Collar holds up to 256, otherwise it is lost; a wrong
tag or an unknown session is discarded and counted; a SEQ that does not rise is answered AUTH and counted as a replay.
Rests on R330, R334, R336. OPEN with the nonce of an open session repeats its reply, of 64 sessions none is evicted,
otherwise the lowest free number is given; CLOSE, CLOSE_SESSION and 120 idle seconds close a session with its
subscriptions. Rests on R332, R333, R335, R422. -/
def Obligations.MessagesAndSessions : Prop :=
  (∀ (s : State) (c : Instr) (m : InMsg), messageOf c = some m →
      (serverRuns s = false → s.boot.restarting = true → inReset s = false →
        (s.net.ingress.length < 256 → exec c s = .next { s with net := { s.net with ingress := s.net.ingress ++ [m] } })
        ∧ (256 ≤ s.net.ingress.length → exec c s = .next { s with net := { s.net with
            rxqDropped := s.net.rxqDropped + 1 } }))
      ∧ (serverRuns s = false → ¬(s.boot.restarting = true ∧ inReset s = false) → exec c s = .next s)
      ∧ (serverRuns s = true → m.auth.macOk = false → exec c s = .next { s with net := { s.net with
          authFail := s.net.authFail + 1 } })
      ∧ (serverRuns s = true → (∀ lvl nonce client, m.req ≠ .openS lvl nonce client) →
          tfind s.net.sessions m.auth.session = none → exec c s = .next { s with net := { s.net with
            authFail := s.net.authFail + 1 } })
      ∧ (∀ x, serverRuns s = true → (∀ lvl nonce client, m.req ≠ .openS lvl nonce client) → m.auth.macOk = true →
          tfind s.net.sessions m.auth.session = some x → m.auth.seq ≤ x.seq →
          exec c s = .next (sends { s with net := { s.net with
              sessions := tput s.net.sessions m.auth.session { x with outSeq := x.outSeq + 1 }, replay := s.net.replay + 1 } }
            ⟨.host, reqKind m.req + 0x80, m.auth.session, x.outSeq + 1, 0, 0, leBytes 2 stAuth⟩)))
  ∧ ((∀ (s : State) (lvl : Level) (nonce : BitVec 128) (client : BitVec 64), serverRuns s = true →
      let known := s.net.sessions.find? fun x => x.2.clientNonce == nonce
      let able := s.boot.frozen = false ∧ s.boot.asleep = false ∧ (s.boot.recovery = true → lvl = .service)
      let server := leBytes 16 (Config.freeNonce s.draws).toNat
      (∀ x, known = some x →
        exec (.openS lvl nonce client true) s = .next (sends s ⟨.host, 0x81, x.1, 1, x.2.replyTag, 0, x.2.reply⟩))
      ∧ (known = none → ¬able → exec (.openS lvl nonce client true) s = .next (sends { s with draws := s.draws + 1 }
          ⟨.host, 0x81, 0, 0, 0, 0, leBytes 2 0 ++ leBytes 2 stState ++ server ++ leBytes 2 120⟩))
      ∧ (known = none → able → 64 ≤ s.net.sessions.length →
          exec (.openS lvl nonce client true) s = .next (sends { s with
              draws := s.draws + 1, net := { s.net with refused := s.net.refused + 1 } }
            ⟨.host, 0x81, 0, 0, 0, 0, leBytes 2 0 ++ leBytes 2 stFull ++ server ++ leBytes 2 120⟩))
      ∧ (known = none → able → s.net.sessions.length < 64 → ∃ k, 1 ≤ k ∧ k ≤ 64 ∧ tfind s.net.sessions k = none
        ∧ (∀ j, 1 ≤ j → j < k → tfind s.net.sessions j ≠ none)
        ∧ let body := leBytes 2 k ++ leBytes 2 stOK ++ server ++ leBytes 2 120
          exec (.openS lvl nonce client true) s = .next (sends { s with
              draws := s.draws + 1,
              net := { s.net with
                sessions := tput s.net.sessions k
                  { level := lvl, clientNonce := nonce, serverNonce := Config.freeNonce s.draws, clientId := client, seq := 0,
                    urgSeq := 0, outSeq := 1, outUrg := 0, idle := 0, locate := 0xFFFFFFFF, replyTag := 0, reply := body } } }
            ⟨.host, 0x81, k, 1, 0, 0, body⟩)))
    ∧ (∀ (s : State) (a : Auth) (x : Session), serverRuns s = true → a.macOk = true → tfind s.net.sessions a.session = some x →
      x.seq < a.seq →
      let u := accepted s a x
      (s.boot.asleep = false → exec (.close a) s = .next (sends { u with net := { u.net with
          sessions := tdel u.net.sessions a.session, subs := s.net.subs.filter fun y => y.session != a.session } }
        ⟨.host, 0x82, a.session, x.outSeq + 1, 0, 0, []⟩))
      ∧ (s.boot.asleep = true → exec (.close a) s = .next (sends u
        ⟨.host, 0x82, a.session, x.outSeq + 1, 0, 0, leBytes 2 stState⟩)))
    ∧ (∀ (s : State) (lvl : Level) (v : BitVec 16), Admits s lvl 0x1100 7 v.toNat →
      (tfind s.net.sessions v.toNat = none → exec (.closeSession lvl v) s = .next (answered s stRange))
      ∧ (tfind s.net.sessions v.toNat ≠ none → exec (.closeSession lvl v) s = .next { s with net := { (answered s stOK).net with
          sessions := tdel s.net.sessions v.toNat, subs := s.net.subs.filter fun y => y.session != v.toNat } }))
    ∧ ∀ s : State,
      let l := s.net.sessions.map fun x => (x.1, { x.2 with idle := x.2.idle + 1 })
      let old (k : Nat) : Bool := l.any fun x => x.1 == k && decide (121 ≤ x.2.idle)
      (inReset s = true → exec .sessionIdleCheck s = .next s)
      ∧ (inReset s = false → serverRuns s = false → exec .sessionIdleCheck s = .next { s with net := { s.net with sessions := l } })
      ∧ (inReset s = false → serverRuns s = true → exec .sessionIdleCheck s = .next { s with net := { s.net with
          sessions := l.filter fun x => !old x.1, subs := s.net.subs.filter fun y => !old y.session } }))

/-- Accepted requests are executed item by item and answered under their session: reads, writes, domain blocks with
their CRC, domain reads cut at the end, subscriptions with a status per item. Rests on R331, R334, R341, R345, R351,
R377, R424. -/
def Obligations.RequestsAreExecutedAndAnswered : Prop :=
  ∀ (s : State) (a : Auth) (x : Session), serverRuns s = true → a.macOk = true → tfind s.net.sessions a.session = some x →
    x.seq < a.seq →
    let u := accepted s a x
    let reply (kind count : Nat) (body : List Byte) : Reply := ⟨.host, kind, a.session, x.outSeq + 1, 0, count, body⟩
    (∀ items : List ReadItem,
      let r := readItems x.level a.session (items.map fun i => (i.index, i.sub)) u
      exec (.read a items) s = .next (sends r.2 (reply 0x90 items.length r.1))
      ∧ ((∀ i ∈ items, ¬(0x2940 ≤ i.index ∧ i.index < 0x2980)) → r.2 = u
          ∧ r.1 = (items.map fun i => let q := readItem u x.level a.session i.index i.sub
              readReply i.index i.sub (q.1, q.2.1, q.2.2.1)).flatten))
    ∧ (∀ items : List WriteItem,
      let r := writeItems x.level a.session items u
      exec (.write a items) s = .next (sends r.2 (reply 0x91 items.length r.1))
      ∧ (s.boot.frozen = true → r.2 = u
          ∧ r.1 = (items.map fun i => leBytes 2 i.index ++ leBytes 1 i.sub ++ [0] ++ leBytes 2 stState).flatten)
      ∧ (s.boot.frozen = false → (∀ i ∈ items, accessStatus u x.level i.index i.sub true ≠ stOK) → r.2 = u
          ∧ r.1 = (items.map fun i => leBytes 2 i.index ++ leBytes 1 i.sub ++ [0]
              ++ leBytes 2 (accessStatus u x.level i.index i.sub true)).flatten))
    ∧ (∀ b : DomainBlock,
      (s.boot.frozen = true ∨ s.boot.asleep = true →
        exec (.domainWrite a b) s = .next (sends u (reply 0x92 1 (leBytes 2 stState))))
      ∧ (s.boot.frozen = false → s.boot.asleep = false →
        exec (.domainWrite a b) s = .next (sends (domainWriteMsg u x.level b).2
          (reply 0x92 1 (leBytes 2 (domainWriteMsg u x.level b).1)))
        ∧ (crc32 b.data ≠ b.crc ∨ b.total < b.offset + b.data.length →
          exec (.domainWrite a b) s = .next (sends u (reply 0x92 1 (leBytes 2 stBlock))))
        ∧ (∀ y r, badBlock u b = false → accessStatus u x.level b.index b.sub true = stOK →
            rowHere u b.index b.sub = some r → r.ty = 12 → 1 ≤ b.data.length → b.data.length ≤ 1024 → badTotal b = false →
            gated u b.index b.sub = false → dlTarget b.index b.sub = some y → (dl s y).state = 1 → dlState s y = false →
            ∃ t, exec (.domainWrite a b) s = .next (sends t (reply 0x92 1 (leBytes 2 stOK)))
              ∧ t = { u with mram := t.mram, boot := { s.boot with dls := t.boot.dls } }
              ∧ (∀ k, k ≠ y → dl t k = dl s k)
              ∧ (∀ i (h : i < b.data.length), mget t.mram (dlAddr s y + b.offset + i) = b.data[i])
              ∧ SameOutside s.mram t.mram (dlAddr s y + b.offset) b.data.length
              ∧ dl t y = { dl s y with ranges := (dl t y).ranges, state := (dl t y).state }
              ∧ ((dl t y).state = 2 ↔ rangeSum (dl t y).ranges = (dl s y).total) ∧ ((dl t y).state = 1 ∨ (dl t y).state = 2))
        ∧ (∀ y r, badBlock u b = false → accessStatus u x.level b.index b.sub true = stOK →
            rowHere u b.index b.sub = some r → r.ty = 12 → 1 ≤ b.data.length → b.data.length ≤ 1024 → badTotal b = false →
            gated u b.index b.sub = false → dlTarget b.index b.sub = some y → (dl s y).state ≠ 1 → dlState s y = false →
            ∃ t, exec (.domainWrite a b) s = .next (sends t (reply 0x92 1 (leBytes 2 stOK)))
              ∧ t = { u with mram := t.mram, boot := { s.boot with dls := t.boot.dls, slotValid := t.boot.slotValid } }
              ∧ (∀ k, k ≠ y → dl t k = dl s k) ∧ (dl t y).total = b.total
              ∧ (dl t y).ranges = [(b.offset, b.offset + b.data.length)] ∧ (dl t y).area = (freeArea u).getD 0
              ∧ (dl t y).state = (if b.data.length = b.total then 2 else 1)
              ∧ (∀ i (h : i < b.data.length), mget t.mram (dlAddr t y + b.offset + i) = b.data[i])
              ∧ SameOutside s.mram t.mram (dlAddr t y + b.offset) b.data.length
              ∧ (y < 2 → tget false t.boot.slotValid y = false) ∧ (2 ≤ y → t.boot.slotValid = s.boot.slotValid))))
    ∧ (∀ ix sub off n : Nat,
      (s.boot.asleep = true → exec (.domainRead a ix sub off n) s = .next (sends u (reply 0x93 1 (leBytes 2 stState))))
      ∧ (s.boot.asleep = false → exec (.domainRead a ix sub off n) s = .next (sends u (reply 0x93 1
          (leBytes 2 (domainReadItem u x.level ix sub off n).1 ++ (domainReadItem u x.level ix sub off n).2))))
      ∧ (∀ r len, s.boot.asleep = false → accessStatus u x.level ix sub false = stOK → rowHere u ix sub = some r → r.ty = 12 →
          1 ≤ n → n ≤ 1024 → domainLen u ix sub = some len → off ≤ len →
          exec (.domainRead a ix sub off n) s = .next (sends u (reply 0x93 1 (leBytes 2 stOK
            ++ domainBytes u ix sub off (Nat.min n (len - off)))))))
    ∧ ∀ (subId period : Nat) (items : List ReadItem),
      let same (st : Nat) : List Byte := (items.map fun _ => leBytes 2 st).flatten
      let rest := s.net.subs.filter fun y => !(y.session == a.session && y.subId == subId)
      let good := items.filter fun i => subStatus u x.level i == stOK
      let right := subId ≤ 15 ∧ items.length ≤ 32 ∧ period ≤ 65535 ∧ (items = [] → period = 0)
      (s.boot.frozen = true ∨ s.boot.asleep = true →
        exec (.subscribe a subId period items) s = .next (sends u (reply 0xA0 items.length (same stState))))
      ∧ (s.boot.frozen = false → s.boot.asleep = false →
        (¬right → exec (.subscribe a subId period items) s = .next (sends u (reply 0xA0 items.length (same stRange))))
        ∧ (right → period = 0
          → exec (.subscribe a subId period items) s = .next (sends { u with net := { u.net with subs := rest } }
            (reply 0xA0 items.length (same stOK))))
        ∧ (right → period ≠ 0 → 256 ≤ rest.length →
            exec (.subscribe a subId period items) s = .next (sends u (reply 0xA0 items.length (same stRange))))
        ∧ (right → period ≠ 0 → rest.length < 256 →
            ∃ t, exec (.subscribe a subId period items) s = .next (sends t (reply 0xA0 items.length
                (items.map fun i => leBytes 2 (subStatus u x.level i)).flatten))
              ∧ (good = [] → t = u)
              ∧ (good ≠ [] → t = { u with links := t.links, draws := t.draws, net := { u.net with subs := rest ++
                  [⟨.host, a.session, subId, period, good.map fun i => (i.index, i.sub), period, 0, none⟩] } })))

/-- The urgent responder answers under the urgent sequence of the session: HUSH (.hush) silences telemetry, CAP (.cap)
selects the cap of a unit that commands and tells the mate, both need OPERATE; HUSHED is also a write. Rests on R334,
R348 to R350. Keys are taken at their length only; the due message of a subscription is sent once, in the sequence of
its session or to its line, and under HUSH it is not. Rests on R346, R349, R351, R353. -/
def Obligations.UrgentCommandsKeysAndPeriods : Prop :=
  ((∀ (s : State) (c : Instr) (a : Auth) (command arg : Byte), urgentOf c = some (a, command, arg) →
      (responderRuns s = false → exec c s = .next s)
      ∧ (responderRuns s = true → tfind s.net.sessions a.session = none ∨ a.macOk = false →
          exec c s = .next { s with net := { s.net with authFail := s.net.authFail + 1 } })
      ∧ ∀ x, responderRuns s = true → tfind s.net.sessions a.session = some x → a.macOk = true →
        let reply (st : Nat) : Reply := ⟨.host, 0xB0, a.session, x.outUrg + 1, 0, 0, leBytes 2 st⟩
        let y : Session := { x with outUrg := x.outUrg + 1, urgSeq := a.seq, idle := 0 }
        let refused (st : Nat) : State := sends { s with net := { s.net with
          sessions := tput s.net.sessions a.session y, urgRejected := s.net.urgRejected + 1 } } (reply st)
        (a.seq ≤ x.urgSeq → exec c s = .next (sends { s with net := { s.net with
            sessions := tput s.net.sessions a.session { x with outUrg := x.outUrg + 1 }, replay := s.net.replay + 1,
            urgRejected := s.net.urgRejected + 1 } } (reply stAuth)))
        ∧ (x.urgSeq < a.seq →
          (x.level = .observe → exec c s = .next (refused stAccess))
          ∧ (x.level ≠ .observe → command = 1 → exec c s = .next (sends { s with net := { s.net with
              sessions := tput s.net.sessions a.session y, hushed := true, urgAccepted := s.net.urgAccepted + 1 } } (reply stOK)))
          ∧ (x.level ≠ .observe → command = 2 → arg.toNat ≤ 1 → commands s = false → exec c s = .next (refused stState))
          ∧ (x.level ≠ .observe → command = 2 → arg.toNat ≤ 1 → commands s = true → ∃ t, exec c s = .next (sends t (reply stOK))
              ∧ t = { s with
                  cfg := tput s.cfg (okey 0x2505 3) arg.toNat,
                  flow := { s.flow with
                    capEff := if (s.flow.capLow1 = true ∧ s.flow.capLow2 = true) ∨ cfg t 0x2505 3 = 1 then 1 else 0 },
                  pair := { s.pair with sentCtrl := s.pair.sentCtrl
                    ++ (if s.pair.role = .active ∧ s.pair.link = 2 then [Ctrl.capSelect arg] else []) },
                  net := { s.net with
                    sessions := tput s.net.sessions a.session y, urgAccepted := s.net.urgAccepted + 1 } })
          ∧ (x.level ≠ .observe → command ≠ 1 → ¬(command = 2 ∧ arg.toNat ≤ 1) → exec c s = .next (refused stRange))))
    ∧ ∀ (s : State) (lvl : Level) (v : Byte), Admits s lvl 0x1130 1 v.toNat →
      exec (.hushed lvl v) s = .next { answered s stOK with net := { (answered s stOK).net with hushed := v != 0 } })
  ∧ ((∀ (s : State) (lvl : Level) (k : Nat) (key : List Byte), Serves s →
      let a := accessStatus (taken s) lvl 0x1200 k true
      let b := accessStatus (taken s) lvl 0x1210 k true
      (a ≠ stOK → exec (.levelKey lvl k key) s = .next (answered s a))
      ∧ (a = stOK → key.length ≠ 32 ∨ (∀ x ∈ key, x = 0) → exec (.levelKey lvl k key) s = .next (answered s stRange))
      ∧ (a = stOK → key.length = 32 → (∃ x ∈ key, x ≠ 0) → gated s 0x1200 k = false →
          exec (.levelKey lvl k key) s = .next (sendCtrl { s with net := { (answered s stOK).net with
            levelKeys := tput s.net.levelKeys k key } } (.bytes 0x1200 k key)))
      ∧ (a = stOK → key.length = 32 → (∃ x ∈ key, x ≠ 0) → gated s 0x1200 k = true →
          exec (.levelKey lvl k key) s = .next (answered s stState))
      ∧ (b ≠ stOK → exec (.imageKey lvl k key) s = .next (answered s b))
      ∧ (b = stOK → key.length ≠ 97 ∨ Config.onCurve key = false → exec (.imageKey lvl k key) s = .next (answered s stRange))
      ∧ (b = stOK → key.length = 97 → Config.onCurve key = true → gated s 0x1210 k = false →
          exec (.imageKey lvl k key) s = .next (sendCtrl { s with net := { (answered s stOK).net with
            imageKeys := tput s.net.imageKeys k key } } (.bytes 0x1210 k key)))
      ∧ (b = stOK → key.length = 97 → Config.onCurve key = true → gated s 0x1210 k = true →
          exec (.imageKey lvl k key) s = .next (answered s stState)))
    ∧ ∀ (s : State) (k subId : Nat),
      let found := s.net.subs.find? fun x => x.session == k && x.subId == subId
      let put (y : Sub) : List Sub := s.net.subs.map fun x => if x.session == k && x.subId == subId then y else x
      (found = none → exec (.subscriptionPeriod k subId) s = .next s)
      ∧ (∀ x, found = some x → x.due = none → exec (.subscriptionPeriod k subId) s = .next s)
      ∧ (∀ x seam items, found = some x → x.due = some (seam, items) →
        (s.net.hushed = true → exec (.subscriptionPeriod k subId) s = .next { s with net := { s.net with
            subs := put { x with due := none } } })
        ∧ (s.net.hushed = false →
          let body := leBytes 1 subId ++ [0] ++ leBytes 2 (Nat.min x.dropped 0xFFFF) ++ wordBytes seam ++ items
          let u : State := { s with net := { s.net with subs := put { x with due := none, dropped := 0 } } }
          (tfind s.net.sessions k = none → exec (.subscriptionPeriod k subId) s = .next u)
          ∧ (∀ y, tfind s.net.sessions k = some y → lineOf x.dest = none →
            exec (.subscriptionPeriod k subId) s = .next (sendReply { u with net := { u.net with
                sessions := tput s.net.sessions k { y with outSeq := y.outSeq + 1 } } }
              ⟨x.dest, 0x21, k, y.outSeq + 1, 0, x.items.length, body⟩))
          ∧ (∀ y j, tfind s.net.sessions k = some y → lineOf x.dest = some j →
            exec (.subscriptionPeriod k subId) s = .next (sendReply u
              ⟨telemDest s x.dest, 0x21, k, 0, 0, x.items.length, body⟩)))))

/-- Each interface hands a message on once it is whole: Ethernet meters urgent and other frames apart, CAN and the SMBus
join segments in order and drop one out of order or late, the SMBus serves its answer block by block; a free Ethernet
port or CAN channel sends what waits in strict order, urgent replies, responses, then telemetry as its bucket allows.
Rests on R337 to R340, R347. -/
def Obligations.InterfacesDeliverWholeMessages : Prop :=
  (∀ (s : State) (e : Fin 2) (size : Nat) (fragment : Bool) (vlan : Option Nat) (pcp : Nat) (udp : UdpPorts) (mac : Bool)
      (us : Nat) (rdp : List Byte),
    let c : Instr := .ethernetFrame e size fragment vlan pcp udp mac us rdp
    let urgFill := rmin 16 (tget 16 s.net.urgTokens e + 1000 * (us : Rat) / 1000000)
    let fill := rmin 256 (tget 256 s.net.tokens e + 50000 * (us : Rat) / 1000000)
    let u : State := { s with net := { s.net with
      ethUp := tput s.net.ethUp e true, urgTokens := tput s.net.urgTokens e urgFill, tokens := tput s.net.tokens e fill } }
    let takes := fragment = false ∧ size ≤ 1522 ∧ (cfg s (0x1101 + e) 9 = 0 ∨ vlan = some (cfg s (0x1101 + e) 9))
    let ours := udp.dst = cfg s (0x1101 + e) 10
    let m := parseMsg (.eth e udp.src (if vlan.isSome then pcp else 0)) mac rdp
    let on := inReset s = false ∧ s.boot.coldP0 = false
    let urgent := vlan ≠ none ∧ pcp = 7 ∧ ours ∧ leAt rdp 1 1 = 0x30
    let spent : State := { u with net := { u.net with tokens := tput u.net.tokens e (fill - 1) } }
    (¬on → exec c s = .next s)
    ∧ (on → ¬takes → exec c s = .next u)
    ∧ (on → takes → ¬urgent → fill < 1 → exec c s = .next { u with net := { u.net with
        rxDropped := tset 0 s.net.rxDropped e ((tget 0 s.net.rxDropped e + 1) % 2 ^ 64) } })
    ∧ (on → takes → ¬urgent → 1 ≤ fill → exec c s = .next (if ours then receive spent m else spent))
    ∧ (on → takes → urgent → urgFill < 1 → 1 ≤ fill →
        exec c s = .next (receive { spent with net := { spent.net with urgLimited := s.net.urgLimited + 1 } } m))
    ∧ (on → takes → urgent → urgFill < 1 → fill < 1 → exec c s = .next { u with net := { u.net with
        urgLimited := s.net.urgLimited + 1,
        rxDropped := tset 0 s.net.rxDropped e ((tget 0 s.net.rxDropped e + 1) % 2 ^ 64) } })
    ∧ (on → takes → urgent → 1 ≤ urgFill →
        let w : State := { u with net := { u.net with
          urgTokens := tput u.net.urgTokens e (urgFill - 1),
          urgRx := tset 0 s.net.urgRx e ((tget 0 s.net.urgRx e + 1) % 2 ^ 64) } }
        (∀ k arg, m.req = .urgent k arg → exec c s = .next (respond w m k arg))
        ∧ ((∀ k arg, m.req ≠ .urgent k arg) → exec c s = .next (if responderRuns s then
            { w with net := { w.net with authFail := s.net.authFail + 1 } } else w))))
  ∧ (∀ (s : State) (c : Fin 2) (ident : BitVec 29) (flag : Byte) (data : List Byte) (mac : Bool),
    let src := ident.toNat / 2 ^ 12 % 128
    let key := c.val * 65536 + src * 16 + ident.toNat / 256 % 16
    let without : State := { s with net := { s.net with parts := tdel s.net.parts key } }
    let ours := inReset s = false ∧ s.boot.coldP0 = false ∧ cfg s (0x1110 + c) 1 ≠ 0
      ∧ ident.toNat / 2 ^ 19 % 128 = cfg s (0x1110 + c) 2
    let last := flag.toNat.testBit 6 = true
    exec (.canFdFrame c ident [] mac) s = .next s
    ∧ (¬ours → exec (.canFdFrame c ident (flag :: data) mac) s = .next s)
    ∧ (ours → flag.toNat.testBit 7 = true → flag.toNat % 64 ≠ 0 → exec (.canFdFrame c ident (flag :: data) mac) s = .next without)
    ∧ (ours → flag.toNat.testBit 7 = true → flag.toNat % 64 = 0 → ¬last →
        exec (.canFdFrame c ident (flag :: data) mac) s = .next { s with net := { s.net with
          parts := tput s.net.parts key ⟨1, data⟩ } })
    ∧ (ours → flag.toNat.testBit 7 = true → flag.toNat % 64 = 0 → last →
        exec (.canFdFrame c ident (flag :: data) mac) s = .next (receive without (parseMsg (.can c src) mac (cutMsg data))))
    ∧ (ours → flag.toNat.testBit 7 = false → tfind s.net.parts key = none →
        exec (.canFdFrame c ident (flag :: data) mac) s = .next without)
    ∧ (∀ p, ours → flag.toNat.testBit 7 = false → tfind s.net.parts key = some p →
        (flag.toNat % 64 ≠ p.next → exec (.canFdFrame c ident (flag :: data) mac) s = .next without)
        ∧ (flag.toNat % 64 = p.next → ¬last → exec (.canFdFrame c ident (flag :: data) mac) s = .next { s with
            net := { s.net with parts := tput s.net.parts key ⟨p.next + 1, p.bytes ++ data⟩ } })
        ∧ (flag.toNat % 64 = p.next → last → exec (.canFdFrame c ident (flag :: data) mac) s
            = .next (receive without (parseMsg (.can c src) mac (cutMsg (p.bytes ++ data)))))))
  ∧ (∀ (s : State) (c : Fin 2) (src stream : Nat), exec (.canReassemblyTimeout c src stream) s = .next { s with net := { s.net with
      parts := tdel s.net.parts (c.val * 65536 + src * 16 + stream) } })
  ∧ (∀ s : State, inReset s = true ∨ s.boot.coldP0 = true →
    (∀ flag data pec pecOk mac, exec (.msgWrite flag data pec pecOk mac) s = .next s) ∧ exec .msgRead s = .next s
      ∧ exec .gwStatus s = .next s)
  ∧ (∀ s : State, inReset s = false → s.boot.coldP0 = false →
    (∀ (flag : Byte) (data : List Byte) (pec pecOk mac : Bool),
      let c : Instr := .msgWrite flag data pec pecOk mac
      let bad := s.net.smbBusy = true ∨ (pec = true ∧ pecOk = false) ∨ (pec = false ∧ cfg s 0x1118 2 ≠ 0)
      let first := flag.toNat.testBit 7 = true ∧ flag.toNat % 64 = 0
      let next := flag.toNat.testBit 7 = false ∧ s.net.smbReq ≠ [] ∧ flag.toNat % 64 = s.net.smbNext
      let req := if flag.toNat.testBit 7 then data else s.net.smbReq ++ data
      let u : State := { s with net := { s.net with smbNack := false, smbReq := [], smbNext := 0 } }
      (bad → exec c s = .next { s with net := { s.net with smbNack := true } })
      ∧ (¬bad → ¬first → ¬next → exec c s = .next u)
      ∧ (¬bad → first ∨ next → 1248 < req.length → exec c s = .next { u with net := { u.net with smbOver := true } })
      ∧ (¬bad → first ∨ next → req.length ≤ 1248 → flag.toNat.testBit 6 = false → exec c s = .next { s with net := { s.net with
            smbNack := false, smbReq := req, smbNext := if flag.toNat.testBit 7 then 1 else s.net.smbNext + 1 } })
      ∧ (¬bad → first ∨ next → req.length ≤ 1248 → flag.toNat.testBit 6 = true → ∃ t,
          exec c s = .next { t with net := { t.net with smbBusy := decide (s.net.ingress.length < t.net.ingress.length) } }
            ∧ t = receive { u with net := { u.net with smbOver := false, smbReady := false, smbResp := [] } }
              (parseMsg .smb mac (cutMsg req))))
    ∧ (s.net.smbReady = false → exec .msgRead s = .next { s with net := { s.net with smbBlock := [] } })
    ∧ (s.net.smbReady = true →
      let seg := (s.net.smbResp.drop s.net.smbSent).take 254
      let sent := s.net.smbSent + seg.length
      let last := s.net.smbResp.length ≤ sent
      exec .msgRead s = .next { s with net := { s.net with
        smbBlock := BitVec.ofNat 8 ((if s.net.smbSent = 0 then 128 else 0) + (if last then 64 else 0) + s.net.smbSent / 254 % 64)
          :: seg,
        smbSent := sent, smbReady := decide (¬last) } })
    ∧ exec .gwStatus s = .next { s with net := { s.net with smbByte := BitVec.ofNat 8 ((if s.net.smbReady then 1 else 0)
        + 2 * (if s.net.smbBusy then 1 else 0) + 4 * (if s.net.smbOver then 1 else 0)) } })
  ∧ (∀ (s : State) (r : Reply),
    let joined (l : Line) : Line := if r.kind = 0xB0 then { l with urg := l.urg ++ [r] }
      else if r.kind = 0x21 then { l with tel := l.tel ++ [r] } else { l with resp := l.resp ++ [r] }
    (s.boot.highZ = true → sendReply s r = s)
    ∧ (s.boot.highZ = false → r.dest = .host → sendReply s r = { s with net := { s.net with out := s.net.out ++ [r] } })
    ∧ (s.boot.highZ = false → r.dest = .smb → sendReply s r = { s with net := { s.net with
        out := s.net.out ++ [r], smbResp := replyBytes r, smbSent := 0, smbReady := true } })
    ∧ ∀ k, s.boot.highZ = false → lineOf r.dest = some k →
      (domainRuns s = false → sendReply s r = { s with net := { s.net with out := s.net.out ++ [r] } })
      ∧ (domainRuns s = true → 0 < (line s k).busy → sendReply s r = setLine s k (joined (line s k))))
  ∧ ∀ (s : State) (k fuel : Nat),
    let l := line s k
    l.busy ≤ 0 →
    (∀ r l', l.urg = r :: l' → linePump (fuel + 1) s k = linePump fuel (lineStart s k { l with urg := l' } r) k)
    ∧ (∀ r l', l.urg = [] → l.resp = r :: l' → linePump (fuel + 1) s k = linePump fuel (lineStart s k { l with resp := l' } r) k)
    ∧ (∀ r l', l.urg = [] → l.resp = [] → l.tel = r :: l' → s.net.hushed = true →
        linePump (fuel + 1) s k = setLine s k { l with busy := 0, tel := [] })
    ∧ ∀ r l' x, l.urg = [] → l.resp = [] → l.tel = r :: l' → s.net.hushed = false → tfind s.net.sessions r.session = some x →
      (l.tokens < telemNeed k r → linePump (fuel + 1) s k = setLine s k { l with busy := 0 })
      ∧ (telemNeed k r ≤ l.tokens → linePump (fuel + 1) s k = linePump fuel (lineStart { s with net := { s.net with
            sessions := tput s.net.sessions r.session { x with outSeq := x.outSeq + 1 } } } k
          { l with tel := l', tokens := l.tokens - (wireBytes k r : Nat) } { r with seq := x.outSeq + 1 }) k)

/-! ### Recorder (13) -/

/-- A flush lays whole records into the ring in their order and never outside it; power-fail writes its record, flushes
and writes a checkpoint; a periodic checkpoint folds the staged tallies into the older copy, as FOLD does at most every
16 s; LOCATE finds a record. Rests on R358, R363, R367, R368, R370, R371, R426, R436. -/
def Obligations.RecordsReachTheRing : Prop :=
  (∀ (s : State) (us : Nat),
    let due := collarRuns s = true ∧ ((∃ r ∈ s.recorder.buffer, critical r.code = true) ∨ 131072 ≤ bufferFill s.recorder.buffer)
    (¬due → exec (.flush us) s = .next s)
    ∧ (due → ∃ t, exec (.flush us) s = .next t
      ∧ t = { s with
          mram := t.mram, draws := t.draws,
          recorder := { s.recorder with
            held := t.recorder.held, head := t.recorder.head, oldest := t.recorder.oldest, buffer := [],
            flushTime := Nat.min us 0xFFFF } }
      ∧ (s.recorder.head ≤ ringSize → bufferFill s.recorder.buffer ≤ 262144 → (∀ r ∈ s.recorder.buffer, r.bytes.length ≤ 1024) →
          SameOutside s.mram t.mram ringBase ringSize
          ∧ ∀ r ∈ s.recorder.buffer, ∃ o, (o, r.bytes.length, r.seq) ∈ t.recorder.held ∧ o + r.bytes.length ≤ ringSize
              ∧ mread t.mram (ringBase + o) r.bytes.length = r.bytes)))
  ∧ (∀ s : State,
    let point (cause : Nat) : Checkpoint :=
      { seq := s.recorder.cpSeq + 1, hours := s.boot.hours, frac := s.boot.hoursFrac, cause := cause,
        cycles := s.boot.cycles.toNat, clock := s.boot.aoClock,
        energy := s.ctls.map fun x => (x.1, (x.2.energyFwd, x.2.energyRev)), packs := s.shelf.packs }
    (∀ (rail : Byte) (us : Nat), collarRuns s = true → ∃ t, exec (.powerFailDetect rail us) s = .next t
      ∧ t = { s with mram := t.mram, draws := t.draws, recorder := t.recorder }
      ∧ t.recorder.newest = nextSeq s.recorder.newest ∧ t.recorder.buffer = [] ∧ t.recorder.flushTime = Nat.min us 0xFFFF
      ∧ t.recorder.cpSeq = s.recorder.cpSeq + 1
      ∧ t.recorder.checkpoints = tput s.recorder.checkpoints (s.recorder.cpSeq % 64) (point 1)
      ∧ (hasBit t.recorder.sticky 7 = true ↔ 3000 < us ∨ hasBit s.recorder.sticky 7 = true)
      ∧ t.recorder.copyA = s.recorder.copyA ∧ t.recorder.copyB = s.recorder.copyB
      ∧ t.recorder.stageBins = s.recorder.stageBins)
    ∧ (∀ (rail : Byte) (us : Nat), collarRuns s = false → exec (.powerFailDetect rail us) s = .next s)
    ∧ (collarRuns s = true → s.boot.frozen = false → ∃ t, exec .checkpoint s = .next t
      ∧ t = { s with mram := t.mram, draws := t.draws, recorder := t.recorder }
      ∧ t.recorder.buffer = [] ∧ t.recorder.cpSeq = s.recorder.cpSeq + 1
      ∧ t.recorder.checkpoints = tput s.recorder.checkpoints (s.recorder.cpSeq % 64) (point 0)
      ∧ (newerCopy t.recorder).generation = (newerCopy s.recorder).generation + 1 ∧ t.recorder.stageBins = []
      ∧ t.recorder.stageExts = [] ∧ t.recorder.lastFold = some (hoursNow s))
    ∧ (¬(collarRuns s = true ∧ s.boot.frozen = false) → exec .checkpoint s = .next s))
  ∧ (∀ (s : State) (lvl : Level) (v : Byte), Admits s lvl 0x6080 3 v.toNat →
    (v = 0 → exec (.fold lvl v) s = .next (answered s stOK))
    ∧ (∀ k, v ≠ 0 → s.recorder.lastFold = some k → hoursNow s < k + 16 * 65536
      → exec (.fold lvl v) s = .next (answered s stState))
    ∧ (v ≠ 0 → (∀ k, s.recorder.lastFold = some k → k + 16 * 65536 ≤ hoursNow s) → ∃ t, exec (.fold lvl v) s = .next t
      ∧ t = { answered s stOK with recorder := { s.recorder with
          copyA := t.recorder.copyA, copyB := t.recorder.copyB, stageBins := [], stageExts := [], stageInvalid := [],
          stageSoc := [], wipe := [], lastFold := some (hoursNow s) } }
      ∧ (t.recorder.copyA = newerCopy s.recorder ∨ t.recorder.copyB = newerCopy s.recorder)
      ∧ (newerCopy t.recorder).generation = (newerCopy s.recorder).generation + 1 ∧ (newerCopy t.recorder).valid = true
      ∧ (s.recorder.wipe = [] → (s.recorder.stageBins.map fun x => x.1).Nodup → ∀ k,
          tget 0 (newerCopy t.recorder).bins k
            = Nat.min (tget 0 (newerCopy s.recorder).bins k + (tget 0 s.recorder.stageBins k).toNat) (2 ^ 64 - 1)
            ∨ (tfind s.recorder.stageBins k = none
              ∧ tget 0 (newerCopy t.recorder).bins k = tget 0 (newerCopy s.recorder).bins k))))
  ∧ ∀ (s : State) (session : Nat) (v : Word),
    (tfind s.net.sessions session = none → exec (.locate session v) s = .next s)
    ∧ (∀ x, tfind s.net.sessions session = some x →
      let put (w : Word) : State := { s with net := { s.net with sessions := tput s.net.sessions session { x with locate := w } } }
      ((∀ r ∈ (ringOver s).held, r.2.2 ≠ v) → exec (.locate session v) s = .next (put 0xFFFFFFFF))
      ∧ (∀ r, ((ringOver s).held.find? fun r => r.2.2 == v) = some r →
          exec (.locate session v) s = .next (put (BitVec.ofNat 32 r.1))))

/-- A trigger fills the trace ring up to its hold, the held window is copied round by round into a slot that stays used
until RELEASE, and FREEZE and FREEZE_N begin to freeze a controller that runs. Rests on R373 to R376. -/
def Obligations.TraceWindowsAndFreeze : Prop :=
  (∀ s : State,
    (s.recorder.traceState = 1 ∧ s.recorder.postLeft = 0 → exec .traceHold s = .next { s with recorder := { s.recorder with
        traceState := 2 } })
    ∧ (¬(s.recorder.traceState = 1 ∧ s.recorder.postLeft = 0) → exec .traceHold s = .next s)
    ∧ (¬(s.recorder.traceState = 2 ∧ collarRuns s = true) → exec .traceCopy s = .next s)
    ∧ (s.recorder.traceState = 2 → collarRuns s = true → ∃ t, exec .traceCopy s = .next t
      ∧ t = { s with mram := t.mram, recorder := t.recorder }
      ∧ let k := nextSlot s.recorder
        let len := s.recorder.lenNow
        let first := s.recorder.lastRound - BitVec.ofNat 32 (len - 1)
        t.recorder.traceState = 0 ∧ k ∈ t.recorder.slots ∧ (∀ j, j ≠ k → (j ∈ t.recorder.slots ↔ j ∈ s.recorder.slots))
        ∧ tfind t.recorder.slotFirst k = some first ∧ t.recorder.slotAge.getLast? = some k
        ∧ SameOutside s.mram t.mram (slotAddr len k) (len * 4096)
        ∧ (Memory.wf s.recorder.trace = true → (∀ c ∈ s.recorder.trace, c.1 < 512 * 4096) → len ≤ 512 →
            ∀ idx i, idx < len → i < 4096 → mget t.mram (slotAddr len k + idx * 4096 + i)
              = mget s.recorder.trace ((first.toNat + idx) % 512 * 4096 + i))))
  ∧ (∀ (s : State) (lvl : Level) (v : Byte), Admits s lvl 0x2810 5 v.toNat →
    let full := slotCount s.recorder.lenNow ≤ s.recorder.slots.length ∧ cfg s 0x2810 6 = 0
    (v = 0 ∨ (cfg s 0x2810 4).testBit 3 = false → exec (.traceNow lvl v) s = .next (answered s stOK))
    ∧ (v ≠ 0 → (cfg s 0x2810 4).testBit 3 = true → s.recorder.traceState ≠ 0 ∨ full →
        exec (.traceNow lvl v) s = .next { answered s stOK with recorder := { s.recorder with
          missed := if s.recorder.missed = 0xFFFFFFFF then s.recorder.missed else s.recorder.missed + 1,
          sticky := s.recorder.sticky ||| 0x40 } })
    ∧ (v ≠ 0 → (cfg s 0x2810 4).testBit 3 = true → s.recorder.traceState = 0 → ¬full →
        exec (.traceNow lvl v) s = .next { answered s stOK with recorder := { s.recorder with
          traceState := 1, trigRound := s.wheel.round, trigSrc := 3, postLeft := cfg s 0x2810 3 + 1 } }))
  ∧ (∀ (s : State) (lvl : Level) (v : Byte), Admits s lvl 0x2810 8 v.toNat →
    (slotCount s.recorder.lenNow ≤ v.toNat → exec (.release lvl v) s = .next (answered s stRange))
    ∧ (v.toNat < slotCount s.recorder.lenNow → exec (.release lvl v) s = .next { answered s stOK with
        recorder := { s.recorder with
          slots := s.recorder.slots.filter fun k => k != v.toNat,
          slotAge := s.recorder.slotAge.filter fun k => k != v.toNat } }))
  ∧ (∀ s : State,
    let runs := s.boot.freezing = 0 ∧ s.boot.frozen = false ∧ s.boot.recovery = false
    (runs → exec (.freezeN true) s = .next { s with boot := { s.boot with freezing := 1, freezeSrc := 0 } })
    ∧ (¬runs → exec (.freezeN true) s = .next s) ∧ exec (.freezeN false) s = .next s)
  ∧ ∀ (s : State) (lvl : Level) (v : Byte), Admits s lvl 0x2820 1 v.toNat →
    let runs := s.boot.freezing = 0 ∧ s.boot.recovery = false
    (v ≠ 0 → runs → exec (.freeze lvl v) s = .next { answered s stOK with boot := { s.boot with freezing := 1, freezeSrc := 1 } })
    ∧ (v = 0 ∨ ¬runs → exec (.freeze lvl v) s = .next (answered s stOK))

/-! ### Peripherals (14) -/

/-- Two-wire controllers: XFER queues up to four transactions under rising identities, a completed one leaves its result
and its error bit, a stretched clock ends it with TIMEOUT, CLEAR acts on an idle controller, timing waits for the STOP.
Rests on R183, R380, R381, R383 to R388. -/
def Obligations.TwoWireTransactions : Prop :=
  ∀ (s : State) (c : TwId),
    let w := twc s c
    let runs := hasBit w.ctrl 0 = true ∧ w.queue ≠ []
    let only (u t : State) : Prop := t = { u with tws := t.tws } ∧ ∀ k, k ≠ c.val → twc t k = twc s k
    (∀ (lvl : Level) (x : Xfer), Serves s →
      let a := accessStatus (taken s) lvl (0x2900 + c) 0x10 true
      let bad := x.timeout.toNat = 0 ∨ 1000 < x.timeout.toNat ∨ 255 < x.wdata.length
      (a ≠ stOK → exec (.xfer lvl c x) s = .next (answered s a))
      ∧ (a = stOK → bad → exec (.xfer lvl c x) s = .next (answered s stRange))
      ∧ (a = stOK → ¬bad → hasBit w.ctrl 0 = false ∨ 4 ≤ w.queue.length ∨ gated s (0x2900 + c) 0x10 = true
        → exec (.xfer lvl c x) s = .next (answered s stState))
      ∧ (a = stOK → ¬bad → hasBit w.ctrl 0 = true → w.queue.length < 4 → gated s (0x2900 + c) 0x10 = false →
          ∃ t, exec (.xfer lvl c x) s = .next t ∧ only (answered s stOK) t
            ∧ twc t c = { w with count := w.count + 1, queue := w.queue ++ [(w.count + 1, x)] }))
    ∧ (∀ (status : TwStatus) (rdata : List Byte), (¬runs → exec (.twTransactionDone c status rdata) s = .next s)
      ∧ (∀ id x rest, hasBit w.ctrl 0 = true → w.queue = (id, x) :: rest
        → ∃ t, exec (.twTransactionDone c status rdata) s = .next t
        ∧ only s t
        ∧ let st : Byte := if status = 5 ∧ x.flags.toNat.testBit 0 = false then 0 else status
          let data : List Byte := if st = 1 ∨ st = 7 then [] else rdata.take x.rlen.toNat
          twc t c = w.later.foldl (fun y v => twApply y v.1 v.2) { w with
            queue := rest, later := [], sda := st != 6, scLine := true,
            result := leBytes 2 id.toNat ++ [0, 0, st] ++ leBytes 1 data.length ++ [0, 0] ++ data,
            sticky := w.sticky ||| (if st = 6 then 1 else if st = 1 ∨ st = 2 then 8 else if st = 5 then 0x10 else 0) }))
    ∧ ((¬runs → exec (.stretchTimeout c) s = .next s)
      ∧ (∀ id x rest, hasBit w.ctrl 0 = true → w.queue = (id, x) :: rest → ∃ t, exec (.stretchTimeout c) s = .next t ∧ only s t
        ∧ (twc t c).queue = rest ∧ (twc t c).result = leBytes 2 id.toNat ++ [0, 0, 4, 0, 0, 0]
        ∧ (twc t c).sda = true ∧ (twc t c).scLine = true ∧ hasBit (twc t c).sticky 1 = true))
    ∧ (∀ (lvl : Level) (sda : Bool), Serves s → accessStatus (taken s) lvl (0x2900 + c) 1 true ≠ stOK →
      exec (.clear lvl c sda) s = .next (answered s (accessStatus (taken s) lvl (0x2900 + c) 1 true)))
    ∧ (∀ (lvl : Level) (sda : Bool), Serves s → accessStatus (taken s) lvl (0x2900 + c) 1 true = stOK →
      gated s (0x2900 + c) 1 = true → exec (.clear lvl c sda) s = .next (answered s stState))
    ∧ (∀ (lvl : Level) (sda : Bool), Serves s → accessStatus (taken s) lvl (0x2900 + c) 1 true = stOK →
      gated s (0x2900 + c) 1 = false →
      (runs → exec (.clear lvl c sda) s = .next (answered s stOK))
      ∧ (¬runs → ∃ t, exec (.clear lvl c sda) s = .next t ∧ only (answered s stOK) t
        ∧ twc t c = { w with
            clears := w.clears + 1, sda := sda, scLine := true, sticky := if sda then w.sticky else w.sticky ||| 1 }))
    ∧ (∀ low : Bool, ∃ t, exec (.twAlert c low) s = .next t ∧ only s t ∧ twc t c = { w with
        alert := low, sticky := if low = true ∧ hasBit w.ctrl 10 = true then w.sticky ||| 4 else w.sticky })
    ∧ (∀ (lvl : Level) (sub : Nat) (v : Word), Serves s → sub ≠ 1 → sub ≠ 2 → sub ≠ 3 → sub ≠ 5 →
        exec (.twoWireCtrl lvl c sub v) s = .next (answered s stNoSub))
    ∧ ∀ (lvl : Level) (sub : Nat) (v : Word), Admits s lvl (0x2900 + c) sub v.toNat → sub = 1 ∨ sub = 2 ∨ sub = 3 ∨ sub = 5 →
      let fits (scl data : Word) := 10 ≤ scl.toNat % 65536 ∧ data.toNat / 65536 + data.toNat % 65536 + 4 ≤ scl.toNat / 65536
      let right := (sub = 1 ∧ v.toNat / 4096 % 4 ≠ 3) ∨ (sub = 2 ∧ fits v (twLatest w 3)) ∨ (sub = 3 ∧ fits (twLatest w 2) v)
        ∨ (sub = 5 ∧ 10 ≤ v.toNat ∧ v.toNat ≤ 4095)
      (¬right → exec (.twoWireCtrl lvl c sub v) s = .next (answered s stRange))
      ∧ (right → runs → ∃ t, exec (.twoWireCtrl lvl c sub v) s = .next t ∧ only (answered s stOK) t
          ∧ twc t c = { w with later := w.later ++ [(sub, v)] })
      ∧ (right → ¬runs → sub ≠ 1 → ∃ t, exec (.twoWireCtrl lvl c sub v) s = .next t ∧ only (answered s stOK) t
          ∧ twc t c = { w with
              scl := if sub = 2 then v else w.scl, data := if sub = 3 then v else w.data,
              div := if sub = 5 then v.toNat else w.div })
      ∧ (right → ¬runs → sub = 1 → hasBit v 1 = false → ∃ t, exec (.twoWireCtrl lvl c sub v) s = .next t
          ∧ only (answered s stOK) t ∧ twc t c = { w with
              ctrl := v &&& 0x00FFFC01,
              sticky := if hasBit v 10 = true ∧ w.alert = true then w.sticky ||| 4 else w.sticky })
      ∧ (right → ¬runs → sub = 1 → hasBit v 1 = true → ∃ t, exec (.twoWireCtrl lvl c sub v) s = .next t
          ∧ only { answered s stOK with draws := s.draws + 1 } t ∧ twc t c = { w with
              ctrl := v &&& 0x00FFFC01, clears := w.clears + 1, sda := Config.freeBool s.draws, scLine := true,
              sticky := (if hasBit v 10 = true ∧ w.alert = true then w.sticky ||| 4 else w.sticky)
                ||| (if Config.freeBool s.draws then 0 else 1) })

/-- Timers: a wrap copies the preloads and a compare event sets the count, CMP and WRAP are recorded, an event resets or
clocks the channels that listen; captures queue up to four counts; COUNT, PERIOD and COMPARE are loaded as the spec
says; a cascade is read through LATCHED and COUNT64. Rests on R390 to R395. SET and CLR change exactly the OUT bits
written as 1, of the low 32 pins or of the high 16. Rests on R404. -/
def Obligations.TimersAndPins : Prop :=
  (∀ (s : State) (t : TimerId),
      let x := tmr s t
      let only (u v : State) : Prop := v = { u with timers := v.timers } ∧ ∀ k, k ≠ t.val → tmr v k = tmr s k
      let quiet := ∀ evt act, listeners s t evt act = []
      let own := tRuns s t = true ∧ trigClocked s t = false ∧ tickClocked s t = false
      let ahead (n : Nat) : Word := if own then BitVec.ofNat 32 ((x.count.toNat + n) % (x.period.toNat + 1)) else x.count
      let wrapped : Timer :=
        { x with count := 0, period := x.prePeriod, compare := x.preCompare, sticky := x.sticky ||| (if x.preCompare = 0 then 3
          else 1) }
      ((¬own → exec (.timerWrap t) s = .next s ∧ exec (.compareEvent t) s = .next s)
      ∧ (own → ∃ v, exec (.timerWrap t) s = .next v ∧ v = { s with timers := v.timers }
          ∧ (∀ k, k / 8 ≠ t.val / 8 → tmr v k = tmr s k)
          ∧ (quiet → (∀ k, k ≠ t.val → tmr v k = tmr s k) ∧ tmr v t = wrapped)
          ∧ (∀ u, x.preCompare ≠ 0 → (∀ evt act, ¬(evt = 0 ∧ act = 2) → listeners s t evt act = []) → listeners s t 0 2 = [u] →
              (∀ evt act, listeners s u evt act = []) → (tmr s u).compare ≠ 0 →
              tmr v u = { tmr s u with count := 0 } ∧ tmr v t = wrapped)
          ∧ (∀ u, x.preCompare ≠ 0 → (∀ evt act, ¬(evt = 0 ∧ act = 3) → listeners s t evt act = []) → listeners s t 0 3 = [u] →
              domainRuns s = true → hasBit (tmr s u).ctrl 14 = false → (tmr s u).presc = tcf (tmr s u) 0 8 →
              (tmr s u).count ≠ (tmr s u).period → (tmr s u).count + 1 ≠ (tmr s u).compare →
              tmr v u = { tmr s u with count := (tmr s u).count + 1, presc := 0 } ∧ tmr v t = wrapped))
      ∧ (own → ∃ v, exec (.compareEvent t) s = .next v ∧ v = { s with timers := v.timers }
          ∧ ∀ k, k / 8 ≠ t.val / 8 → tmr v k = tmr s k)
      ∧ (own → quiet → ∃ v, exec (.compareEvent t) s = .next v ∧ only s v
          ∧ tmr v t = { x with count := x.compare, sticky := x.sticky ||| 2 }))
      ∧ (∀ n : Nat, let takes := tEnabled x = true ∧ tcf x 12 2 = 1 ∧ domainRuns s = true
        ∃ v, exec (.captureEdge t n) s = .next v ∧ only s v
          ∧ (¬takes → tmr v t = { x with count := ahead n })
          ∧ (takes → x.caps.length < 4 → tmr v t = { x with count := ahead n, caps := x.caps ++ [ahead n] })
          ∧ (takes → 4 ≤ x.caps.length → tmr v t = { x with count := ahead n, sticky := x.sticky ||| 4 }))
      ∧ (∀ (lvl : Level) (n : Nat), serverRuns s = true →
        let read (u : State) (st value : Nat) : State := { u with net := { u.net with status := st, value := value } }
        (accessStatus s lvl (0x2940 + t) 6 false = stOK →
          (x.caps = [] → exec (.capture lvl t) s = .next (read s stOK 0xFFFFFFFF))
          ∧ (∀ w rest, x.caps = w :: rest → ∃ v, exec (.capture lvl t) s = .next (read v stOK w.toNat) ∧ only s v
              ∧ tmr v t = { x with caps := rest }))
        ∧ (accessStatus s lvl (0x2940 + t) 6 false ≠ stOK →
            exec (.capture lvl t) s = .next (read s (accessStatus s lvl (0x2940 + t) 6 false) 0))
        ∧ (accessStatus s lvl (0x2940 + t) 2 false = stOK →
          ∃ v, exec (.countRead lvl t n) s = .next (read v stOK (ahead n).toNat) ∧ v = { s with timers := v.timers }
            ∧ tmr v t = { x with count := ahead n }
            ∧ tmr v (t.val + 1) = (if cascade s t = true then { tmr s (t.val + 1) with latched := (tmr s (t.val + 1)).count }
                else tmr s (t.val + 1))
            ∧ ∀ k, k ≠ t.val → k ≠ t.val + 1 → tmr v k = tmr s k)
        ∧ (t.val % 2 = 0 → accessStatus s lvl (0x2940 + t) 8 false = stOK →
          ∃ v, only s v ∧ tmr v t = { x with count := ahead n }
            ∧ (cascade s t = false → exec (.count64 lvl t n) s = .next (read v stState 0))
            ∧ (cascade s t = true → exec (.count64 lvl t n) s = .next (read v stOK
                ((ahead n).toNat + (tmr s (t.val + 1)).count.toNat * 2 ^ 32)))))
      ∧ (∀ (lvl : Level) (v : Word), Admits s lvl (0x2940 + t) 3 v.toNat → ∃ y, exec (.timerPreloadWrite lvl t false v) s = .next y
          ∧ only (answered s stOK) y
          ∧ tmr y t = { x with prePeriod := v, period := if tEnabled x then x.period else v })
      ∧ (∀ (lvl : Level) (v : Word), Admits s lvl (0x2940 + t) 4 v.toNat → ∃ y, exec (.timerPreloadWrite lvl t true v) s = .next y
          ∧ only (answered s stOK) y
          ∧ tmr y t = { x with preCompare := v, compare := if tEnabled x then x.compare else v })
      ∧ (∀ (lvl : Level) (v : Word), Admits s lvl (0x2940 + t) 2 v.toNat → ∃ y, exec (.count lvl t v) s = .next y
          ∧ y = { answered s stOK with timers := y.timers }
          ∧ ∀ k, k / 8 ≠ t.val / 8 → tmr y k = tmr s k)
      ∧ ∀ (lvl : Level) (v : Word), Admits s lvl (0x2940 + t) 2 v.toNat → quiet → ∃ y, exec (.count lvl t v) s = .next y
          ∧ only (answered s stOK) y
          ∧ tmr y t = { x with
              count := v, sticky := if tRuns y t = true ∧ x.compare = v then x.sticky ||| 2 else x.sticky })
  ∧ (∀ (s : State) (lvl : Level) (v : Word),
      let out (o : BitVec 48) : State := { answered s stOK with gpio := { s.gpio with out := o } }
      let low : BitVec 48 := v.setWidth 48
      let high : BitVec 48 := (v.setWidth 48 &&& 0xFFFF) <<< 32
      (Admits s lvl 0x29C0 13 v.toNat → exec (.set lvl false v) s = .next (out (s.gpio.out ||| low)))
      ∧ (Admits s lvl 0x29C0 14 v.toNat → exec (.set lvl true v) s = .next (out (s.gpio.out ||| high)))
      ∧ (Admits s lvl 0x29C0 15 v.toNat → exec (.clr lvl false v) s = .next (out (s.gpio.out &&& ~~~low)))
      ∧ (Admits s lvl 0x29C0 16 v.toNat → exec (.clr lvl true v) s = .next (out (s.gpio.out &&& ~~~high))))

/-! ### Start-up, update and recovery (15) -/

/-- A reset starts the machine anew but for what MRAM, the always-on domain, the pins and the far ends keep; the rise of
VAUX counts a power cycle, MARGIN is 0 at every start, SVC_RESET stays only over the reset it caused, the internal reset
and a missing TCXO hold the controller. What the spec does not state, RESET_CAUSE after a loss of TCXO, is a free value
(notes/assumptions/2.md; R217, R278, R406, R421, R425, R434, R441). -/
def Obligations.ResetsKeepWhatThePowerKeeps : Prop :=
  (∀ (s : State) (cause mode : Nat), let t := resetNow s cause mode
    t.boot.cause = cause ∧ t.boot.recovery = (mode == 1) ∧ t.boot.coldP0 = (mode != 1) ∧ t.boot.collarUp = false
    ∧ t.boot.hours = s.boot.hours ∧ t.boot.aoClock = s.boot.aoClock ∧ t.boot.cycles = s.boot.cycles
    ∧ t.boot.bootSlot = s.boot.bootSlot ∧ t.boot.trial = s.boot.trial
    ∧ t.mram = s.mram ∧ t.fes = s.fes
    ∧ (∀ n < 256, cfg t (0x3100 + n) 0x10 = 0)
    ∧ (∀ k, (∀ n < 256, k ≠ okey (0x3100 + n) 0x10) → tfind t.cfg k = tfind s.cfg k)
    ∧ hasBit t.shelf.sticky 2 = (cause == 2 && hasBit s.shelf.sticky 2) ∧ t.pending = s.pending ∧ t.gpio.pins = s.gpio.pins
    ∧ t.gpio.dir = State.reset.gpio.dir ∧ t.gpio.out = State.reset.gpio.out ∧ t.recorder.copyA = s.recorder.copyA
    ∧ t.recorder.copyB = s.recorder.copyB ∧ t.recorder.checkpoints = s.recorder.checkpoints ∧ t.recorder.slots = s.recorder.slots
    ∧ t.net.sessions = [] ∧ t.net.subs = [] ∧ t.net.hushed = false ∧ t.net.levelKeys = s.net.levelKeys
    ∧ t.pair.role = .out ∧ t.wheel.w = 8192 ∧ t.wheel.l = 2048 ∧ t.wheel.state = .free ∧ t.wheel.fTick = fNom s
    ∧ t.arr.started = false ∧ t.pat.recordedSlot = s.pat.recordedSlot ∧ t.pat.paramVals = s.pat.paramVals
    ∧ (s.hem.killLow = false → t.links = State.reset.links ∧ t.ctls = State.reset.ctls ∧ t.arr = State.reset.arr
        ∧ t.sq = State.reset.sq ∧ t.hem.held = false)
    ∧ (s.hem.killLow = true → t.hem.held = true ∧ hasBit t.hem.summary 0 = true))
  ∧ (∀ (s : State) (m : BitVec 2),
    (inReset s = false → exec (.resetN m) s = .next (resetNow s 1 m.toNat))
    ∧ (inReset s = true → ∃ t, exec (.resetN m) s = .next t ∧ t.boot.internal = s.boot.internal
        ∧ t.boot.tcxoLost = s.boot.tcxoLost
        ∧ let r := resetNow s (if s.boot.internal then s.boot.cause else 1) m.toNat
          t = { r with boot := { r.boot with internal := s.boot.internal, tcxoLost := s.boot.tcxoLost } }))
  ∧ ∀ s : State,
    let v := resetNow s 0 s.boot.bootMode
    let r := resetNow { s with draws := s.draws + 1 } ((Config.freeWord s.draws).toNat % 5) s.boot.bootMode
    exec .vauxRise s = .next { v with boot := { v.boot with cycles := s.boot.cycles + 1, internal := true } }
    ∧ exec .internalResetEnd s = .next { s with boot := { s.boot with internal := false } }
    ∧ exec .tcxoLoss s = .next { r with boot := { r.boot with tcxoLost := true, internal := s.boot.internal } }
    ∧ exec .tcxoReturn s = .next { s with boot := { s.boot with tcxoLost := false } }

/-- P0 runs the image in BOOT_SLOT or the other one and begins P1, or starts the recovery ROM; a restart of the Collar
alone touches no other part but the count of the charge watchdog, ends what was pending unless it is an activation, and
executes the messages it held. Rests on R267, R336, R406, R412, R413, R419, R421, R425 to R427. SLEEP_CMD needs a quiet
SOLO unit in RUN, DEGRADED or SHIP; WAKE, and a WAKE_N input that WAKE_MASK enables, leave the sleep with the engines to
start again, the wheel FREE and P1 begun. Rests on R272, R423, R424. -/
def Obligations.StartRestartSleepAndWake : Prop :=
  ((∀ s : State, inReset s = true ∨ (s.boot.coldP0 = false ∧ s.boot.restarting = false) → exec .collarBootDone s = .next s)
    ∧ (∀ s : State, inReset s = false → s.boot.coldP0 = true ∨ s.boot.restarting = true →
      let b : Boot := if s.boot.coldP0 = true ∧ s.boot.trial = true then { s.boot with
        trial := false, bootSlot := s.boot.confirmed, sticky := s.boot.sticky ||| 4 } else s.boot
      let other := slotOk s b.bootSlot = false
      let serves (t : State) : State := s.net.ingress.foldl handle { t with net := { s.net with ingress := [], smbBusy := false } }
      (other → slotOk s (1 - b.bootSlot) = false → exec .collarBootDone s = .next (serves { s with
          boot := { b with coldP0 := false, restarting := false, collarUp := false, recovery := true, sticky := b.sticky ||| 8 } }))
      ∧ ∀ k, (k = b.bootSlot ∧ slotOk s k = true) ∨ (k = 1 - b.bootSlot ∧ other ∧ slotOk s k = true) →
        let c : Boot := { b with
          coldP0 := false, restarting := false, collarUp := true, runningSlot := k,
          sticky := if k = b.bootSlot then b.sticky else b.sticky ||| 1 }
        (s.boot.coldP0 = false → exec .collarBootDone s = .next (serves { s with boot := c }))
        ∧ (s.boot.coldP0 = true → ∃ t, exec .collarBootDone s = .next (serves t)
          ∧ t = { s with
              boot := t.boot, ctls := t.ctls, shelf := t.shelf, recorder := t.recorder, draws := t.draws, pat := { s.pat with
                p1 := some false, loading := some (s.pat.recordedSlot, true), loadResult := 0xFF, loadDetail := 0 } }
          ∧ t.boot = { c with
              sticky := t.boot.sticky, hours := t.boot.hours, hoursFrac := t.boot.hoursFrac, cycles := t.boot.cycles,
              aoClock := t.boot.aoClock, aoRem := t.boot.aoRem, aoValid := true }
          ∧ (s.boot.aoValid = true → t.boot.hours = s.boot.hours ∧ t.boot.cycles = s.boot.cycles)
          ∧ (s.boot.aoValid = false → hasBit t.boot.sticky 4 = true ∧ t.boot.aoClock = 0
              ∧ (∀ cp, checkpointInForce s = some cp → t.boot.hours = cp.hours ∧ t.boot.cycles = BitVec.ofNat 32 (cp.cycles + 1))
              ∧ (checkpointInForce s = none → t.boot.hours = 0 ∧ t.boot.cycles = 1))
          ∧ (hasBit t.boot.sticky 0 = true ↔ k ≠ b.bootSlot ∨ hasBit b.sticky 0 = true)
          ∧ t.recorder.newest = nextSeq s.recorder.newest))
    ∧ ∀ s : State,
      let b : Boot := if s.boot.trial then { s.boot with
        trial := false, bootSlot := s.boot.confirmed, sticky := s.boot.sticky ||| 4 } else s.boot
      let armed := s.arm.queued = true ∨ s.arm.state = 1 ∨ (s.arm.state = 2 ∧ s.arm.committing = false)
      let ends (c : RestartCause) (cause : Nat) := ∃ t, exec (.collarRestart c) s = .next t ∧ t = { s with
        boot := { b with restarting := true, cause := cause }, shelf := { s.shelf with cwdTime := 0 },
        pat := if s.pat.shadowState = 2 then { s.pat with shadowState := 3, loadResult := 0x25, bound := false, readBack := false }
          else s.pat,
        arm := if armed then { s.arm with abortNext := true, queued := false } else s.arm,
        net := { s.net with pend := s.net.pend.filter fun p => !isImage p.index, gres := t.net.gres } }
        ∧ ∀ p ∈ s.net.pend, isImage p.index = true → (tget {} t.net.gres (imageGroup p.index)).written = []
            ∧ (tget {} t.net.gres (imageGroup p.index)).late = members s (imageGroup p.index)
      (∀ c, collarRuns s = false → exec (.collarRestart c) s = .next s)
      ∧ (collarRuns s = true →
        exec (.collarRestart .activation) s = .next { s with
          boot := { s.boot with restarting := true }, shelf := { s.shelf with cwdTime := 0 } }
        ∧ ends .watchdog 4 ∧ ends .lockstep s.boot.cause))
  ∧ (∀ (s : State) (lvl : Level) (v : Byte),
      let wakes (u t : State) : Prop := t.boot.asleep = false ∧ t.arr.started = false ∧ t.wheel.state = .free
        ∧ t.hem.startHold = true ∧ t.pat.p1 = some false ∧ t.pat.loading = some (s.pat.recordedSlot, true)
        ∧ t.boot.cycles = s.boot.cycles ∧ MarginOnly s.cfg t.cfg ∧ t.mram = s.mram ∧ t.net = u.net ∧ t.pair = s.pair
        ∧ ∀ n ∈ linkPorts s, (link t n).state = .absent ∧ (link t n).driving = false
      (Admits s lvl 0x1020 4 v.toNat →
        let able := (powerState s = 2 ∨ powerState s = 3 ∨ powerState s = 5) ∧ s.pair.role = .solo
          ∧ (∀ x ∈ s.links, x.2.state ≠ .starting ∧ x.2.state ≠ .running ∧ x.2.state ≠ .stopping) ∧ s.boot.sleeping = none
        (v = 0 → exec (.sleepCmd lvl v) s = .next (answered s stOK))
        ∧ (v ≠ 0 → able → exec (.sleepCmd lvl v) s = .next { answered s stOK with
            boot := { s.boot with sleeping := some (17 + skipNow s) } })
        ∧ (v ≠ 0 → ¬able → exec (.sleepCmd lvl v) s = .next (answered s stState)))
      ∧ (Admits s lvl 0x1020 5 v.toNat →
        (v = 0 ∨ s.boot.asleep = false → exec (.wake lvl v) s = .next (answered s stOK))
        ∧ (v ≠ 0 → s.boot.asleep = true → ∃ t, exec (.wake lvl v) s = .next t ∧ wakes (answered s stOK) t))
      ∧ ∀ (k : Fin 4) (ticks : Nat),
        (s.boot.asleep = true → (cfg s 0x26F0 19).testBit k = true → ∃ t, exec (.wakeN k ticks) s = .next t ∧ wakes s t)
        ∧ (¬(s.boot.asleep = true ∧ (cfg s 0x26F0 19).testBit k = true) → exec (.wakeN k ticks) s = .next s))

/-- A completed image is VERIFIED only when every check of its kind passes; a timeout or DL_ABORT invalidates a
download; a VERIFIED Collar slot runs on trial until it is confirmed; FW_FLOOR only rises; FE_LOAD queues a whole image
to a port in HEM. Rests on R122, R123, R129, R184, R415 to R420, R422, R428. -/
def Obligations.ImagesAreVerifiedAndActivated : Prop :=
  (∀ (s : State) (x : Fin 5) (readBack lanistan customer : Bool),
    let h := mread s.mram (dlAddr s x) 32
    let q := mread s.mram (dlAddr s x) 64
    let c : Instr := .verificationComplete x readBack lanistan customer
    let rejects (r : Nat) : Prop := ∃ t, exec c s = .next t ∧ t = { s with boot := { s.boot with dls := t.boot.dls } }
      ∧ dl t x = { dl s x with state := 4, reason := r } ∧ ∀ k, k ≠ x.val → dl t k = dl s k
    let head := leAt h 0 4 = 0x474D4946 ∧ leAt h 4 2 = 1 ∧ leAt h 0x1C 4 = (crc32 (h.take 28)).toNat ∧ leAt h 0x13 9 = 0
    let size := leAt h 8 4 = (dl s x).total ∧ leAt h 8 4 ≤ dlSize x
    let kind := if x.val = 4 then leAt h 6 1 = 2 ∧ 1 ≤ leAt h 7 1 ∧ leAt h 7 1 ≤ 4 else leAt h 6 1 = 1 ∧ leAt h 7 1 = 0
    let signed := (if x.val = 4 then customer else lanistan) = true ∧ (x.val = 4 → tget [] s.net.imageKeys (leAt h 7 1) ≠ [])
    let secs := (List.range (leAt q 0x22 2)).map (dirEntry s (dlAddr s x) (leAt q 0x24 4))
    let parts := (leAt q 0x24 4, 16 * leAt q 0x22 2) :: secs.map fun e => (e.1, e.2.1)
    let patHead := leAt q 0 4 = 0x31544150 ∧ leAt q 4 2 = 1 ∧ leAt q 6 2 = 0x40 ∧ leAt q 0x3C 4 = (crc32 (q.take 60)).toNat
    let patSize := leAt q 8 4 ≤ dlSize x ∧ (∀ p ∈ parts, 64 ≤ p.1 ∧ p.1 + p.2 + 96 ≤ leAt q 8 4)
      ∧ parts.Pairwise fun p r => p.1 + p.2 ≤ r.1 ∨ r.1 + r.2 ≤ p.1
    let patCrc := ∀ e ∈ secs, crc32 (mread s.mram (dlAddr s x + e.1) e.2.1) = e.2.2
    let patSigned := readBack = true ∧ (if leAt q 0x18 4 % 2 = 1 then lanistan else customer) = true
      ∧ (leAt q 0x18 4 % 2 = 1 ↔ leAt q 0x38 4 = 0)
      ∧ (leAt q 0x38 4 ≠ 0 → tget [] s.net.imageKeys (leAt q 0x38 4) ≠ [])
    let floor := x.val = 4 ∨ cfg s 0x1800 10 ≤ leAt h 0x0C 4
    ((dl s x).state ≠ 2 → exec c s = .next s)
    ∧ ((dl s x).state = 2 →
      (x.val = 2 ∨ x.val = 3 → (¬patHead → rejects 1) ∧ (patHead → ¬patSize → rejects 2)
        ∧ (patHead → patSize → ¬patCrc → rejects 3) ∧ (patHead → patSize → patCrc → ¬patSigned → rejects 4))
      ∧ (x.val = 2 ∨ x.val = 3 → patHead → patSize → patCrc → patSigned → ∃ t, exec c s = .next t
        ∧ t = { s with boot := { s.boot with dls := t.boot.dls } }
          ∧ dl t x = { dl s x with state := 3, reason := 0 } ∧ ∀ k, k ≠ x.val → dl t k = dl s k)
      ∧ (x.val ≠ 2 → x.val ≠ 3 →
        (¬head → rejects 1) ∧ (head → ¬size → rejects 2) ∧ (head → size → ¬kind → rejects 3)
        ∧ (head → size → kind → readBack = false → rejects 4)
        ∧ (head → size → kind → readBack = true → ¬signed → rejects 5)
        ∧ (head → size → kind → readBack = true → signed → ¬floor → rejects 6)
        ∧ (head → size → kind → readBack = true → signed → floor → ∃ t, exec c s = .next t
          ∧ t = { s with boot := { s.boot with
              dls := t.boot.dls, slotVer := t.boot.slotVer, slotValid := t.boot.slotValid, areas := t.boot.areas } }
          ∧ dl t x = { dl s x with state := 3, reason := 0 } ∧ (∀ k, k ≠ x.val → dl t k = dl s k)
          ∧ (x.val < 2 → slotVersion t x = BitVec.ofNat 32 (leAt h 0x0C 4) ∧ slotOk t x = true ∧ t.boot.areas = s.boot.areas)
          ∧ (x.val = 4 → tfind t.boot.areas (dl s x).area = some (leAt h 0x10 2, BitVec.ofNat 32 (leAt h 0x0C 4)))))))
  ∧ (∀ (s : State) (x : Fin 5),
    let idle (u t : State) : Prop := t = { u with boot := { s.boot with dls := t.boot.dls, slotValid := t.boot.slotValid } }
      ∧ dl t x = {} ∧ (∀ k, k ≠ x.val → dl t k = dl s k) ∧ (x.val < 2 → slotOk t x = false)
      ∧ (∀ k, k ≠ x.val ∨ 2 ≤ k → slotOk t k = slotOk s k)
    ((dl s x).state = 1 → ∃ t, exec (.downloadTimeout x) s = .next t ∧ idle s t)
    ∧ ((dl s x).state ≠ 1 → exec (.downloadTimeout x) s = .next s)
    ∧ ∀ (lvl : Level) (v : Byte), Admits s lvl (0x1808 + x) 5 v.toNat →
      (v ≠ 0 → (dl s x).state = 1 ∨ (dl s x).state = 2 → ∃ t, exec (.dlAbort lvl x v) s = .next t ∧ idle (answered s stOK) t)
      ∧ (v = 0 ∨ ((dl s x).state ≠ 1 ∧ (dl s x).state ≠ 2) → exec (.dlAbort lvl x v) s = .next (answered s stOK)))
  ∧ ∀ (s : State) (lvl : Level) (v : Byte),
    (Admits s lvl 0x1800 6 v.toNat →
      let pending := s.pat.shadowState = 2 ∨ s.arm.queued = true ∨ s.arm.state = 1 ∨ s.arm.state = 2
        ∨ ∃ p ∈ s.net.pend, isImage p.index = true
      ((dl s v.toNat).state ≠ 3 → exec (.activate lvl v) s = .next (answered s stState))
      ∧ ((dl s v.toNat).state = 3 → s.boot.recovery = false → pending → exec (.activate lvl v) s = .next (answered s stBusy))
      ∧ ((dl s v.toNat).state = 3 → s.boot.recovery = false → ¬pending → exec (.activate lvl v) s = .next { answered s stOK with
          boot := { s.boot with bootSlot := v.toNat, trial := true, restarting := true },
          shelf := { s.shelf with cwdTime := 0 } })
      ∧ ((dl s v.toNat).state = 3 → s.boot.recovery = true →
        let r := resetNow { taken s with boot := { s.boot with
          bootSlot := v.toNat, confirmed := v.toNat, trial := false } } 3 0
        exec (.activate lvl v) s = .next { r with net := { r.net with status := stOK } }))
    ∧ (Admits s lvl 0x1800 7 v.toNat →
      (v = 0 ∨ s.boot.trial = false → exec (.confirm lvl v) s = .next (answered s stOK))
      ∧ (v ≠ 0 → s.boot.trial = true → exec (.confirm lvl v) s = .next { answered s stOK with
          boot := { s.boot with trial := false, confirmed := s.boot.runningSlot } }))
    ∧ (s.boot.trial = true → collarRuns s = true → exec .trialConfirm s = .next { s with
        boot := { s.boot with trial := false, confirmed := s.boot.runningSlot } })
    ∧ (¬(s.boot.trial = true ∧ collarRuns s = true) → exec .trialConfirm s = .next s)
    ∧ (∀ f : Word, Admits s lvl 0x1800 10 f.toNat →
      let right := cfg s 0x1800 10 ≤ f.toNat ∧ s.boot.trial = false ∧ f.toNat ≤ (slotVersion s s.boot.runningSlot).toNat
      (right → exec (.fwFloor lvl f) s = .next { answered s stOK with cfg := tput s.cfg (okey 0x1800 10) f.toNat })
      ∧ (¬right → exec (.fwFloor lvl f) s = .next (answered s stRange)))
    ∧ (Admits s lvl 0x1810 2 v.toNat →
      let n := cfg s 0x1810 1
      let able := (link s n).state = .hem ∧ commands s = true ∧ (areaOf s (link s n).fwFamily).isSome = true
        ∧ (link s n).fwLoad = 0
      (v = 0 → exec (.feLoad lvl v) s = .next (answered s stOK))
      ∧ (v ≠ 0 → ¬able → exec (.feLoad lvl v) s = .next (answered s stState))
      ∧ (v ≠ 0 → able → ∃ t, exec (.feLoad lvl v) s = .next t ∧ t = { answered s stOK with links := t.links }
          ∧ (∀ k, k ≠ n → link t k = link s k) ∧ (link t n).fwLoad = 1
          ∧ ∃ k new more, areaOf s (link s n).fwFamily = some k
            ∧ (link t n).mbx.out = (link s n).mbx.out ++ new ∧ (link t n).mbx.wait = (link s n).mbx.wait ++ more
            ∧ (∀ m ∈ new ++ more, m.1 = 5)
            ∧ let img := mread s.mram (areaAddr k) (leNat (mread s.mram (areaAddr k + 8) 4))
              let begins := leBytes 4 (leNat (mread s.mram (areaAddr k + 8) 4)) ++ wordBytes (crc32 img)
                ++ mread s.mram (areaAddr k + 12) 4 ++ mread s.mram (areaAddr k + 16) 2 ++ [0, 0]
              let bodies := (0x20, begins) :: (fwBlocks img ((leNat (mread s.mram (areaAddr k + 8) 4) + 1023) / 1024) 0).map
                (fun b => (0x21, b)) ++ [(0x22, [])]
              (new ++ more).map (fun m => m.2)
                = bodies.zipIdx.map fun b => message b.1.1 (((link s n).tag + b.2) % 256) b.1.2))

/-- A word laid out in the R, I, U or L format, with any value in the fields its instruction does not use, decodes to
the instruction that the table lists for its OP and FN with the operands in their fields; a word decodes to
UNLISTED_OPCODE exactly where the table lists no such word. Rests on R87, R96. -/
def Obligations.EngineWordsSpellTheirInstruction : Prop :=
  ∀ (e : EngineId) (p : Pred) (rd ra rb : Reg) (fn : BitVec 7) (imm : BitVec 12) (imm16 : BitVec 16) (resv : BitVec 1),
    let word (op : BitVec 6) (rest : BitVec 22) : Word := BitVec.ofBool p.n ++ p.p ++ op ++ rest
    let wordR (op : BitVec 6) (fn : BitVec 7) : Word := word op (rd ++ ra ++ rb ++ fn)
    let wordI (op : BitVec 6) : Word := word op (rd ++ ra ++ imm)
    let pd : BitVec 3 := rd.setWidth 3
    let acc : Bool := rd.getLsbD 0
    (∀ rest : BitVec 22, decodeWord e (word 0x00 rest) = .nop e ∧ decodeWord e (word 0x3F rest) = .endround e)
    ∧ (∀ fc ∈ [(0x00, Instr.add e p rd ra rb), (0x01, .sub e p rd ra rb), (0x02, .andR e p rd ra rb), (0x03, .orR e p rd ra rb),
          (0x04, .xorR e p rd ra rb), (0x05, .shl e p rd ra rb), (0x06, .shr e p rd ra rb), (0x07, .sra e p rd ra rb),
          (0x08, .min e p rd ra rb), (0x09, .max e p rd ra rb), (0x0A, .minu e p rd ra rb), (0x0B, .maxu e p rd ra rb),
          (0x0C, .sexth e p rd ra), (0x0D, .zexth e p rd ra), (0x0E, .highh e p rd ra)],
        decodeWord e (wordR 0x01 fc.1) = fc.2)
    ∧ (∀ oc ∈ [(0x02, Instr.addi e p rd ra imm), (0x03, .andi e p rd ra imm), (0x04, .ori e p rd ra imm), (0x05,
      .xori e p rd ra imm),
          (0x06, .shifti e p rd ra imm), (0x14, .rdacc e p rd (ra.getLsbD 0) (imm.setWidth 6)), (0x20, .ld e p rd ra imm),
          (0x21, .st e p rd ra imm), (0x22, .stp e p rd (imm.setWidth 6)), (0x24, .lds e p rd ra imm), (0x25,
            .ldsd e p rd ra imm),
          (0x26, .sts e p rd ra imm), (0x27, .stsd e p rd ra imm), (0x29, .yrecv e p rd (imm.setWidth 6)),
          (0x2B, .yres e p rd (imm.getLsbD 4) (imm.setWidth 4)), (0x2C, .tally e p ra imm), (0x2D,
            .extreme e p ra (imm.setWidth 7)),
          (0x2E, .trip e p (imm.extractLsb' 3 8) (imm.setWidth 3)), (0x2F, .rdw e p rd (imm.setWidth 4)), (0x30, .rdflg e p rd),
          (0x31, .clrflg e p (imm.setWidth 11)), (0x3D, .ridx e p rd (imm.getLsbD 0))],
        decodeWord e (wordI oc.1) = oc.2)
    ∧ decodeWord e (word 0x08 (rd ++ resv ++ imm16)) = .movi e p rd imm16
    ∧ decodeWord e (word 0x09 (rd ++ resv ++ imm16)) = .movh e p rd imm16
    ∧ decodeWord e (wordR 0x0A fn) = .sel e p rd ra rb (fn.getLsbD 3) (fn.setWidth 3)
    ∧ (∀ fc ∈ [(0x00, Instr.cmpEq e p pd ra rb), (0x01, .cmpNe e p pd ra rb), (0x02, .cmpLt e p pd ra rb), (0x03,
      .cmpLe e p pd ra rb),
          (0x04, .cmpLtu e p pd ra rb), (0x05, .cmpLeu e p pd ra rb), (0x10, .cmpFeq e p pd ra rb), (0x11, .cmpFne e p pd ra rb),
          (0x12, .cmpFlt e p pd ra rb), (0x13, .cmpFle e p pd ra rb)],
        decodeWord e (wordR 0x0B fc.1) = fc.2)
    ∧ (∀ fc ∈ [(0, Instr.pand e p pd (ra.setWidth 3) (rb.setWidth 3)), (1, .por e p pd (ra.setWidth 3) (rb.setWidth 3)),
          (2, .pxor e p pd (ra.setWidth 3) (rb.setWidth 3)), (3, .pandn e p pd (ra.setWidth 3) (rb.setWidth 3))],
        decodeWord e (wordR 0x0C fc.1) = fc.2)
    ∧ (∀ fc ∈ [(0, Instr.mul e p rd ra rb), (1, .mulh e p rd ra rb), (2, .mulhu e p rd ra rb), (3, .qmul15 e p rd ra rb),
          (4, .qmul31 e p rd ra rb)], decodeWord e (wordR 0x10 fc.1) = fc.2)
    ∧ (∀ fc ∈ [(0, Instr.qadd15 e p rd ra rb), (1, .qsub15 e p rd ra rb), (2, .qadd31 e p rd ra rb), (3, .qsub31 e p rd ra rb)],
        decodeWord e (wordR 0x11 fc.1) = fc.2)
    ∧ (∀ fc ∈ [(0, Instr.mac e p acc ra rb), (1, .msu e p acc ra rb), (2, .macq15 e p acc ra rb), (3, .msuq15 e p acc ra rb)],
        decodeWord e (wordR 0x12 fc.1) = fc.2)
    ∧ (∀ fc ∈ [(0, Instr.clra e p acc), (1, .lda e p acc ra)], decodeWord e (wordR 0x13 fc.1) = fc.2)
    ∧ (∀ fc ∈ [(0, Instr.fadd e p rd ra rb), (1, .fsub e p rd ra rb), (2, .fmul e p rd ra rb), (4, .fmin e p rd ra rb),
          (5, .fmax e p rd ra rb), (6, .fabs e p rd ra), (7, .fneg e p rd ra), (8, .i2f e p rd ra), (9, .f2i e p rd ra),
          (10, .q15f e p rd ra), (11, .fq15 e p rd ra), (12, .q31f e p rd ra), (13, .fq31 e p rd ra)],
        decodeWord e (wordR 0x18 fc.1) = fc.2)
    ∧ (∀ fc ∈ [(0, Instr.fma e p rd ra rb), (1, .fms e p rd ra rb)], decodeWord e (wordR 0x19 fc.1) = fc.2)
    ∧ (∀ fc ∈ [(0, Instr.fdiv e p rd ra rb), (1, .fsqrt e p rd ra), (2, .idiv e p rd ra rb), (3, .udiv e p rd ra rb)],
        decodeWord e (wordR 0x1A fc.1) = fc.2)
    ∧ decodeWord e (wordR 0x1B fn) = .interp e p rd ra rb
    ∧ decodeWord e (wordR 0x28 fn) = .ysend e p ra
    ∧ decodeWord e (wordR 0x2A fn) = .yred e p ra
    ∧ (∀ (pfield : BitVec 4) (count len : BitVec 10) (gap : BitVec 2),
        decodeWord e (pfield ++ (0x3C : BitVec 6) ++ count ++ gap ++ len) = .repeatI e pfield count len)
    ∧ (∀ w : Word, decodeWord e w = .unlistedOpcode e w ↔ listedWord w = false)
end

