-- ==== Sys2Proof/Laws/Tab.lean ====
section
/-! SUPPORT. Laws of the sparse tables and of the byte memories: what a read gives after a write, and that every
memory operation keeps the canonical form. -/
namespace Sys2Proof.Machine

/-! ### Tables -/

theorem tfind_tput_same {α : Type} (t : Tab α) (i : Nat) (v : α) : tfind (tput t i v) i = some v := by
  induction t with
  | nil => simp [tput, tfind]
  | cons x t ih =>
    obtain ⟨k, w⟩ := x
    simp only [tput]
    split
    · simp [tfind]
    · split
      · simp [tfind]
      · rename_i h1 h2
        simp [tfind, Ne.symm h2, ih]

theorem tfind_tput_other {α : Type} (t : Tab α) (i j : Nat) (v : α) (h : j ≠ i) : tfind (tput t i v) j = tfind t j := by
  induction t with
  | nil => simp [tput, tfind, Ne.symm h]
  | cons x t ih =>
    obtain ⟨k, w⟩ := x
    simp only [tput]
    split
    · simp [tfind, Ne.symm h]
    · split
      · rename_i h2
        subst h2
        simp [tfind, Ne.symm h]
      · simp only [tfind, ih]

theorem tfind_tdel_same {α : Type} (t : Tab α) (i : Nat) : tfind (tdel t i) i = none := by
  unfold tdel
  induction t with
  | nil => rfl
  | cons x t ih =>
    obtain ⟨k, w⟩ := x
    by_cases hk : k = i <;> simp [tfind, hk, ih]

theorem tfind_tdel_other {α : Type} (t : Tab α) (i j : Nat) (h : j ≠ i) : tfind (tdel t i) j = tfind t j := by
  unfold tdel
  induction t with
  | nil => rfl
  | cons x t ih =>
    obtain ⟨k, w⟩ := x
    by_cases hk : k = i
    · subst hk
      simp [tfind, ih, Ne.symm h]
    · simp [tfind, hk, ih]

/-- Read after write of a table. -/
@[simp] theorem tget_tset_same {α : Type} [DecidableEq α] (d : α) (t : Tab α) (i : Nat) (v : α) :
    tget d (tset d t i v) i = v := by
  unfold tget tset
  split
  · rename_i h
    simp [tfind_tdel_same, h]
  · simp [tfind_tput_same]

/-- A write leaves every other key alone. -/
theorem tget_tset_other {α : Type} [DecidableEq α] (d : α) (t : Tab α) (i j : Nat) (v : α) (h : j ≠ i) :
    tget d (tset d t i v) j = tget d t j := by
  unfold tget tset
  split
  · rw [tfind_tdel_other t i j h]
  · rw [tfind_tput_other t i j v h]

@[simp] theorem tget_tput_same {α : Type} (d : α) (t : Tab α) (i : Nat) (v : α) : tget d (tput t i v) i = v := by
  simp [tget, tfind_tput_same]

theorem tget_tput_other {α : Type} (d : α) (t : Tab α) (i j : Nat) (v : α) (h : j ≠ i) :
    tget d (tput t i v) j = tget d t j := by
  simp [tget, tfind_tput_other t i j v h]

@[simp] theorem tget_nil {α : Type} (d : α) (i : Nat) : tget d [] i = d := rfl

/-! ### Byte memories -/

@[simp] theorem mget_mset_same (m : Mem) (a : Nat) (b : Byte) : mget (mset m a b) a = b := by
  simp [mget, mset]

theorem mget_mset_other (m : Mem) (a c : Nat) (b : Byte) (h : c ≠ a) : mget (mset m a b) c = mget m c :=
  tget_tset_other 0 m a c b h

/-- A block write leaves every byte outside the block alone. -/
theorem mget_mwrite_outside (l : List Byte) : ∀ (m : Mem) (a c : Nat), c < a ∨ a + l.length ≤ c →
    mget (mwrite m a l) c = mget m c := by
  induction l with
  | nil => intros; rfl
  | cons b t ih =>
    intro m a c h
    simp only [List.length_cons] at h
    rw [mwrite, ih _ _ _ (by omega), mget_mset_other _ _ _ _ (by omega)]

/-- A block write gives its bytes. -/
theorem mget_mwrite_inside (l : List Byte) : ∀ (m : Mem) (a i : Nat) (h : i < l.length),
    mget (mwrite m a l) (a + i) = l[i] := by
  induction l with
  | nil => intro _ _ i h; simp at h
  | cons b t ih =>
    intro m a i h
    rw [mwrite]
    cases i with
    | zero => rw [mget_mwrite_outside _ _ _ _ (by omega)]; simp
    | succ i =>
      have := ih (mset m a b) (a + 1) i (by simpa using h)
      rw [show a + (i + 1) = a + 1 + i by omega, this]
      simp

/-- Reading back a block just written. -/
theorem mread_mwrite (m : Mem) (a : Nat) (l : List Byte) : mread (mwrite m a l) a l.length = l := by
  apply List.ext_getElem
  · simp [mread]
  · intro i h1 h2
    simp only [mread, List.getElem_map, List.getElem_range]
    exact mget_mwrite_inside l m a i h2

/-- Reading a block apart from the one written. -/
theorem mread_mwrite_apart (m : Mem) (a c n : Nat) (l : List Byte) (h : c + n ≤ a ∨ a + l.length ≤ c) :
    mread (mwrite m a l) c n = mread m c n := by
  simp only [mread]
  apply List.map_congr_left
  intro i hi
  have := List.mem_range.mp hi
  exact mget_mwrite_outside l m a (c + i) (by omega)

/-! ### The canonical form -/

/-- The canonical form as a relation between neighbours. -/
theorem wf_iff (m : Mem) : Memory.wf m = true ↔ (m.Pairwise fun x y => x.1 < y.1) ∧ ∀ x ∈ m, x.2 ≠ 0 := by
  induction m with
  | nil => simp [Memory.wf]
  | cons x t ih =>
    obtain ⟨a, b⟩ := x
    cases t with
    | nil => simp [Memory.wf]
    | cons y t =>
      obtain ⟨c, d⟩ := y
      simp only [Memory.wf, Bool.and_eq_true, decide_eq_true_eq, ih, List.pairwise_cons, List.mem_cons, bne_iff_ne]
      constructor
      · rintro ⟨⟨h1, h2⟩, ⟨h3, h4⟩, h5⟩
        refine ⟨⟨?_, h3, h4⟩, ?_⟩
        · rintro z (rfl | hz)
          · exact h1
          · exact Nat.lt_trans h1 (h3 z hz)
        · rintro z (rfl | hz)
          · exact h2
          · exact h5 z hz
      · rintro ⟨⟨h1, h3, h4⟩, h5⟩
        exact ⟨⟨h1 (c, d) (.inl rfl), h5 _ (.inl rfl)⟩, ⟨h3, h4⟩, fun z hz => h5 z (.inr hz)⟩

theorem mem_tput {α : Type} (t : Tab α) (i : Nat) (v : α) (x : Nat × α) (h : x ∈ tput t i v) : x = (i, v) ∨ x ∈ t := by
  induction t with
  | nil => simpa [tput] using h
  | cons y t ih =>
    obtain ⟨k, w⟩ := y
    simp only [tput] at h
    split at h
    · simpa using h
    · split at h
      · rcases List.mem_cons.mp h with h | h
        · exact .inl h
        · exact .inr (List.mem_cons_of_mem _ h)
      · rcases List.mem_cons.mp h with h | h
        · exact .inr (h ▸ List.mem_cons_self)
        · rcases ih h with h | h
          · exact .inl h
          · exact .inr (List.mem_cons_of_mem _ h)

theorem sorted_tput {α : Type} (t : Tab α) (i : Nat) (v : α) (h : t.Pairwise fun x y => x.1 < y.1) :
    (tput t i v).Pairwise fun x y => x.1 < y.1 := by
  induction t with
  | nil => simp [tput]
  | cons y t ih =>
    obtain ⟨k, w⟩ := y
    obtain ⟨h1, h2⟩ := List.pairwise_cons.mp h
    simp only [tput]
    split
    · rename_i hk
      refine List.pairwise_cons.mpr ⟨?_, h⟩
      intro z hz
      rcases List.mem_cons.mp hz with rfl | hz
      · exact hk
      · exact Nat.lt_trans hk (h1 z hz)
    · split
      · rename_i hk
        subst hk
        exact List.pairwise_cons.mpr ⟨h1, h2⟩
      · rename_i hk hk'
        refine List.pairwise_cons.mpr ⟨?_, ih h2⟩
        intro z hz
        rcases mem_tput t i v z hz with rfl | hz
        · simp only; omega
        · exact h1 z hz

/-- Storing a byte keeps the canonical form. -/
theorem wf_mset (m : Mem) (a : Nat) (b : Byte) (h : Memory.wf m = true) : Memory.wf (mset m a b) = true := by
  rw [wf_iff] at h ⊢
  obtain ⟨h1, h2⟩ := h
  unfold mset tset
  split
  · exact ⟨h1.filter _, fun x hx => h2 x (List.mem_filter.mp hx).1⟩
  · rename_i hb
    refine ⟨sorted_tput m a b h1, fun x hx => ?_⟩
    rcases mem_tput m a b x hx with rfl | hx
    · exact hb
    · exact h2 x hx

/-- Storing bytes keeps the canonical form. -/
theorem wf_mwrite (l : List Byte) : ∀ (m : Mem) (a : Nat), Memory.wf m = true → Memory.wf (mwrite m a l) = true := by
  induction l with
  | nil => intro m a h; exact h
  | cons b t ih => intro m a h; exact ih _ _ (wf_mset m a b h)

/-- Storing a word keeps the canonical form. -/
theorem wf_mputWord (m : Mem) (a : Nat) (w : Word) (h : Memory.wf m = true) : Memory.wf (mputWord m a w) = true :=
  wf_mwrite _ _ _ h

/-- Clearing a range keeps the canonical form. -/
theorem wf_mclear (m : Mem) (lo hi : Nat) (h : Memory.wf m = true) : Memory.wf (mclear m lo hi) = true := by
  rw [wf_iff] at h ⊢
  exact ⟨h.1.filter _, fun x hx => h.2 x (List.mem_filter.mp hx).1⟩

/-- The empty memory has the canonical form. -/
theorem wf_nil : Memory.wf [] = true := rfl

/-! ### Words in memory -/

@[simp] theorem leBytes_length (n v : Nat) : (leBytes n v).length = n := by
  induction n generalizing v with
  | zero => rfl
  | succ n ih => simp [leBytes, ih]

theorem leNat_leBytes (n v : Nat) : leNat (leBytes n v) = v % 256 ^ n := by
  induction n generalizing v with
  | zero => simp [leBytes, leNat, Nat.mod_one]
  | succ n ih =>
    simp only [leBytes, leNat, ih, BitVec.toNat_ofNat]
    rw [show 256 ^ (n + 1) = 256 * 256 ^ n by rw [Nat.pow_succ, Nat.mul_comm], Nat.mod_mul]

/-- The word just written is read back. -/
theorem mword_mputWord (m : Mem) (a : Nat) (w : Word) : mword (mputWord m a w) a = w := by
  unfold mword mputWord
  have h : (wordBytes w).length = 4 := by simp [wordBytes]
  rw [show mread (mwrite m a (wordBytes w)) a 4 = wordBytes w by
    have := mread_mwrite m a (wordBytes w); rwa [h] at this]
  simp only [wordBytes, leNat_leBytes]
  apply BitVec.eq_of_toNat_eq
  have := w.isLt
  simp only [BitVec.toNat_ofNat]
  omega

/-- A word four or more bytes away is unchanged by a store. -/
theorem mword_mputWord_apart (m : Mem) (a c : Nat) (w : Word) (h : c + 4 ≤ a ∨ a + 4 ≤ c) :
    mword (mputWord m a w) c = mword m c := by
  unfold mword mputWord
  rw [mread_mwrite_apart _ _ _ _ _ (by simpa [wordBytes] using h)]

end Sys2Proof.Machine
end

