-- ==== Sys2Proof/Laws/State.lean ====
section
/-! SUPPORT. One lemma for each field of State under each of its setters, true by rfl, and what a part reads as after
a part of its table was replaced. -/
namespace Sys2Proof.Machine

/-! #### setEngine -/
@[simp] theorem setEngine_pending (s : State) (e : Nat) (x : Engine) : (setEngine s e x).pending = s.pending := rfl
@[simp] theorem setEngine_wheel (s : State) (e : Nat) (x : Engine) : (setEngine s e x).wheel = s.wheel := rfl
@[simp] theorem setEngine_feedA (s : State) (e : Nat) (x : Engine) : (setEngine s e x).feedA = s.feedA := rfl
@[simp] theorem setEngine_feedB (s : State) (e : Nat) (x : Engine) : (setEngine s e x).feedB = s.feedB := rfl
@[simp] theorem setEngine_sense (s : State) (e : Nat) (x : Engine) : (setEngine s e x).sense = s.sense := rfl
@[simp] theorem setEngine_pat (s : State) (e : Nat) (x : Engine) : (setEngine s e x).pat = s.pat := rfl
@[simp] theorem setEngine_arm (s : State) (e : Nat) (x : Engine) : (setEngine s e x).arm = s.arm := rfl
@[simp] theorem setEngine_links (s : State) (e : Nat) (x : Engine) : (setEngine s e x).links = s.links := rfl
@[simp] theorem setEngine_ctls (s : State) (e : Nat) (x : Engine) : (setEngine s e x).ctls = s.ctls := rfl
@[simp] theorem setEngine_fes (s : State) (e : Nat) (x : Engine) : (setEngine s e x).fes = s.fes := rfl
@[simp] theorem setEngine_flow (s : State) (e : Nat) (x : Engine) : (setEngine s e x).flow = s.flow := rfl
@[simp] theorem setEngine_shelf (s : State) (e : Nat) (x : Engine) : (setEngine s e x).shelf = s.shelf := rfl
@[simp] theorem setEngine_sq (s : State) (e : Nat) (x : Engine) : (setEngine s e x).sq = s.sq := rfl
@[simp] theorem setEngine_hem (s : State) (e : Nat) (x : Engine) : (setEngine s e x).hem = s.hem := rfl
@[simp] theorem setEngine_pair (s : State) (e : Nat) (x : Engine) : (setEngine s e x).pair = s.pair := rfl
@[simp] theorem setEngine_net (s : State) (e : Nat) (x : Engine) : (setEngine s e x).net = s.net := rfl
@[simp] theorem setEngine_recorder (s : State) (e : Nat) (x : Engine) : (setEngine s e x).recorder = s.recorder := rfl
@[simp] theorem setEngine_tws (s : State) (e : Nat) (x : Engine) : (setEngine s e x).tws = s.tws := rfl
@[simp] theorem setEngine_timers (s : State) (e : Nat) (x : Engine) : (setEngine s e x).timers = s.timers := rfl
@[simp] theorem setEngine_gpio (s : State) (e : Nat) (x : Engine) : (setEngine s e x).gpio = s.gpio := rfl
@[simp] theorem setEngine_boot (s : State) (e : Nat) (x : Engine) : (setEngine s e x).boot = s.boot := rfl
@[simp] theorem setEngine_cfg (s : State) (e : Nat) (x : Engine) : (setEngine s e x).cfg = s.cfg := rfl
@[simp] theorem setEngine_mram (s : State) (e : Nat) (x : Engine) : (setEngine s e x).mram = s.mram := rfl
@[simp] theorem setEngine_draws (s : State) (e : Nat) (x : Engine) : (setEngine s e x).draws = s.draws := rfl
/-! #### setSleeve -/
@[simp] theorem setSleeve_pending (s : State) (n : Nat) (x : Sleeve) : (setSleeve s n x).pending = s.pending := rfl
@[simp] theorem setSleeve_wheel (s : State) (n : Nat) (x : Sleeve) : (setSleeve s n x).wheel = s.wheel := rfl
@[simp] theorem setSleeve_feedA (s : State) (n : Nat) (x : Sleeve) : (setSleeve s n x).feedA = s.feedA := rfl
@[simp] theorem setSleeve_feedB (s : State) (n : Nat) (x : Sleeve) : (setSleeve s n x).feedB = s.feedB := rfl
@[simp] theorem setSleeve_sense (s : State) (n : Nat) (x : Sleeve) : (setSleeve s n x).sense = s.sense := rfl
@[simp] theorem setSleeve_pat (s : State) (n : Nat) (x : Sleeve) : (setSleeve s n x).pat = s.pat := rfl
@[simp] theorem setSleeve_arm (s : State) (n : Nat) (x : Sleeve) : (setSleeve s n x).arm = s.arm := rfl
@[simp] theorem setSleeve_links (s : State) (n : Nat) (x : Sleeve) : (setSleeve s n x).links = s.links := rfl
@[simp] theorem setSleeve_ctls (s : State) (n : Nat) (x : Sleeve) : (setSleeve s n x).ctls = s.ctls := rfl
@[simp] theorem setSleeve_fes (s : State) (n : Nat) (x : Sleeve) : (setSleeve s n x).fes = s.fes := rfl
@[simp] theorem setSleeve_flow (s : State) (n : Nat) (x : Sleeve) : (setSleeve s n x).flow = s.flow := rfl
@[simp] theorem setSleeve_shelf (s : State) (n : Nat) (x : Sleeve) : (setSleeve s n x).shelf = s.shelf := rfl
@[simp] theorem setSleeve_sq (s : State) (n : Nat) (x : Sleeve) : (setSleeve s n x).sq = s.sq := rfl
@[simp] theorem setSleeve_hem (s : State) (n : Nat) (x : Sleeve) : (setSleeve s n x).hem = s.hem := rfl
@[simp] theorem setSleeve_pair (s : State) (n : Nat) (x : Sleeve) : (setSleeve s n x).pair = s.pair := rfl
@[simp] theorem setSleeve_net (s : State) (n : Nat) (x : Sleeve) : (setSleeve s n x).net = s.net := rfl
@[simp] theorem setSleeve_recorder (s : State) (n : Nat) (x : Sleeve) : (setSleeve s n x).recorder = s.recorder := rfl
@[simp] theorem setSleeve_tws (s : State) (n : Nat) (x : Sleeve) : (setSleeve s n x).tws = s.tws := rfl
@[simp] theorem setSleeve_timers (s : State) (n : Nat) (x : Sleeve) : (setSleeve s n x).timers = s.timers := rfl
@[simp] theorem setSleeve_gpio (s : State) (n : Nat) (x : Sleeve) : (setSleeve s n x).gpio = s.gpio := rfl
@[simp] theorem setSleeve_boot (s : State) (n : Nat) (x : Sleeve) : (setSleeve s n x).boot = s.boot := rfl
@[simp] theorem setSleeve_cfg (s : State) (n : Nat) (x : Sleeve) : (setSleeve s n x).cfg = s.cfg := rfl
@[simp] theorem setSleeve_mram (s : State) (n : Nat) (x : Sleeve) : (setSleeve s n x).mram = s.mram := rfl
@[simp] theorem setSleeve_draws (s : State) (n : Nat) (x : Sleeve) : (setSleeve s n x).draws = s.draws := rfl
/-! #### setLink -/
@[simp] theorem setLink_pending (s : State) (n : Nat) (x : Link) : (setLink s n x).pending = s.pending := rfl
@[simp] theorem setLink_wheel (s : State) (n : Nat) (x : Link) : (setLink s n x).wheel = s.wheel := rfl
@[simp] theorem setLink_feedA (s : State) (n : Nat) (x : Link) : (setLink s n x).feedA = s.feedA := rfl
@[simp] theorem setLink_feedB (s : State) (n : Nat) (x : Link) : (setLink s n x).feedB = s.feedB := rfl
@[simp] theorem setLink_sense (s : State) (n : Nat) (x : Link) : (setLink s n x).sense = s.sense := rfl
@[simp] theorem setLink_arr (s : State) (n : Nat) (x : Link) : (setLink s n x).arr = s.arr := rfl
@[simp] theorem setLink_pat (s : State) (n : Nat) (x : Link) : (setLink s n x).pat = s.pat := rfl
@[simp] theorem setLink_arm (s : State) (n : Nat) (x : Link) : (setLink s n x).arm = s.arm := rfl
@[simp] theorem setLink_ctls (s : State) (n : Nat) (x : Link) : (setLink s n x).ctls = s.ctls := rfl
@[simp] theorem setLink_fes (s : State) (n : Nat) (x : Link) : (setLink s n x).fes = s.fes := rfl
@[simp] theorem setLink_flow (s : State) (n : Nat) (x : Link) : (setLink s n x).flow = s.flow := rfl
@[simp] theorem setLink_shelf (s : State) (n : Nat) (x : Link) : (setLink s n x).shelf = s.shelf := rfl
@[simp] theorem setLink_sq (s : State) (n : Nat) (x : Link) : (setLink s n x).sq = s.sq := rfl
@[simp] theorem setLink_hem (s : State) (n : Nat) (x : Link) : (setLink s n x).hem = s.hem := rfl
@[simp] theorem setLink_pair (s : State) (n : Nat) (x : Link) : (setLink s n x).pair = s.pair := rfl
@[simp] theorem setLink_net (s : State) (n : Nat) (x : Link) : (setLink s n x).net = s.net := rfl
@[simp] theorem setLink_recorder (s : State) (n : Nat) (x : Link) : (setLink s n x).recorder = s.recorder := rfl
@[simp] theorem setLink_tws (s : State) (n : Nat) (x : Link) : (setLink s n x).tws = s.tws := rfl
@[simp] theorem setLink_timers (s : State) (n : Nat) (x : Link) : (setLink s n x).timers = s.timers := rfl
@[simp] theorem setLink_gpio (s : State) (n : Nat) (x : Link) : (setLink s n x).gpio = s.gpio := rfl
@[simp] theorem setLink_boot (s : State) (n : Nat) (x : Link) : (setLink s n x).boot = s.boot := rfl
@[simp] theorem setLink_cfg (s : State) (n : Nat) (x : Link) : (setLink s n x).cfg = s.cfg := rfl
@[simp] theorem setLink_mram (s : State) (n : Nat) (x : Link) : (setLink s n x).mram = s.mram := rfl
@[simp] theorem setLink_draws (s : State) (n : Nat) (x : Link) : (setLink s n x).draws = s.draws := rfl
/-! #### setCtl -/
@[simp] theorem setCtl_pending (s : State) (n : Nat) (x : Ctl) : (setCtl s n x).pending = s.pending := rfl
@[simp] theorem setCtl_wheel (s : State) (n : Nat) (x : Ctl) : (setCtl s n x).wheel = s.wheel := rfl
@[simp] theorem setCtl_feedA (s : State) (n : Nat) (x : Ctl) : (setCtl s n x).feedA = s.feedA := rfl
@[simp] theorem setCtl_feedB (s : State) (n : Nat) (x : Ctl) : (setCtl s n x).feedB = s.feedB := rfl
@[simp] theorem setCtl_sense (s : State) (n : Nat) (x : Ctl) : (setCtl s n x).sense = s.sense := rfl
@[simp] theorem setCtl_arr (s : State) (n : Nat) (x : Ctl) : (setCtl s n x).arr = s.arr := rfl
@[simp] theorem setCtl_pat (s : State) (n : Nat) (x : Ctl) : (setCtl s n x).pat = s.pat := rfl
@[simp] theorem setCtl_arm (s : State) (n : Nat) (x : Ctl) : (setCtl s n x).arm = s.arm := rfl
@[simp] theorem setCtl_links (s : State) (n : Nat) (x : Ctl) : (setCtl s n x).links = s.links := rfl
@[simp] theorem setCtl_fes (s : State) (n : Nat) (x : Ctl) : (setCtl s n x).fes = s.fes := rfl
@[simp] theorem setCtl_flow (s : State) (n : Nat) (x : Ctl) : (setCtl s n x).flow = s.flow := rfl
@[simp] theorem setCtl_shelf (s : State) (n : Nat) (x : Ctl) : (setCtl s n x).shelf = s.shelf := rfl
@[simp] theorem setCtl_sq (s : State) (n : Nat) (x : Ctl) : (setCtl s n x).sq = s.sq := rfl
@[simp] theorem setCtl_hem (s : State) (n : Nat) (x : Ctl) : (setCtl s n x).hem = s.hem := rfl
@[simp] theorem setCtl_pair (s : State) (n : Nat) (x : Ctl) : (setCtl s n x).pair = s.pair := rfl
@[simp] theorem setCtl_net (s : State) (n : Nat) (x : Ctl) : (setCtl s n x).net = s.net := rfl
@[simp] theorem setCtl_recorder (s : State) (n : Nat) (x : Ctl) : (setCtl s n x).recorder = s.recorder := rfl
@[simp] theorem setCtl_tws (s : State) (n : Nat) (x : Ctl) : (setCtl s n x).tws = s.tws := rfl
@[simp] theorem setCtl_timers (s : State) (n : Nat) (x : Ctl) : (setCtl s n x).timers = s.timers := rfl
@[simp] theorem setCtl_gpio (s : State) (n : Nat) (x : Ctl) : (setCtl s n x).gpio = s.gpio := rfl
@[simp] theorem setCtl_boot (s : State) (n : Nat) (x : Ctl) : (setCtl s n x).boot = s.boot := rfl
@[simp] theorem setCtl_cfg (s : State) (n : Nat) (x : Ctl) : (setCtl s n x).cfg = s.cfg := rfl
@[simp] theorem setCtl_mram (s : State) (n : Nat) (x : Ctl) : (setCtl s n x).mram = s.mram := rfl
@[simp] theorem setCtl_draws (s : State) (n : Nat) (x : Ctl) : (setCtl s n x).draws = s.draws := rfl
/-! #### setFarEnd -/
@[simp] theorem setFarEnd_pending (s : State) (n : Nat) (x : FarEnd) : (setFarEnd s n x).pending = s.pending := rfl
@[simp] theorem setFarEnd_wheel (s : State) (n : Nat) (x : FarEnd) : (setFarEnd s n x).wheel = s.wheel := rfl
@[simp] theorem setFarEnd_feedA (s : State) (n : Nat) (x : FarEnd) : (setFarEnd s n x).feedA = s.feedA := rfl
@[simp] theorem setFarEnd_feedB (s : State) (n : Nat) (x : FarEnd) : (setFarEnd s n x).feedB = s.feedB := rfl
@[simp] theorem setFarEnd_sense (s : State) (n : Nat) (x : FarEnd) : (setFarEnd s n x).sense = s.sense := rfl
@[simp] theorem setFarEnd_arr (s : State) (n : Nat) (x : FarEnd) : (setFarEnd s n x).arr = s.arr := rfl
@[simp] theorem setFarEnd_pat (s : State) (n : Nat) (x : FarEnd) : (setFarEnd s n x).pat = s.pat := rfl
@[simp] theorem setFarEnd_arm (s : State) (n : Nat) (x : FarEnd) : (setFarEnd s n x).arm = s.arm := rfl
@[simp] theorem setFarEnd_links (s : State) (n : Nat) (x : FarEnd) : (setFarEnd s n x).links = s.links := rfl
@[simp] theorem setFarEnd_ctls (s : State) (n : Nat) (x : FarEnd) : (setFarEnd s n x).ctls = s.ctls := rfl
@[simp] theorem setFarEnd_flow (s : State) (n : Nat) (x : FarEnd) : (setFarEnd s n x).flow = s.flow := rfl
@[simp] theorem setFarEnd_shelf (s : State) (n : Nat) (x : FarEnd) : (setFarEnd s n x).shelf = s.shelf := rfl
@[simp] theorem setFarEnd_sq (s : State) (n : Nat) (x : FarEnd) : (setFarEnd s n x).sq = s.sq := rfl
@[simp] theorem setFarEnd_hem (s : State) (n : Nat) (x : FarEnd) : (setFarEnd s n x).hem = s.hem := rfl
@[simp] theorem setFarEnd_pair (s : State) (n : Nat) (x : FarEnd) : (setFarEnd s n x).pair = s.pair := rfl
@[simp] theorem setFarEnd_net (s : State) (n : Nat) (x : FarEnd) : (setFarEnd s n x).net = s.net := rfl
@[simp] theorem setFarEnd_recorder (s : State) (n : Nat) (x : FarEnd) : (setFarEnd s n x).recorder = s.recorder := rfl
@[simp] theorem setFarEnd_tws (s : State) (n : Nat) (x : FarEnd) : (setFarEnd s n x).tws = s.tws := rfl
@[simp] theorem setFarEnd_timers (s : State) (n : Nat) (x : FarEnd) : (setFarEnd s n x).timers = s.timers := rfl
@[simp] theorem setFarEnd_gpio (s : State) (n : Nat) (x : FarEnd) : (setFarEnd s n x).gpio = s.gpio := rfl
@[simp] theorem setFarEnd_boot (s : State) (n : Nat) (x : FarEnd) : (setFarEnd s n x).boot = s.boot := rfl
@[simp] theorem setFarEnd_cfg (s : State) (n : Nat) (x : FarEnd) : (setFarEnd s n x).cfg = s.cfg := rfl
@[simp] theorem setFarEnd_mram (s : State) (n : Nat) (x : FarEnd) : (setFarEnd s n x).mram = s.mram := rfl
@[simp] theorem setFarEnd_draws (s : State) (n : Nat) (x : FarEnd) : (setFarEnd s n x).draws = s.draws := rfl
/-! #### setPack -/
@[simp] theorem setPack_pending (s : State) (p : Nat) (x : Pack) : (setPack s p x).pending = s.pending := rfl
@[simp] theorem setPack_wheel (s : State) (p : Nat) (x : Pack) : (setPack s p x).wheel = s.wheel := rfl
@[simp] theorem setPack_feedA (s : State) (p : Nat) (x : Pack) : (setPack s p x).feedA = s.feedA := rfl
@[simp] theorem setPack_feedB (s : State) (p : Nat) (x : Pack) : (setPack s p x).feedB = s.feedB := rfl
@[simp] theorem setPack_sense (s : State) (p : Nat) (x : Pack) : (setPack s p x).sense = s.sense := rfl
@[simp] theorem setPack_arr (s : State) (p : Nat) (x : Pack) : (setPack s p x).arr = s.arr := rfl
@[simp] theorem setPack_pat (s : State) (p : Nat) (x : Pack) : (setPack s p x).pat = s.pat := rfl
@[simp] theorem setPack_arm (s : State) (p : Nat) (x : Pack) : (setPack s p x).arm = s.arm := rfl
@[simp] theorem setPack_links (s : State) (p : Nat) (x : Pack) : (setPack s p x).links = s.links := rfl
@[simp] theorem setPack_ctls (s : State) (p : Nat) (x : Pack) : (setPack s p x).ctls = s.ctls := rfl
@[simp] theorem setPack_fes (s : State) (p : Nat) (x : Pack) : (setPack s p x).fes = s.fes := rfl
@[simp] theorem setPack_flow (s : State) (p : Nat) (x : Pack) : (setPack s p x).flow = s.flow := rfl
@[simp] theorem setPack_sq (s : State) (p : Nat) (x : Pack) : (setPack s p x).sq = s.sq := rfl
@[simp] theorem setPack_hem (s : State) (p : Nat) (x : Pack) : (setPack s p x).hem = s.hem := rfl
@[simp] theorem setPack_pair (s : State) (p : Nat) (x : Pack) : (setPack s p x).pair = s.pair := rfl
@[simp] theorem setPack_net (s : State) (p : Nat) (x : Pack) : (setPack s p x).net = s.net := rfl
@[simp] theorem setPack_recorder (s : State) (p : Nat) (x : Pack) : (setPack s p x).recorder = s.recorder := rfl
@[simp] theorem setPack_tws (s : State) (p : Nat) (x : Pack) : (setPack s p x).tws = s.tws := rfl
@[simp] theorem setPack_timers (s : State) (p : Nat) (x : Pack) : (setPack s p x).timers = s.timers := rfl
@[simp] theorem setPack_gpio (s : State) (p : Nat) (x : Pack) : (setPack s p x).gpio = s.gpio := rfl
@[simp] theorem setPack_boot (s : State) (p : Nat) (x : Pack) : (setPack s p x).boot = s.boot := rfl
@[simp] theorem setPack_cfg (s : State) (p : Nat) (x : Pack) : (setPack s p x).cfg = s.cfg := rfl
@[simp] theorem setPack_mram (s : State) (p : Nat) (x : Pack) : (setPack s p x).mram = s.mram := rfl
@[simp] theorem setPack_draws (s : State) (p : Nat) (x : Pack) : (setPack s p x).draws = s.draws := rfl
/-! #### setDmem -/
@[simp] theorem setDmem_pending (s : State) (m : Mem) : (setDmem s m).pending = s.pending := rfl
@[simp] theorem setDmem_wheel (s : State) (m : Mem) : (setDmem s m).wheel = s.wheel := rfl
@[simp] theorem setDmem_feedA (s : State) (m : Mem) : (setDmem s m).feedA = s.feedA := rfl
@[simp] theorem setDmem_feedB (s : State) (m : Mem) : (setDmem s m).feedB = s.feedB := rfl
@[simp] theorem setDmem_sense (s : State) (m : Mem) : (setDmem s m).sense = s.sense := rfl
@[simp] theorem setDmem_pat (s : State) (m : Mem) : (setDmem s m).pat = s.pat := rfl
@[simp] theorem setDmem_arm (s : State) (m : Mem) : (setDmem s m).arm = s.arm := rfl
@[simp] theorem setDmem_links (s : State) (m : Mem) : (setDmem s m).links = s.links := rfl
@[simp] theorem setDmem_ctls (s : State) (m : Mem) : (setDmem s m).ctls = s.ctls := rfl
@[simp] theorem setDmem_fes (s : State) (m : Mem) : (setDmem s m).fes = s.fes := rfl
@[simp] theorem setDmem_flow (s : State) (m : Mem) : (setDmem s m).flow = s.flow := rfl
@[simp] theorem setDmem_shelf (s : State) (m : Mem) : (setDmem s m).shelf = s.shelf := rfl
@[simp] theorem setDmem_sq (s : State) (m : Mem) : (setDmem s m).sq = s.sq := rfl
@[simp] theorem setDmem_hem (s : State) (m : Mem) : (setDmem s m).hem = s.hem := rfl
@[simp] theorem setDmem_pair (s : State) (m : Mem) : (setDmem s m).pair = s.pair := rfl
@[simp] theorem setDmem_net (s : State) (m : Mem) : (setDmem s m).net = s.net := rfl
@[simp] theorem setDmem_recorder (s : State) (m : Mem) : (setDmem s m).recorder = s.recorder := rfl
@[simp] theorem setDmem_tws (s : State) (m : Mem) : (setDmem s m).tws = s.tws := rfl
@[simp] theorem setDmem_timers (s : State) (m : Mem) : (setDmem s m).timers = s.timers := rfl
@[simp] theorem setDmem_gpio (s : State) (m : Mem) : (setDmem s m).gpio = s.gpio := rfl
@[simp] theorem setDmem_boot (s : State) (m : Mem) : (setDmem s m).boot = s.boot := rfl
@[simp] theorem setDmem_cfg (s : State) (m : Mem) : (setDmem s m).cfg = s.cfg := rfl
@[simp] theorem setDmem_mram (s : State) (m : Mem) : (setDmem s m).mram = s.mram := rfl
@[simp] theorem setDmem_draws (s : State) (m : Mem) : (setDmem s m).draws = s.draws := rfl
/-! #### setMram -/
@[simp] theorem setMram_pending (s : State) (m : Mem) : (setMram s m).pending = s.pending := rfl
@[simp] theorem setMram_wheel (s : State) (m : Mem) : (setMram s m).wheel = s.wheel := rfl
@[simp] theorem setMram_feedA (s : State) (m : Mem) : (setMram s m).feedA = s.feedA := rfl
@[simp] theorem setMram_feedB (s : State) (m : Mem) : (setMram s m).feedB = s.feedB := rfl
@[simp] theorem setMram_sense (s : State) (m : Mem) : (setMram s m).sense = s.sense := rfl
@[simp] theorem setMram_arr (s : State) (m : Mem) : (setMram s m).arr = s.arr := rfl
@[simp] theorem setMram_pat (s : State) (m : Mem) : (setMram s m).pat = s.pat := rfl
@[simp] theorem setMram_arm (s : State) (m : Mem) : (setMram s m).arm = s.arm := rfl
@[simp] theorem setMram_links (s : State) (m : Mem) : (setMram s m).links = s.links := rfl
@[simp] theorem setMram_ctls (s : State) (m : Mem) : (setMram s m).ctls = s.ctls := rfl
@[simp] theorem setMram_fes (s : State) (m : Mem) : (setMram s m).fes = s.fes := rfl
@[simp] theorem setMram_flow (s : State) (m : Mem) : (setMram s m).flow = s.flow := rfl
@[simp] theorem setMram_shelf (s : State) (m : Mem) : (setMram s m).shelf = s.shelf := rfl
@[simp] theorem setMram_sq (s : State) (m : Mem) : (setMram s m).sq = s.sq := rfl
@[simp] theorem setMram_hem (s : State) (m : Mem) : (setMram s m).hem = s.hem := rfl
@[simp] theorem setMram_pair (s : State) (m : Mem) : (setMram s m).pair = s.pair := rfl
@[simp] theorem setMram_net (s : State) (m : Mem) : (setMram s m).net = s.net := rfl
@[simp] theorem setMram_recorder (s : State) (m : Mem) : (setMram s m).recorder = s.recorder := rfl
@[simp] theorem setMram_tws (s : State) (m : Mem) : (setMram s m).tws = s.tws := rfl
@[simp] theorem setMram_timers (s : State) (m : Mem) : (setMram s m).timers = s.timers := rfl
@[simp] theorem setMram_gpio (s : State) (m : Mem) : (setMram s m).gpio = s.gpio := rfl
@[simp] theorem setMram_boot (s : State) (m : Mem) : (setMram s m).boot = s.boot := rfl
@[simp] theorem setMram_cfg (s : State) (m : Mem) : (setMram s m).cfg = s.cfg := rfl
@[simp] theorem setMram_draws (s : State) (m : Mem) : (setMram s m).draws = s.draws := rfl
/-! #### withStatus -/
@[simp] theorem withStatus_pending (s : State) (st : Nat) : (withStatus s st).pending = s.pending := rfl
@[simp] theorem withStatus_wheel (s : State) (st : Nat) : (withStatus s st).wheel = s.wheel := rfl
@[simp] theorem withStatus_feedA (s : State) (st : Nat) : (withStatus s st).feedA = s.feedA := rfl
@[simp] theorem withStatus_feedB (s : State) (st : Nat) : (withStatus s st).feedB = s.feedB := rfl
@[simp] theorem withStatus_sense (s : State) (st : Nat) : (withStatus s st).sense = s.sense := rfl
@[simp] theorem withStatus_arr (s : State) (st : Nat) : (withStatus s st).arr = s.arr := rfl
@[simp] theorem withStatus_pat (s : State) (st : Nat) : (withStatus s st).pat = s.pat := rfl
@[simp] theorem withStatus_arm (s : State) (st : Nat) : (withStatus s st).arm = s.arm := rfl
@[simp] theorem withStatus_links (s : State) (st : Nat) : (withStatus s st).links = s.links := rfl
@[simp] theorem withStatus_ctls (s : State) (st : Nat) : (withStatus s st).ctls = s.ctls := rfl
@[simp] theorem withStatus_fes (s : State) (st : Nat) : (withStatus s st).fes = s.fes := rfl
@[simp] theorem withStatus_flow (s : State) (st : Nat) : (withStatus s st).flow = s.flow := rfl
@[simp] theorem withStatus_shelf (s : State) (st : Nat) : (withStatus s st).shelf = s.shelf := rfl
@[simp] theorem withStatus_sq (s : State) (st : Nat) : (withStatus s st).sq = s.sq := rfl
@[simp] theorem withStatus_hem (s : State) (st : Nat) : (withStatus s st).hem = s.hem := rfl
@[simp] theorem withStatus_pair (s : State) (st : Nat) : (withStatus s st).pair = s.pair := rfl
@[simp] theorem withStatus_recorder (s : State) (st : Nat) : (withStatus s st).recorder = s.recorder := rfl
@[simp] theorem withStatus_tws (s : State) (st : Nat) : (withStatus s st).tws = s.tws := rfl
@[simp] theorem withStatus_timers (s : State) (st : Nat) : (withStatus s st).timers = s.timers := rfl
@[simp] theorem withStatus_gpio (s : State) (st : Nat) : (withStatus s st).gpio = s.gpio := rfl
@[simp] theorem withStatus_boot (s : State) (st : Nat) : (withStatus s st).boot = s.boot := rfl
@[simp] theorem withStatus_cfg (s : State) (st : Nat) : (withStatus s st).cfg = s.cfg := rfl
@[simp] theorem withStatus_mram (s : State) (st : Nat) : (withStatus s st).mram = s.mram := rfl
@[simp] theorem withStatus_draws (s : State) (st : Nat) : (withStatus s st).draws = s.draws := rfl
/-! #### updEngine -/
@[simp] theorem updEngine_pending (s : State) (e : Nat) (f : Engine → Engine) : (updEngine s e f).pending = s.pending := rfl
@[simp] theorem updEngine_wheel (s : State) (e : Nat) (f : Engine → Engine) : (updEngine s e f).wheel = s.wheel := rfl
@[simp] theorem updEngine_feedA (s : State) (e : Nat) (f : Engine → Engine) : (updEngine s e f).feedA = s.feedA := rfl
@[simp] theorem updEngine_feedB (s : State) (e : Nat) (f : Engine → Engine) : (updEngine s e f).feedB = s.feedB := rfl
@[simp] theorem updEngine_sense (s : State) (e : Nat) (f : Engine → Engine) : (updEngine s e f).sense = s.sense := rfl
@[simp] theorem updEngine_pat (s : State) (e : Nat) (f : Engine → Engine) : (updEngine s e f).pat = s.pat := rfl
@[simp] theorem updEngine_arm (s : State) (e : Nat) (f : Engine → Engine) : (updEngine s e f).arm = s.arm := rfl
@[simp] theorem updEngine_links (s : State) (e : Nat) (f : Engine → Engine) : (updEngine s e f).links = s.links := rfl
@[simp] theorem updEngine_ctls (s : State) (e : Nat) (f : Engine → Engine) : (updEngine s e f).ctls = s.ctls := rfl
@[simp] theorem updEngine_fes (s : State) (e : Nat) (f : Engine → Engine) : (updEngine s e f).fes = s.fes := rfl
@[simp] theorem updEngine_flow (s : State) (e : Nat) (f : Engine → Engine) : (updEngine s e f).flow = s.flow := rfl
@[simp] theorem updEngine_shelf (s : State) (e : Nat) (f : Engine → Engine) : (updEngine s e f).shelf = s.shelf := rfl
@[simp] theorem updEngine_sq (s : State) (e : Nat) (f : Engine → Engine) : (updEngine s e f).sq = s.sq := rfl
@[simp] theorem updEngine_hem (s : State) (e : Nat) (f : Engine → Engine) : (updEngine s e f).hem = s.hem := rfl
@[simp] theorem updEngine_pair (s : State) (e : Nat) (f : Engine → Engine) : (updEngine s e f).pair = s.pair := rfl
@[simp] theorem updEngine_net (s : State) (e : Nat) (f : Engine → Engine) : (updEngine s e f).net = s.net := rfl
@[simp] theorem updEngine_recorder (s : State) (e : Nat) (f : Engine → Engine) : (updEngine s e f).recorder = s.recorder := rfl
@[simp] theorem updEngine_tws (s : State) (e : Nat) (f : Engine → Engine) : (updEngine s e f).tws = s.tws := rfl
@[simp] theorem updEngine_timers (s : State) (e : Nat) (f : Engine → Engine) : (updEngine s e f).timers = s.timers := rfl
@[simp] theorem updEngine_gpio (s : State) (e : Nat) (f : Engine → Engine) : (updEngine s e f).gpio = s.gpio := rfl
@[simp] theorem updEngine_boot (s : State) (e : Nat) (f : Engine → Engine) : (updEngine s e f).boot = s.boot := rfl
@[simp] theorem updEngine_cfg (s : State) (e : Nat) (f : Engine → Engine) : (updEngine s e f).cfg = s.cfg := rfl
@[simp] theorem updEngine_mram (s : State) (e : Nat) (f : Engine → Engine) : (updEngine s e f).mram = s.mram := rfl
@[simp] theorem updEngine_draws (s : State) (e : Nat) (f : Engine → Engine) : (updEngine s e f).draws = s.draws := rfl
/-! #### updSleeve -/
@[simp] theorem updSleeve_pending (s : State) (n : Nat) (f : Sleeve → Sleeve) : (updSleeve s n f).pending = s.pending := rfl
@[simp] theorem updSleeve_wheel (s : State) (n : Nat) (f : Sleeve → Sleeve) : (updSleeve s n f).wheel = s.wheel := rfl
@[simp] theorem updSleeve_feedA (s : State) (n : Nat) (f : Sleeve → Sleeve) : (updSleeve s n f).feedA = s.feedA := rfl
@[simp] theorem updSleeve_feedB (s : State) (n : Nat) (f : Sleeve → Sleeve) : (updSleeve s n f).feedB = s.feedB := rfl
@[simp] theorem updSleeve_sense (s : State) (n : Nat) (f : Sleeve → Sleeve) : (updSleeve s n f).sense = s.sense := rfl
@[simp] theorem updSleeve_pat (s : State) (n : Nat) (f : Sleeve → Sleeve) : (updSleeve s n f).pat = s.pat := rfl
@[simp] theorem updSleeve_arm (s : State) (n : Nat) (f : Sleeve → Sleeve) : (updSleeve s n f).arm = s.arm := rfl
@[simp] theorem updSleeve_links (s : State) (n : Nat) (f : Sleeve → Sleeve) : (updSleeve s n f).links = s.links := rfl
@[simp] theorem updSleeve_ctls (s : State) (n : Nat) (f : Sleeve → Sleeve) : (updSleeve s n f).ctls = s.ctls := rfl
@[simp] theorem updSleeve_fes (s : State) (n : Nat) (f : Sleeve → Sleeve) : (updSleeve s n f).fes = s.fes := rfl
@[simp] theorem updSleeve_flow (s : State) (n : Nat) (f : Sleeve → Sleeve) : (updSleeve s n f).flow = s.flow := rfl
@[simp] theorem updSleeve_shelf (s : State) (n : Nat) (f : Sleeve → Sleeve) : (updSleeve s n f).shelf = s.shelf := rfl
@[simp] theorem updSleeve_sq (s : State) (n : Nat) (f : Sleeve → Sleeve) : (updSleeve s n f).sq = s.sq := rfl
@[simp] theorem updSleeve_hem (s : State) (n : Nat) (f : Sleeve → Sleeve) : (updSleeve s n f).hem = s.hem := rfl
@[simp] theorem updSleeve_pair (s : State) (n : Nat) (f : Sleeve → Sleeve) : (updSleeve s n f).pair = s.pair := rfl
@[simp] theorem updSleeve_net (s : State) (n : Nat) (f : Sleeve → Sleeve) : (updSleeve s n f).net = s.net := rfl
@[simp] theorem updSleeve_recorder (s : State) (n : Nat) (f : Sleeve → Sleeve) : (updSleeve s n f).recorder = s.recorder := rfl
@[simp] theorem updSleeve_tws (s : State) (n : Nat) (f : Sleeve → Sleeve) : (updSleeve s n f).tws = s.tws := rfl
@[simp] theorem updSleeve_timers (s : State) (n : Nat) (f : Sleeve → Sleeve) : (updSleeve s n f).timers = s.timers := rfl
@[simp] theorem updSleeve_gpio (s : State) (n : Nat) (f : Sleeve → Sleeve) : (updSleeve s n f).gpio = s.gpio := rfl
@[simp] theorem updSleeve_boot (s : State) (n : Nat) (f : Sleeve → Sleeve) : (updSleeve s n f).boot = s.boot := rfl
@[simp] theorem updSleeve_cfg (s : State) (n : Nat) (f : Sleeve → Sleeve) : (updSleeve s n f).cfg = s.cfg := rfl
@[simp] theorem updSleeve_mram (s : State) (n : Nat) (f : Sleeve → Sleeve) : (updSleeve s n f).mram = s.mram := rfl
@[simp] theorem updSleeve_draws (s : State) (n : Nat) (f : Sleeve → Sleeve) : (updSleeve s n f).draws = s.draws := rfl
/-! #### updLink -/
@[simp] theorem updLink_pending (s : State) (n : Nat) (f : Link → Link) : (updLink s n f).pending = s.pending := rfl
@[simp] theorem updLink_wheel (s : State) (n : Nat) (f : Link → Link) : (updLink s n f).wheel = s.wheel := rfl
@[simp] theorem updLink_feedA (s : State) (n : Nat) (f : Link → Link) : (updLink s n f).feedA = s.feedA := rfl
@[simp] theorem updLink_feedB (s : State) (n : Nat) (f : Link → Link) : (updLink s n f).feedB = s.feedB := rfl
@[simp] theorem updLink_sense (s : State) (n : Nat) (f : Link → Link) : (updLink s n f).sense = s.sense := rfl
@[simp] theorem updLink_arr (s : State) (n : Nat) (f : Link → Link) : (updLink s n f).arr = s.arr := rfl
@[simp] theorem updLink_pat (s : State) (n : Nat) (f : Link → Link) : (updLink s n f).pat = s.pat := rfl
@[simp] theorem updLink_arm (s : State) (n : Nat) (f : Link → Link) : (updLink s n f).arm = s.arm := rfl
@[simp] theorem updLink_ctls (s : State) (n : Nat) (f : Link → Link) : (updLink s n f).ctls = s.ctls := rfl
@[simp] theorem updLink_fes (s : State) (n : Nat) (f : Link → Link) : (updLink s n f).fes = s.fes := rfl
@[simp] theorem updLink_flow (s : State) (n : Nat) (f : Link → Link) : (updLink s n f).flow = s.flow := rfl
@[simp] theorem updLink_shelf (s : State) (n : Nat) (f : Link → Link) : (updLink s n f).shelf = s.shelf := rfl
@[simp] theorem updLink_sq (s : State) (n : Nat) (f : Link → Link) : (updLink s n f).sq = s.sq := rfl
@[simp] theorem updLink_hem (s : State) (n : Nat) (f : Link → Link) : (updLink s n f).hem = s.hem := rfl
@[simp] theorem updLink_pair (s : State) (n : Nat) (f : Link → Link) : (updLink s n f).pair = s.pair := rfl
@[simp] theorem updLink_net (s : State) (n : Nat) (f : Link → Link) : (updLink s n f).net = s.net := rfl
@[simp] theorem updLink_recorder (s : State) (n : Nat) (f : Link → Link) : (updLink s n f).recorder = s.recorder := rfl
@[simp] theorem updLink_tws (s : State) (n : Nat) (f : Link → Link) : (updLink s n f).tws = s.tws := rfl
@[simp] theorem updLink_timers (s : State) (n : Nat) (f : Link → Link) : (updLink s n f).timers = s.timers := rfl
@[simp] theorem updLink_gpio (s : State) (n : Nat) (f : Link → Link) : (updLink s n f).gpio = s.gpio := rfl
@[simp] theorem updLink_boot (s : State) (n : Nat) (f : Link → Link) : (updLink s n f).boot = s.boot := rfl
@[simp] theorem updLink_cfg (s : State) (n : Nat) (f : Link → Link) : (updLink s n f).cfg = s.cfg := rfl
@[simp] theorem updLink_mram (s : State) (n : Nat) (f : Link → Link) : (updLink s n f).mram = s.mram := rfl
@[simp] theorem updLink_draws (s : State) (n : Nat) (f : Link → Link) : (updLink s n f).draws = s.draws := rfl
/-! #### updCtl -/
@[simp] theorem updCtl_pending (s : State) (n : Nat) (f : Ctl → Ctl) : (updCtl s n f).pending = s.pending := rfl
@[simp] theorem updCtl_wheel (s : State) (n : Nat) (f : Ctl → Ctl) : (updCtl s n f).wheel = s.wheel := rfl
@[simp] theorem updCtl_feedA (s : State) (n : Nat) (f : Ctl → Ctl) : (updCtl s n f).feedA = s.feedA := rfl
@[simp] theorem updCtl_feedB (s : State) (n : Nat) (f : Ctl → Ctl) : (updCtl s n f).feedB = s.feedB := rfl
@[simp] theorem updCtl_sense (s : State) (n : Nat) (f : Ctl → Ctl) : (updCtl s n f).sense = s.sense := rfl
@[simp] theorem updCtl_arr (s : State) (n : Nat) (f : Ctl → Ctl) : (updCtl s n f).arr = s.arr := rfl
@[simp] theorem updCtl_pat (s : State) (n : Nat) (f : Ctl → Ctl) : (updCtl s n f).pat = s.pat := rfl
@[simp] theorem updCtl_arm (s : State) (n : Nat) (f : Ctl → Ctl) : (updCtl s n f).arm = s.arm := rfl
@[simp] theorem updCtl_links (s : State) (n : Nat) (f : Ctl → Ctl) : (updCtl s n f).links = s.links := rfl
@[simp] theorem updCtl_fes (s : State) (n : Nat) (f : Ctl → Ctl) : (updCtl s n f).fes = s.fes := rfl
@[simp] theorem updCtl_flow (s : State) (n : Nat) (f : Ctl → Ctl) : (updCtl s n f).flow = s.flow := rfl
@[simp] theorem updCtl_shelf (s : State) (n : Nat) (f : Ctl → Ctl) : (updCtl s n f).shelf = s.shelf := rfl
@[simp] theorem updCtl_sq (s : State) (n : Nat) (f : Ctl → Ctl) : (updCtl s n f).sq = s.sq := rfl
@[simp] theorem updCtl_hem (s : State) (n : Nat) (f : Ctl → Ctl) : (updCtl s n f).hem = s.hem := rfl
@[simp] theorem updCtl_pair (s : State) (n : Nat) (f : Ctl → Ctl) : (updCtl s n f).pair = s.pair := rfl
@[simp] theorem updCtl_net (s : State) (n : Nat) (f : Ctl → Ctl) : (updCtl s n f).net = s.net := rfl
@[simp] theorem updCtl_recorder (s : State) (n : Nat) (f : Ctl → Ctl) : (updCtl s n f).recorder = s.recorder := rfl
@[simp] theorem updCtl_tws (s : State) (n : Nat) (f : Ctl → Ctl) : (updCtl s n f).tws = s.tws := rfl
@[simp] theorem updCtl_timers (s : State) (n : Nat) (f : Ctl → Ctl) : (updCtl s n f).timers = s.timers := rfl
@[simp] theorem updCtl_gpio (s : State) (n : Nat) (f : Ctl → Ctl) : (updCtl s n f).gpio = s.gpio := rfl
@[simp] theorem updCtl_boot (s : State) (n : Nat) (f : Ctl → Ctl) : (updCtl s n f).boot = s.boot := rfl
@[simp] theorem updCtl_cfg (s : State) (n : Nat) (f : Ctl → Ctl) : (updCtl s n f).cfg = s.cfg := rfl
@[simp] theorem updCtl_mram (s : State) (n : Nat) (f : Ctl → Ctl) : (updCtl s n f).mram = s.mram := rfl
@[simp] theorem updCtl_draws (s : State) (n : Nat) (f : Ctl → Ctl) : (updCtl s n f).draws = s.draws := rfl
/-! #### updFe -/
@[simp] theorem updFe_pending (s : State) (n : Nat) (f : FarEnd → FarEnd) : (updFe s n f).pending = s.pending := rfl
@[simp] theorem updFe_wheel (s : State) (n : Nat) (f : FarEnd → FarEnd) : (updFe s n f).wheel = s.wheel := rfl
@[simp] theorem updFe_feedA (s : State) (n : Nat) (f : FarEnd → FarEnd) : (updFe s n f).feedA = s.feedA := rfl
@[simp] theorem updFe_feedB (s : State) (n : Nat) (f : FarEnd → FarEnd) : (updFe s n f).feedB = s.feedB := rfl
@[simp] theorem updFe_sense (s : State) (n : Nat) (f : FarEnd → FarEnd) : (updFe s n f).sense = s.sense := rfl
@[simp] theorem updFe_arr (s : State) (n : Nat) (f : FarEnd → FarEnd) : (updFe s n f).arr = s.arr := rfl
@[simp] theorem updFe_pat (s : State) (n : Nat) (f : FarEnd → FarEnd) : (updFe s n f).pat = s.pat := rfl
@[simp] theorem updFe_arm (s : State) (n : Nat) (f : FarEnd → FarEnd) : (updFe s n f).arm = s.arm := rfl
@[simp] theorem updFe_links (s : State) (n : Nat) (f : FarEnd → FarEnd) : (updFe s n f).links = s.links := rfl
@[simp] theorem updFe_ctls (s : State) (n : Nat) (f : FarEnd → FarEnd) : (updFe s n f).ctls = s.ctls := rfl
@[simp] theorem updFe_flow (s : State) (n : Nat) (f : FarEnd → FarEnd) : (updFe s n f).flow = s.flow := rfl
@[simp] theorem updFe_shelf (s : State) (n : Nat) (f : FarEnd → FarEnd) : (updFe s n f).shelf = s.shelf := rfl
@[simp] theorem updFe_sq (s : State) (n : Nat) (f : FarEnd → FarEnd) : (updFe s n f).sq = s.sq := rfl
@[simp] theorem updFe_hem (s : State) (n : Nat) (f : FarEnd → FarEnd) : (updFe s n f).hem = s.hem := rfl
@[simp] theorem updFe_pair (s : State) (n : Nat) (f : FarEnd → FarEnd) : (updFe s n f).pair = s.pair := rfl
@[simp] theorem updFe_net (s : State) (n : Nat) (f : FarEnd → FarEnd) : (updFe s n f).net = s.net := rfl
@[simp] theorem updFe_recorder (s : State) (n : Nat) (f : FarEnd → FarEnd) : (updFe s n f).recorder = s.recorder := rfl
@[simp] theorem updFe_tws (s : State) (n : Nat) (f : FarEnd → FarEnd) : (updFe s n f).tws = s.tws := rfl
@[simp] theorem updFe_timers (s : State) (n : Nat) (f : FarEnd → FarEnd) : (updFe s n f).timers = s.timers := rfl
@[simp] theorem updFe_gpio (s : State) (n : Nat) (f : FarEnd → FarEnd) : (updFe s n f).gpio = s.gpio := rfl
@[simp] theorem updFe_boot (s : State) (n : Nat) (f : FarEnd → FarEnd) : (updFe s n f).boot = s.boot := rfl
@[simp] theorem updFe_cfg (s : State) (n : Nat) (f : FarEnd → FarEnd) : (updFe s n f).cfg = s.cfg := rfl
@[simp] theorem updFe_mram (s : State) (n : Nat) (f : FarEnd → FarEnd) : (updFe s n f).mram = s.mram := rfl
@[simp] theorem updFe_draws (s : State) (n : Nat) (f : FarEnd → FarEnd) : (updFe s n f).draws = s.draws := rfl
/-! #### updPack -/
@[simp] theorem updPack_pending (s : State) (p : Nat) (f : Pack → Pack) : (updPack s p f).pending = s.pending := rfl
@[simp] theorem updPack_wheel (s : State) (p : Nat) (f : Pack → Pack) : (updPack s p f).wheel = s.wheel := rfl
@[simp] theorem updPack_feedA (s : State) (p : Nat) (f : Pack → Pack) : (updPack s p f).feedA = s.feedA := rfl
@[simp] theorem updPack_feedB (s : State) (p : Nat) (f : Pack → Pack) : (updPack s p f).feedB = s.feedB := rfl
@[simp] theorem updPack_sense (s : State) (p : Nat) (f : Pack → Pack) : (updPack s p f).sense = s.sense := rfl
@[simp] theorem updPack_arr (s : State) (p : Nat) (f : Pack → Pack) : (updPack s p f).arr = s.arr := rfl
@[simp] theorem updPack_pat (s : State) (p : Nat) (f : Pack → Pack) : (updPack s p f).pat = s.pat := rfl
@[simp] theorem updPack_arm (s : State) (p : Nat) (f : Pack → Pack) : (updPack s p f).arm = s.arm := rfl
@[simp] theorem updPack_links (s : State) (p : Nat) (f : Pack → Pack) : (updPack s p f).links = s.links := rfl
@[simp] theorem updPack_ctls (s : State) (p : Nat) (f : Pack → Pack) : (updPack s p f).ctls = s.ctls := rfl
@[simp] theorem updPack_fes (s : State) (p : Nat) (f : Pack → Pack) : (updPack s p f).fes = s.fes := rfl
@[simp] theorem updPack_flow (s : State) (p : Nat) (f : Pack → Pack) : (updPack s p f).flow = s.flow := rfl
@[simp] theorem updPack_sq (s : State) (p : Nat) (f : Pack → Pack) : (updPack s p f).sq = s.sq := rfl
@[simp] theorem updPack_hem (s : State) (p : Nat) (f : Pack → Pack) : (updPack s p f).hem = s.hem := rfl
@[simp] theorem updPack_pair (s : State) (p : Nat) (f : Pack → Pack) : (updPack s p f).pair = s.pair := rfl
@[simp] theorem updPack_net (s : State) (p : Nat) (f : Pack → Pack) : (updPack s p f).net = s.net := rfl
@[simp] theorem updPack_recorder (s : State) (p : Nat) (f : Pack → Pack) : (updPack s p f).recorder = s.recorder := rfl
@[simp] theorem updPack_tws (s : State) (p : Nat) (f : Pack → Pack) : (updPack s p f).tws = s.tws := rfl
@[simp] theorem updPack_timers (s : State) (p : Nat) (f : Pack → Pack) : (updPack s p f).timers = s.timers := rfl
@[simp] theorem updPack_gpio (s : State) (p : Nat) (f : Pack → Pack) : (updPack s p f).gpio = s.gpio := rfl
@[simp] theorem updPack_boot (s : State) (p : Nat) (f : Pack → Pack) : (updPack s p f).boot = s.boot := rfl
@[simp] theorem updPack_cfg (s : State) (p : Nat) (f : Pack → Pack) : (updPack s p f).cfg = s.cfg := rfl
@[simp] theorem updPack_mram (s : State) (p : Nat) (f : Pack → Pack) : (updPack s p f).mram = s.mram := rfl
@[simp] theorem updPack_draws (s : State) (p : Nat) (f : Pack → Pack) : (updPack s p f).draws = s.draws := rfl
/-! #### setCfg -/
@[simp] theorem setCfg_pending (s : State) (i j v : Nat) : (setCfg s i j v).pending = s.pending := rfl
@[simp] theorem setCfg_wheel (s : State) (i j v : Nat) : (setCfg s i j v).wheel = s.wheel := rfl
@[simp] theorem setCfg_feedA (s : State) (i j v : Nat) : (setCfg s i j v).feedA = s.feedA := rfl
@[simp] theorem setCfg_feedB (s : State) (i j v : Nat) : (setCfg s i j v).feedB = s.feedB := rfl
@[simp] theorem setCfg_sense (s : State) (i j v : Nat) : (setCfg s i j v).sense = s.sense := rfl
@[simp] theorem setCfg_arr (s : State) (i j v : Nat) : (setCfg s i j v).arr = s.arr := rfl
@[simp] theorem setCfg_pat (s : State) (i j v : Nat) : (setCfg s i j v).pat = s.pat := rfl
@[simp] theorem setCfg_arm (s : State) (i j v : Nat) : (setCfg s i j v).arm = s.arm := rfl
@[simp] theorem setCfg_links (s : State) (i j v : Nat) : (setCfg s i j v).links = s.links := rfl
@[simp] theorem setCfg_ctls (s : State) (i j v : Nat) : (setCfg s i j v).ctls = s.ctls := rfl
@[simp] theorem setCfg_fes (s : State) (i j v : Nat) : (setCfg s i j v).fes = s.fes := rfl
@[simp] theorem setCfg_flow (s : State) (i j v : Nat) : (setCfg s i j v).flow = s.flow := rfl
@[simp] theorem setCfg_shelf (s : State) (i j v : Nat) : (setCfg s i j v).shelf = s.shelf := rfl
@[simp] theorem setCfg_sq (s : State) (i j v : Nat) : (setCfg s i j v).sq = s.sq := rfl
@[simp] theorem setCfg_hem (s : State) (i j v : Nat) : (setCfg s i j v).hem = s.hem := rfl
@[simp] theorem setCfg_pair (s : State) (i j v : Nat) : (setCfg s i j v).pair = s.pair := rfl
@[simp] theorem setCfg_net (s : State) (i j v : Nat) : (setCfg s i j v).net = s.net := rfl
@[simp] theorem setCfg_recorder (s : State) (i j v : Nat) : (setCfg s i j v).recorder = s.recorder := rfl
@[simp] theorem setCfg_tws (s : State) (i j v : Nat) : (setCfg s i j v).tws = s.tws := rfl
@[simp] theorem setCfg_timers (s : State) (i j v : Nat) : (setCfg s i j v).timers = s.timers := rfl
@[simp] theorem setCfg_gpio (s : State) (i j v : Nat) : (setCfg s i j v).gpio = s.gpio := rfl
@[simp] theorem setCfg_boot (s : State) (i j v : Nat) : (setCfg s i j v).boot = s.boot := rfl
@[simp] theorem setCfg_mram (s : State) (i j v : Nat) : (setCfg s i j v).mram = s.mram := rfl
@[simp] theorem setCfg_draws (s : State) (i j v : Nat) : (setCfg s i j v).draws = s.draws := rfl
/-! #### setUpset -/
@[simp] theorem setUpset_pending (s : State) (k v : Nat) : (setUpset s k v).pending = s.pending := rfl
@[simp] theorem setUpset_wheel (s : State) (k v : Nat) : (setUpset s k v).wheel = s.wheel := rfl
@[simp] theorem setUpset_feedA (s : State) (k v : Nat) : (setUpset s k v).feedA = s.feedA := rfl
@[simp] theorem setUpset_feedB (s : State) (k v : Nat) : (setUpset s k v).feedB = s.feedB := rfl
@[simp] theorem setUpset_sense (s : State) (k v : Nat) : (setUpset s k v).sense = s.sense := rfl
@[simp] theorem setUpset_pat (s : State) (k v : Nat) : (setUpset s k v).pat = s.pat := rfl
@[simp] theorem setUpset_arm (s : State) (k v : Nat) : (setUpset s k v).arm = s.arm := rfl
@[simp] theorem setUpset_links (s : State) (k v : Nat) : (setUpset s k v).links = s.links := rfl
@[simp] theorem setUpset_ctls (s : State) (k v : Nat) : (setUpset s k v).ctls = s.ctls := rfl
@[simp] theorem setUpset_fes (s : State) (k v : Nat) : (setUpset s k v).fes = s.fes := rfl
@[simp] theorem setUpset_flow (s : State) (k v : Nat) : (setUpset s k v).flow = s.flow := rfl
@[simp] theorem setUpset_shelf (s : State) (k v : Nat) : (setUpset s k v).shelf = s.shelf := rfl
@[simp] theorem setUpset_sq (s : State) (k v : Nat) : (setUpset s k v).sq = s.sq := rfl
@[simp] theorem setUpset_hem (s : State) (k v : Nat) : (setUpset s k v).hem = s.hem := rfl
@[simp] theorem setUpset_pair (s : State) (k v : Nat) : (setUpset s k v).pair = s.pair := rfl
@[simp] theorem setUpset_net (s : State) (k v : Nat) : (setUpset s k v).net = s.net := rfl
@[simp] theorem setUpset_recorder (s : State) (k v : Nat) : (setUpset s k v).recorder = s.recorder := rfl
@[simp] theorem setUpset_tws (s : State) (k v : Nat) : (setUpset s k v).tws = s.tws := rfl
@[simp] theorem setUpset_timers (s : State) (k v : Nat) : (setUpset s k v).timers = s.timers := rfl
@[simp] theorem setUpset_gpio (s : State) (k v : Nat) : (setUpset s k v).gpio = s.gpio := rfl
@[simp] theorem setUpset_boot (s : State) (k v : Nat) : (setUpset s k v).boot = s.boot := rfl
@[simp] theorem setUpset_cfg (s : State) (k v : Nat) : (setUpset s k v).cfg = s.cfg := rfl
@[simp] theorem setUpset_mram (s : State) (k v : Nat) : (setUpset s k v).mram = s.mram := rfl
@[simp] theorem setUpset_draws (s : State) (k v : Nat) : (setUpset s k v).draws = s.draws := rfl
/-! #### setLine -/
@[simp] theorem setLine_pending (s : State) (k : Nat) (l : Line) : (setLine s k l).pending = s.pending := rfl
@[simp] theorem setLine_wheel (s : State) (k : Nat) (l : Line) : (setLine s k l).wheel = s.wheel := rfl
@[simp] theorem setLine_feedA (s : State) (k : Nat) (l : Line) : (setLine s k l).feedA = s.feedA := rfl
@[simp] theorem setLine_feedB (s : State) (k : Nat) (l : Line) : (setLine s k l).feedB = s.feedB := rfl
@[simp] theorem setLine_sense (s : State) (k : Nat) (l : Line) : (setLine s k l).sense = s.sense := rfl
@[simp] theorem setLine_arr (s : State) (k : Nat) (l : Line) : (setLine s k l).arr = s.arr := rfl
@[simp] theorem setLine_pat (s : State) (k : Nat) (l : Line) : (setLine s k l).pat = s.pat := rfl
@[simp] theorem setLine_arm (s : State) (k : Nat) (l : Line) : (setLine s k l).arm = s.arm := rfl
@[simp] theorem setLine_links (s : State) (k : Nat) (l : Line) : (setLine s k l).links = s.links := rfl
@[simp] theorem setLine_ctls (s : State) (k : Nat) (l : Line) : (setLine s k l).ctls = s.ctls := rfl
@[simp] theorem setLine_fes (s : State) (k : Nat) (l : Line) : (setLine s k l).fes = s.fes := rfl
@[simp] theorem setLine_flow (s : State) (k : Nat) (l : Line) : (setLine s k l).flow = s.flow := rfl
@[simp] theorem setLine_shelf (s : State) (k : Nat) (l : Line) : (setLine s k l).shelf = s.shelf := rfl
@[simp] theorem setLine_sq (s : State) (k : Nat) (l : Line) : (setLine s k l).sq = s.sq := rfl
@[simp] theorem setLine_hem (s : State) (k : Nat) (l : Line) : (setLine s k l).hem = s.hem := rfl
@[simp] theorem setLine_pair (s : State) (k : Nat) (l : Line) : (setLine s k l).pair = s.pair := rfl
@[simp] theorem setLine_recorder (s : State) (k : Nat) (l : Line) : (setLine s k l).recorder = s.recorder := rfl
@[simp] theorem setLine_tws (s : State) (k : Nat) (l : Line) : (setLine s k l).tws = s.tws := rfl
@[simp] theorem setLine_timers (s : State) (k : Nat) (l : Line) : (setLine s k l).timers = s.timers := rfl
@[simp] theorem setLine_gpio (s : State) (k : Nat) (l : Line) : (setLine s k l).gpio = s.gpio := rfl
@[simp] theorem setLine_boot (s : State) (k : Nat) (l : Line) : (setLine s k l).boot = s.boot := rfl
@[simp] theorem setLine_cfg (s : State) (k : Nat) (l : Line) : (setLine s k l).cfg = s.cfg := rfl
@[simp] theorem setLine_mram (s : State) (k : Nat) (l : Line) : (setLine s k l).mram = s.mram := rfl
@[simp] theorem setLine_draws (s : State) (k : Nat) (l : Line) : (setLine s k l).draws = s.draws := rfl

/-! ### A part after a part was replaced -/

@[simp] theorem engine_setEngine (s : State) (i : Nat) (x : Engine) : engine (setEngine s i x) i = x := tget_tset_same _ _ _ _
theorem engine_setEngine_other (s : State) (i j : Nat) (x : Engine) (h : j ≠ i) : engine (setEngine s i x) j = engine s j :=
  tget_tset_other _ _ _ _ _ h
@[simp] theorem engine_updEngine (s : State) (i : Nat) (f : Engine → Engine) : engine (updEngine s i f) i = f (engine s i) :=
  tget_tset_same _ _ _ _
theorem engine_updEngine_other (s : State) (i j : Nat) (f : Engine → Engine) (h : j ≠ i) : engine (updEngine s i f) j = engine s j :=
  tget_tset_other _ _ _ _ _ h
@[simp] theorem engine_setSleeve (s : State) (i j : Nat) (x : Sleeve) : engine (setSleeve s i x) j = engine s j := rfl
@[simp] theorem engine_updSleeve (s : State) (i j : Nat) (f : Sleeve → Sleeve) : engine (updSleeve s i f) j = engine s j := rfl
@[simp] theorem engine_setLink (s : State) (i j : Nat) (x : Link) : engine (setLink s i x) j = engine s j := rfl
@[simp] theorem engine_updLink (s : State) (i j : Nat) (f : Link → Link) : engine (updLink s i f) j = engine s j := rfl
@[simp] theorem engine_setCtl (s : State) (i j : Nat) (x : Ctl) : engine (setCtl s i x) j = engine s j := rfl
@[simp] theorem engine_updCtl (s : State) (i j : Nat) (f : Ctl → Ctl) : engine (updCtl s i f) j = engine s j := rfl
@[simp] theorem engine_setFarEnd (s : State) (i j : Nat) (x : FarEnd) : engine (setFarEnd s i x) j = engine s j := rfl
@[simp] theorem engine_updFe (s : State) (i j : Nat) (f : FarEnd → FarEnd) : engine (updFe s i f) j = engine s j := rfl
@[simp] theorem engine_setPack (s : State) (i j : Nat) (x : Pack) : engine (setPack s i x) j = engine s j := rfl
@[simp] theorem engine_updPack (s : State) (i j : Nat) (f : Pack → Pack) : engine (updPack s i f) j = engine s j := rfl

@[simp] theorem sleeve_setSleeve (s : State) (i : Nat) (x : Sleeve) : sleeve (setSleeve s i x) i = x := tget_tset_same _ _ _ _
theorem sleeve_setSleeve_other (s : State) (i j : Nat) (x : Sleeve) (h : j ≠ i) : sleeve (setSleeve s i x) j = sleeve s j :=
  tget_tset_other _ _ _ _ _ h
@[simp] theorem sleeve_updSleeve (s : State) (i : Nat) (f : Sleeve → Sleeve) : sleeve (updSleeve s i f) i = f (sleeve s i) :=
  tget_tset_same _ _ _ _
theorem sleeve_updSleeve_other (s : State) (i j : Nat) (f : Sleeve → Sleeve) (h : j ≠ i) : sleeve (updSleeve s i f) j = sleeve s j :=
  tget_tset_other _ _ _ _ _ h
@[simp] theorem sleeve_setEngine (s : State) (i j : Nat) (x : Engine) : sleeve (setEngine s i x) j = sleeve s j := rfl
@[simp] theorem sleeve_updEngine (s : State) (i j : Nat) (f : Engine → Engine) : sleeve (updEngine s i f) j = sleeve s j := rfl
@[simp] theorem sleeve_setLink (s : State) (i j : Nat) (x : Link) : sleeve (setLink s i x) j = sleeve s j := rfl
@[simp] theorem sleeve_updLink (s : State) (i j : Nat) (f : Link → Link) : sleeve (updLink s i f) j = sleeve s j := rfl
@[simp] theorem sleeve_setCtl (s : State) (i j : Nat) (x : Ctl) : sleeve (setCtl s i x) j = sleeve s j := rfl
@[simp] theorem sleeve_updCtl (s : State) (i j : Nat) (f : Ctl → Ctl) : sleeve (updCtl s i f) j = sleeve s j := rfl
@[simp] theorem sleeve_setFarEnd (s : State) (i j : Nat) (x : FarEnd) : sleeve (setFarEnd s i x) j = sleeve s j := rfl
@[simp] theorem sleeve_updFe (s : State) (i j : Nat) (f : FarEnd → FarEnd) : sleeve (updFe s i f) j = sleeve s j := rfl
@[simp] theorem sleeve_setPack (s : State) (i j : Nat) (x : Pack) : sleeve (setPack s i x) j = sleeve s j := rfl
@[simp] theorem sleeve_updPack (s : State) (i j : Nat) (f : Pack → Pack) : sleeve (updPack s i f) j = sleeve s j := rfl

@[simp] theorem link_setLink (s : State) (i : Nat) (x : Link) : link (setLink s i x) i = x := tget_tset_same _ _ _ _
theorem link_setLink_other (s : State) (i j : Nat) (x : Link) (h : j ≠ i) : link (setLink s i x) j = link s j :=
  tget_tset_other _ _ _ _ _ h
@[simp] theorem link_updLink (s : State) (i : Nat) (f : Link → Link) : link (updLink s i f) i = f (link s i) :=
  tget_tset_same _ _ _ _
theorem link_updLink_other (s : State) (i j : Nat) (f : Link → Link) (h : j ≠ i) : link (updLink s i f) j = link s j :=
  tget_tset_other _ _ _ _ _ h
@[simp] theorem link_setEngine (s : State) (i j : Nat) (x : Engine) : link (setEngine s i x) j = link s j := rfl
@[simp] theorem link_updEngine (s : State) (i j : Nat) (f : Engine → Engine) : link (updEngine s i f) j = link s j := rfl
@[simp] theorem link_setSleeve (s : State) (i j : Nat) (x : Sleeve) : link (setSleeve s i x) j = link s j := rfl
@[simp] theorem link_updSleeve (s : State) (i j : Nat) (f : Sleeve → Sleeve) : link (updSleeve s i f) j = link s j := rfl
@[simp] theorem link_setCtl (s : State) (i j : Nat) (x : Ctl) : link (setCtl s i x) j = link s j := rfl
@[simp] theorem link_updCtl (s : State) (i j : Nat) (f : Ctl → Ctl) : link (updCtl s i f) j = link s j := rfl
@[simp] theorem link_setFarEnd (s : State) (i j : Nat) (x : FarEnd) : link (setFarEnd s i x) j = link s j := rfl
@[simp] theorem link_updFe (s : State) (i j : Nat) (f : FarEnd → FarEnd) : link (updFe s i f) j = link s j := rfl
@[simp] theorem link_setPack (s : State) (i j : Nat) (x : Pack) : link (setPack s i x) j = link s j := rfl
@[simp] theorem link_updPack (s : State) (i j : Nat) (f : Pack → Pack) : link (updPack s i f) j = link s j := rfl

@[simp] theorem ctl_setCtl (s : State) (i : Nat) (x : Ctl) : ctl (setCtl s i x) i = x := tget_tset_same _ _ _ _
theorem ctl_setCtl_other (s : State) (i j : Nat) (x : Ctl) (h : j ≠ i) : ctl (setCtl s i x) j = ctl s j :=
  tget_tset_other _ _ _ _ _ h
@[simp] theorem ctl_updCtl (s : State) (i : Nat) (f : Ctl → Ctl) : ctl (updCtl s i f) i = f (ctl s i) :=
  tget_tset_same _ _ _ _
theorem ctl_updCtl_other (s : State) (i j : Nat) (f : Ctl → Ctl) (h : j ≠ i) : ctl (updCtl s i f) j = ctl s j :=
  tget_tset_other _ _ _ _ _ h
@[simp] theorem ctl_setEngine (s : State) (i j : Nat) (x : Engine) : ctl (setEngine s i x) j = ctl s j := rfl
@[simp] theorem ctl_updEngine (s : State) (i j : Nat) (f : Engine → Engine) : ctl (updEngine s i f) j = ctl s j := rfl
@[simp] theorem ctl_setSleeve (s : State) (i j : Nat) (x : Sleeve) : ctl (setSleeve s i x) j = ctl s j := rfl
@[simp] theorem ctl_updSleeve (s : State) (i j : Nat) (f : Sleeve → Sleeve) : ctl (updSleeve s i f) j = ctl s j := rfl
@[simp] theorem ctl_setLink (s : State) (i j : Nat) (x : Link) : ctl (setLink s i x) j = ctl s j := rfl
@[simp] theorem ctl_updLink (s : State) (i j : Nat) (f : Link → Link) : ctl (updLink s i f) j = ctl s j := rfl
@[simp] theorem ctl_setFarEnd (s : State) (i j : Nat) (x : FarEnd) : ctl (setFarEnd s i x) j = ctl s j := rfl
@[simp] theorem ctl_updFe (s : State) (i j : Nat) (f : FarEnd → FarEnd) : ctl (updFe s i f) j = ctl s j := rfl
@[simp] theorem ctl_setPack (s : State) (i j : Nat) (x : Pack) : ctl (setPack s i x) j = ctl s j := rfl
@[simp] theorem ctl_updPack (s : State) (i j : Nat) (f : Pack → Pack) : ctl (updPack s i f) j = ctl s j := rfl

@[simp] theorem farEnd_setFarEnd (s : State) (i : Nat) (x : FarEnd) : farEnd (setFarEnd s i x) i = x := tget_tset_same _ _ _ _
theorem farEnd_setFarEnd_other (s : State) (i j : Nat) (x : FarEnd) (h : j ≠ i) : farEnd (setFarEnd s i x) j = farEnd s j :=
  tget_tset_other _ _ _ _ _ h
@[simp] theorem farEnd_updFe (s : State) (i : Nat) (f : FarEnd → FarEnd) : farEnd (updFe s i f) i = f (farEnd s i) :=
  tget_tset_same _ _ _ _
theorem farEnd_updFe_other (s : State) (i j : Nat) (f : FarEnd → FarEnd) (h : j ≠ i) : farEnd (updFe s i f) j = farEnd s j :=
  tget_tset_other _ _ _ _ _ h
@[simp] theorem farEnd_setEngine (s : State) (i j : Nat) (x : Engine) : farEnd (setEngine s i x) j = farEnd s j := rfl
@[simp] theorem farEnd_updEngine (s : State) (i j : Nat) (f : Engine → Engine) : farEnd (updEngine s i f) j = farEnd s j := rfl
@[simp] theorem farEnd_setSleeve (s : State) (i j : Nat) (x : Sleeve) : farEnd (setSleeve s i x) j = farEnd s j := rfl
@[simp] theorem farEnd_updSleeve (s : State) (i j : Nat) (f : Sleeve → Sleeve) : farEnd (updSleeve s i f) j = farEnd s j := rfl
@[simp] theorem farEnd_setLink (s : State) (i j : Nat) (x : Link) : farEnd (setLink s i x) j = farEnd s j := rfl
@[simp] theorem farEnd_updLink (s : State) (i j : Nat) (f : Link → Link) : farEnd (updLink s i f) j = farEnd s j := rfl
@[simp] theorem farEnd_setCtl (s : State) (i j : Nat) (x : Ctl) : farEnd (setCtl s i x) j = farEnd s j := rfl
@[simp] theorem farEnd_updCtl (s : State) (i j : Nat) (f : Ctl → Ctl) : farEnd (updCtl s i f) j = farEnd s j := rfl
@[simp] theorem farEnd_setPack (s : State) (i j : Nat) (x : Pack) : farEnd (setPack s i x) j = farEnd s j := rfl
@[simp] theorem farEnd_updPack (s : State) (i j : Nat) (f : Pack → Pack) : farEnd (updPack s i f) j = farEnd s j := rfl

@[simp] theorem pack_setPack (s : State) (i : Nat) (x : Pack) : pack (setPack s i x) i = x := tget_tset_same _ _ _ _
theorem pack_setPack_other (s : State) (i j : Nat) (x : Pack) (h : j ≠ i) : pack (setPack s i x) j = pack s j :=
  tget_tset_other _ _ _ _ _ h
@[simp] theorem pack_updPack (s : State) (i : Nat) (f : Pack → Pack) : pack (updPack s i f) i = f (pack s i) :=
  tget_tset_same _ _ _ _
theorem pack_updPack_other (s : State) (i j : Nat) (f : Pack → Pack) (h : j ≠ i) : pack (updPack s i f) j = pack s j :=
  tget_tset_other _ _ _ _ _ h
@[simp] theorem pack_setEngine (s : State) (i j : Nat) (x : Engine) : pack (setEngine s i x) j = pack s j := rfl
@[simp] theorem pack_updEngine (s : State) (i j : Nat) (f : Engine → Engine) : pack (updEngine s i f) j = pack s j := rfl
@[simp] theorem pack_setSleeve (s : State) (i j : Nat) (x : Sleeve) : pack (setSleeve s i x) j = pack s j := rfl
@[simp] theorem pack_updSleeve (s : State) (i j : Nat) (f : Sleeve → Sleeve) : pack (updSleeve s i f) j = pack s j := rfl
@[simp] theorem pack_setLink (s : State) (i j : Nat) (x : Link) : pack (setLink s i x) j = pack s j := rfl
@[simp] theorem pack_updLink (s : State) (i j : Nat) (f : Link → Link) : pack (updLink s i f) j = pack s j := rfl
@[simp] theorem pack_setCtl (s : State) (i j : Nat) (x : Ctl) : pack (setCtl s i x) j = pack s j := rfl
@[simp] theorem pack_updCtl (s : State) (i j : Nat) (f : Ctl → Ctl) : pack (updCtl s i f) j = pack s j := rfl
@[simp] theorem pack_setFarEnd (s : State) (i j : Nat) (x : FarEnd) : pack (setFarEnd s i x) j = pack s j := rfl
@[simp] theorem pack_updFe (s : State) (i j : Nat) (f : FarEnd → FarEnd) : pack (updFe s i f) j = pack s j := rfl

end Sys2Proof.Machine
end

