-- ==== Sys2Proof/Laws/Engine.lean ====
section
/-! SUPPORT. What the shared issue of an engine instruction does, once: the engine after it, the result in flight and the
cycle in which it is written, and that nothing else of the machine changes. -/
namespace Sys2Proof.Machine

/-! ### Registers -/

@[simp] theorem rreg_zero (en : Engine) : rreg en 0 = 0 := rfl

theorem rreg_wreg_same (en : Engine) (r : Nat) (w : Word) (h : r ≠ 0) : rreg (wreg en r w) r = w := by
  simp [rreg, wreg, h]

theorem rreg_wreg_other (en : Engine) (r k : Nat) (w : Word) (h : k ≠ r) : rreg (wreg en r w) k = rreg en k := by
  unfold rreg wreg
  split
  · rfl
  · split
    · rfl
    · simp [tget_tset_other _ _ _ _ _ h]

@[simp] theorem rreg_setFlags (en : Engine) (f : BitVec 16) (r : Nat) : rreg (setFlags en f) r = rreg en r := rfl
@[simp] theorem rreg_wacc (en : Engine) (h : Bool) (v : BitVec 64) (r : Nat) : rreg (wacc en h v) r = rreg en r := by
  cases h <;> rfl
@[simp] theorem rreg_wpred (en : Engine) (k : Nat) (b : Bool) (r : Nat) : rreg (wpred en k b) r = rreg en r := by
  unfold wpred; split <;> rfl

@[simp] theorem rpred_zero (en : Engine) : rpred en 0 = true := rfl
@[simp] theorem rpred_setFlags (en : Engine) (f : BitVec 16) (k : Nat) : rpred (setFlags en f) k = rpred en k := rfl
@[simp] theorem rpred_wreg (en : Engine) (r k : Nat) (w : Word) : rpred (wreg en r w) k = rpred en k := by
  unfold wreg; split <;> rfl
@[simp] theorem rpred_wacc (en : Engine) (h : Bool) (v : BitVec 64) (k : Nat) : rpred (wacc en h v) k = rpred en k := by
  cases h <;> rfl

theorem rpred_wpred_same (en : Engine) (k : Nat) (b : Bool) (h : k ≠ 0) (h8 : k < 8) : rpred (wpred en k b) k = b := by
  have key : ∀ k < 8, (BitVec.ofNat 8 (2 ^ k)).getLsbD k = true ∧ (~~~(BitVec.ofNat 8 (2 ^ k))).getLsbD k = false := by
    decide
  obtain ⟨k1, k2⟩ := key k h8
  unfold rpred wpred
  cases b <;>
    simp only [h, if_true, if_false, Bool.false_eq_true, BitVec.testBit_toNat, BitVec.getLsbD_or, BitVec.getLsbD_and, k1, k2,
      Bool.or_true, Bool.and_false, Bool.or_false, beq_eq_false_iff_ne.mpr h]

theorem rpred_wpred_other (en : Engine) (k j : Nat) (b : Bool) (h : j ≠ k) (hk : k < 8) (hj : j < 8) :
    rpred (wpred en k b) j = rpred en j := by
  unfold rpred wpred
  split
  · rfl
  · congr 1
    have key : ∀ k < 8, ∀ j < 8, j ≠ k → (BitVec.ofNat 8 (2 ^ k)).getLsbD j = false ∧ (~~~(BitVec.ofNat 8 (2 ^ k))).getLsbD j = true := by
      decide
    obtain ⟨k1, k2⟩ := key k hk j hj h
    cases b <;>
      simp only [if_true, if_false, Bool.false_eq_true, BitVec.testBit_toNat, BitVec.getLsbD_or, BitVec.getLsbD_and, k1, k2,
        Bool.or_false, Bool.and_true]

@[simp] theorem racc_setFlags (en : Engine) (f : BitVec 16) (h : Bool) : racc (setFlags en f) h = racc en h := rfl
@[simp] theorem racc_wreg (en : Engine) (r : Nat) (w : Word) (h : Bool) : racc (wreg en r w) h = racc en h := by
  unfold wreg; split <;> rfl
@[simp] theorem racc_wpred (en : Engine) (k : Nat) (b : Bool) (h : Bool) : racc (wpred en k b) h = racc en h := by
  unfold wpred; split <;> rfl
@[simp] theorem racc_wacc_same (en : Engine) (h : Bool) (v : BitVec 64) : racc (wacc en h v) h = v := by
  cases h <;> rfl
theorem racc_wacc_other (en : Engine) (h k : Bool) (v : BitVec 64) (hk : k ≠ h) : racc (wacc en h v) k = racc en k := by
  cases h <;> cases k <;> simp_all [racc, wacc]

@[simp] theorem flags_wreg (en : Engine) (r : Nat) (w : Word) : (wreg en r w).flags = en.flags := by
  unfold wreg; split <;> rfl
@[simp] theorem flags_wpred (en : Engine) (k : Nat) (b : Bool) : (wpred en k b).flags = en.flags := by
  unfold wpred; split <;> rfl
@[simp] theorem flags_wacc (en : Engine) (h : Bool) (v : BitVec 64) : (wacc en h v).flags = en.flags := by
  cases h <;> rfl

/-! ### Results in flight -/

/-- Inserting a result keeps the others in their order. -/
theorem insFlight_split (f : Flight) (l : List Flight) : ∃ a b, l = a ++ b ∧ insFlight f l = a ++ f :: b := by
  induction l with
  | nil => exact ⟨[], [], rfl, rfl⟩
  | cons g t ih =>
    unfold insFlight
    split
    · exact ⟨[], g :: t, rfl, rfl⟩
    · obtain ⟨a, b, h1, h2⟩ := ih
      exact ⟨g :: a, b, by simp [h1], by simp [h2]⟩

/-- A result that is alone for its destination does not clash. -/
theorem no_clash (f : Flight) (a b : List Flight) (h : ∀ g ∈ a ++ b, g.dest ≠ f.dest) : clashes (a ++ f :: b) f = false := by
  unfold clashes
  rw [List.any_eq_false]
  intro g hg
  rcases List.mem_append.mp hg with hg | hg
  · simp [h g (List.mem_append_left _ hg)]
  · rcases List.mem_cons.mp hg with rfl | hg
    · simp
    · simp [h g (List.mem_append_right _ hg)]

/-- The results of an engine that are due, with one more in flight: it is among them in its place. -/
theorem settle_launch (en : Engine) (lat k : Nat) (d : Dest) (v : Val) (fl : BitVec 16) :
    let f : Flight := { due := en.cycle + lat, order := en.issued, dest := d, val := v, flags := fl }
    ∃ a b, en.flight = a ++ b ∧ settle (nextWord (launch en lat d v fl)) (en.cycle + k) =
      settleAll (if lat ≤ k then (a.filter fun g => decide (g.due ≤ en.cycle + k)) ++ f :: (b.filter fun g => decide (g.due ≤ en.cycle + k))
          else (a ++ b).filter fun g => decide (g.due ≤ en.cycle + k))
        (if lat ≤ k then (a.filter fun g => decide (g.due ≤ en.cycle + k)) ++ f :: (b.filter fun g => decide (g.due ≤ en.cycle + k))
          else (a ++ b).filter fun g => decide (g.due ≤ en.cycle + k))
        { nextWord (launch en lat d v fl) with
          flight := (nextWord (launch en lat d v fl)).flight.filter fun g => decide (en.cycle + k < g.due) } := by
  intro f
  obtain ⟨a, b, h1, h2⟩ := insFlight_split f en.flight
  refine ⟨a, b, h1, ?_⟩
  unfold settle
  have h3 : (nextWord (launch en lat d v fl)).flight = insFlight f en.flight := rfl
  rw [h3]
  by_cases hk : lat ≤ k
  · have hd : decide (f.due ≤ en.cycle + k) = true := by simp [f, hk]
    simp only [hk, if_true, h2, List.filter_append, List.filter_cons, hd]
  · have hd : decide (f.due ≤ en.cycle + k) = false := by simp [f]; omega
    simp only [hk, if_false, h2, List.filter_append, List.filter_cons, hd, Bool.false_eq_true]

/-! ### One result more -/

theorem rpred_wpred (en : Engine) (k j : Nat) (b : Bool) :
    rpred (wpred en k b) j = if j = k ∧ k ≠ 0 ∧ k < 8 then b else rpred en j := by
  by_cases hk0 : k = 0
  · subst hk0; simp [wpred]
  · by_cases hk : k < 8
    · by_cases hj : j = k
      · subst hj; simp [rpred_wpred_same en j b hk0 hk, hk0, hk]
      · simp only [hj, false_and, if_false]
        by_cases hj8 : j < 8
        · exact rpred_wpred_other en k j b hj hk hj8
        · unfold rpred
          have h8 : ∀ w : BitVec 8, w.toNat.testBit j = false := fun w =>
            Nat.testBit_lt_two_pow (Nat.lt_of_lt_of_le w.isLt (Nat.pow_le_pow_right (by decide) (by omega)))
          rw [h8, h8]
    · have hz : BitVec.ofNat 8 (2 ^ k) = 0#8 := by
        apply BitVec.eq_of_toNat_eq
        rw [BitVec.toNat_ofNat]
        have : 2 ^ k = 2 ^ 8 * 2 ^ (k - 8) := by rw [← Nat.pow_add]; congr 1; omega
        rw [this]; simp
      have : ¬(j = k ∧ k ≠ 0 ∧ k < 8) := by omega
      simp only [this, if_false]
      unfold wpred
      rw [hz, show ~~~(0#8) = BitVec.allOnes 8 from rfl, BitVec.and_allOnes, BitVec.or_zero]
      cases b <;> simp [hk0]

theorem racc_wacc (en : Engine) (h k : Bool) (v : BitVec 64) : racc (wacc en h v) k = if k = h then v else racc en k := by
  by_cases hk : k = h
  · simp [hk]
  · simp [hk, racc_wacc_other]

theorem rreg_wreg (en : Engine) (r k : Nat) (w : Word) :
    rreg (wreg en r w) k = if k = r ∧ r ≠ 0 then w else rreg en k := by
  by_cases hk : k = r
  · subst hk
    by_cases h0 : k = 0
    · simp [h0]
    · simp [h0, rreg_wreg_same]
  · simp [hk, rreg_wreg_other]

/-- The flags that a result sets when it is written. -/
def resultFlags (en : Engine) (f : Flight) : BitVec 16 :=
  match f.dest, f.val with
  | .acc h, .addend d => (accAdd (racc en h) d).2 ||| f.flags
  | _, _ => f.flags

@[simp] theorem flags_setFlags_eq (en : Engine) (x : BitVec 16) : (setFlags en x).flags = en.flags ||| x := rfl

theorem flags_writeResult_eq (en : Engine) (f : Flight) : (writeResult en f).flags = en.flags ||| resultFlags en f := by
  unfold writeResult resultFlags
  split <;> simp_all [BitVec.or_assoc]

theorem agreeOff_setFlags {d : Dest} {a b : Engine} (x y : BitVec 16) (h : agreeOff d a b) :
    agreeOff d (setFlags a x) (setFlags b y) := h

theorem resultFlags_agree {d : Dest} {a b : Engine} (g : Flight) (h : agreeOff d a b) (hg : d = .none ∨ g.dest ≠ d) :
    resultFlags a g = resultFlags b g := by
  unfold resultFlags
  split
  · rename_i k _ hd _
    rw [h.2.2 k]
    rcases hg with rfl | hg
    · simp
    · exact fun he => hg (by rw [hd, he])
  · rfl

theorem agreeOff_writeResult {d : Dest} {a b : Engine} (g : Flight) (h : agreeOff d a b) (hg : d = .none ∨ g.dest ≠ d) :
    agreeOff d (writeResult a g) (writeResult b g) := by
  unfold writeResult
  apply agreeOff_setFlags
  split
  · exact ⟨fun r hr => by simp [rreg_wreg, h.1 r hr], fun k hk => by simp [h.2.1 k hk], fun k hk => by simp [h.2.2 k hk]⟩
  · exact ⟨fun r hr => by simp [h.1 r hr], fun k hk => by simp [rpred_wpred, h.2.1 k hk], fun k hk => by simp [h.2.2 k hk]⟩
  · exact ⟨fun r hr => by simp [h.1 r hr], fun k hk => by simp [h.2.1 k hk], fun k hk => by simp [racc_wacc, h.2.2 k hk]⟩
  · rename_i k _ hd _
    have hk : racc a k = racc b k := h.2.2 k (by
      rcases hg with rfl | hg
      · simp
      · exact fun he => hg (by rw [hd, he]))
    dsimp only
    rw [hk]
    exact agreeOff_setFlags _ _
      ⟨fun r hr => by simp [h.1 r hr], fun k hk => by simp [h.2.1 k hk], fun k hk => by simp [racc_wacc, h.2.2 k hk]⟩
  · exact h

/-- What a result does off its own destination: nothing. -/
theorem agreeOff_writeResult_self (en : Engine) (f : Flight) : agreeOff f.dest (writeResult en f) en := by
  unfold writeResult
  refine ⟨fun r hr => ?_, fun k hk => ?_, fun k hk => ?_⟩ <;> split <;>
    simp_all [rreg_wreg, rpred_wpred, racc_wacc] <;> (intro hh; simp_all)

theorem agreeOff_settleAll {d : Dest} (all all' : List Flight) (x : BitVec 16) : ∀ (l : List Flight) (a b : Engine),
    agreeOff d a b → a.flags = b.flags ||| x → (∀ g ∈ l, clashes all g = clashes all' g) → (∀ g ∈ l, d = .none ∨ g.dest ≠ d) →
    agreeOff d (settleAll all l a) (settleAll all' l b) ∧ (settleAll all l a).flags = (settleAll all' l b).flags ||| x := by
  intro l
  induction l with
  | nil => intro a b h hf _ _; exact ⟨h, hf⟩
  | cons g t ih =>
    intro a b h hf hc hd
    rw [settleAll, settleAll, hc g List.mem_cons_self]
    have or_swap : ∀ p q r : BitVec 16, p ||| q ||| r = p ||| r ||| q := by
      intro p q r; rw [BitVec.or_assoc, BitVec.or_comm q r, ← BitVec.or_assoc]
    apply ih
    · split
      · exact agreeOff_setFlags _ _ h
      · exact agreeOff_writeResult g h (hd g List.mem_cons_self)
    · split
      · simp [hf, or_swap]
      · rw [flags_writeResult_eq, flags_writeResult_eq, hf, resultFlags_agree g h (hd g List.mem_cons_self), or_swap]
    · exact fun y hy => hc y (List.mem_cons_of_mem _ hy)
    · exact fun y hy => hd y (List.mem_cons_of_mem _ hy)

theorem settleAll_append (all l1 l2 : List Flight) : ∀ en : Engine,
    settleAll all (l1 ++ l2) en = settleAll all l2 (settleAll all l1 en) := by
  induction l1 with
  | nil => intro en; rfl
  | cons g t ih => intro en; rw [List.cons_append, settleAll, ih, settleAll]

/-- A result for a destination that nothing else clashes with leaves the clashes of the others alone. -/
theorem clashes_insert (f g : Flight) (a b : List Flight) (h : f.dest = .none ∨ g.dest ≠ f.dest) :
    clashes (a ++ f :: b) g = clashes (a ++ b) g := by
  unfold clashes
  simp only [List.any_append, List.any_cons]
  have : (f.due == g.due && f.dest == g.dest && decide (g.order < f.order) && g.dest != .none) = false := by
    rcases h with h | h
    · rw [h]
      cases hg : g.dest <;> simp
    · have : (f.dest == g.dest) = false := by simpa using fun he => h he.symm
      simp [this]
  rw [this, Bool.false_or]

theorem no_clash_none (f : Flight) (l : List Flight) (h : f.dest = .none) : clashes l f = false := by
  unfold clashes
  rw [List.any_eq_false]
  intro g _
  simp [h]

/-- Results with one more among them: alike but for that one's destination, and its flags set besides. -/
theorem settleAll_insert (f : Flight) (a b : List Flight) (x y : Engine) (hxy : agreeOff .none x y) (hfl : x.flags = y.flags)
    (h : f.dest = .none ∨ ∀ g ∈ a ++ b, g.dest ≠ f.dest) :
    agreeOff f.dest (settleAll (a ++ f :: b) (a ++ f :: b) x) (settleAll (a ++ b) (a ++ b) y)
      ∧ (settleAll (a ++ f :: b) (a ++ f :: b) x).flags
        = (settleAll (a ++ b) (a ++ b) y).flags ||| resultFlags y f := by
  have hc : ∀ g ∈ a ++ b, clashes (a ++ f :: b) g = clashes (a ++ b) g := fun g hg =>
    clashes_insert f g a b (h.imp id fun h => h g hg)
  have hd : ∀ g ∈ a ++ b, f.dest = .none ∨ g.dest ≠ f.dest := fun g hg => h.imp id fun h => h g hg
  have hself : clashes (a ++ f :: b) f = false := by
    rcases h with h | h
    · exact no_clash_none f _ h
    · exact no_clash f a b h
  have weaken : ∀ {p q : Engine}, agreeOff .none p q → agreeOff f.dest p q := fun hpq =>
    ⟨fun r _ => hpq.1 r (by simp), fun k _ => hpq.2.1 k (by simp), fun k _ => hpq.2.2 k (by simp)⟩
  obtain ⟨h1, h2⟩ := agreeOff_settleAll (d := .none) (a ++ f :: b) (a ++ b) 0 a x y hxy (by simp [hfl])
    (fun g hg => hc g (List.mem_append_left _ hg)) (fun g hg => .inl rfl)
  -- the accumulator that f adds to is that of y still
  have hres : resultFlags (settleAll (a ++ f :: b) a x) f = resultFlags y f := by
    by_cases hn : f.dest = .none
    · unfold resultFlags; simp [hn]
    · have hr := h.resolve_left hn
      have key : ∀ (l : List Flight) (all : List Flight) (p : Engine), (∀ g ∈ l, g.dest ≠ f.dest) →
          ∀ hh, f.dest = .acc hh → racc (settleAll all l p) hh = racc p hh := by
        intro l
        induction l with
        | nil => intros; rfl
        | cons g t ih =>
          intro all p hl hh hf
          rw [settleAll, ih all _ (fun z hz => hl z (List.mem_cons_of_mem _ hz)) hh hf]
          split
          · rfl
          · exact (agreeOff_writeResult_self p g).2.2 hh (by rw [← hf]; exact hl g List.mem_cons_self)
      unfold resultFlags
      split
      · rename_i hh _ hd _
        rw [key a _ x (fun g hg => hr g (List.mem_append_left _ hg)) hh hd, hxy.2.2 hh (by simp)]
      · rfl
  rw [settleAll_append, settleAll, hself, settleAll_append (a ++ b)]
  apply agreeOff_settleAll
  · simp only [Bool.false_eq_true, if_false]
    have e1 := agreeOff_writeResult_self (settleAll (a ++ f :: b) a x) f
    have e2 := weaken h1
    exact ⟨fun r hr => (e1.1 r hr).trans (e2.1 r hr), fun k hk => (e1.2.1 k hk).trans (e2.2.1 k hk),
      fun k hk => (e1.2.2 k hk).trans (e2.2.2 k hk)⟩
  · simp only [Bool.false_eq_true, if_false]
    rw [flags_writeResult_eq, hres, h2]
    simp
  · exact fun g hg => hc g (List.mem_append_right _ hg)
  · exact fun g hg => hd g (List.mem_append_right _ hg)

/-- An engine that has put a result in flight and passed its cycle, beside one that has not: alike but for the result's
destination, and from its cycle on with the result's flags besides. -/
theorem settle_launch_agree (en : Engine) (lat k : Nat) (d : Dest) (v : Val) (fl : BitVec 16)
    (h : d = .none ∨ ∀ g ∈ en.flight, g.dest ≠ d) :
    agreeOff d (settle (nextWord (launch en lat d v fl)) (en.cycle + k)) (settle en (en.cycle + k))
      ∧ (settle (nextWord (launch en lat d v fl)) (en.cycle + k)).flags = (settle en (en.cycle + k)).flags
        ||| (if lat ≤ k then resultFlags en { due := en.cycle + lat, order := en.issued, dest := d, val := v, flags := fl } else 0) := by
  obtain ⟨a, b, h1, h2⟩ := settle_launch en lat k d v fl
  have hs : settle en (en.cycle + k) =
      settleAll ((a ++ b).filter fun g => decide (g.due ≤ en.cycle + k)) ((a ++ b).filter fun g => decide (g.due ≤ en.cycle + k))
        { en with flight := en.flight.filter fun g => decide (en.cycle + k < g.due) } := by
    unfold settle; rw [← h1]
  rw [h2, hs]
  by_cases hk : lat ≤ k
  · simp only [hk, if_true, List.filter_append]
    refine settleAll_insert ⟨en.cycle + lat, en.issued, d, v, fl⟩ _ _
      { nextWord (launch en lat d v fl) with flight := (nextWord (launch en lat d v fl)).flight.filter fun g => decide (en.cycle + k < g.due) }
      { en with flight := en.flight.filter fun g => decide (en.cycle + k < g.due) } ⟨fun _ _ => rfl, fun _ _ => rfl, fun _ _ => rfl⟩ rfl ?_
    refine Or.imp id (fun h g hg => ?_) h
    rw [← List.filter_append] at hg
    exact h g (by rw [h1]; exact (List.mem_filter.mp hg).1)
  · simp only [hk, if_false]
    refine agreeOff_settleAll _ _ 0 _ _ _ ⟨fun _ _ => rfl, fun _ _ => rfl, fun _ _ => rfl⟩ (by simp; rfl) (fun _ _ => rfl) (fun g hg => ?_)
    exact h.imp id fun h => h g (by rw [h1]; exact (List.mem_filter.mp hg).1)

/-- An engine that passes a cycle without a result. -/
theorem settle_nextWord_agree (en : Engine) (c : Nat) :
    agreeOff .none (settle (nextWord en) c) (settle en c) ∧ (settle (nextWord en) c).flags = (settle en c).flags := by
  have := agreeOff_settleAll (d := .none) (en.flight.filter fun f => decide (f.due ≤ c)) (en.flight.filter fun f => decide (f.due ≤ c)) 0
    (en.flight.filter fun f => decide (f.due ≤ c))
    { nextWord en with flight := en.flight.filter fun f => decide (c < f.due) }
    { en with flight := en.flight.filter fun f => decide (c < f.due) }
    ⟨fun _ _ => rfl, fun _ _ => rfl, fun _ _ => rfl⟩ (by simp; rfl) (fun _ _ => rfl) (fun _ _ => .inl rfl)
  refine ⟨this.1, ?_⟩
  have h2 := this.2
  rw [show ∀ w : BitVec 16, w ||| 0 = w from fun w => BitVec.or_zero] at h2
  exact h2

/-- Destinations other than that of the result keep their view. -/
theorem view_settleAll {α : Type} (view : Engine → α) (d : Dest) (hview : ∀ en g, g.dest ≠ d → view (writeResult en g) = view en)
    (hflag : ∀ en x, view (setFlags en x) = view en) (all : List Flight) : ∀ (l : List Flight) (en : Engine),
    (∀ g ∈ l, g.dest ≠ d) → view (settleAll all l en) = view en := by
  intro l
  induction l with
  | nil => intros; rfl
  | cons g t ih =>
    intro en h
    rw [settleAll, ih _ (fun x hx => h x (List.mem_cons_of_mem _ hx))]
    split
    · exact hflag _ _
    · exact hview _ _ (h g List.mem_cons_self)

/-- What an engine with a result in flight reads at the result's destination. -/
theorem view_settle_launch {α : Type} (view : Engine → α) (en : Engine) (lat k : Nat) (d : Dest) (v : Val) (fl : BitVec 16) (x : α)
    (h : ∀ g ∈ en.flight, g.dest ≠ d)
    (hview : ∀ en g, g.dest ≠ d → view (writeResult en g) = view en) (hflag : ∀ en x, view (setFlags en x) = view en)
    (hnext : ∀ l, view { nextWord (launch en lat d v fl) with flight := l } = view en)
    (hput : ∀ en' : Engine, view en' = view en → view (writeResult en' ⟨en.cycle + lat, en.issued, d, v, fl⟩) = x) :
    view (settle (nextWord (launch en lat d v fl)) (en.cycle + k)) = if lat ≤ k then x else view en := by
  obtain ⟨a, b, h1, h2⟩ := settle_launch en lat k d v fl
  rw [h2]
  have hab : ∀ g ∈ a ++ b, g.dest ≠ d := by rw [← h1]; exact h
  by_cases hk : lat ≤ k
  · simp only [hk, if_true]
    have hoff : ∀ g ∈ (a.filter fun g => decide (g.due ≤ en.cycle + k)) ++ b.filter fun g => decide (g.due ≤ en.cycle + k), g.dest ≠ d := by
      intro g hg
      rw [← List.filter_append] at hg
      exact hab g (List.mem_filter.mp hg).1
    rw [settleAll_append, settleAll, no_clash _ _ _ hoff,
      view_settleAll view d hview hflag _ _ _ (fun g hg => hoff g (List.mem_append_right _ hg))]
    simp only [Bool.false_eq_true, if_false]
    apply hput
    rw [view_settleAll view d hview hflag _ _ _ (fun g hg => hoff g (List.mem_append_left _ hg))]
    exact hnext _
  · simp only [hk, if_false]
    rw [view_settleAll view d hview hflag _ _ _ (fun g hg => hab g (List.mem_filter.mp hg).1)]
    exact hnext _

theorem rreg_settle_launchReg (en : Engine) (lat k r : Nat) (x : Word × BitVec 16) (h : ∀ g ∈ en.flight, g.dest ≠ .reg r) :
    rreg (settle (nextWord (launchReg en lat r x)) (en.cycle + k)) r
      = if r = 0 then 0 else if lat ≤ k then x.1 else rreg en r := by
  by_cases h0 : r = 0
  · subst h0; simp
  · simp only [h0, if_false]
    unfold launchReg
    simp only [h0, if_false]
    apply view_settle_launch (fun en => rreg en r)
    · exact h
    · intro en g hg
      exact (agreeOff_writeResult_self en g).1 r hg
    · intros; rfl
    · intros; rfl
    · intro en' _
      simp [writeResult, rreg_wreg, h0]

theorem rpred_settle_launchPred (en : Engine) (k j : Nat) (x : Bool × BitVec 16) (hj : j < 8)
    (h : ∀ g ∈ en.flight, g.dest ≠ .pred j) :
    rpred (settle (nextWord (launchPred en j x)) (en.cycle + k)) j
      = if j = 0 then true else if 1 ≤ k then x.1 else rpred en j := by
  by_cases h0 : j = 0
  · subst h0; simp
  · simp only [h0, if_false]
    unfold launchPred
    simp only [h0, if_false]
    apply view_settle_launch (fun en => rpred en j)
    · exact h
    · intro en g hg
      exact (agreeOff_writeResult_self en g).2.1 j hg
    · intros; rfl
    · intros; rfl
    · intro en' _
      simp [writeResult, rpred_wpred, h0, hj]

theorem racc_settle_launch (en : Engine) (k : Nat) (hh : Bool) (v : BitVec 64) (fl : BitVec 16)
    (h : ∀ g ∈ en.flight, g.dest ≠ .acc hh) :
    racc (settle (nextWord (launch en 3 (.acc hh) (.acc v) fl)) (en.cycle + k)) hh = if 3 ≤ k then v else racc en hh := by
  apply view_settle_launch (fun en => racc en hh)
  · exact h
  · intro en g hg
    exact (agreeOff_writeResult_self en g).2.2 hh hg
  · intros; rfl
  · intros; cases hh <;> rfl
  · intro en' _
    simp [writeResult]

theorem racc_settle_launchAdd (en : Engine) (k : Nat) (hh : Bool) (d : Int) (fl : BitVec 16)
    (h : ∀ g ∈ en.flight, g.dest ≠ .acc hh) :
    racc (settle (nextWord (launch en 3 (.acc hh) (.addend d) fl)) (en.cycle + k)) hh
      = if 3 ≤ k then (accAdd (racc en hh) d).1 else racc en hh := by
  apply view_settle_launch (fun en => racc en hh)
  · exact h
  · intro en g hg
    exact (agreeOff_writeResult_self en g).2.2 hh hg
  · intros; rfl
  · intros; cases hh <;> rfl
  · intro en' he
    simp [writeResult, he]

/-! ### The issue -/

/-- A word without ECC error is fetched without an effect. -/
theorem fetchEcc_clean {s : State} {e : Nat} (h : FetchClean s e) : fetchEcc s e = s := by
  unfold fetchEcc eccAccess
  rw [show upsetAt s (imemKey e (engine s e).pc) = 0 from h]
  rfl

/-- An engine that may issue runs the body under the predicate, and the word passes. -/
theorem issueS_may {s : State} {e : Nat} (h : MayIssue s e) (p : Pred) (body : State → State) :
    issueS s e p body =
      updEngine (if predOk (found s e) p = true then body (setEngine s e (found s e)) else setEngine s e (found s e)) e nextWord := by
  simp only [issueS, h.1, if_true, fetchEcc_clean h.2, engine_updEngine]
  rfl

/-- The engine after an instruction that acts on its engine alone. -/
theorem engine_issue (s : State) (e : Nat) (p : Pred) (body : Engine → Engine) (hc : MayIssue s e)
    (hp : predOk (found s e) p = true) : engine (issue s e p body) e = nextWord (body (found s e)) := by
  unfold issue
  rw [issueS_may hc, if_pos hp]
  simp

/-- An instruction whose predicate is false passes its cycle. -/
theorem engine_issue_false (s : State) (e : Nat) (p : Pred) (body : State → State) (hc : MayIssue s e)
    (hp : predOk (found s e) p = false) : engine (issueS s e p body) e = nextWord (found s e) := by
  rw [issueS_may hc, if_neg (by simp [hp])]
  simp

/-- An instruction that acts on its engine alone leaves every other engine alone. -/
theorem engine_issue_other (s : State) (e j : Nat) (p : Pred) (body : Engine → Engine) (hc : MayIssue s e) (hj : j ≠ e) :
    engine (issue s e p body) j = engine s j := by
  unfold issue
  rw [issueS_may hc]
  split
  · simp only [engine_updEngine_other _ _ _ _ hj, engine_setEngine_other _ _ _ _ hj]
  · simp only [engine_updEngine_other _ _ _ _ hj, engine_setEngine_other _ _ _ _ hj]

/-- Nothing but the table of engines changes. -/
theorem issue_frame (s : State) (e : Nat) (p : Pred) (body : Engine → Engine) (hc : MayIssue s e) :
    issue s e p body = { s with arr := { s.arr with engines := (issue s e p body).arr.engines } } := by
  unfold issue
  rw [issueS_may hc]
  split <;> rfl

/-! ### What the issue of an instruction does, in the terms of the claims -/

theorem settleAll_keeps {α : Type} (view : Engine → α) (hf : ∀ en x, view (setFlags en x) = view en)
    (hw : ∀ en r w, view (wreg en r w) = view en) (hp : ∀ en k b, view (wpred en k b) = view en)
    (ha : ∀ en h v, view (wacc en h v) = view en) (all l : List Flight) : ∀ en : Engine,
    view (settleAll all l en) = view en := by
  induction l with
  | nil => intro en; rfl
  | cons g t ih =>
    intro en
    rw [settleAll, ih]
    split
    · exact hf _ _
    · unfold writeResult
      rw [hf]
      split <;> simp [hf, hw, hp, ha]

theorem wreg_keeps (en : Engine) (r : Nat) (w : Word) : wreg en r w = { en with regs := (wreg en r w).regs } := by
  unfold wreg; split <;> rfl
theorem wpred_keeps (en : Engine) (k : Nat) (b : Bool) : wpred en k b = { en with preds := (wpred en k b).preds } := by
  unfold wpred; split <;> rfl
theorem wacc_keeps (en : Engine) (h : Bool) (v : BitVec 64) :
    wacc en h v = { en with acc0 := (wacc en h v).acc0, acc1 := (wacc en h v).acc1 } := by
  cases h <;> rfl

/-- What the results in flight do not reach. -/
def rest (en : Engine) : Nat × Nat × Nat × Bool × List RepLevel × Nat × Nat × List Flight :=
  (en.pc, en.cycle, en.issued, en.ended, en.reps, en.divFree, en.stps, en.flight)

theorem rest_settle (en : Engine) (c : Nat) :
    rest (settle en c) = rest { en with flight := en.flight.filter fun f => decide (c < f.due) } := by
  unfold settle
  apply settleAll_keeps rest
  · intros; rfl
  · intro en r w; rw [wreg_keeps]; rfl
  · intro en k b; rw [wpred_keeps]; rfl
  · intro en h v; rw [wacc_keeps]; rfl

@[simp] theorem settle_pc (en : Engine) (c : Nat) : (settle en c).pc = en.pc := congrArg (·.1) (rest_settle en c)
@[simp] theorem settle_cycle (en : Engine) (c : Nat) : (settle en c).cycle = en.cycle := congrArg (·.2.1) (rest_settle en c)
@[simp] theorem settle_issued (en : Engine) (c : Nat) : (settle en c).issued = en.issued := congrArg (·.2.2.1) (rest_settle en c)
@[simp] theorem settle_ended (en : Engine) (c : Nat) : (settle en c).ended = en.ended := congrArg (·.2.2.2.1) (rest_settle en c)
@[simp] theorem settle_reps (en : Engine) (c : Nat) : (settle en c).reps = en.reps := congrArg (·.2.2.2.2.1) (rest_settle en c)
@[simp] theorem settle_divFree (en : Engine) (c : Nat) : (settle en c).divFree = en.divFree :=
  congrArg (·.2.2.2.2.2.1) (rest_settle en c)
@[simp] theorem settle_stps (en : Engine) (c : Nat) : (settle en c).stps = en.stps := congrArg (·.2.2.2.2.2.2.1) (rest_settle en c)
theorem settle_flight (en : Engine) (c : Nat) : (settle en c).flight = en.flight.filter fun f => decide (c < f.due) :=
  congrArg (·.2.2.2.2.2.2.2) (rest_settle en c)

@[simp] theorem found_pc (s : State) (e : Nat) : (found s e).pc = (engine s e).pc := settle_pc _ _
@[simp] theorem found_cycle (s : State) (e : Nat) : (found s e).cycle = (engine s e).cycle := settle_cycle _ _
@[simp] theorem found_issued (s : State) (e : Nat) : (found s e).issued = (engine s e).issued := settle_issued _ _
@[simp] theorem found_ended (s : State) (e : Nat) : (found s e).ended = (engine s e).ended := settle_ended _ _
@[simp] theorem found_reps (s : State) (e : Nat) : (found s e).reps = (engine s e).reps := settle_reps _ _
@[simp] theorem found_divFree (s : State) (e : Nat) : (found s e).divFree = (engine s e).divFree := settle_divFree _ _
@[simp] theorem found_stps (s : State) (e : Nat) : (found s e).stps = (engine s e).stps := settle_stps _ _

theorem agreeOff_weaken {d : Dest} {a b : Engine} (h : agreeOff .none a b) : agreeOff d a b :=
  ⟨fun r _ => h.1 r (by simp), fun k _ => h.2.1 k (by simp), fun k _ => h.2.2 k (by simp)⟩

/-- The engine of an instruction that acts on its engine alone. -/
theorem onlyEngines_issue (s : State) (e : Nat) (p : Pred) (body : Engine → Engine) (hc : MayIssue s e) :
    OnlyEngines s (issue s e p body) :=
  issue_frame s e p body hc

/-- An instruction whose body leaves the place in the round alone passes its word. -/
theorem passesWord_issue {s : State} {e : Nat} {p : Pred} {body : Engine → Engine} (h : Issues s e p)
    (hb : (body (found s e)).pc = (found s e).pc ∧ (body (found s e)).cycle = (found s e).cycle
      ∧ (body (found s e)).reps = (found s e).reps ∧ (body (found s e)).ended = (found s e).ended) :
    PassesWord s (issue s e p body) e := by
  refine ⟨fun j hj => engine_issue_other s e j p body h.1 hj, ?_⟩
  rw [engine_issue s e p body h.1 h.2]
  simp only [nextWord, hb.1, hb.2.1, hb.2.2.1, hb.2.2.2, found_pc, found_cycle, found_reps, found_ended, and_self]

/-- An instruction that puts one result in flight. -/
theorem launches_issue {s : State} {e : Nat} {p : Pred} {body : Engine → Engine} (h : Issues s e p) (d : Dest) (lat : Nat) (v : Val)
    (fl : BitVec 16) (hb : body (found s e) = launch (found s e) lat d v fl) (hc : d = .none ∨ Clear s e d) :
    Launches s (issue s e p body) e d lat
      (resultFlags (found s e) { due := (found s e).cycle + lat, order := (found s e).issued, dest := d, val := v, flags := fl }) := by
  intro k
  unfold after untouched
  rw [engine_issue s e p body h.1 h.2, hb, ← found_cycle s e]
  exact settle_launch_agree (found s e) lat k d v fl hc

theorem givesReg_issue {s : State} {e : Nat} {p : Pred} (h : Issues s e p) (rd : Reg) (lat : Nat)
    (f : Engine → Word × BitVec 16) (hc : Clear s e (.reg rd.toNat)) (c : Instr)
    (hx : exec c s = issueReg s e p lat rd f) : GivesReg c s e rd lat (f (found s e)) := by
  have hrd : rd.toNat = 0 ↔ rd = 0 := by
    constructor
    · intro h; exact BitVec.eq_of_toNat_eq (by simpa using h)
    · rintro rfl; rfl
  refine ⟨_, hx, onlyEngines_issue _ _ _ _ h.1, passesWord_issue h ⟨rfl, rfl, rfl, rfl⟩, ?_, ?_, fun k => ?_, fun k => ?_⟩
  · rw [engine_issue _ _ _ _ h.1 h.2]; exact found_divFree s e
  · rw [engine_issue _ _ _ _ h.1 h.2]; exact found_stps s e
  · unfold after
    rw [engine_issue _ _ _ _ h.1 h.2, ← found_cycle s e, rreg_settle_launchReg _ _ _ _ _ hc]
    simp only [hrd]
  · by_cases h0 : rd.toNat = 0
    · have := launches_issue (body := fun en => launchReg en lat rd.toNat (f en)) h .none lat (.word (f (found s e)).1) (f (found s e)).2
        (by simp [launchReg, h0]) (.inl rfl) k
      exact ⟨agreeOff_weaken this.1, this.2⟩
    · exact launches_issue (body := fun en => launchReg en lat rd.toNat (f en)) h (.reg rd.toNat) lat (.word (f (found s e)).1) (f (found s e)).2
        (by simp [launchReg, h0]) (.inr hc) k

theorem givesPred_issue {s : State} {e : Nat} {p : Pred} (h : Issues s e p) (pd : BitVec 3)
    (f : Engine → Bool × BitVec 16) (hc : Clear s e (.pred pd.toNat)) (c : Instr)
    (hx : exec c s = .next (issue s e p fun en => launchPred en pd.toNat (f en))) : GivesPred c s e pd (f (found s e)) := by
  have hpd : pd.toNat = 0 ↔ pd = 0 := by
    constructor
    · intro h; exact BitVec.eq_of_toNat_eq (by simpa using h)
    · rintro rfl; rfl
  refine ⟨_, hx, onlyEngines_issue _ _ _ _ h.1, passesWord_issue h ⟨rfl, rfl, rfl, rfl⟩, ?_, ?_, fun k => ?_, fun k => ?_⟩
  · rw [engine_issue _ _ _ _ h.1 h.2]; exact found_divFree s e
  · rw [engine_issue _ _ _ _ h.1 h.2]; exact found_stps s e
  · by_cases h0 : pd.toNat = 0
    · have := launches_issue (body := fun en => launchPred en pd.toNat (f en)) h .none 1 (.bit (f (found s e)).1) (f (found s e)).2
        (by simp [launchPred, h0]) (.inl rfl) k
      exact ⟨agreeOff_weaken this.1, this.2⟩
    · exact launches_issue (body := fun en => launchPred en pd.toNat (f en)) h (.pred pd.toNat) 1 (.bit (f (found s e)).1) (f (found s e)).2
        (by simp [launchPred, h0]) (.inr hc) k
  · unfold after
    rw [engine_issue _ _ _ _ h.1 h.2, ← found_cycle s e, rpred_settle_launchPred _ _ _ _ pd.isLt hc]
    simp only [hpd]

theorem givesAcc_issue {s : State} {e : Nat} {p : Pred} (h : Issues s e p) (hh : Bool)
    (f : Engine → BitVec 64) (hc : Clear s e (.acc hh)) (c : Instr)
    (hx : exec c s = .next (issue s e p fun en => launch en 3 (.acc hh) (.acc (f en)) 0)) : GivesAcc c s e hh (f (found s e), 0) := by
  refine ⟨_, hx, onlyEngines_issue _ _ _ _ h.1, passesWord_issue h ⟨rfl, rfl, rfl, rfl⟩, ?_, ?_, fun k => ?_, fun k => ?_⟩
  · rw [engine_issue _ _ _ _ h.1 h.2]; exact found_divFree s e
  · rw [engine_issue _ _ _ _ h.1 h.2]; exact found_stps s e
  · exact launches_issue (body := fun en => launch en 3 (.acc hh) (.acc (f en)) 0) h (.acc hh) 3 (.acc (f (found s e))) 0 rfl (.inr hc) k
  · unfold after
    rw [engine_issue _ _ _ _ h.1 h.2, ← found_cycle s e, racc_settle_launch _ _ _ _ _ hc]

theorem givesAcc_issueAdd {s : State} {e : Nat} {p : Pred} (h : Issues s e p) (hh : Bool)
    (f : Engine → Int) (hc : Clear s e (.acc hh)) (c : Instr)
    (hx : exec c s = .next (issue s e p fun en => launch en 3 (.acc hh) (.addend (f en)) 0)) :
    GivesAcc c s e hh (accAdd (racc (found s e) hh) (f (found s e))) := by
  refine ⟨_, hx, onlyEngines_issue _ _ _ _ h.1, passesWord_issue h ⟨rfl, rfl, rfl, rfl⟩, ?_, ?_, fun k => ?_, fun k => ?_⟩
  · rw [engine_issue _ _ _ _ h.1 h.2]; exact found_divFree s e
  · rw [engine_issue _ _ _ _ h.1 h.2]; exact found_stps s e
  · have := launches_issue (body := fun en => launch en 3 (.acc hh) (.addend (f en)) 0) h (.acc hh) 3 (.addend (f (found s e))) 0 rfl (.inr hc) k
    simpa [resultFlags] using this
  · unfold after
    rw [engine_issue _ _ _ _ h.1 h.2, ← found_cycle s e, racc_settle_launchAdd _ _ _ _ _ hc]

/-- An engine that passes its cycle and does nothing else. -/
theorem launches_none {s t : State} {e : Nat} (h : engine t e = nextWord (found s e)) : Launches s t e .none 0 0 := by
  intro k
  unfold after untouched
  rw [h]
  have := settle_nextWord_agree (found s e) ((engine s e).cycle + k)
  exact ⟨this.1, by simpa using this.2⟩

/-- The body of an instruction of an engine, under its predicate. -/
theorem exec_predOf (c : Instr) (s : State) (e : EngineId) (p : Pred) (h : predOf c = some (e, p)) :
    ∃ body, exec c s = .next (issueS s e p body) := by
  cases c <;> simp only [predOf, reduceCtorEq, Option.some.injEq, Prod.mk.injEq] at h <;> obtain ⟨rfl, rfl⟩ := h <;> exact ⟨_, rfl⟩

/-- An instruction whose predicate is false only passes its word (R88). -/
theorem onlyPasses_issueS {c : Instr} {s : State} {e : Nat} {p : Pred} {body : State → State} (hb : exec c s = .next (issueS s e p body))
    (hc : MayIssue s e) (hp : predOk (found s e) p = false) : OnlyPasses c s e := by
  have hs : issueS s e p body = updEngine (setEngine s e (found s e)) e nextWord := by
    rw [issueS_may hc, if_neg (by simp [hp])]
  have he : engine (issueS s e p body) e = nextWord (found s e) := engine_issue_false s e p body hc hp
  refine ⟨_, hb, ?_, ⟨fun j hj => ?_, ?_, ?_, ?_, ?_⟩, ?_, ?_, launches_none he⟩
  · rw [hs]; rfl
  · rw [hs, engine_updEngine_other _ _ _ _ hj, engine_setEngine_other _ _ _ _ hj]
  all_goals rw [he]; simp [nextWord]

/-! ### Engines that differ in nothing that results reach -/

/-- Engines with the same results in flight that read alike settle alike. -/
theorem settle_congr {a b : Engine} (x : BitVec 16) (c : Nat) (hl : a.flight = b.flight) (h : agreeOff .none a b)
    (hf : a.flags = b.flags ||| x) :
    agreeOff .none (settle a c) (settle b c) ∧ (settle a c).flags = (settle b c).flags ||| x := by
  unfold settle
  rw [hl]
  exact agreeOff_settleAll (d := .none) _ _ x _ _ _ h hf (fun _ _ => rfl) (fun _ _ => .inl rfl)

/-- An engine that sets flags and passes its cycle. -/
theorem launches_setFlags {s t : State} {e : Nat} (x : BitVec 16) (hl : (engine t e).flight = (found s e).flight)
    (h : agreeOff .none (engine t e) (found s e)) (hf : (engine t e).flags = (found s e).flags ||| x) : Launches s t e .none 0 x := by
  intro k
  obtain ⟨h1, h2⟩ := settle_congr x ((engine s e).cycle + k) hl h hf
  exact ⟨h1, by unfold after untouched; simpa using h2⟩

/-- An engine that has put one register result in flight. -/
theorem regFrom_launch {s t : State} {e : Nat} (rd : Reg) (lat : Nat) (x : Word × BitVec 16)
    (hl : (engine t e).flight = (launchReg (found s e) lat rd.toNat x).flight) (h : agreeOff .none (engine t e) (found s e))
    (hf : (engine t e).flags = (found s e).flags) (hc : Clear s e (.reg rd.toNat)) :
    RegFrom s t e rd lat x.1 ∧ Launches s t e (.reg rd.toNat) lat x.2 := by
  have hrd : rd.toNat = 0 ↔ rd = 0 := by
    constructor
    · intro h; exact BitVec.eq_of_toNat_eq (by simpa using h)
    · rintro rfl; rfl
  have key : ∀ k, agreeOff .none (after s t e k) (settle (nextWord (launchReg (found s e) lat rd.toNat x)) ((engine s e).cycle + k))
      ∧ (after s t e k).flags = (settle (nextWord (launchReg (found s e) lat rd.toNat x)) ((engine s e).cycle + k)).flags := by
    intro k
    obtain ⟨h1, h2⟩ := settle_congr (b := nextWord (launchReg (found s e) lat rd.toNat x)) 0 ((engine s e).cycle + k) hl h (by
      rw [hf, show ∀ w : BitVec 16, w ||| 0 = w from fun w => BitVec.or_zero]; rfl)
    exact ⟨h1, by unfold after; simpa using h2⟩
  refine ⟨fun k => ?_, fun k => ?_⟩
  · rw [(key k).1.1 rd.toNat (by simp), ← found_cycle s e, rreg_settle_launchReg _ _ _ _ _ hc]
    simp only [hrd]
  · have ht : agreeOff (.reg rd.toNat) (settle (nextWord (launchReg (found s e) lat rd.toNat x)) ((engine s e).cycle + k)) (untouched s e k)
        ∧ (settle (nextWord (launchReg (found s e) lat rd.toNat x)) ((engine s e).cycle + k)).flags
          = (untouched s e k).flags ||| (if lat ≤ k then x.2 else 0) := by
      unfold untouched
      rw [← found_cycle s e]
      by_cases h0 : rd.toNat = 0
      · have := settle_launch_agree (found s e) lat k .none (.word x.1) x.2 (.inl rfl)
        have hl : launchReg (found s e) lat rd.toNat x = launch (found s e) lat .none (.word x.1) x.2 := by simp [launchReg, h0]
        rw [hl]
        exact ⟨agreeOff_weaken this.1, this.2⟩
      · have := settle_launch_agree (found s e) lat k (.reg rd.toNat) (.word x.1) x.2 (.inr hc)
        have hl : launchReg (found s e) lat rd.toNat x = launch (found s e) lat (.reg rd.toNat) (.word x.1) x.2 := by simp [launchReg, h0]
        rw [hl]
        exact this
    have hk := agreeOff_weaken (d := .reg rd.toNat) (key k).1
    exact ⟨⟨fun r hr => (hk.1 r hr).trans (ht.1.1 r hr), fun j hj => (hk.2.1 j hj).trans (ht.1.2.1 j hj),
      fun j hj => (hk.2.2 j hj).trans (ht.1.2.2 j hj)⟩, (key k).2.trans ht.2⟩

/-- The divider's operations: launched where the divider is free, DIV_BUSY where it is not (R105). -/
theorem issueDiv_spec {s : State} {e : Nat} {p : Pred} (h : Issues s e p) (rd ra rb : Reg) (f : Word → Word → Word × BitVec 16)
    (hc : Clear s e (.reg rd.toNat)) (c : Instr) (hx : exec c s = issueDiv s e p rd ra rb f) :
    ∃ t, exec c s = .next t ∧ OnlyEngines s t ∧ PassesWord s t e ∧ (engine t e).stps = (engine s e).stps
      ∧ ((engine s e).divFree ≤ (engine s e).cycle →
          RegFrom s t e rd 12 (f (rreg (found s e) ra.toNat) (rreg (found s e) rb.toNat)).1
          ∧ Launches s t e (.reg rd.toNat) 12 (f (rreg (found s e) ra.toNat) (rreg (found s e) rb.toNat)).2
          ∧ (engine t e).divFree = (engine s e).cycle + 12)
      ∧ ((engine s e).cycle < (engine s e).divFree →
          Launches s t e .none 0 fDIVBUSY ∧ (engine t e).divFree = (engine s e).divFree) := by
  have he := engine_issue s e p (fun en => if en.cycle < en.divFree then setFlags en fDIVBUSY
    else { launchReg en 12 rd.toNat (f (rreg en ra.toNat) (rreg en rb.toNat)) with divFree := en.cycle + 12 }) h.1 h.2
  refine ⟨_, hx, onlyEngines_issue _ _ _ _ h.1, passesWord_issue h ?_, ?_, fun hf => ?_, fun hf => ?_⟩
  · split <;> exact ⟨rfl, rfl, rfl, rfl⟩
  · rw [he]
    split <;> exact found_stps s e
  · rw [if_neg (by simp; omega)] at he
    obtain ⟨h1, h2⟩ := regFrom_launch rd 12 (f (rreg (found s e) ra.toNat) (rreg (found s e) rb.toNat))
      (t := issue s e p _) (by rw [he]; rfl) (by rw [he]; exact ⟨fun _ _ => rfl, fun _ _ => rfl, fun _ _ => rfl⟩) (by rw [he]; rfl) hc
    exact ⟨h1, h2, by rw [he]; simp [nextWord]⟩
  · rw [if_pos (by simpa using hf)] at he
    exact ⟨launches_setFlags _ (by rw [he]; rfl) (by rw [he]; exact ⟨fun _ _ => rfl, fun _ _ => rfl, fun _ _ => rfl⟩) (by rw [he]; rfl),
      by rw [he]; simp [nextWord, setFlags]⟩

theorem mem_insFlight (f g : Flight) (l : List Flight) : g ∈ insFlight f l ↔ g = f ∨ g ∈ l := by
  obtain ⟨a, b, h1, h2⟩ := insFlight_split f l
  rw [h2, h1]
  simp only [List.mem_append, List.mem_cons]
  constructor
  · rintro (h | h | h) <;> simp [h]
  · rintro (h | h | h) <;> simp [h]

/-! ### Instructions that act on more than their engine -/

/-- An instruction that issues: its body runs on the state with the results due written, and the word passes. -/
theorem issueS_eq {s : State} {e : Nat} {p : Pred} (h : Issues s e p) (body : State → State) :
    issueS s e p body = updEngine (body (setEngine s e (found s e))) e nextWord := by
  rw [issueS_may h.1, if_pos h.2]

/-- The engine of an instruction whose body leaves its engine alone. -/
theorem passes_of {s t : State} {e : Nat} (he : engine t e = nextWord (found s e)) (ho : ∀ j, j ≠ e → engine t j = engine s j) :
    Passes s t e := by
  refine ⟨⟨ho, ?_, ?_, ?_, ?_⟩, ?_, ?_, launches_none he⟩
  all_goals rw [he]; simp [nextWord]

/-- Such an instruction passes its word. -/
theorem passes_issueS {s : State} {e : Nat} {p : Pred} (h : Issues s e p) (body : State → State)
    (hb : (body (setEngine s e (found s e))).arr.engines = (setEngine s e (found s e)).arr.engines) :
    Passes s (issueS s e p body) e := by
  have he : ∀ j, engine (body (setEngine s e (found s e))) j = engine (setEngine s e (found s e)) j := fun j => by
    unfold engine; rw [hb]
  rw [issueS_eq h]
  apply passes_of
  · rw [engine_updEngine, he, engine_setEngine]
  · intro j hj
    rw [engine_updEngine_other _ _ _ _ hj, he, engine_setEngine_other _ _ _ _ hj]

/-- A word of a memory as its four bytes. -/
theorem mword_eq_wordAt (m : Mem) (a : Nat) : mword m a = wordAt m a := by
  unfold mword wordAt mread leNat
  simp only [List.range, List.range.loop, List.map, leNat]
  apply BitVec.eq_of_toNat_eq
  simp only [BitVec.toNat_append, BitVec.toNat_ofNat, Nat.add_zero]
  have h0 := (mget m a).isLt
  have h1 := (mget m (a + 1)).isLt
  have h2 := (mget m (a + 2)).isLt
  have h3 := (mget m (a + 3)).isLt
  rw [Nat.mod_eq_of_lt (by omega)]
  have e1 : ∀ x y k : Nat, y < 2 ^ k → x <<< k ||| y = x * 2 ^ k + y := by
    intro x y k hy
    rw [Nat.shiftLeft_eq, Nat.mul_comm, Nat.two_pow_add_eq_or_of_lt hy]
  rw [e1 _ _ 8 h0, e1 _ _ 8 h1, e1 _ _ 8 h2]
  omega

theorem wordAt_mputWord (m : Mem) (a : Nat) (w : Word) : wordAt (mputWord m a w) a = w := by
  rw [← mword_eq_wordAt, mword_mputWord]

theorem wordAt_mputWord_apart (m : Mem) (a c : Nat) (w : Word) (h : c + 4 ≤ a ∨ a + 4 ≤ c) :
    wordAt (mputWord m a w) c = wordAt m c := by
  rw [← mword_eq_wordAt, ← mword_eq_wordAt, mword_mputWord_apart _ _ _ _ h]

theorem sameOutside_mputWord (m : Mem) (a : Nat) (w : Word) : SameOutside m (mputWord m a w) a 4 := by
  intro x hx
  unfold mputWord wordBytes
  exact mget_mwrite_outside _ _ _ _ (by simpa using hx)

/-! ### Pairs -/

/-- A word masked with a run of ones from bit `lo` to below `hi`. -/
theorem toNat_mask (a : Word) (hi lo : Nat) (m : Word) (hm : ∀ i < 32, Nat.testBit m.toNat i = decide (lo ≤ i ∧ i < hi)) (hl : lo ≤ hi) (h32 : hi ≤ 32) :
    (a &&& m).toNat = a.toNat / 2 ^ lo % 2 ^ (hi - lo) * 2 ^ lo := by
  rw [BitVec.toNat_and]
  apply Nat.eq_of_testBit_eq
  intro i
  rw [Nat.testBit_and, Nat.testBit_mul_two_pow, Nat.testBit_mod_two_pow, Nat.testBit_div_two_pow]
  by_cases h : i < 32
  · rw [hm i h]
    by_cases h2 : lo ≤ i
    · by_cases h3 : i < hi
      · simp [h2, h3]; intro _; omega
      · simp [h2, h3]; intro _; omega
    · simp [h2]
  · have : Nat.testBit m.toNat i = false := Nat.testBit_lt_two_pow (Nat.lt_of_lt_of_le m.isLt (Nat.pow_le_pow_right (by decide) (by omega)))
    rw [this]
    simp; omega

/-- The even register of a pair field. -/
theorem pair_lo (rd : Reg) : (rd &&& 0x1E).toNat = pairLo rd.toNat := by
  have : ∀ r : Reg, (r &&& 0x1E).toNat = pairLo r.toNat := by decide
  exact this rd
/-- The odd register of a pair field. -/
theorem pair_hi (rd : Reg) : (rd ||| 1).toNat = pairLo rd.toNat + 1 := by
  have : ∀ r : Reg, (r ||| 1).toNat = pairLo r.toNat + 1 := by decide
  exact this rd

theorem clear_after {s : State} {e : Nat} (rd : Reg) (lat : Nat) (x : Word × BitVec 16) (d : Dest) (hd : d ≠ .reg rd.toNat) (hn : d ≠ .none)
    (h : Clear s e d) : ∀ g ∈ (launchReg (found s e) lat rd.toNat x).flight, g.dest ≠ d := by
  intro g hg
  unfold launchReg launch at hg
  rcases (mem_insFlight _ _ _).mp hg with rfl | hg
  · dsimp only
    split
    · exact hn.symm
    · exact hd.symm
  · exact h g hg

/-- An engine that has put the two halves of a pair in flight. -/
theorem launchesPair_of {s t : State} {e : Nat} (rd : Reg) (lat : Nat) (lo hi : Word)
    (hl : (engine t e).flight = (launchReg (launchReg (found s e) lat (pairLo rd.toNat) (lo, 0)) lat (pairLo rd.toNat + 1) (hi, 0)).flight)
    (ha : agreeOff .none (engine t e) (found s e)) (hf : (engine t e).flags = (found s e).flags)
    (hp : PassesWord s t e) (hd : (engine t e).divFree = (engine s e).divFree) (hs : (engine t e).stps = (engine s e).stps)
    (c1 : Clear s e (.reg (rd &&& 0x1E).toNat)) (c2 : Clear s e (.reg (rd ||| 1).toNat)) : LaunchesPair s t e rd lat lo hi := by
  rw [← pair_hi, ← pair_lo] at hl
  set e1 := launchReg (found s e) lat (rd &&& 0x1E).toNat (lo, 0) with he1
  have hne : (rd ||| 1).toNat ≠ 0 := by rw [pair_hi]; omega
  have hne' : (rd ||| 1) ≠ 0 := by intro h; apply hne; rw [h]; rfl
  have hdif : (rd ||| 1).toNat ≠ (rd &&& 0x1E).toNat := by rw [pair_hi, pair_lo]; omega
  have cyc : e1.cycle = (engine s e).cycle := by rw [he1]; simp [launchReg, launch]
  have hc2 : ∀ g ∈ e1.flight, g.dest ≠ .reg (rd ||| 1).toNat := clear_after _ _ _ _ (by simpa using hdif) (by simp) c2
  have key : ∀ k, agreeOff .none (after s t e k) (settle (nextWord (launchReg e1 lat (rd ||| 1).toNat (hi, 0))) ((engine s e).cycle + k))
      ∧ (after s t e k).flags = (settle (nextWord (launchReg e1 lat (rd ||| 1).toNat (hi, 0))) ((engine s e).cycle + k)).flags := by
    intro k
    obtain ⟨h1, h2⟩ := settle_congr (b := nextWord (launchReg e1 lat (rd ||| 1).toNat (hi, 0))) 0 ((engine s e).cycle + k) hl ha (by
      rw [hf, show ∀ w : BitVec 16, w ||| 0 = w from fun w => BitVec.or_zero]; rfl)
    exact ⟨h1, by unfold after; simpa using h2⟩
  -- the second launch beside e1
  have k2 : ∀ k, agreeOff (.reg (rd ||| 1).toNat) (after s t e k) (settle e1 ((engine s e).cycle + k))
      ∧ (after s t e k).flags = (settle e1 ((engine s e).cycle + k)).flags := by
    intro k
    have := settle_launch_agree e1 lat k (.reg (rd ||| 1).toNat) (.word hi) 0 (.inr hc2)
    rw [cyc] at this
    have hl : launchReg e1 lat (rd ||| 1).toNat (hi, 0) = launch e1 lat (.reg (rd ||| 1).toNat) (.word hi) 0 := by simp [launchReg]
    rw [← hl] at this
    have hk := key k
    refine ⟨⟨fun r hr => (hk.1.1 r (by simp)).trans (this.1.1 r hr), fun j hj => (hk.1.2.1 j (by simp)).trans (this.1.2.1 j hj),
      fun j hj => (hk.1.2.2 j (by simp)).trans (this.1.2.2 j hj)⟩, hk.2.trans ?_⟩
    rw [this.2]; simp [resultFlags]
  -- e1 beside the engine with nothing
  have k1 : ∀ k, (∀ r, r ≠ (rd &&& 0x1E).toNat → rreg (settle e1 ((engine s e).cycle + k)) r = rreg (untouched s e k) r)
      ∧ (∀ j, rpred (settle e1 ((engine s e).cycle + k)) j = rpred (untouched s e k) j)
      ∧ (∀ h, racc (settle e1 ((engine s e).cycle + k)) h = racc (untouched s e k) h)
      ∧ (settle e1 ((engine s e).cycle + k)).flags = (untouched s e k).flags
      ∧ rreg (settle e1 ((engine s e).cycle + k)) (rd &&& 0x1E).toNat = (if (rd &&& 0x1E).toNat = 0 then 0 else if lat ≤ k then lo else rreg (found s e) (rd &&& 0x1E).toNat) := by
    intro k
    have hn := settle_nextWord_agree e1 ((engine s e).cycle + k)
    have hr := regFrom_launch (s := s) (t := setEngine s e (nextWord e1)) (e := e) (rd &&& 0x1E) lat (lo, 0) (by rw [engine_setEngine]; rfl)
      (by rw [engine_setEngine]; exact ⟨fun _ _ => rfl, fun _ _ => rfl, fun _ _ => rfl⟩) (by rw [engine_setEngine]; rfl) c1
    have h2 := hr.2 k
    have h3 := hr.1 k
    unfold after at h2 h3
    rw [engine_setEngine] at h2 h3
    have hz : ((rd &&& 0x1E) = 0) = ((rd &&& 0x1E).toNat = 0) := by
      apply propext
      constructor
      · intro h; rw [h]; rfl
      · intro h; exact BitVec.eq_of_toNat_eq (by simpa using h)
    refine ⟨fun r hr => ?_, fun j => ?_, fun h => ?_, ?_, ?_⟩
    · rw [← hn.1.1 r (by simp)]; exact h2.1.1 r (by simpa using hr.symm)
    · rw [← hn.1.2.1 j (by simp)]; exact h2.1.2.1 j (by simp)
    · rw [← hn.1.2.2 h (by simp)]; exact h2.1.2.2 h (by simp)
    · rw [← hn.2, h2.2]; simp
    · rw [← hn.1.1 _ (by simp), h3]; simp only [hz]
  refine ⟨hp, hd, hs, fun k => ?_, fun k => ?_, fun k => ⟨fun r h1 h2 => ?_, fun j => ?_, fun h => ?_, ?_⟩⟩
  · rw [(k2 k).1.1 _ (by simpa using hdif), (k1 k).2.2.2.2]
    have hz : ((rd &&& 0x1E) = 0) = ((rd &&& 0x1E).toNat = 0) := by
      apply propext
      constructor
      · intro h; rw [h]; rfl
      · intro h; exact BitVec.eq_of_toNat_eq (by simpa using h)
    simp only [hz]
  · rw [if_neg hne', (key k).1.1 _ (by simp), ← cyc, rreg_settle_launchReg _ _ _ _ _ hc2, if_neg hne]
    have : rreg e1 (rd ||| 1).toNat = rreg (found s e) (rd ||| 1).toNat := rfl
    rw [this]
  · rw [(k2 k).1.1 r (by simpa using h2.symm)]; exact (k1 k).1 r h1
  · rw [(k2 k).1.2.1 j (by simp)]; exact (k1 k).2.1 j
  · rw [(k2 k).1.2.2 h (by simp)]; exact (k1 k).2.2.1 h
  · rw [(k2 k).2]; exact (k1 k).2.2.2.1

end Sys2Proof.Machine
end

