-- ==== Sys2Proof/Laws/Ops.lean ====
section
/-! SUPPORT. What the shared operations of Machine/Ops.lean can change, one law each, and what the ones that move ports
into HEM and raise doubts do. -/
namespace Sys2Proof.Machine

/-! ### Frames -/

theorem addRecord_frame (s : State) (code : Nat) (round : Word) (data : List Byte) :
    ∃ r, addRecord s code round data = { s with recorder := r } := by
  unfold addRecord
  dsimp only
  (repeat' split) <;> exact ⟨_, rfl⟩

theorem trigger_frame (s : State) (src : Nat) : ∃ r, trigger s src = { s with recorder := r } := by
  unfold trigger
  dsimp only
  (repeat' split) <;> exact ⟨_, rfl⟩

theorem abandonShutdown_frame (s : State) : ∃ q, abandonShutdown s = { s with sq := q } := by
  unfold abandonShutdown
  split <;> exact ⟨_, rfl⟩

theorem pairDoubt_frame (s : State) (b : Bool) : ∃ q, pairDoubt s b = { s with pair := q } := by
  unfold pairDoubt
  (repeat' split) <;> exact ⟨_, rfl⟩

theorem marginOnly_refl (d : Tab Nat) : MarginOnly d d := fun _ => .inl rfl

theorem marginOnly_put (d : Tab Nat) (n : Nat) : MarginOnly d (tput d (okey (0x3100 + n) 0x10) 0) := by
  intro k
  by_cases h : k = okey (0x3100 + n) 0x10
  · exact .inr ⟨n, h, by rw [h, tfind_tput_same]⟩
  · exact .inl (tfind_tput_other _ _ _ _ h)

theorem marginOnly_trans {a b c : Tab Nat} (h : MarginOnly a b) (h' : MarginOnly b c) : MarginOnly a c := by
  intro k
  rcases h' k with e | e
  · rw [e]; exact h k
  · exact .inr e

theorem setPState_cfg (s : State) (n : Nat) (t : PState) : MarginOnly s.cfg (setPState s n t).cfg := by
  have key : ∀ u : State, u.cfg = s.cfg ∨ u.cfg = tput s.cfg (okey (0x3100 + n) 0x10) 0 → MarginOnly s.cfg u.cfg := by
    intro u hu
    rcases hu with e | e <;> rw [e]
    · exact marginOnly_refl _
    · exact marginOnly_put _ _
  apply key
  unfold setPState
  dsimp only
  by_cases h : ((link s n).state == t) = true
  · rw [if_pos h]; exact .inl rfl
  · rw [if_neg h]
    by_cases h2 : ((link s n).state == .running) = true
    · right
      simp only [h2, if_true]
      (repeat' split) <;> rfl
    · left
      simp only [h2, if_false, Bool.false_eq_true]
      (repeat' split) <;> rfl

theorem setPState_frame (s : State) (n : Nat) (t : PState) :
    ∃ a b c d, setPState s n t = { s with links := a, ctls := b, shelf := c, cfg := d } ∧ MarginOnly s.cfg d := by
  let P (u : State) : Prop := ∃ a b c d, u = { s with links := a, ctls := b, shelf := c, cfg := d }
  have pl : ∀ u f, P u → P (updLink u n f) := by rintro u f ⟨a, b, c, d, rfl⟩; exact ⟨_, _, _, _, rfl⟩
  have pc : ∀ u f, P u → P (updCtl u n f) := by rintro u f ⟨a, b, c, d, rfl⟩; exact ⟨_, _, _, _, rfl⟩
  have pf : ∀ u i j v, P u → P (setCfg u i j v) := by rintro u i j v ⟨a, b, c, d, rfl⟩; exact ⟨_, _, _, _, rfl⟩
  have pp : ∀ u p f, P u → P (updPack u p f) := by rintro u p f ⟨a, b, c, d, rfl⟩; exact ⟨_, _, _, _, rfl⟩
  have p0 : P s := ⟨_, _, _, _, rfl⟩
  have h : P (setPState s n t) := by
    unfold setPState
    dsimp only
    have p1 := pl s (fun l => { l with state := t }) p0
    generalize updLink s n (fun l => { l with state := t }) = s1 at p1
    by_cases h : ((link s n).state == t) = true
    · rw [if_pos h]; exact p0
    rw [if_neg h]
    generalize hq : (if ((link s n).state == .running) = true then _ else _ : State) = s2
    have p2 : P s2 := by rw [← hq]; split; exacts [pf _ _ _ _ (pc _ _ p1), p1]
    cases packOf s2 n with
    | none => dsimp only; split; exacts [p2, pc _ _ p2]
    | some p => dsimp only; split; exacts [pp _ _ _ p2, pc _ _ (pp _ _ _ p2)]
  have hc := setPState_cfg s n t
  obtain ⟨a, b, c, d, h⟩ := h
  rw [h] at hc
  exact ⟨a, b, c, d, h, hc⟩

theorem portToHem_frame (s : State) (n : Nat) :
    ∃ a b c d, portToHem s n = { s with links := a, ctls := b, shelf := c, cfg := d } ∧ MarginOnly s.cfg d := by
  unfold portToHem
  split
  · exact setPState_frame s n .hem
  · exact ⟨_, _, _, _, rfl, marginOnly_refl _⟩

theorem portsToHem_frame (l : List Nat) : ∀ s : State,
    ∃ a b c d, portsToHem s l = { s with links := a, ctls := b, shelf := c, cfg := d } ∧ MarginOnly s.cfg d := by
  induction l with
  | nil => intro s; exact ⟨_, _, _, _, rfl, marginOnly_refl _⟩
  | cons n t ih =>
    intro s
    obtain ⟨a, b, c, d, h, hd⟩ := portToHem_frame s n
    obtain ⟨a', b', c', d', h', hd'⟩ := ih (portToHem s n)
    refine ⟨a', b', c', d', by rw [show portsToHem s (n :: t) = portsToHem (portToHem s n) t from rfl, h', h], ?_⟩
    rw [h] at hd'
    exact marginOnly_trans hd hd'

theorem tripPort_frame (s : State) (n : Nat) (reason : Byte) :
    ∃ a b c d r, tripPort s n reason = { s with links := a, ctls := b, shelf := c, cfg := d, recorder := r }
      ∧ MarginOnly s.cfg d := by
  unfold tripPort
  dsimp only
  obtain ⟨a, b, c, d, h, hd⟩ := portToHem_frame (updCtl s n fun c => { c with tripped := true, tripReason := reason }) n
  obtain ⟨r, h'⟩ := trigger_frame (portToHem (updCtl s n fun c => { c with tripped := true, tripReason := reason }) n) 1
  exact ⟨a, b, c, d, r, by rw [h', h]; rfl, hd⟩

/-! ### Ports -/

theorem link_setPState (s : State) (n m : Nat) (t : PState) :
    link (setPState s n t) m = if m = n ∧ (link s n).state ≠ t then { link s n with state := t } else link s m := by
  have key : ∀ s' : State, s'.links = (updLink s n fun l => { l with state := t }).links →
      link s' m = if m = n then { link s n with state := t } else link s m := by
    intro s' h
    unfold link
    rw [h]
    by_cases hm : m = n
    · subst hm; simp [updLink, setLink, link]
    · simp [updLink, setLink, link, hm, tget_tset_other _ _ _ _ _ hm]
  by_cases h : (link s n).state = t
  · simp [setPState, h]
  · have hr : (if m = n ∧ (link s n).state ≠ t then { link s n with state := t } else link s m)
        = if m = n then { link s n with state := t } else link s m := by simp [h]
    rw [hr]
    generalize (if m = n then { link s n with state := t } else link s m) = R at key
    unfold setPState
    dsimp only
    rw [if_neg (by simpa using h)]
    (repeat' split) <;> (apply key; rfl)

/-- A link whose port has entered HEM, if it was on. -/
def hemmed (l : Link) : Link := if canHem l.state then { l with state := .hem } else l

theorem hemmed_hemmed (l : Link) : hemmed (hemmed l) = hemmed l := by
  unfold hemmed
  by_cases h : canHem l.state = true
  · simp only [h, if_true]; rfl
  · simp only [h, if_false, Bool.false_eq_true]

theorem hemmed_state {l : Link} (h : canHem l.state = true) : (hemmed l).state = .hem := by
  simp only [hemmed, h, if_true]

theorem link_portToHem (s : State) (n m : Nat) : link (portToHem s n) m = if m = n then hemmed (link s n) else link s m := by
  unfold portToHem hemmed
  by_cases h : canHem (link s n).state = true
  · have hs : (link s n).state ≠ .hem := by intro h'; rw [h'] at h; exact absurd h (by decide)
    simp only [h, if_true, link_setPState, hs, ne_eq, not_false_eq_true, and_true]
  · simp only [h, if_false, Bool.false_eq_true]
    by_cases hm : m = n
    · simp [hm]
    · simp [hm]

/-- Each port of the list that is on ends in HEM, and the others are left alone. -/
theorem link_portsToHem (l : List Nat) (m : Nat) : ∀ s : State, link (portsToHem s l) m =
    if m ∈ l then hemmed (link s m) else link s m := by
  induction l with
  | nil => intro s; rfl
  | cons n t ih =>
    intro s
    rw [show portsToHem s (n :: t) = portsToHem (portToHem s n) t from rfl, ih, link_portToHem]
    by_cases hm : m = n
    · subst hm
      simp [hemmed_hemmed]
    · simp [hm]

/-! ### Doubts -/

/-- A doubt of Sleeve scope changes its Sleeve, the ports, the recorder and the pair; its Sleeve keeps the first record. -/
theorem raiseSleeve_frame (s : State) (sl bit eng bank cycle : Nat) : ∃ a b c d r q x, raiseSleeve s sl bit eng bank cycle =
    { setSleeve s sl x with links := a, ctls := b, shelf := c, cfg := d, recorder := r, pair := q }
    ∧ MarginOnly s.cfg d
    ∧ x.sticky = setBit (sleeve s sl).sticky bit ∧ x.held = true ∧ x.halting = true
    ∧ (sleeveDoubts (sleeve s sl).sticky = 0 → x.doubtRound = s.wheel.round ∧ x.doubtEngine = eng ∧ x.doubtDetail = bank * 4096 + cycle % 4096)
    ∧ ∀ m, tget {} a m = if m / 8 = sl then hemmed (link s m) else link s m := by
  unfold raiseSleeve
  dsimp only
  generalize hx : (if (sleeveDoubts (sleeve s sl).sticky == 0) = true then _ else _ : Sleeve) = x
  obtain ⟨a, b, c, d, h1, hd⟩ := portsToHem_frame (sleevePorts sl) (setSleeve s sl x)
  have hl : ∀ m, tget {} a m = if m / 8 = sl then hemmed (link s m) else link s m := by
    intro m
    have := link_portsToHem (sleevePorts sl) m (setSleeve s sl x)
    rw [h1] at this
    have hm : m ∈ sleevePorts sl ↔ m / 8 = sl := by
      simp only [sleevePorts, List.mem_map, List.mem_range]
      constructor
      · rintro ⟨j, hj, rfl⟩; omega
      · intro h; exact ⟨m % 8, by omega, by omega⟩
    simp only [hm] at this
    exact this
  generalize portsToHem (setSleeve s sl x) (sleevePorts sl) = s2 at h1
  obtain ⟨r, h2⟩ := addRecord_frame s2 16 s2.wheel.round ([1] ++ leBytes 2 sl ++ wordBytes x.sticky)
  generalize addRecord s2 16 s2.wheel.round ([1] ++ leBytes 2 sl ++ wordBytes x.sticky) = s3 at h2
  obtain ⟨r', h3⟩ := trigger_frame s3 0
  generalize trigger s3 0 = s4 at h3
  obtain ⟨q, h4⟩ := pairDoubt_frame s4 true
  refine ⟨a, b, c, d, r', q, x, by rw [h4, h3, h2, h1], hd, ?_, ?_, ?_, ?_, hl⟩
  · rw [← hx]; split <;> rfl
  · rw [← hx]; split <;> rfl
  · rw [← hx]; split <;> rfl
  · intro h; rw [← hx, if_pos (by simpa using h)]; exact ⟨rfl, rfl, rfl⟩

theorem sleeve_setSleeve_eq (s : State) (n k : Nat) (x : Sleeve) : sleeve (setSleeve s n x) k = if k = n then x else sleeve s k := by
  by_cases h : k = n
  · subst h; simp [sleeve, setSleeve]
  · simp [h, sleeve, setSleeve, tget_tset_other _ _ _ _ _ h]

/-- Every Sleeve is marked to halt. -/
theorem halting_frame (l : List Nat) : ∀ s : State, ∃ x,
    forAll l (fun s n => updSleeve s n fun x => { x with halting := true }) s = { s with arr := { s.arr with sleeves := x } }
    ∧ ∀ k, tget {} x k = if k ∈ l then { sleeve s k with halting := true } else sleeve s k := by
  induction l with
  | nil => intro s; exact ⟨s.arr.sleeves, rfl, fun k => rfl⟩
  | cons n t ih =>
    intro s
    obtain ⟨x, h1, h2⟩ := ih (updSleeve s n fun x => { x with halting := true })
    refine ⟨x, h1, fun k => ?_⟩
    rw [h2]
    unfold updSleeve
    rw [sleeve_setSleeve_eq]
    by_cases hk : k = n
    · subst hk
      simp
    · simp [hk]

/-- A doubt of controller scope changes the Hem, every Sleeve, the ports, the sequencer, the recorder and the pair. -/
theorem raiseCtrl_frame (s : State) (bit : Nat) : ∃ x a b c d q r y h, raiseCtrl s bit =
    { s with arr := { s.arr with sleeves := x }, links := a, ctls := b, shelf := c, cfg := d, sq := q, recorder := r,
             pair := y, hem := h }
    ∧ MarginOnly s.cfg d
    ∧ h.summary = setBit s.hem.summary bit ∧ h.held = true
    ∧ (s.hem.summary &&& 0x1F = 0 → h.firstCause = bit ∧ h.firstRound = s.wheel.round)
    ∧ (∀ k, tget {} x k = if k < 32 then { sleeve s k with halting := true } else sleeve s k)
    ∧ ∀ m, tget {} a m = if m ∈ linkPorts s then hemmed (link s m) else link s m := by
  unfold raiseCtrl
  dsimp only
  generalize hh : (if (s.hem.summary &&& 31 == 0) = true then _ else _ : Hem) = h
  generalize hs1 : { s with hem := h } = s1
  obtain ⟨x, h1, h1'⟩ := halting_frame allSleeves s1
  generalize forAll allSleeves (fun s n => updSleeve s n fun x => { x with halting := true }) s1 = s2 at h1
  obtain ⟨a, b, c, d, h2, hd⟩ := portsToHem_frame (linkPorts s2) s2
  have h2' := fun m => link_portsToHem (linkPorts s2) m s2
  generalize portsToHem s2 (linkPorts s2) = s3 at h2 h2'
  obtain ⟨q, h3⟩ := abandonShutdown_frame s3
  generalize abandonShutdown s3 = s4 at h3
  obtain ⟨r, h4⟩ := addRecord_frame s4 16 s4.wheel.round ([2] ++ leBytes 2 0 ++ wordBytes h.summary)
  generalize addRecord s4 16 s4.wheel.round ([2] ++ leBytes 2 0 ++ wordBytes h.summary) = s5 at h4
  obtain ⟨r', h5⟩ := trigger_frame s5 0
  generalize trigger s5 0 = s6 at h5
  obtain ⟨y, h6⟩ := pairDoubt_frame s6 (bit != 3 && bit != 0)
  have hc : s2.cfg = s.cfg := by rw [h1, ← hs1]
  rw [hc] at hd
  refine ⟨x, a, b, c, d, q, r', y, h, by rw [h6, h5, h4, h3, h2, h1, ← hs1], hd, ?_, ?_, ?_, fun k => ?_, fun m => ?_⟩
  · rw [← hh]; split <;> rfl
  · rw [← hh]; split <;> rfl
  · intro h0; rw [← hh, if_pos (by simpa using h0)]; exact ⟨rfl, rfl⟩
  · rw [h1', ← hs1]
    simp only [allSleeves, List.mem_range]; rfl
  · have := h2' m
    rw [h2, h1, ← hs1] at this
    exact this

end Sys2Proof.Machine
end

