-- ==== Sys2Proof/Laws/Server.lean ====
section
/-! SUPPORT. The dictionary server, once for every command that writes one object: which object it is, what an admitted
write does, and what each refusal leaves. -/
namespace Sys2Proof.Machine

open Sys2Proof

/-- A command of the table of objects is a write of its object. -/
theorem exec_objectOf {c : Instr} {s : State} {lvl : Level} {ix sub v : Nat} (h : objectOf c = some (lvl, ix, sub, v)) :
    exec c s = .next (cmd s lvl ix sub v) := by
  cases c <;> simp only [objectOf, reduceCtorEq, Option.some.injEq, Prod.mk.injEq] at h <;>
    obtain ⟨rfl, rfl, rfl, rfl⟩ := h <;> rfl

/-- With a server running a message counts, and its status is recorded. -/
theorem served_of {s : State} (h : Serves s) (f : State → Nat × State) :
    served s f = withStatus (f (taken s)).2 (f (taken s)).1 := by
  obtain ⟨h1, h2⟩ := h
  unfold served
  rw [h1, h2]
  rfl

/-- Without one nothing is executed. -/
theorem served_none {s : State} (h : ¬Serves s) (f : State → Nat × State) : served s f = withStatus s stState := by
  unfold served
  rw [if_pos]
  unfold Serves at h
  cases h1 : serverRuns s <;> cases h2 : s.boot.frozen <;> simp_all

/-- A refusal that changes nothing leaves the message counted. -/
theorem withStatus_taken (s : State) (st : Nat) : withStatus (taken s) st = answered s st := rfl

/-- The record to the mate and the status are independent. -/
theorem withStatus_sendCtrl (s : State) (c : Ctrl) (st : Nat) :
    withStatus (sendCtrl s c) st = sendCtrl (withStatus s st) c := by
  unfold sendCtrl
  show withStatus (if _ then _ else _) st = if (s.pair.role == .active && s.pair.link == 2) = true then _ else _
  by_cases h : (s.pair.role == .active && s.pair.link == 2) = true
  · rw [if_pos h, if_pos h]; rfl
  · rw [if_neg h, if_neg h]

/-- The gate and the parameters of the pattern do not see the message counter. -/
theorem gated_taken (s : State) (ix sub : Nat) : gated (taken s) ix sub = gated s ix sub := rfl

/-- The parameters of the pattern do not see the message counter. -/
theorem paramAt_taken (s : State) (ix sub : Nat) : paramAt (taken s) ix sub = paramAt s ix sub := rfl

/-- An admitted write has the effect of its object. -/
theorem cmd_admitted {s : State} {lvl : Level} {ix sub v : Nat} (h : Admits s lvl ix sub v) :
    cmd s lvl ix sub v = withStatus (effect (taken s) ix sub (dropReserved ix sub v)).2
      (effect (taken s) ix sub (dropReserved ix sub v)).1 := by
  obtain ⟨hs, ha, hp, hi, hg, r, hr, ht, hb, hv⟩ := h
  have h1 : objWrite (taken s) lvl ix sub v = effect (taken s) ix sub (dropReserved ix sub v) := by
    unfold objWrite rightWrite
    have h2 : ¬(11 ≤ r.ty ∨ r.ty = 1 ∧ 1 < v) := by
      rintro (h | ⟨h, h'⟩)
      · omega
      · exact absurd (hb h) (by omega)
    simp only [ha, ne_eq, not_true_eq_false, if_false, hr, h2, hv, Bool.not_true, Bool.false_eq_true, gated_taken,
      paramAt_taken, hp, hi, hg, ite_self]
  unfold cmd
  rw [served_of hs, h1]

/-- What a command of the table of objects does when its write is admitted. -/
theorem exec_admitted {c : Instr} {s : State} {lvl : Level} {ix sub v : Nat} (h : objectOf c = some (lvl, ix, sub, v))
    (ha : Admits s lvl ix sub v) :
    exec c s = .next (withStatus (effect (taken s) ix sub (dropReserved ix sub v)).2
      (effect (taken s) ix sub (dropReserved ix sub v)).1) := by
  rw [exec_objectOf h, cmd_admitted ha]

end Sys2Proof.Machine
end

