-- ==== Sys2Proof/Machine/Package.lean ====
section
/-! DEFINITION. The balls of the package (16): the rows of the array, the groups of balls, and the positions of the stage
link pairs and of the management signals (R430 to R432). -/
namespace Sys2Proof.Machine

/-- Letters of the rows of the array: I, O, Q, R, S, X and Z are not used (chapter 16, ball groups). -/
def rowLetters : List Char :=
  ['A', 'B', 'C', 'D', 'E', 'F', 'G', 'H', 'J', 'K', 'L', 'M', 'N', 'P', 'T', 'U', 'V', 'W', 'Y']

/-- Name of row r of 43: A to Y, then AA to AY, then BA to BE. -/
def rowName (r : Nat) : String :=
  let last := ((rowLetters[r % 19]?).getD 'A').toString
  match r / 19 with
  | 0 => last
  | 1 => "A" ++ last
  | _ => "B" ++ last

/-- The ball of SLn_P: row and column, counted from 0 and from 1; SLn_N lies in the next column (R431). -/
def slBall (n : Nat) : Nat × Nat :=
  let m := n % 128
  let j := m % 16
  ((if n < 128 then 0 else 35) + m / 16, 5 * (j / 2) + 2 + 2 * (j % 2))

/-- Balls of a group of the ball group table: first and last row, first and last column, signals or supply balls, VSS balls
(R430). -/
structure BallGroup where
  rows : Nat × Nat
  cols : Nat × Nat
  live : Nat
  vss : Nat
  deriving DecidableEq, Repr

/-- The ball group table (R430), in its order. -/
def ballGroups : List BallGroup :=
  [⟨(0, 7), (1, 43), 256, 88⟩, ⟨(35, 42), (1, 43), 256, 88⟩, ⟨(8, 17), (1, 4), 32, 8⟩, ⟨(18, 25), (1, 4), 32, 0⟩,
    ⟨(26, 34), (1, 4), 35, 1⟩, ⟨(8, 19), (40, 43), 48, 0⟩, ⟨(20, 31), (40, 43), 48, 0⟩,
     ⟨(32, 34), (40, 43), 6, 6⟩,
    ⟨(8, 34), (5, 39), 500, 445⟩]

/-- The management ball table (R432): the signals of rows AH to AU, columns 1 to 4. -/
def mgmtBalls : List (List String) :=
  [["SG0_TX_P", "SG0_TX_N", "SG0_RX_P", "SG0_RX_N"], ["SG1_TX_P", "SG1_TX_N", "SG1_RX_P", "SG1_RX_N"],
    ["VSS", "TCXO_IN", "XT32_IN", "XT32_OUT"], ["VBAT", "MDC", "MDIO", "PFAIL_N"], ["TCK", "TMS", "TDI", "TDO"],
    ["TRST_N", "RESET_N", "BOOT_MODE0", "BOOT_MODE1"], ["KILL_N", "HEM_N", "FREEZE_N", "CAP_N"],
    ["PFW_N", "SVC_BTN_N", "WHEEL_SYNC_IN", "WHEEL_SYNC_OUT"], ["WAKE_N0", "WAKE_N1", "WAKE_N2", "WAKE_N3"]]

end Sys2Proof.Machine
end

