-- ==== Sys2Proof/WellFormed.lean ====
section
/-! DEFINITION. Which commands are well formed: every operand has the length or the range that the spec gives the
thing it stands for. `exec` answers for every command; a sender sends well-formed ones. -/
namespace Sys2Proof

/-- A two-wire transaction fits the tunnel request table (R183). -/
def xferOk (x : Xfer) : Bool :=
  decide (x.bus.toNat < 2) && decide (x.addr.toNat < 128) && decide (x.flags.toNat < 4) && decide (x.wdata.length ≤ 255)
    && decide (1 ≤ x.timeout.toNat) && decide (x.timeout.toNat ≤ 1000)

/-- A command is well formed. -/
def wellFormed : Instr → Bool
  | .tick i => i.sense.length == 16
  | .seam => true
  | .seamClose => true
  | .angleValid .. => true
  | .feedLoss .. => true
  | .feedReturn .. => true
  | .lockAchieved => true
  | .lockLoss => true
  | .slip => true
  | .slipReturn => true
  | .syncPulse width _ _ => decide (0 < width)
  | .syncLoss => true
  | .wheelMode .. => true
  | .fMainsMax .. => true
  | .fMainsMin .. => true
  | .fNom .. => true
  | .overrunCheck .. => true
  | .scrub .. => true
  | .instrCrcCheck .. => true
  | .downlinkSnapshot => true
  | .resultWriteback _ cycle => decide (cycle < 4096)
  | .yokeArrival .. => true
  | .reductionResult cycle _ => decide (cycle < 4096)
  | .tallySweep .. => true
  | .nop .. => true
  | .unlistedOpcode .. => true
  | .add .. => true
  | .sub .. => true
  | .andR .. => true
  | .orR .. => true
  | .xorR .. => true
  | .shl .. => true
  | .shr .. => true
  | .sra .. => true
  | .min .. => true
  | .max .. => true
  | .minu .. => true
  | .maxu .. => true
  | .sexth .. => true
  | .zexth .. => true
  | .highh .. => true
  | .addi .. => true
  | .andi .. => true
  | .ori .. => true
  | .xori .. => true
  | .shifti .. => true
  | .movi .. => true
  | .movh .. => true
  | .sel .. => true
  | .cmpEq .. => true
  | .cmpNe .. => true
  | .cmpLt .. => true
  | .cmpLe .. => true
  | .cmpLtu .. => true
  | .cmpLeu .. => true
  | .cmpFeq .. => true
  | .cmpFne .. => true
  | .cmpFlt .. => true
  | .cmpFle .. => true
  | .pand .. => true
  | .por .. => true
  | .pxor .. => true
  | .pandn .. => true
  | .mul .. => true
  | .mulh .. => true
  | .mulhu .. => true
  | .qmul15 .. => true
  | .qmul31 .. => true
  | .qadd15 .. => true
  | .qsub15 .. => true
  | .qadd31 .. => true
  | .qsub31 .. => true
  | .mac .. => true
  | .msu .. => true
  | .macq15 .. => true
  | .msuq15 .. => true
  | .clra .. => true
  | .lda .. => true
  | .rdacc .. => true
  | .fadd .. => true
  | .fsub .. => true
  | .fmul .. => true
  | .fmin .. => true
  | .fmax .. => true
  | .fabs .. => true
  | .fneg .. => true
  | .i2f .. => true
  | .f2i .. => true
  | .q15f .. => true
  | .fq15 .. => true
  | .q31f .. => true
  | .fq31 .. => true
  | .fma .. => true
  | .fms .. => true
  | .fdiv .. => true
  | .fsqrt .. => true
  | .idiv .. => true
  | .udiv .. => true
  | .interp .. => true
  | .ld .. => true
  | .st .. => true
  | .stp .. => true
  | .lds .. => true
  | .ldsd .. => true
  | .sts .. => true
  | .stsd .. => true
  | .ysend .. => true
  | .yrecv .. => true
  | .yred .. => true
  | .yres .. => true
  | .tally .. => true
  | .extreme .. => true
  | .trip .. => true
  | .rdw .. => true
  | .rdflg .. => true
  | .clrflg .. => true
  | .repeatI .. => true
  | .ridx .. => true
  | .endround .. => true
  | .loadStart .. => true
  | .loadChecksComplete img => decide (img.portMap.length ≤ 256)
  | .commit .. => true
  | .commitStaging => true
  | .shadowReadback => true
  | .seedRounds .. => true
  | .exportedParameter .. => true
  | .parameterApply => true
  | .armDecision => true
  | .armApplyDeadline => true
  | .uplinkFrame _ f => f.rt.length == 40
  | .noFrame .. => true
  | .linkLost .. => true
  | .trainingWave => true
  | .trainingTimeout .. => true
  | .retrainStart .. => true
  | .mailboxResend .. => true
  | .fwRetrainTimeout .. => true
  | .downlinkFrame _ _ f => f.rt.length == 24
  | .feLocalTick _ m => m.samples.length == 12
  | .coast .. => true
  | .coastExpiry .. => true
  | .fastTrip .. => true
  | .ovLatch .. => true
  | .feRestart .. => true
  | .cfgWrite _ addr words => decide (1 ≤ words.length) && decide (words.length ≤ 255) && decide (addr < 65536)
  | .cfgRead _ addr count => decide (addr < 65536) && decide (count < 65536)
  | .cfgStage _ _ addr words => decide (1 ≤ words.length) && decide (words.length ≤ 255) && decide (addr < 65536)
  | .clearStatus .. => true
  | .telemSet _ stream _ decimate _ => decide (6 ≤ stream) && decide (stream ≤ 13)
    && decide (1 ≤ decimate) && decide (decimate ≤ 65535)
  | .cfgResult _ _ words => decide (words.length ≤ 255)
  | .fwStatus .. => true
  | .twXfer _ x => xferOk x
  | .twResult _ _ rdata => decide (rdata.length ≤ 255)
  | .event _ code age _ data => decide (data.length ≤ 32) && decide (code < 65536) && decide (age < 65536)
  | .fwBegin .. => true
  | .fwBlock _ _ _ data => decide (1 ≤ data.length) && decide (data.length ≤ 1024)
  | .fwEnd .. => true
  | .fwActivate .. => true
  | .telem _ queue _ _ _ => decide (6 ≤ queue) && decide (queue ≤ 13)
  | .diagEcho _ data => decide (data.length ≤ 1028)
  | .diagReply _ data => decide (data.length ≤ 1028)
  | .start .. => true
  | .stop .. => true
  | .onDelay .. => true
  | .rampComplete .. => true
  | .offDelay .. => true
  | .rampDownComplete .. => true
  | .overload .. => true
  | .satAction .. => true
  | .insDebounce .. => true
  | .insDelay .. => true
  | .inrushTimeout .. => true
  | .apply .. => true
  | .margin .. => true
  | .snap .. => true
  | .farEndPathWrite .. => true
  | .fastTripClear .. => true
  | .ovLatchClear .. => true
  | .stale .. => true
  | .xferCmd .. => true
  | .xferRampComplete => true
  | .suddenXfer => true
  | .holdup => true
  | .earlyWarning => true
  | .busCollapse => true
  | .shed => true
  | .capN .. => true
  | .capSelect .. => true
  | .tapLimitStep => true
  | .throttleSlot => true
  | .port .. => true
  | .longRest .. => true
  | .chargePulseEnd .. => true
  | .chargeRestEnd .. => true
  | .pmuIdRead .. => true
  | .packReset .. => true
  | .cwdExpiry => true
  | .cwdKick .. => true
  | .ichg .. => true
  | .vchg .. => true
  | .shipCmd .. => true
  | .shipExit => true
  | .svcBtnN .. => true
  | .svcReset .. => true
  | .run .. => true
  | .shutdown .. => true
  | .autoStart => true
  | .stepStart => true
  | .stepUp .. => true
  | .stepTimeout .. => true
  | .railFault .. => true
  | .pfwDeadline => true
  | .dieConversion codes => codes.length == 8
  | .supply .. => true
  | .killN .. => true
  | .clearController .. => true
  | .clearSleeve .. => true
  | .clearPort .. => true
  | .clearGroup .. => true
  | .hello .. => true
  | .arbitrationTimeout => true
  | .wheel block => block.length == 132
  | .wheelBlockDeadline => true
  | .store _ words => words.all fun x => decide (x.1 < 32) && decide (x.2.1 < 64)
  | .sweep line words => decide (line < 4096) && (words.length == 16)
  | .digest digests frameOk => digests.length == 32 && frameOk.length == 32
  | .ctrl .. => true
  | .laneDown .. => true
  | .takeover => true
  | .splitWithdraw => true
  | .handover .. => true
  | .withdraw .. => true
  | .ethernetFrame _ _ _ _ pcp _ _ _ _ => decide (pcp ≤ 7)
  | .canFdFrame _ _ data _ => decide (1 ≤ data.length) && decide (data.length ≤ 64)
  | .canReassemblyTimeout .. => true
  | .msgWrite _ data _ _ _ => decide (data.length ≤ 254)
  | .msgRead => true
  | .gwStatus => true
  | .openS .. => true
  | .close .. => true
  | .read _ items => decide (items.length ≤ 64)
  | .write _ items => decide (items.length ≤ 64)
  | .domainWrite _ b => decide (1 ≤ b.data.length) && decide (b.data.length ≤ 1024)
  | .domainRead .. => true
  | .subscribe .. => true
  | .urgent .. => true
  | .hush .. => true
  | .cap .. => true
  | .hushed .. => true
  | .subscriptionPeriod .. => true
  | .sessionIdleCheck => true
  | .closeSession .. => true
  | .levelKey .. => true
  | .imageKey .. => true
  | .members .. => true
  | .groupWrite .. => true
  | .objectWrite .. => true
  | .flush .. => true
  | .checkpoint => true
  | .fold .. => true
  | .powerFailDetect .. => true
  | .locate .. => true
  | .traceHold => true
  | .traceCopy => true
  | .traceNow .. => true
  | .release .. => true
  | .traceLen .. => true
  | .freezeN .. => true
  | .freeze .. => true
  | .xfer _ _ x => xferOk x
  | .twTransactionDone _ _ rdata => decide (rdata.length ≤ 255)
  | .stretchTimeout .. => true
  | .clear .. => true
  | .twAlert .. => true
  | .twoWireCtrl .. => true
  | .timerWrap .. => true
  | .compareEvent .. => true
  | .captureEdge .. => true
  | .capture .. => true
  | .timerPreloadWrite .. => true
  | .count .. => true
  | .countRead .. => true
  | .count64 .. => true
  | .set .. => true
  | .clr .. => true
  | .vauxRise => true
  | .resetN .. => true
  | .collarBootDone => true
  | .collarRestart .. => true
  | .tcxoLoss => true
  | .verificationComplete .. => true
  | .downloadTimeout .. => true
  | .dlAbort .. => true
  | .activate .. => true
  | .confirm .. => true
  | .trialConfirm => true
  | .fwFloor .. => true
  | .feLoad .. => true
  | .sleepCmd .. => true
  | .wake .. => true
  | .wakeN .. => true
  | .mateLinkUp => true
  | .internalResetEnd => true
  | .tcxoReturn => true
  | .smbalert .. => true
  | .tunnelTransactionDone _ _ rdata => decide (rdata.length ≤ 255)

end Sys2Proof
end

