-- ==== Sys2Proof/Tests/Slice0.lean ====
section
/-! SUPPORT. Tests: every check of `wellFormed` refuses an ill-formed command; a few results worked out by hand from the
rules named; and for every statement with hypotheses a state and operands that meet them (`witness_…`). Expected values
come from the spec, not from a run of the model. -/
namespace Sys2Proof.Tests

-- One theorem at a time: each evaluates in the kernel, and many at once would need too much memory.
set_option Elab.async false

open Sys2Proof Sys2Proof.Machine

/-! ### States for the tests -/

/-- The state that an outcome answers. -/
def ran (o : Host.Outcome State Fault Refusal) : State := match o with | .next t => t | _ => State.reset

/-- A unit alone whose Collar runs and whose engines have started. -/
def base : State := { State.reset with
  boot := { State.reset.boot with collarUp := true, coldP0 := false }, pair := { State.reset.pair with role := .solo }
  hem := { State.reset.hem with startHold := false }, arr := { State.reset.arr with started := true } }

/-- With engine 0 in a given condition. -/
def eng (x : Engine) : State := setEngine base 0 x
/-- With registers v1 and v2 of engine 0. -/
def ab (a b : Word) : State := eng { regs := [(1, a), (2, b)] }
/-- The predicate p0, taken as it stands. -/
def always : Pred := ⟨false, 0⟩
/-- v3 of engine 0 as an instruction that issues `k` cycles after the first one reads it, and the flags then. -/
def v3 (s : State) (c : Instr) (k : Nat) : Word × BitVec 16 :=
  (rreg (after s (ran (exec c s)) 0 k) 3, (after s (ran (exec c s)) 0 k).flags)

/-- With a port in a state, of a class, and its control side. -/
def port (s : State) (n : Nat) (l : Link) (c : Ctl) : State := setCtl (setLink s n l) n c
/-- With a port map entry for every port of a list, under the stock modules. -/
def served (s : State) (l : List (Nat × Byte)) : State :=
  { s with pat := { s.pat with run := { s.pat.run with stock := true, portMap := l.map fun x => (x.1, ⟨x.2, 0, 1⟩) } } }

def quiet : Mailbox := ⟨0, 0, 0, false, false, false, false, 0, []⟩
def noXfer : Xfer := ⟨0, 0x50, 0, 1, 10, []⟩

/-! ### Ill-formed commands -/

/-- The measures of a feed and a tick, frames and items for the checks below. -/
def feedOff : FeedMeas := ⟨0, 0, 0, 0⟩
def upFrame (n : Nat) : UpFrame :=
  let rt := List.replicate n 0
  let b := upBytes (mboxBytes 8192) 0 rt quiet
  ⟨120, dataGroups false (b ++ wordBytes (crc32 b)), crc32 b, 0, rt, quiet⟩
def downFrame (n : Nat) : DownFrame :=
  let d : DownFrame := ⟨[], true, 0, true, false, false, 0, 0, 0, false, 1, List.replicate n 0, quiet⟩
  let b := downBytes (mboxBytes 8192) (downHeader false d) d.rt quiet
  { d with crc := crc32 b, line := dataGroups true (b ++ wordBytes (crc32 b)) }
def bytes (n : Nat) : List Byte := List.replicate n 0

theorem test_illFormed_lengths : ∀ c ∈ [Instr.tick ⟨feedOff, feedOff, [], false, []⟩, .uplinkFrame 0 (upFrame 39), .downlinkFrame 0 false (downFrame 40),
    .feLocalTick 0 ⟨[], [], [], 0, 0, 0⟩, .dieConversion [0], .wheel (bytes 131), .sweep 0 [], .digest [] []], wellFormed c = false := by decide +kernel

theorem test_illFormed_ranges : ∀ c ∈ [Instr.syncPulse 0 0 0, .resultWriteback 0 4096, .reductionResult 4096 false, .sweep 4096 (List.replicate 16 0),
    .telemSet 0 5 true 1 0, .telemSet 0 14 true 1 0, .telemSet 0 6 true 0 0, .telemSet 0 6 true 65536 0, .telem 0 5 0 0 [], .telem 0 14 0 0 [],
    .cfgRead 0 65536 1, .cfgRead 0 0 65536, .cfgWrite 0 65536 [0], .cfgStage 0 1 65536 [0], .event 0 65536 0 0 [], .event 0 0 65536 0 [],
    .store 0 [(32, 0, 0)], .store 0 [(0, 64, 0)], .ethernetFrame 0 64 false none 8 ⟨48064, 0⟩ true 0 []], wellFormed c = false := by decide +kernel

theorem test_illFormed_counts : ∀ c ∈ [Instr.cfgWrite 0 0 [], .cfgWrite 0 0 (List.replicate 256 0), .cfgStage 0 1 0 [], .cfgStage 0 1 0 (List.replicate 256 0),
    .cfgResult 0 0 (List.replicate 256 0), .twResult 0 0 (bytes 256), .event 0 0 0 0 (bytes 33), .fwBlock 0 0 0 [], .fwBlock 0 0 0 (bytes 1025),
    .diagEcho 0 (bytes 1029), .diagReply 0 (bytes 1029), .canFdFrame 0 0 [] true, .canFdFrame 0 0 (bytes 65) true, .msgWrite 0 (bytes 255) true true true,
    .read ⟨0, 0, true⟩ (List.replicate 65 ⟨0x1000, 1⟩), .write ⟨0, 0, true⟩ (List.replicate 65 ⟨0x2001, 1, 5, [0]⟩),
    .domainWrite ⟨0, 0, true⟩ ⟨0x1801, 1, 0, 100, 0, []⟩, .domainWrite ⟨0, 0, true⟩ ⟨0x1801, 1, 0, 100, 0, bytes 1025⟩,
    .twTransactionDone 0 0 (bytes 256), .tunnelTransactionDone 0 0 (bytes 256),
    .loadChecksComplete { State.reset.pat.run with portMap := List.replicate 257 (0, ⟨0, 0, 0⟩) }], wellFormed c = false := by decide +kernel

theorem test_illFormed_transactions : ∀ x ∈ [{ noXfer with bus := 2 }, { noXfer with addr := 128 }, { noXfer with flags := 4 },
    { noXfer with wdata := bytes 256 }, { noXfer with timeout := 0 }, { noXfer with timeout := 1001 }],
    wellFormed (.twXfer 0 x) = false ∧ wellFormed (.xfer .operate 0 x) = false := by decide +kernel

theorem test_wellFormed : ∀ c ∈ [Instr.tick ⟨feedOff, feedOff, List.replicate 16 0, false, []⟩, .uplinkFrame 0 (upFrame 40), .downlinkFrame 0 false (downFrame 24),
    .syncPulse 1 0 0, .resultWriteback 0 4095, .telemSet 0 13 true 65535 0, .cfgWrite 0 65535 (List.replicate 255 0), .fwBlock 0 0 0 (bytes 1024),
    .twXfer 0 noXfer, .wheel (bytes 132), .sweep 4095 (List.replicate 16 0), .domainWrite ⟨0, 0, true⟩ ⟨0x1801, 1, 0, 100, 0, bytes 1⟩],
    wellFormed c = true := by decide +kernel

/-! ### Engine instructions -/

/-- R97: sums wrap and set nothing; 0xFFFF_FFFF + 2 is 1, and the result is there one cycle later, not at once (R91). -/
theorem test_add_wraps : v3 (ab 0xFFFFFFFF 2) (.add 0 always 3 1 2) 1 = (1, 0) ∧ v3 (ab 0xFFFFFFFF 2) (.add 0 always 3 1 2) 0 = (0, 0) := by
  decide +kernel

/-- Shifts use bits 4:0 of vb: 33 shifts by 1, 63 by 31. -/
theorem test_shifts_use_five_bits : v3 (ab 1 33) (.shl 0 always 3 1 2) 1 = (2, 0) ∧ v3 (ab 0x80000000 63) (.sra 0 always 3 1 2) 1 = (0xFFFFFFFF, 0)
    ∧ v3 (ab 0x80000000 63) (.shr 0 always 3 1 2) 1 = (1, 0) := by decide +kernel

theorem test_signed_and_unsigned_order : v3 (ab 0xFFFFFFFF 1) (.min 0 always 3 1 2) 1 = (0xFFFFFFFF, 0)
    ∧ v3 (ab 0xFFFFFFFF 1) (.minu 0 always 3 1 2) 1 = (1, 0) := by decide +kernel

theorem test_halfwords_extend : v3 (ab 0x12348000 0) (.sexth 0 always 3 1) 1 = (0xFFFF8000, 0)
    ∧ v3 (ab 0x12348000 0) (.zexth 0 always 3 1) 1 = (0x8000, 0) ∧ v3 (ab 0x80001234 0) (.highh 0 always 3 1) 1 = (0xFFFF8000, 0) := by decide +kernel

/-- MOVH keeps bits 15:0 of vd; ADDI extends its immediate by sign, ORI by zeros. -/
theorem test_immediates : v3 (eng { regs := [(3, 0xAAAA5555)] }) (.movh 0 always 3 0x1234) 1 = (0x12345555, 0)
    ∧ v3 (ab 1 0) (.addi 0 always 3 1 0xFFF) 1 = (0, 0) ∧ v3 (ab 0 0) (.ori 0 always 3 1 0xFFF) 1 = (0xFFF, 0) := by decide +kernel

/-- v0 reads 0 and takes no value (R89). -/
theorem test_v0_stays_zero : rreg (after (ab 5 6) (ran (exec (.add 0 always 0 1 2) (ab 5 6))) 0 5) 0 = 0 := by decide +kernel

/-- R97: the high half of (-1) * (-1) is 0, unsigned it is 0xFFFF_FFFE. -/
theorem test_high_products : v3 (ab 0xFFFFFFFF 0xFFFFFFFF) (.mulh 0 always 3 1 2) 2 = (0, 0)
    ∧ v3 (ab 0xFFFFFFFF 0xFFFFFFFF) (.mulhu 0 always 3 1 2) 2 = (0xFFFFFFFE, 0) := by decide +kernel

/-- R99: -1 times -1 in Q15 is 1, which clamps to 0x7FFF with SAT. -/
theorem test_qmul15_clamps : v3 (ab 0x8000 0x8000) (.qmul15 0 always 3 1 2) 2 = (0x7FFF, 0x10) := by decide +kernel

theorem test_qsub31_clamps : v3 (ab 0x80000000 1) (.qsub31 0 always 3 1 2) 1 = (0x80000000, 0x10) := by decide +kernel

/-- R100: RDACC of 3 with a shift of 1 rounds to 2; of 2^40 it clamps. -/
theorem test_rdacc_rounds_and_clamps : v3 (eng { acc0 := 3 }) (.rdacc 0 always 3 false 1) 1 = (2, 0)
    ∧ v3 (eng { acc1 := 0x10000000000 }) (.rdacc 0 always 3 true 0) 1 = (0x7FFFFFFF, 0x10) := by decide +kernel

/-- The accumulator clamps at 2^63 - 1 with SAT, three cycles later. -/
theorem test_mac_clamps :
    let s := eng { regs := [(1, 1), (2, 1)], acc0 := 0x7FFFFFFFFFFFFFFF }
    let x := after s (ran (exec (.mac 0 always false 1 2) s)) 0 3
    racc x false = 0x7FFFFFFFFFFFFFFF ∧ x.flags = 0x10 := by decide +kernel

/-- 1.0 + 2^-24 lies half way and rounds to the even 1.0; 1.0 + 1.0 is 2.0. -/
theorem test_fadd_ties_to_even : v3 (ab 0x3F800000 0x33800000) (.fadd 0 always 3 1 2) 3 = (0x3F800000, 0)
    ∧ v3 (ab 0x3F800000 0x3F800000) (.fadd 0 always 3 1 2) 3 = (0x40000000, 0) := by decide +kernel

/-- R101: 0 times infinity is invalid; the least normal halved is flushed with UF; the greatest doubled overflows. -/
theorem test_fmul_corners : v3 (ab 0 0x7F800000) (.fmul 0 always 3 1 2) 3 = (0x7FC00000, 1)
    ∧ v3 (ab 0x00800000 0x3F000000) (.fmul 0 always 3 1 2) 3 = (0, 8)
    ∧ v3 (ab 0x7F7FFFFF 0x40000000) (.fmul 0 always 3 1 2) 3 = (0x7F800000, 4) := by decide +kernel

/-- R102: FMS is vd - va * vb: 7 - 2 * 3 = 1. -/
theorem test_fms : v3 (eng { regs := [(1, 0x40000000), (2, 0x40400000), (3, 0x40E00000)] }) (.fms 0 always 3 1 2) 4 = (0x3F800000, 0) := by
  decide +kernel

/-- R102: +0 counts as larger than -0. -/
theorem test_fmax_of_zeros : v3 (ab 0x80000000 0) (.fmax 0 always 3 1 2) 1 = (0, 0) ∧ v3 (ab 0 0x80000000) (.fmin 0 always 3 1 2) 1 = (0x80000000, 0) := by
  decide +kernel

/-- R103: 2.5 converts to 2 (even), 10^10 clamps with SAT, a NaN gives 0 with NV; 0x4000 in Q15 is 0.5. -/
theorem test_conversions : v3 (ab 0x40200000 0) (.f2i 0 always 3 1) 3 = (2, 0) ∧ v3 (ab 0x501502F9 0) (.f2i 0 always 3 1) 3 = (0x7FFFFFFF, 0x10)
    ∧ v3 (ab 0x7FC00000 0) (.f2i 0 always 3 1) 3 = (0, 1) ∧ v3 (ab 0x4000 0) (.q15f 0 always 3 1) 3 = (0x3F000000, 0) := by decide +kernel

/-- R101, R98: 1.0 / 0 is infinity with DZ; -7 / 2 truncates to -3; the square root of 4.0 is 2.0. -/
theorem test_divisions : v3 (ab 0x3F800000 0) (.fdiv 0 always 3 1 2) 12 = (0x7F800000, 2)
    ∧ v3 (ab 0xFFFFFFF9 2) (.idiv 0 always 3 1 2) 12 = (0xFFFFFFFD, 0) ∧ v3 (ab 0x40800000 0) (.fsqrt 0 always 3 1) 12 = (0x40000000, 0) := by
  decide +kernel

/-- R105: an instruction of the divider in a cycle in which it is held delivers nothing and sets DIV_BUSY. -/
theorem test_divider_busy : v3 (eng { regs := [(1, 6), (2, 2), (3, 9)], cycle := 11, divFree := 12 }) (.udiv 0 always 3 1 2) 12 = (9, 0x20)
    ∧ v3 (eng { regs := [(1, 6), (2, 2), (3, 9)], cycle := 12, divFree := 12 }) (.udiv 0 always 3 1 2) 12 = (3, 0) := by decide +kernel

/-- R106: a table of 2 points from X0 = 0 with step 1 and values 1.0, 3.0: 0.5 gives 2.0; above its end 2.0 clamps to 3.0. -/
def lutState (x : Word) : State :=
  let m := [(0, 2), (4, 0), (8, 0x3F800000), (12, 0x3F800000), (16, 0x40400000)].foldl (fun m x => mputWord m x.1 x.2) ([] : Mem)
  { ab x 0 with arr := { (ab x 0).arr with dmem := m } }

theorem test_interp : v3 (lutState 0x3F000000) (.interp 0 always 3 1 2) 4 = (0x40000000, 0)
    ∧ v3 (lutState 0x40000000) (.interp 0 always 3 1 2) 4 = (0x40400000, 0x200) := by decide +kernel

/-- R107: ST at 0xEFC stores; at 0xF00 it is discarded and sets PST_STORE. -/
theorem test_st_stops_at_the_persistent_words :
    mword (ran (exec (.st 0 always 1 2 0) (ab 7 0xEFF))).arr.dmem 0xEFC = 7
    ∧ (ran (exec (.st 0 always 1 2 0) (ab 7 0xF00))).arr.dmem = [] ∧ hasBit (sleeve (ran (exec (.st 0 always 1 2 0) (ab 7 0xF00))) 0).sticky 9 = true := by
  decide +kernel

/-- R108: at W = 8,192 the budget is 4 STPs. -/
theorem test_stp_budget : mword (ran (exec (.stp 0 always 1 1) (eng { regs := [(1, 7)], stps := 3 }))).arr.dmem 0xF04 = 7
    ∧ (ran (exec (.stp 0 always 1 1) (eng { regs := [(1, 7)], stps := 4 }))).arr.dmem = [] := by decide +kernel

/-- R113: selector 5 is W, selector 7 is reserved. -/
theorem test_rdw : v3 base (.rdw 0 always 3 5) 1 = (8192, 0) ∧ v3 base (.rdw 0 always 3 7) 1 = (0, 0x40) := by decide +kernel

/-- R115: REPEAT with LEN 0 sets ILL_OP; a well-formed one opens a level. -/
theorem test_repeat : (engine (ran (exec (.repeatI 0 0 4 0) base)) 0).flags = 0x40
    ∧ (engine (ran (exec (.repeatI 0 0 4 2) base)) 0).reps = [⟨1, 2, 0, 4⟩] := by decide +kernel

/-- R88: under a false predicate nothing but the cycle passes. -/
theorem test_false_predicate : v3 (ab 5 6) (.add 0 ⟨true, 0⟩ 3 1 2) 5 = (0, 0) ∧ (engine (ran (exec (.add 0 ⟨true, 0⟩ 3 1 2) (ab 5 6))) 0).pc = 1 := by
  decide +kernel

/-- R87, R96: the spec's example FMUL v10, v4, v20 and ENDROUND are listed; FN 3 of the FPU and opcode 0x07 are not. -/
theorem test_listed_words : listedWord 0x06144A02 = true ∧ listedWord 0x0FC00000 = true ∧ listedWord 0x06144A03 = false ∧ listedWord 0x01C00000 = false := by
  decide +kernel

theorem test_unlisted_sets_illegal : (engine (ran (exec (.unlistedOpcode 0 0x01C00000) base)) 0).flags = 0x40 := by decide +kernel

/-! ### Witnesses: engines -/

/-- A state with windows, slots and messages for engine 0 of Sleeve 0. -/
def granted (s : State) : State := { s with pat := { s.pat with run := { s.pat.run with
  windows := [⟨0, 0, 2, 0, 100, true⟩, ⟨0, 0, 3, 0, 100, false⟩, ⟨0, 0, 16, 0, 100, true⟩],
  sends := [⟨0, 0, 0, 1, 63⟩], reds := [⟨0, false, 15, [(0, 0), (1, 32)]⟩] } } }

theorem issues_of {s : State} {e : Nat} {p : Pred} (h : (canIssue s e && upsetAt s (imemKey e (engine s e).pc) == 0
    && predOk (found s e) p) = true) : Issues s e p := by
  simpa [Issues, MayIssue, FetchClean] using h

theorem clear_of {s : State} {e : Nat} {d : Dest} (h : (found s e).flight = []) : Clear s e d := by
  intro g hg; rw [h] at hg; cases hg

theorem clear_ab (a b : Word) (d : Dest) : Clear (ab a b) 0 d := clear_of rfl

theorem issues_ab (a b : Word) : Issues (ab a b) (0 : EngineId) always := ⟨⟨rfl, rfl⟩, rfl⟩
theorem ab_v1 (a b : Word) : rreg (found (ab a b) (0 : EngineId)) (1 : Reg).toNat = a := rfl
theorem ab_v2 (a b : Word) : rreg (found (ab a b) (0 : EngineId)) (2 : Reg).toNat = b := rfl

theorem witness_integer_instructions : Issues (ab 1 2) (0 : EngineId) always ∧ Clear (ab 1 2) (0 : EngineId) (.reg (3 : Reg).toNat)
    ∧ ∀ x ∈ [((0x1F : BitVec 12), 0), (0x3F, 1), (0x40, 2), (0x60, 3)], x.1.toNat / 32 % 4 = x.2 :=
  ⟨issues_of (by decide +kernel), clear_ab _ _ _, by decide +kernel⟩

theorem witness_fixed_point_ranges : ∀ r ∈ [((16 : Nat), (-32768 : Int), (32767 : Int)), (32, -2147483648, 2147483647)],
    (r.2.1 ≤ r.2.1 ∧ r.2.2 ≤ r.2.2) ∧ r.2.1 - 1 < r.2.1 ∧ r.2.2 < r.2.2 + 1 := by decide +kernel

theorem witness_exact_floats : f32IsNaN 0x7F800001 = true
    ∧ (f32Exp 0x3F800000 ≠ 255 ∧ f32Exp 0x40000000 ≠ 255 ∧ f32Exp 0x40400000 ≠ 0)
    ∧ f32Val 0x3F800000 + f32Val 0x40000000 = f32Val 0x40400000 ∧ f32Val 0x3F800000 - f32Val 0x40000000 = f32Val 0xBF800000
    ∧ f32Val 0x3F800000 * f32Val 0x40000000 = f32Val 0x40000000 ∧ f32Val 0x3F800000 / f32Val 0x40000000 = f32Val 0x3F000000
    ∧ f32Val 0x3F800000 * f32Val 0x40000000 + f32Val 0x3F800000 = f32Val 0x40400000 := by decide +kernel

theorem witness_predicates : Issues (ab 1 2) (0 : EngineId) always ∧ Clear (ab 1 2) (0 : EngineId) (.pred (7 : BitVec 3).toNat) :=
  ⟨issues_of (by decide +kernel), clear_ab _ _ _⟩

theorem witness_float_compares : Issues (ab 0x7FC00000 0) (0 : EngineId) always ∧ Clear (ab 0x7FC00000 0) (0 : EngineId) (.pred (1 : BitVec 3).toNat)
    ∧ f32IsNaN (rreg (found (ab 0x7FC00000 0) (0 : EngineId)) (1 : Reg).toNat) = true
    ∧ Issues (ab 0 0x80000000) (0 : EngineId) always ∧ Clear (ab 0 0x80000000) (0 : EngineId) (.pred (1 : BitVec 3).toNat)
    ∧ rreg (found (ab 0 0x80000000) (0 : EngineId)) (1 : Reg).toNat = 0 ∧ rreg (found (ab 0 0x80000000) (0 : EngineId)) (2 : Reg).toNat = 0x80000000 :=
  ⟨issues_of (by decide +kernel), clear_ab _ _ _, by decide +kernel, issues_of (by decide +kernel), clear_ab _ _ _, by decide +kernel, by decide +kernel⟩

theorem witness_two_macs :
    let t := ran (exec (.mac 0 always true 1 2) (ab 3 4))
    Issues (ab 3 4) (0 : EngineId) always ∧ Clear (ab 3 4) (0 : EngineId) (.acc true) ∧ Clear (ab 3 4) (0 : EngineId) (.reg (3 : Reg).toNat)
      ∧ exec (.mac 0 always true 1 2) (ab 3 4) = .next t ∧ Issues t (0 : EngineId) always :=
  ⟨issues_of (by decide +kernel), clear_ab _ _ _, clear_ab _ _ _, rfl, issues_of (by decide +kernel)⟩

theorem witness_divider : ∀ x ∈ [((11 : Nat), false), (12, true)],
    let s := eng { regs := [(1, 6), (2, 2)], cycle := x.1, divFree := 12 }
    (canIssue s 0 && predOk (found s 0) always) = true ∧ (found s 0).flight = []
      ∧ decide ((engine s (0 : EngineId)).divFree ≤ (engine s (0 : EngineId)).cycle) = x.2 := by decide +kernel

theorem witness_integer_division (a b : Word) : Issues (ab a b) (0 : EngineId) always ∧ Clear (ab a b) (0 : EngineId) (.reg (3 : Reg).toNat)
    ∧ (engine (ab a b) (0 : EngineId)).divFree ≤ (engine (ab a b) (0 : EngineId)).cycle
    ∧ rreg (found (ab a b) (0 : EngineId)) (1 : Reg).toNat = a ∧ rreg (found (ab a b) (0 : EngineId)) (2 : Reg).toNat = b :=
  ⟨issues_ab a b, clear_ab a b _, Nat.le_refl 0, rfl, rfl⟩

/-- The operands at which its clauses meet. -/
theorem witness_integer_division_operands : ((0x80000000 : Word) = 0x80000000 ∧ (0xFFFFFFFF : Word) = 0xFFFFFFFF)
    ∧ ((1 : Word) ≠ 0 ∧ ¬((0x80000000 : Word) = 0x80000000 ∧ (1 : Word) = 0xFFFFFFFF)) ∧ 0 ≤ (0 : Word).toInt ∧ ¬(0 ≤ (0x80000000 : Word).toInt) := by
  decide +kernel

theorem witness_false_predicate : predOf (.trip 0 ⟨true, 0⟩ 1 1) = some (0, ⟨true, 0⟩) ∧ canIssue base (0 : EngineId) = true
    ∧ predOk (found base (0 : EngineId)) ⟨true, 0⟩ = false ∧ listedWord 0x01C00000 = false ∧ predOk (found base 0) (wPred 0x01C00000) = true
    ∧ listedWord 0x81C00000 = false ∧ predOk (found base 0) (wPred 0x81C00000) = false := by decide +kernel

theorem witness_data_memory : ∀ x ∈ [((0xEFF : Word), (0xEFC : Nat)), (0xF00, 0xF00), (0xFFFFFFFF, 0xFFC)],
    let s := ab 7 x.1
    (canIssue s 0 && predOk (found s 0) always) = true ∧ (found s 0).flight = []
      ∧ ((rreg (found s 0) (2 : Reg).toNat + (0 : BitVec 12).signExtend 32) &&& 0xFFC).toNat = x.2 := by decide +kernel

theorem witness_shared_memory : Issues (granted (ab 7 0x2FFF)) (0 : EngineId) always ∧ Clear (granted (ab 7 0x2FFF)) (0 : EngineId) (.reg 3)
    ∧ windowOk (granted (ab 7 0x2FFF)) (0 : EngineId) (((0x2FFF : Word) &&& 0xFFFC).toNat / 4096) 0 true = true
    ∧ windowOk (granted (ab 7 0x2FFF)) (0 : EngineId) (((0x2FFF : Word) &&& 0xFFFC).toNat / 4096) 0 false = true :=
  ⟨issues_of (by decide +kernel), clear_of rfl, by decide +kernel, by decide +kernel⟩

theorem witness_store_budget : ∀ x ∈ [((4096 : Nat), (8 : Nat)), (8192, 4), (16384, 2)],
    let s (k : Nat) : State := { eng { stps := k } with wheel := { base.wheel with w := x.1 } }
    (canIssue (s x.2) 0 && predOk (found (s x.2) 0) always) = true ∧ (canIssue (s (x.2 - 1)) 0 && predOk (found (s (x.2 - 1)) 0) always) = true
      ∧ (engine (s (x.2 - 1)) 0).stps < (if (s 0).wheel.w = 4096 then 8 else if (s 0).wheel.w = 8192 then 4 else 2)
      ∧ (if (s 0).wheel.w = 4096 then 8 else if (s 0).wheel.w = 8192 then 4 else 2) ≤ (engine (s x.2) 0).stps := by decide +kernel

theorem witness_muted_store : (sleeve (setSleeve base 0 { seedMute := true }) 0).seedMute = true ∧ (sleeve base 0).seedMute = false
    ∧ Issues (setSleeve base 0 { seedMute := true }) (0 : EngineId) always :=
  ⟨by decide +kernel, by decide +kernel, issues_of (by decide +kernel)⟩

theorem witness_ungranted : windowOk (granted (ab 7 0x1000)) (0 : EngineId) 1 0 false = false ∧ windowOk (granted (ab 7 0x3000)) (0 : EngineId) 3 0 true = false
    ∧ windowOk base (0 : EngineId) 16 0 true = false ∧ (∀ t ∈ sendsOf base 0, ¬(t.cycle = 0 ∧ t.sleeve = 0 ∧ t.engine = 0 % 32))
    ∧ (∀ t ∈ redsOf base 0, ¬(t.cycle = 0 ∧ (0, 0 % 32) ∈ t.contributors)) ∧ (sleeve base 0).sticky &&& 0x7F = 0
    ∧ canHem (link (port base 7 { state := .running } {}) 7).state = true := by decide +kernel

theorem witness_yoke : Issues (granted (ab 7 9)) (0 : EngineId) always
    ∧ (sendsOf (granted (ab 7 9)) 0).find? (fun t => t.cycle == 0 && t.sleeve == 0 && t.engine == 0) = some ⟨0, 0, 0, 1, 63⟩
    ∧ { base with arr := { base.arr with yoke := [⟨6, 0, 1, 5⟩, ⟨6, 1, 63, 7⟩] } }.arr.yoke = [⟨6, 0, 1, 5⟩] ++ ⟨6, 1, 63, 7⟩ :: []
    ∧ (∀ g ∈ [(⟨6, 0, 1, 5⟩ : YokeMsg)], g.dst ≠ 1)
    ∧ recvWord (setSleeve base 0 { rx := [⟨6, 63, some 7⟩] }) 0 (63 : BitVec 6).toNat 6 = some 7
    ∧ recvWord (setSleeve base 0 { rx := [⟨6, 63, some 7⟩] }) 0 (63 : BitVec 6).toNat 5 = none
    ∧ Clear base (0 : EngineId) (.reg ((31 : Reg) &&& 0x1E).toNat) ∧ Clear base (0 : EngineId) (.reg ((31 : Reg) ||| 1).toNat) :=
  ⟨issues_of (by decide +kernel), by decide +kernel, by decide +kernel, by decide +kernel, by decide +kernel, by decide +kernel, clear_of rfl, clear_of rfl⟩

theorem witness_reductions :
    let s := granted (ab 7 9)
    let t0 : RedSlot := ⟨0, false, 15, [(0, 0), (1, 32)]⟩
    let u := { s with arr := { s.arr with reds := [⟨30, true, 1, []⟩, ⟨12, false, 15, [(1, 5)]⟩] } }
    (redsOf s 0).find? (fun t => t.cycle == 0 && t.contributors.contains (0, 0)) = some t0
      ∧ (∀ m ∈ s.arr.reds, ofSlot t0 m = false) ∧ Issues u (0 : EngineId) always
      ∧ u.arr.reds = [⟨30, true, 1, []⟩] ++ ⟨12, false, 15, [(1, 5)]⟩ :: [] ∧ ofSlot t0 ⟨12, false, 15, [(1, 5)]⟩ = true
      ∧ (∀ g ∈ [(⟨30, true, 1, []⟩ : RedMsg)] ++ [], ofSlot t0 g = false)
      ∧ (slotsNow s).filter (fun t => t.cycle == 0 && !slotDone s t) = [t0] ∧ slotsNow s = [] ++ t0 :: []
      ∧ (∀ d ∈ s.arr.resNew, d.res ≠ t0.res) ∧ slotsNow base = [] ∧ (11 < t0.cycle + 12 ∧ t0.cycle + 12 ≤ 12) :=
  ⟨by decide +kernel, by decide +kernel, issues_of (by decide +kernel), by decide +kernel, by decide +kernel, by decide +kernel, by decide +kernel,
    by decide +kernel, by decide +kernel, by decide +kernel, by decide⟩

theorem witness_tallies (a : Word) : Issues (granted (ab a 0)) (0 : EngineId) always ∧ windowOk (granted (ab a 0)) (0 : EngineId) 16 0 true = true
    ∧ rreg (found (granted (ab a 0)) (0 : EngineId)) (1 : Reg).toNat = a := ⟨⟨⟨rfl, rfl⟩, rfl⟩, rfl, rfl⟩

/-- Bins 1,535 and 1,536, a bin that is full, and a NaN. -/
theorem witness_tally_operands : ((1535 : Word) + (0 : BitVec 12).signExtend 32).toNat < 1536 ∧ 1536 ≤ ((1536 : Word) + (0 : BitVec 12).signExtend 32).toNat
    ∧ tget 0 [((1535 : Nat), (0xFFFFFFFF : Word))] 1535 = 0xFFFFFFFF ∧ f32IsNaN 0x7FC00000 = true ∧ f32IsNaN 0x3F800000 = false := by decide +kernel

theorem witness_round_hardware : bodyRuns base (0 : EngineId) = true ∧ (engine base (0 : EngineId)).ended = false ∧ scrubRuns base = true
    ∧ domainRuns base = true ∧ Issues base (0 : EngineId) always ∧ tfind (sleeve base 0).trips (7 : BitVec 3).toNat = none
    ∧ tfind (sleeve (setSleeve base 0 { trips := [(7, (0, 3, 1))] }) 0).trips (7 : BitVec 3).toNat = some (0, 3, 1) :=
  ⟨by decide +kernel, by decide +kernel, by decide +kernel, by decide +kernel, issues_of (by decide +kernel), by decide +kernel, by decide +kernel⟩

theorem ne_add_one (x : Word) : x ≠ x + 1 := by bv_omega

/-- Engine 0's bank is empty and ENGINE_CRC names one more than the CRC of such a bank. -/
def mismatch : State := { base with
  arr := { base.arr with scrubWhole := true }, wheel := { base.wheel with ris := 1023 }
  pat := { base.pat with run := { base.pat.run with engineCrc := [(0, zeroBankCrc + 1)] } } }

theorem witness_bank_mismatch : scrubRuns mismatch = true ∧ mismatch.arr.scrubWhole = true ∧ mismatch.wheel.ris = 1023
    ∧ bankCrc (bankWords mismatch.arr.imem (0 : EngineId)) ≠ recordedCrc mismatch.pat.run (0 : EngineId) :=
  ⟨rfl, rfl, rfl, ne_add_one zeroBankCrc⟩

theorem witness_repeat : canIssue base (0 : EngineId) = true
    ∧ ((0 : BitVec 4) = 0 ∧ (1023 : BitVec 10) ≠ 0 ∧ (engine base (0 : EngineId)).reps = [])
    ∧ (let s := eng { reps := [⟨1, 10, 0, 0⟩], pc := 5 }
       canIssue s (0 : EngineId) = true ∧ ∃ o, (engine s (0 : EngineId)).reps = [o] ∧ (engine s (0 : EngineId)).pc + 1 + (5 : BitVec 10).toNat ≤ o.start + o.len)
    ∧ ¬((0 : BitVec 10) ≠ 0) :=
  ⟨by decide +kernel, by decide +kernel, ⟨by decide +kernel, _, rfl, by decide +kernel⟩, by decide +kernel⟩

theorem witness_repeat_levels : (3 ≠ (⟨1, 4, 0, 2⟩ : RepLevel).start + (⟨1, 4, 0, 2⟩ : RepLevel).len)
    ∧ (5 = (⟨1, 4, 1, 2⟩ : RepLevel).start + (⟨1, 4, 1, 2⟩ : RepLevel).len ∧ (⟨1, 4, 1, 2⟩ : RepLevel).iter < (⟨1, 4, 1, 2⟩ : RepLevel).last)
    ∧ (⟨1, 4, 2, 2⟩ : RepLevel).last ≤ (⟨1, 4, 2, 2⟩ : RepLevel).iter := by decide +kernel

/-- With words under ECC that are upset. -/
def upset (l : Tab Nat) (s : State) : State := { s with arr := { s.arr with upsets := l } }

/-- A word of data memory, of shared memory and of the instruction bank with a single-bit and with an uncorrectable error;
after the ST, LDS and STS of engine 0 at address 0xEFF and 0x2FFF. -/
theorem witness_upsets : (∀ v ∈ [(1 : Nat), 2],
      let s := upset [(dmemKey 0 0x3BF, v)] (ab 7 0xEFF)
      (canIssue s 0 && upsetAt s (imemKey 0 (engine s 0).pc) == 0 && predOk (found s 0) always) = true ∧ (found s 0).flight = []
        ∧ ((rreg (found s 0) (2 : Reg).toNat + (0 : BitVec 12).signExtend 32) &&& 0xFFC).toNat / 4 = 0x3BF
        ∧ upsetAt s (dmemKey (0 : EngineId) 0x3BF) = v ∧ (sleeve s ((0 : EngineId) / 32)).corrected ≠ 0xFFFFFFFF)
    ∧ (∀ k, upsetAt base (dmemKey (0 : EngineId) k) = 0)
    ∧ upsetAt (granted (ab 7 0x2FFF)) (shmEccKey 0 0x2FF8) = 0
    ∧ canIssue (upset [(imemKey 0 0, 1)] base) (0 : EngineId) = true
    ∧ upsetAt (upset [(imemKey 0 0, 1)] base) (imemKey (0 : EngineId) (engine base (0 : EngineId)).pc) = 1 :=
  ⟨by decide +kernel, fun _ => rfl, by decide +kernel, by decide +kernel, by decide +kernel⟩

/-- In round 0 the scrubber reads word 0 of every instruction bank, and not the last double word of a shared memory. -/
theorem witness_scrubbed : quietMemory base = true ∧ quietMemory (upset [(tallyKey 0 0, 1)] base) = false
    ∧ scrubRuns (upset [(imemKey 0 0, 1)] base) = true
    ∧ ([imemKey 0 0, shmEccKey 31 0xFFF8].map fun k => (scrubPlace base k).isSome) = [true, false] := by decide +kernel

/-- A word on its way and one that has arrived, read before and after its sixth cycle. -/
theorem witness_received :
    let s : State := { setSleeve base 0 { rx := [⟨6, 63, some 7⟩, ⟨9, 63, none⟩] } with arr := { (setSleeve base 0 { rx := [⟨6, 63, some 7⟩, ⟨9, 63, none⟩] }).arr with yoke := [⟨8, 0, 63, 5⟩] } }
    recvWord s 0 63 5 = none ∧ recvWord s 0 63 6 = some 7 ∧ recvWord s 0 63 7 = some 7 ∧ recvWord s 0 63 8 = some 5 ∧ recvWord s 0 63 9 = none
      ∧ recvWord s 0 62 9 = none := by decide +kernel

/-- R116, R117: an ENDROUND in cycle L - 64 is too late, one in cycle L - 65 is not. -/
theorem witness_overrun : (let s := eng { ended := true, cycle := base.wheel.l - 63 }
      bodyRuns s (0 : EngineId) = true ∧ s.wheel.l - 64 < (engine s (0 : EngineId)).cycle)
    ∧ (let s := eng { ended := true, cycle := base.wheel.l - 64 }
       ¬((engine s (0 : EngineId)).ended = false ∨ s.wheel.l - 64 < (engine s (0 : EngineId)).cycle)) := by decide +kernel

/-! ### Witnesses: wheel, block and dictionary -/

/-- Everything that `Admits` asks, as one truth value. -/
def admitsB (s : State) (lvl : Level) (ix sub v : Nat) : Bool :=
  serverRuns s && !s.boot.frozen && accessStatus (taken s) lvl ix sub true == stOK && paramAt s ix sub == none && !isImage ix
    && !gated s ix sub && match rowHere (taken s) ix sub with
      | some r => decide (r.ty < 11) && (decide (r.ty ≠ 1) || decide (v ≤ 1)) && rngOk r v
      | none => false

theorem admits_of {s : State} {lvl : Level} {ix sub v : Nat} (h : admitsB s lvl ix sub v = true) : Admits s lvl ix sub v := by
  unfold admitsB at h
  cases hr : rowHere (taken s) ix sub with
  | none => rw [hr] at h; simp at h
  | some r =>
    rw [hr] at h
    simp only [Bool.and_eq_true, beq_iff_eq, Bool.not_eq_true', decide_eq_true_eq, Bool.or_eq_true] at h
    obtain ⟨⟨⟨⟨⟨⟨a, b⟩, c⟩, d⟩, e⟩, f⟩, ⟨g, i⟩, j⟩ := h
    exact ⟨⟨a, b⟩, c, d, e, f, r, hr, g, fun h1 => i.resolve_left (fun h2 => h2 h1), j⟩

theorem admits_all {s : State} {lvl : Level} {l : List (Nat × Nat × Nat)} (h : (l.all fun x => admitsB s lvl x.1 x.2.1 x.2.2) = true) :
    ∀ x ∈ l, Admits s lvl x.1 x.2.1 x.2.2 := fun x hx => admits_of (List.all_eq_true.mp h x hx)

theorem witness_feeds :
    let s : State := { base with
      feedA := { base.feedA with mag := 0x42C80000, below := 64, present := true, risen := some 0 }
      feedB := { base.feedB with above := true, aboveCycles := 100 }, wheel := { base.wheel with lead := some .A, state := .acquire } }
    domainRuns s = true ∧ (feedSt s .A).angleValid = false ∧ (feedSt s .A).risen.isSome = true ∧ 64 ≤ (feedSt s .A).below
      ∧ (feedSt s .A).present = true ∧ s.wheel.mode ≠ 1 ∧ s.wheel.lead = some .A ∧ (feedSt s .B).present = false ∧ (feedSt s .B).above = true
      ∧ ((cfg s 0x2001 11 : Nat) : Rat) ≤ (feedSt s .B).aboveCycles ∧ ({ s.wheel with mode := 1 }.mode = 1 ∧ { s.wheel with lead := none }.lead ≠ some .A) := by
  decide +kernel

/-- The wheel in a state, with its runs at the edges of the table. -/
def wheelAt (st : WState) (lock : Rat) (loss out : Nat) (back : Rat) : State :=
  { base with wheel := { base.wheel with state := st, lockCycles := lock, lossRun := loss, outRun := out, inCycles := back } }

theorem witness_wheel_states : (let s := wheelAt .acquire 2 0 0 0
      domainRuns s = true ∧ s.wheel.state = .acquire ∧ 2 ≤ s.wheel.lockCycles ∧ refLossDue s = false ∧ slipDue s = false)
    ∧ (let s := wheelAt .locked 0 64 63 0
      s.wheel.state = .locked ∧ 64 ≤ s.wheel.lossRun ∧ refLossDue s = false ∧ slipDue s = false)
    ∧ (let s := wheelAt .slip 0 0 0 100
      s.wheel.state = .slip ∧ ((cfg s 0x2001 11 : Nat) : Rat) ≤ s.wheel.inCycles ∧ refLossDue s = false)
    ∧ slipDue (wheelAt .locked 0 0 64 0) = true := by decide +kernel

/-- Follows SYNC pulses; with a last valid one at a round in cycle and a time since. -/
def following (placed : Bool) (ric : Nat) (age : Rat) (missed : Nat) : State := { base with
  wheel := { base.wheel with mode := 1, syncPlaced := placed, syncRic := ric, syncAge := age, syncFreq := 0x42480000, syncPresent := placed, syncMissed := missed } }
/-- The kinds of pulse at the edges of their widths, at the places that call for them: the first pulse, the next one at 50 Hz
and W = 8,192 rounds (2.44 µs later), one right after the last, one at a place that calls for another kind; a lost reference. -/
theorem witness_sync : (following false 0 0 64).wheel.mode = 1
    ∧ (∀ x ∈ [((95 : Nat), (0 : Nat), (mkRat 1 409600 : Rat)), (96, 1023, mkRat 1 409600), (191, 2047, mkRat 1 409600), (192, 8191, mkRat 1 409600)],
        let s := following true x.2.1 x.2.2 0
        let kind : Nat := if x.1 < 96 then 0 else if x.1 < 192 then 1 else 2
        1 ≤ pulseSteps s 0 ∧ pulsePlace s kind 0 = (x.2.1 + 1) % 8192
          ∧ kind = (if pulsePlace s kind 0 = 0 then 2 else if pulsePlace s kind 0 % 1024 = 0 then 1 else 0))
    ∧ pulseSteps (following true 0 0 0) 0 < 1 ∧ 1 ≤ pulseSteps (following false 0 0 0) 0
    ∧ (let s := following true 5 (mkRat 1 409600) 0
       (2 : Nat) ≠ (if pulsePlace s 2 0 = 0 then 2 else if pulsePlace s 2 0 % 1024 = 0 then 1 else 0) ∧ s.wheel.syncPlaced = true)
    ∧ (following false 0 0 64).wheel.syncLost = false ∧ 64 ≤ (following false 0 0 64).wheel.syncMissed := by decide +kernel

theorem witness_step : { base with pending := [Instr.seam] } = { base with pending := .seam :: base.pending } ∧ base.pending = [] := ⟨rfl, rfl⟩

theorem witness_tick_and_seam : domainRuns base = true ∧ base.boot.freezing ≠ 2 ∧ base.boot.sleeping ≠ some 1 ∧ base.wheel.newBase = none
    ∧ { base.wheel with seamDue := true }.seamDue = true ∧ 1008 ≤ { base.wheel with ris := 1008 }.ris := by decide +kernel

theorem witness_counters : wheelInv State.reset ∧ step State.reset = .next State.reset := by
  refine ⟨⟨Or.inr (Or.inl rfl), by decide +kernel, by decide +kernel, ⟨by decide +kernel, by decide +kernel⟩, ?_⟩, rfl⟩
  intro b hb; cases hb

theorem witness_memories : memoriesWf State.reset ∧ step State.reset = .next State.reset :=
  ⟨⟨by decide +kernel, by decide +kernel, by decide +kernel, by decide +kernel, by decide +kernel, by decide +kernel, by decide +kernel, by decide +kernel⟩, rfl⟩

/-- With no server, in recovery (where 0x2001 is absent), and for each later check a command that fails it alone. -/
theorem witness_refused : objectOf (.wheelMode .operate 1) = some (.operate, 0x2001, 1, 1) ∧ serverRuns State.reset = false
    ∧ (serverRuns base = true ∧ base.boot.frozen = false)
    ∧ (let s := { base with boot := { base.boot with recovery := true } }
       serverRuns s = true ∧ s.boot.frozen = false ∧ indexHere (taken s) 0x2001 = false)
    ∧ (indexHere (taken base) 0x2001 = true ∧ ∃ r, rowHere (taken base) 0x2001 1 = some r ∧ levelNo .observe < levelNo r.level
        ∧ accessStatus (taken base) .service 0x2001 1 true = stOK ∧ r.ty < 11 ∧ (r.ty = 1 → 3 ≤ 1) ∧ rngOk r 3 = false)
    ∧ (∃ r, rowHere (taken base) 0x1130 1 = some r ∧ accessStatus (taken base) .operate 0x1130 1 true = stOK ∧ r.ty = 1 ∧ 1 < 2) := by
  refine ⟨rfl, by decide +kernel, by decide +kernel, by decide +kernel, ⟨by decide +kernel, _, rfl, ?_⟩, _, rfl, ?_⟩ <;> decide +kernel

theorem witness_refused_state :
    let s := { base with boot := { base.boot with asleep := true } }
    serverRuns s = true ∧ gated s 0x2001 1 = true ∧ ∃ r, rowHere (taken s) 0x2001 1 = some r ∧ r.ty < 11 ∧ (r.ty = 1 → 1 ≤ 1) ∧ rngOk r 1 = true := by
  refine ⟨by decide +kernel, by decide +kernel, _, rfl, ?_⟩; decide +kernel

theorem witness_refused_items : rowHere (taken base) 0x2001 99 = none ∧ indexHere (taken base) 0x2001 = true ∧ indexHere (taken base) 0x1FFF = false
    ∧ ∃ r, rowHere (taken base) 0x2001 1 = some r ∧ (6 : Nat) ≠ r.ty ∧ r.ty < 11 ∧ (bytes 2).length ≠ typeSize r.ty := by
  refine ⟨by decide +kernel, by decide +kernel, by decide +kernel, _, rfl, ?_⟩; decide +kernel

/-- Writes that a unit alone admits. -/
theorem witness_admitted : ∀ x ∈ [((0x2001 : Nat), (1 : Nat), (1 : Nat)), (0x2001, 2, 0x42700000), (0x2001, 3, 0x42820000), (0x2001, 4, 0x42480000),
    (0x3100, 0x10, 0), (0x2600, 1, 0), (0x2810, 2, 128), (0x26F0, 1, 0x3F000000), (0x26F0, 2, 0x40833333), (0x2101, 3, 1), (0x2101, 6, 1), (0x2310, 1, 1), (0x23F0, 1, 1),
    (0x1130, 1, 1), (0x6080, 3, 1), (0x2820, 1, 1), (0x2940, 3, 5), (0x29C0, 13, 1)], Admits base .service x.1 x.2.1 x.2.2 :=
  admits_all (by decide +kernel)

/-- One that its related object forbids: F_MAINS_MAX below F_MAINS_MIN. -/
theorem witness_related : relStatus (taken base) 0x2001 1 1 = stOK ∧ relStatus (taken base) 0x2001 3 0x41F00000 ≠ stOK := by decide +kernel

theorem witness_members : Admits base .service 0x3200 8 0xFFFFFFFF ∧ Admits base .service 0x321F 1 0
    ∧ (∃ p ∈ [(⟨0x3300, 2, 0, 0⟩ : PendWrite)], isImage p.index = true ∧ imageGroup p.index = 0)
    ∧ (∀ p ∈ base.net.pend, isImage p.index = false) ∧ base.arm.group = none :=
  ⟨admits_of (by decide +kernel), admits_of (by decide +kernel), ⟨_, List.mem_singleton.mpr rfl, by decide +kernel⟩, by decide +kernel, by decide +kernel⟩

theorem witness_object_write : objectOf (.fNom .service 0x42700000) = some (.service, 0x2001, 2, 0x42700000)
    ∧ accessStatus (taken base) .service 0x2001 2 true = stOK ∧ (∃ r, rowHere (taken base) 0x2001 2 = some r ∧ r.ty < 11 ∧ r.ty = 10
      ∧ ([0, 0, 0x70, 0x42] : List Byte).length = typeSize r.ty) ∧ leNat [0, 0, 0x70, 0x42] = 0x42700000 := by
  refine ⟨rfl, by decide +kernel, ⟨_, rfl, by decide +kernel, by decide +kernel, by decide +kernel⟩, by decide +kernel⟩

/-- Groups 0 and 31 with members; a margin that suits its member, and one for a member whose stage class takes none. -/
def grouped : State := { served base [(0, 1), (1, 2)] with cfg := [(okey 0x3200 1, 1), (okey 0x321F 8, 0x80000000)] }

theorem witness_group_write : serverRuns grouped = true ∧ grouped.boot.frozen = false
    ∧ accessStatus (taken grouped) .service 0x3300 8 true = stOK ∧ paramAt grouped 0x3300 8 = none ∧ gated grouped 0x3300 8 = false
    ∧ (∃ r, rowHere (taken grouped) 0x3300 8 = some r ∧ (2 : Nat) = r.ty ∧ r.ty < 11 ∧ (bytes 1).length = typeSize r.ty ∧ rngOk r 1 = true ∧ rngOk r 0 = true)
    ∧ isPath 8 = false ∧ members grouped (imageGroup 0x3300) ≠ [] ∧ (∃ n ∈ members grouped (imageGroup 0x3300), memberStatus (taken grouped) 8 1 n ≠ stOK)
    ∧ members grouped (imageGroup 0x331F) = [255] ∧ ∀ n ∈ members grouped (imageGroup 0x331F), memberStatus (taken grouped) 8 0 n = stOK :=
  ⟨by decide +kernel, by decide +kernel, by decide +kernel, by decide +kernel, by decide +kernel, ⟨_, rfl, by decide +kernel⟩,
    by decide +kernel, by decide +kernel, by decide +kernel, by decide +kernel, by decide +kernel⟩



/-! ### Witnesses: patterns and armed changes -/

/-- A STOCK image with its HEADER_CRC, signed with the Lanistan key. -/
def patImage (img : PatImg) : PatImg :=
  let img := { img with sigKey := some 0, stock := true }
  { img with headerCrc := crc32 (headerBytes img) }

/-- A load under way from slot 1. -/
def loading (restart : Bool) : State := { base with pat := { base.pat with loading := some (1, restart), activeSlot := 0 } }

theorem witness_load : Admits base .service 0x2101 3 1 ∧ Admits base .service 0x2101 3 0
    ∧ ({ base with pat := { base.pat with shadowState := 2 } } : State).pat.shadowState = 2 ∧ base.pat.shadowState ≠ 2
    ∧ collarRuns (loading true) = true ∧ (loading true).pat.p1 = none ∧ (loading true).pat.activeSlot ≠ 0xFF
    ∧ (loading true).pat.loading = some (1, true) ∧ (loading false).pat.loading = some (1, false)
    ∧ loadFault (loading false) (patImage { noPattern with l := 4160 }) true = some { code := 5 } :=
  ⟨admits_of (by decide +kernel), admits_of (by decide +kernel), by decide +kernel, by decide +kernel, by decide +kernel, by decide +kernel, by decide +kernel,
    by decide +kernel, by decide +kernel, by decide +kernel⟩

theorem witness_load_heads : formatOk noPattern = false ∧ formatOk (patImage noPattern) = true
    ∧ checkSize (patImage noPattern) = none ∧ checkSize (patImage { noPattern with imageSize := 159 }) ≠ none
    ∧ sigOk base (patImage noPattern) = true ∧ sigOk base { patImage noPattern with sigKey := none } = false
    ∧ sigOk base { patImage noPattern with sigKey := some 1, keySlot := 1, stock := false } = false := by decide +kernel

/-- A commit is one interval away, in a round. -/
def staging (ris : Nat) : State := { base with
  pat := { base.pat with shadowState := 2, commitAt := 1 }, wheel := { base.wheel with ris := ris } }

theorem witness_commit : Admits base .service 0x2101 6 1 ∧ Admits base .service 0x2101 6 0
    ∧ (∀ k ∈ [0, 1, 2, 3], ({ base with pat := { base.pat with shadowState := k } } : State).pat.shadowState = k)
    ∧ (∀ r ∈ [0, 1022], (staging r).pat.shadowState = 2 ∧ (staging r).wheel.seam + 1 = (staging r).pat.commitAt ∧ (staging r).wheel.ris ≤ 1022)
    ∧ (staging 0).pat.readBack = false ∧ (sleeve (setSleeve base 31 { seedLeft := 1 }) (31 : SleeveId)).seedLeft = 1 :=
  ⟨admits_of (by decide +kernel), admits_of (by decide +kernel), by decide +kernel, by decide +kernel, by decide +kernel, by decide +kernel⟩

/-- Empty banks match ENGINE_CRC of an image that lists none; one that names another CRC for engine 1,023 does not match. -/
theorem witness_read_back : (∀ e < 1024, bankCrc (bankWords (staging 0).arr.imemShadow e) = recordedCrc (staging 0).pat.shadow e)
    ∧ bankCrc (bankWords (staging 0).arr.imemShadow 1023) ≠ recordedCrc { noPattern with engineCrc := [(1023, zeroBankCrc + 1)] } 1023 :=
  ⟨fun _ _ => rfl, by decide +kernel⟩

/-- Parameters of type U32 at the ends of the range of indices. -/
def exported : State := { base with
  wheel := { base.wheel with ris := 1023 }
  pat := { base.pat with
    run := { noPattern with params := [⟨0x5000, 1, 4, false, 1, 100, 5, [(0, 0), (1023, 1023)]⟩, ⟨0x5FFF, 255, 4, true, 0, 9, 0, []⟩] }
    params := [⟨0x5000, 1, 100, 0, 0⟩, ⟨0x5FFF, 255, 3, 1, 0⟩] } }

theorem witness_parameters : serverRuns exported = true ∧ exported.boot.frozen = false
    ∧ (∃ p r, paramAt exported 0x5000 1 = some p ∧ accessStatus (taken exported) .operate 0x5000 1 true = stOK ∧ rowHere (taken exported) 0x5000 1 = some r
        ∧ (4 : Nat) = r.ty ∧ r.ty < 11 ∧ (bytes 4).length = typeSize r.ty ∧ rngOk r 101 = true ∧ paramInRange p 0 = false ∧ paramInRange p 1 = true
        ∧ paramInRange p 100 = true ∧ paramInRange p 101 = false)
    ∧ gated exported 0x5000 1 = false ∧ exported.pat.shadowState ≠ 2
    ∧ (∃ p, paramAt exported 0x5FFF 255 = some p ∧ accessStatus (taken exported) .service 0x5FFF 255 true = stOK) :=
  ⟨by decide +kernel, by decide +kernel, ⟨_, _, rfl, by decide +kernel, rfl, by decide +kernel⟩, by decide +kernel, by decide +kernel, ⟨_, rfl, by decide +kernel⟩⟩

theorem witness_parameter_apply : exported.wheel.ris = 1023 ∧ exported.pat.paramsDone = false
    ∧ exported.pat.params.filter (fun x => x.skip == 0) = [⟨0x5000, 1, 100, 0, 0⟩]
    ∧ ∃ p, paramAt exported 0x5000 1 = some p ∧ (∀ e < 1024, (p.targets.filter fun t => t.1 == e).length ≤ 32) ∧ ∀ t ∈ p.targets, t.2 < 1024 := by
  refine ⟨by decide +kernel, by decide +kernel, by decide +kernel, _, rfl, fun e _ => ?_, by decide +kernel⟩
  exact Nat.le_trans (List.length_filter_le _ _) (by decide)

/-- A change of ports 0 and 9 in a state, with the ports that acknowledged and their reports. -/
def changing (st : Nat) (acked : List Nat) (rep : Tab Nat) : State := { base with
  wheel := { base.wheel with seam := 7 }
  arm := { base.arm with state := st, seam := 5, involved := [0, 9], acked := acked, reported := rep, since := 4 } }

theorem witness_arm_decision : (changing 1 [0, 9] []).arm.state = 1 ∧ (changing 1 [0, 9] []).wheel.seam = (changing 1 [0, 9] []).arm.seam + 2
    ∧ (changing 1 [0, 9] []).wheel.ris = 0 ∧ (∀ n ∈ (changing 1 [0, 9] []).arm.involved, n ∈ (changing 1 [0, 9] []).arm.acked)
    ∧ (∃ n ∈ (changing 1 [0] []).arm.involved, n ∉ (changing 1 [0] []).arm.acked) ∧ cfg (changing 1 [0] []) 0x2102 4 ≠ 1
    ∧ cfg { changing 1 [0] [] with cfg := [(okey 0x2102 4, 1)] } 0x2102 4 = 1 := by decide +kernel

theorem witness_arm_report : (changing 2 [0, 9] [(0, 3), (9, 4)]).arm.state = 2 ∧ (changing 2 [0, 9] [(0, 3), (9, 4)]).arm.last = 0
    ∧ 4 ≤ (changing 2 [0, 9] [(0, 3), (9, 4)]).arm.since
    ∧ (∀ n ∈ (changing 2 [0, 9] [(0, 3), (9, 4)]).arm.involved, n ∈ (changing 2 [0, 9] [(0, 3), (9, 4)]).arm.acked
        ∧ (tget 0 (changing 2 [0, 9] [(0, 3), (9, 4)]).arm.reported n = 3 ∨ tget 0 (changing 2 [0, 9] [(0, 3), (9, 4)]).arm.reported n = 4))
    ∧ (let s := changing 2 [0, 9] [(0, 3), (9, 5)]
       ∃ n, n ∈ s.arm.involved ∧ n ∈ s.arm.acked ∧ tget 0 s.arm.reported n ≠ 3 ∧ tget 0 s.arm.reported n ≠ 4) :=
  ⟨by decide +kernel, by decide +kernel, by decide +kernel, by decide +kernel, 9, by decide +kernel⟩

/-- A port whose class has a far-end path, READY or RUNNING. -/
def pathPort (n : Nat) (st : PState) : State := port (served base [(n, 1)]) n { state := st, cls := 1 } {}

theorem witness_path_writes : ∀ n ∈ [(0 : PortId), 255], Admits (pathPort n .ready) .service (0x3100 + n) (pathSub .fastMode) 1
    ∧ relPort (taken (pathPort n .ready)) n (pathSub .fastMode) 1 = stOK ∧ (link (pathPort n .ready) n).state = .ready ∧ commands (pathPort n .ready) = true
    ∧ (pathPort n .ready).pair.role ≠ .active ∧ Admits (pathPort n .running) .service (0x3100 + n) (pathSub .fastMode) 1
    ∧ isLive (link (pathPort n .running) n).state = true ∧ armFree (pathPort n .running) = true
    ∧ armFree { pathPort n .running with arm := { base.arm with queued := true } } = false := by
  intro n hn
  rcases List.mem_pair.mp hn with rfl | rfl <;>
    exact ⟨admits_of (by decide +kernel), by decide +kernel, by decide +kernel, by decide +kernel, by decide +kernel, admits_of (by decide +kernel),
      by decide +kernel, by decide +kernel, by decide +kernel⟩

/-- The CRC of a bank that holds ENDROUND alone. -/
def endCrc : Word := bankCrc [(0, 0x0FC00000)]

/-- An image whose engines all end their round with the first word. -/
def idleImage : PatImg := { patImage noPattern with
  instr := (List.range 1024).map fun e => (e * 1024, 0x0FC00000), engineCrc := (List.range 1024).map fun e => (e, endCrc) }

theorem filter_range {α : Type} (f : Nat → α) (p : α → Bool) (e n : Nat) (h : ∀ k, p (f k) = (k == e)) :
    ((List.range n).map f).filter p = if e < n then [f e] else [] := by
  induction n with
  | zero => simp
  | succ n ih =>
    rw [List.range_succ, List.map_append, List.filter_append, ih]
    by_cases h1 : e < n
    · have : p (f n) = false := by rw [h]; simp; omega
      simp [h1, this, Nat.lt_succ_of_lt h1]
    · by_cases h2 : n = e
      · subst h2; simp [h]
      · have : p (f n) = false := by rw [h]; simp [h2]
        simp [h1, this]; omega

theorem idle_words {e : Nat} (h : e < 1024) : engWords idleImage e = [(0, 0x0FC00000)] := by
  have := filter_range (fun k => (k * 1024, (0x0FC00000 : Word))) (fun x => x.1 / 1024 == e) e 1024 (fun k => by simp)
  simp only [engWords, idleImage, this, h, if_true, List.map, Nat.mul_mod_left]

theorem idle_crc {e : Nat} (h : e < 1024) : recordedCrc idleImage e = endCrc := by
  have := filter_range (fun k => (k, endCrc)) (fun x => x.1 == e) e 1024 (fun k => by simp)
  simp only [recordedCrc, look, idleImage]
  rw [← List.head?_filter, this]; simp [h]

/-- The bodies of that image. -/
def idleBodies : List Body := (List.range 1024).map fun e => ⟨e, false, ⟨[(0, 0x0FC00000)], some 0, none⟩⟩

theorem idle_bodies : allBodies idleImage = idleBodies := by
  have h : (List.range 1024).map (bodiesOf idleImage) = (List.range 1024).map fun e => [⟨e, false, ⟨[(0, 0x0FC00000)], some 0, none⟩⟩] :=
    List.map_congr_left fun e he => by
      have hb : bodiesOf idleImage e = [{ eng := e, seed := false, run := walk (engWords idleImage e) 2049 [] 0 0 }] := rfl
      rw [hb, idle_words (List.mem_range.mp he)]; rfl
  rw [allBodies, h, idleBodies]
  generalize List.range 1024 = l
  induction l with
  | nil => rfl
  | cons e l ih => rw [List.map_cons, List.flatten_cons, ih]; rfl

theorem idle_maps : checkMaps idleImage idleBodies = none := by
  have h : (List.range 1024).find? (fun e => bankCrc (engWords idleImage e) != recordedCrc idleImage e) = none := by
    rw [List.find?_eq_none]
    intro e he
    rw [idle_words (List.mem_range.mp he), idle_crc (List.mem_range.mp he)]
    simp [endCrc]
  have h1 : failIf (badPortMap idleImage) (failGlobal idleImage 0x14 8) = none := by decide +kernel
  have h2 : idleImage.dataInit.find? (fun x => decide (wordClass idleImage (x.1 / 1024) (x.1 % 1024) < 2)) = none := by decide +kernel
  have h4 : failIf (badParams idleImage) (failGlobal idleImage 0x16 9) = none := by decide +kernel
  have h5 : idleImage.seedRounds = 0 := rfl
  have h6 : idleImage.modules = [] := rfl
  rw [checkMaps, h, h1, h2, h4, h5, h6]
  decide +kernel

/-- An image that a load accepts, hitless as well where PERSIST_ID and the map of the running pattern agree. -/
theorem witness_accepted_image : ∀ hitless, loadFault base idleImage hitless = none := by
  have h1 : checkHead base idleImage = none := by decide +kernel
  have h2 : checkBodies idleImage idleBodies = none := by decide +kernel
  have h3 : checkUse idleImage idleBodies = none := by decide +kernel
  have h4 : checkSwap base idleImage = none := by decide +kernel
  intro hitless
  simp only [loadFault, idle_bodies, h1, h2, h3, h4, idle_maps]
  cases hitless <;> rfl

/-- Group 0 with the ports 0 and 255 of a class with a far-end path, port 255 in a state. -/
def pathGroup (st : PState) : State :=
  let s := port (port (served base [(0, 1), (255, 1)]) 0 { state := .ready, cls := 1 } {}) 255 { state := st, cls := 1 } {}
  { s with cfg := [(okey 0x3200 1, 1), (okey 0x3200 8, 0x80000000)] }

theorem witness_group_path : ∀ st ∈ [PState.running, .absent],
    let s := pathGroup st
    let sub := pathSub .fastMode
    serverRuns s = true ∧ s.boot.frozen = false ∧ accessStatus (taken s) .service 0x3300 sub true = stOK ∧ paramAt s 0x3300 sub = none
      ∧ gated s 0x3300 sub = false ∧ (rowHere (taken s) 0x3300 sub).any (fun r => r.ty < 11 && (bytes (typeSize r.ty)).length == typeSize r.ty && rngOk r 1) = true
      ∧ isPath sub = true ∧ members s (imageGroup 0x3300) = [0, 255] ∧ (∀ n ∈ members s (imageGroup 0x3300), relPort (taken s) n sub (dropReserved 0x3300 sub 1) = stOK)
      ∧ ((members s (imageGroup 0x3300)).any fun n => isLive (link s n).state) = (st == .running) ∧ armFree s = true
      ∧ armFree { s with arm := { s.arm with queued := true } } = false := by decide +kernel

/-- Path writes to a port that answers no message yet. -/
theorem witness_path_stored : ∀ st ∈ [PState.absent, .training], Admits (pathPort 255 st) .service (0x3100 + (255 : PortId)) (pathSub .fastMode) 1
    ∧ relPort (taken (pathPort 255 st)) (255 : PortId) (pathSub .fastMode) 1 = stOK ∧ (link (pathPort 255 st) 255).state = st := by
  intro st h
  rcases List.mem_pair.mp h with rfl | rfl <;> exact ⟨admits_of (by decide +kernel), by decide +kernel, by decide +kernel⟩

/-! ### Witnesses: links, far ends and ports -/

/-- Port n served in class c, in a state. -/
def at_ (n : Nat) (c : Byte) (l : Link) (k : Ctl) : State := port (served base [(n, c)]) n { l with cls := c } k
/-- The far end of port n in a condition. -/
def fe (n : Nat) (f : FarEnd) : State := setFarEnd base n f

theorem witness_uplinks : ∀ n ∈ [(0 : PortId), 255],
    takesFrame (at_ n 1 { state := .running, driving := true } {}) n = true ∧ counting (link (at_ n 1 { state := .running, driving := true } {}) n).state = true
    ∧ takesFrame (at_ n 1 { state := .running, driving := true, taken := true } {}) n = false
    ∧ (link (at_ n 1 { state := .running, driving := true } {}) n).state ≠ .training := by decide +kernel

/-- Code groups of IEEE 802.3 Clause 36 (R145, R146), bit a written first: D0.0 and K28.5 at both disparities, D11.7 in its
other form, and the preamble of an uplink. -/
theorem test_code_groups : dataGroup false 0x00 = (groupOf 0b100111 0b0100, false) ∧ dataGroup true 0x00 = (groupOf 0b011000 0b1011, true)
    ∧ dataGroup true 0xEB = (groupOf 0b110100 0b1000, false) ∧ kComma false = groupOf 0b001111 0b1010 ∧ kComma true = groupOf 0b110000 0b0101
    ∧ idlePairs false 1 = [groupOf 0b001111 0b1010, groupOf 0b010101 0b0101] ∧ groupOf 0b100000 0 = 1 := by decide +kernel

/-- The window of R151 at its ends, LOCKOUT in the header, and a sequence number that does not match. -/
theorem witness_uplink_frames : (({ upFrame 40 with delayNs := 107 } : UpFrame).delayNs < 108 ∧ 164 < ({ upFrame 40 with delayNs := 165 } : UpFrame).delayNs)
    ∧ (108 ≤ ({ upFrame 40 with delayNs := 108 } : UpFrame).delayNs ∧ ({ upFrame 40 with delayNs := 164 } : UpFrame).delayNs ≤ 164)
    ∧ upGood 8192 (upFrame 40) = true ∧ upGood 8192 { upFrame 40 with line := kEof false :: (upFrame 40).line.tail } = false
    ∧ upGood 8192 { upFrame 40 with crc := 0 } = false ∧ hasBit (0x100000 : Word) 20 = true
    ∧ canHem PState.running = true ∧ ({} : Link).fwLoad ≠ 2 ∧ (0x400000 : Word).toNat / 2 ^ 22 % 64 ≠ base.wheel.round.toNat % 64 := by decide +kernel

theorem witness_link_lost : ∀ n ∈ [(0 : PortId), 255],
    let s (m : Nat) : State := at_ n 1 { state := .running, missed := m } {}
    counting (link (s 36) n).state = true ∧ (link (s 36) n).lost = false ∧ 4 + (link (s 36) n).coastSent ≤ (link (s 36) n).missed
      ∧ (link (s 35) n).missed < 4 + (link (s 35) n).coastSent := by decide +kernel

theorem witness_training_wave : ∀ w ∈ [0, 7],
    let s := { base with boot := { base.boot with wave := w } }
    linksRun s = true ∧ s.boot.waveOn = false ∧ s.boot.wave < 8 := by decide +kernel

/-- All waves done and every port ABSENT, the last one trained being a given one. -/
def absent (k : Nat) : State := { base with boot := { base.boot with wave := 8, lastTrain := some k } }

theorem witness_retrain : linksRun (absent 254) = true ∧ wavesDone (absent 254) = true ∧ nextTraining (absent 254) = some (255 : PortId).val
    ∧ nextTraining (absent 255) = some (0 : PortId).val ∧ (allPorts.filter fun k => (link (absent 254) k).state == .training).length < 32 := by
  decide +kernel

theorem witness_training_times : ∀ x ∈ [((1 : Nat), (128 : Nat)), (2, 32), (3, 32), (4, 64)],
    let l : Link := { state := .training, step := x.1, stepRounds := x.2 }
    (link (at_ 9 1 l {}) 9).state = .training
      ∧ (if (link (at_ 9 1 l {}) 9).step = 1 then 128 else if (link (at_ 9 1 l {}) 9).step = 4 then 64 else 32) ≤ (link (at_ 9 1 l {}) 9).stepRounds
      ∧ (link (at_ 9 1 { l with stepRounds := x.2 - 1 } {}) 9).stepRounds
        < (if (link (at_ 9 1 l {}) 9).step = 1 then 128 else if (link (at_ 9 1 l {}) 9).step = 4 then 64 else 32) := by decide +kernel

/-- A segment awaits its acknowledgement. -/
def sentSeg (age redo : Nat) : State :=
  at_ 9 1 { state := .running, mbx := { ({} : MboxSide) with sent := [⟨0, 0, true, true, [1], age, 0⟩], redo := redo }, fwLoad := 2 } {}

theorem witness_resend : commands (sentSeg 8 1) = true ∧ (link (sentSeg 8 1) 9).mbx.sent = [⟨0, 0, true, true, [1], 8, 0⟩] ∧ 0 < (link (sentSeg 8 1) 9).mbx.redo
    ∧ (link (sentSeg 7 0) 9).mbx.sent = [⟨0, 0, true, true, [1], 7, 0⟩] ∧ (link (sentSeg 8 1) 9).fwLoad = 2 := by decide +kernel

/-- Each step of the training of port 9. -/
def training (step run : Nat) : State :=
  at_ 9 1 { state := .training, driving := true, step := step, stepRun := run, identity := bytes 20, tickAdvance := 0, coastSent := 0 } {}

theorem witness_training_steps : (∀ k ∈ [1, 2, 3, 4], takesFrame (training k 3) 9 = true ∧ (link (training k 3) 9).state = .training ∧ (link (training k 3) 9).step = k)
    ∧ sliceB (upFrame 40).rt 0 20 = (link (training 2 3) 9).identity ∧ sliceB ({ upFrame 40 with rt := 1 :: bytes 39 } : UpFrame).rt 0 20 ≠ bytes 20
    ∧ (let rt : List Byte := bytes 20 ++ [9] ++ bytes 19
       leAt rt 0x14 1 = 9 ∧ leAt rt 0x16 2 = (link (training 3 3) 9).tickAdvance ∧ leAt rt 0x18 2 = (link (training 3 3) 9).coastSent)
    ∧ leAt (upFrame 40).rt 0x14 1 ≠ 9 ∧ hasBit (0x200000 : Word) 21 = true ∧ 31 ≤ (link (training 4 31) 9).stepRun ∧ (link (training 4 31) 9).fwLoad ≠ 2
    ∧ heldNoStart (training 4 31) 9 = false ∧ heldNoStart { training 4 31 with hem := { base.hem with held := true } } 9 = true := by decide +kernel

/-- A far end that obeys link 0, and one in LISTEN; frames of each kind. -/
theorem witness_frames : feObeys { obeys := 1, listen0 := false } false = true ∧ feListen { obeys := 1, listen0 := false } false = false
    ∧ feListen { obeys := 0 } true = true ∧ feStep { obeys := 0 } true ≠ 4 ∧ feStep { obeys := 0, step1 := 4 } true = 4
    ∧ (feObeys { obeys := 1, listen1 := false } true = false ∧ feListen { obeys := 1, listen1 := false } true = false)
    ∧ downGood false (downFrame 24) = true ∧ downGood false { downFrame 24 with eof := false } = false ∧ (downFrame 24).auth = true ∧ (downFrame 24).train = false ∧ (downFrame 24).hem = false
    ∧ (let d := { downFrame 24 with rt := 0 :: 3 :: bytes 22, train := true }; d.train = true ∧ 3 ≤ leAt d.rt 1 1) := by decide +kernel

theorem witness_local_tick :
    let f : FarEnd := { obeys := 1, listen0 := false, auth0 := true, cmd0 := some (bytes 24), clearRun := 4 }
    (f.obeys = 1 ∧ f.auth0 = true ∧ f.auth1 = false ∧ f.inCoast = false ∧ f.cmd0 = some (bytes 24)
      ∧ (f.inHem && !(decide (4 ≤ f.clearRun) && !f.listen0)) = false)
    ∧ (({ f with clearRun := 3 } : FarEnd).inHem && !(decide (4 ≤ ({ f with clearRun := 3 } : FarEnd).clearRun) && !f.listen0)) = true := by decide +kernel

theorem witness_coast :
    let f : FarEnd := { obeys := 1, listen0 := false, missRun := 3 }
    (f.obeys = 1 ∧ f.auth0 = false ∧ f.auth1 = false ∧ f.inCoast = false ∧ f.missRun = 3 ∧ 1 < f.coastRounds ∧ f.cmd0 = none)
    ∧ (f.obeys ≠ 0 ∧ feAuth f = false ∧ 3 ≤ f.missRun ∧ f.coastRounds ≠ 0 ∧ ({ f with coastRounds := 0 } : FarEnd).coastRounds = 0)
    ∧ (let g := { f with inCoast := true, coastTicks := 32 }; g.inCoast = true ∧ g.coastRounds ≤ g.coastTicks) := by decide +kernel

/-- Words held for a commit: FAST_MODE 0, which a TRAY_IBC takes, and an address that no configuration word has. -/
theorem witness_staged :
    let f : FarEnd := { obeys := 1, listen0 := false, auth0 := true, staged := some (7, 0x101, [0]), commitNext := true }
    f.staged = some (7, 0x101, [0]) ∧ f.commitNext = true ∧ f.obeys = 1 ∧ f.auth0 = true ∧ f.auth1 = false ∧ f.inCoast = false
      ∧ (feWrite 5 f 0x101 [0]).2 = 0 ∧ (feWrite 5 f 0xFFFF [0]).2 ≠ 0 := by decide +kernel

theorem witness_latches : (farEnd (fe 9 { fastMode := 1 }) 9).fastMode = 1 ∧ (link (at_ 9 5 {} {}) 9).cls = 5 ∧ (link (at_ 9 1 {} {}) 9).cls ≠ 5 := by
  decide +kernel

theorem witness_far_configuration : (∃ k, ∃ h : k < ([0, 0] : List Word).length, feCheck 1 (0xFFFE + k) ([0, 0] : List Word)[k] ≠ 0)
    ∧ (∀ k, ∀ h : k < ([0] : List Word).length, feCheck 1 (0x101 + k) ([0] : List Word)[k] = 0) ∧ (1 : Nat) ≠ 5
    ∧ (∃ k < 2, feWord 9 1 false {} (0xFFFE + k) = none) ∧ ∀ k < 2, feWord 9 1 false {} (0x100 + k) ≠ none :=
  ⟨⟨0, by decide, by decide +kernel⟩, by decide +kernel, by decide, ⟨0, by decide, by decide +kernel⟩, fun k hk => by
    rcases k with _ | _ | k
    · exact Option.some_ne_none _
    · exact Option.some_ne_none _
    · omega⟩

theorem witness_far_firmware : (262144 < 262145 ∧ 262144 ≤ 262144) ∧ (link base 9).fwFamily = 0 ∧ (link base 9).fwFamily ≠ 1
    ∧ (farEnd base 9).fw = none
    ∧ (let x : FwRx := ⟨4, crc32 [1, 2, 3, 4], 1, 0, [1, 2], false⟩
       (farEnd (fe 9 { fw := some x }) 9).fw = some x ∧ (0 ≠ x.data.length ∧ 2 = x.data.length) ∧ crc32 [3, 4] ≠ 0 ∧ 2 + ([3, 4] : List Byte).length ≤ x.size
         ∧ x.data.length ≠ x.size ∧ x.complete = false)
    ∧ (let x : FwRx := ⟨2, crc32 [1, 2], 1, 0, [1, 2], true⟩
       x.data.length = x.size ∧ crc32 x.data = x.crc ∧ x.complete = true ∧ crc32 x.data ≠ ({ x with crc := 0 } : FwRx).crc) := by decide +kernel

theorem witness_tunnel : (farEnd (fe 9 { tw := [(5, noXfer)] }) 9).tw = (5, noXfer) :: [] ∧ (6 ≤ 6 ∧ 13 ≤ 13) ∧ (5 < 6 ∧ 13 < 14) := by decide +kernel

/-- A pack on port 9 whose identity was asked for under TAG 0. -/
def packPort : State := { at_ 9 3 { state := .hem, idTag := [0], fwLoad := 1 } {} with
  shelf := { base.shelf with packs := [(31, { bound := some 9 })] } }

theorem witness_far_messages : packOf packPort 9 = some 31 ∧ inTag (link packPort 9).mbx 3 ∈ (link packPort 9).idTag ∧ (link packPort 9).fwLoad = 1
    ∧ (∃ b ∈ ([1] : List Byte).take 32, b ≠ 0) ∧ (pack packPort 31).ident = [] ∧ (∀ b ∈ (bytes 3).take 32, b = 0)
    ∧ inTag (link base 9).mbx 3 ∉ (link base 9).idTag ∧ (link base 9).fwLoad ≠ 1 := by decide +kernel

/-- A session of a level that has accepted nothing yet. -/
def session (l : Level) : Session := ⟨l, 0, 0, 0, 0, 0, 0, 0, 0, 0, 0, []⟩

theorem witness_telemetry :
    let x : Sub := { session := 0, subId := 1, period := 0, items := [(0x3009, 0xF6)], dest := .eth 0 0 0, wait := 0, dropped := 0, due := none }
    let s : State := { base with net := { base.net with sessions := [(0, session .operate)], subs := [x] } }
    s.net.hushed = false ∧ (tfind s.net.sessions x.session).isSome = true ∧ x.dest ≠ .smb
      ∧ (s.net.subs.filter fun x => x.items.contains (0x3000 + 9, 0xF0 + 6)) = [x] := by decide +kernel

/-- A BUCK port READY with a current limit and a set point. -/
def readyPort : State := { at_ 9 1 { state := .ready, cfgOk := true } {} with
  cfg := [(okey 0x3109 6, 0x41400000), (okey 0x3109 7, 0x3F800000), (okey 0x3109 9, 0x40000000)] }

theorem witness_start_stop : Admits readyPort .service 0x3109 1 1 ∧ Admits readyPort .service 0x3109 1 2
    ∧ ((link readyPort 9).state = .ready ∧ 0 < latestF readyPort 0x3109 7 ∧ latestF readyPort 0x3109 7 < latestF readyPort 0x3109 9
      ∧ 0 < latestF readyPort 0x3109 6 ∧ (link readyPort 9).cfgOk = true ∧ 2 * (ctl readyPort 9).heat < 2 ^ 48 ∧ clsOf readyPort 9 ≠ 4)
    ∧ ¬(link base 9).state = .ready :=
  ⟨admits_of (by decide +kernel), admits_of (by decide +kernel), by decide +kernel, by decide +kernel⟩

theorem witness_starting : (∀ k ∈ [(0 : Nat), 1000000],
      let s := at_ 9 1 { state := .starting } { since := k }
      (link s 9).state = .starting ∧ clsOf s 9 ≠ 4 ∧ (ctl s 9).ramp = none
        ∧ decide (Nat.max (stepOr (ctl s 9).vals.onDelay (pcfg s 9 2)) 4 ≤ (ctl s 9).since) = (k != 0))
    ∧ ∀ x ∈ [(4, 5), (5, 5)],
      let s := at_ 9 1 { state := .starting } { ramp := some x }
      (link s 9).state = .starting ∧ (ctl s 9).ramp = some x ∧ decide (x.2 ≤ x.1) = (x.1 == 5) := by decide +kernel

theorem witness_stopping : (∀ c ∈ [(1 : Byte), 4],
      let s := at_ 9 c { state := .stopping } { since := 1000000 }
      (link s 9).state = .stopping ∧ (ctl s 9).down = false ∧ (ctl s 9).readyNext = false ∧ stepOr (ctl s 9).vals.offDelay (pcfg s 9 4) ≤ (ctl s 9).since)
    ∧ (let s := at_ 9 1 { state := .stopping } { vals := { offDelay := 5 }, since := 4 }
       (ctl s 9).since < stepOr (ctl s 9).vals.offDelay (pcfg s 9 4))
    ∧ ∀ x ∈ [(4, 5), (5, 5)],
      let s := at_ 9 1 { state := .stopping } { down := true, ramp := some x }
      (link s 9).state = .stopping ∧ (ctl s 9).down = true ∧ (ctl s 9).readyNext = false ∧ (ctl s 9).ramp = some x := by decide +kernel

theorem witness_overload : (∀ x ∈ [((1 : Byte), PState.starting), (1, .running), (4, .running)],
      let s := at_ 9 x.1 { state := x.2 } { heat := 2 ^ 48, bypass := true }
      ((link s 9).state = .starting ∨ (link s 9).state = .running) ∧ (clsOf s 9 = 4 → (link s 9).state = .running ∧ (ctl s 9).bypass = true)
        ∧ 2 ^ 48 ≤ (ctl s 9).heat)
    ∧ (ctl (at_ 9 1 {} { heat := 2 ^ 48 - 1 }) 9).heat < 2 ^ 48 := by decide +kernel

theorem witness_saturation : ∀ x ∈ [((0 : Nat), false), (1, false), (1, true)],
    let s := { at_ 9 1 { state := .running } { satNow := true, satRun := 65535, reduced := x.2 } with cfg := [(okey 0x3109 0x0E, x.1)] }
    (ctl s 9).satNow = true ∧ (link s 9).state = .running ∧ pcfg s 9 0x0D ≤ (ctl s 9).satRun
      ∧ decide (pcfg s 9 0x0E = 1 ∧ (ctl s 9).reduced = false) = (x.1 == 1 && !x.2) := by decide +kernel

theorem witness_insertion : ∀ k ∈ [2, 3, 4],
    let s := at_ 9 4 { state := .starting } { insStage := k, insRun := 1000000000, since := 1000000000 }
    (link s 9).state = .starting ∧ (ctl s 9).insStage = k ∧ pcfg s 9 0x16 ≤ (ctl s 9).insRun ∧ pcfg s 9 0x17 * 1024 ≤ (ctl s 9).insRun
      ∧ Nat.max (stepOr (ctl s 9).vals.onDelay (pcfg s 9 2)) 4 ≤ (ctl s 9).since ∧ pcfg s 9 0x1A ≤ (ctl s 9).insRun := by decide +kernel

/-- Staged values of curve 15: none, one point, and two points that rise in current and fall in time. -/
def curve (l : List (Nat × Nat)) : State := { base with net := { base.net with staged := l.map fun x => (256 * 15 + x.1, x.2) } }

theorem witness_curves : (∀ v ∈ [(0 : Nat), 1], Admits base .service 0x350F 0x13 v)
    ∧ applyStatus (taken (curve [(1, 1)])) 15 ≠ stOK ∧ stagedVal (curve [(1, 1)]) 15 1 = 1 ∧ 8 < stagedVal (curve [(1, 9)]) 15 1
    ∧ applyStatus (taken (curve [(1, 2), (2, 0x3F800000), (3, 0x40000000), (0x0A, 0x40000000), (0x0B, 0x3F800000)])) 15 = stOK
    ∧ (let s := { curve [(1, 0)] with cfg := [(okey 0x31FF 8, 15)] }; stagedVal s 15 1 = 0 ∧ latest s (0x3100 + 255) 8 = 15) :=
  ⟨fun v hv => by rcases List.mem_pair.mp hv with rfl | rfl <;> exact admits_of (by decide +kernel), by decide +kernel, by decide +kernel, by decide +kernel,
    by decide +kernel, by decide +kernel⟩

theorem witness_snap_and_latches : ∀ n ∈ [(0 : PortId), 255],
    let s := at_ n 5 { state := .hem } {}
    (Admits s .service (0x3100 + n) 0x1B 0 ∧ Admits s .service (0x3100 + n) 0x1B 1) ∧ Admits s .service (0x3000 + n) 4 ((0x30000 : Word) &&& 0x30000).toNat
      ∧ Admits s .service (0x3000 + n) 4 0x200000 ∧ (link s n).state ≠ .lockout ∧ (0x30000 : Word) &&& 0x30000 ≠ 0 := by
  intro n hn
  rcases List.mem_pair.mp hn with rfl | rfl <;>
    exact ⟨⟨admits_of (by decide +kernel), admits_of (by decide +kernel)⟩, admits_of (by decide +kernel), admits_of (by decide +kernel), by decide +kernel, by decide +kernel⟩

/-- A segment sent 7 rounds ago whose uplink has come, and a restart into new firmware before and at its deadline. -/
theorem witness_resend_due :
    let s := at_ 9 1 { state := .running, taken := true, mbx := { ({} : MboxSide) with sent := [⟨0, 0, true, true, [1], 7, 0⟩], redo := 1 } } {}
    commands s = true ∧ (link s 9).mbx.sent = ⟨0, 0, true, true, [1], 7, 0⟩ :: [] ∧ (link s 9).taken = true ∧ 0 < (link s 9).mbx.redo
      ∧ (∀ x ∈ [((99 : Rat) / 1000, true), (1 / 10, false)],
          let u := at_ 9 1 { state := .hem, fwLoad := 2, fwTime := x.1 } {}
          (link u 9).fwLoad = 2 ∧ decide ((link u 9).fwTime < 1 / 10) = x.2) := by decide +kernel

/-- The last training step with a load that brought a version while version 7 was loaded. -/
def loaded (v : Nat) : State :=
  at_ 9 1 { state := .training, driving := true, step := 4, stepRun := 31, fwLoad := 2, fwImage := 7, fwVersion := BitVec.ofNat 32 v } {}

theorem witness_training_load : (∀ v ∈ [(7 : Nat), 8], takesFrame (loaded v) 9 = true ∧ (link (loaded v) 9).state = .training ∧ (link (loaded v) 9).step = 4
        ∧ 31 ≤ (link (loaded v) 9).stepRun ∧ (link (loaded v) 9).fwLoad = 2)
    ∧ (link (loaded 7) 9).fwVersion = (link (loaded 7) 9).fwImage ∧ (link (loaded 8) 9).fwVersion ≠ (link (loaded 8) 9).fwImage := by decide +kernel

/-- The link that gives SEQ and DL_OK: the one obeyed; the arm states of a far end that holds staged words. -/
theorem witness_frame_sources : feTimes { obeys := 2, listen1 := false } true = true ∧ feTimes { obeys := 2, listen1 := false } false = false
    ∧ (feTrains { trains0 := 7 } false < 8 ∧ 8 ≤ feTrains { trains1 := 8 } true)
    ∧ (let f : FarEnd := { obeys := 1, listen0 := false, staged := some (7, 0x101, [0]) }
       feListen f false = false ∧ feObeys f false = true ∧ f.staged = some (7, 0x101, [0]) ∧ f.commitSeen = false
         ∧ ∀ k ∈ [(1 : BitVec 2), 2, 3], let d := { downFrame 24 with armState := k, armId := 7 }; d.train = false ∧ d.auth = true ∧ d.armId = 7)
    ∧ ({ downFrame 24 with auth := false } : DownFrame).auth = false := by decide +kernel

/-- Samples at and beyond the ends of their range, in the last used slot and the first unused one, and a pulse above ILIMIT in
COAST. -/
theorem witness_measures :
    let m : FeMeas := ⟨[.value 32767, .value (-32768), .over true, .over false], [], [], 0, 1, 0⟩
    let f : FarEnd := { inCoast := true, cmd := bytes 24 }
    m.samples[0]? = some (.value 32767) ∧ m.samples[3]? = some (.over false) ∧ 3 < usedSamples 2 ∧ usedSamples 2 ≤ 4
      ∧ f.inCoast = true ∧ f32Val (BitVec.ofNat 32 (leAt f.cmd 0x0C 4)) < m.peak := by decide +kernel

/-- Words of a TRAY_IBC that are right each by itself but put OV_RELEASE above OV_LEVEL. -/
theorem witness_far_order :
    let words : List Word := [0x3F800000, 0x40000000]
    (∀ k, ∀ h : k < words.length, feCheck 5 (0x102 + k) words[k] = 0)
      ∧ ¬(f32Val (((words[0x103 - 0x102]?).getD 0)) < f32Val ((words[0x102 - 0x102]?).getD 0)) := by decide +kernel

/-- A far end with a bus and one without it; a request whose RLEN is 1 byte, with BLOCK or PEC unset. -/
theorem witness_tunnel_bus : (link (at_ 9 1 { caps := 2 } {}) 9).caps.toNat.testBit 1 = true ∧ noXfer.bus.toNat ≤ 1
    ∧ (link (at_ 9 1 {} {}) 9).caps.toNat.testBit 1 = false ∧ noXfer.flags.toNat.testBit 0 = false
    ∧ ({ noXfer with flags := 1 } : Xfer).flags.toNat.testBit 0 = true := by decide +kernel

/-- A pack whose identity is known, and another one in the answer. -/
theorem witness_other_pack :
    let s : State := { packPort with shelf := { packPort.shelf with packs := [(31, { bound := some 9, ident := 2 :: bytes 31 })] } }
    packOf s 9 = some 31 ∧ (pack s 31).ident ≠ [] ∧ (pack s 31).ident ≠ (1 :: bytes 31).take 32 ∧ (pack s 31).ident = (2 :: bytes 31).take 32 := by
  decide +kernel

/-- A telemetry message for an Ethernet port that is free, busy, and for the host. -/
theorem witness_telemetry_lines :
    let x (d : Iface) : Sub := { session := 64, subId := 1, period := 0, items := [(0x3009, 0xF6)], dest := d, wait := 0, dropped := 0, due := none }
    let s (l : Line) : State := setLine { base with net := { base.net with sessions := [(64, session .operate)], subs := [x (.eth 1 0 0)] } } 1 l
    let r : Reply := ⟨.eth 1 0 0, 0x21, 64, 1, 0, 1, []⟩
    lineOf (x (.eth 1 0 0)).dest = some 1 ∧ lineOf (x .host).dest = none ∧ (x .host).dest ≠ .smb ∧ domainRuns (s (freshLine 1)) = true
      ∧ (s (freshLine 1)).boot.highZ = false ∧ (s (freshLine 1)).net.hushed = false ∧ (tfind (s (freshLine 1)).net.sessions 64).isSome = true
      ∧ 0 < (line (s { freshLine 1 with busy := 1 }) 1).busy
      ∧ (line (s (freshLine 1)) 1).busy ≤ 0 ∧ (line (s (freshLine 1)) 1).urg = [] ∧ (line (s (freshLine 1)) 1).resp = [] ∧ (line (s (freshLine 1)) 1).tel = []
      ∧ telemNeed 1 r ≤ (line (s (freshLine 1)) 1).tokens
      ∧ (s (freshLine 1)).net.subs.filter (fun x => x.items.contains (0x3000 + 9, 0xF0 + 6)) = [x (.eth 1 0 0)] := by decide +kernel

/-- A port that stops while RAMP_DOWN is 7, and one whose OFF_DELAY ends at its first round. -/
theorem witness_ramp_down :
    let s := at_ 9 1 { state := .stopping } { ramp := some (0, 7) }
    (link s 9).state = .stopping ∧ (ctl s 9).down = false ∧ (ctl s 9).readyNext = false ∧ stepOr (ctl s 9).vals.offDelay (pcfg s 9 4) ≤ (ctl s 9).since
      ∧ clsOf s 9 ≠ 4 ∧ ((ctl s 9).ramp.map (·.2)).getD 0 ≠ 0
      ∧ (0 = 0 ∧ (1 < 2 ∧ 0 < 2 ∧ 2 ≤ 2)) := by decide +kernel

/-! ### Witnesses: power flow, battery shelf, sequencing, Hem -/

/-- Two rectifier modules, one for each feed, a tray, a tap and a battery port, all RUNNING; both feeds shown PRESENT as given. -/
def rack (a b : Byte) (f : Flow) : State :=
  let l (c : Byte) : Link := { state := .running, cls := c }
  let s := served base [(0, 1), (1, 2), (2, 5), (4, 1), (5, 2), (8, 4), (9, 3)]
  { s with
    links := [(0, l 1), (1, l 2), (2, l 5), (4, l 1), (5, l 2), (8, l 4), (9, l 3)], flow := f
    feedA := { s.feedA with presentTime := 100 }, feedB := { s.feedB with presentTime := 100 }
    arr := { s.arr with blkRead := mset (mset [] 48 a) 80 b } }

theorem witness_transfers : (∀ v ∈ [(0 : Nat), 1], Admits (rack 2 2 { active := some .A }) .service 0x2501 1 v)
    ∧ Machine.xferOk (rack 2 2 { active := some .A }) .B = true ∧ Machine.xferOk (rack 2 2 { active := some .A }) .A = false
    ∧ (∀ x ∈ [((1 : Nat), (9 : Nat)), (1, 10), (2, 10), (4, 10), (5, 10)],
        let s := rack 2 2 { active := some .A, ramp := some ⟨x.1, .B, 0, x.2, 10⟩ }
        rackRuns s = true ∧ s.flow.ramp = some ⟨x.1, .B, 0, x.2, 10⟩ ∧ s.flow.vFormed = false)
    ∧ (rackRuns (rack 0 2 { active := some .A }) = true ∧ suddenDue (rack 0 2 { active := some .A }) = true)
    ∧ (let s := rack 0 0 { active := some .A, everActive := true }
       rackRuns s = true ∧ s.flow.everActive = true ∧ s.flow.state ≠ 3 ∧ s.flow.state ≠ 4 ∧ canCarry s .A = false ∧ canCarry s .B = false) :=
  ⟨fun v hv => by rcases List.mem_pair.mp hv with rfl | rfl <;> exact admits_of (by decide +kernel), by decide +kernel, by decide +kernel, by decide +kernel,
    by decide +kernel, by decide +kernel⟩

theorem witness_early_warning :
    let s : State := { rack 0 0 { state := 3 } with sq := { base.sq with order := [255], steps := [(255, { state := 2, ports := [2], members := [2] })] } }
    rackRuns s = true ∧ s.flow.state = 3 ∧ s.flow.warned = false ∧ storedKwh s ≤ cfgF s 0x2503 4 ∧ s.sq.shutdown = false
      ∧ (∃ i ∈ s.sq.order, startedStep (stepSt s i) = true ∧ ∃ n ∈ (stepSt s i).ports, clsOf s n = 5 ∧ (link s n).state = .running)
      ∧ (let t := { rack 0 0 { state := 4 } with shelf := { base.shelf with packs := [(0, { bound := some 9, energy := 1000 })] } }
         t.flow.state = 4 ∧ cfgF t 0x2503 4 < storedKwh t) := by decide +kernel

theorem witness_collapse : (∀ k ∈ [(3 : Nat), 4], (rack 0 0 { collapseArmed := true, collapseRun := k }).flow.collapseRun = k)
    ∧ rackRuns (rack 0 0 { collapseArmed := true }) = true ∧ (rack 0 0 { collapseArmed := true }).flow.collapseArmed = true
    ∧ portsOf (rack 0 0 {}) 4 = [8] := by decide +kernel

theorem witness_shed :
    let s := rack 2 2 { active := some .A, shedWant := true }
    rackRuns s = true ∧ s.flow.shedWant = true ∧ s.flow.active = some .A ∧ shedCandidates s ((modulesOf s .A).filter (available s)) = 1 :: []
      ∧ (∀ m ∈ allModules s, partner m ≠ 1) ∧ partner 1 ∉ allModules s := by decide +kernel

theorem witness_caps : (∀ v ∈ [(0 : Nat), 1], Admits base .service 0x2505 3 v)
    ∧ (let s := rack 2 2 { capShort := true, duty := 12, hardTime := 5 }
       rackRuns s = true ∧ tapStepDue s = true ∧ (rack 2 2 {}).flow.capShort = false)
    ∧ (let s (k : Nat) := rack 2 2 { slotRounds := k, slot := 15 }
       (s 1023).flow.slotRounds < cfg (s 1023) 0x2505 4 ∧ cfg (s 1024) 0x2505 4 ≤ (s 1024).flow.slotRounds ∧ (portsOf (s 1024) 5).Nodup
         ∧ (portsOf (s 1024) 5)[0]? = some 2) :=
  ⟨fun v hv => by rcases List.mem_pair.mp hv with rfl | rfl <;> exact admits_of (by decide +kernel), by decide +kernel, by decide +kernel⟩

/-- Pack 31 bound to port 9, in a condition. -/
def withPack (k : Pack) : State := { rack 2 2 {} with shelf := { base.shelf with packs := [(31, { k with bound := some 9 })] } }

/-- An open-circuit table that rises: 1.0, 2.0, … 11.0, and a mean of 1.5 for each of its cells, after 20 minutes of rest. -/
def rested (time : Rat) : State :=
  { withPack { resting := true, restTime := time, avgFrom := time - 60, avgN := 2, avgSum := 3 } with cfg := [(okey 0x261F 7, 1), (okey 0x26F1 1, 0x3F800000),
      (okey 0x26F1 2, 0x40000000), (okey 0x26F1 3, 0x40400000), (okey 0x26F1 4, 0x40800000), (okey 0x26F1 5, 0x40A00000), (okey 0x26F1 6, 0x40C00000),
      (okey 0x26F1 7, 0x40E00000), (okey 0x26F1 8, 0x41000000), (okey 0x26F1 9, 0x41100000), (okey 0x26F1 10, 0x41200000), (okey 0x26F1 11, 0x41300000)] }
theorem witness_long_rest :
    let s := rested 1200
    let v := (pack s 31).avgSum / (((pack s 31).avgN : Nat) : Rat) / series s 31
    boundTo s 31 ≠ none ∧ (pack s 31).resting = true ∧ (pack s 31).restDone = false ∧ 1200 ≤ (pack s 31).restTime ∧ (pack s 31).avgFrom + 60 ≤ (pack s 31).restTime
      ∧ 0 < (pack s 31).avgN ∧ domainRuns s = true ∧ s.boot.restarting = false ∧ (pack (rested 1199) 31).restTime < 1200
      ∧ (∀ j < 10, ocv s j < ocv s (j + 1)) ∧ ocv s 0 < v ∧ v ≤ ocv s (0 + 1) := by decide +kernel

theorem witness_pulse : (∀ c ∈ [((1 : Nat), (5 : Nat)), (2, 6)],
      let s (k : Nat) := withPack { chgState := c.1, chgSeams := k }
      (pack (s 0) 31).chgState = c.1 ∧ (pack (s 0) 31).chgSeams < seamsOf (s 0) (cfgF (s 0) 0x26F0 c.2)
        ∧ seamsOf (s 1000000) (cfgF (s 1000000) 0x26F0 c.2) ≤ (pack (s 1000000) 31).chgSeams) := by decide +kernel

theorem witness_identity_read :
    let s : State := { withPack {} with cfg := [(okey 0x261F 2, 0)] }
    (pack s 31).bound = some 9 ∧ kcfg s 31 2 ≠ 0xFF ∧ commands s = true ∧ s.boot.restarting = false ∧ (pack s 0).bound = none
      ∧ kcfg (withPack {}) 31 2 = 0xFF := by decide +kernel

theorem witness_pack_reset : ∀ v ∈ [(0 : Nat), 1], Admits base .service (0x2600 + (31 : PackId)) 10 v ∧ Admits base .service 0x26F0 12 v
    ∧ Admits base .service 0x26F0 15 v := fun v hv => by
  rcases List.mem_pair.mp hv with rfl | rfl <;> exact ⟨admits_of (by decide +kernel), admits_of (by decide +kernel), admits_of (by decide +kernel)⟩

theorem witness_shelf : base.boot.collarUp = true ∧ base.boot.restarting = false
    ∧ (∀ k ∈ [(2 : Nat), 3], (rack 2 2 { state := k }).flow.state = k) ∧ base.flow.state ≠ 2 ∧ base.flow.state ≠ 3
    ∧ base.shelf.btnUsed = false ∧ base.shelf.svcOpen = false ∧ ({ base.shelf with svcOpen := true } : Shelf).svcOpen = true
    ∧ battPorts (rack 2 2 {}) = [9] := by decide +kernel

/-- The battery port reports V_BUS as a sample code. -/
def busBack (code : BitVec 16) : State :=
  let s := rack 2 2 {}
  let s := setLink s 9 { link s 9 with frameOk := true, state := .hem }
  { setCtl s 9 { samples := [0, code, 0, 0, 0, 0, 0, 0, 0, 0, 0, 0] } with shelf := { s.shelf with ship := true } }

theorem witness_ship_exit : (busBack 0x3C00).shelf.ship = true ∧ busOk (busBack 0x3C00) = true ∧ battPorts (busBack 0x3C00) = [9]
    ∧ (link (busBack 0x3C00) 9).state = .hem ∧ portHeld { busBack 0x3C00 with shelf := { (busBack 0x3C00).shelf with ship := false } } 9 = false := by
  decide +kernel

theorem witness_seq_commands : (∀ v ∈ [(1 : Nat), 2], Admits base .service 0x23F0 1 v)
    ∧ (hasBit base.sq.sticky 1 = false ∧ base.sq.shutdown = false ∧ base.sq.failWant = false ∧ base.sq.state ≠ 1 ∧ base.sq.state ≠ 2 ∧ base.sq.runPend = none)
    ∧ (∀ i ∈ stepNos base, ¬(startedStep (stepSt base i) = true ∧ i ∈ base.sq.order))
    ∧ (let s : State := { rack 2 2 {} with sq := { base.sq with order := [255], steps := [(255, { state := 2, ports := [2], members := [2] })] } }
       s.sq.shutdown = false ∧ ∃ i ∈ stepNos s, startedStep (stepSt s i) = true ∧ i ∈ s.sq.order ∧ ∃ n ∈ (stepSt s i).ports, clsOf s n = 5 ∧ (link s n).state = .running)
    ∧ coldRunDue base = false ∧ powerRunDue base = true ∧ powerRunDue { base with sq := { base.sq with autoDone := true } } = false :=
  ⟨fun v hv => by rcases List.mem_pair.mp hv with rfl | rfl <;> exact admits_of (by decide +kernel), by decide +kernel, by decide +kernel, by decide +kernel,
    by decide +kernel, by decide +kernel, by decide +kernel⟩

/-- The table is to perform a step next, of an action, target and delay. -/
def stepping (i act target delay : Nat) : State :=
  let s : State := at_ 9 1 { state := .ready, cfgOk := true } {}
  { s with
    cfg := [(okey 0x3109 6, 0x41400000), (okey 0x3109 7, 0x3F800000), (okey 0x3109 9, 0x40000000), (okey (0x2400 + i) 1, act), (okey (0x2400 + i) 2, target),
      (okey (0x2400 + i) 10, delay)]
    sq := { s.sq with state := 1, nextWait := some 0, nextStep := i, order := [0], steps := [(0, { state := 1, ports := [9], members := [9] })] } }

theorem witness_steps : ∀ i ∈ [(0 : Nat), 255],
    let s := stepping i 1 9 0
    (s.sq.state = 1 ∧ s.sq.shutdown = false ∧ s.sq.failWant = false ∧ s.sq.nextWait = some 0 ∧ s.boot.restarting = false ∧ s.wheel.ris = 0 ∧ s.sq.nextStep = i)
      ∧ (stepCfg s i 1 = 1 ∧ stepCfg s i 2 < 0x100 ∧ (link s (stepCfg s i 2)).state = .ready ∧ startStatus s (stepCfg s i 2) = stOK ∧ clsOf s (stepCfg s i 2) = 1)
      ∧ (stepCfg (stepping i 2 0 7) i 1 = 2 ∧ stepCfg (stepping i 2 0 7) i 10 ≠ 0)
      ∧ stepCfg (stepping i 0 0 0) i 1 = 0 ∧ (∃ k ∈ s.sq.order, (stepSt s k).state ≠ 2) ∧ 256 ≤ (stepping 256 0 0 0).sq.nextStep := by decide +kernel

theorem witness_step_up :
    let s (pg : Nat) : State := { at_ 9 1 { state := .starting } { pgRun := pg } with
      cfg := [(okey 0x24FF 7, 5), (okey 0x24FF 8, 3)], wheel := { base.wheel with seam := 3 }
      sq := { base.sq with state := 1, ended := true, order := [255], steps := [(255, { state := 1, ports := [9], members := [9] })] } }
    ((stepSt (s 4) (255 : Fin 256)).state = 1 ∧ (s 4).boot.restarting = false ∧ (∃ n ∈ (stepSt (s 4) (255 : Fin 256)).members, (ctl (s 4) n).pgRun < stepCfg (s 4) (255 : Fin 256) 7))
      ∧ (∀ n ∈ (stepSt (s 5) (255 : Fin 256)).members, stepCfg (s 5) (255 : Fin 256) 7 ≤ (ctl (s 5) n).pgRun)
      ∧ ((s 5).sq.state = 1 ∧ (s 5).sq.ended = true ∧ ∀ j ∈ (s 5).sq.order, j = (255 : Fin 256).val ∨ (stepSt (s 5) j).state = 2)
      ∧ (stepSt (s 4) (255 : Fin 256)).members = [9] ∧ stepCfg (s 4) (255 : Fin 256) 8 ≤ ((s 4).wheel.seam - (stepSt (s 4) (255 : Fin 256)).startSeam).toNat
      ∧ ({ s 4 with wheel := { base.wheel with seam := 2 } }.wheel.seam - (stepSt (s 4) (255 : Fin 256)).startSeam).toNat < stepCfg (s 4) (255 : Fin 256) 8 := by
  decide +kernel

theorem witness_rail :
    let s : State := { rack 2 2 {} with sq := { base.sq with order := [7], steps := [(7, { state := 2, ports := [2, 8], members := [2, 8], fault := [8] })] } }
    let u := setLink s 8 { link s 8 with state := .hem }
    stepNos u = [7] ∧ railDue u 7 8 = true ∧ 7 ∈ u.sq.order ∧ (∃ m ∈ (stepSt u 7).ports, clsOf u m = 5 ∧ (link u m).state = .running)
      ∧ ∀ i ∈ stepNos s, railDue s i 0 = false := by decide +kernel

theorem witness_deadline :
    let s : State := { rack 2 2 {} with sq := { base.sq with shutdown := true, deadline := some 0, stopOrder := [7, 3], steps := [(7, { state := 2, ports := [2] })] } }
    s.sq.shutdown = true ∧ s.sq.deadline = some 0 ∧ s.sq.stopOrder = 7 :: [3] ∧ (stepSt s 7).state = 2 ∧ (stepSt s 7).ports = [2] ∧ (link s 2).state = .running
      ∧ base.sq.deadline ≠ some 0 := by decide +kernel

theorem witness_doubts : ((7 : Byte).toNat < 8 ∧ 1000 < 1001) ∧ ((8 : Byte).toNat ≥ 8 ∧ 1000 ≤ 1000)
    ∧ (let s : State := { base with hem := { base.hem with dieRun := 1 } }
       s.hem.dieRun ≥ 1 ∧ hasBit s.hem.summary 2 = false ∧ (List.replicate 8 (0x7FFF : BitVec 16)).length = 8 ∧ s.hem.summary &&& 0x1F = 0) := by
  decide +kernel

theorem witness_die_codes : (∃ x ∈ List.replicate 8 (0x7FFF : BitVec 16), cfgF base 0x2700 0x0B ≤ mkRat x.toInt 16)
    ∧ ∀ x ∈ List.replicate 8 (0 : BitVec 16), mkRat x.toInt 16 < cfgF base 0x2700 0x0B :=
  ⟨⟨0x7FFF, by decide, by decide +kernel⟩, fun x hx => by rw [List.eq_of_mem_replicate hx]; decide +kernel⟩

theorem witness_releases :
    let s : State := { setSleeve (at_ 255 1 { state := .hem } { tripped := true }) 31 { held := true } with hem := { base.hem with held := true } }
    (Admits s .service 0x2310 1 1 ∧ Admits s .service 0x2310 2 31 ∧ Admits s .service 0x2310 3 255 ∧ Admits s .service 0x2310 4 31)
      ∧ (s.hem.summary.toNat % 32 = 0 ∧ s.hem.held = true ∧ ({ s.hem with summary := 31 } : Hem).summary.toNat % 32 ≠ 0)
      ∧ (ctrlHeld s = true ∧ ctrlHeld base = false ∧ (sleeve s 31).sticky &&& 0x7F = 0 ∧ (sleeve s 31).held = true)
      ∧ (link base 255).state ≠ .hem ∧ clearPortRefused (at_ 255 1 { state := .hem } { tripped := true }) 255 = false :=
  ⟨⟨admits_of (by decide +kernel), admits_of (by decide +kernel), admits_of (by decide +kernel), admits_of (by decide +kernel)⟩, by decide +kernel, by decide +kernel,
    by decide +kernel, by decide +kernel⟩

theorem witness_group_release :
    let s : State := { at_ 255 1 { state := .hem } { tripped := true } with cfg := [(okey 0x321F 8, 0x80000001)] }
    members s 31 = [224, 255] ∧ (224 ∈ members s 31 ∧ clearPortRefused s 255 = false) ∧ (members s 31).find? (clearPortRefused s) = some 224
      ∧ ∀ n ∈ members { s with cfg := [(okey 0x321F 8, 0x80000000)] } 31, clearPortRefused s n = false := by decide +kernel

theorem witness_stale : ∀ k ∈ [(127 : Nat), 128],
    let s := at_ 9 1 { state := .running, groupCount := 1 } { ages := [(0, k)] }
    thermOn s 9 = true ∧ (ctl s 9).stale = false ∧ decide (∀ g < (link s 9).groupCount, tget 0 (ctl s 9).ages g < 128) = (k == 127) := by decide +kernel

/-- Every rack module runs in such a rack. -/
theorem witness_rack_modules (a b : Byte) (f : Flow) : feedRuns (rack a b f) = true ∧ holdRuns (rack a b f) = true ∧ capRuns (rack a b f) = true
    ∧ shareRuns (rack a b f) = true := ⟨rfl, rfl, rfl, rfl⟩

/-- The ramp of a restarted feed at its end, with a bus that is back and one that is not; the slots 15 and 0. -/
theorem witness_restart_ramp :
    let s (v : Rat) := rack 2 2 { active := some .A, ramp := some ⟨4, .B, 0, 10, 10⟩, vFormed := true, vBus := v }
    (s 0).flow.ramp = some ⟨4, .B, 0, 10, 10⟩ ∧ (s 0).flow.vFormed = true ∧ (s 0).flow.vBus < cfgF (s 0) 0x2503 2
      ∧ cfgF (s 900) 0x2503 2 ≤ (s 900).flow.vBus ∧ (rack 2 2 { slot := 15 }).flow.slot = 15 ∧ (rack 2 2 {}).flow.slot = 0
      ∧ (rack 0 2 { active := some .A }).flow.active = some .A ∧ suddenDue (rack 0 2 { active := some .A }) = true := by decide +kernel

theorem witness_identity_bound : boundTo { withPack {} with cfg := [(okey 0x261F 2, 0)] } 31 = some 9 ∧ boundTo (withPack {}) 0 = none := by decide +kernel

theorem witness_watchdog : base.boot.collarUp = true ∧ base.boot.restarting = false ∧ base.shelf.cwdSafe = false ∧ base.shelf.cwdTime < cfgF base 0x26F0 9
    ∧ (let s : State := { base with shelf := { base.shelf with cwdTime := 100000000 } }; cfgF s 0x26F0 9 ≤ s.shelf.cwdTime)
    ∧ (∀ k ∈ [(9 : Nat), 10], let s : State := { busBack 0x3C00 with shelf := { (busBack 0x3C00).shelf with busValid := (k : Rat) } }
        s.shelf.ship = true ∧ busOk s = true ∧ (decide (s.shelf.busValid < 10)) = (k == 9)) := by decide +kernel

/-- A step that fails, with members that may be dropped and with ones that may not; rails 1, 2, 7 and 8. -/
theorem witness_step_failure : (∀ d ∈ [(0 : Nat), 1],
      let s : State := { at_ 9 1 { state := .starting } { pgRun := 4 } with
        cfg := [(okey 0x24FF 7, 5), (okey 0x24FF 8, 3), (okey 0x24FF 0x0B, d)], wheel := { base.wheel with seam := 3 }
        sq := { base.sq with state := 1, order := [255], steps := [(255, { state := 1, ports := [9], members := [9] })] } }
      (stepSt s (255 : Fin 256)).state = 1 ∧ (stepSt s (255 : Fin 256)).members = [9] ∧ (ctl s 9).pgRun < stepCfg s (255 : Fin 256) 7
        ∧ stepCfg s (255 : Fin 256) 8 ≤ (s.wheel.seam - (stepSt s (255 : Fin 256)).startSeam).toNat ∧ stepCfg s (255 : Fin 256) 0x0B = d ∧ s.sq.failWant = false)
    ∧ ((1 : Byte).toNat < 2 ∧ 2 ≤ (2 : Byte).toNat ∧ (7 : Byte).toNat < 8 ∧ 8 ≤ (8 : Byte).toNat) := by decide +kernel

/-! ### Witnesses: pair and network -/

/-- A unit in a role with its mate link up. -/
def paired (r : Role) : State := { base with pair := { base.pair with role := r, link := 2, lanes := List.range 8, mateRole := some .active } }
def helloOf (unit : Nat) (r : Role) : Hello := ⟨unit, r, 0, 0, 0, 0, 0⟩

theorem witness_hello : (paired .out).pair.link = 2 ∧ base.pair.link ≠ 2 ∧ (paired .out).pair.settled = false ∧ (paired .out).pair.unit = 0
    ∧ (helloOf 0 .out).unit = (paired .out).pair.unit ∧ (helloOf 1 .out).unit ≠ (paired .out).pair.unit
    ∧ (helloOf 1 .solo).role = .solo ∧ ¬((helloOf 1 .out).role = .solo ∨ (helloOf 1 .out).role = .active)
    ∧ (∀ r ∈ [Role.out, .solo, .active, .hot, .joining, .cold], (paired r).pair.role = r)
    ∧ obeyCount (paired .solo) ((paired .solo).pair.unit + 1) = obeyCount (paired .solo) ((helloOf 1 .solo).unit + 1)
    ∧ ({ (paired .out).pair with settled := true } : Pair).settled = true ∧ helloDiffers (paired .solo) { helloOf 1 .out with ident := 1 } = true := by
  decide +kernel

theorem witness_solo_joins_equal : helloDiffers (paired .solo) (helloOf 1 .out) = false ∨ helloDiffers (paired .solo) (helloOf 1 .out) = true := by
  cases helloDiffers (paired .solo) (helloOf 1 .out) <;> simp

theorem witness_arbitration :
    let s : State := { paired .out with pair := { (paired .out).pair with unit := 1 } }
    (s.pair.settled = false ∧ s.pair.hello = none ∧ s.pair.role = .out)
      ∧ (let u := setLink s 255 { frameOk := true, obeys := 1 }; u.pair.unit = 1 ∧ ∃ x ∈ u.links, x.2.frameOk = true ∧ x.2.obeys = 1)
      ∧ ¬(s.pair.unit = 1 ∧ ∃ x ∈ s.links, x.2.frameOk = true ∧ x.2.obeys = 1) ∧ ¬(paired .solo).pair.role = .out := by decide +kernel

theorem witness_lanes : (∀ r ∈ [Role.joining, .hot], (paired r).pair.role = .joining ∨ (paired r).pair.role = .hot)
    ∧ (paired .active).pair.role ≠ .joining ∧ (paired .active).pair.role ≠ .hot := by decide +kernel

/-- A shadow unit: HOT, or JOINING at a step, with Sleeves that resynchronise. -/
def shadowing (r : Role) (step : Nat) (resync : Word) : State :=
  { paired r with pair := { (paired r).pair with join := some step, resync := resync } }

theorem witness_shadow : ((shadowing .hot 0 0).pair.role = .hot ∧ (shadowing .hot 0 0).pair.wheelGot = false)
    ∧ ((shadowing .joining 5 0).pair.role = .joining ∧ ∃ k, (shadowing .joining 5 0).pair.join = some k ∧ 5 ≤ k)
    ∧ ((shadowing .joining 4 0).pair.role = .joining ∧ ∃ k, (shadowing .joining 4 0).pair.join = some k ∧ k < 5)
    ∧ ((shadowing .hot 0 0x80000000).pair.role = .hot ∧ hasBit (shadowing .hot 0 0x80000000).pair.resync 31 = true)
    ∧ ¬((paired .active).pair.role = .joining) ∧ ¬((paired .active).pair.role = .hot) :=
  ⟨by decide +kernel, ⟨rfl, 5, rfl, by decide⟩, ⟨rfl, 4, rfl, by decide⟩, by decide +kernel, by decide +kernel, by decide +kernel⟩

theorem witness_stored_words : [((0 : Nat), (63 : Nat), (5 : Word)), (31, 0, 6)] = [] ++ (0, 63, 5) :: [(31, 0, 6)]
    ∧ (∀ y ∈ [((31 : Nat), (0 : Nat), (6 : Word))], (32 * (31 : SleeveId).val + y.1 % 32) * 4096 + 0xF00 + y.2.1 % 64 * 4 ≠ (32 * 31 + 0 % 32) * 4096 + 0xF00 + 63 % 64 * 4)
    ∧ (List.replicate 16 (0 : Word)).length = 16 ∧ (4095 < 4096 ∧ 4096 ≤ 4096) ∧ 4095 / 128 = 31 := by decide +kernel

theorem witness_digests :
    let s := shadowing .hot 0 0x1
    (hasBit s.pair.resync 31 = false ∧ (sleeve s 31).halted = false ∧ ({ s.pair with ownPrev := true } : Pair).ownPrev = true)
      ∧ (s.pair.ownPrev = false ∧ ((bytes 32)[31]?).getD 0 = (s.pair.frameOks[31]?).getD 0 ∧ ((List.replicate 32 (1 : Word))[31]?).getD 0 ≠ tget 0 s.pair.digests 31)
      ∧ ((List.replicate 32 (0 : Word))[31]?).getD 0 = tget 0 s.pair.digests 31 := by decide +kernel

theorem witness_takeover :
    let s := shadowing .hot 0 0
    (s.pair.role = .hot ∧ s.pair.mateRole = some .active ∧ s.pair.wheelGot = false ∧ s.pair.seedLeft = none ∧ s.pair.nextRole ≠ some .active ∧ s.boot.frozen = false)
      ∧ s.pair.resync = 0 ∧ (∃ n < 32, hasBit (shadowing .hot 0 0x80000000).pair.resync n = true)
      ∧ (let c : State := { paired .cold with cfg := [(okey 0x2201 4, 1)] }; c.pair.role = .cold ∧ cfg c 0x2201 4 = 1)
      ∧ (paired .active).pair.role ≠ .hot ∧ ({ s.pair with wheelGot := true } : Pair).wheelGot ≠ false := by decide +kernel

theorem witness_withdrawals :
    let s : State := { paired .active with pair := { (paired .active).pair with countPend := some 0 }, links := [(255, { frameOk := true, obeys := 2 })] }
    (s.pair.countPend = some 0 ∧ obeyCount s (s.pair.unit + 1) < obeyCount s (2 - s.pair.unit)) ∧ base.pair.countPend ≠ some 0
      ∧ (∀ v ∈ [(0 : Nat), 1], admitsB (paired .active) .service 0x2201 3 v = true ∧ admitsB (paired .active) .service 0x2201 5 v = true
          ∧ admitsB (paired .hot) .service 0x2201 5 v = true)
      ∧ (let u : State := { paired .active with pair := { (paired .active).pair with mateRole := some .hot } }
         u.pair.role = .active ∧ u.pair.mateRole = some .hot) := by decide +kernel

theorem witness_records : (paired .hot).pair.link = 2 ∧ base.pair.link ≠ 2
    ∧ ((paired .hot).pair.role = .hot ∧ (paired .hot).hem.summary &&& 0x1F = 0 ∧ (∀ n < 32, (sleeve (paired .hot) n).sticky &&& 0x7F = 0))
    ∧ commands (paired .active) = true ∧ commands (paired .hot) = false ∧ (0x2001 ≠ 0x2101 ∧ ¬(0x2001 = 0x2201 ∧ 1 = 1))
    ∧ (∀ r, Ctrl.handover ≠ Ctrl.role r) ∧ (paired .joining).pair.role = .joining ∧ (paired .hot).pair.role ≠ .joining :=
  ⟨by decide +kernel, by decide +kernel, by decide +kernel, by decide +kernel, by decide +kernel, by decide, (fun _ h => by cases h), by decide +kernel, by decide +kernel⟩

/-- Session 64 at a level, as it stands after SEQ 5; a message of it. -/
def talking (l : Level) : State := { base with net := { base.net with sessions := [(64, { session l with seq := 5, urgSeq := 5 })] } }
def auth (n : Nat) : Auth := ⟨64, n, true⟩

theorem witness_messages : messageOf (.close (auth 6)) = some (hostMsg (auth 6) .close)
    ∧ (∀ lvl nonce client, (hostMsg (auth 6) .close).req ≠ .openS lvl nonce client)
    ∧ (let r : State := { base with boot := { base.boot with restarting := true } }
       serverRuns r = false ∧ r.boot.restarting = true ∧ inReset r = false ∧ r.net.ingress.length < 256
         ∧ 256 ≤ ({ r.net with ingress := List.replicate 256 (hostMsg (auth 6) .close) } : Net).ingress.length)
    ∧ (serverRuns State.reset = false ∧ ¬(State.reset.boot.restarting = true ∧ inReset State.reset = false))
    ∧ serverRuns (talking .service) = true ∧ (⟨64, 6, false⟩ : Auth).macOk = false ∧ tfind base.net.sessions (auth 6).session = none
    ∧ tfind (talking .service).net.sessions (auth 5).session = some { session .service with seq := 5, urgSeq := 5 }
    ∧ ((auth 5).seq ≤ 5 ∧ 5 < (auth 6).seq ∧ (auth 6).macOk = true) :=
  ⟨rfl, (fun _ _ _ h => by cases h), by decide +kernel, by decide +kernel, by decide +kernel, rfl, by decide +kernel, by decide +kernel, by decide⟩

theorem witness_opening : serverRuns (talking .service) = true
    ∧ ((talking .service).net.sessions.find? fun x => x.2.clientNonce == 0) = some (64, { session .service with seq := 5, urgSeq := 5 })
    ∧ ((talking .service).net.sessions.find? fun x => x.2.clientNonce == 7) = none ∧ (talking .service).net.sessions.length < 64
    ∧ (base.boot.frozen = false ∧ base.boot.asleep = false ∧ (base.boot.recovery = true → Level.operate = .service))
    ∧ ¬({ base.boot with frozen := true } : Boot).frozen = false
    ∧ (let l : Tab Session := (List.range 64).map fun k => (k + 1, session .observe); 64 ≤ l.length ∧ l.find? (fun x => x.2.clientNonce == 7) = none) := by
  decide +kernel

theorem witness_closing : Admits (talking .service) .service 0x1100 7 64 ∧ Admits (talking .service) .service 0x1100 7 1
    ∧ tfind (talking .service).net.sessions 64 ≠ none ∧ tfind (talking .service).net.sessions 1 = none
    ∧ (talking .service).boot.asleep = false ∧ ({ base.boot with asleep := true } : Boot).asleep = true ∧ inReset base = false
    ∧ inReset { base with boot := { base.boot with tcxoLost := true } } = true :=
  ⟨admits_of (by decide +kernel), admits_of (by decide +kernel), by decide +kernel, by decide +kernel, by decide +kernel, by decide +kernel, by decide +kernel, by decide +kernel⟩

theorem witness_requests :
    let s := talking .service
    let x : Session := { session .service with seq := 5, urgSeq := 5 }
    serverRuns s = true ∧ (auth 6).macOk = true ∧ tfind s.net.sessions (auth 6).session = some x ∧ x.seq < (auth 6).seq
      ∧ s.boot.frozen = false ∧ s.boot.asleep = false
      ∧ (∀ i ∈ [(⟨0x293F, 1⟩ : ReadItem), ⟨0x2980, 1⟩], ¬(0x2940 ≤ i.index ∧ i.index < 0x2980))
      ∧ (∀ i ∈ [(⟨0x1FFF, 1, 2, [0]⟩ : WriteItem)], accessStatus (accepted s (auth 6) x) x.level i.index i.sub true ≠ stOK) := by decide +kernel

/-- A block of the pattern slot 0 in a download that has begun, and its first block. -/
def block (n off total : Nat) : DomainBlock := ⟨0x1801, 1, off, total, crc32 (bytes n), bytes n⟩

theorem witness_blocks :
    let s (st : Nat) : State := setDl (talking .service) 2 { state := st, total := 100 }
    let x : Session := { session .service with seq := 5, urgSeq := 5 }
    let u (st : Nat) := accepted (s st) (auth 6) x
    ∃ y r, dlTarget 0x1801 1 = some y ∧ rowHere (u 1) 0x1801 1 = some r ∧ r.ty = 12 ∧ accessStatus (u 1) x.level 0x1801 1 true = stOK
      ∧ badBlock (u 1) (block 4 96 100) = false ∧ (1 ≤ (block 4 96 100).data.length ∧ (block 4 96 100).data.length ≤ 1024) ∧ badTotal (block 4 96 100) = false
      ∧ gated (u 1) 0x1801 1 = false ∧ (dl (setDl (talking .service) y { state := 1, total := 100 }) y).state = 1
      ∧ dlState (setDl (talking .service) y { state := 1, total := 100 }) y = false ∧ dlState (talking .service) y = false ∧ (dl (talking .service) y).state ≠ 1
      ∧ (100 < (block 5 96 100).offset + (block 5 96 100).data.length) ∧ crc32 (bytes 1) ≠ 0 :=
  ⟨_, _, rfl, rfl, by decide +kernel⟩

theorem witness_domain_reads :
    let x : Session := { session .service with seq := 5, urgSeq := 5 }
    let u := accepted (talking .service) (auth 6) x
    (talking .service).boot.asleep = false ∧ ∃ r len, rowHere u 0x2801 1 = some r ∧ domainLen u 0x2801 1 = some len ∧ accessStatus u x.level 0x2801 1 false = stOK
      ∧ r.ty = 12 ∧ len ≤ len :=
  ⟨by decide +kernel, _, _, rfl, rfl, by decide +kernel⟩

theorem witness_subscribing : (15 ≤ 15 ∧ [(⟨0x1000, 1⟩ : ReadItem)].length ≤ 32 ∧ 65535 ≤ 65535) ∧ ¬(16 ≤ 15) ∧ ¬(65536 ≤ 65535)
    ∧ ((talking .service).net.subs.filter fun y => !(y.session == 64 && y.subId == 15)).length < 256
    ∧ (let u := accepted (talking .service) (auth 6) { session .service with seq := 5, urgSeq := 5 }
       [(⟨0x1000, 1⟩ : ReadItem)].filter (fun i => subStatus u .service i == stOK) ≠ [] ∧ [(⟨0x1FFF, 1⟩ : ReadItem)].filter (fun i => subStatus u .service i == stOK) = []) := by
  decide +kernel

theorem witness_urgent : urgentOf (.cap (auth 6) 1) = some (auth 6, 2, 1) ∧ urgentOf (.hush (auth 6)) = some (auth 6, 1, 0)
    ∧ responderRuns (talking .operate) = true ∧ responderRuns { base with boot := { base.boot with tcxoLost := true } } = false
    ∧ (∀ l ∈ [Level.observe, .operate], (tfind (talking l).net.sessions 64).map (·.level) = some l)
    ∧ ((auth 5).seq ≤ 5 ∧ 5 < (auth 6).seq ∧ (1 : Byte).toNat ≤ 1 ∧ ¬(2 : Byte).toNat ≤ 1) ∧ commands (talking .operate) = true ∧ commands (paired .hot) = false
    ∧ (∀ v ∈ [(0 : Nat), 1], admitsB base .operate 0x1130 1 v = true) := by decide +kernel

theorem witness_keys : (serverRuns base = true ∧ base.boot.frozen = false)
    ∧ accessStatus (taken base) .operate 0x1200 4 true ≠ stOK ∧ accessStatus (taken base) .factory 0x1200 1 true = stOK
    ∧ accessStatus (taken base) .operate 0x1210 4 true ≠ stOK ∧ accessStatus (taken base) .factory 0x1210 1 true = stOK
    ∧ (bytes 31).length ≠ 32 ∧ (∀ x ∈ bytes 32, x = 0) ∧ (∃ x ∈ (1 : Byte) :: bytes 31, x ≠ 0) ∧ ((1 : Byte) :: bytes 31).length = 32
    ∧ (bytes 97).length = 97 ∧ (bytes 96).length ≠ 97 ∧ gated base 0x1200 1 = false ∧ gated base 0x1210 1 = false := by decide +kernel

theorem witness_periods :
    let x (d : Option (Word × List Byte)) : Sub := ⟨.host, 64, 1, 100, [(0x1000, 1)], 100, 0, d⟩
    let l (d : Option (Word × List Byte)) : List Sub := [x d]
    ((l none).find? fun y => y.session == 64 && y.subId == 1) = some (x none) ∧ ((l none).find? fun y => y.session == 64 && y.subId == 2) = none
      ∧ ((l (some (3, [1]))).find? fun y => y.session == 64 && y.subId == 1) = some (x (some (3, [1]))) ∧ (x none).due = none ∧ (x (some (3, [1]))).due = some (3, [1])
      ∧ (talking .observe).net.hushed = false ∧ (x none).dest ≠ .smb := by decide +kernel

/-- A role that the mate has been told, one that it has not, and an ACTIVE that has copied nothing yet. -/
theorem witness_told : (let s : State := { paired .active with pair := { (paired .active).pair with told := .active } }; s.pair.told = s.pair.role)
    ∧ (let s : State := { paired .active with pair := { (paired .active).pair with told := .out } }
       s.pair.told ≠ s.pair.role ∧ s.pair.role = .active ∧ s.pair.link = 2 ∧ s.pair.copied = false ∧ ({ s.pair with copied := true } : Pair).copied = true)
    ∧ (let s : State := { paired .active with cfg := [(okey 0x2001 3, 5)], net := { base.net with levelKeys := [(1, [1])], imageKeys := [(4, [2])], labels := [(31, [3])] } }
       tfind s.cfg (okey 0x2001 3) = some 5 ∧ tfind s.net.levelKeys 1 = some [1] ∧ tfind s.net.imageKeys 4 = some [2] ∧ tfind s.net.labels 31 = some [3]) := by
  decide +kernel

/-- An ACTIVE whose HOT mate differs in the uplinks of Sleeve 31; a shadow unit whose Sleeves agree. -/
theorem witness_split :
    let s : State := { paired .active with pair := { (paired .active).pair with mateRole := some .hot } }
    (s.pair.role = .active ∧ s.pair.mateRole = some .hot ∧ (sleeve s 31).halted = false
        ∧ ((bytes 31 ++ [1])[31]?).getD 0 ≠ (s.pair.frameOks[31]?).getD 0 ∧ ∀ y ∈ s.pair.sweepSl, y.1 ≠ 31)
      ∧ (∀ y ∈ ({ s.pair with sweepSl := [(31, 5)] } : Pair).sweepSl, ¬y.1 ≠ 31)
      ∧ (let h := shadowing .hot 0 0
         h.pair.ownPrev = false ∧ (∀ n < 32, ((bytes 32)[n]?).getD 0 = (h.pair.frameOks[n]?).getD 0)
           ∧ (∀ n < 32, ((List.replicate 32 (0 : Word))[n]?).getD 0 = tget 0 h.pair.digests n)) := by decide +kernel

/-- A HOT unit that takes over with Sleeve 31 in resynchronisation, and one for which it has been swept whole. -/
theorem witness_seeding_takeover : let s := shadowing .hot 0 0x80000000
    s.pair.role = .hot ∧ s.pair.mateRole = some .active ∧ s.pair.wheelGot = false ∧ s.pair.seedLeft = none ∧ s.pair.nextRole ≠ some .active
      ∧ s.boot.frozen = false ∧ hasBit s.pair.resync 31 = true ∧ hasBit s.pair.resync 30 = false ∧ covered s 1023 = false ∧ covered s 0 = true := by
  decide +kernel

/-- A unit that does not command, under the mate's records. -/
theorem witness_mirrored : (let s : State := { exported with pair := (paired .hot).pair }
      s.pair.link = 2 ∧ commands s = false ∧ (paramAt s 0x5000 1).isSome = true ∧ paramAt s 0x3109 1 = none ∧ isImage 0x3109 = false ∧ isImage 0x33FF = true
        ∧ s.pair.role ≠ .joining ∧ ¬(0x2001 = 0x2201 ∧ 3 = 1))
    ∧ (let s := setSleeve (paired .hot) 31 { sticky := 4 }; ∃ n < 32, (sleeve s n).sticky &&& 0x7F ≠ 0) :=
  ⟨by decide +kernel, 31, by decide +kernel⟩

/-! ### Witnesses: interfaces, recorder, peripherals, start-up -/

theorem witness_ethernet :
    let s : State := { base with cfg := [(okey 0x1101 9, 7), (okey 0x1102 9, 0)] }
    let u (k : Rat) : State := { base with net := { base.net with urgTokens := [(0, k)], tokens := [(0, k)] } }
    (inReset s = false ∧ s.boot.coldP0 = false)
      ∧ ((1522 ≤ 1522 ∧ some 7 = some (cfg s (0x1101 + (0 : Fin 2)) 9)) ∧ ¬(1523 ≤ 1522) ∧ cfg s (0x1101 + (1 : Fin 2)) 9 = 0)
      ∧ (rmin 256 (tget 256 (u 0).net.tokens 0 + 50000 * ((19 : Nat) : Rat) / 1000000) < 1 ∧ 1 ≤ rmin 256 (tget 256 (u 0).net.tokens 0 + 50000 * ((20 : Nat) : Rat) / 1000000))
      ∧ (rmin 16 (tget 16 (u 0).net.urgTokens 0 + 1000 * ((999 : Nat) : Rat) / 1000000) < 1 ∧ 1 ≤ rmin 16 (tget 16 (u 0).net.urgTokens 0 + 1000 * ((1000 : Nat) : Rat) / 1000000))
      ∧ rmin 256 (tget 256 (u 0).net.tokens 0 + 50000 * ((1000 : Nat) : Rat) / 1000000) = 50
      ∧ cfg s (0x1101 + (0 : Fin 2)) 10 ≠ 0 ∧ leAt [1, 0x30] 1 1 = 0x30 := by decide +kernel

/-- A datagram that holds one URGENT message: HUSH, of session 64. -/
def hushBytes : List Byte := [1, 0x30, 0, 0, 64, 0, 0, 0, 6, 0, 0, 0, 4, 0, 0, 0, 1, 0, 0, 0] ++ bytes 32

theorem witness_urgent_frame : (parseMsg (.eth 0 0 7) true hushBytes).req = .urgent 1 0 := by decide +kernel

theorem witness_can :
    let s : State := { base with cfg := [(okey 0x1110 1, 1), (okey 0x1110 2, 127)] }
    let t : State := { s with net := { s.net with parts := [(5 * 16 + 15, ⟨63, [9]⟩)] } }
    let ident : BitVec 29 := BitVec.ofNat 29 (127 * 2 ^ 19 + 5 * 2 ^ 12 + 15 * 256)
    (cfg s (0x1110 + (0 : Fin 2)) 1 ≠ 0 ∧ ident.toNat / 2 ^ 19 % 128 = cfg s (0x1110 + (0 : Fin 2)) 2)
      ∧ ¬(cfg base (0x1110 + (0 : Fin 2)) 1 ≠ 0 ∧ ident.toNat / 2 ^ 19 % 128 = cfg base (0x1110 + (0 : Fin 2)) 2)
      ∧ ((0x81 : Byte).toNat.testBit 7 = true ∧ (0x81 : Byte).toNat % 64 ≠ 0) ∧ ((0x80 : Byte).toNat.testBit 7 = true ∧ (0x80 : Byte).toNat % 64 = 0 ∧ ¬(0x80 : Byte).toNat.testBit 6 = true)
      ∧ (0xC0 : Byte).toNat.testBit 6 = true ∧ ((0x3F : Byte).toNat.testBit 7 = false ∧ tfind s.net.parts (0 * 65536 + ident.toNat / 2 ^ 12 % 128 * 16 + ident.toNat / 256 % 16) = none)
      ∧ tfind t.net.parts (0 * 65536 + ident.toNat / 2 ^ 12 % 128 * 16 + ident.toNat / 256 % 16) = some ⟨63, [9]⟩
      ∧ ((0x3F : Byte).toNat % 64 = 63 ∧ (0x3E : Byte).toNat % 64 ≠ 63 ∧ (0x7F : Byte).toNat % 64 = 63 ∧ (0x7F : Byte).toNat.testBit 6 = true) := by decide +kernel

theorem witness_smbus : cfg base 0x1118 2 = 0 ∧ ¬(base.net.smbBusy = true ∨ ((true : Bool) = true ∧ (true : Bool) = false) ∨ ((true : Bool) = false ∧ cfg base 0x1118 2 ≠ 0))
    ∧ (bytes 1248).length ≤ 1248 ∧ base.net.smbReq = [] ∧ ({ base.net with smbBusy := true } : Net).smbBusy = true ∧ base.net.smbReady = false
    ∧ (let n : Net := { base.net with smbReady := true, smbResp := bytes 255, smbSent := 254 }
       n.smbReady = true ∧ ((n.smbResp.drop n.smbSent).take 254).length = 1) := by decide +kernel

/-- A record of 32 bytes. -/
def rec32 (code : Nat) (seq : Word) : Rec := ⟨code, seq, bytes 32⟩
/-- With records that wait for a flush. -/
def buffered (l : List Rec) : State := { base with recorder := { base.recorder with buffer := l } }

theorem witness_flush :
    (∀ k ∈ [(1 : Nat), 2, 3, 0x10, 0x30], critical k = true) ∧ critical 4 = false
      ∧ (collarRuns (buffered [rec32 1 5]) = true ∧ (buffered [rec32 1 5]).recorder.head ≤ ringSize ∧ bufferFill [rec32 1 5] ≤ 262144)
      ∧ (∀ r ∈ [rec32 1 5, rec32 4 6], r.bytes.length ≤ 1024)
      ∧ (∃ r ∈ (buffered [rec32 1 5]).recorder.buffer, critical r.code = true) ∧ (¬∃ r ∈ [rec32 4 5], critical r.code = true) ∧ bufferFill [rec32 4 5] < 131072
      ∧ collarRuns State.reset = false :=
  ⟨by decide, by decide, by decide +kernel, by decide +kernel, ⟨rec32 1 5, by decide +kernel, by decide⟩, by decide +kernel, by decide +kernel, by decide +kernel⟩

theorem witness_power_fail : collarRuns base = true ∧ base.boot.frozen = false ∧ (3000 < 3001 ∧ ¬(3000 < 3000))
    ∧ ¬(collarRuns { base with boot := { base.boot with frozen := true } } = true ∧ (true : Bool) = false) := by decide +kernel

theorem witness_fold :
    let s (hours : Nat) : State := { base with
      boot := { base.boot with hours := hours }, recorder := { base.recorder with lastFold := some 0, stageBins := [(3, 5), (4, 0xFFFFFFFF)] } }
    (∀ v ∈ [(0 : Nat), 1], admitsB (s 16) .service 0x6080 3 v = true)
      ∧ (hoursNow (s 15) < 0 + 16 * 65536 ∧ 0 + 16 * 65536 ≤ hoursNow (s 16)) ∧ base.recorder.lastFold = none
      ∧ (s 16).recorder.wipe = [] ∧ ((s 16).recorder.stageBins.map fun x => x.1).Nodup := by decide +kernel

theorem witness_locate :
    let s : State := { talking .service with recorder := { base.recorder with buffer := [rec32 4 5], held := [(0, 32, 4)], head := 32, newest := 5, oldest := 4 } }
    (∃ x, tfind s.net.sessions 64 = some x) ∧ tfind base.net.sessions 64 = none
      ∧ ((ringOver s).held.find? fun r => r.2.2 == 5) = some (32, 32, 5) ∧ ∀ r ∈ (ringOver s).held, r.2.2 ≠ 6 :=
  ⟨⟨_, rfl⟩, by decide +kernel, by decide +kernel, by decide +kernel⟩

/-- With the trace ring and its state. -/
def traced (f : Recorder → Recorder) : State := { base with recorder := f base.recorder }

theorem witness_trace : ((traced fun r => { r with traceState := 1 }).recorder.traceState = 1 ∧ (traced fun r => { r with traceState := 1 }).recorder.postLeft = 0)
    ∧ ¬(base.recorder.traceState = 1 ∧ base.recorder.postLeft = 0) ∧ ¬(base.recorder.traceState = 2 ∧ collarRuns base = true)
    ∧ ((traced fun r => { r with traceState := 2 }).recorder.traceState = 2 ∧ collarRuns (traced fun r => { r with traceState := 2 }) = true)
    ∧ (let m : Mem := [(0, 1), (512 * 4096 - 1, 2)]; Memory.wf m = true ∧ (∀ c ∈ m, c.1 < 512 * 4096)) ∧ base.recorder.lenNow ≤ 512 := by decide +kernel

theorem witness_triggers :
    let s (src : Nat) (f : Recorder → Recorder) : State := { traced f with cfg := [(okey 0x2810 4, src), (okey 0x2810 6, 0)] }
    (∀ v ∈ [(0 : Nat), 1], admitsB (s 8 id) .service 0x2810 5 v = true) ∧ (cfg (s 7 id) 0x2810 4).testBit 3 = false ∧ (cfg (s 8 id) 0x2810 4).testBit 3 = true
      ∧ (s 8 id).recorder.traceState = 0
      ∧ ¬(slotCount (s 8 id).recorder.lenNow ≤ (s 8 id).recorder.slots.length ∧ cfg (s 8 id) 0x2810 6 = 0)
      ∧ (let u := s 8 fun r => { r with slots := [0, 1, 2, 3] }; slotCount u.recorder.lenNow ≤ u.recorder.slots.length ∧ cfg u 0x2810 6 = 0)
      ∧ (s 8 fun r => { r with traceState := 3 }).recorder.traceState ≠ 0
      ∧ (∀ v ∈ [(3 : Nat), 4], admitsB base .service 0x2810 8 v = true) ∧ slotCount base.recorder.lenNow ≤ 4 ∧ 3 < slotCount base.recorder.lenNow := by
  decide +kernel

theorem witness_freeze : (base.boot.freezing = 0 ∧ base.boot.frozen = false ∧ base.boot.recovery = false)
    ∧ ¬(({ base.boot with freezing := 1 } : Boot).freezing = 0) ∧ (∀ v ∈ [(0 : Nat), 1], admitsB base .service 0x2820 1 v = true) := by decide +kernel

/-- With two-wire controller 7 in a condition. -/
def wires (w : Tw) : State := { base with tws := [(7, w)] }
/-- CTRL with ENABLE. -/
def twOn : Word := 0x00600001

theorem witness_two_wire :
    (let s := wires { ctrl := twOn, queue := [(1, noXfer), (2, noXfer), (3, noXfer)], count := 3 }
     serverRuns s = true ∧ s.boot.frozen = false ∧ accessStatus (taken s) .service (0x2900 + (7 : TwId)) 0x10 true = stOK ∧ accessStatus (taken s) .observe (0x2900 + (7 : TwId)) 0x10 true ≠ stOK
       ∧ hasBit (twc s 7).ctrl 0 = true ∧ (twc s 7).queue.length < 4 ∧ gated s (0x2900 + (7 : TwId)) 0x10 = false)
      ∧ (let w : Tw := { ctrl := twOn, queue := List.replicate 4 (1, noXfer) }; 4 ≤ w.queue.length)
      ∧ ¬((noXfer.timeout.toNat = 0 ∨ 1000 < noXfer.timeout.toNat ∨ 255 < noXfer.wdata.length)) ∧ 255 < (bytes 256).length
      ∧ hasBit (twc base 7).ctrl 0 = false ∧ (twc (wires { ctrl := twOn, queue := [(1, noXfer)] }) 7).queue = (1, noXfer) :: [] := by decide +kernel

theorem witness_two_wire_settings :
    let s := wires { ctrl := twOn }
    (serverRuns s = true ∧ s.boot.frozen = false ∧ accessStatus (taken s) .service (0x2900 + (7 : TwId)) 1 true = stOK ∧ gated s (0x2900 + (7 : TwId)) 1 = false)
      ∧ ([(1, 0x00600001), (1, 0x00603001), (2, 0x01F40190), (2, 0x01F40009), (3, 0x0032001E), (5, 10), (5, 4095)].all fun x =>
          admitsB s .service 0x2907 x.1 x.2) = true
      ∧ (10 ≤ (0x01F4000A : Word).toNat % 65536 ∧ ¬10 ≤ (0x01F40009 : Word).toNat % 65536)
      ∧ ((0x0032001E : Word).toNat / 65536 + (0x0032001E : Word).toNat % 65536 + 4 ≤ (twLatest (twc s 7) 2).toNat / 65536)
      ∧ hasBit (0x00600001 : Word) 1 = false ∧ hasBit ({ ctrl := 0x400, alert := true } : Tw).ctrl 10 = true := by decide +kernel

/-- With timer channels. -/
def clocks (l : Tab Timer) : State := { base with timers := l }
/-- CTRL: enabled and clocked by CLK; TRIG_SRC, the event and the action of a channel that listens. -/
def onCtrl (act evt src : Nat) : Word := BitVec.ofNat 32 (2 ^ 31 + act * 2 ^ 29 + src * 2 ^ 26 + evt * 2 ^ 25)

/-- Channel 8 alone, and channel 8 with a channel u of its group that listens to its wraps. -/
def alone : State := clocks [(8, { ctrl := onCtrl 0 0 0 })]
def pairOf (u : Nat) (act : Nat) : State := clocks [(8, { ctrl := onCtrl 0 0 0, preCompare := 9 }), (u, { ctrl := onCtrl act 0 0, compare := 5 })]

theorem witness_timers : (tRuns alone 8 = true ∧ trigClocked alone 8 = false ∧ tickClocked alone 8 = false) ∧ tRuns base 8 = false
    ∧ (let s := pairOf 15 2; listeners s 8 0 2 = [15] ∧ (tmr s 15).compare ≠ 0 ∧ (tmr s 8).preCompare ≠ 0 ∧ tRuns s 8 = true)
    ∧ (let s := pairOf 9 3
       listeners s 8 0 3 = [9] ∧ domainRuns s = true ∧ hasBit (tmr s 9).ctrl 14 = false ∧ (tmr s 9).presc = tcf (tmr s 9) 0 8
         ∧ (tmr s 9).count ≠ (tmr s 9).period ∧ (tmr s 9).count + 1 ≠ (tmr s 9).compare ∧ cascade s 8 = true ∧ 8 % 2 = 0)
    ∧ cascade alone 8 = false := by decide +kernel

theorem listeners_none {s : State} {t : Nat} (evt act : Nat) (h : ∀ j < 8, (t / 8 * 8 + j != t && tEnabled (tmr s (t / 8 * 8 + j)) && trigSrc s (t / 8 * 8 + j) == t) = false) :
    listeners s t evt act = [] := by
  simp only [listeners, List.filterMap_eq_nil_iff, List.mem_range]
  intro j hj
  have := h j hj
  rw [if_neg]
  intro hc
  simp only [Bool.and_eq_true, beq_iff_eq] at hc
  simp_all

theorem listeners_act {s : State} {t : Nat} (evt act a : Nat)
    (h : ∀ j < 8, (t / 8 * 8 + j != t && tEnabled (tmr s (t / 8 * 8 + j))) = true →
      tcf (tmr s (t / 8 * 8 + j)) 29 2 = a ∧ tcf (tmr s (t / 8 * 8 + j)) 25 1 = 0) (hn : ¬(evt = 0 ∧ act = a)) : listeners s t evt act = [] := by
  simp only [listeners, List.filterMap_eq_nil_iff, List.mem_range]
  intro j hj
  rw [if_neg]
  intro hc
  simp only [Bool.and_eq_true, beq_iff_eq] at hc
  have := h j hj (by simp only [Bool.and_eq_true]; exact hc.1.1.1)
  omega

theorem witness_quiet : (∀ evt act, listeners alone 8 evt act = []) ∧ (∀ evt act, ¬(evt = 0 ∧ act = 2) → listeners (pairOf 15 2) 8 evt act = [])
    ∧ (∀ evt act, listeners (pairOf 15 2) 15 evt act = []) ∧ ∀ evt act, ¬(evt = 0 ∧ act = 3) → listeners (pairOf 9 3) 8 evt act = [] :=
  ⟨fun evt act => listeners_none evt act (by decide +kernel), fun evt act => listeners_act evt act 2 (by decide +kernel),
    fun evt act => listeners_none evt act (by decide +kernel), fun evt act => listeners_act evt act 3 (by decide +kernel)⟩

theorem witness_captures :
    let s := clocks [(3, { ctrl := onCtrl 0 0 0 ||| 0x1000, caps := [1, 2, 3] }), (4, { caps := [9] })]
    (tEnabled (tmr s 3) = true ∧ tcf (tmr s 3) 12 2 = 1 ∧ domainRuns s = true ∧ (tmr s 3).caps.length < 4) ∧ 4 ≤ ([1, 2, 3, 4] : List Word).length
      ∧ tEnabled (tmr s 4) = false ∧ serverRuns s = true ∧ (tmr s 4).caps = 9 :: [] ∧ (tmr s 5).caps = []
      ∧ accessStatus s .observe (0x2940 + (4 : TimerId)) 6 false = stOK ∧ accessStatus s .operate (0x2940 + (4 : TimerId)) 2 false = stOK ∧ accessStatus s .observe (0x2940 + (4 : TimerId)) 2 false ≠ stOK
      ∧ accessStatus s .observe (0x2940 + (4 : TimerId)) 8 false = stOK
      ∧ ([(2, 0), (3, 0xFFFFFFFF), (4, 0xFFFFFFFF)].all fun x => admitsB s .service 0x2944 x.1 x.2) = true := by decide +kernel

theorem witness_pins : ([13, 14, 15, 16].all fun sub => admitsB base .service 0x29C0 sub 0xFFFF) = true := by decide +kernel

theorem witness_resets : (base.hem.killLow = false ∧ ({ base.hem with killLow := true } : Hem).killLow = true ∧ inReset base = false)
    ∧ inReset { base with boot := { base.boot with internal := true } } = true := by decide +kernel

theorem witness_p0 :
    let s (l : Tab Bool) (f : Boot → Boot) : State := { base with boot := f { base.boot with slotValid := l } }
    (let u := s [(0, true)] fun b => { b with restarting := true }; inReset u = false ∧ u.boot.coldP0 = false ∧ u.boot.restarting = true ∧ slotOk u u.boot.bootSlot = true)
      ∧ (let u := s [] fun b => { b with coldP0 := true }
         u.boot.coldP0 = true ∧ u.boot.trial = false ∧ u.net.ingress = [] ∧ slotOk u u.boot.bootSlot = false ∧ slotOk u (1 - u.boot.bootSlot) = false)
      ∧ (let u := s [(1, true)] fun b => { b with coldP0 := true }; 1 = 1 - u.boot.bootSlot ∧ slotOk u u.boot.bootSlot = false ∧ slotOk u 1 = true)
      ∧ (let u := s [(0, true)] fun b => { b with coldP0 := true }; 0 = u.boot.bootSlot ∧ slotOk u 0 = true) := by decide +kernel

theorem witness_restart : collarRuns base = true ∧ collarRuns State.reset = false
    ∧ (let p : PendWrite := ⟨0x33FF, 1, 0, 0⟩; isImage p.index = true) ∧ imageGroup 0x33FF = 32 := by decide +kernel

theorem witness_sleep :
    let s : State := { base with boot := { base.boot with wave := 8 } }
    let z : State := { base with boot := { base.boot with asleep := true }, cfg := [(okey 0x26F0 19, 8)] }
    (powerState s = 2 ∨ powerState s = 3 ∨ powerState s = 5) ∧ s.pair.role = .solo ∧ s.boot.sleeping = none
      ∧ (∀ x ∈ s.links, x.2.state ≠ .starting ∧ x.2.state ≠ .running ∧ x.2.state ≠ .stopping)
      ∧ (∀ v ∈ [(0 : Nat), 1], admitsB s .service 0x1020 4 v = true) ∧ (∀ v ∈ [(0 : Nat), 1], admitsB z .service 0x1020 5 v = true)
      ∧ z.boot.asleep = true ∧ ((cfg z 0x26F0 19).testBit (3 : Fin 4) = true ∧ (cfg z 0x26F0 19).testBit (2 : Fin 4) = false)
      ∧ (at_ 3 1 { state := .running } {}).links.any (fun x => x.2.state == .running) = true := by decide +kernel

/-- A header of an image: its kind, stage, size, version and family, with its own CRC. -/
def header (kind stage size ver fam : Nat) : List Byte :=
  let h := leBytes 4 0x474D4946 ++ leBytes 2 1 ++ leBytes 1 kind ++ leBytes 1 stage ++ leBytes 4 size ++ leBytes 4 ver ++ leBytes 2 fam ++ bytes 10
  h ++ wordBytes (crc32 h)
/-- Target x, VERIFYING, with a header in its place. -/
def verifying (x : Nat) (h : List Byte) (total : Nat) : State :=
  let s := setDl base x { state := 2, total := total, area := 15 }
  { s with mram := mwrite [] (dlAddr s x) h, net := { s.net with imageKeys := [(4, [1])] } }

theorem witness_images :
    (∀ x ∈ [((1 : Nat), (1 : Nat), (0 : Nat), (9 : Nat)), (4, 2, 4, 262144)],
      let s := verifying x.1 (header x.2.1 x.2.2.1 x.2.2.2 5 77) x.2.2.2
      let h := mread s.mram (dlAddr s x.1) 32
      (dl s x.1).state = 2 ∧ leAt h 0 4 = 0x474D4946 ∧ leAt h 4 2 = 1 ∧ leAt h 0x1C 4 = (crc32 (h.take 28)).toNat ∧ leAt h 0x13 9 = 0
        ∧ leAt h 8 4 = (dl s x.1).total ∧ leAt h 8 4 ≤ dlSize x.1 ∧ leAt h 6 1 = x.2.1 ∧ leAt h 7 1 = x.2.2.1 ∧ leAt h 0x10 2 = 77
        ∧ (x.1 = 4 → tget [] s.net.imageKeys (leAt h 7 1) ≠ []) ∧ cfg s 0x1800 10 ≤ leAt h 0x0C 4)
      ∧ (dl base 1).state ≠ 2 ∧ leAt (mread base.mram 0 32) 0 4 ≠ 0x474D4946
      ∧ (let s : State := { base with cfg := [(okey 0x1800 10, 6)] }; ¬cfg s 0x1800 10 ≤ 5) := by decide +kernel

theorem witness_downloads :
    let s := setDl base 4 { state := 1 }
    (dl s 4).state = 1 ∧ (dl s 3).state ≠ 1 ∧ ([(0, 0), (4, 0), (4, 1)].all fun x => admitsB s .service (0x1808 + x.1) 5 x.2) = true := by decide +kernel

theorem witness_activation :
    let s : State := { setDl base 1 { state := 3 } with links := [(255, { state := .hem, fwFamily := 77 })], cfg := [(okey 0x1810 1, 255)] }
    let u : State := { s with boot := { s.boot with areas := [(15, (77, 5))], slotVer := [(0, 6)] } }
    ((dl s 1).state = 3 ∧ (dl s 0).state ≠ 3 ∧ s.boot.recovery = false)
      ∧ ¬(s.pat.shadowState = 2 ∨ s.arm.queued = true ∨ s.arm.state = 1 ∨ s.arm.state = 2 ∨ ∃ p ∈ s.net.pend, isImage p.index = true)
      ∧ ([(6, 0), (6, 1), (7, 0), (7, 1), (10, 6)].all fun x => admitsB u .service 0x1800 x.1 x.2) = true
      ∧ ([(0 : Nat), 1].all fun v => admitsB u .service 0x1810 2 v) = true
      ∧ (cfg u 0x1800 10 ≤ 6 ∧ u.boot.trial = false ∧ 6 ≤ (slotVersion u u.boot.runningSlot).toNat ∧ ¬7 ≤ (slotVersion u u.boot.runningSlot).toNat)
      ∧ (cfg u 0x1810 1 = 255 ∧ (link u 255).state = .hem ∧ commands u = true ∧ (areaOf u (link u 255).fwFamily).isSome = true ∧ (link u 255).fwLoad = 0)
      ∧ (areaOf s (link s 255).fwFamily).isSome = false ∧ ({ s.boot with trial := true } : Boot).trial = true := by decide +kernel

/-- The first block of a message to the SMBus, one in sequence and one out of it, a first one that comes again. -/
theorem witness_smbus_blocks :
    let n : Net := { base.net with smbReq := [1], smbNext := 63 }
    ((0x80 : Byte).toNat.testBit 7 = true ∧ (0x80 : Byte).toNat % 64 = 0 ∧ (0x80 : Byte).toNat.testBit 6 = false)
      ∧ ((0x7F : Byte).toNat.testBit 7 = false ∧ n.smbReq ≠ [] ∧ (0x7F : Byte).toNat % 64 = n.smbNext ∧ (0x7F : Byte).toNat.testBit 6 = true)
      ∧ ¬(0x3E : Byte).toNat % 64 = n.smbNext ∧ (base.net.smbReady = false ∧ ¬base.net.smbReq ≠ [])
      ∧ 1248 < (n.smbReq ++ bytes 1248).length ∧ (bytes 1248).length ≤ 1248
      ∧ inReset State.reset = false ∧ ({ base with boot := { base.boot with coldP0 := true } } : State).boot.coldP0 = true := by decide +kernel

/-- Messages to the host, to the SMBus, to a line that is free and to one that sends; a CAN line with an empty bucket. -/
theorem witness_lines :
    let r (d : Iface) : Reply := ⟨d, 0x21, 64, 0, 0, 1, bytes 200⟩
    let t : State := setLine (talking .operate) 3 { freshLine 3 with tel := [r (.can 1 5)] }
    base.boot.highZ = false ∧ ({ base with boot := { base.boot with highZ := true } } : State).boot.highZ = true
      ∧ (r .host).dest = .host ∧ (r .smb).dest = .smb ∧ lineOf (r (.can 1 5)).dest = some 3 ∧ domainRuns base = true
      ∧ 0 < (line (setLine base 3 { freshLine 3 with busy := 1 }) 3).busy
      ∧ ((line t 3).busy ≤ 0 ∧ (line t 3).urg = [] ∧ (line t 3).resp = [] ∧ (line t 3).tel = r (.can 1 5) :: [] ∧ t.net.hushed = false
          ∧ (tfind t.net.sessions (r (.can 1 5)).session).isSome = true ∧ telemNeed 3 (r (.can 1 5)) ≤ (line t 3).tokens)
      ∧ (line (setLine t 3 { freshLine 3 with tokens := 127, tel := [r (.can 1 5)] }) 3).tokens < telemNeed 3 (r (.can 1 5))
      ∧ (line (setLine t 0 { freshLine 0 with urg := [r .host] }) 0).urg = r .host :: []
      ∧ (line (setLine t 0 { freshLine 0 with resp := [r .host] }) 0).resp = r .host :: [] := by decide +kernel

/-- Ethernet: a tagged frame of the VLAN, an untagged one, a request URGENT by its bytes. -/
theorem witness_ethernet_kinds : ((some 7 : Option Nat) ≠ none ∧ leAt hushBytes 1 1 = 0x30)
    ∧ cfg base (0x1101 + (0 : Fin 2)) 9 = 0 ∧ cfg base (0x1101 + (0 : Fin 2)) 10 ≠ 0
    ∧ (parseMsg (.eth 0 0 7) true (bytes 4)).req ≠ .urgent 1 0 := by decide +kernel

/-- The head of a pattern image with a size, a directory offset, STOCK and a KEY_SLOT; no sections. -/
def patHeader (size dir stock slot : Nat) : List Byte :=
  let h := leBytes 4 0x31544150 ++ leBytes 2 1 ++ leBytes 2 0x40 ++ leBytes 4 size ++ bytes 12 ++ leBytes 4 stock ++ bytes 6 ++ leBytes 2 0 ++ leBytes 4 dir
    ++ bytes 16 ++ leBytes 4 slot
  h ++ wordBytes (crc32 h)

/-- Pattern slot 0, VERIFYING, with such a head. -/
theorem witness_pattern_images : ∀ x ∈ [((160 : Nat), (64 : Nat), (1 : Nat), (0 : Nat), true, true), (159, 64, 1, 0, false, true), (160, 63, 1, 0, false, true), (160, 64, 0, 4, true, true),
      (160, 64, 0, 3, true, false), (160, 64, 1, 4, true, false)],
    let s := verifying 2 (patHeader x.1 x.2.1 x.2.2.1 x.2.2.2.1) 160
    let q := mread s.mram (dlAddr s 2) 64
    (dl s 2).state = 2 ∧ (leAt q 0 4 = 0x31544150 ∧ leAt q 4 2 = 1 ∧ leAt q 6 2 = 0x40 ∧ leAt q 0x3C 4 = (crc32 (q.take 60)).toNat) ∧ leAt q 0x22 2 = 0
      ∧ (decide (leAt q 8 4 ≤ dlSize 2 ∧ 64 ≤ leAt q 0x24 4 ∧ leAt q 0x24 4 + 0 + 96 ≤ leAt q 8 4)) = x.2.2.2.2.1
      ∧ (decide ((leAt q 0x18 4 % 2 = 1 ↔ leAt q 0x38 4 = 0) ∧ (leAt q 0x38 4 ≠ 0 → tget [] s.net.imageKeys (leAt q 0x38 4) ≠ []))) = x.2.2.2.2.2 := by
  decide +kernel

theorem witness_pattern_head_missing : leAt (mread (setDl base 2 { state := 2 }).mram (dlAddr base 2) 64) 0 4 ≠ 0x31544150 := by decide +kernel

/-- A cold start on trial, with and without the confirmed image, and with a checkpoint in force. -/
theorem witness_trial_start :
    let s (l : Tab Bool) : State := { base with boot := { base.boot with coldP0 := true, trial := true, bootSlot := 1, confirmed := 0, slotValid := l, aoValid := false } }
    (inReset (s []) = false ∧ (s []).boot.coldP0 = true ∧ (s []).boot.trial = true ∧ slotOk (s []) 0 = false ∧ slotOk (s []) 1 = false)
      ∧ slotOk (s [(0, true)]) 0 = true ∧ slotOk (s [(1, true)]) 0 = false ∧ slotOk (s [(1, true)]) 1 = true ∧ (s []).boot.aoValid = false
      ∧ checkpointInForce (s []) = none
      ∧ (checkpointInForce { s [] with recorder := { base.recorder with checkpoints := [(0, ⟨1, 5, 0, 0, 7, 0, [], []⟩)] } }).isSome = true
      ∧ inReset { base with boot := { base.boot with restarting := true } } = false := by decide +kernel

/-- The command CLEAR is admitted to an idle controller and gated while the unit sleeps. -/
theorem witness_two_wire_clear : (let s := wires { ctrl := twOn }
      serverRuns s = true ∧ s.boot.frozen = false ∧ accessStatus (taken s) .service (0x2900 + (7 : TwId)) 1 true = stOK ∧ gated s (0x2900 + (7 : TwId)) 1 = false)
    ∧ accessStatus (taken base) .observe (0x2900 + (7 : TwId)) 1 true ≠ stOK
    ∧ (let s : State := { base with boot := { base.boot with asleep := true } }
       accessStatus (taken s) .service (0x2900 + (7 : TwId)) 1 true = stOK ∧ gated s (0x2900 + (7 : TwId)) 1 = true)
    ∧ twLatest (twc (wires { ctrl := twOn, queue := [(1, noXfer)], later := [(2, 7)] }) 7) 2 = 7 := by decide +kernel

/-- R381, R382: the spec's periods: 10.05 µs by default with a rise time of 1,000 ns, 3.04 µs for COMPAT_DIV 135 with FILTER 3 and
300 ns, 3.05 µs with FILTER 4. -/
theorem test_two_wire_periods : twPeriod {} 1000 = 10050 ∧ twPeriod { ctrl := 0x800 + 3 * 0x4000, div := 135 } 300 = 3040
    ∧ twPeriod { ctrl := 0x800 + 4 * 0x4000, div := 135 } 300 = 3050 := by decide +kernel

/-- R431: SL181_P is ball BA14, SL181_N ball BA15. -/
theorem test_package_ball : slBall 181 = (38, 14) ∧ rowName 38 = "BA" := by decide +kernel

/-- R87, R96: FMUL v10, v4, v20 under p0 is 0x0614_4A02, ENDROUND 0x0FC0_0000, NOP 0. -/
theorem test_decode_words : decodeWord 5 0x06144A02 = .fmul 5 always 10 4 20 ∧ decodeWord 5 0x0FC00000 = .endround 5 ∧ decodeWord 5 0 = .nop 5 := by
  decide +kernel

/-- R96, word by word: ST of v31 at va - 1 under not p7; TRIP with reason 0xFF at port 6; an FN that is not listed. -/
theorem test_decode_fields : decodeWord 0 0xF87E3FFF = .st 0 ⟨true, 7⟩ 31 3 0xFFF ∧ decodeWord 0 0x0B8007FE = .trip 0 always 0xFF 6
    ∧ decodeWord 0 0x06144A03 = .unlistedOpcode 0 0x06144A03 := by decide +kernel

end Sys2Proof.Tests
end

section
/-! PROOFS. The tally units (R75, R76, R78, R111): what TALLY and EXTREME do inside the tally window, one equation for each
case, and the statement that they count and keep. -/
namespace Sys2Proof.Machine

/-! ### Instructions that issue, by what their body does to the state they find -/

/-- Two bodies that do the same to the state they find make the same instruction. -/
theorem issueS_congr {s : State} {e : Nat} {p : Pred} (h : Issues s e p) {f g : State → State}
    (hfg : f (setEngine s e (found s e)) = g (setEngine s e (found s e))) : issueS s e p f = issueS s e p g := by
  rw [issueS_eq h, issueS_eq h, hfg]

/-- Windows are granted by the pattern and by whether the Sleeve runs seed rounds (R63, R64): engines do not matter. -/
@[simp] theorem windowOk_setEngine (s : State) (i : Nat) (x : Engine) (e bank cycle : Nat) (write : Bool) :
    windowOk (setEngine s i x) e bank cycle write = windowOk s e bank cycle write := rfl

@[simp] theorem windowOk_updEngine (s : State) (i : Nat) (f : Engine → Engine) (e bank cycle : Nat) (write : Bool) :
    windowOk (updEngine s i f) e bank cycle write = windowOk s e bank cycle write := rfl

/-- A double word of a tally unit without ECC error is accessed without an effect. -/
theorem tallyEcc_clean {s : State} {sl k : Nat} (h : upsetAt s (tallyKey sl k) = 0) : tallyEcc s sl k = s := by
  simp only [tallyEcc, h]

/-- An instruction whose body sets flags of its engine at once: they stand from the next cycle on. -/
theorem issue_setFlags {s : State} {e : Nat} {p : Pred} (h : Issues s e p) (fl : BitVec 16) :
    let t := issue s e p fun en => setFlags en fl
    PassesWord s t e ∧ (engine t e).divFree = (engine s e).divFree ∧ (engine t e).stps = (engine s e).stps
      ∧ Launches s t e .none 0 fl := by
  intro t
  have he : engine t e = nextWord (setFlags (found s e) fl) := engine_issue s e p _ h.1 h.2
  refine ⟨passesWord_issue h ⟨rfl, rfl, rfl, rfl⟩, ?_, ?_, launches_setFlags fl ?_ ?_ ?_⟩
  · rw [he]; exact found_divFree s e
  · rw [he]; exact found_stps s e
  · rw [he]; rfl
  · rw [he]; exact ⟨fun _ _ => rfl, fun _ _ => rfl, fun _ _ => rfl⟩
  · rw [he]; rfl

/-- The Sleeves after an instruction that issues are those its body leaves. -/
theorem sleeve_issueS {s : State} {e : Nat} {p : Pred} (h : Issues s e p) (body : State → State) (k : Nat) :
    sleeve (issueS s e p body) k = sleeve (body (setEngine s e (found s e))) k := by
  rw [issueS_eq h, sleeve_updEngine]

/-! ### TALLY -/

section Tally
variable {s : State} {e : EngineId} {p : Pred} {ra : Reg} {imm : BitVec 12} {bin : Nat}
  (h : Issues s e p) (hw : windowOk s e 16 (engine s e).cycle true = true) (hbin : (effAddr (found s e) ra imm).toNat = bin)
include h hw hbin

/-- Outside its 1,536 bins TALLY sets TALLY_RANGE and does nothing else (R111). -/
theorem exec_tally_out_of_range (hb : 1536 ≤ bin) :
    exec (.tally e p ra imm) s = .next (issue s e p fun en => setFlags en fTALLY) := by
  refine congrArg Host.Outcome.next (issueS_congr h ?_)
  simp [hbin, hb, hw]

/-- A bin at the top of its range stays there, and TALLY_SAT is set (R78). -/
theorem exec_tally_saturated (hb : bin < 1536) (hc : upsetAt s (tallyKey (e / 32) (bin / 2)) = 0)
    (hv : tget 0 s.arr.bins (1536 * (e.val / 32) + bin) = 0xFFFFFFFF) :
    exec (.tally e p ra imm) s
      = .next (issueS s e p fun s => updSleeve s (e / 32) fun x => { x with sticky := x.sticky ||| 0x2000 }) := by
  refine congrArg Host.Outcome.next (issueS_congr h ?_)
  have hc' : upsetAt (setEngine s e (found s e)) (tallyKey (e / 32) (bin / 2)) = 0 := hc
  have hv' : tget 0 (setEngine s e (found s e)).arr.bins (e.val / 32 * 1536 + bin) = 0xFFFFFFFF := by
    rw [Nat.mul_comm]; exact hv
  simp only [engine_setEngine, hbin, Nat.not_le.mpr hb, if_false, windowOk_setEngine, found_cycle, hw, if_true,
    tallyEcc_clean hc', hv']
  rfl

/-- Any other bin counts one more (R78). -/
theorem exec_tally_counts (hb : bin < 1536) (hc : upsetAt s (tallyKey (e / 32) (bin / 2)) = 0)
    (hv : tget 0 s.arr.bins (1536 * (e.val / 32) + bin) ≠ 0xFFFFFFFF) :
    exec (.tally e p ra imm) s = .next (issueS s e p fun s => { s with arr := { s.arr with
      bins := tset 0 s.arr.bins (1536 * (e.val / 32) + bin) (tget 0 s.arr.bins (1536 * (e.val / 32) + bin) + 1) } }) := by
  refine congrArg Host.Outcome.next (issueS_congr h ?_)
  have hc' : upsetAt (setEngine s e (found s e)) (tallyKey (e / 32) (bin / 2)) = 0 := hc
  have hv' : tget 0 (setEngine s e (found s e)).arr.bins (1536 * (e.val / 32) + bin) ≠ 0xFFFFFFFF := hv
  simp only [engine_setEngine, hbin, Nat.not_le.mpr hb, if_false, windowOk_setEngine, found_cycle, hw, if_true,
    tallyEcc_clean hc', Nat.mul_comm _ 1536, hv']

end Tally

/-! ### EXTREME -/

/-- A value presented replaces the minimum of its slot, with its round, only where it is strictly lower, and the maximum
only where it is strictly higher (R76). -/
theorem present_keeps (x : Ext) (v round : Word) :
    ((present x v round).min, (present x v round).minRound)
        = (if fCmp (fFlush v) x.min < 0 then (fFlush v, round) else (x.min, x.minRound))
      ∧ ((present x v round).max, (present x v round).maxRound)
        = (if 0 < fCmp (fFlush v) x.max then (fFlush v, round) else (x.max, x.maxRound)) := by
  unfold present
  by_cases hlow : fCmp (fFlush v) x.min < 0 <;> by_cases hhigh : 0 < fCmp (fFlush v) x.max <;> simp [hlow, hhigh]

section Extreme
variable {s : State} {e : EngineId} {p : Pred} {ra : Reg} {slot : BitVec 7}
  (h : Issues s e p) (hw : windowOk s e 16 (engine s e).cycle true = true)
include h hw

/-- A NaN sets EXT_NAN and reaches no slot (R76). -/
theorem exec_extreme_nan (hn : f32IsNaN (rreg (found s e) ra.toNat) = true) :
    exec (.extreme e p ra slot) s
      = .next (issueS s e p fun s => updSleeve s (e / 32) fun x => { x with sticky := x.sticky ||| 0x1000 }) := by
  refine congrArg Host.Outcome.next (issueS_congr h ?_)
  simp only [engine_setEngine, windowOk_setEngine, found_cycle, hw, if_true, presentTo, hn]
  rfl

/-- Any other value is presented to its slot, whose two double words bear no ECC error (R76, R79). -/
theorem exec_extreme_presents (hn : f32IsNaN (rreg (found s e) ra.toNat) = false)
    (h0 : upsetAt s (tallyKey (e / 32) (768 + 2 * slot.toNat)) = 0)
    (h1 : upsetAt s (tallyKey (e / 32) (769 + 2 * slot.toNat)) = 0) :
    exec (.extreme e p ra slot) s = .next (issueS s e p fun u => { u with arr := { u.arr with
      exts := tset {} u.arr.exts (128 * (e.val / 32) + slot.toNat)
        (present (tget {} u.arr.exts (128 * (e.val / 32) + slot.toNat)) (rreg (found s e) ra.toNat) u.wheel.round) } }) := by
  refine congrArg Host.Outcome.next (issueS_congr h ?_)
  have h0' : upsetAt (setEngine s e (found s e)) (tallyKey (e / 32) (768 + 2 * slot.toNat)) = 0 := h0
  have h1' : upsetAt (setEngine s e (found s e)) (tallyKey (e / 32) (769 + 2 * slot.toNat)) = 0 := h1
  simp only [engine_setEngine, windowOk_setEngine, found_cycle, hw, if_true, presentTo, hn, Bool.false_eq_true, if_false,
    tallyEcc_clean h0', tallyEcc_clean h1', Nat.mul_comm _ 128]

end Extreme

/-! ### The statement -/

/-- Settles O14, by cases: a bin out of range, a bin at its top, any other bin; a NaN, any other value. -/
theorem talliesCountAndExtremesKeep : Obligations.TalliesCountAndExtremesKeep := by
  intro s e p ra imm slot h hw bin key v f x clean
  have hbin : (effAddr (found s e) ra imm).toNat = bin := rfl
  refine ⟨fun hclean => ?_, fun h0 h1 => ?_⟩
  · by_cases hb : bin < 1536
    · have hin : ¬ 1536 ≤ bin := Nat.not_le.mpr hb
      by_cases hv : v = 0xFFFFFFFF
      · refine ⟨_, exec_tally_saturated h hw hbin hb (hclean hb) hv, ?_⟩
        obtain ⟨hword, hdiv, hstps, hnone⟩ := passes_issueS h
          (fun s => updSleeve s (e / 32) fun x => { x with sticky := x.sticky ||| 0x2000 }) rfl
        refine ⟨?_, hword, hdiv, hstps, fun k hk => ?_, fun hge => absurd hge hin,
          fun _ => ⟨hnone, fun k _ => ?_, fun hne => absurd hv hne, fun _ => ⟨?_, ?_⟩⟩⟩
        · rw [issueS_eq h]; rfl
        · rw [sleeve_issueS h]; exact sleeve_updSleeve_other _ _ _ _ hk
        · rw [issueS_eq h]; rfl
        · rw [issueS_eq h]; rfl
        · rw [sleeve_issueS h]; exact sleeve_updSleeve _ _ _
      · refine ⟨_, exec_tally_counts h hw hbin hb (hclean hb) hv, ?_⟩
        obtain ⟨hword, hdiv, hstps, hnone⟩ := passes_issueS h
          (fun s => { s with arr := { s.arr with bins := tset 0 s.arr.bins key (tget 0 s.arr.bins key + 1) } }) rfl
        refine ⟨?_, hword, hdiv, hstps, fun k _ => sleeve_issueS h _ k, fun hge => absurd hge hin,
          fun _ => ⟨hnone, fun k hk => ?_, fun _ => ⟨?_, sleeve_issueS h _ _⟩, fun heq => absurd heq hv⟩⟩
        · rw [issueS_eq h]; rfl
        · rw [issueS_eq h]; exact tget_tset_other _ _ _ _ _ hk
        · rw [issueS_eq h]; exact tget_tset_same _ _ _ _
    · obtain ⟨hword, hdiv, hstps, hflag⟩ := issue_setFlags h fTALLY
      have hframe := issue_frame s e p (fun en => setFlags en fTALLY) h.1
      refine ⟨_, exec_tally_out_of_range h hw hbin (Nat.not_lt.mp hb), ?_, hword, hdiv, hstps, fun k _ => ?_,
        fun _ => ⟨hflag, congrArg (·.arr.bins) hframe, ?_⟩, fun hlt => absurd hlt hb⟩
      · rw [issue, issueS_eq h]; rfl
      · exact sleeve_issueS h _ k
      · exact sleeve_issueS h _ _
  · cases hn : f32IsNaN (rreg (found s e) ra.toNat)
    case true =>
      refine ⟨_, exec_extreme_nan h hw hn, ?_, passes_issueS h _ rfl, fun k hk => ?_, fun k _ => ?_,
        fun _ => ⟨?_, ?_⟩, fun hno => absurd hno (by decide)⟩
      · rw [issueS_eq h]; rfl
      · rw [sleeve_issueS h]; exact sleeve_updSleeve_other _ _ _ _ hk
      · rw [issueS_eq h]; rfl
      · rw [issueS_eq h]; rfl
      · rw [sleeve_issueS h]; exact sleeve_updSleeve _ _ _
    case false =>
      refine ⟨_, exec_extreme_presents h hw hn h0 h1, ?_, passes_issueS h _ rfl, fun k _ => sleeve_issueS h _ k,
        fun k hk => ?_, fun hyes => absurd hyes (by decide), fun _ => ⟨sleeve_issueS h _ _, ?_⟩⟩
      · rw [issueS_eq h]; rfl
      · rw [issueS_eq h]; exact tget_tset_other _ _ _ _ _ hk
      · rw [issueS_eq h]
        have hslot := tget_tset_same {} s.arr.exts (128 * (e.val / 32) + slot.toNat)
          (present x (rreg (found s e) ra.toNat) s.wheel.round)
        have hkeeps := present_keeps x (rreg (found s e) ra.toNat) s.wheel.round
        rw [← hslot] at hkeeps
        exact hkeeps

end Sys2Proof.Machine
end

section
/-! PROOFS. Float comparisons (R104): what a comparison gives for a NaN operand and for operands that compare equal, and
the statement about NaN and the two zeros. -/
namespace Sys2Proof.Machine

/-- A comparison with a NaN is false, but for FNE, and sets NV (R104). -/
theorem fRel_nan (k : Nat) {a b : Word} (h : f32IsNaN a = true ∨ f32IsNaN b = true) :
    fRel k a b = (decide (k = 1), fNV) := by
  have hor : (f32IsNaN a || f32IsNaN b) = true := by simpa using h
  simp only [fRel, hor, if_true]

/-- Operands that compare equal meet FEQ and FLE only, and set no flag (R104). -/
theorem fRel_equal {a b : Word} (ha : f32IsNaN a = false) (hb : f32IsNaN b = false) (h : fCmp a b = 0) :
    fRel 0 a b = (true, 0) ∧ fRel 1 a b = (false, 0) ∧ fRel 2 a b = (false, 0) ∧ fRel 3 a b = (true, 0) := by
  simp [fRel, ha, hb, h]

/-- Neither zero is a NaN. -/
theorem f32IsNaN_zero {w : Word} (h : w = 0 ∨ w = 0x80000000) : f32IsNaN w = false := by
  rcases h with rfl | rfl <;> decide

/-- The two zeros compare equal, in every combination of signs (R104). -/
theorem fCmp_zeros {a b : Word} (ha : a = 0 ∨ a = 0x80000000) (hb : b = 0 ∨ b = 0x80000000) : fCmp a b = 0 := by
  rcases ha with rfl | rfl <;> rcases hb with rfl | rfl <;> decide

/-- Settles O5: each comparison delivers `fRel` of its operands, which is known for a NaN and for the zeros. -/
theorem floatComparesOnNaNAndZero : Obligations.FloatComparesOnNaNAndZero := by
  intro s e p pd ra rb h hc a b zero
  have gives (k : Nat) (c : Instr) (hx : exec c s = issueCmp s e p pd ra rb (fRel k)) : GivesPred c s e pd (fRel k a b) :=
    givesPred_issue h pd (fun en => fRel k (rreg en ra.toNat) (rreg en rb.toNat)) hc c hx
  refine ⟨_, _, _, _, gives 0 _ rfl, gives 1 _ rfl, gives 2 _ rfl, gives 3 _ rfl, fun hnan => ?_, fun ha hb => ?_⟩
  · exact ⟨fRel_nan 0 hnan, fRel_nan 1 hnan, fRel_nan 2 hnan, fRel_nan 3 hnan⟩
  · exact fRel_equal (f32IsNaN_zero ha) (f32IsNaN_zero hb) (fCmp_zeros ha hb)

end Sys2Proof.Machine
end

section
/-! PROOFS. Integer division (R98): the value and the flag of IDIV and UDIV in each case, and the statement that they
truncate and have their corners. -/
namespace Sys2Proof.Machine

/-- IDIV by zero saturates towards the sign of the dividend and sets DZ (R98). -/
theorem iDiv_zero (a : Word) : iDiv a 0 = (if 0 ≤ a.toInt then 0x7FFFFFFF else 0x80000000, fDZ) := by
  by_cases ha : 0 ≤ a.toInt
  · simp only [iDiv, if_true, ha, Int.not_lt.mpr ha, if_false]
  · simp only [iDiv, if_true, ha, Int.not_le.mp ha, if_false]

/-- The one quotient out of range saturates and sets SAT (R98). -/
theorem iDiv_overflow : iDiv 0x80000000 0xFFFFFFFF = (0x7FFFFFFF, fSAT) := by decide

/-- Every other quotient of IDIV is in range: it is the one truncated towards zero, and no flag is set (R98). -/
theorem iDiv_truncates {a b : Word} (hb : b ≠ 0) (hr : ¬(a = 0x80000000 ∧ b = 0xFFFFFFFF)) :
    (iDiv a b).1.toInt = a.toInt.tdiv b.toInt ∧ (iDiv a b).2 = 0 := by
  have hquot : (a.sdiv b).toInt = a.toInt.tdiv b.toInt :=
    BitVec.toInt_sdiv_of_ne_or_ne a b (not_and_or.mp hr)
  have hval : iDiv a b = (a.sdiv b, 0) := by
    simp only [iDiv, hb, hr, if_false, ← hquot, BitVec.ofInt_toInt]
  rw [hval]
  exact ⟨hquot, rfl⟩

/-- UDIV by zero gives all ones and sets DZ (R98). -/
theorem uDiv_zero (a : Word) : uDiv a 0 = (0xFFFFFFFF, fDZ) := rfl

/-- Every other quotient of UDIV is the unsigned one, without a flag (R98). -/
theorem uDiv_quotient {a b : Word} (hb : b ≠ 0) : (uDiv a b).1.toNat = a.toNat / b.toNat ∧ (uDiv a b).2 = 0 := by
  have hval : uDiv a b = (BitVec.ofNat 32 (a.toNat / b.toNat), 0) := by simp only [uDiv, hb, if_false]
  have hlt : a.toNat / b.toNat < 2 ^ 32 := Nat.lt_of_le_of_lt (Nat.div_le_self _ _) a.isLt
  rw [hval]
  exact ⟨Nat.mod_eq_of_lt hlt, rfl⟩

/-- Settles O8: a free divider delivers `iDiv` and `uDiv` of the operands, whose cases are known. -/
theorem integerDivisionTruncates : Obligations.IntegerDivisionTruncates := by
  intro s e p rd ra rb h hc hfree a b
  obtain ⟨t, ht, -, -, -, hlaunch, -⟩ := issueDiv_spec h rd ra rb iDiv hc (.idiv e p rd ra rb) rfl
  obtain ⟨u, hu, -, -, -, hlaunchU, -⟩ := issueDiv_spec h rd ra rb uDiv hc (.udiv e p rd ra rb) rfl
  obtain ⟨hq, hfq, -⟩ := hlaunch hfree
  obtain ⟨hr, hfr, -⟩ := hlaunchU hfree
  refine ⟨t, u, _, _, _, _, ht, hq, hfq, hu, hr, hfr, fun hb => ?_, fun ha hb => ?_, iDiv_truncates, uDiv_quotient⟩
  · change (iDiv a b).1 = _ ∧ (iDiv a b).2 = _ ∧ (uDiv a b).1 = _ ∧ (uDiv a b).2 = _
    rw [hb, iDiv_zero, uDiv_zero]
    exact ⟨rfl, rfl, rfl, rfl⟩
  · change (iDiv a b).1 = _ ∧ (iDiv a b).2 = _
    rw [ha, hb, iDiv_overflow]
    exact ⟨rfl, rfl⟩

end Sys2Proof.Machine
end

section
/-! PROOFS. Data memory (R107): what an access under ECC delivers and leaves, one equation for LD and one for each case of
ST, and the statement about them. Upsets come and are met as notes/assumptions/17.md says. -/
namespace Sys2Proof.Machine

/-! ### Changes of engines -/

/-- A write to an engine changes engines only. -/
theorem onlyEngines_setEngine (s : State) (e : Nat) (x : Engine) : OnlyEngines s (setEngine s e x) := rfl

/-- So does an update. -/
theorem onlyEngines_updEngine (s : State) (e : Nat) (f : Engine → Engine) : OnlyEngines s (updEngine s e f) := rfl

/-- Changes of engines follow one another. -/
theorem onlyEngines_trans {s t u : State} (h : OnlyEngines s t) (h' : OnlyEngines t u) : OnlyEngines s u := by
  unfold OnlyEngines at h h' ⊢
  rw [h', h]

/-- The Sleeves are as before where only engines have changed. -/
theorem sleeve_of_onlyEngines {s t : State} (h : OnlyEngines s t) (k : Nat) : sleeve t k = sleeve s k := by
  unfold OnlyEngines at h
  rw [h]; rfl

/-! ### Upset words, and an access under ECC -/

/-- A word written afresh, or upset, is what the write says. -/
@[simp] theorem upsetAt_setUpset (s : State) (k v : Nat) : upsetAt (setUpset s k v) k = v := by
  by_cases h : (s.arr.upsets.isEmpty && v == 0) = true
  · obtain ⟨-, hv⟩ := Bool.and_eq_true_iff.mp h
    rw [upsetAt, setUpset, if_pos h, eq_of_beq hv]; rfl
  · simp only [upsetAt, setUpset, h, if_false, Bool.false_eq_true, tget_tset_same]

/-- Every other word keeps its upset. -/
theorem upsetAt_setUpset_other (s : State) (k j v : Nat) (hj : j ≠ k) : upsetAt (setUpset s k v) j = upsetAt s j := by
  by_cases h : (s.arr.upsets.isEmpty && v == 0) = true
  · obtain ⟨hnil, -⟩ := Bool.and_eq_true_iff.mp h
    rw [upsetAt, upsetAt, setUpset, if_pos h, List.isEmpty_iff.mp hnil]
  · simp only [upsetAt, setUpset, h, if_false, Bool.false_eq_true, tget_tset_other _ _ _ _ _ hj]

/-- A corrected error changes its Sleeve and the count of the array. -/
theorem countCorrected_frame (s : State) (sl : Nat) : countCorrected s sl = { s with arr := { s.arr with
    sleeves := (countCorrected s sl).arr.sleeves, correctedTotal := s.arr.correctedTotal + 1 } } := rfl

/-- A corrected error is counted in its Sleeve, up to the counter's top, and marked; the others stay (R79, R85). -/
theorem sleeve_countCorrected (s : State) (sl k : Nat) : sleeve (countCorrected s sl) k = if k = sl then
      { sleeve s sl with
        corrected := if (sleeve s sl).corrected = 0xFFFFFFFF then (sleeve s sl).corrected else (sleeve s sl).corrected + 1,
        sticky := (sleeve s sl).sticky ||| 0x100 }
    else sleeve s k := by
  rw [← sleeve_setSleeve_eq]; rfl

/-- What a corrected error and then a change of engines leave of a state. -/
theorem frame_of_countCorrected {s t : State} {sl : Nat} (h : OnlyEngines (countCorrected s sl) t) :
    t = { s with arr := { s.arr with
      engines := t.arr.engines, sleeves := t.arr.sleeves, correctedTotal := s.arr.correctedTotal + 1 } } := by
  unfold OnlyEngines at h
  have hsleeves : t.arr.sleeves = (countCorrected s sl).arr.sleeves := by rw [h]
  rw [countCorrected_frame] at h
  rw [hsleeves]
  exact h

/-- A doubt that names no bank changes no engine; its Sleeve keeps the doubt and is held (R83, R294). -/
theorem raiseNoBank_keeps (s : State) (sl bit eng cycle : Nat) :
    (raiseNoBank s sl bit eng cycle).arr.engines = s.arr.engines
      ∧ (sleeve (raiseNoBank s sl bit eng cycle) sl).sticky = setBit (sleeve s sl).sticky bit
      ∧ (sleeve (raiseNoBank s sl bit eng cycle) sl).held = true := by
  obtain ⟨a, b, c, d, r, q, x, h, -, hsticky, hheld, -⟩ :=
    raiseSleeve_frame (drawWord s).2 sl bit eng ((drawWord s).1.toNat % 16) cycle
  have hx : sleeve (raiseNoBank s sl bit eng cycle) sl = x :=
    (congrArg (sleeve · sl) h).trans (sleeve_setSleeve (drawWord s).2 sl x)
  rw [hx]
  exact ⟨congrArg (·.arr.engines) h, hsticky, hheld⟩

/-- What an access delivers costs a draw at most. -/
theorem eccWord_arr (s : State) (k : Nat) (w : Word) : (eccWord s k w).2.arr = s.arr := by
  unfold eccWord
  split <;> rfl

/-! ### A load of data memory -/

section Load
variable {s : State} {e a : Nat}

/-- A word without ECC error is delivered as it stands (R107). -/
theorem dmLoad_clean (h : upsetAt s (dmemKey e (a / 4 % 1024)) = 0) : dmLoad s e a = (dmWord s e a, s) := by
  simp [dmLoad, dmemEcc, eccAccess, eccWord, h]

/-- A single-bit error is corrected in the word delivered, and counted (R79). -/
theorem dmLoad_corrected (h : upsetAt s (dmemKey e (a / 4 % 1024)) = 1) :
    dmLoad s e a = (dmWord s e a, countCorrected s (e / 32)) := by
  have hstays : upsetAt (countCorrected s (e / 32)) (dmemKey e (a / 4 % 1024)) = 1 := h
  simp [dmLoad, dmemEcc, eccAccess, eccWord, h, hstays]

/-- An uncorrectable error raises DMEM_UE (R82). -/
theorem dmLoad_uncorrectable (h : 2 ≤ upsetAt s (dmemKey e (a / 4 % 1024))) :
    (dmLoad s e a).2.arr = (raiseNoBank s (e / 32) 4 (engNo e) (engine s e).cycle).arr := by
  obtain ⟨n, hn⟩ := Nat.exists_eq_add_of_le' h
  simp only [dmLoad, eccWord_arr, dmemEcc, eccAccess, hn]

/-- No load changes an engine. -/
theorem dmLoad_engines (s : State) (e a : Nat) : (dmLoad s e a).2.arr.engines = s.arr.engines := by
  match hup : upsetAt s (dmemKey e (a / 4 % 1024)) with
  | 0 => rw [dmLoad_clean hup]
  | 1 => rw [dmLoad_corrected hup]; rfl
  | n + 2 =>
    rw [dmLoad_uncorrectable (hup ▸ Nat.le_add_left 2 n)]
    exact (raiseNoBank_keeps s (e / 32) 4 (engNo e) (engine s e).cycle).1

end Load

/-! ### LD and ST -/

/-- The address of an access: bits 11:2 of the computed address, as a byte address of data memory (R107). -/
theorem dmem_address (a : Word) : (a &&& 0xFFC).toNat = a.toNat / 4 % 1024 * 4 :=
  toNat_mask a 12 2 0xFFC (by decide) (by decide) (by decide)

section Access
variable {s : State} {e : EngineId} {p : Pred} {rd ra : Reg} {imm : BitVec 12} (h : Issues s e p)
include h

/-- LD leaves the state as the access leaves it, but for its engine: that passes its word, and the word that the access
delivers is in flight (R91, R107). -/
theorem exec_ld {a : Nat} (ha : (effAddr (found s e) ra imm).toNat = a) :
    let x := dmLoad (setEngine s e (found s e)) e a
    ∃ t, exec (.ld e p rd ra imm) s = .next t ∧ OnlyEngines x.2 t ∧ PassesWord s t e
      ∧ (engine t e).divFree = (engine s e).divFree ∧ (engine t e).stps = (engine s e).stps
      ∧ (Clear s e (.reg rd.toNat) → RegFrom s t e rd 2 x.1 ∧ Launches s t e (.reg rd.toNat) 2 0) := by
  intro x
  have hkeeps (j : Nat) : engine x.2 j = engine (setEngine s e (found s e)) j := by
    unfold engine; rw [dmLoad_engines]
  have hexec : exec (.ld e p rd ra imm) s
      = .next (updEngine (updEngine x.2 e fun en => launchReg en 2 rd.toNat (x.1, 0)) e nextWord) := by
    refine congrArg Host.Outcome.next ((issueS_eq h _).trans ?_)
    simp only [engine_setEngine, ha]
    rfl
  obtain ⟨t, ht⟩ : ∃ t, t = updEngine (updEngine x.2 e fun en => launchReg en 2 rd.toNat (x.1, 0)) e nextWord := ⟨_, rfl⟩
  have he : engine t e = nextWord (launchReg (found s e) 2 rd.toNat (x.1, 0)) := by
    rw [ht, engine_updEngine, engine_updEngine, hkeeps, engine_setEngine]
  have honly : OnlyEngines x.2 t :=
    ht ▸ onlyEngines_trans (onlyEngines_updEngine _ _ _) (onlyEngines_updEngine _ _ _)
  refine ⟨t, hexec.trans (ht ▸ rfl), honly, ⟨fun j hj => ?_, ?_⟩, ?_, ?_, regFrom_launch rd 2 (x.1, 0)
    (he ▸ rfl) (he ▸ ⟨fun _ _ => rfl, fun _ _ => rfl, fun _ _ => rfl⟩) (he ▸ rfl)⟩
  · rw [ht, engine_updEngine_other _ _ _ _ hj, engine_updEngine_other _ _ _ _ hj, hkeeps, engine_setEngine_other _ _ _ _ hj]
  all_goals rw [he]; simp [nextWord, launchReg, launch]

/-- A store into the persistent region is discarded with PST_STORE (R55). -/
theorem exec_st_discarded (hx : 0xF00 ≤ stAddr (found s e) ra imm) :
    exec (.st e p rd ra imm) s
      = .next (issueS s e p fun u => updSleeve u (e / 32) fun x => { x with sticky := x.sticky ||| 0x200 }) := by
  refine congrArg Host.Outcome.next (issueS_congr h ?_)
  simp only [engine_setEngine, hx, if_true]
  rfl

/-- Any other store writes its word (R107). -/
theorem exec_st_stores (hx : stAddr (found s e) ra imm < 0xF00) :
    exec (.st e p rd ra imm) s
      = .next (issueS s e p fun u => dmPut u e (stAddr (found s e) ra imm) (rreg (found s e) rd.toNat)) := by
  refine congrArg Host.Outcome.next (issueS_congr h ?_)
  simp only [engine_setEngine, Nat.not_le.mpr hx, if_false]

end Access

/-- Settles O10, by cases: a load of a word without an upset, with one and with two; a store below the persistent region
and in it. -/
theorem dataMemoryLoadsAndStores : Obligations.DataMemoryLoadsAndStores := by
  intro s e p rd ra imm h x v key sl
  generalize ha : (effAddr (found s e) ra imm).toNat = a
  have hx : x = a / 4 % 1024 * 4 := ha ▸ dmem_address (effAddr (found s e) ra imm)
  have hkey : key = dmemKey e (a / 4 % 1024) := by simp only [key, hx, Nat.mul_div_cancel _ (by decide : 0 < 4)]
  have hst : stAddr (found s e) ra imm = x := by rw [stAddr, ha, hx]
  have hword : dmWord (setEngine s e (found s e)) e a = wordAt s.arr.dmem (4096 * e + x) := by
    rw [hx, Nat.mul_comm 4096]; exact mword_eq_wordAt _ _
  obtain ⟨t, ht, honly, hpass, hdiv, hstps, hresult⟩ := exec_ld (rd := rd) h ha
  have hsleeve := sleeve_of_onlyEngines honly
  refine ⟨fun hc hup => ?_, fun hc hup => ?_, fun hup => ?_, fun hlow => ?_, fun hhigh => ?_⟩
  · have hload := dmLoad_clean (s := setEngine s e (found s e)) (hkey ▸ hup)
    rw [hload, hword] at hresult
    rw [hload] at honly
    exact ⟨t, ht, onlyEngines_trans (onlyEngines_setEngine _ _ _) honly, hpass, hdiv, hstps, hresult hc⟩
  · have hload := dmLoad_corrected (s := setEngine s e (found s e)) (hkey ▸ hup)
    rw [hload, hword] at hresult
    rw [hload] at honly hsleeve
    obtain ⟨hreg, hlaunch⟩ := hresult hc
    refine ⟨t, ht, frame_of_countCorrected honly, hpass, hreg, hlaunch, fun hbelow => ?_, fun k hk => ?_⟩
    · rw [hsleeve, sleeve_countCorrected, if_pos rfl, sleeve_setEngine, if_neg hbelow]
    · rw [hsleeve, sleeve_countCorrected, if_neg hk, sleeve_setEngine]
  · have harr := dmLoad_uncorrectable (s := setEngine s e (found s e)) (hkey ▸ hup)
    obtain ⟨-, hsticky, hheld⟩ := raiseNoBank_keeps (setEngine s e (found s e)) (e / 32) 4 (engNo e)
      (engine (setEngine s e (found s e)) e).cycle
    have hraised : sleeve t (e / 32) = sleeve (raiseNoBank (setEngine s e (found s e)) (e / 32) 4 (engNo e)
        (engine (setEngine s e (found s e)) e).cycle) (e / 32) := by
      rw [hsleeve]; unfold sleeve; rw [harr]
    exact ⟨t, ht, hpass, hraised ▸ hsticky, hraised ▸ hheld⟩
  · refine ⟨_, exec_st_stores h (hst ▸ hlow), ?_, passes_issueS h _ rfl, ?_, ?_, ?_, fun k hk => ?_⟩
    · rw [issueS_eq h]; rfl
    · rw [issueS_eq h, hst, Nat.mul_comm 4096]; exact wordAt_mputWord _ _ _
    · rw [issueS_eq h, hst, Nat.mul_comm 4096]; exact sameOutside_mputWord _ _ _
    · rw [issueS_eq h, hst]; exact upsetAt_setUpset _ _ _
    · rw [issueS_eq h, hst]; exact upsetAt_setUpset_other _ _ _ _ hk
  · refine ⟨_, exec_st_discarded h (hst ▸ hhigh), ?_, passes_issueS h _ rfl, ?_, fun k hk => ?_⟩
    · rw [issueS_eq h]; rfl
    · rw [sleeve_issueS h]; exact sleeve_updSleeve _ _ _
    · rw [sleeve_issueS h]; exact sleeve_updSleeve_other _ _ _ _ hk

end Sys2Proof.Machine
end

section
/-! PROOFS. The engine instruction words (R87, R96): what each field of a word laid out in a format gives back, which
instruction each opcode decodes to, and when a word decodes to UNLISTED_OPCODE. -/
namespace Sys2Proof.Machine

/-! ### Fields of a word laid out from its parts -/

/-- The value of two fields side by side. -/
theorem toNat_append_eq {n m : Nat} (x : BitVec n) (y : BitVec m) : (x ++ y).toNat = x.toNat * 2 ^ m + y.toNat := by
  rw [BitVec.toNat_append, ← Nat.shiftLeft_add_eq_or_of_lt y.isLt, Nat.shiftLeft_eq]

/-- A word by its predicate field, its opcode and the 22 bits below (R87). -/
def layout (p : Pred) (op : BitVec 6) (rest : BitVec 22) : Word := BitVec.ofBool p.n ++ p.p ++ op ++ rest
/-- The bits below the opcode in the R format (R87). -/
def restR (rd ra rb : Reg) (fn : BitVec 7) : BitVec 22 := rd ++ ra ++ rb ++ fn
/-- The bits below the opcode in the I format (R87). -/
def restI (rd ra : Reg) (imm : BitVec 12) : BitVec 22 := rd ++ ra ++ imm
/-- The bits below the opcode in the U format (R87). -/
def restU (rd : Reg) (resv : BitVec 1) (imm16 : BitVec 16) : BitVec 22 := rd ++ resv ++ imm16
/-- A word in the L format (R87). -/
def layoutL (pfield : BitVec 4) (op : BitVec 6) (count : BitVec 10) (gap : BitVec 2) (len : BitVec 10) : Word :=
  pfield ++ op ++ count ++ gap ++ len

section Layout
variable (p : Pred) (op : BitVec 6) (rest : BitVec 22) (rd ra rb : Reg) (fn : BitVec 7) (imm : BitVec 12) (resv : BitVec 1)
  (imm16 : BitVec 16) (pfield : BitVec 4) (count len : BitVec 10) (gap : BitVec 2)

theorem toNat_layout : (layout p op rest).toNat
    = p.n.toNat * 2 ^ 31 + p.p.toNat * 2 ^ 28 + op.toNat * 2 ^ 22 + rest.toNat := by
  simp only [layout, toNat_append_eq, BitVec.toNat_ofBool]; omega

theorem toNat_restR : (restR rd ra rb fn).toNat = rd.toNat * 2 ^ 17 + ra.toNat * 2 ^ 12 + rb.toNat * 2 ^ 7 + fn.toNat := by
  simp only [restR, toNat_append_eq]; omega

theorem toNat_restI : (restI rd ra imm).toNat = rd.toNat * 2 ^ 17 + ra.toNat * 2 ^ 12 + imm.toNat := by
  simp only [restI, toNat_append_eq]; omega

theorem toNat_restU : (restU rd resv imm16).toNat = rd.toNat * 2 ^ 17 + resv.toNat * 2 ^ 16 + imm16.toNat := by
  simp only [restU, toNat_append_eq]; omega

theorem toNat_layoutL : (layoutL pfield op count gap len).toNat
    = pfield.toNat * 2 ^ 28 + op.toNat * 2 ^ 22 + count.toNat * 2 ^ 12 + gap.toNat * 2 ^ 10 + len.toNat := by
  simp only [layoutL, toNat_append_eq]; omega

/-- A field below the opcode lies in the bits there. -/
theorem field_layout (lo n : Nat) (h : lo + n ≤ 22) : field (layout p op rest) lo n = rest.toNat / 2 ^ lo % 2 ^ n := by
  have hsplit : p.n.toNat * 2 ^ 31 + p.p.toNat * 2 ^ 28 + op.toNat * 2 ^ 22
      = 2 ^ lo * (2 ^ n * (2 ^ (22 - (lo + n)) * (p.n.toNat * 2 ^ 9 + p.p.toNat * 2 ^ 6 + op.toNat))) := by
    have : 2 ^ lo * (2 ^ n * 2 ^ (22 - (lo + n))) = 2 ^ 22 := by rw [← pow_add, ← pow_add]; congr 1; omega
    calc _ = 2 ^ 22 * (p.n.toNat * 2 ^ 9 + p.p.toNat * 2 ^ 6 + op.toNat) := by ring
      _ = _ := by rw [← this]; ring
  rw [field, toNat_layout, hsplit, Nat.mul_add_div (Nat.two_pow_pos lo), Nat.mul_add_mod]

@[simp] theorem wOp_layout : wOp (layout p op rest) = op.toNat := by
  have := rest.isLt
  have := op.isLt
  rw [wOp, field, toNat_layout]; omega

@[simp] theorem wPred_layout : wPred (layout p op rest) = p := by
  have hrest := rest.isLt
  have hop := op.isLt
  have hp := p.p.isLt
  have hn : hasBit (layout p op rest) 31 = p.n := by
    rw [hasBit, Nat.testBit_eq_decide_div_mod_eq, toNat_layout]
    cases p.n <;> simp <;> omega
  have hp : field (layout p op rest) 28 3 = p.p.toNat := by rw [field, toNat_layout]; omega
  rw [wPred, hn, hp, BitVec.ofNat_toNat, BitVec.setWidth_eq]

theorem wRd_layout : wRd (layout p op rest) = rest.toNat / 2 ^ 17 % 2 ^ 5 := field_layout p op rest 17 5 (by decide)
theorem wRa_layout : wRa (layout p op rest) = rest.toNat / 2 ^ 12 % 2 ^ 5 := field_layout p op rest 12 5 (by decide)
theorem wRb_layout : wRb (layout p op rest) = rest.toNat / 2 ^ 7 % 2 ^ 5 := field_layout p op rest 7 5 (by decide)
theorem wFn_layout : wFn (layout p op rest) = rest.toNat / 2 ^ 0 % 2 ^ 7 := field_layout p op rest 0 7 (by decide)
theorem wImm_layout : wImm (layout p op rest) = rest.toNat / 2 ^ 0 % 2 ^ 12 := field_layout p op rest 0 12 (by decide)

theorem hasBit_layout (i : Nat) (h : i < 22) : hasBit (layout p op rest) i = rest.getLsbD i := by
  simp only [layout, hasBit, BitVec.testBit_toNat, BitVec.getLsbD_append, h, if_true]

end Layout

/-! ### The operands that a format gives back -/

@[simp] theorem regOf_toNat (r : Reg) : regOf r.toNat = r := by rw [regOf, BitVec.ofNat_toNat, BitVec.setWidth_eq]

section Formats
variable (p : Pred) (op : BitVec 6) (rd ra rb : Reg) (fn : BitVec 7) (imm : BitVec 12) (resv : BitVec 1) (imm16 : BitVec 16)

@[simp] theorem wRd_layout_restR : wRd (layout p op (restR rd ra rb fn)) = rd.toNat := by rw [wRd_layout, toNat_restR]; omega
@[simp] theorem wRa_layout_restR : wRa (layout p op (restR rd ra rb fn)) = ra.toNat := by rw [wRa_layout, toNat_restR]; omega
@[simp] theorem wRb_layout_restR : wRb (layout p op (restR rd ra rb fn)) = rb.toNat := by rw [wRb_layout, toNat_restR]; omega
@[simp] theorem wFn_layout_restR : wFn (layout p op (restR rd ra rb fn)) = fn.toNat := by rw [wFn_layout, toNat_restR]; omega
@[simp] theorem wRd_layout_restI : wRd (layout p op (restI rd ra imm)) = rd.toNat := by rw [wRd_layout, toNat_restI]; omega
@[simp] theorem wRa_layout_restI : wRa (layout p op (restI rd ra imm)) = ra.toNat := by rw [wRa_layout, toNat_restI]; omega
@[simp] theorem wImm_layout_restI : wImm (layout p op (restI rd ra imm)) = imm.toNat := by rw [wImm_layout, toNat_restI]; omega
@[simp] theorem wRd_layout_restU : wRd (layout p op (restU rd resv imm16)) = rd.toNat := by rw [wRd_layout, toNat_restU]; omega

@[simp] theorem imm12Of_layout : imm12Of (layout p op (restI rd ra imm)) = imm := by
  rw [imm12Of, wImm_layout_restI, BitVec.ofNat_toNat, BitVec.setWidth_eq]

@[simp] theorem imm16Of_layout : imm16Of (layout p op (restU rd resv imm16)) = imm16 := by
  have h : (restU rd resv imm16).toNat / 2 ^ 0 % 2 ^ 16 = imm16.toNat := by rw [toNat_restU]; omega
  rw [imm16Of, field_layout _ _ _ 0 16 (by decide), h, BitVec.ofNat_toNat, BitVec.setWidth_eq]

/-- Single bits of a register field and of IMM12 or FN. -/
theorem hasBit_layout_restR : hasBit (layout p op (restR rd ra rb fn)) 17 = rd.getLsbD 0
    ∧ hasBit (layout p op (restR rd ra rb fn)) 3 = fn.getLsbD 3 := by
  constructor <;> rw [hasBit_layout _ _ _ _ (by decide), restR] <;> simp only [BitVec.getLsbD_append] <;> rfl

theorem hasBit_layout_restI : hasBit (layout p op (restI rd ra imm)) 12 = ra.getLsbD 0
    ∧ hasBit (layout p op (restI rd ra imm)) 4 = imm.getLsbD 4 ∧ hasBit (layout p op (restI rd ra imm)) 0 = imm.getLsbD 0 := by
  refine ⟨?_, ?_, ?_⟩ <;> rw [hasBit_layout _ _ _ _ (by decide), restI] <;> simp only [BitVec.getLsbD_append] <;> rfl

/-- Bits 10:3 of IMM12, the reason of a TRIP. -/
theorem ofNat_div_eight : BitVec.ofNat 8 (imm.toNat / 8) = imm.extractLsb' 3 8 := by
  apply BitVec.eq_of_toNat_eq
  rw [BitVec.toNat_ofNat, BitVec.extractLsb'_toNat, Nat.shiftRight_eq_div_pow]

end Formats

/-- A word of the L format under opcode 0x3C is a REPEAT. -/
theorem decodeWord_layoutL (e : EngineId) (pfield : BitVec 4) (count len : BitVec 10) (gap : BitVec 2) :
    decodeWord e (layoutL pfield 0x3C count gap len) = .repeatI e pfield count len := by
  obtain ⟨hp, hc, hg, hl⟩ := And.intro pfield.isLt (And.intro count.isLt (And.intro gap.isLt len.isLt))
  have hw := toNat_layoutL 0x3C pfield count len gap
  have hop : wOp (layoutL pfield 0x3C count gap len) = 0x3C := by rw [wOp, field, hw]; simp; omega
  have hpred : field (layoutL pfield 0x3C count gap len) 28 4 = pfield.toNat := by rw [field, hw]; simp; omega
  have hcount : wCount (layoutL pfield 0x3C count gap len) = count.toNat := by rw [wCount, field, hw]; simp; omega
  have hlen : wLen (layoutL pfield 0x3C count gap len) = len.toNat := by rw [wLen, field, hw]; simp; omega
  simp only [decodeWord, hop, hpred, hcount, hlen, BitVec.ofNat_toNat, BitVec.setWidth_eq]

/-! ### Words that the table does not list -/

section Unlisted
variable (e : EngineId) (p : Pred) (rd ra rb : Reg) (w : Word)

theorem decodeAlu_unlisted : decodeAlu e p rd ra rb w = .unlistedOpcode e w ↔ (List.range 15).contains (wFn w) = false := by
  unfold decodeAlu
  split <;> simp_all; omega

theorem decodeCmp_unlisted : decodeCmp e p ra rb w = .unlistedOpcode e w
    ↔ [0, 1, 2, 3, 4, 5, 0x10, 0x11, 0x12, 0x13].contains (wFn w) = false := by
  unfold decodeCmp
  split <;> simp_all

theorem decodePlog_unlisted : decodePlog e p w = .unlistedOpcode e w ↔ [0, 1, 2, 3].contains (wFn w) = false := by
  unfold decodePlog
  split <;> simp_all

theorem decodeMul_unlisted : decodeMul e p rd ra rb w = .unlistedOpcode e w
    ↔ ¬((wOp w = 0x10 ∧ wFn w ∈ [0, 1, 2, 3, 4]) ∨ (wOp w = 0x11 ∧ wFn w ∈ [0, 1, 2, 3])) := by
  unfold decodeMul
  split <;> simp_all

theorem decodeMac_unlisted : decodeMac e p ra rb w = .unlistedOpcode e w
    ↔ ¬((wOp w = 0x12 ∧ wFn w ∈ [0, 1, 2, 3]) ∨ (wOp w = 0x13 ∧ wFn w ∈ [0, 1])) := by
  unfold decodeMac
  split <;> simp_all

theorem decodeFpu_unlisted : decodeFpu e p rd ra rb w = .unlistedOpcode e w
    ↔ ¬((wOp w = 0x18 ∧ wFn w ∈ [0, 1, 2, 4, 5, 6, 7, 8, 9, 10, 11, 12, 13]) ∨ (wOp w = 0x19 ∧ wFn w ∈ [0, 1])
      ∨ (wOp w = 0x1A ∧ wFn w ∈ [0, 1, 2, 3])) := by
  unfold decodeFpu
  split <;> simp_all

/-- A word decodes to UNLISTED_OPCODE exactly where the table does not list it (R96): where its opcode is not listed, and
where its opcode lists FN values without its own. -/
theorem decodeWord_unlisted : decodeWord e w = .unlistedOpcode e w ↔ listedWord w = false := by
  unfold decodeWord listedWord
  split <;> rename_i hop <;>
    simp [hop, listedFns, plainOps, decodeAlu_unlisted, decodeCmp_unlisted, decodePlog_unlisted, decodeMul_unlisted,
      decodeMac_unlisted, decodeFpu_unlisted]
  case h_42 => simp_all

end Unlisted


/-- Settles O60: opcode by opcode, by the fields of the formats. -/
theorem engineWordsSpellTheirInstruction : Obligations.EngineWordsSpellTheirInstruction := by
  intro e p rd ra rb fn imm imm16 resv word wordR wordI pd acc
  have hR (op : BitVec 6) (f : BitVec 7) : wordR op f = layout p op (restR rd ra rb f) := rfl
  have hI (op : BitVec 6) : wordI op = layout p op (restI rd ra imm) := rfl
  have hU (op : BitVec 6) : word op (rd ++ resv ++ imm16) = layout p op (restU rd resv imm16) := rfl
  have hW (op : BitVec 6) (rest : BitVec 22) : word op rest = layout p op rest := rfl
  refine ⟨fun rest => ?_, ?_, ?_, ?_, ?_, ?_, ?_, ?_, ?_, ?_, ?_, ?_, ?_, ?_, ?_, ?_, ?_, ?_, fun pfield count len gap => ?_, fun w => ?_⟩
  · simp [hW, decodeWord]
  · simp [hR, decodeWord, decodeAlu]
  · simp [hI, decodeWord, hasBit_layout_restI, ofNat_div_eight]
  · simp [hU, decodeWord]
  · simp [hU, decodeWord]
  · simp [hR, decodeWord, hasBit_layout_restR]
  · simp [hR, decodeWord, decodeCmp, pd]
  · simp [hR, decodeWord, decodePlog, pd]
  · simp [hR, decodeWord, decodeMul]
  · simp [hR, decodeWord, decodeMul]
  · simp [hR, decodeWord, decodeMac, hasBit_layout_restR, acc]
  · simp [hR, decodeWord, decodeMac, hasBit_layout_restR, acc]
  · simp [hR, decodeWord, decodeFpu]
  · simp [hR, decodeWord, decodeFpu]
  · simp [hR, decodeWord, decodeFpu]
  · simp [hR, decodeWord]
  · simp [hR, decodeWord]
  · simp [hR, decodeWord]
  · exact decodeWord_layoutL e pfield count len gap
  · exact decodeWord_unlisted e w
end Sys2Proof.Machine
end

section
/-! PROOFS. What commands leave alone: `core` of a state is its queue, the counters of the wheel, the writes that wait and the
byte memories. Most
functions of the model leave it as it was, which is an equation for each (`core_…`); it is told apart from what changes it,
for which `Keeps` says that the queue stays, the counters keep their relations and the memories their canonical form. -/
namespace Sys2Proof.Machine

/-- The queue, the timebase and the counters of the wheel (R34), the writes that wait for their seam and the byte memories. -/
structure Core where
  pending : List Instr
  w : Nat
  ric : Nat
  acc : Word
  ris : Nat
  round : Word
  newBase : Option (Nat × Nat)
  l : Nat
  seam : Word
  seamDue : Bool
  closed : Bool
  pend : List PendWrite
  dmem : Mem
  shm : Mem
  upRead : Mem
  blkRead : Mem
  blkFill : Mem
  dlBuf : Mem
  trace : Mem
  mram : Mem

/-- That part of a state. -/
def core (s : State) : Core where
  pending := s.pending
  w := s.wheel.w
  ric := s.wheel.ric
  acc := s.wheel.acc
  ris := s.wheel.ris
  round := s.wheel.round
  newBase := s.wheel.newBase
  l := s.wheel.l
  seam := s.wheel.seam
  seamDue := s.wheel.seamDue
  closed := s.wheel.closed
  pend := s.net.pend
  dmem := s.arr.dmem
  shm := s.arr.shm
  upRead := s.arr.upRead
  blkRead := s.arr.blkRead
  blkFill := s.arr.blkFill
  dlBuf := s.arr.dlBuf
  trace := s.recorder.trace
  mram := s.mram

/-- That part of the state that a command answers. -/
def outCore : Out → Option Core
  | .next t => some (core t)
  | _ => none

/-! ### Equal cores, field by field -/

/-- A state written out has the core of another if the fields agree. -/
@[simp] theorem core_mk_eq (pending wheel feedA feedB sense arr pat arm links ctls fes flow shelf sq hem pair net recorder
    tws timers gpio boot cfg mram draws) (s : State) :
    core ⟨pending, wheel, feedA, feedB, sense, arr, pat, arm, links, ctls, fes, flow, shelf, sq, hem, pair, net, recorder,
      tws, timers, gpio, boot, cfg, mram, draws⟩ = core s
    ↔ pending = s.pending ∧ wheel.w = s.wheel.w ∧ wheel.ric = s.wheel.ric ∧ wheel.acc = s.wheel.acc ∧ wheel.ris = s.wheel.ris
      ∧ wheel.round = s.wheel.round ∧ wheel.newBase = s.wheel.newBase ∧ wheel.l = s.wheel.l ∧ wheel.seam = s.wheel.seam
      ∧ wheel.seamDue = s.wheel.seamDue ∧ wheel.closed = s.wheel.closed ∧ net.pend = s.net.pend ∧ arr.dmem = s.arr.dmem
      ∧ arr.shm = s.arr.shm
      ∧ arr.upRead = s.arr.upRead ∧ arr.blkRead = s.arr.blkRead ∧ arr.blkFill = s.arr.blkFill ∧ arr.dlBuf = s.arr.dlBuf
      ∧ recorder.trace = s.recorder.trace ∧ mram = s.mram := by
  simp only [core, Core.mk.injEq]

/-- A state that differs from another only in parts with no field of the core. -/
@[simp] theorem core_mk (t : State)
    (feedA feedB sense pat arm links ctls fes flow shelf sq hem pair tws timers gpio boot cfg draws) :
    core ⟨
      t.pending, t.wheel, feedA, feedB, sense, t.arr, pat, arm, links, ctls, fes, flow, shelf, sq, hem, pair, t.net, t.recorder, tws, timers, gpio,
      boot, cfg, t.mram, draws⟩ = core t := rfl

/-- The same with other fields of the wheel. -/
@[simp] theorem core_mk_wheel (t : State)
    (state freqStep lead fTick fHold phaseErr tRound mode sticky acqUp lockCycles lockOn inOn lossRun outRun inCycles slipHigh
syncPresent syncLost syncFreq syncLag syncMissed syncCycles syncPlaced syncRic syncAge syncOut seamIn feedA feedB
sense pat arm links ctls fes flow shelf sq hem pair tws timers gpio boot cfg draws) :
    core ⟨
      t.pending, ⟨state, freqStep, lead, t.wheel.acc, t.wheel.round, t.wheel.ric, t.wheel.ris, t.wheel.seam, fTick, fHold, phaseErr, tRound, t.wheel.w, t.wheel.l,
      mode, sticky, acqUp, lockCycles, lockOn, inOn, lossRun, outRun, inCycles, slipHigh, syncPresent, syncLost, syncFreq, syncLag, syncMissed,
      syncCycles, syncPlaced, syncRic, syncAge, syncOut, t.wheel.seamDue, seamIn, t.wheel.closed, t.wheel.newBase⟩, feedA, feedB, sense, t.arr, pat, arm, links,
      ctls, fes, flow, shelf, sq, hem, pair, t.net, t.recorder, tws, timers, gpio, boot, cfg, t.mram, draws⟩ = core t := rfl

/-- The same with other fields of the array. -/
@[simp] theorem core_mk_arr (t : State)
    (feedA feedB sense engines sleeves imem imemShadow yoke reds res resMask resNew bins exts invalid arraySticky correctedTotal
scrubPasses started scrubWhole upsets scrubbed snapped sweepAge pat arm links ctls fes flow shelf sq hem pair tws timers
gpio boot cfg draws) :
    core ⟨
      t.pending, t.wheel, feedA, feedB, sense, ⟨engines, sleeves, imem, imemShadow, t.arr.dmem, t.arr.shm, t.arr.upRead, t.arr.blkRead,
      t.arr.blkFill, t.arr.dlBuf, yoke, reds, res, resMask, resNew, bins, exts, invalid, arraySticky, correctedTotal, scrubPasses, started,
      scrubWhole, upsets, scrubbed, snapped, sweepAge⟩, pat, arm, links, ctls, fes, flow, shelf, sq, hem, pair, t.net, t.recorder, tws, timers, gpio,
      boot, cfg, t.mram, draws⟩ = core t := rfl

/-- The same with other fields of the recorder. -/
@[simp] theorem core_mk_recorder (t : State)
    (feedA feedB sense pat arm links ctls fes flow shelf sq hem pair newest oldest head held lost suppTotal limiters overflow
supp buffer flushTime sticky stageBins stageExts stageInvalid stageSoc copyA copyB gapS lastFold wipe traceState trigRound trigSrc
postLeft lastRound slots slotAge slotFirst missed lenNow checkpoints cpSeq tws timers gpio boot cfg draws) :
    core ⟨
      t.pending, t.wheel, feedA, feedB, sense, t.arr, pat, arm, links, ctls, fes, flow, shelf, sq, hem, pair, t.net, ⟨newest, oldest, head, held, lost,
      suppTotal, limiters, overflow, supp, buffer, flushTime, sticky, stageBins, stageExts, stageInvalid, stageSoc, copyA, copyB, gapS, lastFold,
      wipe, traceState, t.recorder.trace, trigRound, trigSrc, postLeft, lastRound, slots, slotAge, slotFirst, missed, lenNow, checkpoints, cpSeq⟩,
      tws, timers, gpio, boot, cfg, t.mram, draws⟩ = core t := rfl

/-- The same with other fields of the network side. -/
@[simp] theorem core_mk_net (t : State)
    (feedA feedB sense pat arm links ctls fes flow shelf sq hem pair sessions authFail replay refused rxqDropped telemDropped
urgAccepted urgRejected urgLimited hushed ingress subs out lines status value msgNo ethUp urgTokens tokens rxDropped urgRx
canBus parts smbReq smbNext smbResp smbSent smbBusy smbReady smbOver smbNack smbByte smbBlock levelKeys imageKeys labels gres
staged xfers tws timers gpio boot cfg draws) :
    core ⟨
      t.pending, t.wheel, feedA, feedB, sense, t.arr, pat, arm, links, ctls, fes, flow, shelf, sq, hem, pair, ⟨sessions, authFail, replay,
      refused, rxqDropped, telemDropped, urgAccepted, urgRejected, urgLimited, hushed, ingress, subs, out, lines, status, value, msgNo,
      ethUp, urgTokens, tokens, rxDropped, urgRx, canBus, parts, smbReq, smbNext, smbResp, smbSent, smbBusy, smbReady, smbOver, smbNack,
      smbByte, smbBlock, levelKeys, imageKeys, labels, t.net.pend, gres, staged, xfers⟩, t.recorder,
      tws, timers, gpio, boot, cfg, t.mram, draws⟩ = core t := rfl

section Fields
variable {s t : State} (h : core t = core s)
include h
@[simp] theorem core_pending : t.pending = s.pending ↔ True := iff_true_intro (congrArg Core.pending h)
@[simp] theorem core_wheel_w : t.wheel.w = s.wheel.w ↔ True := iff_true_intro (congrArg Core.w h)
@[simp] theorem core_wheel_ric : t.wheel.ric = s.wheel.ric ↔ True := iff_true_intro (congrArg Core.ric h)
@[simp] theorem core_wheel_acc : t.wheel.acc = s.wheel.acc ↔ True := iff_true_intro (congrArg Core.acc h)
@[simp] theorem core_wheel_ris : t.wheel.ris = s.wheel.ris ↔ True := iff_true_intro (congrArg Core.ris h)
@[simp] theorem core_wheel_round : t.wheel.round = s.wheel.round ↔ True := iff_true_intro (congrArg Core.round h)
@[simp] theorem core_wheel_newBase : t.wheel.newBase = s.wheel.newBase ↔ True := iff_true_intro (congrArg Core.newBase h)
@[simp] theorem core_wheel_l : t.wheel.l = s.wheel.l ↔ True := iff_true_intro (congrArg Core.l h)
@[simp] theorem core_wheel_seam : t.wheel.seam = s.wheel.seam ↔ True := iff_true_intro (congrArg Core.seam h)
@[simp] theorem core_wheel_seamDue : t.wheel.seamDue = s.wheel.seamDue ↔ True := iff_true_intro (congrArg Core.seamDue h)
@[simp] theorem core_wheel_closed : t.wheel.closed = s.wheel.closed ↔ True := iff_true_intro (congrArg Core.closed h)
@[simp] theorem core_net_pend : t.net.pend = s.net.pend ↔ True := iff_true_intro (congrArg Core.pend h)
@[simp] theorem core_arr_dmem : t.arr.dmem = s.arr.dmem ↔ True := iff_true_intro (congrArg Core.dmem h)
@[simp] theorem core_arr_shm : t.arr.shm = s.arr.shm ↔ True := iff_true_intro (congrArg Core.shm h)
@[simp] theorem core_arr_upRead : t.arr.upRead = s.arr.upRead ↔ True := iff_true_intro (congrArg Core.upRead h)
@[simp] theorem core_arr_blkRead : t.arr.blkRead = s.arr.blkRead ↔ True := iff_true_intro (congrArg Core.blkRead h)
@[simp] theorem core_arr_blkFill : t.arr.blkFill = s.arr.blkFill ↔ True := iff_true_intro (congrArg Core.blkFill h)
@[simp] theorem core_arr_dlBuf : t.arr.dlBuf = s.arr.dlBuf ↔ True := iff_true_intro (congrArg Core.dlBuf h)
@[simp] theorem core_recorder_trace : t.recorder.trace = s.recorder.trace ↔ True := iff_true_intro (congrArg Core.trace h)
@[simp] theorem core_mram : t.mram = s.mram ↔ True := iff_true_intro (congrArg Core.mram h)
end Fields

/-! ### Branches, pairs, loops -/

section Branches
variable {α : Type} {c : Prop} [Decidable c] {x : Core}

@[simp] theorem core_ite {a b : State} : core (if c then a else b) = x ↔ (c → core a = x) ∧ (¬c → core b = x) := by
  split <;> simp [*]

@[simp] theorem core_ite_snd {a b : α × State} : core (if c then a else b).2 = x ↔ (c → core a.2 = x) ∧ (¬c → core b.2 = x) := by
  split <;> simp [*]

@[simp] theorem outCore_next (t : State) : outCore (.next t) = some x ↔ core t = x := Option.some_inj

@[simp] theorem outCore_ite {a b : Out} : outCore (if c then a else b) = some x ↔ (c → outCore a = some x) ∧ (¬c → outCore b = some x) := by
  split <;> simp [*]

end Branches

/-- A loop leaves the core alone if its body does. -/
@[simp] theorem core_foldl {α : Type} {f : State → α → State} (hf : ∀ s a, core (f s a) = core s) (l : List α) :
    ∀ s, core (l.foldl f s) = core s := by
  induction l with
  | nil => exact fun _ => rfl
  | cons a l ih => exact fun s => (ih _).trans (hf s a)

@[simp] theorem core_forAll {f : State → Nat → State} (hf : ∀ s n, core (f s n) = core s) (l : List Nat) (s : State) :
    core (forAll l f s) = core s := core_foldl hf l s

/-! ### What every command keeps -/

/-- The relations of the counters (R28, R34). -/
def countersOk (c : Core) : Prop :=
  legalW c.w ∧ c.ric < c.w ∧ c.acc.toNat = c.ric * (2 ^ 32 / c.w) ∧ (c.ris = c.ric % 1024 ∧ c.round.toNat % 1024 = c.ris)
    ∧ ∀ b ∈ c.newBase, legalW b.1

/-- From one memory to another the canonical form is kept. -/
def KeptMem (m m' : Mem) : Prop := Memory.wf m = true → Memory.wf m' = true

/-- Every byte memory has the canonical form. -/
structure MemsOk (c : Core) : Prop where
  dmem : Memory.wf c.dmem = true
  shm : Memory.wf c.shm = true
  upRead : Memory.wf c.upRead = true
  blkRead : Memory.wf c.blkRead = true
  blkFill : Memory.wf c.blkFill = true
  dlBuf : Memory.wf c.dlBuf = true
  trace : Memory.wf c.trace = true
  mram : Memory.wf c.mram = true

/-- From one core to another the queue stays, the counters keep their relations and the memories their canonical form. -/
structure Kept (c d : Core) : Prop where
  pending : d.pending = c.pending
  counters : countersOk c → countersOk d
  mems : MemsOk c → MemsOk d

/-- A command answers a state, and keeps. -/
def OutKept (c : Core) (o : Out) : Prop := ∃ t, o = .next t ∧ Kept c (core t)

@[simp] theorem kept_refl (c : Core) : Kept c c := ⟨rfl, id, id⟩

theorem kept_trans {c d e : Core} (h : Kept c d) (h' : Kept d e) : Kept c e :=
  ⟨h'.pending.trans h.pending, h'.counters ∘ h.counters, h'.mems ∘ h.mems⟩

section Branches
variable {α : Type} {p : Prop} [Decidable p] {c : Core}

@[simp] theorem kept_ite {a b : State} : Kept c (core (if p then a else b)) ↔ (p → Kept c (core a)) ∧ (¬p → Kept c (core b)) := by
  split <;> simp [*]

@[simp] theorem kept_ite_snd {a b : α × State} :
    Kept c (core (if p then a else b).2) ↔ (p → Kept c (core a.2)) ∧ (¬p → Kept c (core b.2)) := by
  split <;> simp [*]

@[simp] theorem outKept_next (t : State) : OutKept c (.next t) ↔ Kept c (core t) :=
  ⟨fun ⟨_, h, hk⟩ => Host.Outcome.next.inj h ▸ hk, fun h => ⟨t, rfl, h⟩⟩

/-- A command that leaves the core alone keeps. -/
theorem outKept_of_core {o : Out} (h : outCore o = some c) : OutKept c o := by
  cases o with
  | next t => exact ⟨t, rfl, Option.some.inj h ▸ kept_refl _⟩
  | fault r => exact absurd h nofun
  | refused r => exact absurd h nofun

end Branches

theorem kept_foldl {α : Type} {f : State → α → State} {c : Core} (hf : ∀ s a, Kept c (core s) → Kept c (core (f s a)))
    (l : List α) : ∀ {s}, Kept c (core s) → Kept c (core (l.foldl f s)) := by
  induction l with
  | nil => exact id
  | cons a l ih => exact fun h => ih (hf _ a h)

theorem kept_forAll {f : State → Nat → State} {c : Core} (hf : ∀ s n, Kept c (core s) → Kept c (core (f s n)))
    (l : List Nat) {s : State} (h : Kept c (core s)) : Kept c (core (forAll l f s)) := kept_foldl hf l h

/-! ### One memory changes -/

section Mem
variable {m m' : Mem} (h : KeptMem m m')
include h

theorem keptMem_mset (a : Nat) (b : Byte) : KeptMem m (mset m' a b) := fun hm => wf_mset _ _ _ (h hm)
theorem keptMem_mwrite (a : Nat) (l : List Byte) : KeptMem m (mwrite m' a l) := fun hm => wf_mwrite _ _ _ (h hm)
theorem keptMem_mputWord (a : Nat) (w : Word) : KeptMem m (mputWord m' a w) := fun hm => wf_mputWord _ _ _ (h hm)
theorem keptMem_mclear (lo hi : Nat) : KeptMem m (mclear m' lo hi) := fun hm => wf_mclear _ _ _ (h hm)

end Mem

theorem keptMem_refl (m : Mem) : KeptMem m m := id

theorem keptMem_nil (m : Mem) : KeptMem m [] := fun _ => wf_nil

theorem keptMem_foldl {α : Type} {f : Mem → α → Mem} {m : Mem} (hf : ∀ m' a, KeptMem m m' → KeptMem m (f m' a)) (l : List α) :
    ∀ {m'}, KeptMem m m' → KeptMem m (l.foldl f m') := by
  induction l with
  | nil => exact id
  | cons a l ih => exact fun h => ih (hf _ a h)

section One
variable {c d : Core} (h : Kept c d) {m : Mem}
include h

theorem kept_dmem (hm : KeptMem d.dmem m) : Kept c { d with dmem := m } := 
  kept_trans h ⟨rfl, id, fun hd => { hd with dmem := hm hd.dmem }⟩
theorem kept_shm (hm : KeptMem d.shm m) : Kept c { d with shm := m } := 
  kept_trans h ⟨rfl, id, fun hd => { hd with shm := hm hd.shm }⟩
theorem kept_dlBuf (hm : KeptMem d.dlBuf m) : Kept c { d with dlBuf := m } := 
  kept_trans h ⟨rfl, id, fun hd => { hd with dlBuf := hm hd.dlBuf }⟩
theorem kept_blkFill (hm : KeptMem d.blkFill m) : Kept c { d with blkFill := m } := 
  kept_trans h ⟨rfl, id, fun hd => { hd with blkFill := hm hd.blkFill }⟩
theorem kept_trace (hm : KeptMem d.trace m) : Kept c { d with trace := m } := 
  kept_trans h ⟨rfl, id, fun hd => { hd with trace := hm hd.trace }⟩
theorem kept_mram (hm : KeptMem d.mram m) : Kept c { d with mram := m } := 
  kept_trans h ⟨rfl, id, fun hd => { hd with mram := hm hd.mram }⟩

/-- The counters change and nothing else. -/
theorem kept_counters {w ric : Nat} {acc : Word} {ris : Nat} {round : Word} {nb : Option (Nat × Nat)} {l : Nat} {seam : Word}
    {due closed : Bool}
    (hw : countersOk d → countersOk { d with w := w, ric := ric, acc := acc, ris := ris, round := round, newBase := nb }) :
    Kept c { d with
      w := w, ric := ric, acc := acc, ris := ris, round := round, newBase := nb, l := l, seam := seam, seamDue := due, closed := closed } :=
  kept_trans h ⟨rfl, hw, fun hd => { hd with }⟩

/-- Writes wait for their seam or end waiting. -/
theorem kept_pend (l : List PendWrite) : Kept c { d with pend := l } := kept_trans h ⟨rfl, id, fun hd => { hd with }⟩

end One

end Sys2Proof.Machine
end
section
/-! PROOFS. The functions of the model that leave queue, counters and memories alone, in the order of their definitions: an
equation for each. -/
namespace Sys2Proof.Machine

@[simp] theorem core_setCfg (s : State) (index : Nat) (sub : Nat) (v : Nat) : core (setCfg s index sub v) = core s := by
  unfold setCfg
  simp

@[simp] theorem core_setEngine (s : State) (e : Nat) (x : Engine) : core (setEngine s e x) = core s := by
  unfold setEngine
  simp

@[simp] theorem core_setSleeve (s : State) (n : Nat) (x : Sleeve) : core (setSleeve s n x) = core s := by
  unfold setSleeve
  simp

@[simp] theorem core_setLink (s : State) (n : Nat) (x : Link) : core (setLink s n x) = core s := by
  unfold setLink
  simp

@[simp] theorem core_setCtl (s : State) (n : Nat) (x : Ctl) : core (setCtl s n x) = core s := by
  unfold setCtl
  simp

@[simp] theorem core_setFarEnd (s : State) (n : Nat) (x : FarEnd) : core (setFarEnd s n x) = core s := by
  unfold setFarEnd
  simp

@[simp] theorem core_setPack (s : State) (p : Nat) (x : Pack) : core (setPack s p x) = core s := by
  unfold setPack
  simp

@[simp] theorem core_setFeed (s : State) (f : Feed) (x : FeedSt) : core (setFeed s f x) = core s := by
  unfold setFeed
  (repeat' split) <;> simp

@[simp] theorem core_updLink (s : State) (n : Nat) (f : Link → Link) : core (updLink s n f) = core s := by
  unfold updLink
  simp

@[simp] theorem core_updCtl (s : State) (n : Nat) (f : Ctl → Ctl) : core (updCtl s n f) = core s := by
  unfold updCtl
  simp

@[simp] theorem core_updSleeve (s : State) (n : Nat) (f : Sleeve → Sleeve) : core (updSleeve s n f) = core s := by
  unfold updSleeve
  simp

@[simp] theorem core_updEngine (s : State) (e : Nat) (f : Engine → Engine) : core (updEngine s e f) = core s := by
  unfold updEngine
  simp

@[simp] theorem core_updPack (s : State) (p : Nat) (f : Pack → Pack) : core (updPack s p f) = core s := by
  unfold updPack
  simp

@[simp] theorem core_updFe (s : State) (n : Nat) (f : FarEnd → FarEnd) : core (updFe s n f) = core s := by
  unfold updFe
  simp

@[simp] theorem core_drawRat (s : State) : core (drawRat s).2 = core s := by
  unfold drawRat
  simp

@[simp] theorem core_drawBool (s : State) : core (drawBool s).2 = core s := by
  unfold drawBool
  simp

@[simp] theorem core_drawWord (s : State) : core (drawWord s).2 = core s := by
  unfold drawWord
  simp

@[simp] theorem core_passTime (s : State) (t : ℚ) : core (passTime s t) = core s := by
  unfold passTime
  simp

@[simp] theorem takeToken_trace (s : State) (code : Nat) : (takeToken s code).1.trace = s.recorder.trace := by
  unfold takeToken
  dsimp only
  split
  · rfl
  · split <;> rfl

@[simp] theorem core_addRecord (s : State) (code : Nat) (round : Word) (data : List Byte) : core (addRecord s code round data) = core s := by
  unfold addRecord
  dsimp only
  (repeat' split) <;> rename_i hr _ <;> simp

@[simp] theorem core_trigger (s : State) (src : Nat) : core (trigger s src) = core s := by
  unfold trigger
  simp

@[simp] theorem core_setPState (s : State) (n : Nat) (t : PState) : core (setPState s n t) = core s := by
  unfold setPState
  dsimp only
  (repeat' split) <;> simp

@[simp] theorem core_portToHem (s : State) (n : Nat) : core (portToHem s n) = core s := by
  unfold portToHem
  simp

@[simp] theorem core_portsToHem (s : State) (l : List Nat) : core (portsToHem s l) = core s := by
  unfold portsToHem
  simp

@[simp] theorem core_tripPort (s : State) (n : Nat) (reason : Byte) : core (tripPort s n reason) = core s := by
  unfold tripPort
  simp

@[simp] theorem core_abandonShutdown (s : State) : core (abandonShutdown s) = core s := by
  unfold abandonShutdown
  simp

@[simp] theorem core_pairDoubt (s : State) (handsOver : Bool) : core (pairDoubt s handsOver) = core s := by
  unfold pairDoubt
  (repeat' split) <;> simp

@[simp] theorem core_raiseSleeve (s : State) (sl : Nat) (bit : Nat) (eng : Nat) (bank : Nat) (cycle : Nat) : core (raiseSleeve
    s sl bit eng bank cycle) = core s := by
  unfold raiseSleeve
  simp

@[simp] theorem core_raiseCtrl (s : State) (bit : Nat) : core (raiseCtrl s bit) = core s := by
  unfold raiseCtrl
  simp

@[simp] theorem core_raiseLinkLost (s : State) (n : Nat) : core (raiseLinkLost s n) = core s := by
  unfold raiseLinkLost
  simp

@[simp] theorem core_sendMsg (s : State) (n : Nat) (q : Nat) (ty : Nat) (body : List Byte) : core (sendMsg s n q ty body) =
    core s := by
  unfold sendMsg
  simp

@[simp] theorem core_withStatus (s : State) (st : Nat) : core (withStatus s st) = core s := by
  unfold withStatus
  simp

@[simp] theorem core_setUpset (s : State) (k : Nat) (v : Nat) : core (setUpset s k v) = core s := by
  unfold setUpset
  simp

@[simp] theorem core_takeUpsets (s : State) (l : List Upset) : core (takeUpsets s l) = core s := by
  unfold takeUpsets
  simp

@[simp] theorem core_dropUpsets (s : State) (p : Nat → Bool) : core (dropUpsets s p) = core s := by
  unfold dropUpsets
  simp

@[simp] theorem core_raiseNoBank (s : State) (sl : Nat) (bit : Nat) (eng : Nat) (cycle : Nat) : core (raiseNoBank s sl bit eng
    cycle) = core s := by
  unfold raiseNoBank
  simp

@[simp] theorem core_countCorrected (s : State) (sl : Nat) : core (countCorrected s sl) = core s := by
  unfold countCorrected
  simp

@[simp] theorem core_eccAccess (s : State) (sl k : Nat) {bad : State → State} (hb : core (bad s) = core s) :
    core (eccAccess s sl k bad) = core s := by
  unfold eccAccess
  split
  · rfl
  · exact core_countCorrected s sl
  · exact hb

@[simp] theorem core_eccWord (s : State) (k : Nat) (w : Word) : core (eccWord s k w).2 = core s := by
  unfold eccWord
  simp

@[simp] theorem core_fetchEcc (s : State) (e : Nat) : core (fetchEcc s e) = core s := by
  unfold fetchEcc
  simp

@[simp] theorem core_dmemEcc (s : State) (e : Nat) (k : Nat) : core (dmemEcc s e k) = core s := by
  unfold dmemEcc
  simp

@[simp] theorem core_shmEcc (s : State) (sl : Nat) (a : Nat) (eng : Nat) (cycle : Nat) : core (shmEcc s sl a eng cycle) = core
    s := by
  unfold shmEcc
  simp

@[simp] theorem core_clearTallyWord (s : State) (sl : Nat) (k : Nat) : core (clearTallyWord s sl k) = core s := by
  unfold clearTallyWord
  simp

@[simp] theorem core_tallyEcc (s : State) (sl : Nat) (k : Nat) : core (tallyEcc s sl k) = core s := by
  unfold tallyEcc
  (repeat' split) <;> simp

@[simp] theorem core_issueS (s : State) (e : Nat) (p : Pred) {body : State → State} (hb : ∀ s, core (body s) = core s) :
    core (issueS s e p body) = core s := by
  unfold issueS
  simp [hb]

@[simp] theorem core_issue (s : State) (e : Nat) (p : Pred) (body : Engine → Engine) : core (issue s e p body) = core s := by
  unfold issue
  simp

@[simp] theorem core_issueReg (s : State) (e : Nat) (p : Pred) (lat : Nat) (rd : Reg) (f : Engine → Word × BitVec 16) : outCore
    (issueReg s e p lat rd f) = some (core s) := by
  unfold issueReg
  simp

@[simp] theorem core_issueR (s : State) (e : Nat) (p : Pred) (lat : Nat) (rd : Reg) (ra : Reg) (rb : Reg) (f : Word → Word →
    Word × BitVec 16) : outCore (issueR s e p lat rd ra rb f) = some (core s) := by
  unfold issueR
  simp

@[simp] theorem core_issueCmp (s : State) (e : Nat) (p : Pred) (pd : BitVec 3) (ra : Reg) (rb : Reg) (f : Word → Word → Bool ×
    BitVec 16) : outCore (issueCmp s e p pd ra rb f) = some (core s) := by
  unfold issueCmp
  simp

@[simp] theorem core_issuePlog (s : State) (e : Nat) (p : Pred) (pd : BitVec 3) (pa : BitVec 3) (pb : BitVec 3) (f : Bool →
    Bool → Bool) : outCore (issuePlog s e p pd pa pb f) = some (core s) := by
  unfold issuePlog
  simp

@[simp] theorem core_issueDiv (s : State) (e : Nat) (p : Pred) (rd : Reg) (ra : Reg) (rb : Reg) (f : Word → Word → Word ×
    BitVec 16) : outCore (issueDiv s e p rd ra rb f) = some (core s) := by
  unfold issueDiv
  simp

@[simp] theorem core_dmLoad (s : State) (e : Nat) (a : Nat) : core (dmLoad s e a).2 = core s := by
  unfold dmLoad
  simp

@[simp] theorem core_shmAccess (s : State) (e : Nat) (a : Nat) : core (shmAccess s e a) = core s := by
  unfold shmAccess
  simp

@[simp] theorem core_shmLoad (s : State) (e : Nat) (a : Nat) : core (shmLoad s e a).2 = core s := by
  unfold shmLoad
  simp

@[simp] theorem core_windowDoubt (s : State) (e : Nat) (bank : Nat) : core (windowDoubt s e bank) = core s := by
  unfold windowDoubt
  simp

@[simp] theorem core_shmHalf (s : State) (e : Nat) (a : Nat) : core (shmHalf s e a) = core s := by
  unfold shmHalf
  simp

@[simp] theorem core_slotDoubt (s : State) (e : Nat) : core (slotDoubt s e) = core s := by
  unfold slotDoubt
  simp

@[simp] theorem core_execYsend (s : State) (e : EngineId) (p : Pred) (ra : Reg) : outCore (execYsend e p ra s) = some (core s) := by
  refine (outCore_next _).mpr (core_issueS _ _ _ fun s => ?_)
  dsimp only
  split <;> simp

@[simp] theorem core_execYred (s : State) (e : EngineId) (p : Pred) (ra : Reg) : outCore (execYred e p ra s) = some (core s) := by
  refine (outCore_next _).mpr (core_issueS _ _ _ fun s => ?_)
  dsimp only
  split <;> simp

@[simp] theorem core_presentTo (s : State) (sl : Nat) (slot : Nat) (v : Word) : core (presentTo s sl slot v) = core s := by
  unfold presentTo
  simp

@[simp] theorem core_execTrip (s : State) (e : EngineId) (p : Pred) (reason : Byte) (j : BitVec 3) : outCore (execTrip e p reason j s) = some (core s) := by
  refine (outCore_next _).mpr (core_issueS _ _ _ fun s => ?_)
  dsimp only
  split
  · split <;> simp
  · simp

@[simp] theorem core_execYokeArrival (s : State) (d : SleeveId) (ue : Bool) : outCore (execYokeArrival d ue s) = some (core s)
    := by
  unfold execYokeArrival
  (repeat' split) <;> simp

@[simp] theorem core_addDone (s : State) (l : List RedDone) : core (addDone s l) = core s := by
  unfold addDone
  simp

@[simp] theorem core_execReductionResult (s : State) (cycle : Nat) (ue : Bool) : outCore (execReductionResult cycle ue s) =
    some (core s) := by
  unfold execReductionResult
  (repeat' split) <;> simp

@[simp] theorem core_foldResults (s : State) : core (foldResults s) = core s := by
  unfold foldResults
  simp

@[simp] theorem core_wheelTo (s : State) (t : WState) : core (wheelTo s t) = core s := by
  unfold wheelTo
  simp

@[simp] theorem core_refLost (s : State) : core (refLost s) = core s := by
  unfold refLost
  (repeat' split) <;> simp

@[simp] theorem core_goFree (s : State) : core (goFree s) = core s := by
  unfold goFree
  simp

@[simp] theorem core_wheelEnter (s : State) : core (wheelEnter s) = core s := by
  unfold wheelEnter
  (repeat' split) <;> simp

@[simp] theorem core_wheelFreq (s : State) : core (wheelFreq s) = core s := by
  unfold wheelFreq
  dsimp only
  (repeat' split) <;> simp

@[simp] theorem core_takeFeeds (s : State) (i : TickIn) : core (takeFeeds s i) = core s := by
  unfold takeFeeds
  simp

@[simp] theorem core_takeSense (s : State) (codes : List (BitVec 16)) : core (takeSense s codes) = core s := by
  unfold takeSense
  simp

@[simp] theorem core_wheelRuns (s : State) : core (wheelRuns s) = core s := by
  unfold wheelRuns
  simp

@[simp] theorem core_syncTick (s : State) : core (syncTick s) = core s := by
  unfold syncTick
  simp

@[simp] theorem core_wheelMeasure (s : State) (i : TickIn) : core (wheelMeasure s i) = core s := by
  unfold wheelMeasure
  simp

@[simp] theorem core_wheelSet (s : State) : core (wheelSet s) = core s := by
  unfold wheelSet
  simp

@[simp] theorem core_angleValidNow (s : State) (f : Feed) : core (angleValidNow s f) = core s := by
  unfold angleValidNow
  simp

@[simp] theorem core_feedLost (s : State) (f : Feed) : core (feedLost s f) = core s := by
  unfold feedLost
  simp

@[simp] theorem core_feedReturned (s : State) (f : Feed) : core (feedReturned s f) = core s := by
  unfold feedReturned
  simp

@[simp] theorem core_lockNow (s : State) : core (lockNow s) = core s := by
  unfold lockNow
  simp

@[simp] theorem core_lockLossNow (s : State) : core (lockLossNow s) = core s := by
  unfold lockLossNow
  simp

@[simp] theorem core_slipNow (s : State) : core (slipNow s) = core s := by
  unfold slipNow
  simp

@[simp] theorem core_slipReturnNow (s : State) : core (slipReturnNow s) = core s := by
  unfold slipReturnNow
  simp

@[simp] theorem core_syncLossNow (s : State) : core (syncLossNow s) = core s := by
  unfold syncLossNow
  simp

@[simp] theorem core_moveLead (s : State) : core (moveLead s) = core s := by
  unfold moveLead
  (repeat' split) <;> simp

@[simp] theorem core_toReady (s : State) (n : Nat) : core (toReady s n) = core s := by
  unfold toReady
  simp

@[simp] theorem core_leaveHem (s : State) (n : Nat) : core (leaveHem s n) = core s := by
  unfold leaveHem
  (repeat' split) <;> simp

@[simp] theorem core_markFree (s : State) (l : List Nat) : core (markFree s l) = core s := by
  unfold markFree
  simp

@[simp] theorem core_startSleeve (s : State) (sl : Nat) : core (startSleeve s sl) = core s := by
  unfold startSleeve
  simp

@[simp] theorem core_clearSleeveEngines (s : State) (sl : Nat) : core (clearSleeveEngines s sl) = core s := by
  unfold clearSleeveEngines
  simp

@[simp] theorem core_restartSleeve (s : State) (sl : Nat) : core (restartSleeve s sl) = core s := by
  unfold restartSleeve
  simp

@[simp] theorem core_startEngines (s : State) : core (startEngines s) = core s := by
  unfold startEngines
  simp

@[simp] theorem core_loadStartNow (s : State) : core (loadStartNow s).2 = core s := by
  unfold loadStartNow
  simp

@[simp] theorem core_loadFailed (s : State) (f : Fail) : core (loadFailed s f) = core s := by
  unfold loadFailed
  simp

@[simp] theorem core_commitNow (s : State) : core (commitNow s).2 = core s := by
  unfold commitNow
  simp

@[simp] theorem core_commitFailed (s : State) : core (commitFailed s) = core s := by
  unfold commitFailed
  simp

@[simp] theorem core_readbackNow (s : State) : core (readbackNow s) = core s := by
  unfold readbackNow
  simp

@[simp] theorem core_queueParam (s : State) (index : Nat) (sub : Nat) (v : Nat) : core (queueParam s index sub v) = core s := by
  unfold queueParam
  simp

@[simp] theorem core_armRequest (s : State) (vals : List (Nat × Nat × Nat)) : core (armRequest s vals) = core s := by
  unfold armRequest
  simp

@[simp] theorem core_setOutcomes (s : State) (l : List Nat) (code : Nat) : core (setOutcomes s l code) = core s := by
  unfold setOutcomes
  simp

@[simp] theorem core_armAbort (s : State) : core (armAbort s) = core s := by
  unfold armAbort
  simp

@[simp] theorem core_seamArm (s : State) : core (seamArm s) = core s := by
  unfold seamArm
  simp

@[simp] theorem core_armDecide (s : State) : core (armDecide s) = core s := by
  unfold armDecide
  simp

@[simp] theorem core_seamArmCommit (s : State) : core (seamArmCommit s) = core s := by
  unfold seamArmCommit
  simp

@[simp] theorem core_armAck (s : State) (n : Nat) (ident : Byte) (code : Nat) : core (armAck s n ident code) = core s := by
  unfold armAck
  simp

@[simp] theorem core_armFinish (s : State) : core (armFinish s) = core s := by
  unfold armFinish
  simp

@[simp] theorem core_tickArm (s : State) : core (tickArm s) = core s := by
  unfold tickArm
  simp

@[simp] theorem core_scrubOne (s : State) (e : ScrubErr) : core (scrubOne s e) = core s := by
  unfold scrubOne
  dsimp only
  (repeat' split) <;> simp

@[simp] theorem core_scrubUpset (s : State) (u : Nat × Nat) : core (scrubUpset s u) = core s := by
  unfold scrubUpset
  (repeat' split) <;> simp

@[simp] theorem core_scrubNow (s : State) (errs : List ScrubErr) : core (scrubNow s errs) = core s := by
  unfold scrubNow
  simp

@[simp] theorem core_snapshotEcc (s : State) (sl : Nat) : core (snapshotEcc s sl) = core s := by
  unfold snapshotEcc
  simp

@[simp] theorem core_moveUpsets (s : State) : core (moveUpsets s) = core s := by
  unfold moveUpsets
  simp

@[simp] theorem addStage_trace (r : Recorder) (k : Nat) (v : Word) : (addStage r k v).trace = r.trace := by
  unfold addStage; dsimp only; split <;> rfl

@[simp] theorem foldl_addStage_trace {α : Type} (f : α → Nat × Word) (l : List α) :
    ∀ r : Recorder, (l.foldl (fun r b => addStage r (f b).1 (f b).2) r).trace = r.trace := by
  induction l with
  | nil => exact fun _ => rfl
  | cons a l ih => exact fun r => (ih _).trans (addStage_trace r _ _)

@[simp] theorem core_sweepNow (s : State) (n : Nat) : core (sweepNow s n) = core s := by
  have hecc : core (if quietMemory s then s else forAll (List.range 1024) (fun s k => tallyEcc s n k) s) = core s := by simp
  unfold sweepNow
  generalize (if quietMemory s then s else forAll (List.range 1024) (fun s k => tallyEcc s n k) s) = t at hecc
  simp [hecc, foldl_addStage_trace (fun b : Nat × Word => b)]

@[simp] theorem core_seamSweep (s : State) (n : Nat) : core (seamSweep s n) = core s := by
  unfold seamSweep
  simp

@[simp] theorem core_stick (s : State) (n : Nat) (bit : Nat) : core (stick s n bit) = core s := by
  unfold stick
  simp

@[simp] theorem core_queueCmd (s : State) (n : Nat) (cmd : Nat) : core (queueCmd s n cmd) = core s := by
  unfold queueCmd
  simp

@[simp] theorem core_portCmd (s : State) (n : Nat) (v : Nat) : core (portCmd s n v).2 = core s := by
  unfold portCmd
  simp

@[simp] theorem core_offNow (s : State) (n : Nat) : core (offNow s n) = core s := by
  unfold offNow
  simp

@[simp] theorem core_startNow (s : State) (n : Nat) (v : StepVals) : core (startNow s n v) = core s := by
  unfold startNow
  simp

@[simp] theorem core_startAtSeam (s : State) (n : Nat) (v : StepVals) : core (startAtSeam s n v) = core s := by
  unfold startAtSeam
  simp

@[simp] theorem core_stopNow (s : State) (n : Nat) (v : StepVals) : core (stopNow s n v) = core s := by
  unfold stopNow
  simp

@[simp] theorem core_seamCmds (s : State) (n : Nat) : core (seamCmds s n) = core s := by
  unfold seamCmds
  simp

@[simp] theorem core_onDelayNow (s : State) (n : Nat) : core (onDelayNow s n) = core s := by
  unfold onDelayNow
  simp

@[simp] theorem core_rampNow (s : State) (n : Nat) : core (rampNow s n) = core s := by
  unfold rampNow
  simp

@[simp] theorem core_downNow (s : State) (n : Nat) : core (downNow s n) = core s := by
  unfold downNow
  simp

@[simp] theorem core_heatStep (s : State) (n : Nat) : core (heatStep s n) = core s := by
  unfold heatStep
  simp

@[simp] theorem core_overloadNow (s : State) (n : Nat) : core (overloadNow s n) = core s := by
  unfold overloadNow
  simp

@[simp] theorem core_unsaturated (s : State) (n : Nat) : core (unsaturated s n) = core s := by
  unfold unsaturated
  simp

@[simp] theorem core_satStep (s : State) (n : Nat) : core (satStep s n) = core s := by
  unfold satStep
  simp

@[simp] theorem core_satAct (s : State) (n : Nat) : core (satAct s n) = core s := by
  unfold satAct
  simp

@[simp] theorem core_debounceNow (s : State) (n : Nat) : core (debounceNow s n) = core s := by
  unfold debounceNow
  simp

@[simp] theorem core_insDelayNow (s : State) (n : Nat) : core (insDelayNow s n) = core s := by
  unfold insDelayNow
  simp

@[simp] theorem core_inrushNow (s : State) (n : Nat) : core (inrushNow s n) = core s := by
  unfold inrushNow
  simp

@[simp] theorem core_insStep (s : State) (n : Nat) : core (insStep s n) = core s := by
  unfold insStep
  dsimp only
  (repeat' split) <;> simp

@[simp] theorem core_presenceNow (s : State) (n : Nat) : core (presenceNow s n) = core s := by
  unfold presenceNow
  simp

@[simp] theorem core_tapLimitOf (s : State) (n : Nat) : core (tapLimitOf s n).2 = core s := by
  unfold tapLimitOf
  simp

@[simp] theorem core_marginNow (s : State) (n : Nat) (v : Nat) : core (marginNow s n v) = core s := by
  unfold marginNow
  simp

@[simp] theorem core_pgStep (s : State) (n : Nat) : core (pgStep s n) = core s := by
  unfold pgStep
  simp

@[simp] theorem core_measureStep (s : State) (n : Nat) : core (measureStep s n) = core s := by
  unfold measureStep
  simp

@[simp] theorem core_publish (s : State) (n : Nat) : core (publish s n) = core s := by
  unfold publish
  simp

@[simp] theorem core_snapNow (s : State) (n : Nat) : core (snapNow s n) = core s := by
  unfold snapNow
  simp

@[simp] theorem core_snapWrite (s : State) (n : Nat) (v : Nat) : core (snapWrite s n v).2 = core s := by
  unfold snapWrite
  simp

@[simp] theorem core_sendPath (s : State) (n : Nat) : core (sendPath s n) = core s := by
  unfold sendPath
  simp

@[simp] theorem core_sendPathWord (s : State) (n : Nat) (sub : Nat) (v : Nat) : core (sendPathWord s n sub v) = core s := by
  unfold sendPathWord
  simp

@[simp] theorem core_pathWrite (s : State) (ports : List Nat) (sub : Nat) (v : Nat) : core (pathWrite s ports sub v).2 = core s
    := by
  unfold pathWrite
  simp

@[simp] theorem core_tryUnlock (s : State) (n : Nat) : core (tryUnlock s n) = core s := by
  unfold tryUnlock
  simp

@[simp] theorem core_portStickyWrite (s : State) (n : Nat) (bits : Word) : core (portStickyWrite s n bits).2 = core s := by
  unfold portStickyWrite
  simp

@[simp] theorem core_commandStep (s : State) (n : Nat) : core (commandStep s n) = core s := by
  unfold commandStep
  simp

@[simp] theorem core_portCatchUp (s : State) (n : Nat) : core (portCatchUp s n) = core s := by
  unfold portCatchUp
  simp

@[simp] theorem core_portReady (s : State) (n : Nat) : core (portReady s n) = core s := by
  unfold portReady
  simp

@[simp] theorem core_portMove (s : State) (n : Nat) : core (portMove s n) = core s := by
  unfold portMove
  simp

@[simp] theorem core_portAdvance (s : State) (n : Nat) : core (portAdvance s n) = core s := by
  unfold portAdvance
  simp

@[simp] theorem core_portMeasure (s : State) (n : Nat) : core (portMeasure s n) = core s := by
  unfold portMeasure
  simp

@[simp] theorem core_latchHeaders (s : State) : core (latchHeaders s) = core s := by
  unfold latchHeaders
  simp

@[simp] theorem core_startTraining (s : State) (n : Nat) : core (startTraining s n) = core s := by
  unfold startTraining
  simp

@[simp] theorem core_waveEnd (s : State) : core (waveEnd s) = core s := by
  unfold waveEnd
  simp

@[simp] theorem core_trainFail (s : State) (n : Nat) : core (trainFail s n) = core s := by
  unfold trainFail
  simp

@[simp] theorem core_fwSend (s : State) (n : Nat) : core (fwSend s n) = core s := by
  unfold fwSend
  (repeat' split) <;> simp

@[simp] theorem core_sendStart (s : State) (n : Nat) : core (sendStart s n) = core s := by
  unfold sendStart
  simp

@[simp] theorem core_fwFailed (s : State) (n : Nat) : core (fwFailed s n) = core s := by
  unfold fwFailed
  simp

@[simp] theorem core_markMismatch (s : State) (n : Nat) : core (markMismatch s n) = core s := by
  unfold markMismatch
  simp

@[simp] theorem core_trainDone (s : State) (n : Nat) : core (trainDone s n) = core s := by
  unfold trainDone
  simp

@[simp] theorem core_trainFrame (s : State) (n : Nat) (f : UpFrame) : core (trainFrame s n f) = core s := by
  unfold trainFrame
  dsimp only
  (repeat' split) <;> simp

@[simp] theorem core_missRound (s : State) (n : Nat) (crc : Bool) : core (missRound s n crc) = core s := by
  unfold missRound
  simp

@[simp] theorem core_takeTemps (s : State) (n : Nat) (rt : List Byte) : core (takeTemps s n rt) = core s := by
  unfold takeTemps
  simp

@[simp] theorem core_takeLockout (s : State) (n : Nat) (lock : Bool) (ov : Bool) : core (takeLockout s n lock ov) = core s := by
  unfold takeLockout
  simp

@[simp] theorem core_activated (s : State) (n : Nat) : core (activated s n) = core s := by
  unfold activated
  simp

@[simp] theorem core_runFrame (s : State) (n : Nat) (f : UpFrame) (old : Nat) : core (runFrame s n f old) = core s := by
  unfold runFrame
  simp

@[simp] theorem core_mboxRedo (s : State) (n : Nat) : core (mboxRedo s n) = core s := by
  unfold mboxRedo
  simp

@[simp] theorem core_mboxTick (s : State) (n : Nat) : core (mboxTick s n) = core s := by
  unfold mboxTick
  simp

@[simp] theorem core_linkCatchUp (s : State) (n : Nat) : core (linkCatchUp s n) = core s := by
  unfold linkCatchUp
  simp

@[simp] theorem core_linkNew (s : State) : core (linkNew s) = core s := by
  unfold linkNew
  simp

@[simp] theorem core_disablePort (s : State) (n : Nat) : core (disablePort s n) = core s := by
  unfold disablePort
  simp

@[simp] theorem core_execTunnelTransactionDone (s : State) (n : PortId) (status : TwStatus) (rdata : List Byte) : outCore
    (execTunnelTransactionDone n status rdata s) = some (core s) := by
  unfold execTunnelTransactionDone
  (repeat' split) <;> simp

@[simp] theorem core_execFwActivate (s : State) (n : PortId) : outCore (execFwActivate n s) = some (core s) := by
  unfold execFwActivate
  dsimp only
  (repeat' split) <;> simp

@[simp] theorem core_outputsOff (s : State) : core (outputsOff s) = core s := by
  unfold outputsOff
  simp

@[simp] theorem core_summaryWrite (s : State) (v : Word) : core (summaryWrite s v).2 = core s := by
  unfold summaryWrite
  simp

@[simp] theorem core_clearController (s : State) (v : Nat) : core (clearController s v).2 = core s := by
  unfold clearController
  simp

@[simp] theorem core_clearSleeve (s : State) (sl : Nat) : core (clearSleeve s sl).2 = core s := by
  unfold clearSleeve
  simp

@[simp] theorem core_clearPort (s : State) (n : Nat) : core (clearPort s n).2 = core s := by
  unfold clearPort
  simp

@[simp] theorem core_clearGroup (s : State) (g : Nat) : core (clearGroup s g).2 = core s := by
  unfold clearGroup
  simp

@[simp] theorem core_sleeveBack (s : State) (sl : Nat) : core (sleeveBack s sl) = core s := by
  unfold sleeveBack
  simp

@[simp] theorem core_seamReleases (s : State) : core (seamReleases s) = core s := by
  unfold seamReleases
  dsimp only
  refine (core_forAll (fun t sl => ?_) _ _).trans ?_ <;> split <;> simp

@[simp] theorem core_hemPin (s : State) : core (hemPin s) = core s := by
  unfold hemPin
  simp

@[simp] theorem core_ageTemps (s : State) (n : Nat) : core (ageTemps s n) = core s := by
  unfold ageTemps
  simp

@[simp] theorem core_staleNow (s : State) (n : Nat) : core (staleNow s n) = core s := by
  unfold staleNow
  simp

@[simp] theorem core_thermRound (s : State) (n : Nat) : core (thermRound s n) = core s := by
  unfold thermRound
  simp

@[simp] theorem core_thermSeam (s : State) (n : Nat) : core (thermSeam s n) = core s := by
  unfold thermSeam
  simp

@[simp] theorem core_thermStickyWrite (s : State) (n : Nat) (v : Word) : core (thermStickyWrite s n v).2 = core s := by
  unfold thermStickyWrite
  simp

@[simp] theorem core_setStep (s : State) (i : Nat) (x : SeqStep) : core (setStep s i x) = core s := by
  unfold setStep
  simp

@[simp] theorem core_updStep (s : State) (i : Nat) (f : SeqStep → SeqStep) : core (updStep s i f) = core s := by
  unfold updStep
  simp

@[simp] theorem core_seqStick (s : State) (b : Nat) : core (seqStick s b) = core s := by
  unfold seqStick
  simp

@[simp] theorem core_shutdownEnd (s : State) : core (shutdownEnd s) = core s := by
  unfold shutdownEnd
  simp

@[simp] theorem core_memberFail (s : State) (i : Nat) (n : Nat) : core (memberFail s i n) = core s := by
  unfold memberFail
  simp

@[simp] theorem core_tableUp (s : State) : core (tableUp s) = core s := by
  unfold tableUp
  simp

@[simp] theorem core_stepUpNow (s : State) (i : Nat) : core (stepUpNow s i) = core s := by
  unfold stepUpNow
  simp

@[simp] theorem core_startMember (s : State) (i : Nat) (v : StepVals) (n : Nat) : core (startMember i v s n) = core s := by
  unfold startMember
  simp

@[simp] theorem core_runWrite (s : State) : core (runWrite s).2 = core s := by
  unfold runWrite
  simp

@[simp] theorem core_beginRun (s : State) : core (beginRun s) = core s := by
  unfold beginRun
  simp

@[simp] theorem core_freeCollapsed (s : State) (n : Nat) : core (freeCollapsed s n) = core s := by
  unfold freeCollapsed
  simp

@[simp] theorem core_autoStartNow (s : State) : core (autoStartNow s) = core s := by
  unfold autoStartNow
  simp

@[simp] theorem core_startSkipped (s : State) (i : Nat) : core (startSkipped s i) = core s := by
  unfold startSkipped
  simp

@[simp] theorem core_seqStickyWrite (s : State) (v : Word) : core (seqStickyWrite s v).2 = core s := by
  unfold seqStickyWrite
  simp

@[simp] theorem core_packStick (s : State) (p : Nat) (b : Nat) : core (packStick s p b) = core s := by
  unfold packStick
  simp

@[simp] theorem core_pulseStart (s : State) (p : Nat) : core (pulseStart s p) = core s := by
  unfold pulseStart
  simp

@[simp] theorem core_pulseStop (s : State) (p : Nat) (state : Nat) : core (pulseStop s p state) = core s := by
  unfold pulseStop
  simp

@[simp] theorem core_pulseEnd (s : State) (p : Nat) : core (pulseEnd s p) = core s := by
  unfold pulseEnd
  simp

@[simp] theorem core_chargeCheck (s : State) (p : Nat) (n : Nat) : core (chargeCheck s p n) = core s := by
  unfold chargeCheck
  simp

@[simp] theorem core_chargeSeam (s : State) (p : Nat) (n : Nat) : core (chargeSeam s p n) = core s := by
  unfold chargeSeam
  simp

@[simp] theorem core_chargeRequest (s : State) (p : Nat) : core (chargeRequest s p) = core s := by
  unfold chargeRequest
  simp

@[simp] theorem core_binAt (s : State) (sl : Nat) (bin : Nat) : core (binAt s sl bin) = core s := by
  unfold binAt
  simp

@[simp] theorem core_packTallies (s : State) (p : Nat) (n : Nat) : core (packTallies s p n) = core s := by
  unfold packTallies
  simp

@[simp] theorem core_impedanceStep (s : State) (p : Nat) : core (impedanceStep s p) = core s := by
  unfold impedanceStep
  simp

@[simp] theorem core_countCharge (s : State) (p : Nat) (n : Nat) : core (countCharge s p n) = core s := by
  unfold countCharge
  simp

@[simp] theorem core_restStep (s : State) (p : Nat) (n : Nat) : core (restStep s p n) = core s := by
  unfold restStep
  simp

@[simp] theorem core_pulseStep (s : State) (p : Nat) : core (pulseStep s p) = core s := by
  unfold pulseStep
  simp

@[simp] theorem core_packRound (s : State) (p : Nat) (n : Nat) : core (packRound s p n) = core s := by
  unfold packRound
  simp

@[simp] theorem core_shipTime (s : State) : core (shipTime s) = core s := by
  unfold shipTime
  simp

@[simp] theorem core_learnClose (s : State) (p : Nat) (x : ℚ) : core (learnClose s p x) = core s := by
  unfold learnClose
  simp

@[simp] theorem core_longRest (s : State) (p : Nat) (unstated : ℚ) : core (longRest s p unstated) = core s := by
  unfold longRest
  simp

@[simp] theorem core_readIdent (s : State) (p : Nat) : core (readIdent s p) = core s := by
  unfold readIdent
  (repeat' split) <;> simp

@[simp] theorem core_identRound (s : State) (p : Nat) : core (identRound s p) = core s := by
  unfold identRound
  simp

@[simp] theorem core_learnRound (s : State) (p : Nat) : core (learnRound s p) = core s := by
  unfold learnRound
  simp

@[simp] theorem core_battRound (s : State) : core (battRound s) = core s := by
  unfold battRound
  simp

@[simp] theorem core_takeIdent (s : State) (p : Nat) (ok : Bool) (id : List Byte) : core (takeIdent s p ok id) = core s := by
  unfold takeIdent
  simp

@[simp] theorem core_execTwResult (s : State) (n : PortId) (status : TwStatus) (rdata : List Byte) : outCore (execTwResult n
    status rdata s) = some (core s) := by
  unfold execTwResult
  dsimp only
  (repeat' split) <;> simp

@[simp] theorem core_bindNow (s : State) (p : Nat) (v : Nat) : core (bindNow s p v) = core s := by
  unfold bindNow
  simp

@[simp] theorem core_packResetNow (s : State) (p : Nat) : core (packResetNow s p) = core s := by
  unfold packResetNow
  dsimp only
  (repeat' split) <;> simp

@[simp] theorem core_estimate (s : State) (p : Nat) : core (estimate s p) = core s := by
  unfold estimate
  simp

@[simp] theorem core_effectiveCharge (s : State) : core (effectiveCharge s) = core s := by
  unfold effectiveCharge
  simp

@[simp] theorem core_openContactors (s : State) : core (openContactors s) = core s := by
  unfold openContactors
  simp

@[simp] theorem core_battSeam (s : State) : core (battSeam s) = core s := by
  unfold battSeam
  extract_lets -underBinder s₁ s₂ s₃ s₄
  have h₁ : core s₁ = core s := core_foldl (fun t p => by split <;> simp) _ _
  have h₂ : core s₂ = core s₁ := by
    simp only [s₂]; split <;> simp
  clear_value s₁ s₂
  simp [s₄, s₃, h₁, h₂]

@[simp] theorem core_packResetWrite (s : State) (p : Nat) (v : Nat) : core (packResetWrite s p v).2 = core s := by
  unfold packResetWrite
  simp

@[simp] theorem core_shipWrite (s : State) (v : Nat) : core (shipWrite s v).2 = core s := by
  unfold shipWrite
  simp

@[simp] theorem core_kickWrite (s : State) (_v : Nat) : core (kickWrite s _v).2 = core s := by
  unfold kickWrite
  simp

@[simp] theorem core_hostCharge (s : State) : core (hostCharge s) = core s := by
  unfold hostCharge
  simp

@[simp] theorem core_cwdNow (s : State) : core (cwdNow s) = core s := by
  unfold cwdNow
  simp

@[simp] theorem core_shipBack (s : State) (n : Nat) : core (shipBack s n) = core s := by
  unfold shipBack
  simp

@[simp] theorem core_shipNow (s : State) : core (shipNow s) = core s := by
  unfold shipNow
  simp

@[simp] theorem core_battCatchUp (s : State) : core (battCatchUp s) = core s := by
  unfold battCatchUp
  simp

@[simp] theorem core_flowStick (s : State) (b : Nat) : core (flowStick s b) = core s := by
  unfold flowStick
  simp

@[simp] theorem core_target (s : State) : core (target s) = core s := by
  unfold target
  simp

@[simp] theorem core_setDcdc (s : State) (l : List (Nat × ℚ)) (n : Nat) : core (setDcdc l s n) = core s := by
  unfold setDcdc
  simp

@[simp] theorem core_setGroup (s : State) (f : Feed) : core (setGroup s f) = core s := by
  unfold setGroup
  simp

@[simp] theorem core_setPackPort (s : State) (n : Nat) (net : ℚ) : core (setPackPort s n net) = core s := by
  unfold setPackPort
  simp

@[simp] theorem core_setPacks (s : State) : core (setPacks s) = core s := by
  unfold setPacks
  simp

@[simp] theorem core_flowShare (s : State) : core (flowShare s) = core s := by
  unfold flowShare
  simp

@[simp] theorem core_setShed (s : State) : core (setShed s) = core s := by
  unfold setShed
  simp

@[simp] theorem core_xferWrite (s : State) (v : Nat) : core (xferWrite s v).2 = core s := by
  unfold xferWrite
  simp

@[simp] theorem core_xferSeam (s : State) : core (xferSeam s) = core s := by
  unfold xferSeam
  (repeat' split) <;> simp

@[simp] theorem core_suddenNow (s : State) : core (suddenNow s) = core s := by
  unfold suddenNow
  (repeat' split) <;> simp

@[simp] theorem core_holdupNow (s : State) : core (holdupNow s) = core s := by
  unfold holdupNow
  simp

@[simp] theorem core_setPfw (s : State) : core (setPfw s) = core s := by
  unfold setPfw
  simp

@[simp] theorem core_holdupEnd (s : State) : core (holdupEnd s) = core s := by
  unfold holdupEnd
  simp

@[simp] theorem core_xferRampNow (s : State) : core (xferRampNow s) = core s := by
  unfold xferRampNow
  (repeat' split) <;> simp

@[simp] theorem core_collapseNow (s : State) : core (collapseNow s) = core s := by
  unfold collapseNow
  simp

@[simp] theorem core_lossPct (s : State) (n : Nat) (x : ℚ) : core (lossPct s n x).2 = core s := by
  unfold lossPct
  simp

@[simp] theorem core_foldl_snd {α β : Type} {f : β × State → α → β × State} (hf : ∀ x a, core (f x a).2 = core x.2) (l : List α) :
    ∀ x, core (l.foldl f x).2 = core x.2 := by
  induction l with
  | nil => exact fun _ => rfl
  | cons a l ih => exact fun x => (ih _).trans (hf x a)

@[simp] theorem core_setLoss (s : State) (l : List Nat) (out : Rat) : core (setLoss s l out).2 = core s := by
  unfold setLoss; simp

@[simp] theorem core_bestCount (s : State) (l gone : List Nat) (out : Rat) : core (bestCount s l gone out).2 = core s := by
  unfold bestCount
  simp only
  refine core_foldl_snd (fun x a => ?_) _ _
  (repeat' split) <;> simp

@[simp] theorem core_shedSeam (s : State) : core (shedSeam s) = core s := by
  unfold shedSeam
  (repeat' split) <;> simp

@[simp] theorem core_shedNow (s : State) : core (shedNow s) = core s := by
  unfold shedNow
  dsimp only
  (repeat' split) <;> simp

@[simp] theorem core_unshed (k : Nat) (need : Rat) : ∀ s, core (unshed k need s) = core s := by
  induction k with
  | zero => exact fun _ => rfl
  | succ k ih => intro s; unfold unshed; (repeat' split) <;> simp [ih]

@[simp] theorem core_unshedStep (s : State) : core (unshedStep s) = core s := by
  unfold unshedStep
  (repeat' split) <;> simp

@[simp] theorem core_selectCap (s : State) : core (selectCap s) = core s := by
  unfold selectCap
  simp

@[simp] theorem core_capSelectNow (s : State) (v : Nat) : core (capSelectNow s v) = core s := by
  unfold capSelectNow
  simp

@[simp] theorem core_sampleCap (s : State) : core (sampleCap s) = core s := by
  unfold sampleCap
  simp

@[simp] theorem core_tapStepNow (s : State) : core (tapStepNow s) = core s := by
  unfold tapStepNow
  simp

@[simp] theorem core_setThrottle (s : State) : core (setThrottle s) = core s := by
  unfold setThrottle
  simp

@[simp] theorem core_slotNow (s : State) : core (slotNow s) = core s := by
  unfold slotNow
  simp

@[simp] theorem core_capSeam (s : State) : core (capSeam s) = core s := by
  unfold capSeam
  simp

@[simp] theorem core_balance (s : State) : core (balance s) = core s := by
  unfold balance
  simp

@[simp] theorem core_effStep (s : State) (f : Feed) : core (effStep s f) = core s := by
  unfold effStep
  simp

@[simp] theorem core_effSeam (s : State) (f : Feed) : core (effSeam s f) = core s := by
  unfold effSeam
  simp

@[simp] theorem core_firstActive (s : State) : core (firstActive s) = core s := by
  unfold firstActive
  dsimp only
  (repeat' split) <;> simp

@[simp] theorem core_xferLoss (s : State) : core (xferLoss s) = core s := by
  unfold xferLoss
  (repeat' split) <;> simp

@[simp] theorem core_feedRestart (s : State) : core (feedRestart s) = core s := by
  unfold feedRestart
  dsimp only
  (repeat' split) <;> simp

@[simp] theorem core_flowCount (s : State) : core (flowCount s) = core s := by
  unfold flowCount
  simp

@[simp] theorem core_shortStep (s : State) : core (shortStep s) = core s := by
  unfold shortStep
  simp

@[simp] theorem core_feedRound (s : State) : core (feedRound s) = core s := by
  unfold feedRound
  simp

@[simp] theorem core_unshedRound (s : State) : core (unshedRound s) = core s := by
  unfold unshedRound
  simp

@[simp] theorem core_flowRound (s : State) : core (flowRound s) = core s := by
  unfold flowRound
  simp

@[simp] theorem core_flowSeam (s : State) : core (flowSeam s) = core s := by
  unfold flowSeam
  simp

@[simp] theorem core_flowStickyWrite (s : State) (v : Word) : core (flowStickyWrite s v).2 = core s := by
  unfold flowStickyWrite
  simp

@[simp] theorem core_foldNow (s : State) : core (foldNow s) = core s := by
  unfold foldNow
  simp

@[simp] theorem core_foldWrite (s : State) (v : Nat) : core (foldWrite s v).2 = core s := by
  unfold foldWrite
  (repeat' split) <;> simp

@[simp] theorem core_checkpointNow (s : State) (cause : Nat) : core (checkpointNow s cause) = core s := by
  unfold checkpointNow
  simp

@[simp] theorem core_locateNow (s : State) (session : Nat) (v : Word) : core (locateNow s session v) = core s := by
  unfold locateNow
  (repeat' split) <;> simp

@[simp] theorem core_traceHoldNow (s : State) : core (traceHoldNow s) = core s := by
  unfold traceHoldNow
  simp

@[simp] theorem core_traceNowWrite (s : State) (v : Nat) : core (traceNowWrite s v).2 = core s := by
  unfold traceNowWrite
  simp

@[simp] theorem core_releaseWrite (s : State) (v : Nat) : core (releaseWrite s v).2 = core s := by
  unfold releaseWrite
  simp

@[simp] theorem core_traceLenNow (s : State) (v : Nat) : core (traceLenNow s v) = core s := by
  unfold traceLenNow
  simp

@[simp] theorem core_freezeStart (s : State) (src : Nat) : core (freezeStart s src) = core s := by
  unfold freezeStart
  simp

@[simp] theorem core_freezeWrite (s : State) (v : Nat) : core (freezeWrite s v).2 = core s := by
  unfold freezeWrite
  simp

@[simp] theorem core_freezeStop (s : State) : core (freezeStop s) = core s := by
  unfold freezeStop
  simp

@[simp] theorem core_recStickyWrite (s : State) (v : Word) : core (recStickyWrite s v).2 = core s := by
  unfold recStickyWrite
  simp

@[simp] theorem core_updTw (s : State) (c : Nat) (f : Tw → Tw) : core (updTw s c f) = core s := by
  unfold updTw
  simp

@[simp] theorem core_twXferWrite (s : State) (c : Nat) (x : Xfer) : core (twXferWrite s c x).2 = core s := by
  unfold twXferWrite
  simp

@[simp] theorem core_clearWrite (s : State) (c : Nat) (sda : Bool) : core (clearWrite s c sda).2 = core s := by
  unfold clearWrite
  simp

@[simp] theorem core_twCtrlWrite (s : State) (c : Nat) (sub : Nat) (v : Word) : core (twCtrlWrite s c sub v).2 = core s := by
  unfold twCtrlWrite
  simp

@[simp] theorem core_twStickyWrite (s : State) (c : Nat) (v : Word) : core (twStickyWrite s c v).2 = core s := by
  unfold twStickyWrite
  simp

@[simp] theorem core_updTmr (s : State) (t : Nat) (f : Timer → Timer) : core (updTmr s t f) = core s := by
  unfold updTmr
  simp

@[simp] theorem core_tFire (k : Nat) : ∀ (e : TEvent) (t : Nat) (s : State), core (tFire k e t s) = core s := by
  induction k with
  | zero => exact fun _ _ _ => rfl
  | succ k ih => intro e t s; unfold tFire; cases e <;> simp [ih]

@[simp] theorem core_timersTick (s : State) : core (timersTick s) = core s := by
  unfold timersTick
  simp

@[simp] theorem core_tAdvance (s : State) (t : Nat) (steps : Nat) : core (tAdvance s t steps) = core s := by
  unfold tAdvance
  simp

@[simp] theorem core_captureRead (s : State) (t : Nat) : core (captureRead s t).2 = core s := by
  unfold captureRead
  (repeat' split) <;> simp

@[simp] theorem core_countRead (s : State) (t : Nat) : core (countRead s t).2 = core s := by
  unfold countRead
  simp

@[simp] theorem core_countWrite (s : State) (t : Nat) (v : Word) : core (countWrite s t v).2 = core s := by
  unfold countWrite
  simp

@[simp] theorem core_preloadWrite (s : State) (t : Nat) (isCompare : Bool) (v : Word) : core (preloadWrite s t isCompare v).2 =
    core s := by
  unfold preloadWrite
  simp

@[simp] theorem core_timerCtrlWrite (s : State) (t : Nat) (v : Word) : core (timerCtrlWrite s t v).2 = core s := by
  unfold timerCtrlWrite
  simp

@[simp] theorem core_timerStickyWrite (s : State) (t : Nat) (v : Word) : core (timerStickyWrite s t v).2 = core s := by
  unfold timerStickyWrite
  simp

@[simp] theorem core_makeup (s : State) (e : Nat) : core (makeup s e) = core s := by
  unfold makeup
  simp

@[simp] theorem core_gpioSet (s : State) (hi : Bool) (v : Word) : core (gpioSet s hi v).2 = core s := by
  unfold gpioSet
  simp

@[simp] theorem core_gpioClr (s : State) (hi : Bool) (v : Word) : core (gpioClr s hi v).2 = core s := by
  unfold gpioClr
  simp

@[simp] theorem core_gpioFunc (s : State) (k : Nat) (v : Word) : core (gpioFunc s k v).2 = core s := by
  unfold gpioFunc
  simp

@[simp] theorem core_pairStick (s : State) (b : Nat) : core (pairStick s b) = core s := by
  unfold pairStick
  simp

@[simp] theorem core_sendCtrl (s : State) (c : Ctrl) : core (sendCtrl s c) = core s := by
  unfold sendCtrl
  simp

@[simp] theorem core_sendRec (s : State) (r : MateRec) : core (sendRec s r) = core s := by
  unfold sendRec
  simp

@[simp] theorem core_mateRoleIs (s : State) (r : Role) : core (mateRoleIs s r) = core s := by
  unfold mateRoleIs
  simp

@[simp] theorem core_tellRole (s : State) : core (tellRole s) = core s := by
  unfold tellRole
  simp

@[simp] theorem core_sendCopy (s : State) : core (sendCopy s) = core s := by
  unfold sendCopy
  simp

@[simp] theorem core_setMode (s : State) (m : Nat) : core (setMode s m) = core s := by
  unfold setMode
  simp

@[simp] theorem core_parkAll (s : State) : core (parkAll s) = core s := by
  unfold parkAll
  simp

@[simp] theorem core_unparkAll (s : State) : core (unparkAll s) = core s := by
  unfold unparkAll
  simp

@[simp] theorem core_startSends (s : State) : core (startSends s) = core s := by
  unfold startSends
  simp

@[simp] theorem core_toRole (s : State) (r : Role) : core (toRole s r) = core s := by
  unfold toRole
  (repeat' split) <;> simp

@[simp] theorem core_bothSolo (s : State) (h : Hello) : core (bothSolo s h) = core s := by
  unfold bothSolo
  simp

@[simp] theorem core_execHello (s : State) (h : Hello) : outCore (execHello h s) = some (core s) := by
  unfold execHello
  dsimp only
  (repeat' split) <;> simp

@[simp] theorem core_sweepRound (s : State) : core (sweepRound s) = core s := by
  unfold sweepRound
  (repeat' split) <;> simp

@[simp] theorem core_activeRecords (s : State) : core (activeRecords s) = core s := by
  unfold activeRecords
  simp

@[simp] theorem core_pairDigest (s : State) : core (pairDigest s) = core s := by
  unfold pairDigest
  simp

@[simp] theorem core_compareSleeve (s : State) (ds : List Word) (fs : List Byte) (sl : Nat) : core (compareSleeve ds fs s sl) =
    core s := by
  unfold compareSleeve
  simp

@[simp] theorem core_noteSplits (s : State) (fs : List Byte) : core (noteSplits fs s) = core s := by
  unfold noteSplits
  simp

@[simp] theorem core_seedFromTick (s : State) (sl : Nat) : core (seedFromTick s sl) = core s := by
  unfold seedFromTick
  simp

@[simp] theorem core_gapTrips (s : State) : core (gapTrips s) = core s := by
  unfold gapTrips
  simp

@[simp] theorem core_takeAuthority (s : State) : core (takeAuthority s) = core s := by
  unfold takeAuthority
  simp

@[simp] theorem core_splitNow (s : State) : core (splitNow s) = core s := by
  unfold splitNow
  simp

@[simp] theorem core_takeHandover (s : State) : core (takeHandover s) = core s := by
  unfold takeHandover
  simp

@[simp] theorem core_handoverWrite (s : State) (v : Nat) : core (handoverWrite s v).2 = core s := by
  unfold handoverWrite
  simp

@[simp] theorem core_withdrawWrite (s : State) (v : Nat) : core (withdrawWrite s v).2 = core s := by
  unfold withdrawWrite
  simp

@[simp] theorem core_helloTick (s : State) : core (helloTick s) = core s := by
  unfold helloTick
  simp

@[simp] theorem core_pairTick (s : State) : core (pairTick s) = core s := by
  unfold pairTick
  extract_lets -underBinder _ s₁ s₂ s₃ s₄ s₅ _ s₆ s₇
  have h₂ : core s₂ = core s := by simp [s₂, s₁]
  have h₃ : core s₃ = core s₂ := by simp only [s₃]; split <;> simp
  have h₄ : core s₄ = core s₃ := by simp only [s₄]; split <;> simp
  clear_value s₂ s₃ s₄
  have h₆ : core s₆ = core s₄ := by simp [s₆, s₅]
  clear_value s₆
  simp [s₇, h₂, h₃, h₄, h₆]

@[simp] theorem core_joinSeam (s : State) : core (joinSeam s) = core s := by
  unfold joinSeam
  (repeat' split) <;> simp

@[simp] theorem core_resyncSeam (s : State) : core (resyncSeam s) = core s := by
  unfold resyncSeam
  simp

@[simp] theorem core_sendState (s : State) : core (sendState s) = core s := by
  unfold sendState
  simp
  intro _ _
  refine core_foldl (fun t x => ?_) _ _
  split <;> simp

@[simp] theorem core_pairSeam (s : State) : core (pairSeam s) = core s := by
  unfold pairSeam
  extract_lets -underBinder s₁ s₂ s₃ s₄ s₅ s₆ diff s₇ s₈
  have h₁ : core s₁ = core s := by simp [s₁]
  have h₂ : core s₂ = core s₁ := by simp only [s₂]; split <;> simp
  have h₃ : core s₃ = core s₂ := by simp only [s₃]; split <;> simp
  have h₄ : core s₄ = core s₃ := by simp only [s₄]; split <;> simp
  clear_value s₁ s₂ s₃ s₄
  have h₆ : core s₆ = core s₄ := by simp [s₆, s₅]
  clear_value s₆
  simp [s₈, s₇, h₁, h₂, h₃, h₄, h₆]

@[simp] theorem core_pairStickyWrite (s : State) (v : Word) : core (pairStickyWrite s v).2 = core s := by
  unfold pairStickyWrite
  simp

@[simp] theorem core_beginP1 (s : State) (slot : Nat) (other : Bool) : core (beginP1 s slot other) = core s := by
  unfold beginP1
  simp

@[simp] theorem core_restoreAo (s : State) : core (restoreAo s) = core s := by
  unfold restoreAo
  simp

@[simp] theorem core_sinceCheckpoint (s : State) (c : Checkpoint) : core (sinceCheckpoint s c).2 = core s := by
  unfold sinceCheckpoint
  simp

@[simp] theorem core_restoreData (s : State) : core (restoreData s) = core s := by
  unfold restoreData
  (repeat' split) <;> simp

@[simp] theorem core_restoreTallies (s : State) : core (restoreTallies s) = core s := by
  unfold restoreTallies
  simp

@[simp] theorem core_revertTrial (s : State) : core (revertTrial s) = core s := by
  unfold revertTrial
  simp

@[simp] theorem core_coldStart (s : State) : core (coldStart s) = core s := by
  unfold coldStart
  simp

@[simp] theorem core_bootDone (s : State) : core (bootDone s) = core s := by
  unfold bootDone
  dsimp only
  (repeat' split) <;> simp

@[simp] theorem core_groupLost (s : State) (p : PendWrite) : core (groupLost s p) = core s := by
  unfold groupLost
  simp

@[simp] theorem core_collarDown (s : State) (watchdog : Bool) : core (collarDown s watchdog) = core s := by
  unfold collarDown
  simp

@[simp] theorem core_setDl (s : State) (x : Nat) (d : Dl) : core (setDl s x d) = core s := by
  unfold setDl
  simp

@[simp] theorem core_dlInvalid (s : State) (x : Nat) : core (dlInvalid s x) = core s := by
  unfold dlInvalid
  simp

@[simp] theorem core_dlIdle (s : State) (x : Nat) : core (dlIdle s x) = core s := by
  unfold dlIdle
  simp

@[simp] theorem core_dlAbortWrite (s : State) (x : Nat) (v : Nat) : core (dlAbortWrite s x v).2 = core s := by
  unfold dlAbortWrite
  simp

@[simp] theorem core_imageVerified (s : State) (x : Nat) : core (imageVerified s x) = core s := by
  unfold imageVerified
  simp

@[simp] theorem core_confirmNow (s : State) : core (confirmNow s) = core s := by
  unfold confirmNow
  simp

@[simp] theorem core_confirmWrite (s : State) (v : Nat) : core (confirmWrite s v).2 = core s := by
  unfold confirmWrite
  simp

@[simp] theorem core_floorWrite (s : State) (v : Nat) : core (floorWrite s v).2 = core s := by
  unfold floorWrite
  simp

@[simp] theorem core_feLoadWrite (s : State) (v : Nat) : core (feLoadWrite s v).2 = core s := by
  unfold feLoadWrite
  simp

@[simp] theorem core_sleepWrite (s : State) (v : Nat) : core (sleepWrite s v).2 = core s := by
  unfold sleepWrite
  simp

@[simp] theorem core_sleepNow (s : State) : core (sleepNow s) = core s := by
  unfold sleepNow
  simp

@[simp] theorem core_packWake (s : State) (t : ℚ) (current : Bool) (p : Nat) : core (packWake s t current p) = core s := by
  unfold packWake
  simp

@[simp] theorem core_portWake (s : State) (n : Nat) : core (portWake s n) = core s := by
  unfold portWake
  simp

@[simp] theorem core_wakeNow (s : State) (ticks : Nat) (current : Bool) : core (wakeNow s ticks current) = core s := by
  unfold wakeNow
  simp

@[simp] theorem core_wakeWrite (s : State) (v : Nat) : core (wakeWrite s v).2 = core s := by
  unfold wakeWrite
  simp

@[simp] theorem core_bootStickyWrite (s : State) (v : Word) : core (bootStickyWrite s v).2 = core s := by
  unfold bootStickyWrite
  simp

@[simp] theorem core_mirrorConfig (s : State) (ix : Nat) (sub : Nat) (v : Nat) : core (mirrorConfig s ix sub v) = core s := by
  unfold mirrorConfig
  simp

@[simp] theorem core_mirrored (r : Nat × State) (ix sub v : Nat) : core (mirrored r ix sub v).2 = core r.2 := by
  unfold mirrored; simp

@[simp] theorem core_wheelStickyWrite (s : State) (v : Word) : core (wheelStickyWrite s v).2 = core s := by
  unfold wheelStickyWrite
  simp

@[simp] theorem core_arrayStickyWrite (s : State) (v : Word) : core (arrayStickyWrite s v).2 = core s := by
  unfold arrayStickyWrite
  simp

@[simp] theorem core_sleeveStickyWrite (s : State) (n : Nat) (v : Word) : core (sleeveStickyWrite s n v).2 = core s := by
  unfold sleeveStickyWrite
  simp

@[simp] theorem core_engFlagsWrite (s : State) (e : Nat) (v : Nat) : core (engFlagsWrite s e v).2 = core s := by
  unfold engFlagsWrite
  simp

@[simp] theorem core_senseStickyWrite (s : State) (c : Nat) (v : Word) : core (senseStickyWrite s c v).2 = core s := by
  unfold senseStickyWrite
  simp

@[simp] theorem core_shelfStickyWrite (s : State) (v : Word) : core (shelfStickyWrite s v).2 = core s := by
  unfold shelfStickyWrite
  simp

@[simp] theorem core_packStickyWrite (s : State) (p : Nat) (v : Word) : core (packStickyWrite s p v).2 = core s := by
  unfold packStickyWrite
  simp

@[simp] theorem core_closeNow (s : State) (k : Nat) : core (closeNow s k) = core s := by
  unfold closeNow
  simp

@[simp] theorem core_closeWrite (s : State) (k : Nat) : core (closeWrite s k).2 = core s := by
  unfold closeWrite
  simp

@[simp] theorem core_hushWrite (s : State) (v : Nat) : core (hushWrite s v).2 = core s := by
  unfold hushWrite
  simp

@[simp] theorem core_capSelectWrite (s : State) (v : Nat) : core (capSelectWrite s v).2 = core s := by
  unfold capSelectWrite
  simp

@[simp] theorem core_withRelease (r : Nat × State) (scope n : Nat) : core (withRelease r scope n).2 = core r.2 := by
  unfold withRelease; simp

@[simp] theorem core_clearGroupWrite (s : State) (g : Nat) : core (clearGroupWrite s g).2 = core s := by
  unfold clearGroupWrite
  simp

@[simp] theorem core_stageCurve (s : State) (c sub v : Nat) : core (stageCurve s c sub v).2 = core s := by
  unfold stageCurve; simp

@[simp] theorem core_gpioWrite (s : State) (sub : Nat) (v : Nat) : core (gpioWrite s sub v).2 = core s := by
  unfold gpioWrite
  (repeat' split) <;> simp

@[simp] theorem core_timerWrite (s : State) (t : Nat) (sub : Nat) (v : Nat) : core (timerWrite s t sub v).2 = core s := by
  unfold timerWrite
  (repeat' split) <;> simp

@[simp] theorem core_telemSetMsg (s : State) (n : Nat) (q : Nat) (on : Bool) : core (telemSetMsg s n q on) = core s := by
  unfold telemSetMsg
  simp

@[simp] theorem core_telemMaskNow (s : State) (n : Nat) (old : Nat) (v : Nat) : core (telemMaskNow s n old v) = core s := by
  unfold telemMaskNow
  simp

@[simp] theorem core_setRes (s : State) (g : Nat) (r : GroupRes) : core (setRes s g r) = core s := by
  unfold setRes
  simp

@[simp] theorem core_applyOne (s : State) (ix : Nat) (sub : Nat) (v : Nat) : core (applyOne s ix sub v) = core s := by
  unfold applyOne
  simp

@[simp] theorem core_applyMember (s : State) (sub : Nat) (v : Nat) (n : Nat) : core (applyMember s sub v n) = core s := by
  unfold applyMember
  simp

@[simp] theorem core_applyGroup (s : State) (p : PendWrite) : core (applyGroup s p) = core s := by
  unfold applyGroup
  simp

@[simp] theorem core_paramWrite (s : State) (p : Param) (v : Nat) : core (paramWrite s p v).2 = core s := by
  unfold paramWrite
  simp

@[simp] theorem core_labelWrite (s : State) (g : Nat) (bytes : List Byte) : core (labelWrite s g bytes).2 = core s := by
  unfold labelWrite
  (repeat' split) <;> simp

@[simp] theorem core_levelKeyWrite (s : State) (lvl : Level) (k : Nat) (key : List Byte) : core (levelKeyWrite s lvl k key).2 =
    core s := by
  unfold levelKeyWrite
  simp

@[simp] theorem core_imageKeyWrite (s : State) (lvl : Level) (k : Nat) (key : List Byte) : core (imageKeyWrite s lvl k key).2 =
    core s := by
  unfold imageKeyWrite
  simp

@[simp] theorem core_xferObjWrite (s : State) (lvl : Level) (c : Nat) (x : Xfer) : core (xferObjWrite s lvl c x).2 = core s := by
  unfold xferObjWrite
  simp

@[simp] theorem core_clearObjWrite (s : State) (lvl : Level) (c : Nat) (sda : Bool) : core (clearObjWrite s lvl c sda).2 = core
    s := by
  unfold clearObjWrite
  simp

@[simp] theorem core_mateBytes (s : State) (ix : Nat) (sub : Nat) (v : List Byte) : core (mateBytes s ix sub v) = core s := by
  unfold mateBytes
  simp

@[simp] theorem core_served (s : State) {f : State → Nat × State} (hf : ∀ s, core (f s).2 = core s) :
    core (served s f) = core s := by
  unfold served
  simp [hf]

@[simp] theorem core_issueMac (s : State) (e : Nat) (p : Pred) (acc : Bool) (ra : Reg) (rb : Reg) (f : Word → Word → ℤ) :
    outCore (issueMac s e p acc ra rb f) = some (core s) := by
  unfold issueMac
  simp

@[simp] theorem core_dmTable (s : State) (e : Nat) (words : List Nat) : core (dmTable s e words).2 = core s := by
  unfold dmTable
  simp

@[simp] theorem core_readNum (s : State) (session : Nat) (ix : Nat) (sub : Nat) : core (readNum s session ix sub).2.2 = core s
    := by
  unfold readNum
  (repeat' split) <;> simp

@[simp] theorem core_readItem (s : State) (lvl : Level) (session : Nat) (ix : Nat) (sub : Nat) : core (readItem s lvl session
    ix sub).2.2.2 = core s := by
  unfold readItem
  dsimp only
  (repeat' split) <;> simp

@[simp] theorem core_readObj (s : State) (lvl : Level) (ix : Nat) (sub : Nat) : core (readObj s lvl ix sub) = core s := by
  unfold readObj
  simp

@[simp] theorem core_setLine (s : State) (k : Nat) (l : Line) : core (setLine s k l) = core s := by
  unfold setLine
  simp

@[simp] theorem core_lineStart (s : State) (k : Nat) (l : Line) (r : Reply) : core (lineStart s k l r) = core s := by
  unfold lineStart
  dsimp only
  (repeat' split) <;> simp

@[simp] theorem core_linePump (k : Nat) : ∀ (s : State) (n : Nat), core (linePump k s n) = core s := by
  induction k with
  | zero => exact fun _ _ => rfl
  | succ k ih => intro s n; unfold linePump; dsimp only; (repeat' split) <;> simp [ih]

@[simp] theorem core_netTick (s : State) : core (netTick s) = core s := by
  unfold netTick
  simp

@[simp] theorem core_lineSend (s : State) (k : Nat) (r : Reply) : core (lineSend s k r) = core s := by
  unfold lineSend
  simp

@[simp] theorem core_sendReply (s : State) (r : Reply) : core (sendReply s r) = core s := by
  unfold sendReply
  (repeat' split) <;> simp

@[simp] theorem core_discard (s : State) : core (discard s) = core s := by
  unfold discard
  simp

@[simp] theorem core_setSession (s : State) (k : Nat) (x : Session) : core (setSession s k x) = core s := by
  unfold setSession
  simp

@[simp] theorem core_refuseOpen (s : State) (m : InMsg) (st : Nat) : core (refuseOpen s m st) = core s := by
  unfold refuseOpen
  simp

@[simp] theorem core_openMsg (s : State) (m : InMsg) (lvl : Level) (nonce : BitVec 128) (client : BitVec 64) : core (openMsg s
    m lvl nonce client) = core s := by
  unfold openMsg
  (repeat' split) <;> simp

@[simp] theorem core_readItems (lvl : Level) (session : Nat) (l : List (Nat × Nat)) :
    ∀ s, core (readItems lvl session l s).2 = core s := by
  induction l with
  | nil => exact fun _ => rfl
  | cons i l ih => intro s; unfold readItems; simp [ih]

@[simp] theorem core_domainDone (s : State) (lvl : Level) (ix : Nat) (sub : Nat) (l : List Byte) : core (domainDone s lvl ix
    sub l).2 = core s := by
  unfold domainDone
  simp

@[simp] theorem core_bufBlock (s : State) (lvl : Level) (b : DomainBlock) : core (bufBlock s lvl b).2 = core s := by
  unfold bufBlock
  simp

@[simp] theorem core_enableStream (s : State) (i : ReadItem) : core (enableStream s i) = core s := by
  unfold enableStream
  (repeat' split) <;> simp

@[simp] theorem core_subscribeMsg (s : State) (dest : Iface) (lvl : Level) (session : Nat) (subId : Nat) (period : Nat) (items
    : List ReadItem) : core (subscribeMsg s dest lvl session subId period items).2 = core s := by
  unfold subscribeMsg
  simp

@[simp] theorem core_dropTelem (s : State) (x : Sub) : core (dropTelem s x) = core s := by
  unfold dropTelem
  (repeat' split) <;> simp

@[simp] theorem core_sendTelem (s : State) (x : Sub) (count : Nat) (body : List Byte) : core (sendTelem s x count body) = core
    s := by
  unfold sendTelem
  (repeat' split) <;> simp

@[simp] theorem core_subSeam (s : State) (x : Sub) : core (subSeam s x).1 = core s := by
  unfold subSeam
  (repeat' split) <;> simp

theorem core_foldl_fst {α β : Type} {f : State × β → α → State × β} (hf : ∀ x a, core (f x a).1 = core x.1) (l : List α) :
    ∀ x, core (l.foldl f x).1 = core x.1 := by
  induction l with
  | nil => exact fun _ => rfl
  | cons a l ih => exact fun x => (ih _).trans (hf x a)

@[simp] theorem core_subsSeam (s : State) : core (subsSeam s) = core s := by
  unfold subsSeam
  rw [core_ite]
  refine ⟨fun _ => rfl, fun _ => ?_⟩
  simp [core_foldl_fst]

@[simp] theorem core_putSub (s : State) (x : Sub) : core (putSub s x) = core s := by
  unfold putSub
  simp

@[simp] theorem core_execSubscriptionPeriod (s : State) (session : Nat) (subId : Nat) : outCore (execSubscriptionPeriod session
    subId s) = some (core s) := by
  unfold execSubscriptionPeriod
  (repeat' split) <;> simp

@[simp] theorem core_urgentEffect (s : State) (command : Byte) (arg : Byte) : core (urgentEffect s command arg).2 = core s := by
  unfold urgentEffect
  simp

@[simp] theorem core_urgentMsg (s : State) (m : InMsg) (blocked : Bool) (command : Byte) (arg : Byte) : core (urgentMsg s m
    blocked command arg) = core s := by
  unfold urgentMsg
  (repeat' split) <;> simp

@[simp] theorem core_holdMsg (s : State) (m : InMsg) : core (holdMsg s m) = core s := by
  unfold holdMsg
  simp

@[simp] theorem core_respond (s : State) (m : InMsg) (command : Byte) (arg : Byte) : core (respond s m command arg) = core s := by
  unfold respond
  simp

@[simp] theorem core_wheelCatchUp (s : State) : core (wheelCatchUp s) = core s := by
  unfold wheelCatchUp
  simp

@[simp] theorem core_seamScrub (s : State) : core (seamScrub s) = core s := by
  unfold seamScrub
  simp

@[simp] theorem core_seamStart (s : State) : core (seamStart s) = core s := by
  unfold seamStart
  simp

@[simp] theorem core_seamSleep (s : State) : core (seamSleep s) = core s := by
  unfold seamSleep
  (repeat' split) <;> simp

@[simp] theorem core_seamPort (s : State) (n : Nat) : core (seamPort s n) = core s := by
  unfold seamPort
  simp

@[simp] theorem core_sleeveTick (s : State) (sl : Nat) : core (sleeveTick s sl) = core s := by
  unfold sleeveTick
  simp

@[simp] theorem core_arrayTick (s : State) : core (arrayTick s) = core s := by
  unfold arrayTick
  simp

@[simp] theorem core_portTick (s : State) (n : Nat) : core (portTick s n) = core s := by
  unfold portTick
  simp

@[simp] theorem core_haltTick (s : State) : core (haltTick s) = core s := by
  unfold haltTick
  simp

@[simp] theorem core_tickMeasure (s : State) (i : TickIn) : core (tickMeasure s i) = core s := by
  unfold tickMeasure
  simp

end Sys2Proof.Machine
end

section
/-! PROOFS. Functions that write a memory or the counters: each keeps. -/
namespace Sys2Proof.Machine

/-! ### Memories made of rows -/

/-- A row of bytes from an address on, its zeros left out. -/
def rowCells (base : Nat) (row : List Byte) : List Host.Cell :=
  (row.zipIdx.map fun b => (base + b.2, b.1)).filter fun c => c.2 != 0

theorem mem_rowCells {base : Nat} {row : List Byte} {c : Host.Cell} (h : c ∈ rowCells base row) :
    base ≤ c.1 ∧ c.1 < base + row.length ∧ c.2 ≠ 0 := by
  simp only [rowCells, List.mem_filter, List.mem_map, bne_iff_ne] at h
  obtain ⟨⟨b, hb, rfl⟩, hc⟩ := h
  have hlt := (List.mem_zipIdx hb).2.1
  exact ⟨Nat.le_add_right _ _, by dsimp only; omega, hc⟩

theorem sorted_rowCells (base : Nat) (row : List Byte) : (rowCells base row).Pairwise fun x y => x.1 < y.1 := by
  refine List.Pairwise.filter _ (List.pairwise_map.mpr ?_)
  have h : (row.zipIdx.map Prod.snd).Pairwise (· < ·) := by
    rw [List.zipIdx_map_snd]; exact List.pairwise_lt_range'
  exact (List.pairwise_map.mp h).imp fun hlt => Nat.add_lt_add_left hlt _

/-- The rows of the ports, none of which reaches the next. -/
def portCells (base : Nat → Nat) (row : Nat → List Byte) : List Host.Cell := (allPorts.map fun n => rowCells (base n) (row n)).flatten

theorem mem_portCells {base : Nat → Nat} {row : Nat → List Byte} {c : Host.Cell} (h : c ∈ portCells base row) :
    ∃ n < 256, base n ≤ c.1 ∧ c.1 < base n + (row n).length ∧ c.2 ≠ 0 := by
  obtain ⟨l, hl, hc⟩ := List.mem_flatten.mp h
  obtain ⟨n, hn, rfl⟩ := List.mem_map.mp hl
  exact ⟨n, List.mem_range.mp hn, mem_rowCells hc⟩

theorem sorted_portCells {base : Nat → Nat} {row : Nat → List Byte} (h : ∀ i j, i < j → base i + (row i).length ≤ base j) :
    (portCells base row).Pairwise fun x y => x.1 < y.1 := by
  refine List.pairwise_flatten.mpr ⟨fun l hl => ?_, List.pairwise_map.mpr ?_⟩
  · obtain ⟨n, -, rfl⟩ := List.mem_map.mp hl
    exact sorted_rowCells _ _
  · refine List.pairwise_lt_range.imp fun hij x hx y hy => ?_
    have := h _ _ hij
    have := (mem_rowCells hx).2.1
    have := (mem_rowCells hy).1
    omega

theorem wf_portCells {base : Nat → Nat} {row : Nat → List Byte} (h : ∀ i j, i < j → base i + (row i).length ≤ base j) :
    Memory.wf (portCells base row) = true :=
  (wf_iff _).mpr ⟨sorted_portCells h, fun _ hc => by obtain ⟨_, _, _, _, hz⟩ := mem_portCells hc; exact hz⟩

@[simp] theorem wordBytes_length (w : Word) : (wordBytes w).length = 4 := leBytes_length 4 _

@[simp] theorem sliceB_length (l : List Byte) (o n : Nat) : (sliceB l o n).length = n := by
  simp [sliceB]

/-- The uplink slots are rows of 48 bytes, 64 bytes apart (R56, R58). -/
theorem wf_upSlots (s : State) : Memory.wf (upSlots s) = true := by
  refine wf_portCells (base := fun n => n / 8 * 1024 + 64 * (n % 8)) (row := fun n => slotOf (link s n)) fun i j hij => ?_
  have : (slotOf (link s i)).length = 48 := by unfold slotOf; split <;> simp
  omega

theorem traceEntry_length (s : State) (n : Nat) : (traceEntry s n).length = 16 := by
  unfold traceEntry
  dsimp only
  split <;> simp

/-! ### The counters -/

theorem countersOk_advance {w : Wheel} (c : Core) (h : countersOk { c with w := w.w, ric := w.ric, acc := w.acc, ris := w.ris, round := w.round, newBase := w.newBase }) :
    let v := advanceCounters w
    countersOk { c with w := v.w, ric := v.ric, acc := v.acc, ris := v.ris, round := v.round, newBase := v.newBase } := by
  obtain ⟨hw, hric, hacc, ⟨hris, hround⟩, hnew⟩ := h
  have hround' := w.round.isLt
  have hstep : (w.round + 1).toNat = (w.round.toNat + 1) % 2 ^ 32 := rfl
  dsimp only at hw hric hacc hris hround
  refine ⟨hw, Nat.mod_lt _ (Nat.zero_lt_of_lt hric), ?_, ⟨?_, ?_⟩, hnew⟩ <;> dsimp only [advanceCounters]
  · rw [BitVec.toNat_add, BitVec.toNat_ofNat, hacc]
    rcases hw with h | h | h <;> rw [h] at * <;> omega
  · rcases hw with h | h | h <;> rw [h] at * <;> omega
  · rw [hstep]; omega

/-! ### Words of parameters -/

theorem keptMem_dmWriteKey {m m' : Mem} (hm : KeptMem m m') (k : Nat) (w : Word) : KeptMem m (dmWriteKey m' k w) :=
  keptMem_mputWord hm _ _

theorem keptMem_putParam {m m' : Mem} (hm : KeptMem m m') (p : Param) (v : Nat) : KeptMem m (putParam p v m') :=
  keptMem_foldl (fun _ _ hm => keptMem_dmWriteKey hm _ _) _ hm

theorem keptMem_coldWords (img : PatImg) {m m' : Mem} (hm : KeptMem m m') : KeptMem m (coldWords img m') := by
  refine keptMem_foldl (fun m' x hm => ?_) _ hm
  split
  · exact keptMem_dmWriteKey hm _ _
  · exact hm

theorem keptMem_paramWords (img : PatImg) (vals : Tab Nat) {m m' : Mem} (hm : KeptMem m m') : KeptMem m (paramWords img vals m') := by
  refine keptMem_foldl (fun m' x hm => ?_) _ hm
  split
  · exact keptMem_putParam hm _ _
  · exact hm

theorem keptMem_paramWordsAll (img : PatImg) (vals : Tab Nat) {m m' : Mem} (hm : KeptMem m m') :
    KeptMem m (paramWordsAll img vals m') :=
  keptMem_foldl (fun _ _ hm => keptMem_putParam hm _ _) _ hm

/-! ### The record ring -/

theorem keptMem_ringPut (g : RingSt) (r : Rec) : KeptMem g.mram (ringPut g r).mram := by
  unfold ringPut
  dsimp only
  refine keptMem_mwrite ?_ _ _
  split
  · exact keptMem_refl _
  · exact keptMem_mwrite (keptMem_refl _) _ _

theorem keptMem_ringOver (s : State) : KeptMem s.mram (ringOver s).mram := by
  have key : ∀ (l : List Rec) (g : RingSt), KeptMem g.mram (l.foldl ringPut g).mram := by
    intro l
    induction l with
    | nil => exact fun g => keptMem_refl _
    | cons r l ih => exact fun g => ih (ringPut g r) ∘ keptMem_ringPut g r
  exact key s.recorder.buffer
    { mram := s.mram, held := s.recorder.held, head := s.recorder.head, draws := s.draws }

/-! ### The functions -/

/-- The writes that are due leave the list of those that wait, the others come one interval nearer (R35). -/
theorem core_applyPend (s : State) : core (applyPend s) = { core s with
    pend := (s.net.pend.filter fun p => p.skip != 0).map fun p => { p with skip := p.skip - 1 } } := by
  unfold applyPend
  dsimp only
  refine (core_foldl (fun _ _ => ?_) _ _).trans rfl
  simp

section Kept
variable {c : Core} {s : State} (h : Kept c (core s))
include h

/-! ### Writes that wait -/

/-- A write of APPLY lets the values of its curve wait for their seam (R204). -/
@[simp] theorem kept_applyWrite (k v : Nat) : Kept c (core (applyWrite s k v).2) := by
  unfold applyWrite
  simp only [kept_ite_snd]
  exact ⟨fun _ => h, fun _ => ⟨fun _ => h, fun _ => kept_pend h _⟩⟩

@[simp] theorem kept_queueWrite (ix sub v : Nat) : Kept c (core (queueWrite s ix sub v)) := kept_pend h _

@[simp] theorem kept_endChanges : Kept c (core (endChanges s)) := by
  unfold endChanges
  extract_lets -underBinder s₁ arm s₂ s₃
  have h₁ : Kept c (core s₁) := by simpa [s₁] using h
  have h₃ : Kept c (core s₃) := by
    simp only [s₃, core_foldl fun t p => core_groupLost t p, s₂, kept_ite]
    exact ⟨fun _ => h₁, fun _ => h₁⟩
  clear_value s₃
  exact kept_pend h₃ _

@[simp] theorem kept_execCollarRestart (x : RestartCause) : OutKept c (execCollarRestart x s) := by
  unfold execCollarRestart
  (repeat' split) <;> simp [h]

@[simp] theorem kept_plainWrite (ix sub v : Nat) : Kept c (core (plainWrite s ix sub v).2) := by
  unfold plainWrite
  simp [h]

@[simp] theorem kept_groupWrite (ix sub v : Nat) : Kept c (core (groupWrite s ix sub v).2) := by
  unfold groupWrite
  dsimp only
  (repeat' split) <;> simp [h]

@[simp] theorem kept_stepWrite (i sub v : Nat) : Kept c (core (stepWrite s i sub v).2) := by
  unfold stepWrite
  simp [h]

@[simp] theorem kept_memberWrite (g k v : Nat) : Kept c (core (memberWrite s g k v).2) := by
  unfold memberWrite
  simp [h]

@[simp] theorem kept_effect2400 (ix sub v : Nat) : Kept c (core (effect2400 s ix sub v).2) := by
  unfold effect2400
  (repeat' split) <;> simp [h]

@[simp] theorem kept_effect2800 (ix sub v : Nat) : Kept c (core (effect2800 s ix sub v).2) := by
  unfold effect2800
  (repeat' split) <;> simp [h]

@[simp] theorem kept_effect3100 (n sub v : Nat) : Kept c (core (effect3100 s n sub v).2) := by
  unfold effect3100
  simp [h]

@[simp] theorem kept_applyPend : Kept c (core (applyPend s)) := by
  rw [core_applyPend]
  exact kept_pend h _

@[simp] theorem kept_takeBase : Kept c (core (takeBase s)) := by
  unfold takeBase
  split
  · rename_i w l hnew
    split
    · exact h
    · split
      · rename_i hnow
        refine kept_counters h fun ⟨hw, hric, hacc, ⟨hris, hround⟩, hb⟩ => ⟨hb (w, l) hnew, ?_⟩
        have hpos : 0 < w := by rcases hb (w, l) hnew with h | h | h <;> dsimp only at h <;> omega
        simp only [core] at hric hacc hris hround ⊢
        by_cases he : w = s.wheel.w
        · subst he
          simp [hric, hacc, hris, hround]
        · have hz : s.wheel.ric = 0 := by simpa [he] using hnow
          rw [hz] at hacc hris
          simp only [he, if_false, hacc, hz]
          simp [hpos, hris, hround]
      · exact h
  · exact h

@[simp] theorem kept_wheelCount : Kept c (core (wheelCount s)) := by
  refine kept_takeBase ?_
  rw [core_syncTick]
  exact kept_counters h (countersOk_advance (core s))

/-! ### Engines and the array -/

@[simp] theorem kept_dmPut (e a : Nat) (w : Word) : Kept c (core (dmPut s e a w)) := by
  unfold dmPut
  rw [core_setUpset]
  exact kept_dmem h (keptMem_mputWord (keptMem_refl _) _ _)

@[simp] theorem kept_shmPut (sl a : Nat) (w : Word) : Kept c (core (shmPut s sl a w)) :=
  kept_shm h (keptMem_mputWord (keptMem_refl _) _ _)

@[simp] theorem kept_mirrorWord (e idx : Nat) (w : Word) : Kept c (core (mirrorWord s e idx w)) :=
  kept_dmem h (keptMem_mputWord (keptMem_refl _) _ _)

@[simp] theorem kept_writeSlot (n : Nat) : Kept c (core (writeSlot s n)) := by
  unfold writeSlot
  exact kept_shm (d := core (drawWord (drawWord (drawWord s).2).2).2) (by simpa using h) (keptMem_mwrite (keptMem_refl _) _ _)

@[simp] theorem kept_snapshotNow : Kept c (core (snapshotNow s)) := by
  unfold snapshotNow
  extract_lets -underBinder t
  have ht : core t = core s := by simp [t]
  clear_value t
  rw [← ht] at h
  have hbuf : KeptMem t.arr.dlBuf (allSleeves.foldl (snapshotSleeve t) t.arr.dlBuf) :=
    keptMem_foldl (fun m sl hm => show KeptMem _ (snapshotSleeve t m sl) from keptMem_mwrite hm _ _) _ (keptMem_refl _)
  generalize allSleeves.foldl (snapshotSleeve t) t.arr.dlBuf = m at hbuf ⊢
  exact kept_dlBuf h hbuf

@[simp] theorem kept_exchange : Kept c (core (exchange s)) := by
  unfold exchange
  extract_lets -underBinder shadow got blk t
  have hblk : KeptMem s.arr.blkFill blk := by
    simp only [blk]
    split
    · exact keptMem_refl _
    · exact fun _ => wf_mwrite _ _ _ wf_nil
  have ht : core t = core s := by simp [t]
  have hfill : t.arr.blkFill = s.arr.blkFill := congrArg Core.blkFill ht
  clear_value t
  rw [← ht] at h
  refine kept_trans h ⟨rfl, id, fun hm => { hm with upRead := wf_upSlots t, blkRead := ?_, blkFill := wf_nil }⟩
  exact hblk (hfill ▸ hm.blkFill)

/-! ### Patterns -/

/-- A cold load puts its words and its parameters into data memory, and may leave a timebase to wait for its tick (R130, R131). -/
@[simp] theorem kept_coldLoad (img : PatImg) : Kept c (core (coldLoad s img)) :=
  kept_dmem h (keptMem_paramWords _ _ (keptMem_coldWords _ (keptMem_refl _)))

/-- A timebase that awaits its tick is one of the three. -/
theorem kept_newBase {nb : Option (Nat × Nat)} (hnb : ∀ b ∈ nb, legalW b.1) : Kept c { core s with newBase := nb } :=
  kept_counters h fun ⟨hw, hric, hacc, hris, _⟩ => ⟨hw, hric, hacc, hris, hnb⟩

theorem kept_p1Accepted (img : PatImg) (slot : Nat) (hw : legalW img.w) : Kept c (core (p1Accepted s img slot)) := by
  have hnb : ∀ b ∈ (if (decide (img.w = (coldLoad s img).wheel.w) && decide (img.l = (coldLoad s img).wheel.l)) = true then none
      else some (img.w, img.l)), legalW b.1 := by
    intro b hb
    split at hb
    · exact absurd hb nofun
    · exact (Option.mem_some.mp hb) ▸ hw
  exact kept_newBase (kept_coldLoad h img) hnb

theorem kept_loadAccepted (img : PatImg) (slot : Nat) (restart : Bool) (hw : legalW img.w) :
    Kept c (core (loadAccepted s img slot restart)) := by
  unfold loadAccepted
  extract_lets -underBinder _ t
  have ht : Kept c (core t) := by simpa [t] using h
  clear_value t
  split
  · refine kept_newBase ht fun b hb => ?_
    unfold wantBase at hb
    split at hb
    · exact absurd hb nofun
    · exact (Option.mem_some.mp hb) ▸ hw
  · exact ht

@[simp] theorem kept_stageRound : Kept c (core (stageRound s)) := by
  unfold stageRound
  extract_lets -underBinder t u
  have hwords (v : State) (e : Nat) (l : List Nat) (m : Mem) :
      KeptMem m (l.foldl (fun m k => dmWriteKey m (e * 1024 + k) (stagedValue v e k)) m) :=
    keptMem_foldl (fun _ _ hm => keptMem_dmWriteKey hm _ _) l (keptMem_refl m)
  have ht : Kept c (core t) := kept_forAll (fun v e hv => by
    have hm := hwords v e (roundWords v e) v.arr.dmem
    generalize (roundWords v e).foldl _ v.arr.dmem = m at hm ⊢
    exact kept_dmem hv hm) _ h
  clear_value t
  simpa [u] using ht

@[simp] theorem kept_swapPattern : Kept c (core (swapPattern s)) := by
  unfold swapPattern
  extract_lets -underBinder img vals t
  rw [core_forAll fun t sl => core_startSleeve t sl]
  exact kept_dmem h (keptMem_paramWordsAll _ _ (keptMem_refl _))

@[simp] theorem kept_applyParam (w : ParamWrite) : Kept c (core (applyParam s w)) := by
  unfold applyParam
  split
  · rename_i p _
    have hp : Kept c (core (setDmem s (putParam p w.value s.arr.dmem))) := kept_dmem h (keptMem_putParam (keptMem_refl _) _ _)
    simpa using hp
  · exact h

/-! ### Recorder and images -/

@[simp] theorem kept_flushNow (us : Nat) : Kept c (core (flushNow s us)) := kept_mram h (keptMem_ringOver s)

/-- The rows of a round replace what the ring held of it (R372). -/
@[simp] theorem kept_traceWrite : Kept c (core (traceWrite s)) := by
  unfold traceWrite
  extract_lets -underBinder r base new old
  split
  · refine kept_trace h fun hwf => ?_
    obtain ⟨hsort, hnz⟩ := (wf_iff _).mp hwf
    have hnew : new = portCells (fun n => base + 16 * n) (fun n => traceEntry s n) := rfl
    have hbound (x : Host.Cell) (hx : x ∈ new) : base ≤ x.1 ∧ x.1 < base + traceRow ∧ x.2 ≠ 0 := by
      obtain ⟨n, hn, hlo, hhi, hz⟩ := mem_portCells (hnew ▸ hx)
      rw [traceEntry_length] at hhi
      exact ⟨by omega, by simp only [traceRow]; omega, hz⟩
    refine (wf_iff _).mpr ⟨?_, fun x hx => ?_⟩
    · refine List.pairwise_append.mpr ⟨List.pairwise_append.mpr ⟨hsort.filter _, ?_, fun x hx y hy => ?_⟩, hsort.filter _,
        fun x hx y hy => ?_⟩
      · rw [hnew]
        exact sorted_portCells fun i j hij => by rw [traceEntry_length]; omega
      · have := of_decide_eq_true (List.mem_filter.mp hx).2
        exact Nat.lt_of_lt_of_le this (hbound y hy).1
      · have hy := of_decide_eq_true (List.mem_filter.mp hy).2
        rcases List.mem_append.mp hx with hx | hx
        · have := of_decide_eq_true (List.mem_filter.mp hx).2
          omega
        · exact Nat.lt_of_lt_of_le (hbound x hx).2.1 hy
    · rcases List.mem_append.mp hx with hx | hx
      · rcases List.mem_append.mp hx with hx | hx
        · exact hnz x (List.mem_filter.mp hx).1
        · exact (hbound x hx).2.2
      · exact hnz x (List.mem_filter.mp hx).1
  · exact h

@[simp] theorem kept_traceCopyNow : Kept c (core (traceCopyNow s)) := by
  unfold traceCopyNow
  dsimp only
  rw [core_addRecord]
  exact kept_mram h (keptMem_foldl (fun _ _ hm => keptMem_mset hm _ _) _ (keptMem_mclear (keptMem_refl _) _ _))

@[simp] theorem kept_dlBlock (x : Nat) (b : DomainBlock) : Kept c (core (dlBlock s x b)) := by
  unfold dlBlock
  extract_lets -underBinder t d ranges u
  have ht : core t = core s := by simp [t]
  clear_value t
  rw [core_setDl]
  exact kept_mram (d := core t) (ht ▸ h) (keptMem_mwrite (keptMem_refl _) _ _)

/-- The machine at a start keeps of its memories MRAM alone (R406, R428). -/
@[simp] theorem kept_resetNow (cause mode : Nat) : Kept c (core (resetNow s cause mode)) := by
  unfold resetNow
  extract_lets -underBinder wheel pat shelf net r _ _ _ _ t
  have ht : Kept c (core t) := kept_trans h
    ⟨rfl, fun _ => ⟨.inr (.inl rfl), (by decide : 0 < 8192), (Nat.zero_mul _).symm, ⟨rfl, rfl⟩, nofun⟩,
      fun hm => ⟨wf_nil, wf_nil, wf_nil, wf_nil, wf_nil, wf_nil, wf_nil, hm.mram⟩⟩
  clear_value t
  simp [ht]

end Kept
end Sys2Proof.Machine
end
section
/-! PROOFS. What runs the functions that write a memory or the counters, in the order of the definitions, and every command. -/
namespace Sys2Proof.Machine

theorem kept_issueS {c : Core} {s : State} (h : Kept c (core s)) (e : Nat) (p : Pred) {body : State → State}
    (hb : ∀ t, Kept c (core t) → Kept c (core (body t))) : Kept c (core (issueS s e p body)) := by
  unfold issueS
  extract_lets -underBinder s₁ s₂ s₃
  have h₂ : Kept c (core s₂) := by simpa [s₂, s₁] using h
  have h₃ : Kept c (core s₃) := by simp [s₃, h₂, hb]
  clear_value s₂ s₃
  simp [h₃, h]

@[simp] theorem kept_execSt {c : Core} {s : State} (h : Kept c (core s)) (e : EngineId) (p : Pred) (rd ra : Reg) (imm : BitVec 12) :
    OutKept c (execSt e p rd ra imm s) :=
  (outKept_next _).mpr (kept_issueS h _ _ fun t ht => by simp [ht])

@[simp] theorem kept_execStp {c : Core} {s : State} (h : Kept c (core s)) (e : EngineId) (p : Pred) (rd : Reg) (idx : BitVec 6) :
    OutKept c (execStp e p rd idx s) := by
  refine (outKept_next _).mpr (kept_issueS h _ _ fun t ht => ?_)
  extract_lets -underBinder en w t₁ t₂
  have h₁ : Kept c (core t₁) := by simpa [t₁] using ht
  have h₂ : Kept c (core t₂) := by simp [t₂, h₁]
  clear_value t₁ t₂
  simp [h₁, h₂]

@[simp] theorem kept_execSts {c : Core} {s : State} (h : Kept c (core s)) (e : EngineId) (p : Pred) (rd ra : Reg) (imm : BitVec 12) :
    OutKept c (execSts e p rd ra imm s) :=
  (outKept_next _).mpr (kept_issueS h _ _ fun t ht => by simp [ht])

@[simp] theorem kept_execStsd {c : Core} {s : State} (h : Kept c (core s)) (e : EngineId) (p : Pred) (rd ra : Reg) (imm : BitVec 12) :
    OutKept c (execStsd e p rd ra imm s) :=
  (outKept_next _).mpr (kept_issueS h _ _ fun t ht => by simp [ht])

@[simp] theorem kept_commitCatchUp {c : Core} {s : State} (h : Kept c (core s)) : Kept c (core (commitCatchUp s)) := by
  unfold commitCatchUp
  simp [h]

@[simp] theorem kept_seamCommit {c : Core} {s : State} (h : Kept c (core s)) : Kept c (core (seamCommit s)) := by
  unfold seamCommit
  simp [h]

@[simp] theorem kept_restartHalt {c : Core} {s : State} (h : Kept c (core s)) : Kept c (core (restartHalt s)) := by
  unfold restartHalt
  extract_lets -underBinder hem s₁ s₂ s₃ img s₄ arr pat flow s₅
  have h₃ : Kept c (core s₃) := by simpa [s₃, s₂, s₁] using h
  have h₄ : Kept c (core s₄) := kept_coldLoad h₃ img
  clear_value s₄
  have h₅ : core s₅ = core s₄ := core_mk_arr ..
  clear_value s₅
  exact kept_takeBase (h₅ ▸ h₄)

@[simp] theorem kept_seamRestart {c : Core} {s : State} (h : Kept c (core s)) : Kept c (core (seamRestart s)) := by
  unfold seamRestart
  simp [h]

@[simp] theorem kept_applyParams {c : Core} {s : State} (h : Kept c (core s)) : Kept c (core (applyParams s)) := by
  unfold applyParams
  dsimp only
  split
  · exact h
  · simp [kept_foldl (fun _ w ht => kept_applyParam ht w), h]

@[simp] theorem kept_seamParams {c : Core} {s : State} (h : Kept c (core s)) : Kept c (core (seamParams s)) := by
  unfold seamParams
  simp [h]

@[simp] theorem kept_arrayCatchUp {c : Core} {s : State} (h : Kept c (core s)) : Kept c (core (arrayCatchUp s)) := by
  unfold arrayCatchUp
  simp [h]

@[simp] theorem kept_portOutput {c : Core} {s : State} (h : Kept c (core s)) (n : Nat) : Kept c (core (portOutput s n)) := by
  unfold portOutput
  simp [h]

@[simp] theorem kept_stopInRound {c : Core} {s : State} (h : Kept c (core s)) (n : Nat) (v : StepVals) : Kept c (core
    (stopInRound s n v)) := by
  unfold stopInRound
  simp [h]

@[simp] theorem kept_stopStep {c : Core} {s : State} (h : Kept c (core s)) (i : Nat) : Kept c (core (stopStep s i)) := by
  unfold stopStep
  simp [kept_foldl (fun _ n ht => kept_stopInRound ht n _), h]

@[simp] theorem kept_stopMore {c : Core} (k : Nat) : ∀ {s : State}, Kept c (core s) → Kept c (core (stopMore k s)) := by
  induction k with
  | zero => exact id
  | succ k ih =>
    intro s h
    unfold stopMore
    split
    · simp [h]
    · simp [h, ih]

@[simp] theorem kept_stopFirst {c : Core} {s : State} (h : Kept c (core s)) : Kept c (core (stopFirst s)) :=
  kept_stopMore 1024 (s := { s with sq := { s.sq with
    deadline := none, cancellable := false, nextWait := none, runPend := none, ended := false, state := 4 } }) h

@[simp] theorem kept_raisePfw {c : Core} {s : State} (h : Kept c (core s)) : Kept c (core (raisePfw s)) :=
  kept_forAll (fun _ n ht => by simp [ht]) _ (by simpa using h)

@[simp] theorem kept_beginShutdown {c : Core} {s : State} (h : Kept c (core s)) (origin : Nat) :
    Kept c (core (beginShutdown s origin)) := by
  unfold beginShutdown
  extract_lets -underBinder order trays _ t
  have ht : Kept c (core t) := by simpa [t] using h
  clear_value t
  simp [h, ht]
  intros
  exact kept_raisePfw (by simpa using ht)

@[simp] theorem kept_stepLateNow {c : Core} {s : State} (h : Kept c (core s)) (i : Nat) : Kept c (core (stepLateNow s i)) := by
  unfold stepLateNow
  simp [h]

@[simp] theorem kept_railNow {c : Core} {s : State} (h : Kept c (core s)) (i : Nat) (n : Nat) : Kept c (core (railNow s i n)) := by
  unfold railNow
  simp [h]

@[simp] theorem kept_railPort {c : Core} {s : State} (h : Kept c (core s)) (n : Nat) : Kept c (core (railPort s n)) :=
  kept_foldl (fun _ i ht => by simp [ht]) _ h

@[simp] theorem kept_startAction {c : Core} {s : State} (h : Kept c (core s)) (i : Nat) : Kept c (core (startAction s i)) := by
  unfold startAction
  simp [h]

@[simp] theorem kept_startSteps {c : Core} (k : Nat) : ∀ {s : State}, Kept c (core s) → Kept c (core (startSteps k s)) := by
  induction k with
  | zero => exact id
  | succ k ih =>
    intro s h
    unfold startSteps
    simp [h, ih]

@[simp] theorem kept_shutdownWrite {c : Core} {s : State} (h : Kept c (core s)) : Kept c (core (shutdownWrite s).2) := by
  unfold shutdownWrite
  simp [h]

@[simp] theorem kept_seqCmd {c : Core} {s : State} (h : Kept c (core s)) (v : Nat) : Kept c (core (seqCmd s v).2) := by
  unfold seqCmd
  simp [h]

@[simp] theorem kept_seamSeq {c : Core} {s : State} (h : Kept c (core s)) : Kept c (core (seamSeq s)) := by
  unfold seamSeq
  dsimp only
  (repeat' split) <;> simp [h]

@[simp] theorem kept_seqCatchUp {c : Core} {s : State} (h : Kept c (core s)) : Kept c (core (seqCatchUp s)) := by
  unfold seqCatchUp
  extract_lets -underBinder s₁ s₂ s₃ s₄
  have h₂ : Kept c (core s₂) := by simp [s₂, s₁, h]
  have h₃ : Kept c (core s₃) := kept_foldl (fun _ i ht => by simp [ht]) _ h₂
  have h₄ : Kept c (core s₄) := by
    simp only [s₄, kept_ite]
    exact ⟨fun _ => kept_foldl (fun _ i ht => by simp [ht]) _ h₃, fun _ => h₃⟩
  clear_value s₄
  simp [h₄]

@[simp] theorem kept_seqRound {c : Core} {s : State} (h : Kept c (core s)) : Kept c (core (seqRound s)) := by
  unfold seqRound
  extract_lets -underBinder s₁ s₂ s₃
  have h₁ : Kept c (core s₁) :=
    kept_foldl (fun _ i ht => by simp [ht]) _ h
  have h₂ : Kept c (core s₂) := kept_foldl (fun _ i ht => by simp [ht]) _ h₁
  have h₃ : Kept c (core s₃) := by
    simp only [s₃]
    split
    · exact h₂
    · exact h₂
  clear_value s₃
  simp [h₃]

@[simp] theorem kept_railCatchUp {c : Core} {s : State} (h : Kept c (core s)) : Kept c (core (railCatchUp s)) :=
  kept_foldl (fun _ n ht => kept_railPort ht n) _ h

@[simp] theorem kept_flowAgain {c : Core} {s : State} (h : Kept c (core s)) : Kept c (core (flowAgain s)) := by
  unfold flowAgain
  extract_lets -underBinder t
  have ht : Kept c (core t) := by simpa [t] using h
  clear_value t
  simp only [kept_ite]
  exact ⟨fun _ => kept_forAll (fun _ n ht => kept_portOutput ht n) _ ht, fun _ => ht⟩

@[simp] theorem kept_warningNow {c : Core} {s : State} (h : Kept c (core s)) : Kept c (core (warningNow s)) := by
  unfold warningNow
  simp [h]

@[simp] theorem kept_flowCatchUp {c : Core} {s : State} (h : Kept c (core s)) : Kept c (core (flowCatchUp s)) := by
  unfold flowCatchUp
  simp [h]

@[simp] theorem kept_execWheel {c : Core} {s : State} (h : Kept c (core s)) (block : List Byte) : OutKept c (execWheel block s) := by
  unfold execWheel
  simp only [outKept_next, kept_ite]
  refine ⟨fun _ => h, fun _ => kept_blkFill h ?_⟩
  split
  · exact keptMem_refl _
  · exact fun _ => wf_mwrite _ _ _ wf_nil

@[simp] theorem kept_execStore {c : Core} {s : State} (h : Kept c (core s)) (sl : SleeveId) (words : List (Nat × Nat × Word)) :
    OutKept c (execStore sl words s) := by
  unfold execStore
  simp only [outKept_next, kept_ite]
  exact ⟨fun _ => kept_foldl (fun _ w ht => kept_mirrorWord ht _ _ _) _ h, fun _ => h⟩

@[simp] theorem kept_execSweep {c : Core} {s : State} (h : Kept c (core s)) (line : Nat) (words : List Word) :
    OutKept c (execSweep line words s) := by
  have hw := kept_foldl (fun _ w ht => kept_mirrorWord ht (line / 4) (16 * (line % 4) + w.2) w.1) ((words.take 16).zipIdx) h
  unfold execSweep
  simp [h, hw]

@[simp] theorem kept_coldRegion {c : Core} {s : State} (h : Kept c (core s)) (e : Nat) : Kept c (core (coldRegion s e)) :=
  kept_foldl (fun _ k ht => kept_mirrorWord ht _ _ _) _ h

@[simp] theorem kept_takeoverNow {c : Core} {s : State} (h : Kept c (core s)) : Kept c (core (takeoverNow s)) := by
  unfold takeoverNow
  extract_lets -underBinder kept whole seeds cause bare _ t _ u
  have ht : Kept c (core t) := h
  have hu : Kept c (core u) := by
    unfold u
    rw [core_forAll core_seedFromTick]
    exact kept_forAll (fun _ e ht => kept_coldRegion ht e) _ ht
  clear_value t u
  rw [kept_ite]
  exact ⟨fun _ => by simpa using ht, fun _ => by simpa using hu⟩

theorem orElse_none {α : Type} {o : Option α} {f : Unit → Option α} : o.orElse f = none ↔ o = none ∧ f () = none := by
  cases o <;> simp

theorem legalW_of_checkHead {s : State} {img : PatImg} (h : checkHead s img = none) : legalW img.w := by
  simp only [checkHead, orElse_none] at h
  obtain ⟨-, -, -, -, hw, -⟩ := h
  unfold failIf at hw
  unfold legalW
  grind

theorem legalW_of_loadFault {s : State} {img : PatImg} {hitless : Bool} (h : loadFault s img hitless = none) : legalW img.w := by
  refine legalW_of_checkHead (s := s) ?_
  exact (orElse_none.mp h).1

@[simp] theorem kept_execLoadChecksComplete {c : Core} {s : State} (h : Kept c (core s)) (img : PatImg) :
    OutKept c (execLoadChecksComplete img s) := by
  unfold execLoadChecksComplete
  rw [outKept_next]
  split
  · exact h
  · dsimp only
    split
    · simp [h]
    · next hf =>
      rw [kept_ite]
      exact ⟨fun _ => kept_p1Accepted h _ _ (legalW_of_loadFault hf), fun _ => kept_loadAccepted h _ _ _ (legalW_of_loadFault hf)⟩

@[simp] theorem kept_activateWrite {c : Core} {s : State} (h : Kept c (core s)) (v : Nat) : Kept c (core (activateWrite s v).2) := by
  unfold activateWrite
  simp [h]
  intros
  exact kept_resetNow (by simpa using h) _ _

@[simp] theorem kept_effect1000 {c : Core} {s : State} (h : Kept c (core s)) (ix : Nat) (sub : Nat) (v : Nat) : Kept c (core
    (effect1000 s ix sub v).2) := by
  unfold effect1000
  (repeat' split) <;> simp [h]

@[simp] theorem kept_effect2000 {c : Core} {s : State} (h : Kept c (core s)) (ix : Nat) (sub : Nat) (v : Nat) : Kept c (core
    (effect2000 s ix sub v).2) := by
  unfold effect2000
  (repeat' split) <;> simp [h]

@[simp] theorem kept_effect {c : Core} {s : State} (h : Kept c (core s)) (ix : Nat) (sub : Nat) (v : Nat) : Kept c (core
    (effect s ix sub v).2) := by
  unfold effect
  simp [h]

@[simp] theorem kept_rightWrite {c : Core} {s : State} (h : Kept c (core s)) (ix : Nat) (sub : Nat) (v : Nat) : Kept c (core
    (rightWrite s ix sub v).2) := by
  unfold rightWrite
  (repeat' split) <;> simp [h]

@[simp] theorem kept_objWrite {c : Core} {s : State} (h : Kept c (core s)) (lvl : Level) (ix : Nat) (sub : Nat) (v : Nat) :
    Kept c (core (objWrite s lvl ix sub v).2) := by
  unfold objWrite
  (repeat' split) <;> simp [h]

@[simp] theorem kept_writeItem {c : Core} {s : State} (h : Kept c (core s)) (lvl : Level) (session : Nat) (i : WriteItem) :
    Kept c (core (writeItem s lvl session i).2) := by
  unfold writeItem
  (repeat' split) <;> simp [h]

@[simp] theorem kept_mateCommand {c : Core} {s : State} (h : Kept c (core s)) (ix : Nat) (sub : Nat) (v : Nat) : Kept c (core
    (mateCommand s ix sub v)) := by
  unfold mateCommand
  (repeat' split) <;> simp [h]

@[simp] theorem kept_execCtrl {c : Core} {s : State} (h : Kept c (core s)) (x : Ctrl) : OutKept c (execCtrl x s) := by
  unfold execCtrl
  rw [outKept_next, kept_ite]
  refine ⟨fun _ => h, fun _ => ?_⟩
  cases x with
  | config ix sub v =>
    rw [kept_ite]
    exact ⟨fun _ => h, fun _ => kept_pend h _⟩
  | _ => simp [h]

theorem kept_served {c : Core} {s : State} (h : Kept c (core s)) {f : State → Nat × State}
    (hf : ∀ t, Kept c (core t) → Kept c (core (f t).2)) : Kept c (core (served s f)) := by
  unfold served
  extract_lets -underBinder _ t r
  have hr : Kept c (core r.2) := hf _ h
  clear_value r
  simp [h, hr]

@[simp] theorem kept_cmd {c : Core} {s : State} (h : Kept c (core s)) (lvl : Level) (ix sub v : Nat) :
    Kept c (core (cmd s lvl ix sub v)) := kept_served h fun t ht => kept_objWrite ht _ _ _ _

@[simp] theorem kept_execExportedParameter {c : Core} {s : State} (h : Kept c (core s)) (lvl : Level) (item : WriteItem) :
    OutKept c (execExportedParameter lvl item s) :=
  (outKept_next _).mpr (kept_served h fun t ht => by simp [ht])

@[simp] theorem kept_execMembers {c : Core} {s : State} (h : Kept c (core s)) (lvl : Level) (g : GroupId) (k : Nat) (v : Word) :
    OutKept c (execMembers lvl g k v s) :=
  (outKept_next _).mpr (kept_served h fun t ht => by simp [ht])

@[simp] theorem kept_execGroupWrite {c : Core} {s : State} (h : Kept c (core s)) (lvl : Level) (g : Option GroupId) (sub ty : Nat)
    (value : List Byte) : OutKept c (execGroupWrite lvl g sub ty value s) :=
  (outKept_next _).mpr (kept_served h fun t ht => kept_writeItem ht _ _ _)

@[simp] theorem kept_execObjectWrite {c : Core} {s : State} (h : Kept c (core s)) (lvl : Level) (item : WriteItem) :
    OutKept c (execObjectWrite lvl item s) :=
  (outKept_next _).mpr (kept_served h fun t ht => kept_writeItem ht _ _ _)

@[simp] theorem kept_execTwoWireCtrl {c : Core} {s : State} (h : Kept c (core s)) (lvl : Level) (bus : TwId) (sub : Nat) (v : Word) :
    OutKept c (execTwoWireCtrl lvl bus sub v s) :=
  (outKept_next _).mpr (kept_served h fun t ht => by simp [ht])

@[simp] theorem kept_writeItems {c : Core} (lvl : Level) (session : Nat) (l : List WriteItem) :
    ∀ {s : State}, Kept c (core s) → Kept c (core (writeItems lvl session l s).2) := by
  induction l with
  | nil => exact id
  | cons i l ih =>
    intro s h
    refine ih (s := (if s.boot.frozen then (stState, s) else writeItem s lvl session i).2) ?_
    simp [h]

@[simp] theorem kept_domainWriteMsg {c : Core} {s : State} (h : Kept c (core s)) (lvl : Level) (b : DomainBlock) : Kept c (core
    (domainWriteMsg s lvl b).2) := by
  unfold domainWriteMsg
  (repeat' split) <;> simp [h]

@[simp] theorem kept_runReq {c : Core} {s : State} (h : Kept c (core s)) (m : InMsg) (lvl : Level) : Kept c (core (runReq s m
    lvl).2.2) := by
  unfold runReq
  dsimp only
  (repeat' split) <;> simp [h]

@[simp] theorem kept_sessionMsg {c : Core} {s : State} (h : Kept c (core s)) (m : InMsg) : Kept c (core (sessionMsg s m)) := by
  unfold sessionMsg
  (repeat' split) <;> simp [h]

@[simp] theorem kept_handle {c : Core} {s : State} (h : Kept c (core s)) (m : InMsg) : Kept c (core (handle s m)) := by
  unfold handle
  (repeat' split) <;> simp [h]

@[simp] theorem kept_receive {c : Core} {s : State} (h : Kept c (core s)) (m : InMsg) : Kept c (core (receive s m)) := by
  unfold receive
  simp [h]

@[simp] theorem kept_execCollarBootDone {c : Core} {s : State} (h : Kept c (core s)) : OutKept c (execCollarBootDone s) := by
  unfold execCollarBootDone
  rw [outKept_next]
  extract_lets -underBinder t held
  have ht : Kept c (core t) := by simpa [t] using h
  clear_value t
  rw [kept_ite]
  exact ⟨fun _ => kept_foldl (fun _ m ht => kept_handle ht m) _ ht, fun _ => ht⟩

@[simp] theorem kept_plainFrame {c : Core} {s : State} (h : Kept c (core s)) (e : Nat) (rdp : Bool) (m : InMsg) :
    Kept c (core (plainFrame s e rdp m)) := by
  unfold plainFrame
  simp [h]
  intros
  exact kept_receive (by simpa using h) _

@[simp] theorem kept_execEthernetFrame {c : Core} {s : State} (h : Kept c (core s)) (e : Fin 2) (size : Nat) (fragment : Bool)
    (vlan : Option Nat) (pcp : Nat) (udp : UdpPorts) (macOk : Bool) (us : Nat) (rdp : List Byte) :
    OutKept c (execEthernetFrame e size fragment vlan pcp udp macOk us rdp s) := by
  unfold execEthernetFrame
  rw [outKept_next, kept_ite]
  refine ⟨fun _ => h, fun _ => ?_⟩
  extract_lets -underBinder n t ours m u _ v
  have ht : Kept c (core t) := h
  have hv : Kept c (core v) := ht
  clear_value t v
  simp [h, ht]
  intros
  refine ⟨fun _ => kept_plainFrame (by exact ht) _ _ _, fun _ => ?_⟩
  split <;> simp [hv]

@[simp] theorem kept_execCanFdFrame {c : Core} {s : State} (h : Kept c (core s)) (ch : Fin 2) (ident : BitVec 29) (data : List Byte)
    (macOk : Bool) : OutKept c (execCanFdFrame ch ident data macOk s) := by
  unfold execCanFdFrame
  rw [outKept_next]
  extract_lets -underBinder v src key
  rw [kept_ite]
  refine ⟨fun _ => h, fun _ => ?_⟩
  split
  · exact h
  · extract_lets -underBinder _ drop
    have hd : Kept c (core drop) := h
    clear_value drop
    split <;> simp [hd, h]

@[simp] theorem kept_smbRequest {c : Core} {s : State} (h : Kept c (core s)) (l : List Byte) (macOk : Bool) :
    Kept c (core (smbRequest s l macOk)) := by
  unfold smbRequest
  extract_lets -underBinder _ s₁ held t
  have ht : Kept c (core t) := kept_receive (s := s₁) h (parseMsg .smb macOk l)
  exact ht

@[simp] theorem kept_execMsgWrite {c : Core} {s : State} (h : Kept c (core s)) (flag : Byte) (data : List Byte)
    (pecPresent pecOk macOk : Bool) : OutKept c (execMsgWrite flag data pecPresent pecOk macOk s) := by
  unfold execMsgWrite
  rw [outKept_next, kept_ite, kept_ite]
  refine ⟨fun _ => h, fun _ => ⟨fun _ => by simpa using h, fun _ => ?_⟩⟩
  extract_lets -underBinder n t old _ drop
  have ht : Kept c (core t) := h
  have hd : Kept c (core drop) := ht
  clear_value t drop
  split
  · exact hd
  · simp [hd, ht]
    intros
    exact kept_smbRequest (by simpa using ht) _ _

@[simp] theorem kept_execSeamClose {c : Core} {s : State} (h : Kept c (core s)) : OutKept c (execSeamClose s) := by
  unfold execSeamClose
  rw [outKept_next, kept_ite]
  exact ⟨fun _ => kept_counters h id, fun _ => h⟩

@[simp] theorem kept_roundEnd {c : Core} {s : State} (h : Kept c (core s)) : Kept c (core (roundEnd s)) := by
  unfold roundEnd
  extract_lets -underBinder s₁ s₂ s₃ s₄ s₅ s₆ s₇
  have h₂ : Kept c (core s₂) := kept_commitCatchUp (by simp [s₁, h])
  have h₃ : Kept c (core s₃) := kept_arrayCatchUp (by simpa using h₂)
  have h₅ : Kept c (core s₅) := by simpa [s₅, s₄] using h₃
  have h₆ : Kept c (core s₆) := kept_seqCatchUp (kept_railCatchUp (kept_flowCatchUp (by simpa using h₅)))
  have h₇ : Kept c (core s₇) := by simp [s₇, h₆]
  clear_value s₇
  simp [h₇]

@[simp] theorem kept_roundBegin {c : Core} {s : State} (h : Kept c (core s)) : Kept c (core (roundBegin s)) := by
  unfold roundBegin
  extract_lets -underBinder s₁ s₂ s₃ s₄
  have h₂ : Kept c (core s₂) := by simpa [s₂, s₁] using h
  have h₃ : Kept c (core s₃) := kept_seqRound (kept_forAll (fun _ n ht => kept_portOutput ht n) _ h₂)
  clear_value s₃
  simpa [s₄] using h₃

@[simp] theorem kept_seamNow {c : Core} {s : State} (h : Kept c (core s)) : Kept c (core (seamNow s)) := by
  unfold seamNow
  extract_lets -underBinder i src s₁ s₂ s₃ s₄ s₅ s₆ s₇ s₈ s₉ s₁₀
  have h₁ : Kept c (core s₁) := kept_counters h id
  have h₂ : Kept c (core s₂) := by simpa [s₂] using h₁
  have h₃ : Kept c (core s₃) := by simpa [s₃] using kept_seamParams (kept_applyPend h₂)
  have h₄ : Kept c (core s₄) := kept_seamRestart (by simpa using kept_seamCommit h₃)
  have h₇ : Kept c (core s₇) := by simpa [s₇, s₆, s₅] using h₄
  have h₈ : Kept c (core s₈) := by simpa [s₈] using kept_seamSeq (by simpa using h₇)
  have h₁₀ : Kept c (core s₁₀) := by simpa [s₁₀, s₉] using h₈
  rw [core_subsSeam]
  exact kept_roundBegin (by simpa using h₁₀)

@[simp] theorem kept_tickFront {c : Core} {s : State} (h : Kept c (core s)) (i : TickIn) : Kept c (core (tickFront s i)) := by
  unfold tickFront
  extract_lets -underBinder s₁ s₂ src s₃
  have h₁ : Kept c (core s₁) := by simpa [s₁] using kept_exchange (by simpa using kept_traceWrite (kept_roundEnd h))
  have h₂ : Kept c (core s₂) := kept_wheelCount h₁
  have h₃ : Kept c (core s₃) := kept_counters h₂ id
  clear_value s₃
  simpa using h₃

@[simp] theorem kept_tickNow {c : Core} {s : State} (h : Kept c (core s)) (i : TickIn) : Kept c (core (tickNow s i)) := by
  unfold tickNow
  simp [h]

/-! ### Every command -/

/-- Every command answers a state and keeps: the writes of objects as `cmd` does, each other command by the functions it runs. -/
theorem exec_kept (c : Instr) (s : State) : OutKept (core s) (exec c s) := by
  cases ho : objectOf c with
  | some o =>
    obtain ⟨lvl, ix, sub, v⟩ := o
    rw [exec_objectOf ho]
    simp
  | none =>
    cases c <;> simp [
      exec, execAdd, execAddi, execAndR, execAndi, execAngleValid, execArbitrationTimeout, execArmApplyDeadline,
      execArmDecision, execAutoStart, execBusCollapse, execCanReassemblyTimeout, execCap, execCapN, execCapture,
      execCaptureEdge, execCfgRead, execCfgResult, execCfgStage, execCfgWrite, execChargePulseEnd, execChargeRestEnd,
      execCheckpoint, execClear, execClearStatus, execClose, execClra, execClrflg, execCmpEq, execCmpFeq, execCmpFle,
      execCmpFlt, execCmpFne, execCmpLe, execCmpLeu, execCmpLt, execCmpLtu, execCmpNe, execCoast, execCoastExpiry,
      execCommitStaging, execCompareEvent, execCount64, execCountRead, execCwdExpiry, execDiagEcho, execDiagReply,
      execDieConversion, execDigest, execDomainRead, execDomainWrite, execDownlinkFrame, execDownlinkSnapshot,
      execDownloadTimeout, execEarlyWarning, execEndround, execEvent, execExtreme, execF2i, execFabs, execFadd, execFastTrip,
      execFdiv, execFeLocalTick, execFeRestart, execFeedLoss, execFeedReturn, execFlush, execFma, execFmax, execFmin, execFms,
      execFmul, execFneg, execFq15, execFq31, execFreezeN, execFsqrt, execFsub, execFwBegin, execFwBlock, execFwEnd,
      execFwRetrainTimeout, execFwStatus, execGwStatus, execHighh, execHoldup, execHush, execI2f, execIdiv, execImageKey,
      execInrushTimeout, execInsDebounce, execInsDelay, execInstrCrcCheck, execInternalResetEnd, execInterp, execKillN,
      execLaneDown, execLd, execLda, execLds, execLdsd, execLevelKey, execLinkLost, execLocate, execLockAchieved, execLockLoss,
      execLongRest, execMac, execMacq15, execMailboxResend, execMateLinkUp, execMax, execMaxu, execMin, execMinu, execMovh,
      execMovi, execMsgRead, execMsu, execMsuq15, execMul, execMulh, execMulhu, execNoFrame, execNop, execOffDelay,
      execOnDelay, execOpenS, execOrR, execOri, execOvLatch, execOverload, execOverrunCheck, execPand, execPandn,
      execParameterApply, execPfwDeadline, execPmuIdRead, execPor, execPowerFailDetect, execPxor, execQ15f, execQ31f,
      execQadd15, execQadd31, execQmul15, execQmul31, execQsub15, execQsub31, execRailFault, execRampComplete,
      execRampDownComplete, execRdacc, execRdflg, execRdw, execRead, execRepeatI, execResetN, execResultWriteback,
      execRetrainStart, execRidx, execSatAction, execScrub, execSeam, execSeedRounds, execSel,
      execSessionIdleCheck, execSexth, execShadowReadback, execShed, execShifti, execShipExit, execShl, execShr, execSlip,
      execSlipReturn, execSmbalert, execSplitWithdraw, execSra, execStale, execStepStart, execStepTimeout, execStepUp,
      execStretchTimeout, execSub, execSubscribe, execSuddenXfer, execSupply, execSvcBtnN, execSvcReset, execSyncLoss,
      execSyncPulse, execTakeover, execTally, execTallySweep, execTapLimitStep, execTcxoLoss, execTcxoReturn, execTelem,
      execTelemSet, execThrottleSlot, execTick, execTimerWrap, execTraceCopy, execTraceHold, execTrainingTimeout,
      execTrainingWave, execTrialConfirm, execTwAlert, execTwTransactionDone, execTwXfer, execUdiv, execUnlistedOpcode,
      execUplinkFrame, execUrgent, execVauxRise, execVerificationComplete, execWakeN, execWheelBlockDeadline, execWrite,
      execXfer, execXferRampComplete, execXorR, execXori, execYrecv, execYres, execZexth, objectOf, outKept_of_core] at ho ⊢

/-- Settles O19, every command keeping the queue. -/
theorem commandsLeaveTheQueueAlone : Obligations.CommandsLeaveTheQueueAlone := by
  intro c s
  obtain ⟨t, ht, hk⟩ := exec_kept c s
  exact ⟨t, ht, hk.pending⟩

/-- A step changes the queue and else what its command does. -/
theorem step_kept {s t : State} (h : step s = .next t) :
    (countersOk (core s) → countersOk (core t)) ∧ (MemsOk (core s) → MemsOk (core t)) := by
  unfold step at h
  split at h
  · obtain rfl := Host.Outcome.next.inj h
    exact ⟨id, id⟩
  · next c rest _ =>
    obtain ⟨u, hu, hk⟩ := exec_kept c { s with pending := rest }
    obtain rfl := Host.Outcome.next.inj (hu.symm.trans h)
    exact ⟨hk.counters, fun hm => hk.mems { hm with }⟩

/-- Settles O23, the relations being those of `countersOk`. -/
theorem stepKeepsTheCounters : Obligations.StepKeepsTheCounters :=
  fun _ _ hs h => (step_kept h).1 hs

theorem memoriesWf_iff {s : State} : memoriesWf s ↔ MemsOk (core s) :=
  ⟨fun ⟨h₁, h₂, h₃, h₄, h₅, h₆, h₇, h₈⟩ => ⟨h₁, h₂, h₃, h₄, h₅, h₆, h₇, h₈⟩,
    fun h => ⟨h.dmem, h.shm, h.upRead, h.blkRead, h.blkFill, h.dlBuf, h.trace, h.mram⟩⟩

/-- Settles O24, every command keeping the canonical form. -/
theorem stepKeepsTheMemories : Obligations.StepKeepsTheMemories :=
  fun _ _ hs h => memoriesWf_iff.mpr ((step_kept h).2 (memoriesWf_iff.mp hs))

/-- Settles O18, by the definition of a step. -/
theorem stepRunsTheFrontCommand : Obligations.StepRunsTheFrontCommand := by
  refine ⟨fun s c => rfl, fun s hs => ?_⟩
  unfold step
  rw [hs]

end Sys2Proof.Machine
end

section
/-! PROOFS. The machine after reset. -/
namespace Sys2Proof.Machine

/-- Every engine starts with registers, accumulators and predicates 0 but p0 (R90). -/
theorem engine_reset (e : Nat) : engine State.reset e = {} := rfl

/-- Settles O20, each value being written in the reset state or a default of its table. -/
theorem resetLeavesTheSpecifiedValues : Obligations.ResetLeavesTheSpecifiedValues := by
  have hregs (e r : Nat) : rreg (engine State.reset e) r = 0 := by
    simp [engine_reset, rreg, tget, tfind]
  have haccs (e : Nat) (h : Bool) : racc (engine State.reset e) h = 0 := by
    cases h <;> rfl
  have hpreds (e k : Nat) (hk : 0 < k) : rpred (engine State.reset e) k = false := by
    simp [engine_reset, rpred, Nat.ne_of_gt hk, Nat.testBit_one_eq_true_iff_self_eq_zero, Bool.eq_false_iff]
  exact ⟨rfl, rfl, rfl, rfl, rfl, rfl, rfl, rfl, fun _ => ⟨rfl, rfl⟩, fun _ => ⟨rfl, rfl⟩, rfl, rfl, rfl, rfl,
    fun e r k h => ⟨hregs e r, haccs e h, hpreds e k, rfl⟩, rfl, fun _ _ => rfl⟩

/-- Settles O22: the counters stand at 0 on the boot timebase, the memories are empty. -/
theorem resetMeetsTheInvariants : Obligations.ResetMeetsTheInvariants :=
  ⟨⟨.inr (.inl rfl), (by decide : 0 < 8192), rfl, ⟨rfl, rfl⟩, nofun⟩, rfl, rfl, rfl, rfl, rfl, rfl, rfl, rfl⟩

end Sys2Proof.Machine
end

section
/-! PROOFS. Integer, logic, product, fixed-point, predicate, accumulator and divider instructions (R96 to R100, R105), each a
case of the lemma for what it issues, with the value it delivers put as its statement puts it. -/
namespace Sys2Proof.Machine

/-! ### Values -/

theorem toNat_and_31 (b : Word) : (b &&& 31).toNat = b.toNat % 32 := by
  rw [BitVec.toNat_and]
  exact Nat.and_two_pow_sub_one_eq_mod b.toNat 5

/-- A shift by a register uses its bits 4:0 (R97). -/
theorem shiftLeft_low (a b : Word) : a <<< (b.toNat % 32) = a <<< (b &&& 31) := by
  rw [BitVec.shiftLeft_eq', toNat_and_31]

theorem shiftRight_low (a b : Word) : a >>> (b.toNat % 32) = a >>> (b &&& 31) := by
  rw [BitVec.ushiftRight_eq', toNat_and_31]

theorem sshiftRight_low (a b : Word) : a.sshiftRight (b.toNat % 32) = a.sshiftRight' (b &&& 31) := by
  rw [BitVec.sshiftRight', toNat_and_31]

/-- The lesser and the greater, signed and unsigned: of equals either is taken. -/
theorem min_signed (a b : Word) : (if a.toInt ≤ b.toInt then a else b) = if b.slt a then b else a := by
  by_cases h : a.toInt ≤ b.toInt <;> simp [BitVec.slt, h]

theorem max_signed (a b : Word) : (if a.toInt ≤ b.toInt then b else a) = if a.slt b then b else a := by
  rcases Int.lt_trichotomy a.toInt b.toInt with h | h | h
  · simp [BitVec.slt, h, Int.le_of_lt h]
  · simp [BitVec.toInt_inj.mp h]
  · simp [BitVec.slt, Int.not_le.mpr h, Int.le_of_lt h]

theorem min_unsigned (a b : Word) : (if a.toNat ≤ b.toNat then a else b) = if b < a then b else a := by
  by_cases h : a.toNat ≤ b.toNat <;> simp [BitVec.lt_def, h]

theorem max_unsigned (a b : Word) : (if a.toNat ≤ b.toNat then b else a) = if a < b then b else a := by
  rcases Nat.lt_trichotomy a.toNat b.toNat with h | h | h
  · simp [BitVec.lt_def, h, Nat.le_of_lt h]
  · simp [BitVec.toNat_inj.mp h]
  · simp [BitVec.lt_def, Nat.not_le.mpr h, Nat.le_of_lt h]

theorem low_half (a : Word) : (a.setWidth 16).setWidth 32 = a &&& 0xFFFF := by
  refine BitVec.eq_of_toNat_eq ?_
  have h : a.toNat &&& 0xFFFF = a.toNat % 2 ^ 16 := Nat.and_two_pow_sub_one_eq_mod a.toNat 16
  simp only [BitVec.toNat_setWidth, BitVec.toNat_and, BitVec.reduceToNat, h]
  omega

theorem high_half (a : Word) : a.sshiftRight 16 = ((a >>> 16).setWidth 16).signExtend 32 := by
  refine BitVec.eq_of_toInt_eq ?_
  rw [BitVec.toInt_sshiftRight, BitVec.toInt_signExtend_of_le (by decide), BitVec.toInt_eq_toNat_bmod, BitVec.toInt_eq_toNat_bmod]
  simp only [BitVec.toNat_setWidth, BitVec.toNat_ushiftRight, Nat.shiftRight_eq_div_pow, Int.shiftRight_eq_div_pow, Int.bmod]
  have := a.isLt
  omega

theorem select (x neg : Bool) (a b : Word) : (if x != neg then a else b) = if x = neg then b else a := by
  cases x <;> cases neg <;> rfl

/-- Saturation gives the nearest value of the range, and SAT where that is another value (R100). -/
theorem satN_spec {n : Nat} (hn : 0 < n) (h32 : n ≤ 32) (x : Int) :
    (loS n ≤ x → x ≤ hiS n → (satN n x).1.toInt = x ∧ (satN n x).2 = 0)
      ∧ (x < loS n → (satN n x).1.toInt = loS n ∧ (satN n x).2 = fSAT)
      ∧ (hiS n < x → (satN n x).1.toInt = hiS n ∧ (satN n x).2 = fSAT) := by
  have hpow : (2 : Int) ^ (n - 1) ≤ 2 ^ 31 := pow_le_pow_right₀ (by decide) (by omega)
  have hone : (1 : Int) ≤ 2 ^ (n - 1) := one_le_pow₀ (by decide)
  have hfits {y : Int} (hlo : loS n ≤ y) (hhi : y ≤ hiS n) : (BitVec.ofInt 32 y).toInt = y := by
    unfold loS at hlo
    unfold hiS at hhi
    push_cast at hlo hhi
    rw [BitVec.toInt_ofInt, Int.bmod_eq_of_le] <;> omega
  have hends : loS n ≤ hiS n := by
    unfold loS hiS
    push_cast
    omega
  refine ⟨fun hlo hhi => ?_, fun hlow => ?_, fun hhigh => ?_⟩
  · simp [satN, satInt, Int.not_lt.mpr hlo, Int.not_lt.mpr hhi, hfits hlo hhi]
  · simp [satN, satInt, hlow, hfits (Int.le_refl _) hends]
  · have hlow : ¬ x < loS n := by omega
    simp [satN, satInt, hlow, hhigh, hfits hends (Int.le_refl _)]

/-! ### Instructions -/

section Issues
variable {s : State} {e : EngineId} {p : Pred} (h : Issues s e p)
include h

/-- An instruction that reads its engine delivers the value, however it is put. -/
theorem givesReg_of {rd : Reg} {lat : Nat} {c : Instr} {f : Engine → Word × BitVec 16} {x : Word × BitVec 16}
    (hc : Clear s e (.reg rd.toNat)) (hx : exec c s = issueReg s e p lat rd f) (hf : f (found s e) = x) :
    GivesReg c s e rd lat x := hf ▸ givesReg_issue h rd lat f hc c hx

theorem givesPred_of {pd : BitVec 3} {c : Instr} {f : Engine → Bool × BitVec 16} {x : Bool × BitVec 16}
    (hc : Clear s e (.pred pd.toNat)) (hx : exec c s = .next (issue s e p fun en => launchPred en pd.toNat (f en)))
    (hf : f (found s e) = x) : GivesPred c s e pd x := hf ▸ givesPred_issue h pd f hc c hx

/-- SHIFTI of the unlisted selection delivers a free value (notes/assumptions/2.md). -/
theorem exec_shifti_free {rd ra : Reg} {imm : BitVec 12} (hc : Clear s e (.reg rd.toNat)) (hsel : imm.toNat / 32 % 4 = 3) :
    ∃ t w, exec (.shifti e p rd ra imm) s = .next t
      ∧ t = { s with arr := { s.arr with engines := t.arr.engines }, draws := t.draws } ∧ PassesWord s t e
      ∧ RegFrom s t e rd 1 w ∧ Launches s t e (.reg rd.toNat) 1 0 := by
  let w := Config.freeWord s.draws
  let t := updEngine (updEngine (drawWord (setEngine s e (found s e))).2 e fun en => launchReg en 1 rd.toNat (w, 0)) e nextWord
  have hexec : exec (.shifti e p rd ra imm) s = .next t := by
    refine congrArg Host.Outcome.next ((issueS_eq h _).trans ?_)
    simp only [hsel, if_true, shiftImm]
    rfl
  have hkeeps (j : Nat) : engine (drawWord (setEngine s e (found s e))).2 j = engine (setEngine s e (found s e)) j := rfl
  have he : engine t e = nextWord (launchReg (found s e) 1 rd.toNat (w, 0)) := by
    rw [engine_updEngine, engine_updEngine, hkeeps, engine_setEngine]
  obtain ⟨hreg, hlaunch⟩ := regFrom_launch rd 1 (w, 0) (t := t)
    (he ▸ rfl) (he ▸ ⟨fun _ _ => rfl, fun _ _ => rfl, fun _ _ => rfl⟩) (he ▸ rfl) hc
  refine ⟨t, w, hexec, rfl, ⟨fun j hj => ?_, ?_⟩, hreg, hlaunch⟩
  · rw [engine_updEngine_other _ _ _ _ hj, engine_updEngine_other _ _ _ _ hj, hkeeps, engine_setEngine_other _ _ _ _ hj]
  · rw [he]; simp [nextWord, launchReg, launch]

/-- SHIFTI of a listed selection delivers its shift (R97). -/
theorem givesReg_shifti {rd ra : Reg} {imm : BitVec 12} (hc : Clear s e (.reg rd.toNat)) (hsel : imm.toNat / 32 % 4 ≠ 3) :
    GivesReg (.shifti e p rd ra imm) s e rd 1 (shiftImm (rreg (found s e) ra.toNat) imm 0, 0) := by
  refine givesReg_of h hc (f := fun en => (shiftImm (rreg en ra.toNat) imm 0, 0)) ?_ rfl
  refine congrArg Host.Outcome.next (issueS_congr h ?_)
  simp only [hsel, if_false]

end Issues

/-- Settles O1, each instruction by what it issues. -/
theorem integerInstructionsGiveTheirResults : Obligations.IntegerInstructionsGiveTheirResults := by
  refine ⟨?_, ?_⟩
  · intro s e p rd ra rb imm imm16 neg k h hc a b
    have gives {c : Instr} {f : Engine → Word × BitVec 16} {w : Word} (hx : exec c s = issueReg s e p 1 rd f)
        (hf : f (found s e) = (w, 0)) : GivesReg c s e rd 1 (w, 0) := givesReg_of h hc hx hf
    refine ⟨gives rfl rfl, gives rfl rfl, gives rfl rfl, gives rfl rfl, gives rfl rfl,
      gives rfl (congrArg (·, 0) (shiftLeft_low a b)), gives rfl (congrArg (·, 0) (shiftRight_low a b)),
      gives rfl (congrArg (·, 0) (sshiftRight_low a b)), gives rfl (congrArg (·, 0) (min_signed a b)),
      gives rfl (congrArg (·, 0) (max_signed a b)), gives rfl (congrArg (·, 0) (min_unsigned a b)),
      gives rfl (congrArg (·, 0) (max_unsigned a b)), gives rfl rfl, gives rfl (congrArg (·, 0) (low_half a)),
      gives rfl (congrArg (·, 0) (high_half a)), gives rfl rfl, gives rfl rfl, gives rfl rfl, gives rfl rfl, gives rfl rfl,
      gives rfl rfl, gives rfl (congrArg (·, 0) (select (rpred (found s e) k.toNat) neg a b))⟩
  · intro s e p rd ra imm h hc a n
    have gives {w : Word} (hsel : imm.toNat / 32 % 4 ≠ 3) (hw : shiftImm a imm 0 = w) :
        GivesReg (.shifti e p rd ra imm) s e rd 1 (w, 0) := hw ▸ givesReg_shifti h hc hsel
    refine ⟨fun hsel => ?_, fun hsel => ?_, fun hsel => ?_, exec_shifti_free h hc⟩ <;>
      exact gives (by omega) (by simp only [shiftImm, hsel]; rfl)

/-- Settles O2, each instruction by what it issues, saturation for either width by `satN_spec`. -/
theorem productsAndFixedPointGiveTheirResults : Obligations.ProductsAndFixedPointGiveTheirResults := by
  refine ⟨?_, fun x r hr => ?_⟩
  · intro s e p rd ra rb h hc a b qa qb
    exact ⟨givesReg_of h hc rfl rfl, givesReg_of h hc rfl rfl, givesReg_of h hc rfl rfl, givesReg_of h hc rfl rfl,
      givesReg_of h hc rfl rfl, givesReg_of h hc rfl rfl, givesReg_of h hc rfl rfl, givesReg_of h hc rfl rfl, givesReg_of h hc rfl rfl⟩
  · rcases List.mem_pair.mp hr with rfl | rfl
    · exact satN_spec (n := 16) (by decide) (by decide) x
    · exact satN_spec (n := 32) (by decide) (by decide) x

/-- Settles O4, each comparison and operation by what it issues. -/
theorem predicateInstructionsGiveTheirTruth : Obligations.PredicateInstructionsGiveTheirTruth := by
  intro s e p pd pa pb ra rb h hc a b x y
  have hne : (a != b) = decide (a ≠ b) := Bool.eq_iff_iff.mpr (by simp)
  exact ⟨givesPred_of h hc rfl rfl, givesPred_of h hc rfl (congrArg (·, 0) hne), givesPred_of h hc rfl rfl, givesPred_of h hc rfl rfl,
    givesPred_of h hc rfl rfl, givesPred_of h hc rfl rfl, givesPred_of h hc rfl rfl, givesPred_of h hc rfl rfl,
    givesPred_of h hc rfl rfl, givesPred_of h hc rfl rfl, givesPred_of h hc rfl rfl, givesPred_of h hc rfl rfl,
    givesPred_of h hc rfl rfl, givesPred_of h hc rfl rfl⟩

/-- Settles O7: FSQRT is issued as the others, its second operand being none. -/
theorem dividerTakesOneOperationAtATime : Obligations.DividerTakesOneOperationAtATime := by
  intro s e p rd ra rb h hc a b cx hcx
  simp only [List.mem_cons, List.not_mem_nil, or_false] at hcx
  rcases hcx with rfl | rfl | rfl | rfl
  · exact issueDiv_spec h rd ra rb fDiv hc _ rfl
  · exact issueDiv_spec h rd ra rb iDiv hc _ rfl
  · exact issueDiv_spec h rd ra rb uDiv hc _ rfl
  · exact issueDiv_spec h rd ra ra (fun a _ => fSqrt a) hc _ rfl

end Sys2Proof.Machine
end

section
/-! PROOFS. Accumulators (R93, R100), two multiply-accumulates in flight for one of them, and instructions whose predicate is
false (R88). -/
namespace Sys2Proof.Machine

/-! ### Two results in flight for one accumulator -/

/-- A result stands behind those that are due no later. -/
theorem insFlight_place (f : Flight) (l : List Flight) :
    ∃ a b, l = a ++ b ∧ insFlight f l = a ++ f :: b ∧ ∀ g ∈ a, g.due ≤ f.due := by
  induction l with
  | nil => exact ⟨[], [], rfl, rfl, nofun⟩
  | cons g t ih =>
    unfold insFlight
    split
    · exact ⟨[], g :: t, rfl, rfl, nofun⟩
    · next hg =>
      obtain ⟨a, b, hsplit, hins, hdue⟩ := ih
      refine ⟨g :: a, b, congrArg (g :: ·) hsplit, congrArg (g :: ·) hins, fun x hx => ?_⟩
      rcases List.mem_cons.mp hx with rfl | hx
      · simp at hg; omega
      · exact hdue x hx

/-- And so behind a list of those. -/
theorem insFlight_append {f : Flight} {a : List Flight} (h : ∀ g ∈ a, g.due < f.due) (b : List Flight) :
    insFlight f (a ++ b) = a ++ insFlight f b := by
  induction a with
  | nil => rfl
  | cons g a ih =>
    have hg := h g List.mem_cons_self
    have hpast : ¬(f.due < g.due || (f.due == g.due && decide (f.order < g.order))) = true := by simp; omega
    rw [List.cons_append, insFlight, if_neg hpast, ih fun x hx => h x (List.mem_cons_of_mem _ hx)]
    rfl

/-- The results up to an addend, the first for its accumulator, write the sum to it. -/
theorem settleAll_addend {all a b : List Flight} {f : Flight} {en : Engine} {k : Bool} {d : Int} (hdest : f.dest = .acc k)
    (hval : f.val = .addend d) (ha : ∀ g ∈ a, g.dest ≠ .acc k) (hc : clashes all f = false) :
    ∃ x, settleAll all (a ++ f :: b) en = settleAll all b x ∧ racc x k = (accAdd (racc en k) d).1 := by
  refine ⟨writeResult (settleAll all a en) f, ?_, ?_⟩
  · rw [settleAll_append, settleAll, hc]; rfl
  · have hkeeps : racc (settleAll all a en) k = racc en k :=
      view_settleAll (fun en => racc en k) (.acc k) (fun en g hg => (agreeOff_writeResult_self en g).2.2 k hg)
        (fun _ _ => rfl) all a en ha
    simp [writeResult, hdest, hval, hkeeps]

/-- Two addends due in consecutive cycles are added one after the other. -/
theorem racc_settleAll_two {a b c : List Flight} {f g : Flight} {en : Engine} {k : Bool} {x y : Int}
    (hf : f.dest = .acc k ∧ f.val = .addend x) (hg : g.dest = .acc k ∧ g.val = .addend y) (hdue : f.due ≠ g.due)
    (ha : ∀ z ∈ a ++ (b ++ c), z.dest ≠ .acc k) :
    racc (settleAll (a ++ f :: (b ++ g :: c)) (a ++ f :: (b ++ g :: c)) en) k = (accAdd (accAdd (racc en k) x).1 y).1 := by
  have hother {z : Flight} (hz : z ∈ a ∨ z ∈ b ∨ z ∈ c) : z.dest ≠ .acc k := ha z (by simpa using hz)
  have hclash {h : Flight} (hd : h.dest = .acc k) (hdue : ∀ z, z = f ∨ z = g → z.due = h.due → z = h) :
      clashes (a ++ f :: (b ++ g :: c)) h = false := by
    unfold clashes
    refine List.any_eq_false.mpr fun z hz hcl => ?_
    simp only [Bool.and_eq_true, beq_iff_eq, decide_eq_true_eq] at hcl
    obtain ⟨⟨⟨hzdue, hzdest⟩, horder⟩, -⟩ := hcl
    have hz' : z = f ∨ z = g ∨ (z ∈ a ∨ z ∈ b ∨ z ∈ c) := by
      simp only [List.mem_append, List.mem_cons] at hz; tauto
    rcases hz' with hz' | hz' | hz'
    · exact absurd horder (hdue z (.inl hz') hzdue ▸ Nat.lt_irrefl _)
    · exact absurd horder (hdue z (.inr hz') hzdue ▸ Nat.lt_irrefl _)
    · exact hother hz' (hzdest.trans hd)
  obtain ⟨u, hu, hru⟩ := settleAll_addend (b := b ++ g :: c) (en := en) hf.1 hf.2 (fun z hz => hother (.inl hz))
    (hclash hf.1 (by rintro z (rfl | rfl) he <;> [rfl; exact absurd he.symm hdue]))
  obtain ⟨v, hv, hrv⟩ := settleAll_addend (b := c) (en := u) hg.1 hg.2 (fun z hz => hother (.inr (.inl hz)))
    (hclash hg.1 (by rintro z (rfl | rfl) he <;> [exact absurd he hdue; rfl]))
  rw [hu, hv, view_settleAll (fun en => racc en k) (.acc k) (fun en g hg => (agreeOff_writeResult_self en g).2.2 k hg)
    (fun _ _ => rfl) _ c v (fun z hz => hother (.inr (.inr hz)))]
  exact hrv.trans (by rw [hru])

/-- Two multiply-accumulates into one accumulator in consecutive cycles: each adds to the result of the one before (R93). -/
theorem racc_two_macs {en : Engine} {k : Bool} (hclear : ∀ g ∈ en.flight, g.dest ≠ .acc k) (x y : Int) :
    let t := settle (nextWord (launch en 3 (.acc k) (.addend x) 0)) (en.cycle + 1)
    racc (settle (nextWord (launch t 3 (.acc k) (.addend y) 0)) (en.cycle + 4)) k = (accAdd (accAdd (racc en k) x).1 y).1 := by
  intro t
  obtain ⟨f, hf⟩ : ∃ f : Flight, f = ⟨en.cycle + 3, en.issued, .acc k, .addend x, 0⟩ := ⟨_, rfl⟩
  obtain ⟨g, hg⟩ : ∃ g : Flight, g = ⟨t.cycle + 3, t.issued, .acc k, .addend y, 0⟩ := ⟨_, rfl⟩
  obtain ⟨a, b, hab, hins, hdue⟩ := insFlight_place f en.flight
  have htcycle : t.cycle = en.cycle + 1 := settle_cycle _ _
  have hlate (l : List Flight) : (l.filter fun h => decide (en.cycle + 1 < h.due)) ⊆ l := fun _ hx => (List.mem_filter.mp hx).1
  have htflight : t.flight = (a.filter fun h => decide (en.cycle + 1 < h.due))
      ++ f :: b.filter fun h => decide (en.cycle + 1 < h.due) := by
    have hfl : (nextWord (launch en 3 (.acc k) (.addend x) 0)).flight = insFlight f en.flight := by rw [hf]; rfl
    have hfd : decide (en.cycle + 1 < f.due) = true := by simp [hf]
    rw [settle_flight, hfl, hins, List.filter_append, List.filter_cons, if_pos hfd]
  set a' := a.filter fun h => decide (en.cycle + 1 < h.due) with ha'
  set b' := b.filter fun h => decide (en.cycle + 1 < h.due) with hb'
  obtain ⟨b₁, b₂, hb, hinsb, -⟩ := insFlight_place g b'
  have hplace : insFlight g t.flight = a' ++ f :: (b₁ ++ g :: b₂) := by
    have hgdue : g.due = en.cycle + 4 := by simp [hg, htcycle]
    have hfdue : f.due = en.cycle + 3 := by simp [hf]
    rw [htflight, show a' ++ f :: b' = (a' ++ [f]) ++ b' by simp, insFlight_append, hinsb]
    · simp
    · intro z hz
      rcases List.mem_append.mp hz with hz | hz
      · have := hdue z (hlate _ hz)
        omega
      · rw [List.mem_singleton.mp hz]; omega
  have hall (z : Flight) (hz : z ∈ a' ++ (b₁ ++ b₂)) : z.dest ≠ .acc k := by
    rw [← hb] at hz
    refine hclear z (hab ▸ ?_)
    rcases List.mem_append.mp hz with hz | hz
    · exact List.mem_append_left _ (hlate _ hz)
    · exact List.mem_append_right _ (hlate _ hz)
  have hfl : (nextWord (launch t 3 (.acc k) (.addend y) 0)).flight = a' ++ f :: (b₁ ++ g :: b₂) := by
    rw [← hplace, hg]; rfl
  have hfd : decide (f.due ≤ en.cycle + 4) = true := by simp [hf]
  have hgd : decide (g.due ≤ en.cycle + 4) = true := by simp [hg, htcycle]
  have hstart : racc t k = racc en k := (racc_settle_launchAdd en 1 k x 0 hclear).trans (if_neg (by decide))
  unfold settle
  rw [hfl, List.filter_append, List.filter_cons, if_pos hfd, List.filter_append, List.filter_cons, if_pos hgd]
  refine (racc_settleAll_two (x := x) (y := y) (by simp [hf]) (by simp [hg]) (by simp [hf, hg, htcycle]) fun z hz => ?_).trans ?_
  · rw [← List.filter_append, ← List.filter_append] at hz
    exact hall z (List.mem_filter.mp hz).1
  · exact congrArg (fun r => (accAdd (accAdd r x).1 y).1) hstart

/-- Settles O6: each instruction by what it issues, the two by the results they have in flight. -/
theorem accumulatorInstructionsGiveTheirResults : Obligations.AccumulatorInstructionsGiveTheirResults := by
  refine ⟨?_, fun s t e p q acc ra rb rc rd h hc ht hq => ?_⟩
  · intro s e p acc rd ra rb shift h a b qa qb old
    refine ⟨fun hc => ?_, fun hc => ?_⟩
    · exact ⟨givesAcc_issue h acc (fun _ => 0) hc _ rfl,
        givesAcc_issue h acc (fun en => (rreg en ra.toNat).signExtend 64) hc _ rfl,
        givesAcc_issueAdd h acc (fun en => (rreg en ra.toNat).toInt * (rreg en rb.toNat).toInt) hc _ rfl,
        givesAcc_issueAdd h acc (fun en => -((rreg en ra.toNat).toInt * (rreg en rb.toNat).toInt)) hc _ rfl,
        givesAcc_issueAdd h acc (fun en => q15 (rreg en ra.toNat) * q15 (rreg en rb.toNat)) hc _ rfl,
        givesAcc_issueAdd h acc (fun en => -(q15 (rreg en ra.toNat) * q15 (rreg en rb.toNat))) hc _ rfl⟩
    · have hzero : shift = 0 ↔ shift.toNat = 0 :=
        ⟨fun hz => hz ▸ rfl, fun hz => BitVec.eq_of_toNat_eq (by simpa using hz)⟩
      exact givesReg_of h hc rfl (by simp only [accRead, hzero]; rfl)
  · refine ⟨_, rfl, ?_⟩
    obtain rfl := Host.Outcome.next.inj ht
    set t := issue s e p fun en =>
      launch en 3 (.acc acc) (.addend ((rreg en ra.toNat).toInt * (rreg en rb.toNat).toInt)) 0 with ht
    have het : engine t e = nextWord (launch (found s e) 3 (.acc acc)
        (.addend ((rreg (found s e) ra.toNat).toInt * (rreg (found s e) rb.toNat).toInt)) 0) := engine_issue s e p _ h.1 h.2
    have hcyc : (engine t e).cycle = (found s e).cycle + 1 := by rw [het]; rfl
    have hfound : found t e = settle (engine t e) ((found s e).cycle + 1) := by unfold found; rw [hcyc]; rfl
    have heu := engine_issue t e q (fun en =>
      launch en 3 (.acc acc) (.addend ((rreg en rc.toNat).toInt * (rreg en rd.toNat).toInt)) 0) hq.1 hq.2
    unfold after
    refine (congrArg (fun x => racc (settle x _) acc) heu).trans ?_
    rw [hcyc]
    have := racc_two_macs (en := found s e) hc ((rreg (found s e) ra.toNat).toInt * (rreg (found s e) rb.toNat).toInt)
      ((rreg (found t e) rc.toNat).toInt * (rreg (found t e) rd.toNat).toInt)
    rw [← het, ← hfound] at this
    exact this

/-- Settles O9. -/
theorem falsePredicateOnlyPasses : Obligations.FalsePredicateOnlyPasses := by
  refine ⟨fun c s e p hp hm hfalse => ?_, fun s e hm => ?_, fun s e w hm hw => ⟨fun hfalse => ?_, fun htrue => ?_⟩⟩
  · obtain ⟨body, hb⟩ := exec_predOf c s e p hp
    exact onlyPasses_issueS hb hm hfalse
  · have h : Issues s e always := ⟨hm, rfl⟩
    refine ⟨_, rfl, onlyEngines_issue _ _ _ _ hm, passes_of ?_ fun j hj => engine_issue_other _ _ _ _ _ hm hj⟩
    exact engine_issue _ _ _ _ h.1 h.2
  · have hb : exec (.unlistedOpcode e w) s
        = .next (issueS s e (wPred w) fun s => updEngine s e fun en => setFlags en fILL) := by
      refine congrArg Host.Outcome.next ?_
      rw [hw]; rfl
    exact onlyPasses_issueS hb hm hfalse
  · have h : Issues s e (wPred w) := ⟨hm, htrue⟩
    have hb : exec (.unlistedOpcode e w) s = .next (issue s e (wPred w) fun en => setFlags en fILL) := by
      refine congrArg Host.Outcome.next ?_
      rw [hw]; rfl
    obtain ⟨hpass, hdiv, hstps, hflag⟩ := issue_setFlags h fILL
    exact ⟨_, hb, onlyEngines_issue _ _ _ _ hm, hpass, hdiv, hstps, hflag⟩

end Sys2Proof.Machine
end

section
/-! PROOFS. FP32 (R101 to R103): rounding gives back every normal word from its value, so a result that FP32 represents is
delivered exactly; and what a NaN operand gives. -/
namespace Sys2Proof.Machine

/-! ### Powers of two and quotients -/

theorem pow2_eq_zpow (e : Int) : pow2 e = (2 : Rat) ^ e := by
  cases e with
  | ofNat n => simp [pow2]
  | negSucc n => simp [pow2, zpow_negSucc, Rat.mkRat_eq_div]

/-- A quotient times a power of two that is whole is found exactly. -/
theorem divRne_exact {d : Nat} (hd : 0 < d) (m : Nat) : divRne (m * d) d = m := by
  simp [divRne, Nat.mul_div_cancel _ hd, hd]

theorem scaleRne_exact {n d m : Nat} (hd : 0 < d) {k : Int} (h : (n : Rat) / d * 2 ^ k = m) : scaleRne n d k = m := by
  have hd' : (d : Rat) ≠ 0 := by positivity
  cases k with
  | ofNat j =>
    have hmul : n * 2 ^ j = m * d := by
      rw [Int.ofNat_eq_natCast, zpow_natCast, div_mul_eq_mul_div, div_eq_iff hd'] at h
      exact_mod_cast h
    rw [scaleRne, hmul, divRne_exact hd]
  | negSucc j =>
    have hmul : n = m * (d * 2 ^ (j + 1)) := by
      rw [zpow_negSucc, ← div_eq_mul_inv, div_div, div_eq_iff (by positivity)] at h
      exact_mod_cast h
    rw [scaleRne, hmul, divRne_exact (by positivity)]

/-- Powers of two bound a value from one place only. -/
theorem zpow_two_unique {x : Rat} {e f : Int} (he : (2 : Rat) ^ e ≤ x ∧ x < 2 ^ (e + 1)) (hf : (2 : Rat) ^ f ≤ x ∧ x < 2 ^ (f + 1)) :
    e = f := by
  have h1 : e < f + 1 := (zpow_lt_zpow_iff_right₀ (by norm_num : (1 : Rat) < 2)).mp (he.1.trans_lt hf.2)
  have h2 : f < e + 1 := (zpow_lt_zpow_iff_right₀ (by norm_num : (1 : Rat) < 2)).mp (hf.1.trans_lt he.2)
  omega

theorem log2_bounds {n : Nat} (hn : n ≠ 0) : (2 : Rat) ^ (Nat.log2 n : Int) ≤ n ∧ (n : Rat) < 2 ^ ((Nat.log2 n : Int) + 1) := by
  constructor
  · rw [zpow_natCast]; exact_mod_cast Nat.log2_self_le hn
  · rw [show ((Nat.log2 n : Int) + 1) = ((Nat.log2 n + 1 : Nat) : Int) by push_cast; rfl, zpow_natCast]
    exact_mod_cast Nat.lt_log2_self

/-- Whether a quotient reaches a power of two, as `log2Ratio` asks. -/
def reaches (n d : Nat) (e : Int) : Bool :=
  match e with
  | .ofNat k => decide (d * 2 ^ k ≤ n)
  | .negSucc k => decide (d ≤ n * 2 ^ (k + 1))

theorem log2Ratio_def (n d : Nat) : log2Ratio n d = if reaches n d ((Nat.log2 n : Int) - Nat.log2 d) = true
    then (Nat.log2 n : Int) - Nat.log2 d else (Nat.log2 n : Int) - Nat.log2 d - 1 := rfl

theorem reaches_iff {n d : Nat} (hd : d ≠ 0) {e : Int} : reaches n d e = true ↔ (2 : Rat) ^ e ≤ (n : Rat) / d := by
  have hd' : (0 : Rat) < d := by positivity
  cases e with
  | ofNat k =>
    rw [reaches, decide_eq_true_iff, Int.ofNat_eq_natCast, zpow_natCast, le_div_iff₀ hd', mul_comm]
    exact_mod_cast Iff.rfl
  | negSucc k =>
    rw [reaches, decide_eq_true_iff, zpow_negSucc, inv_eq_one_div, div_le_div_iff₀ (by positivity) hd', one_mul]
    exact_mod_cast Iff.rfl

/-- The logarithm found is the floor of the binary logarithm of the quotient. -/
theorem log2Ratio_eq {n d : Nat} (hn : n ≠ 0) (hd : d ≠ 0) {e : Int} (he : (2 : Rat) ^ e ≤ (n : Rat) / d ∧ (n : Rat) / d < 2 ^ (e + 1)) :
    log2Ratio n d = e := by
  have hd' : (0 : Rat) < d := by positivity
  obtain ⟨hnlo, hnhi⟩ := log2_bounds hn
  obtain ⟨hdlo, hdhi⟩ := log2_bounds hd
  have hhigh : (n : Rat) / d < 2 ^ ((Nat.log2 n : Int) - Nat.log2 d + 1) := by
    rw [div_lt_iff₀ hd', show (Nat.log2 n : Int) - Nat.log2 d + 1 = (Nat.log2 n + 1) - Nat.log2 d by ring, zpow_sub₀ (by norm_num),
      div_mul_eq_mul_div, lt_div_iff₀ (by positivity)]
    exact mul_lt_mul hnhi hdlo (by positivity) (by positivity)
  have hlow : (2 : Rat) ^ ((Nat.log2 n : Int) - Nat.log2 d - 1) < (n : Rat) / d := by
    rw [lt_div_iff₀ hd', show (Nat.log2 n : Int) - Nat.log2 d - 1 = Nat.log2 n - (Nat.log2 d + 1) by ring, zpow_sub₀ (by norm_num),
      div_mul_eq_mul_div, div_lt_iff₀ (by positivity)]
    exact mul_lt_mul' hnlo hdhi (by positivity) (by positivity)
  rw [log2Ratio_def]
  by_cases h : (2 : Rat) ^ ((Nat.log2 n : Int) - Nat.log2 d) ≤ n / d
  · rw [if_pos ((reaches_iff hd).mpr h)]
    exact zpow_two_unique ⟨h, hhigh⟩ he
  · rw [if_neg (h ∘ (reaches_iff hd).mp)]
    exact zpow_two_unique ⟨hlow.le, by simpa using h⟩ he

/-! ### The value of a normal word -/

section Normal
variable {w : Word} (hexp : f32Exp w ≠ 0) (hfin : f32Exp w ≠ 255)
include hexp hfin

/-- Sign and magnitude. -/
theorem f32Val_normal : f32Val w = (if f32Neg w then -1 else 1) * (((2 ^ 23 + f32Frac w : Nat) : Rat) * 2 ^ ((f32Exp w : Int) - 150)) := by
  unfold f32Val
  have hno : (f32Exp w = 0 || f32Exp w = 255) = false := by simp [hexp, hfin]
  simp only [hno, Bool.false_eq_true, if_false, pow2_eq_zpow]
  split <;> ring

theorem f32Val_natAbs : ((f32Val w).num.natAbs : Rat) / (f32Val w).den = ((2 ^ 23 + f32Frac w : Nat) : Rat) * 2 ^ ((f32Exp w : Int) - 150) := by
  have hpos : 0 ≤ ((2 ^ 23 + f32Frac w : Nat) : Rat) * 2 ^ ((f32Exp w : Int) - 150) := by positivity
  have habs : |f32Val w| = ((f32Val w).num.natAbs : Rat) / (f32Val w).den := by
    rw [Rat.abs_def, Rat.divInt_eq_div, Int.cast_natCast, Int.cast_natCast]
  rw [← habs, f32Val_normal hexp hfin, abs_mul, abs_of_nonneg hpos]
  split <;> simp

theorem f32Val_neg : decide ((f32Val w).num < 0) = f32Neg w := by
  have hpos : 0 < ((2 ^ 23 + f32Frac w : Nat) : Rat) * 2 ^ ((f32Exp w : Int) - 150) := by positivity
  rw [Bool.eq_iff_iff, decide_eq_true_iff, Rat.num_neg, f32Val_normal hexp hfin]
  cases f32Neg w
  · simpa using hpos.le
  · simpa using hpos

theorem f32Val_ne_zero : f32Val w ≠ 0 := by
  rw [f32Val_normal hexp hfin]
  refine mul_ne_zero ?_ (by positivity)
  split <;> norm_num

end Normal

/-- A word is its sign, its exponent and its fraction. -/
theorem f32_fields (w : Word) : signWord (f32Neg w) ||| BitVec.ofNat 32 (f32Exp w * 2 ^ 23 + f32Frac w) = w := by
  have hw := w.isLt
  refine BitVec.eq_of_toNat_eq ?_
  have hlow : f32Exp w * 2 ^ 23 + f32Frac w = w.toNat % 2 ^ 31 := by unfold f32Exp f32Frac; omega
  rw [hlow, BitVec.toNat_or, BitVec.toNat_ofNat, Nat.mod_eq_of_lt (by omega)]
  by_cases hneg : 2 ^ 31 ≤ w.toNat
  · have hsign : (signWord (f32Neg w)).toNat = 2 ^ 31 := by rw [f32Neg, decide_eq_true hneg]; rfl
    have hsum : w.toNat = 2 ^ 31 * 1 + w.toNat % 2 ^ 31 := by omega
    rw [hsign, ← Nat.mul_one (2 ^ 31), ← Nat.two_pow_add_eq_or_of_lt (by omega)]
    exact hsum.symm
  · have hsign : (signWord (f32Neg w)).toNat = 0 := by rw [f32Neg, decide_eq_false hneg]; rfl
    rw [hsign, Nat.zero_or, Nat.mod_eq_of_lt (by omega)]

/-- Rounding gives every normal word back from its value (R101). -/
theorem f32Round_f32Val (z : Bool) {w : Word} (hexp : f32Exp w ≠ 0) (hfin : f32Exp w ≠ 255) : f32Round z (f32Val w) = (w, 0) := by
  have hx := f32Val_natAbs hexp hfin
  have hne : (f32Val w).num ≠ 0 := Rat.num_ne_zero.mpr (f32Val_ne_zero hexp hfin)
  have hfrac : f32Frac w < 2 ^ 23 := Nat.mod_lt _ (by decide)
  have hexp8 : f32Exp w < 256 := Nat.mod_lt _ (by decide)
  have hlog : log2Ratio (f32Val w).num.natAbs (f32Val w).den = (f32Exp w : Int) - 127 := by
    refine log2Ratio_eq (by simpa using hne) (Rat.den_ne_zero _) ?_
    have hcast : ((2 ^ 23 : Nat) : Rat) = (2 : Rat) ^ (23 : Int) := by norm_num
    have hlo : ((2 ^ 23 : Nat) : Rat) ≤ (2 ^ 23 + f32Frac w : Nat) := by exact_mod_cast Nat.le_add_right _ _
    have hhi : ((2 ^ 23 + f32Frac w : Nat) : Rat) < ((2 ^ 24 : Nat) : Rat) := by exact_mod_cast (by omega)
    have hscale (k : Nat) : (2 : Rat) ^ ((f32Exp w : Int) - 150 + k) = ((2 ^ k : Nat) : Rat) * 2 ^ ((f32Exp w : Int) - 150) := by
      rw [zpow_add₀ (by norm_num), mul_comm, zpow_natCast]; norm_cast
    rw [hx, show (f32Exp w : Int) - 127 = (f32Exp w : Int) - 150 + (23 : Nat) by push_cast; ring,
      show (f32Exp w : Int) - 150 + (23 : Nat) + 1 = (f32Exp w : Int) - 150 + (24 : Nat) by push_cast; ring, hscale, hscale]
    exact ⟨mul_le_mul_of_nonneg_right hlo (by positivity), mul_lt_mul_of_pos_right hhi (by positivity)⟩
  have hscale : scaleRne (f32Val w).num.natAbs (f32Val w).den (23 - ((f32Exp w : Int) - 127)) = 2 ^ 23 + f32Frac w := by
    refine scaleRne_exact (Rat.den_pos _) ?_
    rw [hx, mul_assoc, ← zpow_add₀ (by norm_num), show (f32Exp w : Int) - 150 + (23 - ((f32Exp w : Int) - 127)) = 0 by ring, zpow_zero, mul_one]
  unfold f32Round
  simp only [hne, if_false, hlog, hscale, f32Val_neg hexp hfin]
  have hnormal : ¬ (f32Exp w : Int) - 127 < -126 := by omega
  have hcarry : ¬ 2 ^ 23 + f32Frac w = 2 ^ 24 := by omega
  have hover : ¬ 127 < (f32Exp w : Int) - 127 := by omega
  simp only [hnormal, hcarry, hover, if_false, Int.sub_add_cancel, Int.toNat_natCast, Nat.add_sub_cancel_left, f32_fields]

/-! ### The operations -/

/-- A word of a finite value is no NaN and no infinity. -/
theorem f32_finite {w : Word} (h : f32Exp w ≠ 255) : f32IsNaN w = false ∧ f32IsInf w = false := by
  simp [f32IsNaN, f32IsInf, h]

/-- The negation of FSUB and FNEG changes the sign of the value. -/
theorem f32Val_fNegW (w : Word) : f32Val (fNegW w) = -f32Val w ∧ f32Exp (fNegW w) = f32Exp w := by
  have hw := w.isLt
  have hlow : (fNegW w).toNat % 2 ^ 31 = w.toNat % 2 ^ 31 := by
    rw [fNegW, BitVec.toNat_xor, Nat.xor_mod_two_pow]
    exact Nat.xor_zero _
  have hneg : f32Neg (fNegW w) = !f32Neg w := by
    have hmsb (x : Word) : f32Neg x = x.msb := (BitVec.msb_eq_decide x).symm
    rw [hmsb, hmsb, fNegW, BitVec.msb_xor]
    exact Bool.xor_true _
  have hexp : f32Exp (fNegW w) = f32Exp w := by unfold f32Exp; omega
  have hfrac : f32Frac (fNegW w) = f32Frac w := by unfold f32Frac; omega
  refine ⟨?_, hexp⟩
  unfold f32Val
  rw [hexp, hfrac, hneg]
  cases f32Neg w <;> split <;> simp

section Finite
variable {a b d w : Word} (ha : f32Exp a ≠ 255) (hb : f32Exp b ≠ 255) (hw : f32Exp w ≠ 255) (hw0 : f32Exp w ≠ 0)
include ha hb hw hw0

theorem fAdd_exact (h : f32Val a + f32Val b = f32Val w) : fAdd a b = (w, 0) := by
  simp only [fAdd, f32_finite ha, f32_finite hb, Bool.or_false, Bool.false_eq_true, if_false, h, f32Round_f32Val _ hw0 hw]

theorem fSub_exact (h : f32Val a - f32Val b = f32Val w) : fSub a b = (w, 0) := by
  obtain ⟨hval, hexp⟩ := f32Val_fNegW b
  exact fAdd_exact ha (hexp ▸ hb) hw hw0 (by rw [hval, ← sub_eq_add_neg, h])

theorem fMul_exact (h : f32Val a * f32Val b = f32Val w) : fMul a b = (w, 0) := by
  simp only [fMul, f32_finite ha, f32_finite hb, Bool.or_false, Bool.false_eq_true, if_false, h, f32Round_f32Val _ hw0 hw]

theorem fDiv_exact (h : f32Val a / f32Val b = f32Val w) : fDiv a b = (w, 0) := by
  have hz : f32IsZero b = false := by
    by_contra hz
    have hb0 : f32Val b = 0 := by
      have : f32Exp b = 0 := by simpa [f32IsZero] using hz
      simp [f32Val, this]
    exact f32Val_ne_zero hw0 hw (by rw [← h, hb0, div_zero])
  simp only [fDiv, f32_finite ha, f32_finite hb, hz, Bool.or_false, Bool.false_eq_true, if_false, h, f32Round_f32Val _ hw0 hw]

theorem fFma_exact (hd : f32Exp d ≠ 255) (h : f32Val a * f32Val b + f32Val d = f32Val w) : fFma a b d = (w, 0) := by
  simp only [fFma, f32_finite ha, f32_finite hb, f32_finite hd, Bool.or_false, Bool.false_eq_true, if_false, h,
    f32Round_f32Val _ hw0 hw]

end Finite

/-- Settles O3: a NaN operand is met first, an exact result by `f32Round_f32Val`. -/
theorem floatInstructionsGiveTheirResults : Obligations.FloatInstructionsGiveTheirResults := by
  refine ⟨?_, fun a b d w => ⟨fun hnan => ?_, fun ha hb hw hw0 => ?_⟩⟩
  · intro s e p rd ra rb h hc a b d
    exact ⟨givesReg_of h hc rfl rfl, givesReg_of h hc rfl rfl, givesReg_of h hc rfl rfl, givesReg_of h hc rfl rfl,
      givesReg_of h hc rfl rfl, givesReg_of h hc rfl rfl, givesReg_of h hc rfl rfl, givesReg_of h hc rfl rfl,
      givesReg_of h hc rfl rfl, givesReg_of h hc rfl rfl, givesReg_of h hc rfl rfl, givesReg_of h hc rfl rfl,
      givesReg_of h hc rfl rfl, givesReg_of h hc rfl rfl, givesReg_of h hc rfl rfl⟩
  · refine ⟨?_, ?_, ?_, ?_, ?_, ?_⟩
    · simp only [fAdd, hnan, Bool.true_or, if_true]; rfl
    · simp only [fSub, fAdd, hnan, Bool.true_or, if_true]; rfl
    · simp only [fMul, hnan, Bool.true_or, if_true]; rfl
    · simp only [fDiv, hnan, Bool.true_or, if_true]; rfl
    · simp only [fFma, hnan, Bool.true_or, if_true]; rfl
    · simp only [fSqrt, hnan, if_true]; rfl
  · exact ⟨fAdd_exact ha hb hw hw0, fSub_exact ha hb hw hw0, fMul_exact ha hb hw hw0, fDiv_exact ha hb hw hw0,
      fFma_exact ha hb hw hw0⟩

end Sys2Proof.Machine
end

section
/-! PROOFS. Shared memory (R63, R109): what LDS, LDSD, STS and STSD deliver and leave inside a granted window. -/
namespace Sys2Proof.Machine

/-! ### Words and addresses -/

/-- A word from its four bytes, the lowest first. -/
theorem ofNat_leNat (b₀ b₁ b₂ b₃ : Byte) : BitVec.ofNat 32 (leNat [b₀, b₁, b₂, b₃]) = b₃ ++ b₂ ++ b₁ ++ b₀ := by
  have h : wordAt [(0, b₀), (1, b₁), (2, b₂), (3, b₃)] 0 = b₃ ++ b₂ ++ b₁ ++ b₀ := rfl
  rw [← h, ← mword_eq_wordAt]
  rfl

theorem shmWord_bytes (s : State) (sl a : Nat) :
    shmWord s sl a = shmByte s sl (a + 3) ++ shmByte s sl (a + 2) ++ shmByte s sl (a + 1) ++ shmByte s sl a :=
  ofNat_leNat _ _ _ _

/-- The address of LDS and STS: bits 15:2 of the computed address. -/
theorem shm_address (a : Word) : (a &&& 0xFFFC).toNat = a.toNat / 4 % 16384 * 4 :=
  toNat_mask a 16 2 0xFFFC (by decide) (by decide) (by decide)

/-- The address of LDSD and STSD: bits 15:3. -/
theorem shm_address_double (a : Word) : (a &&& 0xFFF8).toNat = a.toNat / 8 % 8192 * 8 :=
  toNat_mask a 16 3 0xFFF8 (by decide) (by decide) (by decide)

/-- A double word lies in the bank of its words. -/
theorem bankOf_double (a : Nat) : bankOf (a / 8 % 8192 * 8) = a / 4 % 16384 * 4 / 4096 ∧ bankOf (a / 4 % 16384 * 4) = a / 4 % 16384 * 4 / 4096 := by
  unfold bankOf; omega

/-- A word and its double word bear one check. -/
theorem shmEccKey_word (sl a : Nat) : shmEccKey sl (a / 4 % 16384 * 4) = shmEccKey sl (a / 8 % 8192 * 8) := by
  unfold shmEccKey; omega

/-- A store of two words in turn. -/
theorem mputWord_two (m : Mem) (a : Nat) (w v : Word) : wordAt (mputWord (mputWord m a w) (a + 4) v) a = w
    ∧ wordAt (mputWord (mputWord m a w) (a + 4) v) (a + 4) = v ∧ SameOutside m (mputWord (mputWord m a w) (a + 4) v) a 8 := by
  refine ⟨?_, wordAt_mputWord _ _ _, fun x hx => ?_⟩
  · rw [wordAt_mputWord_apart _ _ _ _ (.inl (Nat.le_refl _)), wordAt_mputWord]
  · rw [sameOutside_mputWord _ _ _ _ (by omega), sameOutside_mputWord _ _ _ _ (by omega)]

theorem shmKey_add (sl a : Nat) : shmKey sl (a + 4) = shmKey sl a + 4 := (Nat.add_assoc _ _ _).symm

/-! ### The instructions -/

/-- An access of a clean double word has no effect. -/
theorem shmAccess_clean {s : State} {e a : Nat} (h : upsetAt s (shmEccKey (e / 32) a) = 0) : shmAccess s e a = s := by
  simp only [shmAccess, shmEcc, eccAccess, h]

theorem eccWord_clean {s : State} {k : Nat} (w : Word) (h : upsetAt s k = 0) : eccWord s k w = (w, s) := by
  simp [eccWord, h]

section Access
variable {s : State} {e : EngineId} {p : Pred} {rd ra : Reg} {imm : BitVec 12} (h : Issues s e p)
  {a : Nat} (ha : (effAddr (found s e) ra imm).toNat = a)
include h ha

theorem exec_lds (hw : windowOk s e (bankOf (a / 4 % 16384 * 4)) (engine s e).cycle false = true)
    (hc : upsetAt s (shmEccKey (e / 32) (a / 4 % 16384 * 4)) = 0) :
    exec (.lds e p rd ra imm) s = issueReg s e p 4 rd fun _ => (shmWord s (e / 32) (a / 4 % 16384 * 4), 0) := by
  refine congrArg Host.Outcome.next (issueS_congr h ?_)
  have hc' : upsetAt (setEngine s e (found s e)) (shmEccKey (e / 32) (a / 4 % 16384 * 4)) = 0 := hc
  simp only [engine_setEngine, ha, windowOk_setEngine, found_cycle, hw, if_true, shmLoad, shmAccess_clean hc', eccWord_clean _ hc']
  rfl

theorem exec_ldsd (hw : windowOk s e (bankOf (a / 8 % 8192 * 8)) (engine s e).cycle false = true)
    (hc : upsetAt s (shmEccKey (e / 32) (a / 8 % 8192 * 8)) = 0) :
    exec (.ldsd e p rd ra imm) s = .next (issue s e p fun en =>
      launchReg (launchReg en 4 (pairLo rd.toNat) (shmWord s (e / 32) (a / 8 % 8192 * 8), 0)) 4 (pairLo rd.toNat + 1)
        (shmWord s (e / 32) (a / 8 % 8192 * 8 + 4), 0)) := by
  refine congrArg Host.Outcome.next (issueS_congr h ?_)
  have hc' : upsetAt (setEngine s e (found s e)) (shmEccKey (e / 32) (a / 8 % 8192 * 8)) = 0 := hc
  simp only [engine_setEngine, ha, windowOk_setEngine, found_cycle, hw, if_true, shmLoad, shmAccess_clean hc', eccWord_clean _ hc']
  rfl

theorem exec_sts (hw : windowOk s e (bankOf (a / 4 % 16384 * 4)) (engine s e).cycle true = true)
    (hc : upsetAt s (shmEccKey (e / 32) (a / 4 % 16384 * 4)) = 0) :
    exec (.sts e p rd ra imm) s = .next (issueS s e p fun u =>
      shmPut u (e / 32) (a / 4 % 16384 * 4) (rreg (found s e) rd.toNat)) := by
  refine congrArg Host.Outcome.next (issueS_congr h ?_)
  have hc' : upsetAt (setEngine s e (found s e)) (shmEccKey (e / 32) (a / 4 % 16384 * 4)) = 0 := hc
  simp only [engine_setEngine, stsAddr, ha, windowOk_setEngine, found_cycle, hw, if_true, shmHalf, shmAccess_clean hc', hc']
  rfl

theorem exec_stsd (hw : windowOk s e (bankOf (a / 8 % 8192 * 8)) (engine s e).cycle true = true) :
    exec (.stsd e p rd ra imm) s = .next (issueS s e p fun u =>
      setUpset (shmPut (shmPut u (e / 32) (a / 8 % 8192 * 8) (rreg (found s e) (pairLo rd.toNat))) (e / 32) (a / 8 % 8192 * 8 + 4)
        (rreg (found s e) (pairLo rd.toNat + 1))) (shmEccKey (e / 32) (a / 8 % 8192 * 8)) 0) := by
  refine congrArg Host.Outcome.next (issueS_congr h ?_)
  simp only [engine_setEngine, stsdAddr, ha, windowOk_setEngine, found_cycle, hw, if_true]

end Access

/-- A pair that an engine launches from what it holds. -/
theorem launchesPair_issue {s : State} {e : Nat} {p : Pred} (h : Issues s e p) (rd : Reg) (lat : Nat) (lo hi : Word)
    (c₁ : Clear s e (.reg (rd &&& 0x1E).toNat)) (c₂ : Clear s e (.reg (rd ||| 1).toNat)) :
    LaunchesPair s (issue s e p fun en =>
      launchReg (launchReg en lat (pairLo rd.toNat) (lo, 0)) lat (pairLo rd.toNat + 1) (hi, 0)) e rd lat lo hi := by
  have he := engine_issue s e p (fun en =>
    launchReg (launchReg en lat (pairLo rd.toNat) (lo, 0)) lat (pairLo rd.toNat + 1) (hi, 0)) h.1 h.2
  refine launchesPair_of rd lat lo hi (by rw [he]; rfl) (by rw [he]; exact ⟨fun _ _ => rfl, fun _ _ => rfl, fun _ _ => rfl⟩)
    (by rw [he]; rfl) (passesWord_issue h ⟨rfl, rfl, rfl, rfl⟩) ?_ ?_ c₁ c₂
  · rw [he]; exact found_divFree s e
  · rw [he]; exact found_stps s e

/-- Settles O11, one instruction at a time. -/
theorem sharedMemoryLoadsAndStores : Obligations.SharedMemoryLoadsAndStores := by
  intro s e p rd ra imm h a x z sl key word
  generalize hn : (effAddr (found s e) ra imm).toNat = n
  have hx : x = n / 4 % 16384 * 4 := hn ▸ shm_address _
  have hz : z = n / 8 % 8192 * 8 := hn ▸ shm_address_double _
  obtain ⟨hbankz, hbankx⟩ := bankOf_double n
  have hkey : key = shmEccKey (e / 32) (n / 8 % 8192 * 8) := by rw [← hz]
  have hword (k : Nat) : word k = shmWord s (e / 32) k := (shmWord_bytes s (e / 32) k).symm
  have hbase (k : Nat) : 65536 * sl + k = shmKey (e / 32) k := congrArg (· + k) (Nat.mul_comm _ _)
  rw [hx, hz, hkey]
  refine ⟨fun hw hc => ⟨fun hclear => ?_, fun c₁ c₂ => ?_⟩, fun hw => ⟨fun hc => ?_, ?_⟩⟩
  · rw [hword]
    exact givesReg_of h hclear (exec_lds h hn (hbankx ▸ hw) (shmEccKey_word _ n ▸ hc)) rfl
  · rw [hword, hword]
    exact ⟨_, exec_ldsd h hn (hbankz ▸ hw) hc, onlyEngines_issue _ _ _ _ h.1, launchesPair_issue h rd 4 _ _ c₁ c₂⟩
  · have hexec := exec_sts (rd := rd) h hn (hbankx ▸ hw) (shmEccKey_word _ n ▸ hc)
    generalize n / 4 % 16384 * 4 = k at hexec ⊢
    refine ⟨_, hexec, ?_, passes_issueS h _ rfl, ?_, ?_⟩
    · rw [issueS_eq h]; rfl
    · rw [issueS_eq h, hbase]; exact wordAt_mputWord _ _ _
    · rw [issueS_eq h, hbase]; exact sameOutside_mputWord _ _ _
  · have hexec := exec_stsd (rd := rd) h hn (hbankz ▸ hw)
    generalize n / 8 % 8192 * 8 = k at hexec ⊢
    have hmem := mputWord_two s.arr.shm (shmKey sl k) (rreg (found s e) (pairLo rd.toNat)) (rreg (found s e) (pairLo rd.toNat + 1))
    refine ⟨_, hexec, ?_, passes_issueS h _ rfl, ?_, fun j hj => ?_, ?_⟩
    · simp only [issueS_eq h, updEngine, setEngine, setUpset, shmPut]
    · rw [issueS_eq h]; exact upsetAt_setUpset _ _ _
    · rw [issueS_eq h]; exact upsetAt_setUpset_other _ _ _ _ hj
    · rw [issueS_eq h, pair_lo, pair_hi, hbase]
      simp only [updEngine, setEngine, setUpset, shmPut, shmKey_add]
      exact hmem

end Sys2Proof.Machine
end

section
/-! PROOFS. Stores of persistent words and doubts of grants (R55, R63 to R65, R70, R83, R108, R110, R111): an instruction whose
body sets flags of its engine and acts on the rest of the machine, and the doubt that an access outside its grant raises. -/
namespace Sys2Proof.Machine

/-! ### Instructions that set flags and act outside their engine -/

/-- An engine with flags set and a count of its persistent stores. -/
def stamped (en : Engine) (fl : BitVec 16) (stps : Nat) : Engine := { en with flags := en.flags ||| fl, stps := stps }

@[simp] theorem stamped_self (en : Engine) : stamped en 0 en.stps = en := by
  simp [stamped]

section Stamped
variable {s : State} {e : Nat} {p : Pred} (h : Issues s e p) {body : State → State} {fl : BitVec 16} {stps : Nat}
  (hown : engine (body (setEngine s e (found s e))) e = stamped (found s e) fl stps)
  (hother : ∀ j, j ≠ e → engine (body (setEngine s e (found s e))) j = engine s j)
include h hown hother

/-- Such an instruction passes its word, and its flags stand from the next cycle on. -/
theorem stamped_issueS : PassesWord s (issueS s e p body) e ∧ (engine (issueS s e p body) e).divFree = (engine s e).divFree
    ∧ (engine (issueS s e p body) e).stps = stps ∧ Launches s (issueS s e p body) e .none 0 fl := by
  have he : engine (issueS s e p body) e = nextWord (stamped (found s e) fl stps) := by
    rw [issueS_eq h, engine_updEngine, hown]
  refine ⟨⟨fun j hj => ?_, ?_⟩, ?_, ?_, launches_setFlags fl ?_ ?_ ?_⟩
  · rw [issueS_eq h, engine_updEngine_other _ _ _ _ hj, hother j hj]
  · rw [he]; simp [nextWord, stamped]
  · rw [he]; exact found_divFree s e
  · rw [he]; rfl
  · rw [he]; rfl
  · rw [he]; exact ⟨fun _ _ => rfl, fun _ _ => rfl, fun _ _ => rfl⟩
  · rw [he]; rfl

end Stamped

/-- An instruction whose body changes engines only changes engines only. -/
theorem onlyEngines_issueS {s : State} {e : Nat} {p : Pred} (h : Issues s e p) {body : State → State}
    (hb : OnlyEngines s (body (setEngine s e (found s e)))) : OnlyEngines s (issueS s e p body) := by
  rw [issueS_eq h]
  exact onlyEngines_trans hb (onlyEngines_updEngine _ _ _)

/-- What stays where engines only change. -/
theorem onlyEngines_keeps {s t : State} (h : OnlyEngines s t) :
    t = { s with arr := { s.arr with
        engines := t.arr.engines, dmem := t.arr.dmem, sleeves := t.arr.sleeves, upsets := t.arr.upsets } }
      ∧ (∀ k, upsetAt t k = upsetAt s k) ∧ t.arr.dmem = s.arr.dmem ∧ ∀ k, sleeve t k = sleeve s k := by
  have ht : t = { s with arr := { s.arr with engines := t.arr.engines } } := h
  refine ⟨?_, fun k => ?_, ?_, sleeve_of_onlyEngines h⟩ <;> rw [ht] <;> rfl

/-! ### STP -/

@[simp] theorem sleeve_dmPut (s : State) (e a k : Nat) (w : Word) : sleeve (dmPut s e a w) k = sleeve s k := rfl

section Stp
variable {s : State} {e : EngineId} {p : Pred} {rd : Reg} {idx : BitVec 6} (h : Issues s e p)
include h

/-- A store beyond the budget of the round is not made (R108). -/
theorem exec_stp_over (hb : stpBudget s.wheel.w ≤ (engine s e).stps) : exec (.stp e p rd idx) s
    = .next (issueS s e p fun u => updEngine (updEngine u e fun en => { en with stps := en.stps + 1 }) e fun en => setFlags en fSTPOVER) := by
  refine congrArg Host.Outcome.next (issueS_congr h ?_)
  have hb' : stpBudget (setEngine s e (found s e)).wheel.w ≤ (found s e).stps := by rw [found_stps]; exact hb
  simp only [engine_setEngine, show ∀ f, (updEngine (setEngine s e (found s e)) e f).wheel = (setEngine s e (found s e)).wheel from
    fun _ => rfl, hb', if_true]

/-- In a Sleeve that mutes its seeding engines nothing is stored. -/
theorem exec_stp_muted (hb : (engine s e).stps < stpBudget s.wheel.w) (hm : (sleeve s (e / 32)).seedMute = true) :
    exec (.stp e p rd idx) s = .next (issueS s e p fun u => updEngine u e fun en => { en with stps := en.stps + 1 }) := by
  refine congrArg Host.Outcome.next (issueS_congr h ?_)
  have hb' : ¬ stpBudget (setEngine s e (found s e)).wheel.w ≤ (found s e).stps := by rw [found_stps]; exact Nat.not_le.mpr hb
  simp only [engine_setEngine, show ∀ f, (updEngine (setEngine s e (found s e)) e f).wheel = (setEngine s e (found s e)).wheel from
    fun _ => rfl, hb', if_false, sleeve_updEngine, sleeve_setEngine, hm, if_true]

/-- Any other store reaches data memory and the stores of its Sleeve. -/
theorem exec_stp_stores (hb : (engine s e).stps < stpBudget s.wheel.w) (hm : (sleeve s (e / 32)).seedMute = false) :
    exec (.stp e p rd idx) s = .next (issueS s e p fun u =>
      updSleeve (dmPut (updEngine u e fun en => { en with stps := en.stps + 1 }) e (0xF00 + 4 * idx.toNat) (rreg (found s e) rd.toNat))
        (e / 32) fun x => { x with stores := x.stores ++ [{ engine := e, idx := idx.toNat, word := rreg (found s e) rd.toNat }] }) := by
  refine congrArg Host.Outcome.next (issueS_congr h ?_)
  have hb' : ¬ stpBudget (setEngine s e (found s e)).wheel.w ≤ (found s e).stps := by rw [found_stps]; exact Nat.not_le.mpr hb
  simp only [engine_setEngine, show ∀ f, (updEngine (setEngine s e (found s e)) e f).wheel = (setEngine s e (found s e)).wheel from
    fun _ => rfl, hb', if_false, sleeve_updEngine, sleeve_setEngine, hm, Bool.false_eq_true]

end Stp

/-! ### Doubts -/

/-- A doubt of Sleeve scope that an instruction raises in its Sleeve (R65, R70, R83): its place is recorded unless another
stands, the ports that are on enter HEM, and of the array only engines and Sleeves change. -/
def RaisesDoubt (s : State) (e : EngineId) (i : Instr) (bit b : Nat) (fl : BitVec 16) : Prop := ∃ t, exec i s = .next t ∧ PassesWord s t e
  ∧ (engine t e).divFree = (engine s e).divFree ∧ (engine t e).stps = (engine s e).stps ∧ Launches s t e .none 0 fl
  ∧ t.arr = { s.arr with engines := t.arr.engines, sleeves := t.arr.sleeves }
  ∧ (∀ k, k ≠ e.val / 32 → sleeve t k = sleeve s k)
  ∧ (sleeve t (e.val / 32)).sticky = (sleeve s (e.val / 32)).sticky ||| BitVec.ofNat 32 (2 ^ bit)
  ∧ (sleeve t (e.val / 32)).held = true ∧ (sleeve t (e.val / 32)).halting = true
  ∧ ((sleeve s (e.val / 32)).sticky &&& 0x7F = 0 → (sleeve t (e.val / 32)).doubtRound = s.wheel.round
      ∧ (sleeve t (e.val / 32)).doubtEngine = e % 32 ∧ (sleeve t (e.val / 32)).doubtDetail = 4096 * b + (engine s e).cycle % 4096)
  ∧ ∀ n, n / 8 = e.val / 32 → canHem (link s n).state = true → (link t n).state = .hem

section Doubt
variable {s : State} {e : EngineId} {p : Pred} (h : Issues s e p) {i : Instr} {bit b : Nat} {fl : BitVec 16} {body : State → State}
include h

/-- An instruction that sets flags and raises a doubt of its Sleeve. -/
theorem raisesDoubt_of {v : State} (hx : exec i s = .next (issueS s e p body))
    (hbody : body (setEngine s e (found s e)) = raiseSleeve v (e / 32) bit (engNo e) b (engine s e).cycle)
    (hv : OnlyEngines s v) (hown : engine v e = stamped (found s e) fl (engine s e).stps)
    (hother : ∀ j, j ≠ e.val → engine v j = engine s j) : RaisesDoubt s e i bit b fl := by
  obtain ⟨ls, cs, sh, cf, rc, pr, x, hraise, -, hsticky, hheld, hhalt, hfirst, hlinks⟩ :=
    raiseSleeve_frame v (e / 32) bit (engNo e) b (engine s e).cycle
  rw [← hbody] at hraise
  have hsl (k : Nat) : sleeve v k = sleeve s k := sleeve_of_onlyEngines hv k
  have hengine (j : Nat) : engine (body (setEngine s e (found s e))) j = engine v j := by rw [hraise]; rfl
  obtain ⟨hpass, hdiv, hstps, hflag⟩ := stamped_issueS h ((hengine e).trans hown) fun j hj => (hengine j).trans (hother j hj)
  have hsleeve (k : Nat) : sleeve (issueS s e p body) k = if k = e.val / 32 then x else sleeve s k := by
    rw [sleeve_issueS h, hraise, ← hsl k, ← sleeve_setSleeve_eq]; rfl
  have hx' : sleeve (issueS s e p body) (e.val / 32) = x := by rw [hsleeve, if_pos rfl]
  have hround : v.wheel = s.wheel := by rw [show v = _ from hv]
  have hlink (n : Nat) : link v n = link s n := by rw [show v = _ from hv]; rfl
  refine ⟨_, hx, hpass, hdiv, hstps, hflag, ?_, fun k hk => (hsleeve k).trans (if_neg hk), ?_, ?_, ?_, ?_, fun n hn hcan => ?_⟩
  · rw [issueS_eq h, hraise, show v = _ from hv]; rfl
  · rw [hx', hsticky, hsl]; rfl
  · rw [hx', hheld]
  · rw [hx', hhalt]
  · intro hfree
    rw [hx', Nat.mul_comm 4096, ← hround]
    exact hfirst (by rw [hsl]; exact hfree)
  · have hl : link (issueS s e p body) n = hemmed (link s n) := by
      rw [issueS_eq h, hraise, ← hlink]
      exact (hlinks n).trans (if_pos hn)
    rw [hl, hemmed_state hcan]

/-- The same for one that sets none. -/
theorem raisesDoubt_plain (hx : exec i s = .next (issueS s e p body))
    (hbody : body (setEngine s e (found s e)) = raiseSleeve (setEngine s e (found s e)) (e / 32) bit (engNo e) b (engine s e).cycle) :
    RaisesDoubt s e i bit b 0 := by
  refine raisesDoubt_of h hx hbody (onlyEngines_setEngine _ _ _) ?_ fun j hj => engine_setEngine_other _ _ _ _ hj
  rw [engine_setEngine, ← found_stps, stamped_self]

end Doubt

section Window
variable {s : State} {e : EngineId} {p : Pred} (h : Issues s e p) {rd ra : Reg} {imm : BitVec 12} {n : Nat}
  (hn : (effAddr (found s e) ra imm).toNat = n)
include h hn

theorem lds_doubt (hw : windowOk s e (bankOf (n / 4 % 16384 * 4)) (engine s e).cycle false = false) :
    RaisesDoubt s e (.lds e p rd ra imm) 1 (bankOf (n / 4 % 16384 * 4)) 0 := by
  refine raisesDoubt_plain h rfl ?_
  simp only [engine_setEngine, hn, windowOk_setEngine, found_cycle, hw, Bool.false_eq_true, if_false, windowDoubt]

theorem ldsd_doubt (hw : windowOk s e (bankOf (n / 8 % 8192 * 8)) (engine s e).cycle false = false) :
    RaisesDoubt s e (.ldsd e p rd ra imm) 1 (bankOf (n / 8 % 8192 * 8)) 0 := by
  refine raisesDoubt_plain h rfl ?_
  simp only [engine_setEngine, hn, windowOk_setEngine, found_cycle, hw, Bool.false_eq_true, if_false, windowDoubt]

theorem sts_doubt (hw : windowOk s e (bankOf (n / 4 % 16384 * 4)) (engine s e).cycle true = false) :
    RaisesDoubt s e (.sts e p rd ra imm) 1 (bankOf (n / 4 % 16384 * 4)) 0 := by
  refine raisesDoubt_plain h rfl ?_
  simp only [engine_setEngine, stsAddr, hn, windowOk_setEngine, found_cycle, hw, Bool.false_eq_true, if_false, windowDoubt]

theorem stsd_doubt (hw : windowOk s e (bankOf (n / 8 % 8192 * 8)) (engine s e).cycle true = false) :
    RaisesDoubt s e (.stsd e p rd ra imm) 1 (bankOf (n / 8 % 8192 * 8)) 0 := by
  refine raisesDoubt_plain h rfl ?_
  simp only [engine_setEngine, stsdAddr, hn, windowOk_setEngine, found_cycle, hw, Bool.false_eq_true, if_false, windowDoubt]

/-- TALLY outside its window sets TALLY_RANGE besides where its bin is none. -/
theorem tally_doubt (hw : windowOk s e 16 (engine s e).cycle true = false) :
    RaisesDoubt s e (.tally e p ra imm) 2 15 (if 1536 ≤ n then fTALLY else 0) := by
  by_cases hbin : 1536 ≤ n
  · rw [if_pos hbin]
    refine raisesDoubt_of h rfl (v := updEngine (setEngine s e (found s e)) e fun en => setFlags en fTALLY) ?_
      (onlyEngines_trans (onlyEngines_setEngine _ _ _) (onlyEngines_updEngine _ _ _)) ?_ fun j hj => ?_
    · have hcycle : (setFlags (found s e) fTALLY).cycle = (engine s e).cycle := found_cycle s e
      simp only [engine_setEngine, hn, hbin, if_true, windowOk_updEngine, windowOk_setEngine, found_cycle, hw, Bool.false_eq_true, if_false,
        slotDoubt, engine_updEngine, hcycle]
    · rw [engine_updEngine, engine_setEngine, ← found_stps]; rfl
    · rw [engine_updEngine_other _ _ _ _ hj, engine_setEngine_other _ _ _ _ hj]
  · rw [if_neg hbin]
    refine raisesDoubt_plain h rfl ?_
    simp only [engine_setEngine, hn, hbin, windowOk_setEngine, found_cycle, hw, Bool.false_eq_true, if_false, slotDoubt]

end Window

section Slot
variable {s : State} {e : EngineId} {p : Pred} (h : Issues s e p) {ra : Reg} {slot : BitVec 7}
include h

theorem extreme_doubt (hw : windowOk s e 16 (engine s e).cycle true = false) : RaisesDoubt s e (.extreme e p ra slot) 2 15 0 := by
  refine raisesDoubt_plain h rfl ?_
  simp only [engine_setEngine, windowOk_setEngine, found_cycle, hw, Bool.false_eq_true, if_false, slotDoubt]

theorem ysend_doubt (hs : ∀ t ∈ sendsOf s (e.val / 32), ¬(t.cycle = (engine s e).cycle ∧ t.sleeve = e.val / 32 ∧ t.engine = e % 32)) :
    RaisesDoubt s e (.ysend e p ra) 2 15 0 := by
  have hnone : (sendsOf s (e / 32)).find? (fun t => t.cycle == (engine s e).cycle && t.sleeve == e.val / 32 && t.engine == engNo e) = none := by
    refine List.find?_eq_none.mpr fun t ht hslot => hs t ht ?_
    simp only [Bool.and_eq_true, beq_iff_eq] at hslot
    exact ⟨hslot.1.1, hslot.1.2, hslot.2⟩
  have hnone' : (sendsOf (setEngine s e (found s e)) (e / 32)).find?
      (fun t => t.cycle == (engine s e).cycle && t.sleeve == e.val / 32 && t.engine == engNo e) = none := hnone
  refine raisesDoubt_plain h rfl ?_
  simp only [engine_setEngine, found_cycle, hnone', slotDoubt]

theorem yred_doubt (hs : ∀ t ∈ redsOf s (e.val / 32), ¬(t.cycle = (engine s e).cycle ∧ (e.val / 32, e.val % 32) ∈ t.contributors)) :
    RaisesDoubt s e (.yred e p ra) 2 15 0 := by
  have hnone : (redsOf s (e / 32)).find? (fun t => t.cycle == (engine s e).cycle && t.contributors.contains (e.val / 32, engNo e)) = none := by
    refine List.find?_eq_none.mpr fun t ht hslot => hs t ht ?_
    simp only [Bool.and_eq_true, beq_iff_eq, List.contains_iff_mem] at hslot
    exact hslot
  have hnone' : (redsOf (setEngine s e (found s e)) (e / 32)).find?
      (fun t => t.cycle == (engine s e).cycle && t.contributors.contains (e.val / 32, engNo e)) = none := hnone
  refine raisesDoubt_plain h rfl ?_
  simp only [engine_setEngine, found_cycle, hnone', slotDoubt]

end Slot

/-- Settles O12: STP by its three cases, each access by the doubt it raises. -/
theorem storesAndGrantsAreGuarded : Obligations.StoresAndGrantsAreGuarded := by
  refine ⟨?_, ?_⟩
  · intro s e p rd idx h budget x v sl
    have hother (j : Nat) (hj : j ≠ e.val) : engine (updEngine (setEngine s e (found s e)) e fun en => { en with stps := en.stps + 1 }) j
        = engine s j := by
      rw [engine_updEngine_other _ _ _ _ hj, engine_setEngine_other _ _ _ _ hj]
    have hown (fl : BitVec 16) : setFlags { found s e with stps := (found s e).stps + 1 } fl
        = stamped (found s e) fl ((engine s e).stps + 1) := by
      rw [← found_stps]; rfl
    have hown0 : engine (updEngine (setEngine s e (found s e)) e fun en => { en with stps := en.stps + 1 }) e
        = stamped (found s e) 0 ((engine s e).stps + 1) := by
      rw [engine_updEngine, engine_setEngine, ← found_stps]
      simp [stamped]
    have honly {f : Engine → Engine} : OnlyEngines s (updEngine (setEngine s e (found s e)) e f) :=
      onlyEngines_trans (onlyEngines_setEngine _ _ _) (onlyEngines_updEngine _ _ _)
    by_cases hb : (engine s e).stps < budget
    · rcases Bool.eq_false_or_eq_true sl.seedMute with hm | hm
      · obtain ⟨hpass, hdiv, hstps, hflag⟩ := stamped_issueS h
          (body := fun u => updEngine u e fun en => { en with stps := en.stps + 1 }) hown0 hother
        obtain ⟨hframe, hup, hmem, hsl⟩ := onlyEngines_keeps (onlyEngines_issueS h
          (body := fun u => updEngine u e fun en => { en with stps := en.stps + 1 }) honly)
        exact ⟨_, exec_stp_muted h hb hm, hframe, fun k _ => hup k, hpass, hdiv, hstps, fun k _ => hsl k,
          fun _ hno => absurd (hm.symm.trans hno) (by decide), fun _ _ => ⟨hflag, hmem, hsl _⟩, fun hge => absurd hb (Nat.not_lt.mpr hge)⟩
      · obtain ⟨hpass, hdiv, hstps, hflag⟩ := stamped_issueS h (body := fun u =>
          updSleeve (dmPut (updEngine u e fun en => { en with stps := en.stps + 1 }) e (0xF00 + 4 * idx.toNat) (rreg (found s e) rd.toNat))
            (e / 32) fun x => { x with stores := x.stores ++ [{ engine := e, idx := idx.toNat, word := rreg (found s e) rd.toNat }] })
          hown0 hother
        have hkey : (0xF00 + 4 * idx.toNat) / 4 = 0x3C0 + idx.toNat := by omega
        have hx : x = e.val * 4096 + (0xF00 + 4 * idx.toNat) := by simp only [x]; omega
        refine ⟨_, exec_stp_stores h hb hm, ?_, fun k hk => ?_, hpass, hdiv, hstps, fun k hk => ?_,
          fun _ _ => ⟨hflag, ?_, ?_, ?_⟩, fun _ hyes => absurd (hm.symm.trans hyes) (by decide), fun hge => absurd hb (Nat.not_lt.mpr hge)⟩
        · simp only [issueS_eq h, updEngine, setEngine, updSleeve, setSleeve, dmPut, setUpset]
        · rw [issueS_eq h]
          rw [← hkey] at hk
          exact upsetAt_setUpset_other _ _ _ _ hk
        · rw [sleeve_issueS h]; exact sleeve_updSleeve_other _ _ _ _ hk
        · rw [issueS_eq h, hx]; exact wordAt_mputWord _ _ _
        · rw [issueS_eq h, hx]; exact sameOutside_mputWord _ _ _
        · rw [sleeve_issueS h, sleeve_updSleeve, sleeve_dmPut, sleeve_updEngine, sleeve_setEngine]
    · have hge : budget ≤ (engine s e).stps := Nat.not_lt.mp hb
      obtain ⟨hpass, hdiv, hstps, hflag⟩ := stamped_issueS h
        (body := fun u => updEngine (updEngine u e fun en => { en with stps := en.stps + 1 }) e fun en => setFlags en fSTPOVER)
        (by rw [engine_updEngine, engine_updEngine, engine_setEngine, hown]) fun j hj => by rw [engine_updEngine_other _ _ _ _ hj, hother j hj]
      obtain ⟨hframe, hup, hmem, hsl⟩ := onlyEngines_keeps (onlyEngines_issueS h
        (body := fun u => updEngine (updEngine u e fun en => { en with stps := en.stps + 1 }) e fun en => setFlags en fSTPOVER)
        (onlyEngines_trans honly (onlyEngines_updEngine _ _ _)))
      exact ⟨_, exec_stp_over h hge, hframe, fun k _ => hup k, hpass, hdiv, hstps, fun k _ => hsl k, fun hlt => absurd hlt hb,
        fun hlt => absurd hlt hb, fun _ => ⟨hflag, hmem, hsl _⟩⟩
  · intro s e p rd ra imm slot h a bank c sl doubt
    generalize hn : (effAddr (found s e) ra imm).toNat = n
    have ha : a.toNat = n := hn
    obtain ⟨hbankz, hbankx⟩ := bankOf_double n
    have hbank : bank = n / 4 % 16384 * 4 / 4096 := congrArg (· / 4096) (hn ▸ shm_address (effAddr (found s e) ra imm))
    rw [← hbank] at hbankz hbankx
    refine ⟨fun hw => ⟨?_, ?_⟩, fun hw => ⟨?_, ?_⟩, fun hw => ⟨?_, extreme_doubt h hw⟩, ysend_doubt h, yred_doubt h⟩
    · exact hbankx ▸ lds_doubt h hn (hbankx.symm ▸ hw)
    · exact hbankz ▸ ldsd_doubt h hn (hbankz.symm ▸ hw)
    · exact hbankx ▸ sts_doubt h hn (hbankx.symm ▸ hw)
    · exact hbankz ▸ stsd_doubt h hn (hbankz.symm ▸ hw)
    · rw [ha]; exact tally_doubt h hn hw

end Sys2Proof.Machine
end

section
/-! PROOFS. The yoke (R68, R69, R110) and the reductions (R71 to R74): words on their way, what an entry holds, contributions and
results. -/
namespace Sys2Proof.Machine

/-! ### Words on their way -/

/-- The word that arrives next at a Sleeve is the first for it. -/
theorem takeYoke_append {d : Nat} {m : YokeMsg} {l l' : List YokeMsg} (hm : m.dst = d) (hl : ∀ g ∈ l, g.dst ≠ d) :
    takeYoke d (l ++ m :: l') = some (m, l ++ l') := by
  induction l with
  | nil => simp [takeYoke, hm]
  | cons g l ih => simp [takeYoke, hl g List.mem_cons_self, ih fun x hx => hl x (List.mem_cons_of_mem _ hx)]

/-- Of the words of an entry the one that came last counts. -/
theorem foldl_laterRx {r : YokeRx} {l : List YokeRx} (h : ∀ x ∈ l, x ≠ r → x.due < r.due) :
    ∀ best : Option YokeRx, (∀ b ∈ best, b ≠ r → b.due < r.due) → r ∈ l ∨ best = some r → l.foldl laterRx best = some r := by
  induction l with
  | nil => exact fun best _ hr => hr.resolve_left nofun
  | cons x l ih =>
    intro best hbest hr
    refine ih (fun y hy => h y (List.mem_cons_of_mem _ hy)) _ ?_ ?_
    · intro b hb hne
      have hx := h x List.mem_cons_self
      unfold laterRx at hb
      split at hb
      · split at hb <;> obtain rfl := Option.some.inj hb
        · exact hx hne
        · exact hbest _ rfl hne
      · obtain rfl := Option.some.inj hb
        exact hx hne
    · by_cases hl : r ∈ l
      · exact .inl hl
      · right
        have hx : x = r ∨ best = some r := by
          rcases hr with hr | hr
          · exact .inl ((List.mem_cons.mp hr).resolve_right hl).symm
          · exact .inr hr
        unfold laterRx
        by_cases hxr : x = r
        · subst hxr
          split
          · next b =>
            by_cases hb : b = x
            · subst hb; simp
            · rw [if_pos (Nat.le_of_lt (hbest b rfl hb))]
          · rfl
        · obtain rfl := hx.resolve_left hxr
          simp [Nat.not_le.mpr (h x List.mem_cons_self hxr)]

/-- What a Sleeve has received or is to receive. -/
def allRx (s : State) (d : Nat) : List YokeRx :=
  (sleeve s d).rx ++ (s.arr.yoke.filter fun m => m.dst == d).map fun m => { due := m.due, entry := m.entry, word := some m.word }

theorem recvWord_def (s : State) (d entry cycle : Nat) : recvWord s d entry cycle
    = (((allRx s d).filter fun r => r.entry == entry && decide (r.due ≤ cycle)).foldl laterRx none).bind (·.word) := rfl

theorem mem_allRx {s : State} {d : Nat} {r : YokeRx} : r ∈ allRx s d ↔ r ∈ (sleeve s d).rx
    ∨ ∃ m ∈ s.arr.yoke, m.dst = d ∧ r = { due := m.due, entry := m.entry, word := some m.word } := by
  simp only [allRx, List.mem_append, List.mem_map, List.mem_filter, beq_iff_eq]
  refine or_congr_right ⟨fun ⟨m, ⟨hm, hd⟩, hr⟩ => ⟨m, hm, hd, hr.symm⟩, fun ⟨m, hm, hd, hr⟩ => ⟨m, ⟨hm, hd⟩, hr.symm⟩⟩

/-- An entry for which nothing has come is empty. -/
theorem recvWord_none {s : State} {d entry cycle : Nat} (h : ∀ r ∈ allRx s d, r.entry = entry → cycle < r.due) :
    recvWord s d entry cycle = none := by
  have hnil : ((allRx s d).filter fun r => r.entry == entry && decide (r.due ≤ cycle)) = [] := by
    refine List.filter_eq_nil_iff.mpr fun r hr hin => ?_
    simp only [Bool.and_eq_true, beq_iff_eq, decide_eq_true_eq] at hin
    exact absurd hin.2 (Nat.not_le.mpr (h r hr hin.1))
  rw [recvWord_def, hnil]
  rfl

/-- An entry holds the word that came last. -/
theorem recvWord_last {s : State} {d cycle : Nat} {r : YokeRx} (hr : r ∈ allRx s d) (hdue : r.due ≤ cycle)
    (h : ∀ x ∈ allRx s d, x ≠ r → x.entry = r.entry → x.due < r.due ∨ cycle < x.due) : recvWord s d r.entry cycle = r.word := by
  have hlast : ((allRx s d).filter fun x => x.entry == r.entry && decide (x.due ≤ cycle)).foldl laterRx none = some r := by
    refine foldl_laterRx (fun x hx hne => ?_) none nofun (.inl ?_)
    · simp only [List.mem_filter, Bool.and_eq_true, beq_iff_eq, decide_eq_true_eq] at hx
      obtain ⟨hx, hentry, hcome⟩ := hx
      exact (h x hx hne hentry).resolve_right (Nat.not_lt.mpr hcome)
    · simp [hr, hdue]
  rw [recvWord_def, hlast]
  rfl

/-! ### Instructions of the yoke -/

/-- A pair launched by an instruction that acts outside its engine too. -/
theorem launchesPair_issueS {s : State} {e : Nat} {p : Pred} (h : Issues s e p) {body : State → State} (rd : Reg) (lat : Nat) (lo hi : Word)
    (hown : engine (body (setEngine s e (found s e))) e
      = launchReg (launchReg (found s e) lat (pairLo rd.toNat) (lo, 0)) lat (pairLo rd.toNat + 1) (hi, 0))
    (hother : ∀ j, j ≠ e → engine (body (setEngine s e (found s e))) j = engine s j)
    (c₁ : Clear s e (.reg (rd &&& 0x1E).toNat)) (c₂ : Clear s e (.reg (rd ||| 1).toNat)) :
    LaunchesPair s (issueS s e p body) e rd lat lo hi := by
  have he : engine (issueS s e p body) e = nextWord (launchReg (launchReg (found s e) lat (pairLo rd.toNat) (lo, 0)) lat
      (pairLo rd.toNat + 1) (hi, 0)) := by
    rw [issueS_eq h, engine_updEngine, hown]
  refine launchesPair_of rd lat lo hi (by rw [he]; rfl) (by rw [he]; exact ⟨fun _ _ => rfl, fun _ _ => rfl, fun _ _ => rfl⟩)
    (by rw [he]; rfl) ⟨fun j hj => ?_, ?_⟩ ?_ ?_ c₁ c₂
  · rw [issueS_eq h, engine_updEngine_other _ _ _ _ hj, hother j hj]
  · rw [he]; simp [nextWord, launchReg, launch]
  · rw [he]; exact found_divFree s e
  · rw [he]; exact found_stps s e

section Yoke
variable {s : State} {e : EngineId} {p : Pred} (h : Issues s e p)
include h

theorem exec_ysend {ra : Reg} {t₀ : SendSlot} (hslot : (sendsOf s (e / 32)).find?
      (fun t => t.cycle == (engine s e).cycle && t.sleeve == e.val / 32 && t.engine == e.val % 32) = some t₀) :
    exec (.ysend e p ra) s = .next (issueS s e p fun u => { u with arr := { u.arr with
      yoke := u.arr.yoke ++ [⟨(engine s e).cycle + 6, t₀.dst, t₀.entry,
        rreg (found s e) (ra ||| 1).toNat ++ rreg (found s e) (ra &&& 0x1E).toNat⟩] } }) := by
  refine congrArg Host.Outcome.next (issueS_congr h ?_)
  have hslot' : (sendsOf (setEngine s e (found s e)) (e / 32)).find?
      (fun t => t.cycle == (engine s e).cycle && t.sleeve == e.val / 32 && t.engine == engNo e) = some t₀ := hslot
  simp only [engine_setEngine, found_cycle, hslot', pair_lo, pair_hi]

/-- What the entry held when the cycle began does not depend on the engine. -/
theorem exec_yrecv {rd : Reg} {entry : BitVec 6} : exec (.yrecv e p rd entry) s = .next (issueS s e p fun u =>
    let r := recvWord s (e / 32) entry.toNat (engine s e).cycle
    let w := r.getD emptyEntry
    updEngine (if r.isSome then u else updSleeve u (e / 32) fun x => { x with sticky := setBit x.sticky 11 }) e fun en =>
      launchReg (launchReg en 2 (pairLo rd.toNat) (w.setWidth 32, 0)) 2 (pairLo rd.toNat + 1) ((w >>> 32).setWidth 32, 0)) := by
  refine congrArg Host.Outcome.next (issueS_congr h ?_)
  simp only [engine_setEngine, found_cycle]
  rfl

theorem exec_yrecv_word {rd : Reg} {entry : BitVec 6} {w : BitVec 64} (hr : recvWord s (e / 32) entry.toNat (engine s e).cycle = some w) :
    exec (.yrecv e p rd entry) s = .next (issueS s e p fun u => updEngine u e fun en =>
      launchReg (launchReg en 2 (pairLo rd.toNat) (w.setWidth 32, 0)) 2 (pairLo rd.toNat + 1) ((w >>> 32).setWidth 32, 0)) := by
  rw [exec_yrecv h, hr]
  rfl

/-- An empty entry gives two NaNs and sets YOKE_EMPTY (R69). -/
theorem exec_yrecv_empty {rd : Reg} {entry : BitVec 6} (hr : recvWord s (e / 32) entry.toNat (engine s e).cycle = none) :
    exec (.yrecv e p rd entry) s = .next (issueS s e p fun u =>
      updEngine (updSleeve u (e / 32) fun x => { x with sticky := setBit x.sticky 11 }) e fun en =>
        launchReg (launchReg en 2 (pairLo rd.toNat) (0x7FC00000, 0)) 2 (pairLo rd.toNat + 1) (0x7FC00000, 0)) := by
  rw [exec_yrecv h, hr]
  rfl

end Yoke

/-! ### Reductions -/

/-- A contribution to a result that none has contributed to begins it. -/
theorem addPart_first {l : List RedMsg} {t : RedSlot} (h : ∀ m ∈ l, ofSlot t m = false) (cycle sl : Nat) (w : Word) :
    addPart l t cycle sl w = l ++ [⟨cycle + 12, t.isMax, t.res, [(sl, w)]⟩] := by
  have hany : l.any (ofSlot t) = false := List.any_eq_false.mpr fun m hm => by simp [h m hm]
  simp [addPart, hany]

/-- Any other joins the one under way, which alone changes. -/
theorem addPart_joins {l l' : List RedMsg} {m : RedMsg} {t : RedSlot} (hm : ofSlot t m = true) (h : ∀ g ∈ l ++ l', ofSlot t g = false)
    (cycle sl : Nat) (w : Word) : addPart (l ++ m :: l') t cycle sl w = l ++ { m with parts := tput m.parts sl w } :: l' := by
  have hany : (l ++ m :: l').any (ofSlot t) = true := List.any_eq_true.mpr ⟨m, by simp, hm⟩
  have hsame (k : List RedMsg) (hk : ∀ g ∈ k, ofSlot t g = false) :
      k.map (fun m => if ofSlot t m then { m with parts := tput m.parts sl w } else m) = k :=
    (List.map_congr_left fun g hg => if_neg (by simp [hk g hg])).trans k.map_id
  simp [addPart, hany, hm, hsame l fun g hg => h g (List.mem_append_left _ hg), hsame l' fun g hg => h g (List.mem_append_right _ hg)]

theorem exec_yred {s : State} {e : EngineId} {p : Pred} (h : Issues s e p) {ra : Reg} {t₀ : RedSlot}
    (hslot : (redsOf s (e / 32)).find? (fun t => t.cycle == (engine s e).cycle && t.contributors.contains (e.val / 32, e.val % 32)) = some t₀) :
    exec (.yred e p ra) s = .next (issueS s e p fun u => { u with arr := { u.arr with
      reds := addPart s.arr.reds t₀ (engine s e).cycle (e / 32) (rreg (found s e) ra.toNat) } }) := by
  refine congrArg Host.Outcome.next (issueS_congr h ?_)
  have hslot' : (redsOf (setEngine s e (found s e)) (e / 32)).find?
      (fun t => t.cycle == (engine s e).cycle && t.contributors.contains (e.val / 32, engNo e)) = some t₀ := hslot
  simp only [engine_setEngine, found_cycle, hslot']
  rfl

/-- What an instruction leaves that contributes. -/
theorem reds_issueS {s : State} {e : Nat} {p : Pred} (h : Issues s e p) (l : List RedMsg) :
    let t := issueS s e p fun u => { u with arr := { u.arr with reds := l } }
    t = { s with arr := { s.arr with engines := t.arr.engines, reds := t.arr.reds } } ∧ Passes s t e ∧ t.arr.reds = l := by
  refine ⟨?_, passes_issueS h _ rfl, ?_⟩ <;> rw [issueS_eq h] <;> rfl

/-- Results for other registers leave a register alone. -/
theorem resAfter_other {r : Nat} {start : Word × Word} {l : List RedDone} (h : ∀ d ∈ l, d.res ≠ r) : resAfter r start l = start := by
  have key : ∀ b : Nat × Word × Word, (l.foldl (fun (b : Nat × Word × Word) d =>
      if d.res = r ∧ b.1 ≤ d.due then (d.due, d.value, d.mask) else b) b) = b := by
    induction l with
    | nil => exact fun _ => rfl
    | cons d l ih =>
      intro b
      rw [List.foldl_cons, if_neg fun hd => h d List.mem_cons_self hd.1]
      exact ih (fun x hx => h x (List.mem_cons_of_mem _ hx)) b
  exact congrArg Prod.snd (key (0, start))

/-- The one result for a register is what it holds. -/
theorem resAfter_one {d : RedDone} {start : Word × Word} {l l' : List RedDone} (h : ∀ x ∈ l ++ l', x.res ≠ d.res) :
    resAfter d.res start (l ++ d :: l') = (d.value, d.mask) := by
  have key : ∀ (k : List RedDone) (b : Nat × Word × Word), (∀ x ∈ k, x.res ≠ d.res) → (k.foldl (fun (b : Nat × Word × Word) x =>
      if x.res = d.res ∧ b.1 ≤ x.due then (x.due, x.value, x.mask) else b) b) = b := by
    intro k
    induction k with
    | nil => exact fun _ _ => rfl
    | cons x k ih =>
      intro b hk
      rw [List.foldl_cons, if_neg fun hd => hk x List.mem_cons_self hd.1]
      exact ih b fun y hy => hk y (List.mem_cons_of_mem _ hy)
  unfold resAfter
  rw [List.foldl_append, key l _ fun x hx => h x (List.mem_append_left _ hx), List.foldl_cons, if_pos ⟨rfl, Nat.zero_le _⟩,
    key l' _ fun x hx => h x (List.mem_append_right _ hx)]

/-- A slot whose register has no result in this round is not done. -/
theorem slotDone_false {s : State} {t : RedSlot} (h : ∀ d ∈ s.arr.resNew, d.res ≠ t.res) : slotDone s t = false := by
  refine List.any_eq_false.mpr fun d hd => ?_
  simp [h d hd]

/-- A bit that is set. -/
theorem hasBit_setBit (w : Word) {i : Nat} (hi : i < 32) : hasBit (setBit w i) i = true := by
  have hbit : (bitW i).getLsbD i = true := by
    rw [bitW, BitVec.getLsbD_ofNat, Nat.testBit_two_pow_self]
    simpa using hi
  rw [hasBit, BitVec.testBit_toNat, setBit, BitVec.getLsbD_or, hbit, Bool.or_true]

/-- A doubt of controller scope leaves the array alone but for its Sleeves, and stands in the summary. -/
theorem raiseCtrl_keeps (s : State) (bit : Nat) : (raiseCtrl s bit).arr = { s.arr with sleeves := (raiseCtrl s bit).arr.sleeves }
    ∧ (raiseCtrl s bit).hem.summary = setBit s.hem.summary bit := by
  obtain ⟨x, a, b, c, d, q, r, y, h, hraise, -, hsum, -⟩ := raiseCtrl_frame s bit
  rw [hraise]
  exact ⟨rfl, hsum⟩

section Result
variable {s : State} {cycle : Nat} {t : RedSlot} (hslots : openSlots s cycle = [t])
include hslots

theorem exec_reductionResult : exec (.reductionResult cycle false) s = .next { s with arr := { s.arr with
    resNew := s.arr.resNew ++ [slotResult s t] } } := by
  refine congrArg Host.Outcome.next ?_
  rw [hslots]
  rfl

/-- An uncorrectable error gives a NaN and an empty mask, and is a doubt of controller scope (R74). -/
theorem exec_reductionResult_ue : exec (.reductionResult cycle true) s = .next (raiseCtrl { s with arr := { s.arr with
    resNew := s.arr.resNew ++ [⟨t.cycle + 12, t.isMax, t.res, f32NaN, 0⟩], arraySticky := setBit s.arr.arraySticky 0 } } 4) := by
  refine congrArg Host.Outcome.next ?_
  rw [hslots]
  rfl

end Result

/-- Settles O13, one clause at a time. -/
theorem yokeAndReductionsDeliver : Obligations.YokeAndReductionsDeliver := by
  refine ⟨⟨fun s e p ra t₀ h hslot => ?_, fun s d ue m l l' hyoke hm hl => ?_, fun s d entry cycle => ⟨fun hrx hyoke => ?_, fun r hr hentry hdue hrx hyoke => ?_, fun m hm hd hentry hdue hrx hyoke => ?_⟩, ?_⟩,
    fun s e p ra t₀ h hslot hnone => ?_, fun s e p ra t₀ m l l' h hslot hreds hm hother => ?_, ?_, ?_, fun s r cycle hslots hnew => ?_, ?_⟩
  · refine ⟨_, exec_ysend h hslot, ?_, passes_issueS h _ rfl, ?_⟩ <;> rw [issueS_eq h] <;> rfl
  · have hexec : exec (.yokeArrival d ue) s = .next (updSleeve { s with arr := { s.arr with yoke := l ++ l' } } d fun x =>
        { x with rx := x.rx ++ [⟨m.due, m.entry, if ue then none else some m.word⟩], sticky := if ue then setBit x.sticky 10 else x.sticky }) := by
      refine congrArg Host.Outcome.next ?_
      rw [hyoke, takeYoke_append hm hl]
    exact ⟨_, hexec, rfl, fun k hk => sleeve_updSleeve_other _ _ _ _ hk, sleeve_updSleeve _ _ _⟩
  · refine recvWord_none fun r hr hentry => ?_
    rcases mem_allRx.mp hr with hr | ⟨m, hm, hd, rfl⟩
    · exact hrx r hr hentry
    · exact hyoke m hm hd hentry
  · subst hentry
    refine recvWord_last (mem_allRx.mpr (.inl hr)) hdue fun x hx hne hentry => ?_
    rcases mem_allRx.mp hx with hx | ⟨m, hm, hd, rfl⟩
    · exact hrx x hx hne hentry
    · exact hyoke m hm hd hentry
  · subst hentry
    refine recvWord_last (r := ⟨m.due, m.entry, some m.word⟩) (mem_allRx.mpr (.inr ⟨m, hm, hd, rfl⟩)) hdue fun x hx hne hentry => ?_
    rcases mem_allRx.mp hx with hx | ⟨n, hn, hd', rfl⟩
    · exact hrx x hx hentry
    · exact hyoke n hn (fun heq => hne (heq ▸ rfl)) hd' hentry
  · intro s e p rd entry h c₁ c₂ x r
    have hlaunch (body : State → State) (lo hi : Word) (hown : engine (body (setEngine s e (found s e))) e = _)
        (hother : ∀ j, j ≠ e.val → engine (body (setEngine s e (found s e))) j = engine s j) :=
      launchesPair_issueS h (body := body) rd 2 lo hi hown hother c₁ c₂
    rcases hr : r with _ | w
    · refine ⟨_, exec_yrecv_empty h hr, ?_, fun k hk => ?_, nofun, fun _ => ⟨?_, hlaunch _ _ _ ?_ fun j hj => ?_⟩⟩
      · simp only [issueS_eq h, updEngine, setEngine, updSleeve, setSleeve]
      · rw [sleeve_issueS h, sleeve_updEngine]; exact sleeve_updSleeve_other _ _ _ _ hk
      · rw [sleeve_issueS h, sleeve_updEngine]; exact sleeve_updSleeve _ _ _
      · rw [engine_updEngine, engine_updSleeve, engine_setEngine]
      · rw [engine_updEngine_other _ _ _ _ hj, engine_updSleeve, engine_setEngine_other _ _ _ _ hj]
    · refine ⟨_, exec_yrecv_word h hr, ?_, fun k hk => ?_, fun v hv => ?_, nofun⟩
      · simp only [issueS_eq h, updEngine, setEngine]
      · rw [sleeve_issueS h, sleeve_updEngine]; rfl
      · obtain rfl := Option.some.inj hv
        refine ⟨?_, hlaunch _ _ _ ?_ fun j hj => ?_⟩
        · rw [sleeve_issueS h, sleeve_updEngine]; rfl
        · rw [engine_updEngine, engine_setEngine]
        · rw [engine_updEngine_other _ _ _ _ hj, engine_setEngine_other _ _ _ _ hj]
  · obtain ⟨hframe, hpass, hreds⟩ := reds_issueS h (addPart s.arr.reds t₀ (engine s e).cycle (e / 32) (rreg (found s e) ra.toNat))
    exact ⟨_, exec_yred h hslot, hframe, hpass, hreds.trans (addPart_first hnone _ _ _)⟩
  · obtain ⟨hframe, hpass, hafter⟩ := reds_issueS h (addPart s.arr.reds t₀ (engine s e).cycle (e / 32) (rreg (found s e) ra.toNat))
    exact ⟨_, exec_yred h hslot, hframe, hpass, _, hafter.trans (hreds ▸ addPart_joins hm hother _ _ _), tfind_tput_same _ _ _,
      fun k hk => tfind_tput_other _ _ _ _ hk⟩
  · intro s cycle t₀ hopen parts
    have hcycle : t₀.cycle = cycle := by
      have hmem : t₀ ∈ (slotsNow s).filter fun t => t.cycle == cycle && !slotDone s t := by rw [hopen]; exact List.mem_singleton_self _
      simp only [List.mem_filter, Bool.and_eq_true, beq_iff_eq] at hmem
      exact hmem.2.1
    have hslots : openSlots s cycle = [t₀] := hopen
    refine ⟨⟨_, exec_reductionResult hslots, by rw [← hcycle]; rfl⟩, _, exec_reductionResult_ue hslots, ?_⟩
    generalize hv : ({ s with arr := { s.arr with
      resNew := s.arr.resNew ++ [⟨t₀.cycle + 12, t₀.isMax, t₀.res, f32NaN, 0⟩], arraySticky := setBit s.arr.arraySticky 0 } } : State) = v
    obtain ⟨harr, hsum⟩ := raiseCtrl_keeps v 4
    refine ⟨?_, ?_, ?_⟩
    · rw [harr, ← hv, ← hcycle]; rfl
    · rw [harr, ← hv]; exact hasBit_setBit _ (by decide)
    · rw [hsum]; exact hasBit_setBit _ (by decide)
  · intro s cycle t₀ l l' hslots hother hnew parts
    have hopen : slotDone s t₀ = false := slotDone_false hnew
    have hdone : ∀ d ∈ s.arr.resNew.filter fun d => decide (d.due ≤ cycle), d.res ≠ t₀.res :=
      fun d hd => hnew d (List.mem_filter.mp hd).1
    have hcome (k : List RedSlot) (hk : ∀ x ∈ k, x.res ≠ t₀.res) :
        ∀ d ∈ (k.filter fun t => decide (t.cycle + 12 ≤ cycle) && !slotDone s t).map (slotResult s), d.res ≠ t₀.res := by
      intro d hd
      obtain ⟨x, hx, rfl⟩ := List.mem_map.mp hd
      exact hk x (List.mem_filter.mp hx).1
    have hl := hcome l fun x hx => hother x (List.mem_append_left _ hx)
    have hl' := hcome l' fun x hx => hother x (List.mem_append_right _ hx)
    have happ {k k' : List RedDone} (hk : ∀ d ∈ k, d.res ≠ t₀.res) (hk' : ∀ d ∈ k', d.res ≠ t₀.res) : ∀ d ∈ k ++ k', d.res ≠ t₀.res :=
      fun d hd => (List.mem_append.mp hd).elim (hk d) (hk' d)
    unfold resAt
    dsimp only
    rw [hslots, List.filter_append, List.filter_cons, hopen]
    by_cases hdue : t₀.cycle + 12 ≤ cycle
    · simp only [hdue, decide_true, Bool.not_false, Bool.and_self, if_true, List.map_append, List.map_cons, ← List.append_assoc]
      exact resAfter_one (d := slotResult s t₀) (happ (happ hdone hl) hl')
    · simp only [hdue, decide_false, Bool.false_and, Bool.false_eq_true, if_false, List.map_append]
      exact resAfter_other (happ hdone (happ hl hl'))
  · refine resAfter_other fun d hd => ?_
    rcases List.mem_append.mp hd with hd | hd
    · exact hnew d (List.mem_filter.mp hd).1
    · obtain ⟨x, hx, rfl⟩ := List.mem_map.mp hd
      exact hslots x (List.mem_filter.mp hx).1
  · intro s e p rd mask r h hc x
    refine givesReg_of h hc (f := fun en => (if mask then (resAt s r.toNat en.cycle).2 else (resAt s r.toNat en.cycle).1, 0)) ?_ ?_
    · exact congrArg Host.Outcome.next (issueS_congr h rfl)
    · rw [found_cycle]

end Sys2Proof.Machine
end

section
/-! PROOFS. What the hardware does in a round (R60, R66, R77, R80 to R82, R91) and TRIP (R112). -/
namespace Sys2Proof.Machine

/-! ### Ports -/

@[simp] theorem ctl_setCfg (s : State) (ix sub v n : Nat) : ctl (setCfg s ix sub v) n = ctl s n := rfl

/-- A port that changes its state leaves the control of the others alone. -/
theorem ctl_setPState_other (s : State) (t : PState) {n m : Nat} (h : m ≠ n) : ctl (setPState s n t) m = ctl s m := by
  unfold setPState
  dsimp only
  (repeat' split) <;> simp [ctl_updCtl_other _ _ _ _ h]

/-- And keeps what is recorded of its trip. -/
theorem ctl_setPState_trip (s : State) (t : PState) (n : Nat) :
    (ctl (setPState s n t) n).tripped = (ctl s n).tripped ∧ (ctl (setPState s n t) n).tripReason = (ctl s n).tripReason := by
  unfold setPState
  dsimp only
  (repeat' split) <;> simp

theorem ctl_portToHem_other (s : State) {n m : Nat} (h : m ≠ n) : ctl (portToHem s n) m = ctl s m := by
  unfold portToHem
  split
  · exact ctl_setPState_other s _ h
  · rfl

theorem ctl_portToHem_trip (s : State) (n : Nat) :
    (ctl (portToHem s n) n).tripped = (ctl s n).tripped ∧ (ctl (portToHem s n) n).tripReason = (ctl s n).tripReason := by
  unfold portToHem
  split
  · exact ctl_setPState_trip s _ n
  · exact ⟨rfl, rfl⟩

/-- A trip (R196): its port enters HEM if it was on, keeps its reason, and the others are left alone. -/
theorem tripPort_spec (s : State) (n : Nat) (reason : Byte) : (ctl (tripPort s n reason) n).tripped = true
    ∧ (ctl (tripPort s n reason) n).tripReason = reason
    ∧ (∀ m, link (tripPort s n reason) m = if m = n then hemmed (link s n) else link s m)
    ∧ (∀ m, m ≠ n → ctl (tripPort s n reason) m = ctl s m) ∧ (tripPort s n reason).arr = s.arr := by
  obtain ⟨a, b, c, d, r, hframe, -⟩ := tripPort_frame s n reason
  unfold tripPort at hframe ⊢
  dsimp only at hframe ⊢
  generalize hu : updCtl s n (fun c => { c with tripped := true, tripReason := reason }) = u at hframe ⊢
  obtain ⟨q, hq⟩ := trigger_frame (portToHem u n) 1
  have hctl (m : Nat) : ctl (trigger (portToHem u n) 1) m = ctl (portToHem u n) m := by rw [hq]; rfl
  have hlink (m : Nat) : link (trigger (portToHem u n) 1) m = link (portToHem u n) m := by rw [hq]; rfl
  obtain ⟨htrip, hreason⟩ := ctl_portToHem_trip u n
  refine ⟨?_, ?_, fun m => ?_, fun m hm => ?_, ?_⟩
  · rw [hctl, htrip, ← hu, ctl_updCtl]
  · rw [hctl, hreason, ← hu, ctl_updCtl]
  · rw [hlink, link_portToHem, ← hu]; rfl
  · rw [hctl, ctl_portToHem_other u hm, ← hu, ctl_updCtl_other _ _ _ _ hm]
  · rw [hframe]

/-! ### TRIP -/

section Trip
variable {s : State} {e : EngineId} {p : Pred} {reason : Byte} {j : BitVec 3} (h : Issues s e p)
include h

/-- The first TRIP of a port in a round. -/
theorem exec_trip_first (hnone : tfind (sleeve s (e / 32)).trips j.toNat = none) : exec (.trip e p reason j) s
    = .next (issueS s e p fun u => tripPort (updSleeve u (e / 32) fun x =>
        { x with trips := tput x.trips j.toNat ((engine s e).cycle, e.val, reason) }) (8 * (e / 32) + j.toNat) reason) := by
  refine congrArg Host.Outcome.next (issueS_congr h ?_)
  simp only [engine_setEngine, found_cycle, sleeve_setEngine, hnone]

variable {c₀ e₀ : Nat} {r₀ : Byte} (hsome : tfind (sleeve s (e / 32)).trips j.toNat = some (c₀, e₀, r₀))
include hsome

/-- An earlier one than that recorded gives its reason (R112). -/
theorem exec_trip_earlier (hlt : (engine s e).cycle < c₀ ∨ ((engine s e).cycle = c₀ ∧ e.val < e₀)) : exec (.trip e p reason j) s
    = .next (issueS s e p fun u => updCtl (updSleeve u (e / 32) fun x =>
        { x with trips := tput x.trips j.toNat ((engine s e).cycle, e.val, reason) }) (8 * (e / 32) + j.toNat) fun k =>
          { k with tripReason := reason }) := by
  refine congrArg Host.Outcome.next (issueS_congr h ?_)
  have hif : (decide ((engine s e).cycle < c₀) || ((engine s e).cycle == c₀ && decide (e.val < e₀))) = true := by simpa using hlt
  simp only [engine_setEngine, found_cycle, sleeve_setEngine, hsome, hif, if_true]

/-- A later one only passes. -/
theorem exec_trip_later (hge : ¬((engine s e).cycle < c₀ ∨ ((engine s e).cycle = c₀ ∧ e.val < e₀))) :
    exec (.trip e p reason j) s = .next (issueS s e p fun u => u) := by
  refine congrArg Host.Outcome.next (issueS_congr h ?_)
  have hif : (decide ((engine s e).cycle < c₀) || ((engine s e).cycle == c₀ && decide (e.val < e₀))) = false := by simpa using hge
  simp only [engine_setEngine, found_cycle, sleeve_setEngine, hsome, hif, Bool.false_eq_true, if_false]

end Trip

/-! ### Doubts and corrected errors -/

/-- A doubt of Sleeve scope sets its bit, halts its Sleeve and leaves the rest of the array alone. -/
theorem raiseSleeve_keeps (s : State) {sl bit : Nat} (hbit : bit < 32) (eng bank cycle : Nat) :
    hasBit (sleeve (raiseSleeve s sl bit eng bank cycle) sl).sticky bit = true
      ∧ (sleeve (raiseSleeve s sl bit eng bank cycle) sl).halting = true
      ∧ (raiseSleeve s sl bit eng bank cycle).arr = { s.arr with sleeves := (raiseSleeve s sl bit eng bank cycle).arr.sleeves } := by
  obtain ⟨a, b, c, d, r, q, x, h, -, hsticky, -, hhalt, -⟩ := raiseSleeve_frame s sl bit eng bank cycle
  have hx : sleeve (raiseSleeve s sl bit eng bank cycle) sl = x := (congrArg (sleeve · sl) h).trans (sleeve_setSleeve s sl x)
  rw [hx]
  exact ⟨hsticky ▸ hasBit_setBit _ hbit, hhalt, by rw [h]; rfl⟩

theorem raiseNoBank_def (s : State) (sl bit eng cycle : Nat) :
    raiseNoBank s sl bit eng cycle = raiseSleeve (drawWord s).2 sl bit eng ((drawWord s).1.toNat % 16) cycle := rfl

theorem raiseNoBank_spec (s : State) {sl bit : Nat} (hbit : bit < 32) (eng cycle : Nat) :
    hasBit (sleeve (raiseNoBank s sl bit eng cycle) sl).sticky bit = true ∧ (sleeve (raiseNoBank s sl bit eng cycle) sl).halting = true := by
  obtain ⟨hsticky, hhalt, -⟩ := raiseSleeve_keeps (drawWord s).2 (sl := sl) hbit eng ((drawWord s).1.toNat % 16) cycle
  rw [raiseNoBank_def]
  exact ⟨hsticky, hhalt⟩

/-- An instruction whose word bears a single-bit error issues all the same (R79). -/
theorem exec_nop_corrected {s : State} {e : EngineId} (hc : canIssue s e = true) (hup : upsetAt s (imemKey e (engine s e).pc) = 1) :
    exec (.nop e) s = .next (updEngine (updEngine (updEngine (countCorrected s (e / 32)) e fun en => settle en en.cycle) e fun en => en) e nextWord) := by
  refine congrArg Host.Outcome.next ?_
  have hfetch : fetchEcc s e = countCorrected s (e / 32) := by simp [fetchEcc, eccAccess, hup]
  have halways (en : Engine) : predOk en always = true := rfl
  simp only [issue, issueS, hc, if_true, hfetch, halways]

/-! ### The scrubber -/

section Scrub
variable {s : State} (hruns : scrubRuns s = true)
include hruns

theorem exec_scrub (errs : List ScrubErr) : exec (.scrub errs) s = .next (scrubNow s errs) :=
  congrArg Host.Outcome.next (if_pos hruns)

end Scrub

/-- An uncorrectable error of shared memory is a doubt of its Sleeve (R82). -/
theorem scrubOne_shm (s : State) (sl : SleeveId) (b : Fin 16) : scrubOne s { place := .shm sl b, uncorrectable := true }
    = raiseSleeve (drawWord s).2 sl 5 0xFF b (s.wheel.l - 64 + (drawWord s).1.toNat % 32) := by
  simp only [scrubOne, Bool.not_true, Bool.false_eq_true, if_false, scrubSleeve]
  rfl

/-- A word that is corrected bears no upset. -/
theorem upsets_setUpset_zero {s : State} {k : Nat} (h : s.arr.upsets = [(k, 1)]) : (setUpset s k 0).arr.upsets = [] := by
  have hset : (setUpset s k 0).arr.upsets = if s.arr.upsets.isEmpty && (0 == 0) then [] else tset 0 s.arr.upsets k 0 := rfl
  rw [hset, h]
  simp [tset, tdel]

/-- A single upset word is corrected when its place comes (R80). -/
theorem scrubUpset_one (s : State) (k : Nat) : scrubUpset s (k, 1) = match scrubPlace s k with
    | none => s
    | some place => setUpset (countCorrected s (scrubSleeve place)) k 0 := by
  unfold scrubUpset
  cases scrubPlace s k <;> rfl

/-! ### The downlink snapshot -/

/-- The copies of the Sleeves, one after the other, each in its place. -/
theorem mget_snapshot (s : State) (m : Mem) {n i : Nat} (hn : n < 32) (hi : i < 256) :
    mget (allSleeves.foldl (snapshotSleeve s) m) (256 * n + i) = mget s.arr.shm (shmKey n 0x2000 + i) := by
  have hlen (k : Nat) : (mread s.arr.shm (shmKey k 0x2000) 256).length = 256 := by simp [mread]
  have key : ∀ l : List Nat, l.Nodup → ∀ m, mget (l.foldl (snapshotSleeve s) m) (256 * n + i)
      = if n ∈ l then mget s.arr.shm (shmKey n 0x2000 + i) else mget m (256 * n + i) := by
    intro l
    induction l with
    | nil => exact fun _ _ => rfl
    | cons k l ih =>
      intro hl m
      obtain ⟨hk, hl⟩ := List.nodup_cons.mp hl
      rw [List.foldl_cons, ih hl]
      by_cases hkn : n = k
      · subst hkn
        rw [if_neg hk, if_pos List.mem_cons_self, snapshotSleeve, Nat.mul_comm 256 n, mget_mwrite_inside _ _ _ _ (by rw [hlen]; exact hi)]
        simp [mread]
      · have hout : mget (snapshotSleeve s m k) (256 * n + i) = mget m (256 * n + i) :=
          mget_mwrite_outside _ _ _ _ (by rw [hlen]; omega)
        simp [hkn, hout]
  rw [key allSleeves List.nodup_range m]
  exact if_pos (List.mem_range.mpr hn)

/-! ### The tally sweep -/

/-- Of a table the entries that a test of the key keeps. -/
theorem tget_filter {α : Type} (d : α) (t : Tab α) (keep : Nat → Bool) (k : Nat) :
    tget d (t.filter fun x => keep x.1) k = if keep k then tget d t k else d := by
  have key : tfind (t.filter fun x => keep x.1) k = if keep k then tfind t k else none := by
    induction t with
    | nil => simp [tfind]
    | cons x t ih =>
      by_cases hx : keep x.1 = true
      · rw [List.filter_cons, if_pos hx, tfind, tfind, ih]
        by_cases hk : x.1 = k
        · simp [hk, hk ▸ hx]
        · simp [hk]
      · rw [List.filter_cons, if_neg hx, tfind, ih]
        by_cases hk : x.1 = k
        · simp [← hk, hx]
        · simp [hk]
  rw [tget, key]
  split <;> rfl

/-- The tallies that stand in another unit than Sleeve n's. -/
def sameElsewhere (n : Nat) (s t : State) : Prop := (∀ k, k / 1536 ≠ n → tget 0 t.arr.bins k = tget 0 s.arr.bins k)
  ∧ ∀ k, k / 128 ≠ n → tget {} t.arr.exts k = tget {} s.arr.exts k

theorem sameElsewhere_clearTallyWord (s : State) (n : Nat) {k : Nat} (hk : k < 1024) : sameElsewhere n s (clearTallyWord s n k) := by
  unfold clearTallyWord
  dsimp only
  split
  · refine ⟨fun j hj => ?_, fun _ _ => rfl⟩
    unfold tget
    rw [tfind_tdel_other _ _ _ (by omega), tfind_tdel_other _ _ _ (by omega)]
    rfl
  · exact ⟨fun _ _ => rfl, fun j hj => tget_tset_other _ _ _ _ _ (by omega)⟩

theorem sameElsewhere_tallyEcc (s : State) (n : Nat) {k : Nat} (hk : k < 1024) : sameElsewhere n s (tallyEcc s n k) := by
  unfold tallyEcc
  split
  · exact ⟨fun _ _ => rfl, fun _ _ => rfl⟩
  · exact ⟨fun _ _ => rfl, fun _ _ => rfl⟩
  · exact sameElsewhere_clearTallyWord s n hk

theorem sameElsewhere_forAll (n : Nat) (l : List Nat) (hl : ∀ k ∈ l, k < 1024) :
    ∀ s, sameElsewhere n s (forAll l (fun s k => tallyEcc s n k) s) := by
  induction l with
  | nil => exact fun _ => ⟨fun _ _ => rfl, fun _ _ => rfl⟩
  | cons k l ih =>
    intro s
    obtain ⟨hb, he⟩ := sameElsewhere_tallyEcc s n (hl k List.mem_cons_self)
    obtain ⟨hb', he'⟩ := ih (fun j hj => hl j (List.mem_cons_of_mem _ hj)) (tallyEcc s n k)
    exact ⟨fun j hj => (hb' j hj).trans (hb j hj), fun j hj => (he' j hj).trans (he j hj)⟩

/-! ### The statement -/

section Clauses

theorem nop_corrected {s : State} {e : EngineId} (hc : canIssue s e = true) (hup : upsetAt s (imemKey e (engine s e).pc) = 1) :
    ∃ t, exec (.nop e) s = .next t ∧ engine t e = nextWord (found s e)
      ∧ (sleeve t (e / 32)).sticky = (sleeve s (e / 32)).sticky ||| 0x100 ∧ t.arr.correctedTotal = s.arr.correctedTotal + 1 := by
  refine ⟨_, exec_nop_corrected hc hup, ?_, ?_, rfl⟩
  · rw [engine_updEngine, engine_updEngine, engine_updEngine]; rfl
  · rw [sleeve_updEngine, sleeve_updEngine, sleeve_updEngine, sleeve_countCorrected, if_pos rfl]

theorem overrun_raises {s : State} {e : EngineId} (hruns : bodyRuns s e = true)
    (hover : (engine s e).ended = false ∨ s.wheel.l - 64 < (engine s e).cycle) :
    ∃ t, exec (.overrunCheck e) s = .next t ∧ hasBit (sleeve t (e / 32)).sticky 0 = true ∧ (sleeve t (e / 32)).halting = true
      ∧ t.arr.engines = s.arr.engines := by
  have hif : (bodyRuns s e && overran s e) = true := by
    rw [hruns, Bool.true_and, overran]
    simpa using hover
  obtain ⟨hsticky, hhalt⟩ := raiseNoBank_spec s (sl := e / 32) (bit := 0) (by decide) (engNo e) (s.wheel.l - 64)
  exact ⟨_, congrArg Host.Outcome.next (if_pos hif), hsticky, hhalt, (raiseNoBank_keeps s _ _ _ _).1⟩

theorem crc_raises {s : State} {e : EngineId} (hruns : scrubRuns s = true) (hwhole : s.arr.scrubWhole = true) (hris : s.wheel.ris = 1023)
    (hcrc : bankCrc (bankWords s.arr.imem e) ≠ recordedCrc s.pat.run e) :
    ∃ t, exec (.instrCrcCheck e) s = .next t ∧ hasBit (sleeve t (e / 32)).sticky 6 = true ∧ (sleeve t (e / 32)).halting = true := by
  have hif : (scrubRuns s && s.arr.scrubWhole && s.wheel.ris == 1023 && bankCrc (bankWords s.arr.imem e) != recordedCrc s.pat.run e) = true := by
    simp [hruns, hwhole, hris, hcrc]
  exact ⟨_, congrArg Host.Outcome.next (if_pos hif), raiseNoBank_spec (drawWord s).2 (by decide) 0xFF _⟩

/-- One error found where no word bears an upset: the scrubber does for it what it does, and nothing besides. -/
theorem scrubNow_single {s r : State} {e : ScrubErr} (hone : scrubOne s e = r) (hup : r.arr.upsets = []) :
    scrubNow s [e] = { r with arr := { r.arr with scrubbed := true } } := by
  simp only [scrubNow, List.foldl_cons, List.foldl_nil, hone, hup]

theorem scrub_shm {s : State} {sl : SleeveId} (hruns : scrubRuns s = true) (hquiet : quietMemory s = true) :
    (∃ t, exec (.scrub [{ place := .shm sl 2, uncorrectable := false }]) s = .next t
        ∧ t = { s with arr := { s.arr with
              sleeves := t.arr.sleeves, correctedTotal := s.arr.correctedTotal + 1, scrubbed := true } }
        ∧ (sleeve t sl).sticky = (sleeve s sl).sticky ||| 0x100)
      ∧ ∃ t, exec (.scrub [{ place := .shm sl 2, uncorrectable := true }]) s = .next t
        ∧ hasBit (sleeve t sl).sticky 5 = true ∧ (sleeve t sl).halting = true := by
  have hnil : s.arr.upsets = [] := List.isEmpty_iff.mp hquiet
  constructor
  · have hnow : scrubNow s [{ place := .shm sl 2, uncorrectable := false }]
        = { countCorrected s sl with arr := { (countCorrected s sl).arr with scrubbed := true } } := by
      have hup : (countCorrected s sl).arr.upsets = [] := hnil
      simp only [scrubNow, List.foldl_cons, List.foldl_nil, scrubOne, Bool.not_false, if_true, scrubSleeve, hup]
    refine ⟨_, (exec_scrub hruns _).trans (congrArg _ hnow), rfl, ?_⟩
    exact (congrArg Sleeve.sticky (sleeve_countCorrected s sl sl)).trans (by rw [if_pos rfl])
  · obtain ⟨hsticky, hhalt, harr⟩ := raiseSleeve_keeps (drawWord s).2 (sl := sl) (bit := 5) (by decide) 0xFF ((2 : Fin 16) : Nat)
      (s.wheel.l - 64 + (drawWord s).1.toNat % 32)
    have hone := scrubOne_shm s sl 2
    generalize raiseSleeve (drawWord s).2 sl 5 0xFF ((2 : Fin 16) : Nat) (s.wheel.l - 64 + (drawWord s).1.toNat % 32) = r
      at hsticky hhalt harr hone
    have hquietAfter : r.arr.upsets = [] := by rw [harr]; exact hnil
    exact ⟨_, (exec_scrub hruns _).trans (congrArg _ (scrubNow_single hone hquietAfter)), hsticky, hhalt⟩

theorem scrub_upset {s : State} {k : Nat} (hruns : scrubRuns s = true) (hup : s.arr.upsets = [(k, 1)]) :
    ∃ t, exec (.scrub []) s = .next t ∧ t.arr.upsets = (if (scrubPlace s k).isSome then [] else [(k, 1)])
      ∧ t.arr.correctedTotal = s.arr.correctedTotal + (if (scrubPlace s k).isSome then 1 else 0) := by
  refine ⟨_, exec_scrub hruns [], ?_⟩
  simp only [scrubNow, List.foldl_nil, hup, List.foldl_cons, scrubUpset_one]
  cases hplace : scrubPlace s k with
  | none => exact ⟨hup, by simp⟩
  | some place => exact ⟨upsets_setUpset_zero (s := countCorrected s (scrubSleeve place)) hup, rfl⟩

theorem snapshot_copies {s : State} (hruns : domainRuns s = true) : ∃ t, exec .downlinkSnapshot s = .next t
    ∧ (quietMemory s = true → t = { s with arr := { s.arr with dlBuf := t.arr.dlBuf, snapped := true } })
    ∧ ∀ n < 256, ∀ k < 32, mget t.arr.dlBuf (32 * n + k) = mget s.arr.shm (65536 * (n / 8) + 0x2000 + 32 * (n % 8) + k) := by
  refine ⟨_, congrArg Host.Outcome.next (if_pos hruns), fun hquiet => ?_, fun n hn k hk => ?_⟩
  · simp only [snapshotNow, hquiet, if_true]
  · generalize hu : (if quietMemory s = true then s else forAll allSleeves snapshotEcc s) = u
    have hshm : u.arr.shm = s.arr.shm := congrArg Core.shm (show core u = core s by rw [← hu]; simp)
    have hsplit : 32 * n + k = 256 * (n / 8) + (32 * (n % 8) + k) := by omega
    have hbank : n / 8 < 32 := by omega
    have hrow : 32 * (n % 8) + k < 256 := by omega
    have hsnap := mget_snapshot u u.arr.dlBuf hbank hrow
    rw [← hsplit, hshm] at hsnap
    have hbuf : (snapshotNow s).arr.dlBuf = allSleeves.foldl (snapshotSleeve u) u.arr.dlBuf := by
      simp only [snapshotNow, hu]
    refine (congrArg (mget · _) hbuf).trans (hsnap.trans (congrArg _ ?_))
    unfold shmKey
    omega

theorem sweep_empties {s : State} {sl : SleeveId} (hruns : domainRuns s = true) : ∃ t, exec (.tallySweep sl) s = .next t
    ∧ (quietMemory s = true → t = { s with
          arr := { s.arr with bins := t.arr.bins, exts := t.arr.exts, invalid := t.arr.invalid, sweepAge := t.arr.sweepAge }
          recorder := t.recorder })
    ∧ (∀ k, k / 1536 = sl.val → tget 0 t.arr.bins k = 0) ∧ (∀ k, k / 1536 ≠ sl.val → tget 0 t.arr.bins k = tget 0 s.arr.bins k)
    ∧ (∀ k, k / 128 = sl.val → tget {} t.arr.exts k = {}) ∧ ∀ k, k / 128 ≠ sl.val → tget {} t.arr.exts k = tget {} s.arr.exts k := by
  have hrun : (!domainRuns s) = false := by rw [hruns]; rfl
  refine ⟨sweepNow s sl, congrArg Host.Outcome.next (by rw [hrun]; rfl), fun hquiet => ?_, ?_⟩
  · simp only [sweepNow, hquiet, if_true]
  · obtain ⟨u, hu, hbins, hexts⟩ : ∃ u, sameElsewhere sl s u ∧ (sweepNow s sl).arr.bins = u.arr.bins.filter (fun b => !(b.1 / 1536 == sl.val))
        ∧ (sweepNow s sl).arr.exts = u.arr.exts.filter fun x => !(x.1 / 128 == sl.val) := by
      refine ⟨if quietMemory s then s else forAll (List.range 1024) (fun s k => tallyEcc s sl k) s, ?_, rfl, rfl⟩
      split
      · exact ⟨fun _ _ => rfl, fun _ _ => rfl⟩
      · exact sameElsewhere_forAll sl _ (fun k hk => List.mem_range.mp hk) s
    have hbin (k : Nat) := tget_filter 0 u.arr.bins (fun k => !(k / 1536 == sl.val)) k
    have hext (k : Nat) := tget_filter {} u.arr.exts (fun k => !(k / 128 == sl.val)) k
    rw [hbins, hexts]
    refine ⟨fun k hk => ?_, fun k hk => ?_, fun k hk => ?_, fun k hk => ?_⟩
    · exact (hbin k).trans (by simp [hk])
    · exact (hbin k).trans ((if_pos (by simp [hk])).trans (hu.1 k hk))
    · exact (hext k).trans (by simp [hk])
    · exact (hext k).trans ((if_pos (by simp [hk])).trans (hu.2 k hk))

end Clauses

/-- Settles O15, the hardware clause by clause, TRIP by its three cases. -/
theorem roundHardwareDoesItsWork : Obligations.RoundHardwareDoesItsWork := by
  refine ⟨⟨fun s e cycle => ?_, fun s e => nop_corrected, fun s e => overrun_raises, fun s e => crc_raises, fun s sl => scrub_shm,
    fun s k => scrub_upset, fun s => snapshot_copies, fun s sl => sweep_empties⟩, ?_⟩
  · exact ⟨_, rfl, onlyEngines_updEngine _ _ _, engine_updEngine _ _ _, fun j hj => engine_updEngine_other _ _ _ _ hj⟩
  · intro s e p reason j h n
    refine ⟨fun hnone => ?_, fun c₀ e₀ r₀ hsome => ?_⟩
    · generalize hv : setEngine s e (found s e) = v
      generalize hu : updSleeve v (e / 32)
        (fun x => { x with trips := tput x.trips j.toNat ((engine s e).cycle, e.val, reason) }) = u
      obtain ⟨htrip, hreason, hlink, hctl, harr⟩ := tripPort_spec u n reason
      have hlinks (m : Nat) : link u m = link s m := by rw [← hu, ← hv]; rfl
      have hctls (m : Nat) : ctl u m = ctl s m := by rw [← hu, ← hv]; rfl
      obtain ⟨t, ht⟩ : ∃ t, t = issueS s e p fun u => tripPort (updSleeve u (e / 32) fun x =>
          { x with trips := tput x.trips j.toNat ((engine s e).cycle, e.val, reason) }) (8 * (e / 32) + j.toNat) reason := ⟨_, rfl⟩
      have hbody : t = updEngine (tripPort u n reason) e nextWord := by rw [ht, issueS_eq h, hv, hu]
      have hpass : Passes s t e := ht ▸ passes_issueS h _ (by rw [hv, hu, harr, ← hu]; rfl)
      refine ⟨t, (exec_trip_first h hnone).trans (ht ▸ rfl), hpass, ?_, ?_, fun hcan => ?_, ?_, fun m hm => ⟨?_, ?_⟩⟩
      · rw [hbody, ctl_updEngine, htrip]
      · rw [hbody, ctl_updEngine, hreason]
      · rw [hbody, link_updEngine, hlink, if_pos rfl, hlinks, hemmed_state hcan]
      · rw [hbody, sleeve_updEngine]
        unfold sleeve
        rw [harr, ← hu]
        exact (congrArg (fun x => tfind x.trips j.toNat) (sleeve_updSleeve v (e / 32)
          (fun x => { x with trips := tput x.trips j.toNat ((engine s e).cycle, e.val, reason) }))).trans (tfind_tput_same _ _ _)
      · rw [hbody, link_updEngine, hlink, if_neg hm, hlinks]
      · rw [hbody, ctl_updEngine, hctl m hm, hctls]
    · by_cases hlt : (engine s e).cycle < c₀ ∨ ((engine s e).cycle = c₀ ∧ e.val < e₀)
      · refine ⟨_, exec_trip_earlier h hsome hlt, passes_issueS h _ rfl, ?_, fun _ => ⟨?_, ?_⟩, fun hge => absurd hlt hge⟩
        · rw [issueS_eq h]; rfl
        · rw [issueS_eq h, ctl_updEngine, ctl_updCtl, ctl_updSleeve, ctl_setEngine]
        · rw [sleeve_issueS h]
          exact (congrArg (fun x => tfind x.trips j.toNat) (sleeve_updSleeve (setEngine s e (found s e)) (e / 32)
            (fun x => { x with trips := tput x.trips j.toNat ((engine s e).cycle, e.val, reason) }))).trans (tfind_tput_same _ _ _)
      · refine ⟨_, exec_trip_later h hsome hlt, passes_issueS h _ rfl, ?_, fun hyes => absurd hyes hlt, fun _ => ⟨?_, ?_⟩⟩ <;>
          rw [issueS_eq h] <;> rfl

end Sys2Proof.Machine
end

section
/-! PROOFS. RDW, RDFLG, RIDX, INTERP, CLRFLG, ENDROUND and REPEAT (R106, R113 to R116, R118, R119). -/
namespace Sys2Proof.Machine



/-! ### Reads -/

section Reads
variable {s : State} {e : EngineId} {p : Pred} {rd : Reg} (h : Issues s e p) (hc : Clear s e (.reg rd.toNat))
include h hc

theorem givesReg_rdw (sel : BitVec 4) : GivesReg (.rdw e p rd sel) s e rd 1 (match sel.toNat with
    | 0 => (s.wheel.acc, 0) | 1 => (s.wheel.round, 0) | 2 => (s.wheel.seam, 0) | 3 => (BitVec.ofNat 32 s.wheel.ris, 0)
    | 4 => (BitVec.ofNat 32 s.wheel.ric, 0) | 5 => (BitVec.ofNat 32 s.wheel.w, 0) | 6 => (BitVec.ofNat 32 s.wheel.l, 0)
    | _ => (0, fILL)) := by
  refine givesReg_of h hc (f := fun _ => match wheelRead s sel.toNat with | some w => (w, 0) | none => (0, fILL)) rfl ?_
  generalize sel.toNat = k
  exact match k with
    | 0 | 1 | 2 | 3 | 4 | 5 | 6 | _ + 7 => rfl

theorem givesReg_ridx (outer : Bool) : GivesReg (.ridx e p rd outer) s e rd 1 (match (engine s e).reps.reverse, outer with
    | r :: _, true => BitVec.ofNat 32 r.iter
    | _ :: r :: _, false => BitVec.ofNat 32 r.iter
    | _, _ => 0, 0) := by
  refine givesReg_of h hc (f := fun en => (BitVec.ofNat 32 (repIndex en outer), 0)) rfl ?_
  have hreps : (found s e).reps = (engine s e).reps := by simp
  refine congrArg (·, 0) ?_
  unfold repIndex
  rw [hreps]
  cases outer <;> rcases (engine s e).reps.reverse with _ | ⟨r, _ | ⟨r', l⟩⟩ <;> rfl

/-- INTERP of a table whose words bear no upset (R106). -/
theorem givesReg_interp (ra rb : Reg) (hclean : ∀ k, upsetAt s (dmemKey e k) = 0) :
    GivesReg (.interp e p rd ra rb) s e rd 4 (interp (fun k =>
      wordAt s.arr.dmem (4096 * e + ((rreg (found s e) rb.toNat).toNat + 4 * k) / 4 % 1024 * 4)) (rreg (found s e) ra.toNat)) := by
  refine givesReg_of h hc (f := fun en => interp (fun k =>
    wordAt s.arr.dmem (4096 * e + ((rreg en rb.toNat).toNat + 4 * k) / 4 % 1024 * 4)) (rreg en ra.toNat)) ?_ rfl
  refine congrArg Host.Outcome.next (issueS_congr h ?_)
  have hread (k : Nat) : dmWord (setEngine s e (found s e)) e k = wordAt s.arr.dmem (4096 * e + k / 4 % 1024 * 4) := by
    rw [← mword_eq_wordAt, Nat.mul_comm]; rfl
  have hecc (k : Nat) : dmemEcc (setEngine s e (found s e)) e k = setEngine s e (found s e) := by
    unfold dmemEcc eccAccess
    rw [show upsetAt (setEngine s e (found s e)) (dmemKey e k) = 0 from hclean k]
    rfl
  have htable (l : List Nat) : dmTable (setEngine s e (found s e)) e l = (true, setEngine s e (found s e)) := by
    refine Prod.ext (List.all_eq_true.mpr fun k _ => ?_)
      (List.foldlRecOn (motive := fun t => t = setEngine s e (found s e)) l _ rfl fun t ht k _ => ?_)
    · rw [show upsetAt (setEngine s e (found s e)) (dmemKey e k) = 0 from hclean k]; rfl
    · rw [ht]; exact hecc k
  simp only [htable, hread, engine_setEngine, if_true]
  unfold updEngine
  rw [engine_setEngine]

end Reads

/-! ### CLRFLG -/

/-- What results write does not depend on the flags. -/
theorem settle_flags_agree (en : Engine) (fl : BitVec 16) (c : Nat) : agreeOff .none (settle { en with flags := fl } c) (settle en c) := by
  have hall (x : BitVec 16) : agreeOff .none (settle { en with flags := en.flags ||| fl } c) (settle { en with flags := x } c) →
      agreeOff .none (settle { en with flags := x } c) (settle { en with flags := en.flags ||| fl } c) :=
    fun ⟨hr, hp, ha⟩ => ⟨fun r hd => (hr r hd).symm, fun k hd => (hp k hd).symm, fun k hd => (ha k hd).symm⟩
  obtain ⟨hr, hp, ha⟩ := hall fl (settle_congr (a := { en with flags := en.flags ||| fl }) (b := { en with flags := fl }) en.flags c rfl
    ⟨fun _ _ => rfl, fun _ _ => rfl, fun _ _ => rfl⟩ (BitVec.or_comm _ _)).1
  obtain ⟨hr', hp', ha'⟩ := (settle_congr (a := { en with flags := en.flags ||| fl }) (b := en) fl c rfl
    ⟨fun _ _ => rfl, fun _ _ => rfl, fun _ _ => rfl⟩ rfl).1
  exact ⟨fun r hd => (hr r hd).trans (hr' r hd), fun k hd => (hp k hd).trans (hp' k hd), fun k hd => (ha k hd).trans (ha' k hd)⟩

theorem exec_clrflg_spec {s : State} {e : EngineId} {p : Pred} (mask : BitVec 11) (h : Issues s e p) :
    ∃ t, exec (.clrflg e p mask) s = .next t ∧ OnlyEngines s t ∧ PassesWord s t e
      ∧ (engine t e).flags = ((found s e).flags &&& ~~~(mask.setWidth 16))
          ||| (settle { (match (engine s e).cycle with | 0 => engine s e | c + 1 => settle (engine s e) c) with flags := 0 }
            (engine s e).cycle).flags
      ∧ ∀ k, agreeOff .none (after s t e k) (untouched s e k) := by
  have he : engine (issue s e p fun en => { en with flags := (en.flags &&& ~~~(mask.setWidth 16)) ||| flagsNow (engine s e) }) e
      = nextWord { found s e with flags := ((found s e).flags &&& ~~~(mask.setWidth 16)) ||| flagsNow (engine s e) } :=
    engine_issue s e p _ h.1 h.2
  refine ⟨_, rfl, onlyEngines_issue s e p _ h.1, ⟨fun j hj => engine_issue_other s e j p _ h.1 hj, ?_⟩, ?_, fun k => ?_⟩
  · rw [he]; simp [nextWord]
  · rw [he]; rfl
  · unfold after untouched
    rw [he]
    obtain ⟨hr, hp, ha⟩ := (settle_nextWord_agree
      { found s e with flags := ((found s e).flags &&& ~~~(mask.setWidth 16)) ||| flagsNow (engine s e) } ((engine s e).cycle + k)).1
    obtain ⟨hr', hp', ha'⟩ := settle_flags_agree (found s e) (((found s e).flags &&& ~~~(mask.setWidth 16)) ||| flagsNow (engine s e))
      ((engine s e).cycle + k)
    exact ⟨fun r hd => (hr r hd).trans (hr' r hd), fun k hd => (hp k hd).trans (hp' k hd), fun k hd => (ha k hd).trans (ha' k hd)⟩

/-! ### ENDROUND and REPEAT -/

/-- An engine whose body has ended issues no more. -/
theorem canIssue_ended {s : State} {e : Nat} (h : (engine s e).ended = true) : canIssue s e = false := by
  simp [canIssue, h]

theorem exec_endround_spec {s : State} {e : EngineId} (h : MayIssue s e) :
    ∃ t, exec (.endround e) s = .next t ∧ OnlyEngines s t ∧ engine t e = nextWord { found s e with ended := true }
      ∧ (∀ j, j ≠ e.val → engine t j = engine s j) ∧ canIssue t e = false := by
  have he : engine (issue s e always fun en => { en with ended := true }) e = nextWord { found s e with ended := true } :=
    engine_issue s e always _ h rfl
  exact ⟨_, rfl, onlyEngines_issue s e always _ h, he, fun j hj => engine_issue_other s e j always _ h hj, canIssue_ended (he ▸ rfl)⟩

/-- A level is well formed where its field is 0, its body is not empty, and it lies inside the level around it (R115). -/
theorem repeatOk_iff (en : Engine) (pfield : BitVec 4) (len : Nat) : repeatOk en pfield len = true ↔
    pfield = 0 ∧ len ≠ 0 ∧ (en.reps = [] ∨ ∃ o, en.reps = [o] ∧ en.pc + 1 + len ≤ o.start + o.len) := by
  unfold repeatOk
  rcases hreps : en.reps with _ | ⟨o, _ | ⟨o', l⟩⟩ <;> simp [Nat.one_le_iff_ne_zero, and_assoc]

theorem exec_repeat {s : State} {e : EngineId} {pfield : BitVec 4} {count len : BitVec 10} (h : MayIssue s e) :
    exec (.repeatI e pfield count len) s = .next (updEngine s e fun _ =>
      if repeatOk (found s e) pfield len.toNat then
        { found s e with pc := (found s e).pc + 1, cycle := (found s e).cycle + 1, issued := (found s e).issued + 1
                         reps := ⟨(found s e).pc + 1, len.toNat, 0, count.toNat⟩ :: (found s e).reps }
      else nextWord (setFlags (found s e) fILL)) := by
  refine congrArg Host.Outcome.next ((if_pos h.1).trans ?_)
  rw [fetchEcc_clean h.2]
  rfl

theorem exec_repeat_spec {s : State} {e : EngineId} (pfield : BitVec 4) (count len : BitVec 10) (h : MayIssue s e) :
    ∃ t, exec (.repeatI e pfield count len) s = .next t ∧ OnlyEngines s t ∧ (∀ j, j ≠ e.val → engine t j = engine s j)
      ∧ ((pfield = 0 ∧ len ≠ 0 ∧ ((engine s e).reps = []
            ∨ ∃ o, (engine s e).reps = [o] ∧ (engine s e).pc + 1 + len.toNat ≤ o.start + o.len)) →
          engine t e = { found s e with pc := (engine s e).pc + 1, cycle := (engine s e).cycle + 1, issued := (engine s e).issued + 1
                                        reps := ⟨(engine s e).pc + 1, len.toNat, 0, count.toNat⟩ :: (engine s e).reps })
      ∧ (¬(pfield = 0 ∧ len ≠ 0 ∧ ((engine s e).reps = []
            ∨ ∃ o, (engine s e).reps = [o] ∧ (engine s e).pc + 1 + len.toNat ≤ o.start + o.len)) →
          engine t e = nextWord (setFlags (found s e) fILL)) := by
  have hlen : len.toNat ≠ 0 ↔ len ≠ 0 := not_congr (by rw [← BitVec.toNat_inj]; rfl)
  have hok := repeatOk_iff (found s e) pfield len.toNat
  rw [hlen] at hok
  refine ⟨_, exec_repeat h, onlyEngines_updEngine _ _ _, fun j hj => engine_updEngine_other _ _ _ _ hj, fun hgood => ?_, fun hbad => ?_⟩
  · rw [engine_updEngine, if_pos (hok.mpr (by simpa using hgood))]
    simp
  · rw [engine_updEngine, if_neg fun hyes => hbad (by simpa using hok.mp hyes)]

/-- Settles O16, each instruction by what it issues, the end of a body by the branches of `advance`. -/
theorem readsFlagsRepeatAndEndOfRound : Obligations.ReadsFlagsRepeatAndEndOfRound := by
  refine ⟨?_, ⟨fun s e p mask => exec_clrflg_spec mask, fun s e => exec_endround_spec, fun s e => exec_repeat_spec⟩, fun r outer pc => ?_⟩
  · intro s e p rd ra rb sel outer h hc b
    exact ⟨givesReg_rdw h hc sel, givesReg_of h hc rfl rfl, givesReg_ridx h hc outer, givesReg_interp h hc ra rb⟩
  · refine ⟨fun hpc => if_neg hpc, fun hpc hmore => (if_pos hpc).trans (if_pos hmore), fun hpc hlast => ?_⟩
    exact (if_pos hpc).trans (if_neg (Nat.not_lt.mpr hlast))

end Sys2Proof.Machine
end

section
/-! PROOFS. The feeds and the wheel (R37 to R52): what a change of a feed and of the wheel's state leaves, and each event by its
branch. -/
namespace Sys2Proof.Machine

/-! ### Feeds -/

@[simp] theorem feedSt_setFeed (s : State) (f : Feed) (x : FeedSt) : feedSt (setFeed s f x) f = x := by cases f <;> rfl

@[simp] theorem feedSt_setFeed_other (s : State) (f : Feed) (x : FeedSt) : feedSt (setFeed s f x) (otherFeed f) = feedSt s (otherFeed f) := by
  cases f <;> rfl

theorem setFeed_frame (s : State) (f : Feed) (x : FeedSt) :
    setFeed s f x = { s with feedA := (setFeed s f x).feedA, feedB := (setFeed s f x).feedB } := by cases f <;> rfl

/-- What a change of other parts leaves of a feed. -/
theorem feedSt_congr {s t : State} (ha : t.feedA = s.feedA) (hb : t.feedB = s.feedB) (f : Feed) : feedSt t f = feedSt s f := by
  cases f
  · exact ha
  · exact hb

/-! ### The wheel's state -/

/-- A wheel that moves to another state keeps its counters, and its sticky bits tell of LOCKED left (R41, R43). -/
theorem wheelTo_spec {s : State} {st : WState} (hne : s.wheel.state ≠ st) : wheelTo s st = { s with wheel := (wheelTo s st).wheel }
    ∧ (wheelTo s st).wheel.state = st
    ∧ ((wheelTo s st).wheel.round, (wheelTo s st).wheel.ric, (wheelTo s st).wheel.ris, (wheelTo s st).wheel.seam)
        = (s.wheel.round, s.wheel.ric, s.wheel.ris, s.wheel.seam)
    ∧ (st ≠ .holdover → (wheelTo s st).wheel.fTick = s.wheel.fTick
        ∧ (wheelTo s st).wheel.sticky = if s.wheel.state = .locked then s.wheel.sticky ||| 1 else s.wheel.sticky) := by
  have hto : (s.wheel.state == st) = false := beq_eq_false_iff_ne.mpr hne
  unfold wheelTo
  simp only [hto, Bool.false_eq_true, if_false]
  refine ⟨trivial, trivial, trivial, fun hst => ?_⟩
  have hhold : (st == WState.holdover) = false := beq_eq_false_iff_ne.mpr hst
  simp only [hhold, setBitIf, Bool.false_eq_true, if_false, beq_iff_eq, true_and]
  rfl

theorem wheelTo_state (s : State) (st : WState) : (wheelTo s st).wheel.state = st := by
  by_cases hst : s.wheel.state = st
  · unfold wheelTo; simp [hst]
  · exact (wheelTo_spec hst).2.1

theorem wheelTo_frame (s : State) (st : WState) : wheelTo s st = { s with wheel := (wheelTo s st).wheel } := by
  by_cases hst : s.wheel.state = st
  · unfold wheelTo; simp [hst]
  · exact (wheelTo_spec hst).1

/-- A reference that is lost leaves ACQUIRE for FREE and the states that follow it for HOLDOVER (R41, R50). -/
theorem refLost_spec (s : State) : refLost s = { s with wheel := (refLost s).wheel }
    ∧ (refLost s).wheel.state = (match s.wheel.state with | .acquire => .free | .free => .free | _ => .holdover) := by
  unfold refLost
  cases hst : s.wheel.state with
  | free | holdover => exact ⟨rfl, hst⟩
  | acquire | locked | reacquire | slip => exact ⟨wheelTo_frame _ _, wheelTo_state _ _⟩

/-- A wheel that moves forgets no sticky bit, and nothing of the sync pulses. -/
theorem wheelTo_keeps (s : State) (st : WState) : (wheelTo s st).wheel.syncPresent = s.wheel.syncPresent
    ∧ (wheelTo s st).wheel.syncLost = s.wheel.syncLost
    ∧ ∀ i, hasBit s.wheel.sticky i = true → hasBit (wheelTo s st).wheel.sticky i = true := by
  have hset (c : Bool) (w : Word) (j i : Nat) (h : hasBit w i = true) : hasBit (setBitIf c w j) i = true := by
    cases c
    · exact h
    · unfold setBitIf hasBit setBit at *
      simp [BitVec.toNat_or, Nat.testBit_or, h]
  unfold wheelTo
  dsimp only
  split
  · exact ⟨rfl, rfl, fun _ h => h⟩
  · exact ⟨rfl, rfl, fun i h => hset _ _ _ _ (hset _ _ _ _ h)⟩

theorem refLost_keeps (s : State) : (refLost s).wheel.syncPresent = s.wheel.syncPresent
    ∧ (refLost s).wheel.syncLost = s.wheel.syncLost
    ∧ ∀ i, hasBit s.wheel.sticky i = true → hasBit (refLost s).wheel.sticky i = true := by
  unfold refLost
  split
  · exact wheelTo_keeps _ _
  · exact wheelTo_keeps _ _
  · exact wheelTo_keeps _ _
  · exact wheelTo_keeps _ _
  · exact ⟨rfl, rfl, fun _ h => h⟩

theorem goFree_frame (s : State) : goFree s = { s with wheel := (goFree s).wheel } := by
  unfold goFree
  split
  · exact wheelTo_frame _ _
  · rfl

theorem wheelEnter_frame (s : State) : wheelEnter s = { s with wheel := (wheelEnter s).wheel } := by
  unfold wheelEnter
  dsimp only
  split
  · split
    · rw [wheelTo_frame]
    · rfl
  · split
    · rw [wheelTo_frame]
    · exact goFree_frame s
  · split
    · exact (refLost_spec s).1
    · exact goFree_frame s

theorem trigger_keeps (s : State) (src : Nat) : (trigger s src).wheel = s.wheel
    ∧ trigger s src = { s with recorder := (trigger s src).recorder } := by
  obtain ⟨r, hr⟩ := trigger_frame s src
  rw [hr]
  exact ⟨rfl, rfl⟩

/-! ### Events of a feed -/

section Feed
variable {s : State} {f : Feed} (hruns : domainRuns s = true)
include hruns

theorem angleValid_spec (hno : (feedSt s f).angleValid = false) (hrisen : (feedSt s f).risen.isSome = true) :
    ∃ t, exec (.angleValid f) s = .next t ∧ t = { s with feedA := t.feedA, feedB := t.feedB }
      ∧ feedSt t f = { feedSt s f with
          angleValid := true, angle := (feedSt s f).rawAngle, freq := (feedSt s f).rawFreq,
          last := some ((feedSt s f).rawAngle, (feedSt s f).rawFreq) }
      ∧ feedSt t (otherFeed f) = feedSt s (otherFeed f) := by
  have hdue : (!(feedSt s f).angleValid && (feedSt s f).risen.isSome) = true := by rw [hno, hrisen]; rfl
  exact ⟨_, congrArg Host.Outcome.next ((if_pos hruns).trans (if_pos hdue)), setFeed_frame _ _ _, feedSt_setFeed _ _ _,
    feedSt_setFeed_other _ _ _⟩

theorem feedLoss_spec (hbelow : 64 ≤ (feedSt s f).below) (hthere : (feedSt s f).present = true ∨ (feedSt s f).angleValid = true) :
    ∃ t, exec (.feedLoss f) s = .next t
      ∧ t = { s with feedA := t.feedA, feedB := t.feedB, wheel := t.wheel, recorder := t.recorder }
      ∧ (feedSt t f).present = false ∧ (feedSt t f).angleValid = false ∧ (feedSt t f).angle = 0 ∧ (feedSt t f).freq = 0
      ∧ feedSt t (otherFeed f) = feedSt s (otherFeed f)
      ∧ (s.wheel.mode = 1 ∨ s.wheel.lead ≠ some f → t.wheel = s.wheel)
      ∧ (s.wheel.mode ≠ 1 → s.wheel.lead = some f → t.wheel.state = (match s.wheel.state with
          | .acquire => .free | .free => .free | _ => .holdover)) := by
  have hdue : (domainRuns s && lossDue (feedSt s f)) = true := by
    simp [hruns, lossDue, hbelow, hthere]
  refine ⟨feedLost s f, congrArg Host.Outcome.next (if_pos hdue), ?_⟩
  unfold feedLost
  dsimp only
  generalize hx : ({ feedSt s f with
      angleValid := false, present := false, angle := 0, freq := 0, last := none, aboveCycles := 0, above := false
      risen := none, presentTime := 0 } : FeedSt) = x
  obtain ⟨hwheel, hframe⟩ := trigger_keeps (setFeed s f x) 2
  have hkeeps : (setFeed s f x).wheel = s.wheel := by rw [setFeed_frame]
  generalize trigger (setFeed s f x) 2 = u at hwheel hframe
  have hfeeds (t : State) (ht : t = { u with wheel := t.wheel }) (g : Feed) : feedSt t g = feedSt (setFeed s f x) g :=
    feedSt_congr (by rw [ht, hframe]) (by rw [ht, hframe]) g
  have hall (t : State) (ht : t = { u with wheel := t.wheel }) :
      t = { s with feedA := t.feedA, feedB := t.feedB, wheel := t.wheel, recorder := t.recorder }
      ∧ (feedSt t f).present = false ∧ (feedSt t f).angleValid = false ∧ (feedSt t f).angle = 0 ∧ (feedSt t f).freq = 0
      ∧ feedSt t (otherFeed f) = feedSt s (otherFeed f) := by
    rw [hfeeds t ht f, hfeeds t ht (otherFeed f), feedSt_setFeed, feedSt_setFeed_other, ← hx]
    refine ⟨?_, rfl, rfl, rfl, rfl, rfl⟩
    rw [ht, hframe, setFeed_frame]
  rw [hwheel, hkeeps]
  by_cases hlead : (s.wheel.mode != 1 && s.wheel.lead == some f) = true
  · rw [if_pos hlead]
    obtain ⟨hloss, hstate⟩ := refLost_spec u
    simp only [Bool.and_eq_true, bne_iff_ne, ne_eq, beq_iff_eq] at hlead
    obtain ⟨hpresent, hvalid, hangle, hfreq, hother⟩ := (hall _ hloss).2
    refine ⟨(hall _ hloss).1, hpresent, hvalid, hangle, hfreq, hother, fun hno => ?_, fun _ _ => ?_⟩
    · exact absurd hno (by rintro (hmode | hno); exacts [hlead.1 hmode, hno hlead.2])
    · rw [hstate, hwheel, hkeeps]
  · rw [if_neg hlead]
    obtain ⟨hpresent, hvalid, hangle, hfreq, hother⟩ := (hall u rfl).2
    refine ⟨(hall u rfl).1, hpresent, hvalid, hangle, hfreq, hother, fun _ => hwheel.trans hkeeps, fun hmode hyes => ?_⟩
    exact absurd (by simp [hmode, hyes]) hlead

theorem feedReturn_spec (hno : (feedSt s f).present = false) (habove : (feedSt s f).above = true)
    (hlong : ((cfg s 0x2001 11 : Nat) : Rat) ≤ (feedSt s f).aboveCycles) : ∃ t, exec (.feedReturn f) s = .next t
      ∧ t = { s with feedA := t.feedA, feedB := t.feedB, wheel := t.wheel }
      ∧ (feedSt t f).present = true ∧ feedSt t (otherFeed f) = feedSt s (otherFeed f) := by
  have hdue : (domainRuns s && returnDue s (feedSt s f)) = true := by
    simp [hruns, returnDue, hno, habove, returnCycles, hlong]
  have henter := wheelEnter_frame (feedReturned s f)
  refine ⟨_, congrArg Host.Outcome.next (if_pos hdue), ?_⟩
  generalize wheelEnter (feedReturned s f) = t at henter
  have hfeed (g : Feed) : feedSt t g = feedSt (feedReturned s f) g := feedSt_congr (by rw [henter]) (by rw [henter]) g
  rw [hfeed, hfeed, feedReturned, feedSt_setFeed, feedSt_setFeed_other]
  refine ⟨?_, rfl, rfl⟩
  rw [henter, feedReturned, setFeed_frame]

end Feed

/-! ### Events of the wheel -/

/-- A move of the wheel that its state does not already show, as the statement puts it. -/
theorem moved_of {s : State} {st : WState} (hne : s.wheel.state ≠ st) (hst : st ≠ .holdover) :
    wheelTo s st = { s with wheel := (wheelTo s st).wheel } ∧ (wheelTo s st).wheel.state = st
      ∧ ((wheelTo s st).wheel.round, (wheelTo s st).wheel.ric, (wheelTo s st).wheel.ris, (wheelTo s st).wheel.seam, (wheelTo s st).wheel.fTick)
          = (s.wheel.round, s.wheel.ric, s.wheel.ris, s.wheel.seam, s.wheel.fTick)
      ∧ (wheelTo s st).wheel.sticky = (if s.wheel.state = .locked then s.wheel.sticky ||| 1 else s.wheel.sticky) := by
  obtain ⟨hframe, hstate, hcount, hrest⟩ := wheelTo_spec hne
  obtain ⟨hround, hric, hris, hseam⟩ := by simpa only [Prod.mk.injEq] using hcount
  obtain ⟨htick, hsticky⟩ := hrest hst
  exact ⟨hframe, hstate, by rw [hround, hric, hris, hseam, htick], hsticky⟩

/-- A doubt of controller scope: what it leaves, what it records, and the ports it holds. -/
theorem raiseCtrl_spec (s : State) (bit : Nat) : raiseCtrl s bit = { s with
      arr := { s.arr with sleeves := (raiseCtrl s bit).arr.sleeves }, links := (raiseCtrl s bit).links, ctls := (raiseCtrl s bit).ctls
      shelf := (raiseCtrl s bit).shelf, cfg := (raiseCtrl s bit).cfg, sq := (raiseCtrl s bit).sq
      recorder := (raiseCtrl s bit).recorder, pair := (raiseCtrl s bit).pair, hem := (raiseCtrl s bit).hem }
    ∧ MarginOnly s.cfg (raiseCtrl s bit).cfg ∧ (raiseCtrl s bit).hem.summary = setBit s.hem.summary bit
    ∧ (raiseCtrl s bit).hem.held = true
    ∧ ∀ m, link (raiseCtrl s bit) m = if m ∈ linkPorts s then hemmed (link s m) else link s m := by
  obtain ⟨x, a, b, c, d, q, r, y, h, hraise, hmargin, hsum, hheld, -, -, hlinks⟩ := raiseCtrl_frame s bit
  unfold link at *
  rw [hraise]
  exact ⟨rfl, hmargin, hsum, hheld, hlinks⟩

theorem slip_spec {s : State} (hdue : slipDue s = true) : ∃ t, exec .slip s = .next t ∧ t.wheel.state = .slip
    ∧ t.wheel.slipHigh = decide (fMax s < refFreq s) ∧ hasBit t.wheel.sticky (if fMax s < refFreq s then 2 else 3) = true
    ∧ t.hem.held = true ∧ hasBit t.hem.summary 3 = true
    ∧ (∀ n ∈ linkPorts s, canHem (link s n).state = true → (link t n).state = .hem)
    ∧ (∀ n, n ∉ linkPorts s → link t n = link s n) ∧ t.arr.engines = s.arr.engines ∧ t.net = s.net
    ∧ MarginOnly s.cfg t.cfg := by
  generalize hu : ({ wheelTo s .slip with wheel := { (wheelTo s .slip).wheel with
      slipHigh := decide (fMax s < refFreq s)
      sticky := setBit (wheelTo s .slip).wheel.sticky (if decide (fMax s < refFreq s) = true then 2 else 3) } } : State) = u
  have hexec : exec .slip s = .next (raiseCtrl u 3) := congrArg Host.Outcome.next ((if_pos hdue).trans (hu ▸ rfl))
  obtain ⟨hframe, hmargin, hsum, hheld, hlinks⟩ := raiseCtrl_spec u 3
  have hto := wheelTo_frame s .slip
  have hports : linkPorts u = linkPorts s := by rw [← hu, hto]; rfl
  have hlink (n : Nat) : link u n = link s n := by rw [← hu, hto]; rfl
  have hown (n : Nat) : link (raiseCtrl u 3) n = if n ∈ linkPorts s then hemmed (link s n) else link s n := by
    rw [hlinks, hports, hlink]
  have hwheel : (raiseCtrl u 3).wheel = u.wheel := by rw [hframe]
  refine ⟨_, hexec, ?_, ?_, ?_, hheld, ?_, fun n hn hcan => ?_, fun n hn => ?_, ?_, ?_, ?_⟩
  · rw [hwheel, ← hu]; exact wheelTo_state _ _
  · rw [hwheel, ← hu]
  · rw [hwheel, ← hu]
    by_cases hhigh : fMax s < refFreq s
    · simpa only [hhigh, decide_true, if_true] using hasBit_setBit _ (i := 2) (by decide)
    · simpa only [hhigh, decide_false, Bool.false_eq_true, if_false] using hasBit_setBit _ (i := 3) (by decide)
  · rw [hsum]; exact hasBit_setBit _ (by decide)
  · rw [hown, if_pos hn]; exact hemmed_state hcan
  · rw [hown, if_neg hn]
  · rw [hframe, ← hu, hto]
  · rw [hframe, ← hu, hto]
  · have hcfg : u.cfg = s.cfg := by rw [← hu, hto]
    exact hcfg ▸ hmargin

/-! ### Sync pulses -/

section Pulse
variable {s : State} {width : Nat} {lag : Int} {freq : Word} (hmode : s.wheel.mode = 1)
include hmode

/-- A sync pulse as its class and its place say (R48, R49). -/
theorem exec_syncPulse : exec (.syncPulse width lag freq) s = .next (
    if pulseSteps s lag < 1 then s
    else if pulseClass width = wantClass (pulsePlace s (pulseClass width) lag) then
      { s with wheel := { s.wheel with
          syncPlaced := true, syncRic := pulsePlace s (pulseClass width) lag, syncLag := lag
          syncAge := (lag : Rat) * mkRat 1 1000000000, syncFreq := freq, syncMissed := 0
          syncCycles := (if pulseSteps s lag = 1 then s.wheel.syncCycles else 0) + mkRat 1 s.wheel.w
          syncPresent := s.wheel.syncPresent
            || decide (returnCycles s ≤ (if pulseSteps s lag = 1 then s.wheel.syncCycles else 0) + mkRat 1 s.wheel.w)
          syncLost := s.wheel.syncLost && !(s.wheel.syncPresent
            || decide (returnCycles s ≤ (if pulseSteps s lag = 1 then s.wheel.syncCycles else 0) + mkRat 1 s.wheel.w)) } }
    else if pulseClass width = 2 && s.wheel.syncPlaced then
      { s with wheel := { s.wheel with syncRic := (-pulseSteps s lag % (s.wheel.w : Int)).toNat, syncCycles := 0 } }
    else { s with wheel := { s.wheel with syncCycles := 0 } }) := by
  refine congrArg Host.Outcome.next (if_neg ?_)
  simp [hmode]

/-- Such a loss takes the reference away (R50). -/
theorem syncLoss_spec (hno : s.wheel.syncLost = false) (hmissed : 64 ≤ s.wheel.syncMissed) :
    ∃ t, exec .syncLoss s = .next t ∧ t = { s with wheel := t.wheel }
      ∧ t.wheel.syncPresent = false ∧ t.wheel.syncLost = true ∧ hasBit t.wheel.sticky 4 = true
      ∧ t.wheel.state = (match s.wheel.state with
          | .acquire => .free | .locked => .holdover | .reacquire => .holdover | .slip => .holdover | x => x) := by
  have hdue : (s.wheel.mode == 1 && refLossDue s) = true := by
    simp [refLossDue, hmode, hno, hmissed]
  refine ⟨_, congrArg Host.Outcome.next (if_pos hdue), ?_⟩
  generalize hu : ({ s with wheel := { s.wheel with
      syncPresent := false, syncLost := true, syncCycles := 0, syncPlaced := false
      sticky := setBit s.wheel.sticky 4 } } : State) = u
  obtain ⟨hframe, hstate⟩ := refLost_spec u
  obtain ⟨hpresent, hlost, hbits⟩ := refLost_keeps u
  refine ⟨?_, hpresent.trans (hu ▸ rfl), hlost.trans (hu ▸ rfl), hbits 4 (hu ▸ hasBit_setBit _ (by decide)), ?_⟩
  · rw [hframe, ← hu]
  · rw [hstate, ← hu]
    dsimp only
    cases s.wheel.state <;> rfl

/-- A pulse that stands where its class belongs is placed there; another breaks the sequence, and a cycle pulse out of
its place begins a new one (R48, R49; notes/assumptions/7.md). -/
theorem syncPulse_spec {w : Wheel} {kind place placeKind : Nat} {n : Int} (hw : s.wheel = w) (hkind : pulseClass width = kind)
    (hn : pulseSteps s lag = n) (hplace : pulsePlace s kind lag = place) (hclass : wantClass place = placeKind) :
    ∃ t, exec (.syncPulse width lag freq) s = .next t ∧ t = { s with wheel := t.wheel }
      ∧ (t.wheel.state, t.wheel.round, t.wheel.ric, t.wheel.ris, t.wheel.seam, t.wheel.sticky)
          = (w.state, w.round, w.ric, w.ris, w.seam, w.sticky)
      ∧ (n < 1 → t = s)
      ∧ (1 ≤ n → kind = placeKind → t.wheel.syncPlaced = true ∧ t.wheel.syncRic = place ∧ t.wheel.syncLag = lag
          ∧ t.wheel.syncFreq = freq ∧ t.wheel.syncMissed = 0
          ∧ t.wheel.syncCycles = (if n = 1 then w.syncCycles else 0) + mkRat 1 w.w
          ∧ (t.wheel.syncPresent = true ↔ w.syncPresent = true ∨ ((cfg s 0x2001 11 : Nat) : Rat) ≤ t.wheel.syncCycles))
      ∧ (1 ≤ n → kind ≠ placeKind → t.wheel.syncCycles = 0 ∧ t.wheel.syncPresent = w.syncPresent
          ∧ t.wheel.syncMissed = w.syncMissed ∧ t.wheel.syncFreq = w.syncFreq
          ∧ (¬(kind = 2 ∧ w.syncPlaced = true) → t.wheel.syncRic = w.syncRic)) := by
  refine ⟨_, exec_syncPulse hmode, ?_⟩
  rw [hkind, hplace, hclass, hn, hw]
  by_cases hearly : n < 1
  · rw [if_pos hearly, hw]
    exact ⟨by rw [← hw], rfl, fun _ => rfl, fun h => absurd hearly (Int.not_lt.mpr h), fun h => absurd hearly (Int.not_lt.mpr h)⟩
  rw [if_neg hearly]
  by_cases hin : kind = placeKind
  · rw [if_pos hin]
    refine ⟨rfl, rfl, fun h => absurd h hearly, fun _ _ => ⟨rfl, rfl, rfl, rfl, rfl, rfl, ?_⟩, fun _ hout => absurd hin hout⟩
    rw [Bool.or_eq_true]
    exact or_congr Iff.rfl decide_eq_true_iff
  rw [if_neg hin]
  by_cases hcycle : (decide (kind = 2) && w.syncPlaced) = true
  · rw [if_pos hcycle]
    exact ⟨rfl, rfl, fun h => absurd h hearly, fun _ hyes => absurd hyes hin,
      fun _ _ => ⟨rfl, rfl, rfl, rfl, fun hno => absurd (by simpa using hcycle) hno⟩⟩
  · rw [if_neg hcycle]
    exact ⟨rfl, rfl, fun h => absurd h hearly, fun _ hyes => absurd hyes hin, fun _ _ => ⟨rfl, rfl, rfl, rfl, fun _ => rfl⟩⟩

end Pulse

/-- Settles O17: the events of a feed, those of the wheel by the state they find, and the sync pulses. -/
theorem feedsAndTheWheelFollowTheirTables : Obligations.FeedsAndTheWheelFollowTheirTables := by
  refine ⟨fun s f hruns => ⟨angleValid_spec hruns, feedLoss_spec hruns, feedReturn_spec hruns⟩, fun s => ?_, fun s width lag freq hmode =>
    ⟨syncPulse_spec hmode rfl rfl rfl rfl rfl, syncLoss_spec hmode⟩⟩
  intro w moved
  refine ⟨fun hruns hst hlong hloss hslip => ?_, fun hst hrun hloss hslip => ?_, fun hst hcycles hloss => ?_, slip_spec⟩
  · have hst : s.wheel.state = .acquire ∨ s.wheel.state = .reacquire := hst
    have hlong : 2 ≤ s.wheel.lockCycles := hlong
    have hdue : ((s.wheel.state == .acquire || s.wheel.state == .reacquire) && decide (2 ≤ s.wheel.lockCycles) && !refLossDue s
        && !slipDue s) = true := by
      simpa [hloss, hslip, hlong] using hst
    exact ⟨_, congrArg Host.Outcome.next ((if_pos hruns).trans (if_pos hdue)),
      moved_of (by rintro heq; simp [heq] at hst) (by decide)⟩
  · have hst : s.wheel.state = .locked := hst
    have hdue : (s.wheel.state == .locked && reacqDue s) = true := by
      simp [hst, reacqDue, hloss, hslip, show 64 ≤ s.wheel.lossRun from hrun]
    exact ⟨_, congrArg Host.Outcome.next (if_pos hdue), moved_of (by simp [hst]) (by decide)⟩
  · have hst : s.wheel.state = .slip := hst
    have hslip : slipDue s = false := by simp [slipDue, hst]
    have hdue : (s.wheel.state == .slip && reacqDue s) = true := by
      simp [hst, reacqDue, hloss, hslip, returnCycles, show ((cfg s 0x2001 11 : Nat) : Rat) ≤ s.wheel.inCycles from hcycles]
    exact ⟨_, congrArg Host.Outcome.next (if_pos hdue), moved_of (by simp [hst]) (by decide)⟩

end Sys2Proof.Machine
end

section
/-! PROOFS. Writes of objects: where a write goes by its index, and a configuration write that waits for its seam (R26, R35,
R267, R313, R328, R342, R448). -/
namespace Sys2Proof.Machine

/-! ### Where a write goes -/

theorem effect_2000 {s : State} {ix sub v : Nat} (hlo : 0x2000 ≤ ix) (hhi : ix < 0x2400) : effect s ix sub v = effect2000 s ix sub v := by
  unfold effect
  rw [if_neg (by omega), if_pos hhi]

theorem effect_2400 {s : State} {ix sub v : Nat} (hlo : 0x2400 ≤ ix) (hhi : ix < 0x2800) : effect s ix sub v = effect2400 s ix sub v := by
  unfold effect
  rw [if_neg (by omega), if_neg (by omega), if_pos hhi]

theorem effect_2800 {s : State} {ix sub v : Nat} (hlo : 0x2800 ≤ ix) (hhi : ix < 0x3000) : effect s ix sub v = effect2800 s ix sub v := by
  unfold effect
  rw [if_neg (by omega), if_neg (by omega), if_neg (by omega), if_pos hhi]

theorem effect_3000 {s : State} {ix sub v : Nat} (hlo : 0x3000 ≤ ix) (hhi : ix < 0x3100) : effect s ix sub v =
    if sub = 4 then portStickyWrite s (ix - 0x3000) (BitVec.ofNat 32 v) else thermStickyWrite s (ix - 0x3000) (BitVec.ofNat 32 v) := by
  unfold effect
  rw [if_neg (by omega), if_neg (by omega), if_neg (by omega), if_neg (by omega), if_pos hhi]

theorem effect_port {s : State} {n sub v : Nat} (hn : n < 256) : effect s (0x3100 + n) sub v = effect3100 s n sub v := by
  unfold effect
  rw [if_neg (by omega), if_neg (by omega), if_neg (by omega), if_neg (by omega), if_neg (by omega), if_pos (by omega),
    Nat.add_sub_cancel_left]

theorem effect_group {s : State} {g sub v : Nat} (hg : g < 256) : effect s (0x3200 + g) sub v = memberWrite s g sub v := by
  unfold effect
  rw [if_neg (by omega), if_neg (by omega), if_neg (by omega), if_neg (by omega), if_neg (by omega), if_neg (by omega),
    if_pos (by omega), Nat.add_sub_cancel_left]

/-- The pack objects that have no work of their own. -/
theorem effect_pack {s : State} {p sub v : Nat} (hp : p < 32) (hreset : sub ≠ 10) (hsticky : sub ≠ 28) :
    effect s (0x2600 + p) sub v = plainWrite s (0x2600 + p) sub v := by
  rw [effect_2400 (by omega) (by omega)]
  unfold effect2400
  dsimp only
  split <;> try omega
  rw [if_neg (by omega), if_neg (by omega), if_neg (by omega)]

/-- Only five objects have bits that a write leaves out. -/
theorem dropReserved_port {n sub v : Nat} (hn : n < 256) (hsub : sub ≠ 0x25) : dropReserved (0x3100 + n) sub v = v := by
  unfold dropReserved
  rw [if_neg (by omega), if_neg (by omega), if_neg (by omega), if_neg (by omega)]

theorem dropReserved_low {ix sub v : Nat} (hix : ix < 0x3100) (h₁ : ix ≠ 0x26F0 ∨ sub ≠ 19) (h₂ : ix ≠ 0x2810 ∨ sub ≠ 4)
    (h₃ : ix ≠ 0x29C0 ∨ (sub ≠ 2 ∧ sub ≠ 4)) : dropReserved ix sub v = v := by
  have himage : isImage ix = false := by
    simp only [isImage, Bool.or_eq_false_iff, Bool.and_eq_false_iff, decide_eq_false_iff_not, beq_eq_false_iff_ne]
    omega
  unfold dropReserved
  rw [if_neg (by omega), if_neg (by omega), if_neg (by omega), if_neg (by simp [himage]; omega)]

theorem dropReserved_group {g sub v : Nat} (hg : g < 256) : dropReserved (0x3200 + g) sub v = v := by
  have himage : isImage (0x3200 + g) = false := by
    simp only [isImage, Bool.or_eq_false_iff, Bool.and_eq_false_iff, decide_eq_false_iff_not, beq_eq_false_iff_ne]
    omega
  unfold dropReserved
  rw [if_neg (by omega), if_neg (by omega), if_neg (by omega), if_neg (by simp [himage])]

/-! ### A write that waits -/

/-- A write that waits for its seam: queued, and told to the mate (R35, R313). -/
def writeWaits (s : State) (ix sub v : Nat) : State :=
  sendCtrl { answered s stOK with net := { (answered s stOK).net with pend := s.net.pend ++ [⟨ix, sub, v, skipNow s⟩] } } (.config ix sub v)

theorem plainWrite_waits {s : State} {ix sub v : Nat} (hdef : deferred ix sub = true) (hix : ix ≠ 0x2201)
    (hrel : relStatus (taken s) ix sub v = stOK) : (plainWrite (taken s) ix sub v).1 = stOK
      ∧ withStatus (plainWrite (taken s) ix sub v).2 stOK = writeWaits s ix sub v := by
  unfold plainWrite
  rw [if_neg (by simp [hrel])]
  refine ⟨rfl, ?_⟩
  unfold mirrorConfig
  rw [if_neg (by simp [hix]), if_pos hdef, withStatus_sendCtrl]
  rfl

theorem plainWrite_forbidden {s : State} {ix sub v : Nat} (hrel : relStatus (taken s) ix sub v ≠ stOK) :
    plainWrite (taken s) ix sub v = (relStatus (taken s) ix sub v, taken s) := by
  unfold plainWrite
  rw [if_pos hrel]

/-- A configuration write with no work of its own waits, or is forbidden by a related object. -/
theorem exec_waits {c : Instr} {s : State} {lvl : Level} {ix sub v : Nat} (hobj : objectOf c = some (lvl, ix, sub, v))
    (hdrop : dropReserved ix sub v = v) (heff : effect (taken s) ix sub v = plainWrite (taken s) ix sub v)
    (hdef : deferred ix sub = true) (hix : ix ≠ 0x2201) (hadm : Admits s lvl ix sub v) :
    (relStatus (taken s) ix sub v = stOK → exec c s = .next (writeWaits s ix sub v))
      ∧ (relStatus (taken s) ix sub v ≠ stOK → exec c s = .next (answered s (relStatus (taken s) ix sub v))) := by
  have hexec := exec_admitted hobj hadm
  rw [hdrop, heff] at hexec
  refine ⟨fun hrel => ?_, fun hrel => ?_⟩
  · obtain ⟨hst, hwait⟩ := plainWrite_waits hdef hix hrel
    rw [hexec, hst, hwait]
  · rw [hexec, plainWrite_forbidden hrel]
    rfl

/-- ICHG and VCHG end the fallback of the charge watchdog (R267). -/
theorem exec_hostCharge {c : Instr} {s : State} {lvl : Level} {sub v : Nat} (hsub : sub = 1 ∨ sub = 2)
    (hobj : objectOf c = some (lvl, 0x26F0, sub, v)) (hadm : Admits s lvl 0x26F0 sub v) :
    exec c s = .next { writeWaits s 0x26F0 sub v with shelf := { s.shelf with cwdSafe := false, cwdTime := 0 } } := by
  have hrel : relStatus (taken s) 0x26F0 sub v = stOK := by rcases hsub with rfl | rfl <;> rfl
  have heff : effect (taken s) 0x26F0 sub v = (stOK, hostCharge (plainWrite (taken s) 0x26F0 sub v).2) := by
    have hst := (plainWrite_waits (s := s) (ix := 0x26F0) (by rcases hsub with rfl | rfl <;> rfl) (by decide) hrel).1
    have hif : (if (plainWrite (taken s) 0x26F0 sub v).1 = stOK then hostCharge (plainWrite (taken s) 0x26F0 sub v).2
        else (plainWrite (taken s) 0x26F0 sub v).2) = hostCharge (plainWrite (taken s) 0x26F0 sub v).2 := if_pos hst
    rcases hsub with rfl | rfl <;> exact (effect_2400 (by decide) (by decide)).trans (Prod.ext hst hif)
  have hexec := exec_admitted hobj hadm
  rw [dropReserved_low (by decide) (by omega) (by omega) (by omega), heff] at hexec
  obtain ⟨-, hwait⟩ := plainWrite_waits (s := s) (ix := 0x26F0) (v := v) (by rcases hsub with rfl | rfl <;> rfl) (by decide) hrel
  have hshelf : (plainWrite (taken s) 0x26F0 sub v).2.shelf = s.shelf := by
    have := congrArg State.shelf hwait
    exact this.trans (by unfold writeWaits sendCtrl; split <;> rfl)
  rw [hexec, ← hwait, ← hshelf]
  rfl

/-! ### Groups -/

/-- A membership write is refused while a group write of its group awaits its seam (R26). -/
theorem exec_members {s : State} {lvl : Level} {g : GroupId} {k : Nat} {w : Word} (hlo : 1 ≤ k) (hhi : k ≤ 8)
    (hadm : Admits s lvl (0x3200 + g) k w.toNat) :
    ((∃ p ∈ s.net.pend, isImage p.index = true ∧ imageGroup p.index = g.val) → exec (.members lvl g k w) s = .next (answered s stBusy))
      ∧ ((∀ p ∈ s.net.pend, isImage p.index = false) → s.arm.group = none →
          exec (.members lvl g k w) s = .next (writeWaits s (0x3200 + g) k w.toNat)) := by
  have hexec : exec (.members lvl g k w) s = .next (withStatus (memberWrite (taken s) g k w.toNat).2 (memberWrite (taken s) g k w.toNat).1) := by
    have hcmd : exec (.members lvl g k w) s = .next (cmd s lvl (0x3200 + g) k w.toNat) := by
      refine congrArg Host.Outcome.next (congrArg (served s) (funext fun t => if_pos ⟨hlo, hhi⟩))
    rw [hcmd, cmd_admitted hadm, dropReserved_group (by omega), effect_group (by omega)]
  refine ⟨fun hgroup => ?_, fun hnone harm => ?_⟩
  · have hbusy : memberWrite (taken s) g k w.toNat = (stBusy, taken s) := if_pos (by
      obtain ⟨p, hp, himage, hg⟩ := hgroup
      exact Bool.or_eq_true_iff.mpr (.inl (List.any_eq_true.mpr ⟨p, hp, by simp [himage, hg]⟩)))
    rw [hexec, hbusy]
    rfl
  · have hfree : memberWrite (taken s) g k w.toNat = plainWrite (taken s) (0x3200 + g) k w.toNat := by
      refine if_neg (Bool.not_eq_true _ ▸ Bool.or_eq_false_iff.mpr ⟨List.any_eq_false.mpr fun p hp => ?_, ?_⟩)
      · simp [hnone p hp]
      · rw [show (taken s).arm.group = none from harm]; rfl
    have hrel : relStatus (taken s) (0x3200 + g) k w.toNat = stOK := by
      unfold relStatus
      rw [if_neg (by omega), if_neg (by omega)]
      unfold relRack
      dsimp only
      split <;> omega
    obtain ⟨hst, hwait⟩ := plainWrite_waits (s := s) (ix := 0x3200 + g) (sub := k) (v := w.toNat)
      (by simp [deferred]; omega) (by omega) hrel
    rw [hexec, hfree, hst, hwait]

/-- A command of an object as the write of an item that bears its value. -/
theorem exec_objectWrite {c : Instr} {s : State} {lvl : Level} {ix sub v : Nat} {r : Row} {item : WriteItem}
    (hobj : objectOf c = some (lvl, ix, sub, v)) (hacc : accessStatus (taken s) lvl ix sub true = stOK)
    (hrow : rowHere (taken s) ix sub = some r) (hty : r.ty < 11) (hix : item.index = ix) (hsub : item.sub = sub) (hity : item.ty = r.ty)
    (hlen : item.value.length = typeSize r.ty) (hval : leNat item.value = v) : exec (.objectWrite lvl item) s = exec c s := by
  have hlocate : ¬(ix = 0x2800 ∧ sub = 7) := by
    rintro ⟨rfl, rfl⟩
    cases c <;> simp [objectOf] at hobj <;> omega
  rw [exec_objectOf hobj]
  refine congrArg Host.Outcome.next ?_
  by_cases hs : Serves s
  · rw [cmd, served_of hs, served_of hs]
    have hitem : writeItem (taken s) lvl 0 item = objWrite (taken s) lvl ix sub v := by
      unfold writeItem
      rw [hix, hsub, hval]
      simp only [hacc, ne_eq, not_true_eq_false, if_false, hrow, hity, hlen, false_or]
      rw [if_neg (by omega), if_neg (by omega), if_neg fun h => hlocate ⟨h.1, h.2.1⟩]
    rw [hitem]
  · rw [cmd, served_none hs, served_none hs]

/-- The commands of a group write neither see nor change the state of the server. -/
theorem queueCmds_net (v : Nat) (x : Net) (l : List Nat) : ∀ s : State,
    forAll l (fun s n => queueCmd s n v) { s with net := x } = { forAll l (fun s n => queueCmd s n v) s with net := x } := by
  induction l with
  | nil => exact fun _ => rfl
  | cons n l ih => exact fun s => ih (queueCmd s n v)

theorem wheel_queueCmds (v : Nat) (l : List Nat) : ∀ s : State, (forAll l (fun s n => queueCmd s n v) s).wheel = s.wheel := by
  induction l with
  | nil => exact fun _ => rfl
  | cons n l ih => exact fun s => ih (queueCmd s n v)

theorem net_queueCmds (v : Nat) (l : List Nat) : ∀ s : State, (forAll l (fun s n => queueCmd s n v) s).net = s.net := by
  induction l with
  | nil => exact fun _ => rfl
  | cons n l ih => exact fun s => ih (queueCmd s n v)

section GroupWrite
variable {s : State} {lvl : Level} {g : Option GroupId} {sub ty ix v : Nat} {value : List Byte} {r : Row}
  (hs : Serves s) (hix : ix = match g with | some k => 0x3300 + k.val | none => 0x33FF) (hv : v = dropReserved ix sub (leNat value))
  (hacc : accessStatus (taken s) lvl ix sub true = stOK) (hparam : paramAt s ix sub = none) (hgate : gated s ix sub = false)
  (hrow : rowHere (taken s) ix sub = some r) (hty : ty = r.ty) (hsmall : r.ty < 11) (hlen : value.length = typeSize r.ty)
  (hbool : r.ty = 1 → leNat value ≤ 1) (hrng : rngOk r (leNat value) = true)
include hs hix hv hacc hparam hgate hrow hty hsmall hlen hbool hrng

/-- A group write that passes the checks of its object is what the group does with it. -/
theorem exec_groupWrite : exec (.groupWrite lvl g sub ty value) s
    = .next (withStatus (groupWrite (taken s) ix sub v).2 (groupWrite (taken s) ix sub v).1) := by
  have himage : isImage ix = true := by
    rw [hix]
    cases g with
    | none => rfl
    | some k => simp [isImage]; omega
  have hright : objWrite (taken s) lvl ix sub (leNat value) = groupWrite (taken s) ix sub v := by
    unfold objWrite rightWrite
    have hfits : ¬(11 ≤ r.ty ∨ r.ty = 1 ∧ 1 < leNat value) := by
      rintro (h | ⟨h, h'⟩)
      · omega
      · exact absurd (hbool h) (by omega)
    simp only [hacc, ne_eq, not_true_eq_false, if_false, hrow, hfits, hrng, Bool.not_true, Bool.false_eq_true, gated_taken,
      paramAt_taken, hparam, himage, hgate, if_true, ← hv, ite_self]
  have hitem : writeItem (taken s) lvl 0 { index := ix, sub := sub, ty := ty, value := value } = groupWrite (taken s) ix sub v := by
    unfold writeItem
    dsimp only
    rw [hright]
    have hlocate : ¬(ix = 0x2800) := by rintro rfl; exact absurd himage (by decide)
    simp only [hacc, ne_eq, not_true_eq_false, if_false, hrow, hty, hlen, false_or]
    rw [if_neg (by omega), if_neg (by omega), if_neg fun h => hlocate h.1]
  refine congrArg Host.Outcome.next ((served_of hs _).trans (Eq.trans ?_ (congrArg (fun r => withStatus r.2 r.1) hitem)))
  subst hix
  rfl

/-- A group write that one member refuses is refused for all (R26). -/
theorem groupWrite_refused (hbad : ∃ n ∈ members s (imageGroup ix), memberStatus (taken s) sub v n ≠ stOK) :
    ∃ t, exec (.groupWrite lvl g sub ty value) s = .next t
      ∧ t = { answered s stGroup with net := { (answered s stGroup).net with gres := t.net.gres } }
      ∧ (tget {} t.net.gres (imageGroup ix)).failPort ∈ members s (imageGroup ix)
      ∧ (tget {} t.net.gres (imageGroup ix)).failStatus = memberStatus (taken s) sub v (tget {} t.net.gres (imageGroup ix)).failPort
      ∧ (tget {} t.net.gres (imageGroup ix)).written = [] := by
  obtain ⟨n, hn⟩ : ∃ n, (members s (imageGroup ix)).find? (fun n => memberStatus (taken s) sub v n != stOK) = some n := by
    refine Option.isSome_iff_exists.mp (List.find?_isSome.mpr ?_)
    obtain ⟨n, hmem, hst⟩ := hbad
    exact ⟨n, hmem, bne_iff_ne.mpr hst⟩
  have hrefused : groupWrite (taken s) ix sub v = (stGroup, setRes (taken s) (imageGroup ix) { tget {} s.net.gres (imageGroup ix) with
      written := [], late := [], failPort := n, failStatus := memberStatus (taken s) sub v n, target := sub }) := by
    have hn' : (members (taken s) (imageGroup ix)).find? (fun n => memberStatus (taken s) sub v n != stOK) = some n := hn
    simp only [groupWrite, hn']
    rfl
  refine ⟨_, exec_groupWrite hs hix hv hacc hparam hgate hrow hty hsmall hlen hbool hrng, ?_⟩
  rw [hrefused]
  have hres (x : GroupRes) : tget {} (withStatus (setRes (taken s) (imageGroup ix) x) stGroup).net.gres (imageGroup ix) = x :=
    tget_tput_same _ _ _ _
  rw [hres]
  exact ⟨rfl, List.mem_of_find?_eq_some hn, rfl, rfl⟩

/-- A group write that every member takes waits for its seam (R26, R35). -/
theorem groupWrite_waits (hpath : isPath sub = false) (hall : ∀ n ∈ members s (imageGroup ix), memberStatus (taken s) sub v n = stOK) :
    ∃ gres, exec (.groupWrite lvl g sub ty value) s = .next (sendCtrl { (if sub = 1 then
          forAll (members s (imageGroup ix)) (fun s n => queueCmd s n v) (answered s stOK) else answered s stOK) with
        net := { (answered s stOK).net with gres := gres, pend := s.net.pend ++ [⟨ix, sub, v, skipNow s⟩] } } (.command ix sub v))
      ∧ (tget {} gres (imageGroup ix)).failPort = 0xFFFF ∧ (tget {} gres (imageGroup ix)).target = sub
      ∧ (tget {} gres (imageGroup ix)).applySeam = s.wheel.seam + BitVec.ofNat 32 (1 + skipNow s) := by
  have hnone : (members s (imageGroup ix)).find? (fun n => memberStatus (taken s) sub v n != stOK) = none :=
    List.find?_eq_none.mpr fun n hn => by simp [hall n hn]
  generalize hres : ({
      written := [], late := [], failPort := 0xFFFF, failStatus := 0, target := sub
      applySeam := s.wheel.seam + BitVec.ofNat 32 (1 + skipNow s) } : GroupRes) = res
  generalize htold : (if sub = 1 then forAll (members s (imageGroup ix)) (fun s n => queueCmd s n v) (taken s) else taken s) = told
  have hwaits : groupWrite (taken s) ix sub v
      = (stOK, sendCtrl (queueWrite (setRes told (imageGroup ix) res) ix sub v) (.command ix sub v)) := by
    have hnone' : (members (taken s) (imageGroup ix)).find? (fun n => memberStatus (taken s) sub v n != stOK) = none := hnone
    simp only [groupWrite, hnone', hpath, Bool.false_eq_true, if_false]
    rw [← hres, ← htold]
    rfl
  have hnet : told.net = (taken s).net := by
    rw [← htold]
    split
    · exact net_queueCmds _ _ _
    · rfl
  have hwheel : told.wheel = s.wheel := by
    rw [← htold]
    split
    · exact wheel_queueCmds _ _ _
    · rfl
  have hbase : (if sub = 1 then forAll (members s (imageGroup ix)) (fun s n => queueCmd s n v) (answered s stOK) else answered s stOK)
      = { told with net := (answered s stOK).net } := by
    rw [← htold]
    split
    · exact queueCmds_net v (answered s stOK).net _ (taken s)
    · rfl
  refine ⟨tput s.net.gres (imageGroup ix) res, ?_, ?_⟩
  · rw [exec_groupWrite hs hix hv hacc hparam hgate hrow hty hsmall hlen hbool hrng, hwaits, hbase]
    refine congrArg Host.Outcome.next ((withStatus_sendCtrl _ _ _).trans (congrArg (sendCtrl · _) ?_))
    unfold queueWrite setRes withStatus
    dsimp only
    rw [hnet, show skipNow { told with net := _ } = skipNow s from by unfold skipNow; dsimp only; rw [hwheel]]
    rfl
  · rw [tget_tput_same, ← hres]
    exact ⟨rfl, rfl, rfl⟩

end GroupWrite

/-- Settles O26: each object by where its write goes. -/
theorem configurationWritesWaitForTheirSeam : Obligations.ConfigurationWritesWaitForTheirSeam := by
  refine ⟨?_, fun s lvl g k w hlo hhi hadm => exec_members hlo hhi hadm,
    fun c s lvl ix sub v r item hobj hacc hrow hty hix hsub hity hlen hval => exec_objectWrite hobj hacc hrow hty hix hsub hity hlen hval, ?_⟩
  · intro s lvl b h w n p waits
    refine ⟨exec_waits rfl rfl rfl rfl (by decide), exec_waits rfl rfl rfl rfl (by decide), exec_waits rfl rfl rfl rfl (by decide),
      exec_waits rfl rfl rfl rfl (by decide), ?_, ?_, exec_waits rfl rfl rfl rfl (by decide), fun vchg hadm => ?_⟩
    · refine exec_waits rfl (dropReserved_port n.isLt (by decide)) ?_ ?_ (by omega)
      · rw [effect_port n.isLt]
        rfl
      · simp [deferred]; omega
    · exact exec_waits rfl (dropReserved_low (by omega) (by omega) (by omega) (by omega)) (effect_pack p.isLt (by decide) (by decide))
        (by simp [deferred]; omega) (by omega)
    · cases vchg
      · exact exec_hostCharge (.inl rfl) rfl hadm
      · exact exec_hostCharge (.inr rfl) rfl hadm
  · intro s lvl g sub ty value r hs ix v hacc hparam hgate hrow hty hsmall hlen hbool hrng hpath
    exact ⟨fun _ => groupWrite_refused hs rfl rfl hacc hparam hgate hrow hty hsmall hlen hbool hrng,
      groupWrite_waits hs rfl rfl hacc hparam hgate hrow hty hsmall hlen hbool hrng hpath⟩

end Sys2Proof.Machine
end

section
/-! PROOFS. LOAD_START and the checks of a load (R121 to R123, R129 to R131, R134, R142). -/
namespace Sys2Proof.Machine

theorem failIf_eq_none {c : Bool} {f : Fail} : failIf c f = none ↔ c = false := by
  cases c <;> simp [failIf]

/-! ### What an accepted image has shown -/

section Accepted
variable {s : State} {img : PatImg}

theorem checkSize_none (h : checkSize img = none) : ∀ x ∈ img.sections, x.offset % 16 = 0 ∧ 64 ≤ x.offset
    ∧ x.offset + x.data.length + 96 ≤ img.imageSize := by
  obtain ⟨-, hrest⟩ := orElse_none.mp h
  obtain ⟨hplace, -⟩ := orElse_none.mp hrest
  intro x hx
  have hgood := List.findIdx?_eq_none_iff.mp (Option.map_eq_none_iff.mp hplace) x hx
  simp only [badPlace, Bool.or_eq_false_iff, decide_eq_false_iff_not, bne_eq_false_iff_eq] at hgood
  obtain ⟨⟨hlo, hhi⟩, halign⟩ := hgood
  exact ⟨halign, Nat.not_lt.mp hlo, Nat.not_lt.mp hhi⟩

theorem sigOk_spec (h : sigOk s img = true) : img.sigKey = some img.keySlot ∧ img.keySlot ≤ 4 ∧ (img.stock = true ↔ img.keySlot = 0)
    ∧ (img.keySlot ≠ 0 → tget [] s.net.imageKeys img.keySlot ≠ []) := by
  simp only [sigOk, Bool.and_eq_true, beq_iff_eq, decide_eq_true_eq, Bool.or_eq_true, Bool.not_eq_true'] at h
  obtain ⟨⟨⟨hkey, hslot⟩, hstock⟩, hinstalled⟩ := h
  refine ⟨hkey, hslot, by rw [hstock]; exact beq_iff_eq, fun hne => ?_⟩
  exact List.isEmpty_eq_false_iff.mp (hinstalled.resolve_left hne)

/-- Header, sections, signature and timebase of an image that passes the first six checks (R122, R123, R130). -/
theorem checkHead_none (h : checkHead s img = none) :
    (∀ x ∈ img.sections, crc32 x.data = x.crc ∧ x.offset % 16 = 0 ∧ 64 ≤ x.offset ∧ x.offset + x.data.length + 96 ≤ img.imageSize)
    ∧ sigOk s img = true ∧ legalW img.w ∧ 512 ≤ img.l ∧ img.l ≤ 4096 ∧ img.l % 64 = 0 := by
  obtain ⟨-, h⟩ := orElse_none.mp h
  obtain ⟨hsize, h⟩ := orElse_none.mp h
  obtain ⟨hcrc, h⟩ := orElse_none.mp h
  obtain ⟨hsig, h⟩ := orElse_none.mp h
  obtain ⟨hbase, -⟩ := orElse_none.mp h
  have hbase := failIf_eq_none.mp hbase
  simp only [Bool.not_eq_false', Bool.and_eq_true, Bool.or_eq_true, beq_iff_eq, decide_eq_true_eq] at hbase
  obtain ⟨⟨⟨hw, hlo⟩, hhi⟩, hl⟩ := hbase
  refine ⟨fun x hx => ⟨?_, checkSize_none hsize x hx⟩, by simpa using failIf_eq_none.mp hsig, ?_, hlo, hhi, hl⟩
  · simpa using List.findIdx?_eq_none_iff.mp (Option.map_eq_none_iff.mp hcrc) x hx
  · unfold legalW
    tauto

/-- Seed rounds, CRCs and modules of an image that passes the checks of its maps (R125, R131, R142). -/
theorem checkMaps_none {bs : List Body} (h : checkMaps img bs = none) : img.seedRounds ≤ 64
    ∧ (∀ e < 1024, bankCrc (engWords img e) = recordedCrc img e)
    ∧ ∀ m ∈ img.modules, m.version = Config.moduleVersion m.ident ∧ m.digest = Config.moduleDigest m.ident := by
  obtain ⟨-, h⟩ := orElse_none.mp h
  obtain ⟨-, h⟩ := orElse_none.mp h
  obtain ⟨-, h⟩ := orElse_none.mp h
  obtain ⟨-, h⟩ := orElse_none.mp h
  obtain ⟨hseed, h⟩ := orElse_none.mp h
  obtain ⟨-, h⟩ := orElse_none.mp h
  obtain ⟨hcrc, hmodules⟩ := orElse_none.mp h
  refine ⟨Nat.not_lt.mp (of_decide_eq_false (failIf_eq_none.mp hseed)), fun e he => ?_, fun m hm => ?_⟩
  · simpa using List.find?_eq_none.mp (Option.map_eq_none_iff.mp hcrc) e (List.mem_range.mpr he)
  · have hfits := List.any_eq_false.mp (failIf_eq_none.mp hmodules) m hm
    simpa [moduleFits] using hfits

/-- A hitless pattern has the running timebase and PERSIST_ID (R134). -/
theorem checkSwap_none (h : checkSwap s img = none) : img.w = s.wheel.w ∧ img.l = s.wheel.l ∧ img.persistId = s.pat.run.persistId := by
  obtain ⟨hbase, h⟩ := orElse_none.mp h
  obtain ⟨hpersist, -⟩ := orElse_none.mp h
  have hbase := failIf_eq_none.mp hbase
  have hpersist := failIf_eq_none.mp hpersist
  simp only [Bool.or_eq_false_iff, bne_eq_false_iff_eq] at hbase hpersist
  exact ⟨hbase.1, hbase.2, hpersist⟩

theorem loadFault_none {hitless : Bool} (h : loadFault s img hitless = none) : checkHead s img = none
    ∧ checkMaps img (allBodies img) = none ∧ (hitless = true → checkSwap s img = none) := by
  obtain ⟨hhead, h⟩ := orElse_none.mp h
  obtain ⟨-, h⟩ := orElse_none.mp h
  obtain ⟨-, h⟩ := orElse_none.mp h
  obtain ⟨hmaps, h⟩ := orElse_none.mp h
  exact ⟨hhead, hmaps, fun hyes => by rwa [if_pos hyes] at h⟩

end Accepted

/-! ### The first checks -/

theorem formatOk_iff (img : PatImg) : formatOk img = true
    ↔ img.magic = 0x31544150 ∧ img.format = 1 ∧ img.headerSize = 0x40 ∧ crc32 (headerBytes img) = img.headerCrc := by
  simp [formatOk, and_assoc]

theorem loadFault_format {s : State} {img : PatImg} {hitless : Bool} (h : formatOk img = false) :
    loadFault s img hitless = some { code := 0x01 } := by
  unfold loadFault checkHead
  rw [h]
  rfl

theorem loadFault_size {s : State} {img : PatImg} {hitless : Bool} (h : formatOk img = true) (hsize : 8388608 < img.imageSize) :
    loadFault s img hitless = some { code := 0x02 } := by
  unfold loadFault checkHead checkSize
  rw [h, decide_eq_true hsize]
  rfl

/-! ### The commands -/

theorem exec_loadStart {s : State} {lvl : Level} {v : Byte} (hadm : Admits s lvl 0x2101 3 v.toNat) (hv : v ≠ 0) :
    exec (.loadStart lvl v) s = .next (withStatus (mirrored (loadStartNow (taken s)) 0x2101 3 v.toNat).2
      (mirrored (loadStartNow (taken s)) 0x2101 3 v.toNat).1) := by
  have hv0 : v.toNat ≠ 0 := fun h => hv (BitVec.eq_of_toNat_eq h)
  have heff : effect (taken s) 0x2101 3 v.toNat = mirrored (loadStartNow (taken s)) 0x2101 3 v.toNat :=
    (effect_2000 (by decide) (by decide)).trans (if_neg hv0)
  have hexec := exec_admitted (c := .loadStart lvl v) rfl hadm
  rwa [dropReserved_low (by decide) (by omega) (by omega) (by omega), heff] at hexec

/-- A failed load reports the check, and what R129 fixes of the detail. -/
theorem loadFailed_spec (s : State) (f : Fail) : ∃ w : Word, loadFailed s f = { s with
      draws := s.draws + 1, pat := { s.pat with loading := none, loadResult := f.code, loadDetail := w } }
    ∧ (∀ d, f.low = some d → w.toNat % 65536 = d % 65536) ∧ ∀ k, f.sect = some k → k < 65536 → w.toNat / 65536 = k := by
  refine ⟨_, rfl, fun d hd => ?_, fun k hk hlt => ?_⟩
  · rw [hd, Option.getD_some, BitVec.toNat_ofNat]
    omega
  · rw [hk, Option.getD_some, BitVec.toNat_ofNat]
    omega

/-- Settles O27: the start, the end of a load by its first failing check, and what an accepted image has shown. -/
theorem loadsAreCheckedInOrder : Obligations.LoadsAreCheckedInOrder := by
  refine ⟨?_, ?_, ?_⟩
  · intro s lvl v hadm restart
    refine ⟨?_, fun hv hbusy => ?_, fun hv hfree => ?_⟩
    · rintro rfl
      exact exec_admitted rfl hadm
    · have hnow : loadStartNow (taken s) = (stBusy, taken s) := if_pos (beq_iff_eq.mpr hbusy)
      rw [exec_loadStart hadm hv, hnow]
      rfl
    · have hnow : loadStartNow (taken s) = (stOK, { taken s with pat := { s.pat with
          loading := some (latest s 0x2101 1, restart), loadResult := 0xFF, loadDetail := 0
          shadowState := if restart then s.pat.shadowState else 0 } }) := if_neg (by simpa [taken] using hfree)
      rw [exec_loadStart hadm hv, hnow]
      exact congrArg Host.Outcome.next (withStatus_sendCtrl _ _ _)
  · intro s img slot restart hruns hp1 hload hactive
    have hloading : (if collarRuns s then s.pat.loading else none) = some (slot, restart) := (if_pos hruns).trans hload
    have hfirst : (s.pat.p1.isSome || (restart && s.pat.activeSlot == 0xFF)) = false := by
      rcases hactive with rfl | hslot <;> simp_all
    refine ⟨fun f hf => ?_, fun hok hrestart => ?_, fun hok hrestart => ?_⟩
    · obtain ⟨w, hfail, hlow, hsect⟩ := loadFailed_spec s f
      refine ⟨w, ?_, hlow, hsect⟩
      unfold exec execLoadChecksComplete
      simp only [hloading, hf, hfail, hp1]
      rfl
    · subst hrestart
      unfold exec execLoadChecksComplete
      simp only [hloading, hok, hfirst]
      rfl
    · subst hrestart
      refine ⟨loadAccepted s img slot false, ?_, rfl⟩
      unfold exec execLoadChecksComplete
      simp only [hloading, hok, hfirst]
      rfl
  · intro s img hitless
    refine ⟨fun hbad => loadFault_format ?_, fun hmagic hformat hheader hcrc => loadFault_size ((formatOk_iff img).mpr ⟨hmagic, hformat, hheader, hcrc⟩),
      fun hok => ?_⟩
    · refine Bool.eq_false_iff.mpr fun hyes => ?_
      obtain ⟨hmagic, hformat, hheader, hcrc⟩ := (formatOk_iff img).mp hyes
      rcases hbad with h | h | h | h <;> exact h (by assumption)
    · obtain ⟨hhead, hmaps, hswap⟩ := loadFault_none hok
      obtain ⟨hsections, hsig, hw, hlo, hhi, hl⟩ := checkHead_none hhead
      obtain ⟨hkey, hslot, hstock, hinstalled⟩ := sigOk_spec hsig
      obtain ⟨hseed, hbanks, hmodules⟩ := checkMaps_none hmaps
      exact ⟨hsections, hkey, hslot, hstock, hinstalled, hw, hlo, hhi, hl, hseed, hbanks, hmodules, fun h => checkSwap_none (hswap h)⟩

end Sys2Proof.Machine
end

section
/-! PROOFS. COMMIT, the staging of a new pattern, its readback and its swap (R125, R132 to R134): lists of words written to the
engines' memories, and the words they leave. -/
namespace Sys2Proof.Machine

/-! ### Words written one after another -/

/-- A word of an engine's memory after a write by its number. -/
theorem wordAt_dmWriteKey (m : Mem) (j : Nat) (w : Word) (e k : Nat) :
    wordAt (dmWriteKey m j w) (4096 * e + 4 * k) = if j = e * 1024 + k then w else wordAt m (4096 * e + 4 * k) := by
  unfold dmWriteKey
  split
  case isTrue h =>
    rw [show j / 1024 * 4096 + j % 1024 * 4 = 4096 * e + 4 * k by omega]
    exact wordAt_mputWord _ _ _
  case isFalse h => exact wordAt_mputWord_apart _ _ _ _ (by omega)

section Words
variable {α : Type} {key : α → Nat} {val : α → Word}

theorem wordAt_writes_other {e k : Nat} (l : List α) (hl : ∀ x ∈ l, key x ≠ e * 1024 + k) : ∀ m : Mem,
    wordAt (l.foldl (fun m x => dmWriteKey m (key x) (val x)) m) (4096 * e + 4 * k) = wordAt m (4096 * e + 4 * k) := by
  induction l with
  | nil => exact fun _ => rfl
  | cons x l ih =>
    intro m
    rw [List.foldl_cons, ih fun y hy => hl y (List.mem_cons_of_mem _ hy), wordAt_dmWriteKey,
      if_neg (hl x List.mem_cons_self)]

/-- Words written to one place all alike leave that value. -/
theorem wordAt_writes {e k : Nat} {w : Word} (l : List α) (hval : ∀ x ∈ l, key x = e * 1024 + k → val x = w)
    (hmem : ∃ x ∈ l, key x = e * 1024 + k) : ∀ m : Mem,
    wordAt (l.foldl (fun m x => dmWriteKey m (key x) (val x)) m) (4096 * e + 4 * k) = w := by
  induction l with
  | nil => exact absurd hmem (by simp)
  | cons x l ih =>
    intro m
    rw [List.foldl_cons]
    by_cases hrest : ∃ y ∈ l, key y = e * 1024 + k
    · exact ih (fun y hy => hval y (List.mem_cons_of_mem _ hy)) hrest _
    · rw [wordAt_writes_other l fun y hy hkey => hrest ⟨y, hy, hkey⟩, wordAt_dmWriteKey]
      obtain ⟨y, hy, hkey⟩ := hmem
      rcases List.mem_cons.mp hy with rfl | hy
      · rw [if_pos hkey, hval y List.mem_cons_self hkey]
      · exact absurd ⟨y, hy, hkey⟩ hrest

end Words

/-- Words written afresh bear no upset, and every other word keeps its own. -/
theorem upsetAt_clears {α : Type} {key : α → Nat} (k : Nat) (l : List α) : ∀ s : State,
    upsetAt (l.foldl (fun s x => setUpset s (key x) 0) s) k = if k ∈ l.map key then 0 else upsetAt s k := by
  induction l with
  | nil => exact fun _ => rfl
  | cons x l ih =>
    intro s
    rw [List.foldl_cons, ih]
    by_cases hx : k = key x
    · simp [← hx]
    · simp [hx, upsetAt_setUpset_other _ _ _ _ hx]

/-! ### Staging -/

/-- The words that a round of the staging writes: engine and word number (R132). -/
def stagedNow (s : State) : List (Nat × Nat) := (List.range 1024).flatMap fun e => (roundWords s e).map fun k => (e, k)

theorem mem_stagedWords {img : PatImg} {e k : Nat} (h : k ∈ stagedWords img e) : k < 1024 := by
  unfold stagedWords at h
  split at h
  · exact Nat.lt_trans (List.mem_range.mp (List.mem_filter.mp h).1) (by decide)
  · exact absurd h (by simp)

theorem mem_stagedNow {s : State} {e k : Nat} : (e, k) ∈ stagedNow s ↔ e < 1024 ∧ k ∈ roundWords s e := by
  simp [stagedNow]

theorem stagedNow_lt {s : State} {x : Nat × Nat} (h : x ∈ stagedNow s) : x.2 < 1024 :=
  mem_stagedWords (List.mem_of_mem_drop (List.mem_of_mem_take (mem_stagedNow.mp h).2))

theorem foldl_stagedNow {β : Type} (s : State) (f : β → Nat × Nat → β) (b : β) : (stagedNow s).foldl f b
    = (List.range 1024).foldl (fun b e => (roundWords s e).foldl (fun b k => f b (e, k)) b) b := by
  simp only [stagedNow, List.foldl_flatMap, List.foldl_map]

theorem stage_memory (s : State) (l : List Nat) : ∀ m : Mem, forAll l (fun s e =>
      setDmem s ((roundWords s e).foldl (fun m k => dmWriteKey m (e * 1024 + k) (stagedValue s e k)) s.arr.dmem)) (setDmem s m)
    = setDmem s (l.foldl (fun m e => (roundWords s e).foldl (fun m k => dmWriteKey m (e * 1024 + k) (stagedValue s e k)) m) m) := by
  induction l with
  | nil => exact fun _ => rfl
  | cons e l ih => exact fun m => ih _

/-- Upsets cleared one after another change the table of upsets alone. -/
theorem clears_frame {α : Type} (key : α → Nat) (l : List α) : ∀ s : State, l.foldl (fun s x => setUpset s (key x) 0) s
    = { s with arr := { s.arr with upsets := (l.foldl (fun s x => setUpset s (key x) 0) s).arr.upsets } } := by
  induction l with
  | nil => exact fun _ => rfl
  | cons x l ih => exact fun s => (ih (setUpset s (key x) 0)).trans rfl

theorem stage_upsets (s : State) (l : List Nat) : ∀ t : State, t.pat = s.pat → t.wheel = s.wheel →
    forAll l (fun s e => (roundWords s e).foldl (fun s k => setUpset s (dmemKey e k) 0) s) t
      = l.foldl (fun t e => (roundWords s e).foldl (fun s k => setUpset s (dmemKey e k) 0) t) t := by
  induction l with
  | nil => exact fun _ _ _ => rfl
  | cons e l ih =>
    intro t hpat hwheel
    have hwords : roundWords t e = roundWords s e := by unfold roundWords; rw [hpat, hwheel]
    have hframe := clears_frame (fun k => dmemKey e k) (roundWords s e) t
    refine (ih _ ?_ ?_).trans ?_
    · beta_reduce; rw [hwords, hframe]; exact hpat
    · beta_reduce; rw [hwords, hframe]; exact hwheel
    · beta_reduce; rw [hwords]; rfl

/-- A round of the staging as the list of its words (R132). -/
theorem stageRound_eq (s : State) : ∃ t, stageRound s = { s with
      arr := { s.arr with
        dmem := (stagedNow s).foldl (fun m x => dmWriteKey m (x.1 * 1024 + x.2) (stagedValue s x.1 x.2)) s.arr.dmem
        upsets := t }
      pat := { s.pat with staged := true } }
    ∧ ∀ k, tget 0 t k = if k ∈ (stagedNow s).map (fun x => dmemKey x.1 x.2) then 0 else upsetAt s k := by
  generalize hm : (stagedNow s).foldl (fun m x => dmWriteKey m (x.1 * 1024 + x.2) (stagedValue s x.1 x.2)) s.arr.dmem = m
  have hmem : forAll (List.range 1024) (fun s e =>
      setDmem s ((roundWords s e).foldl (fun m k => dmWriteKey m (e * 1024 + k) (stagedValue s e k)) s.arr.dmem)) s = setDmem s m := by
    rw [← hm, foldl_stagedNow]
    exact stage_memory s (List.range 1024) s.arr.dmem
  have hclear : forAll (List.range 1024) (fun s e => (roundWords s e).foldl (fun s k => setUpset s (dmemKey e k) 0) s) (setDmem s m)
      = (stagedNow s).foldl (fun s x => setUpset s (dmemKey x.1 x.2) 0) (setDmem s m) := by
    rw [foldl_stagedNow]
    exact stage_upsets s _ (setDmem s m) rfl rfl
  have hframe := clears_frame (fun x : Nat × Nat => dmemKey x.1 x.2) (stagedNow s) (setDmem s m)
  have hups (k : Nat) := upsetAt_clears (key := fun x : Nat × Nat => dmemKey x.1 x.2) k (stagedNow s) (setDmem s m)
  unfold stageRound
  dsimp only
  rw [hmem, hclear]
  by_cases hnone : s.arr.upsets.isEmpty = true
  · refine ⟨s.arr.upsets, congrArg (fun t : State => { t with pat := { t.pat with staged := true } }) (if_pos hnone), fun k => ?_⟩
    have hzero : upsetAt s k = 0 := by rw [upsetAt, List.isEmpty_iff.mp hnone]; rfl
    exact hzero.trans (by simp [hzero])
  · refine ⟨_, (congrArg (fun t : State => { t with pat := { t.pat with staged := true } }) ((if_neg hnone).trans hframe)), hups⟩

/-! ### The swap -/

theorem onlyEngines_startSleeve (s : State) (sl : Nat) : OnlyEngines s (startSleeve s sl) := by
  unfold startSleeve
  split
  · unfold forAll
    exact List.foldlRecOn (motive := OnlyEngines s) _ _ rfl fun t ht e _ => onlyEngines_trans ht (onlyEngines_updEngine _ _ _)
  · rfl

theorem onlyEngines_startSleeves (s : State) (l : List Nat) : OnlyEngines s (forAll l startSleeve s) :=
  List.foldlRecOn (motive := OnlyEngines s) l startSleeve rfl fun t ht sl _ => onlyEngines_trans ht (onlyEngines_startSleeve t sl)

/-- A word that is no parameter's target keeps its value when the parameters are written (R134). -/
theorem wordAt_paramWordsAll {img : PatImg} {vals : Tab Nat} {e k : Nat} (hk : k < 1024)
    (h : ∀ p ∈ img.params, ∀ x ∈ p.targets, x.2 < 1024 ∧ x ≠ (e, k)) (m : Mem) :
    wordAt (paramWordsAll img vals m) (4096 * e + 4 * k) = wordAt m (4096 * e + 4 * k) := by
  refine List.foldlRecOn (motive := fun m' => wordAt m' (4096 * e + 4 * k) = wordAt m (4096 * e + 4 * k)) _ _ rfl fun m' hm p hp => ?_
  refine (wordAt_writes_other p.targets (fun x hx hkey => ?_) m').trans hm
  obtain ⟨hlt, hne⟩ := h p hp x hx
  exact hne (Prod.ext (by dsimp only; omega) (by dsimp only; omega))

/-! ### The statement -/

theorem exec_commit {s : State} {lvl : Level} {v : Byte} (hadm : Admits s lvl 0x2101 6 v.toNat) (hv : v ≠ 0) :
    exec (.commit lvl v) s = .next (withStatus (mirrored (commitNow (taken s)) 0x2101 6 v.toNat).2
      (mirrored (commitNow (taken s)) 0x2101 6 v.toNat).1) := by
  have hv0 : v.toNat ≠ 0 := fun h => hv (BitVec.eq_of_toNat_eq h)
  have heff : effect (taken s) 0x2101 6 v.toNat = mirrored (commitNow (taken s)) 0x2101 6 v.toNat :=
    (effect_2000 (by decide) (by decide)).trans (if_neg hv0)
  have hexec := exec_admitted (c := .commit lvl v) rfl hadm
  rwa [dropReserved_low (by decide) (by omega) (by omega) (by omega), heff] at hexec

theorem commit_spec {s : State} {lvl : Level} {v : Byte} (hadm : Admits s lvl 0x2101 6 v.toNat) :
    (v = 0 → exec (.commit lvl v) s = .next (answered s stOK))
    ∧ (v ≠ 0 → s.pat.shadowState = 2 → exec (.commit lvl v) s = .next (answered s stBusy))
    ∧ (v ≠ 0 → s.pat.shadowState ≠ 1 → s.pat.shadowState ≠ 2 → exec (.commit lvl v) s = .next (answered s stState))
    ∧ (v ≠ 0 → s.pat.shadowState = 1 → exec (.commit lvl v) s = .next (sendCtrl { answered s stOK with
        pat := { s.pat with
          shadowState := 2, readBack := false, commitAt := s.wheel.seam + (if s.wheel.closed then 3 else 2) } }
        (.command 0x2101 6 v.toNat))) := by
  refine ⟨?_, fun hv hbusy => ?_, fun hv hready hbusy => ?_, fun hv hready => ?_⟩
  · rintro rfl
    exact exec_admitted rfl hadm
  · have hnow : commitNow (taken s) = (stBusy, taken s) := if_pos (beq_iff_eq.mpr hbusy)
    rw [exec_commit hadm hv, hnow]
    rfl
  · have hnow : commitNow (taken s) = (stState, taken s) :=
      (if_neg (by simpa [taken] using hbusy)).trans (if_pos (by simpa [taken] using hready))
    rw [exec_commit hadm hv, hnow]
    rfl
  · have hseam : BitVec.ofNat 32 (2 + skipNow (taken s)) = if s.wheel.closed then (3 : Word) else 2 := by
      unfold skipNow taken
      dsimp only
      split <;> rfl
    have hnow : commitNow (taken s) = (stOK, { taken s with pat := { s.pat with
        shadowState := 2, readBack := false, commitAt := s.wheel.seam + (if s.wheel.closed then 3 else 2) } }) := by
      unfold commitNow
      rw [if_neg (by simp [taken, hready]), if_neg (by simp [taken, hready]), hseam]
      rfl
    rw [exec_commit hadm hv, hnow]
    exact congrArg Host.Outcome.next (withStatus_sendCtrl _ _ _)

theorem staging_spec {s : State} (hin : inCommitInterval s = true) (hris : s.wheel.ris ≤ 1022) :
    ∃ t, exec .commitStaging s = .next t
      ∧ t = { s with arr := { s.arr with dmem := t.arr.dmem, upsets := t.arr.upsets }, pat := { s.pat with staged := true } }
      ∧ ∀ e < 1024, ∀ k < 1024,
          wordAt t.arr.dmem (4096 * e + 4 * k) = (if k ∈ roundWords s e then stagedValue s e k else wordAt s.arr.dmem (4096 * e + 4 * k))
          ∧ upsetAt t (dmemKey e k) = if k ∈ roundWords s e then 0 else upsetAt s (dmemKey e k) := by
  have hdue : stagingDue s = true := by simp [stagingDue, hin, hris]
  obtain ⟨u, hstage, hups⟩ := stageRound_eq s
  refine ⟨stageRound s, congrArg Host.Outcome.next (if_pos hdue), ?_, fun e he k hk => ⟨?_, ?_⟩⟩
  · rw [hstage]
  · rw [hstage]
    dsimp only
    split
    case isTrue hnow =>
      refine wordAt_writes _ (fun x hx hkey => ?_) ⟨(e, k), mem_stagedNow.mpr ⟨he, hnow⟩, rfl⟩ _
      have hlt := stagedNow_lt hx
      rw [show x.1 = e by omega, show x.2 = k by omega]
    case isFalse hnot =>
      refine wordAt_writes_other _ (fun x hx hkey => ?_) _
      have hlt := stagedNow_lt hx
      have hx' : x = (e, k) := Prod.ext (by dsimp only; omega) (by dsimp only; omega)
      exact hnot (mem_stagedNow.mp (hx' ▸ hx)).2
  · have hkey : dmemKey e k ∈ (stagedNow s).map (fun x => dmemKey x.1 x.2) ↔ k ∈ roundWords s e := by
      rw [List.mem_map]
      refine ⟨fun ⟨x, hx, hxk⟩ => ?_, fun hnow => ⟨(e, k), mem_stagedNow.mpr ⟨he, hnow⟩, rfl⟩⟩
      have hlt := stagedNow_lt hx
      unfold dmemKey at hxk
      have hx' : x = (e, k) := Prod.ext (by dsimp only; omega) (by dsimp only; omega)
      exact (mem_stagedNow.mp (hx' ▸ hx)).2
    rw [hstage]
    refine (hups _).trans ?_
    simp only [hkey]

theorem readback_spec {s : State} (hin : inCommitInterval s = true) :
    (1008 ≤ s.wheel.ris → exec .shadowReadback s = .next s)
    ∧ (s.pat.readBack = false → s.wheel.ris < 1008 →
        (∀ e < 1024, bankCrc (bankWords s.arr.imemShadow e) = recordedCrc s.pat.shadow e) →
        exec .shadowReadback s = .next { s with pat := { s.pat with readBack := true } })
    ∧ (s.pat.readBack = false → s.wheel.ris < 1008 →
        ∀ e < 1024, bankCrc (bankWords s.arr.imemShadow e) ≠ recordedCrc s.pat.shadow e →
        exec .shadowReadback s = .next { s with pat := { s.pat with
          shadowState := 3, loadResult := 0x25, bound := false, readBack := false } }) := by
  have hdue (hread : s.pat.readBack = false) (hris : s.wheel.ris < 1008) : readbackDue s = true := by
    simp [readbackDue, hin, hread, hris]
  refine ⟨fun hlate => congrArg Host.Outcome.next (if_neg ?_), fun hread hris hall => ?_, fun hread hris e he hbad => ?_⟩
  · simp [readbackDue, Nat.not_lt.mpr hlate]
  · have hgood : shadowGood s = true :=
      List.all_eq_true.mpr fun e he => beq_iff_eq.mpr (hall e (List.mem_range.mp he))
    exact congrArg Host.Outcome.next ((if_pos (hdue hread hris)).trans (if_pos hgood))
  · have hbad : ¬ shadowGood s = true := fun hgood =>
      hbad (beq_iff_eq.mp (List.all_eq_true.mp hgood e (List.mem_range.mpr he)))
    exact congrArg Host.Outcome.next ((if_pos (hdue hread hris)).trans (if_neg hbad))

theorem swap_spec (s : State) : (swapPattern s).arr.imem = s.arr.imemShadow ∧ (swapPattern s).arr.imemShadow = s.arr.imem
    ∧ (swapPattern s).pat.run = s.pat.shadow ∧ (swapPattern s).pat.activeSlot = s.pat.shadowSlot
    ∧ (∀ e k, k < 1024 → (∀ p ∈ s.pat.shadow.params, ∀ x ∈ p.targets, x.2 < 1024 ∧ x ≠ (e, k)) →
        wordAt (swapPattern s).arr.dmem (4096 * e + 4 * k) = wordAt s.arr.dmem (4096 * e + 4 * k))
    ∧ (swapPattern s).pat.shadowState = 0 ∧ (swapPattern s).pat.commitSeam = s.wheel.seam ∧ (swapPattern s).links = s.links
    ∧ (swapPattern s).ctls = s.ctls ∧ (swapPattern s).wheel = s.wheel := by
  have hdmem : (swapPattern s).arr.dmem = paramWordsAll s.pat.shadow (keepParams s.pat.run s.pat.shadow s.pat.paramVals) s.arr.dmem := by
    unfold swapPattern
    rw [onlyEngines_startSleeves]
  rw [hdmem]
  refine ⟨?_, ?_, ?_, ?_, fun e k hk h => wordAt_paramWordsAll hk h _, ?_, ?_, ?_, ?_, ?_⟩ <;>
    (unfold swapPattern; rw [onlyEngines_startSleeves])

/-- Settles O28, each command by its branches. -/
theorem commitsStageVerifyAndSwap : Obligations.CommitsStageVerifyAndSwap := by
  refine ⟨fun s lvl v => commit_spec, fun s hstate hseam => ?_, swap_spec, fun s sl hlast => ?_⟩
  · have hin : inCommitInterval s = true := by rw [inCommitInterval, hstate, decide_eq_true hseam]; rfl
    exact ⟨staging_spec hin, readback_spec hin⟩
  · refine ⟨_, congrArg Host.Outcome.next (if_pos (beq_iff_eq.mpr hlast)), rfl, sleeve_updSleeve s sl _, fun k hk => ?_⟩
    exact sleeve_updSleeve_other s sl k _ hk

end Sys2Proof.Machine
end

section
/-! PROOFS. Writes of exported parameters and their application (R127, R128, R134). -/
namespace Sys2Proof.Machine

/-! ### Writes -/

section Write
variable {s : State} {lvl : Level} {item : WriteItem} {p : Param} {r : Row} (hs : Serves s)
  (hlo : 0x5000 ≤ item.index) (hhi : item.index ≤ 0x5FFF) (hparam : paramAt s item.index item.sub = some p)
  (hacc : accessStatus (taken s) lvl item.index item.sub true = stOK) (hrow : rowHere (taken s) item.index item.sub = some r)
  (hty : item.ty = r.ty) (hsmall : r.ty < 11) (hlen : item.value.length = typeSize r.ty) (hbool : r.ty = 1 → leNat item.value ≤ 1)
  (hrng : rngOk r (leNat item.value) = true) (hgate : gated s item.index item.sub = false)
include hs hlo hhi hparam hacc hrow hty hsmall hlen hbool hrng hgate

/-- A write that passes the checks of its object is what the parameter does with it. -/
theorem exec_exportedParameter : exec (.exportedParameter lvl item) s
    = .next (withStatus (paramWrite (taken s) p (leNat item.value)).2 (paramWrite (taken s) p (leNat item.value)).1) := by
  have hright : objWrite (taken s) lvl item.index item.sub (leNat item.value) = paramWrite (taken s) p (leNat item.value) := by
    unfold objWrite rightWrite
    have hfits : ¬(11 ≤ r.ty ∨ r.ty = 1 ∧ 1 < leNat item.value) := by
      rintro (h | ⟨h, h'⟩)
      · omega
      · exact absurd (hbool h) (by omega)
    simp only [hacc, ne_eq, not_true_eq_false, if_false, hrow, hfits, hrng, Bool.not_true, Bool.false_eq_true, gated_taken,
      paramAt_taken, hparam, hgate, ite_self]
  have hitem : writeItem (taken s) lvl 0 item = paramWrite (taken s) p (leNat item.value) := by
    unfold writeItem
    rw [hright]
    simp only [hacc, ne_eq, not_true_eq_false, if_false, hrow, hty, hlen, false_or]
    rw [if_neg (by omega), if_neg (by omega), if_neg (by omega)]
  refine congrArg Host.Outcome.next ((served_of hs _).trans ?_)
  rw [if_pos ⟨hlo, hhi⟩, hitem]

theorem exportedParameter_spec : (paramInRange p (leNat item.value) = false → exec (.exportedParameter lvl item) s = .next (answered s stRange))
    ∧ (paramInRange p (leNat item.value) = true → s.pat.shadowState = 2 →
        exec (.exportedParameter lvl item) s = .next (answered s stBusy))
    ∧ (paramInRange p (leNat item.value) = true → s.pat.shadowState ≠ 2
      → exec (.exportedParameter lvl item) s = .next (sendCtrl { answered s stOK with
        pat := { s.pat with params := s.pat.params ++ [⟨p.index, p.sub, leNat item.value, skipNow s, s.net.msgNo + 1⟩] } }
        (.command p.index p.sub (leNat item.value)))) := by
  rw [exec_exportedParameter hs hlo hhi hparam hacc hrow hty hsmall hlen hbool hrng hgate]
  refine ⟨fun hout => ?_, fun hin hbusy => ?_, fun hin hfree => ?_⟩
  · have hnow : paramWrite (taken s) p (leNat item.value) = (stRange, taken s) := if_pos (by rw [hout]; rfl)
    rw [hnow]
    rfl
  · have hnow : paramWrite (taken s) p (leNat item.value) = (stBusy, taken s) :=
      (if_neg (by simp [hin])).trans (if_pos (beq_iff_eq.mpr hbusy))
    rw [hnow]
    rfl
  · have hnow : paramWrite (taken s) p (leNat item.value) = mirrored (stOK, queueParam (taken s) p.index p.sub (leNat item.value))
        p.index p.sub (leNat item.value) := (if_neg (by simp [hin])).trans (if_neg (by simpa [taken] using hfree))
    rw [hnow]
    exact congrArg Host.Outcome.next (withStatus_sendCtrl _ _ _)

end Write

/-! ### Round 1,023 -/

/-- A write alone whose words fit the round is taken. -/
theorem takeFitting_one {s : State} {w : ParamWrite} (h : loadFits s [w] = true) : takeFitting s 2 [] [w] = ([w], []) := by
  simp [takeFitting, h]

theorem length_eraseDups_le (l : List Nat) : l.eraseDups.length ≤ l.length := by
  match l with
  | [] => simp
  | a :: l =>
    have hfilter := List.length_filter_le (fun b => !b == a) l
    rw [List.eraseDups_cons, List.length_cons, List.length_cons]
    exact Nat.succ_le_succ ((length_eraseDups_le _).trans hfilter)
  termination_by l.length
  decreasing_by simpa using Nat.lt_succ_of_le hfilter

theorem loadFits_one {s : State} {w : ParamWrite} {p : Param} (hp : paramAt s w.index w.sub = some p)
    (hload : ∀ e < 1024, (p.targets.filter fun t => t.1 == e).length ≤ 32) : loadFits s [w] = true := by
  refine List.all_eq_true.mpr fun e he => decide_eq_true ?_
  refine Nat.le_trans (length_eraseDups_le _) ?_
  simpa [hp] using hload e (List.mem_range.mp he)

/-- A parameter's value reaches its target words and no other (R128). -/
theorem wordAt_putParam {p : Param} {v : Nat} (ht : ∀ t ∈ p.targets, t.2 < 1024) (m : Mem) {e k : Nat} (hk : k < 1024) :
    wordAt (putParam p v m) (4096 * e + 4 * k) = if (e, k) ∈ p.targets then paramWord p.ty v else wordAt m (4096 * e + 4 * k) := by
  unfold putParam
  split
  case isTrue hin => exact wordAt_writes p.targets (fun _ _ _ => rfl) ⟨(e, k), hin, rfl⟩ m
  case isFalse hout =>
    refine wordAt_writes_other p.targets (fun x hx hkey => hout ?_) m
    have hlt := ht x hx
    have hx' : x = (e, k) := Prod.ext (by dsimp only; omega) (by dsimp only; omega)
    exact hx' ▸ hx

theorem applyParam_spec {s : State} {w : ParamWrite} {p : Param} (hp : paramAt s w.index w.sub = some p) :
    ∃ u, applyParam s w = { s with
      arr := { s.arr with dmem := putParam p w.value s.arr.dmem, upsets := u }
      pat := { s.pat with paramVals := tput s.pat.paramVals (okey w.index w.sub) w.value } } := by
  have hframe := clears_frame (fun t : Nat × Nat => dmemKey t.1 t.2) p.targets (setDmem s (putParam p w.value s.arr.dmem))
  unfold applyParam
  simp only [hp]
  exact ⟨_, congrArg (fun t : State => { t with pat := { t.pat with
    paramVals := tput t.pat.paramVals (okey w.index w.sub) w.value } }) hframe⟩

theorem parameterApply_spec {s : State} {w : ParamWrite} {p : Param} (hris : s.wheel.ris = 1023) (hdone : s.pat.paramsDone = false)
    (hdue : s.pat.params.filter (fun x => x.skip == 0) = [w]) (hp : paramAt s w.index w.sub = some p)
    (hload : ∀ e < 1024, (p.targets.filter fun t => t.1 == e).length ≤ 32) (ht : ∀ t ∈ p.targets, t.2 < 1024) :
    ∃ t, exec .parameterApply s = .next t
      ∧ t = { s with arr := { s.arr with dmem := t.arr.dmem, upsets := t.arr.upsets }, pat := { s.pat with
          paramsDone := true, params := s.pat.params.filter (fun x => x.skip != 0), paramVals := t.pat.paramVals } }
      ∧ (∀ e k, k < 1024 → wordAt t.arr.dmem (4096 * e + 4 * k)
          = if (e, k) ∈ p.targets then paramWord p.ty w.value else wordAt s.arr.dmem (4096 * e + 4 * k))
      ∧ tfind t.pat.paramVals (okey w.index w.sub) = some w.value
      ∧ ∀ k, k ≠ okey w.index w.sub → tfind t.pat.paramVals k = tfind s.pat.paramVals k := by
  obtain ⟨u, happly⟩ := applyParam_spec hp
  have hnow : applyParams s = { applyParam s w with pat := { (applyParam s w).pat with
      params := s.pat.params.filter (fun x => x.skip != 0), paramsDone := true } } := by
    unfold applyParams
    simp only [hdone, hdue, List.length_singleton, takeFitting_one (loadFits_one hp hload)]
    rfl
  refine ⟨applyParams s, congrArg Host.Outcome.next (if_pos (beq_iff_eq.mpr hris)), ?_⟩
  rw [hnow, happly]
  exact ⟨rfl, fun e k hk => wordAt_putParam ht _ hk, tfind_tput_same _ _ _, fun k hk => tfind_tput_other _ _ _ _ hk⟩

/-- Settles O29: the write by its checks, the application by the one write that is due. -/
theorem exportedParametersReachTheirWords : Obligations.ExportedParametersReachTheirWords := by
  refine ⟨?_, fun s hris => ⟨fun hdone => ?_, fun w p => parameterApply_spec hris⟩⟩
  · intro s lvl item p r hs hlo hhi hparam hacc hrow hty hsmall hlen hbool hrng hgate v
    exact exportedParameter_spec hs hlo hhi hparam hacc hrow hty hsmall hlen hbool hrng hgate
  · exact congrArg Host.Outcome.next ((if_pos (beq_iff_eq.mpr hris)).trans (if_pos hdone))

end Sys2Proof.Machine
end

section
/-! PROOFS. Armed changes (R135 to R141, R194, R195, R342): the counterexample to the group write of a path object. -/
namespace Sys2Proof.Machine

/-- A unit alone whose server runs, without a member in any group, while a change of a path object is queued under no group. -/
def queuedChange : State := { State.reset with
  boot := { State.reset.boot with collarUp := true, coldP0 := false }, pair := { State.reset.pair with role := .solo }
  hem := { State.reset.hem with startHold := false }, arm := { State.reset.arm with queued := true } }

/-- The write of FAST_MODE for group 0 claims the queued change, with which it has nothing to do. -/
theorem queuedGroupWrite_claims : ∀ t, exec (.groupWrite .service (some 0) 10 2 [1]) queuedChange = .next t → t.arm.group = some 0 := by
  have hexec : exec (.groupWrite .service (some 0) 10 2 [1]) queuedChange
      = .next (withStatus (groupWrite (taken queuedChange) 0x3300 10 1).2 (groupWrite (taken queuedChange) 0x3300 10 1).1) := by
    exact exec_groupWrite (g := some 0) (r := ⟨0x3100, 256, 10, 10, 2, .wo, .service, 0, .nat 0 1⟩) ⟨by decide +kernel, rfl⟩ rfl
      (by decide +kernel) (by decide +kernel) (by decide +kernel) (by decide +kernel) (by decide +kernel) rfl (by decide) rfl (by decide) (by decide)
  intro t ht
  rw [← Host.Outcome.next.inj (hexec.symm.trans ht)]
  decide +kernel

/-- Refutes O30: a group write of a path object none of whose members is live puts its group on the change that another
write has queued (R139). -/
theorem not_armedChangesAreDecidedAndReported : ¬ Obligations.ArmedChangesAreDecidedAndReported := by
  rintro ⟨-, -, hgroup⟩
  obtain ⟨-, -, hidle⟩ := hgroup queuedChange .service (some 0) 10 2 [1] ⟨0x3100, 256, 10, 10, 2, .wo, .service, 0, .nat 0 1⟩
    ⟨by decide +kernel, rfl⟩ (by decide +kernel) (by decide +kernel) (by decide +kernel) (by decide +kernel) rfl (by decide) rfl
    (by decide) (by decide) rfl (by decide +kernel)
  obtain ⟨u, hexec, harm, -⟩ := hidle (by decide +kernel)
  have hclaims := queuedGroupWrite_claims _ hexec
  have hsend : ∀ c, (sendCtrl u c).arm = u.arm := fun c => by unfold sendCtrl; split <;> rfl
  rw [hsend, harm] at hclaims
  exact absurd hclaims (by decide)

end Sys2Proof.Machine
end

section
/-! PROOFS. The ports: what a change of a port leaves of the machine, and what it leaves of the port's link and control. -/
namespace Sys2Proof.Machine

/-! ### Changes of some ports -/

/-- From one state to another nothing changes but ports of a list, the packs and the records (R196, R294). -/
structure Moves (l : List Nat) (s t : State) : Prop where
  frame : OnlyPorts s t
  stand : PortsStand s t l

theorem onlyPorts_refl (s : State) : OnlyPorts s s := ⟨rfl, marginOnly_refl _⟩

theorem onlyPorts_trans {s t u : State} (h : OnlyPorts s t) (h' : OnlyPorts t u) : OnlyPorts s u := by
  obtain ⟨hframe, hcfg⟩ := h
  obtain ⟨hframe', hcfg'⟩ := h'
  refine ⟨?_, marginOnly_trans hcfg hcfg'⟩
  rw [hframe', hframe]

theorem moves_refl (l : List Nat) (s : State) : Moves l s s := ⟨onlyPorts_refl s, fun _ _ => ⟨rfl, rfl⟩⟩

theorem moves_trans {l : List Nat} {s t u : State} (h : Moves l s t) (h' : Moves l t u) : Moves l s u :=
  ⟨onlyPorts_trans h.frame h'.frame, fun m hm =>
    ⟨(h'.stand m hm).1.trans (h.stand m hm).1, (h'.stand m hm).2.trans (h.stand m hm).2⟩⟩

theorem moves_mono {l l' : List Nat} (hl : ∀ n ∈ l, n ∈ l') {s t : State} (h : Moves l s t) : Moves l' s t :=
  ⟨h.frame, fun m hm => h.stand m fun hm' => hm (hl m hm')⟩

theorem moves_ite {c : Prop} [Decidable c] {l : List Nat} {s a b : State} (ha : c → Moves l s a) (hb : ¬c → Moves l s b) :
    Moves l s (if c then a else b) := by
  split
  case isTrue h => exact ha h
  case isFalse h => exact hb h

section Basic
variable (s : State) (n : Nat)

theorem moves_setLink (x : Link) : Moves [n] s (setLink s n x) :=
  ⟨⟨rfl, marginOnly_refl _⟩, fun _ hm => ⟨link_setLink_other _ _ _ _ (List.ne_of_not_mem_cons hm), rfl⟩⟩

theorem moves_updLink (f : Link → Link) : Moves [n] s (updLink s n f) := moves_setLink s n _

theorem moves_stick (bit : Nat) : Moves [n] s (stick s n bit) := moves_updLink s n _

theorem moves_setCtl (x : Ctl) : Moves [n] s (setCtl s n x) :=
  ⟨⟨rfl, marginOnly_refl _⟩, fun _ hm => ⟨rfl, ctl_setCtl_other _ _ _ _ (List.ne_of_not_mem_cons hm)⟩⟩

theorem moves_updCtl (f : Ctl → Ctl) : Moves [n] s (updCtl s n f) := moves_setCtl s n _

theorem moves_sendMsg (q ty : Nat) (body : List Byte) : Moves [n] s (sendMsg s n q ty body) := moves_updLink s n _

theorem moves_setPState (t : PState) : Moves [n] s (setPState s n t) := by
  obtain ⟨a, b, c, d, hframe, hcfg⟩ := setPState_frame s n t
  refine ⟨⟨?_, ?_⟩, fun m hm => ⟨?_, ctl_setPState_other s t (List.ne_of_not_mem_cons hm)⟩⟩
  · rw [hframe]
  · rw [hframe]; exact hcfg
  · rw [link_setPState, if_neg fun h => List.ne_of_not_mem_cons hm h.1]

theorem moves_portToHem : Moves [n] s (portToHem s n) := moves_ite (fun _ => moves_setPState s n .hem) fun _ => moves_refl _ s

theorem moves_trigger (l : List Nat) (src : Nat) : Moves l s (trigger s src) := by
  obtain ⟨r, h⟩ := trigger_frame s src
  rw [h]
  exact ⟨⟨rfl, marginOnly_refl _⟩, fun _ _ => ⟨rfl, rfl⟩⟩

theorem moves_addRecord (l : List Nat) (code : Nat) (round : Word) (data : List Byte) : Moves l s (addRecord s code round data) := by
  obtain ⟨r, h⟩ := addRecord_frame s code round data
  rw [h]
  exact ⟨⟨rfl, marginOnly_refl _⟩, fun _ _ => ⟨rfl, rfl⟩⟩

theorem moves_tripPort (reason : Byte) : Moves [n] s (tripPort s n reason) :=
  moves_trans (moves_updCtl s n _) (moves_trans (moves_portToHem _ n) (moves_trigger _ [n] 1))

theorem moves_raiseLinkLost : Moves [n] s (raiseLinkLost s n) :=
  moves_trans (moves_updLink s n _) (moves_trans (moves_updCtl _ n _) (moves_trans (moves_portToHem _ n)
    (moves_trans (moves_addRecord _ [n] _ _ _) (moves_trigger _ [n] 0))))

theorem moves_startNow (v : StepVals) : Moves [n] s (startNow s n v) := by
  unfold startNow
  exact moves_trans (moves_setPState s n _) (moves_updCtl _ n _)

theorem moves_startTraining : Moves [n] s (startTraining s n) := by
  unfold startTraining
  exact moves_trans (moves_setPState s n _) (moves_trans (moves_updCtl _ n _) (moves_updLink _ n _))

theorem moves_trainFail : Moves [n] s (trainFail s n) := by
  unfold trainFail
  exact moves_trans (moves_stick s n 1) (moves_trans (moves_setPState _ n _) (moves_updLink _ n _))

theorem moves_fwFailed : Moves [n] s (fwFailed s n) :=
  moves_trans (moves_stick s n 9) (moves_trans (moves_updLink _ n _) (moves_raiseLinkLost _ n))

theorem moves_markMismatch : Moves [n] s (markMismatch s n) := by
  have hclass : Moves [n] s (if classFits s n then s else stick s n 2) := moves_ite (fun _ => moves_refl _ s) fun _ => moves_stick s n 2
  exact moves_trans hclass (moves_ite (fun _ => moves_refl _ _) fun _ => moves_stick _ n 3)

theorem moves_toReady : Moves [n] s (toReady s n) := moves_ite (fun _ => moves_setPState s n _) fun _ => moves_refl _ s

theorem moves_tryUnlock : Moves [n] s (tryUnlock s n) :=
  moves_ite (fun _ => moves_ite (fun _ => moves_setPState s n _) fun _ => moves_setPState s n _) fun _ => moves_refl _ s

theorem moves_presenceNow : Moves [n] s (presenceNow s n) := by
  refine moves_trans (moves_updCtl s n fun c => { c with presence := decide (1 / 2 ≤ sampleVal s n 3), presSeen := true }) ?_
  refine moves_ite (fun _ => moves_ite (fun _ => moves_startNow _ n _) fun _ => moves_refl _ _) fun _ => ?_
  refine moves_ite (fun _ => moves_refl _ _) fun _ => moves_ite (fun _ => ?_) fun _ => ?_
  · exact moves_trans (moves_ite (fun _ => moves_stick _ n 23) fun _ => moves_refl _ _) (moves_setPState _ n _)
  · exact moves_ite (fun _ => moves_trans (moves_stick _ n 24) (moves_setPState _ n _)) fun _ => moves_refl _ _

theorem moves_takeTemps (rt : List Byte) : Moves [n] s (takeTemps s n rt) := moves_ite (fun _ => moves_refl _ s) fun _ => moves_updCtl s n _

theorem moves_activated : Moves [n] s (activated s n) := moves_ite (fun _ => moves_startTraining s n) fun _ => moves_refl _ s

theorem moves_sendPath : Moves [n] s (sendPath s n) := moves_trans (moves_updLink s n _) (moves_sendMsg _ n _ _ _)

theorem moves_fwSend : Moves [n] s (fwSend s n) := by
  unfold fwSend
  split
  · exact moves_refl _ s
  · refine moves_trans ?_ (moves_updLink _ n _)
    refine moves_trans ?_ (moves_sendMsg _ n _ _ _)
    exact List.foldlRecOn (motive := Moves [n] s) _ _ (moves_sendMsg s n _ _ _) fun t ht b _ => moves_trans ht (moves_sendMsg t n _ _ _)

theorem moves_sendStart : Moves [n] s (sendStart s n) :=
  moves_trans (moves_sendPath s n) (moves_ite (fun _ => moves_trans (moves_updLink _ n _) (moves_fwSend _ n)) fun _ => moves_refl _ _)

end Basic

/-! ### The link and the control of a port that changes -/

@[simp] theorem link_setPState_same (s : State) (n : Nat) (t : PState) : link (setPState s n t) n = { link s n with state := t } := by
  rw [link_setPState]
  split
  · rfl
  · rename_i h
    have ht : (link s n).state = t := by simpa using h
    rw [← ht]

@[simp] theorem link_stick (s : State) (n bit : Nat) : link (stick s n bit) n = { link s n with sticky := setBit (link s n).sticky bit } :=
  link_updLink _ _ _

@[simp] theorem ctl_stick (s : State) (n m bit : Nat) : ctl (stick s n bit) m = ctl s m := rfl

@[simp] theorem link_portToHem_same (s : State) (n : Nat) : link (portToHem s n) n = hemmed (link s n) := by
  rw [link_portToHem, if_pos rfl]

@[simp] theorem link_trigger (s : State) (src m : Nat) : link (trigger s src) m = link s m := ((moves_trigger s [] src).stand m (by simp)).1

@[simp] theorem ctl_trigger (s : State) (src m : Nat) : ctl (trigger s src) m = ctl s m := ((moves_trigger s [] src).stand m (by simp)).2

@[simp] theorem link_addRecord (s : State) (code : Nat) (round : Word) (data : List Byte) (m : Nat) :
    link (addRecord s code round data) m = link s m := ((moves_addRecord s [] code round data).stand m (by simp)).1

@[simp] theorem ctl_addRecord (s : State) (code : Nat) (round : Word) (data : List Byte) (m : Nat) :
    ctl (addRecord s code round data) m = ctl s m := ((moves_addRecord s [] code round data).stand m (by simp)).2

/-- The control of a port whose margin step ends with its run (R448). -/
def marginOff (c : Ctl) : Ctl := { c with margin := 0, marginRounds := 1024, marginFrom := 1 }

/-- The control of a port that no longer runs (R196). -/
def switchedOff (c : Ctl) : Ctl := { c with
  since := 0, ramp := none, value := 0, down := false, readyNext := false, insStage := 0, insRun := 0,
  bypass := false, pg := false, satNow := false, satRun := 0, volts := [], pgRun := 0,
  cmd := { c.cmd with run := false, mode := 0 } }

theorem ctl_setPState (s : State) (n : Nat) (t : PState) : ∃ c, (c = ctl s n ∨ c = marginOff (ctl s n))
    ∧ (ctl (setPState s n t) n = c ∨ ctl (setPState s n t) n = switchedOff c) := by
  unfold setPState
  dsimp only
  by_cases hst : ((link s n).state == t) = true
  · rw [if_pos hst]
    exact ⟨_, .inl rfl, .inl rfl⟩
  rw [if_neg hst]
  generalize hu : (if ((link s n).state == .running) = true then _ else _ : State) = u
  have hmargin : ctl u n = ctl s n ∨ ctl u n = marginOff (ctl s n) := by
    rw [← hu]
    split
    · exact .inr ((ctl_setCfg _ _ _ _ _).trans (ctl_updCtl _ n marginOff))
    · exact .inl rfl
  refine ⟨ctl u n, hmargin, ?_⟩
  cases packOf u n <;> dsimp only <;> split
  · exact .inl rfl
  · exact .inr (ctl_updCtl _ n switchedOff)
  · exact .inl rfl
  · exact .inr (ctl_updCtl _ n switchedOff)

/-- What a port's control keeps when the port changes its state: whatever neither resets. -/
theorem ctl_setPState_keeps {α : Type} {view : Ctl → α} (hmargin : ∀ c, view (marginOff c) = view c)
    (hoff : ∀ c, view (switchedOff c) = view c) (s : State) (n : Nat) (t : PState) :
    view (ctl (setPState s n t) n) = view (ctl s n) := by
  obtain ⟨c, hc, hctl⟩ := ctl_setPState s n t
  have hview : view c = view (ctl s n) := by rcases hc with rfl | rfl; exacts [rfl, hmargin _]
  rcases hctl with h | h <;> rw [h]
  · exact hview
  · rw [hoff, hview]

theorem ctl_portToHem_keeps {α : Type} {view : Ctl → α} (hmargin : ∀ c, view (marginOff c) = view c)
    (hoff : ∀ c, view (switchedOff c) = view c) (s : State) (n : Nat) : view (ctl (portToHem s n) n) = view (ctl s n) := by
  unfold portToHem
  split
  · exact ctl_setPState_keeps hmargin hoff s n .hem
  · rfl

end Sys2Proof.Machine
end

section
/-! PROOFS. The uplink of a round (R57, R58, R145 to R147, R151, R167, R192): what is taken of it at once, and what its
consequences leave of that. -/
namespace Sys2Proof.Machine

/-! ### Bits -/

theorem hasBit_or (w v : Word) (i : Nat) : hasBit (w ||| v) i = (hasBit w i || hasBit v i) := by
  simp [hasBit, BitVec.toNat_or, Nat.testBit_or]

theorem hasBit_setBit_other (w : Word) {i j : Nat} (h : i ≠ j) : hasBit (setBit w j) i = hasBit w i := by
  have hbit : hasBit (bitW j) i = false := by
    unfold hasBit bitW
    rw [BitVec.toNat_ofNat, Nat.testBit_mod_two_pow, Nat.testBit_two_pow, decide_eq_false (Ne.symm h), Bool.and_false]
  rw [setBit, hasBit_or, hbit, Bool.or_false]

theorem hasBit_setBitIf_other (c : Bool) (w : Word) {i j : Nat} (h : i ≠ j) : hasBit (setBitIf c w j) i = hasBit w i := by
  cases c
  · rfl
  · exact hasBit_setBit_other w h

theorem hasBit_setBitIf_of (c : Bool) {w : Word} {i : Nat} (j : Nat) (h : hasBit w i = true) : hasBit (setBitIf c w j) i = true := by
  cases c
  · exact h
  · exact (hasBit_or _ _ _).trans (by rw [h, Bool.true_or])

/-! ### A round without a valid uplink -/

/-- A missing round of a port that counts them (R167). -/
theorem missRound_counting {s : State} {n : Nat} (h : counting (link s n).state = true) (crc : Bool) : missRound s n crc = setLink s n { link s n with
    taken := true, frameOk := false, crcErr := crc, noFrame := !crc
    missed := Nat.min ((link s n).missed + 1) 8191, missedMax := Nat.max (link s n).missedMax (Nat.min ((link s n).missed + 1) 8191)
    framesBad := if crc then (link s n).framesBad + 1 else (link s n).framesBad
    framesMissing := if crc then (link s n).framesMissing else (link s n).framesMissing + 1
    sticky := setBitIf crc (setBit (link s n).sticky 5) 4 } := by
  unfold missRound
  dsimp only
  rw [if_pos h]

theorem moves_missRound (s : State) (n : Nat) (crc : Bool) : Moves [n] s (missRound s n crc) :=
  moves_ite (fun _ => moves_setLink s n _) fun _ => moves_setLink s n _

/-- What changes one link alone. -/
theorem onlyLink_setLink (s : State) (n : Nat) (x : Link) : OnlyLink s (setLink s n x) n :=
  ⟨rfl, fun _ hk => link_setLink_other _ _ _ _ hk⟩

theorem onlyLink_trans {s t u : State} {n : Nat} (h : OnlyLink s t n) (h' : OnlyLink t u n) : OnlyLink s u n := by
  obtain ⟨hframe, hlink⟩ := h
  obtain ⟨hframe', hlink'⟩ := h'
  refine ⟨by rw [hframe', hframe], fun k hk => (hlink' k hk).trans (hlink k hk)⟩

theorem onlyLink_stick (s : State) (n bit : Nat) : OnlyLink s (stick s n bit) n := onlyLink_setLink s n _

theorem onlyLink_missRound (s : State) (n : Nat) (crc : Bool) : OnlyLink s (missRound s n crc) n := by
  unfold missRound
  dsimp only
  split
  · exact onlyLink_setLink s n _
  · exact onlyLink_setLink s n _

section Miss
variable {s : State} {n : PortId} (hcount : counting (link s n).state = true)
include hcount

theorem noFrame_spec (outside : Bool) (htakes : takesFrame s n = true) : ∃ t, exec (.noFrame n outside) s = .next t ∧ OnlyLink s t n
    ∧ link t n = { link s n with
        taken := true, frameOk := false, crcErr := false, noFrame := true, missed := Nat.min ((link s n).missed + 1) 8191
        missedMax := Nat.max (link s n).missedMax (Nat.min ((link s n).missed + 1) 8191), framesMissing := (link s n).framesMissing + 1
        sticky := (link s n).sticky ||| (if outside then 0x60 else 0x20) } := by
  cases outside with
  | false =>
    refine ⟨_, congrArg Host.Outcome.next (if_pos htakes), onlyLink_missRound s n false, ?_⟩
    exact (congrArg (link · n) (missRound_counting hcount false)).trans (link_setLink _ _ _)
  | true =>
    refine ⟨_, congrArg Host.Outcome.next (if_pos htakes), onlyLink_trans (onlyLink_stick s n 6) (onlyLink_missRound _ n false), ?_⟩
    have hlink := link_stick s n 6
    have hcount' : counting (link (stick s n 6) n).state = true := by rw [hlink]; exact hcount
    refine (congrArg (link · n) (missRound_counting hcount' false)).trans ((link_setLink _ _ _).trans ?_)
    have hbits : setBitIf false (setBit (setBit (link s n).sticky 6) 5) 4 = (link s n).sticky ||| 0x60 := BitVec.or_assoc _ _ _
    rw [hlink]
    exact congrArg (fun w : Word => { link s n with
      taken := true, frameOk := false, crcErr := false, noFrame := true, missed := Nat.min ((link s n).missed + 1) 8191
      missedMax := Nat.max (link s n).missedMax (Nat.min ((link s n).missed + 1) 8191), framesMissing := (link s n).framesMissing + 1
      sticky := w }) hbits

theorem badFrame_spec (f : UpFrame) (htakes : takesFrame s n = true) (hlo : 108 ≤ f.delayNs) (hhi : f.delayNs ≤ 164)
    (hbad : upGood s.wheel.w f = false) : ∃ t, exec (.uplinkFrame n f) s = .next t ∧ OnlyLink s t n
      ∧ link t n = { link s n with
        taken := true, frameOk := false, crcErr := true, noFrame := false, missed := Nat.min ((link s n).missed + 1) 8191
        missedMax := Nat.max (link s n).missedMax (Nat.min ((link s n).missed + 1) 8191), framesBad := (link s n).framesBad + 1
        sticky := (link s n).sticky ||| 0x30 } := by
  have hexec : exec (.uplinkFrame n f) s = .next (missRound s n true) := by
    refine congrArg Host.Outcome.next ((if_neg (by simp [htakes])).trans ((if_neg (by omega)).trans (if_pos (by simp [hbad]))))
  refine ⟨_, hexec, onlyLink_missRound s n true, (congrArg (link · n) (missRound_counting hcount true)).trans ((link_setLink _ _ _).trans ?_)⟩
  have hbits : setBitIf true (setBit (link s n).sticky 5) 4 = (link s n).sticky ||| 0x30 := BitVec.or_assoc _ _ _
  rw [hbits]
  rfl

end Miss

/-! ### A valid uplink -/

/-- What a valid uplink writes at once, of the link. -/
def upView (l : Link) := (l.taken, l.frameOk, l.crcErr, l.noFrame, l.upRt, l.framesOk, l.feStatus, hasBit l.sticky 7)

/-- The consequences of an uplink leave what it wrote. -/
structure UpKept (n : Nat) (s t : State) : Prop where
  view : upView (link t n) = upView (link s n)
  missed : (link s n).missed = 0 → (link t n).missed = 0
  samples : (ctl t n).samples = (ctl s n).samples

theorem upKept_refl (n : Nat) (s : State) : UpKept n s s := ⟨rfl, id, rfl⟩

theorem upKept_trans {n : Nat} {s t u : State} (h : UpKept n s t) (h' : UpKept n t u) : UpKept n s u :=
  ⟨h'.view.trans h.view, h'.missed ∘ h.missed, h'.samples.trans h.samples⟩

theorem upKept_ite {c : Prop} [Decidable c] {n : Nat} {s a b : State} (ha : c → UpKept n s a) (hb : ¬c → UpKept n s b) :
    UpKept n s (if c then a else b) := by
  split
  case isTrue h => exact ha h
  case isFalse h => exact hb h

section Kept
variable (s : State) (n : Nat)

/-- A change of other fields of the link. -/
theorem upKept_updLink {f : Link → Link} (hview : ∀ l, upView (f l) = upView l) (hmissed : ∀ l : Link, l.missed = 0 → (f l).missed = 0) :
    UpKept n s (updLink s n f) :=
  ⟨by rw [link_updLink, hview], fun h => by rw [link_updLink]; exact hmissed _ h, rfl⟩

/-- A change of other fields of the control. -/
theorem upKept_updCtl {f : Ctl → Ctl} (hsamples : ∀ c, (f c).samples = c.samples) : UpKept n s (updCtl s n f) :=
  ⟨rfl, id, by rw [ctl_updCtl, hsamples]⟩

theorem upKept_stick {bit : Nat} (hbit : bit ≠ 7) : UpKept n s (stick s n bit) :=
  upKept_updLink s n (fun l => by simp only [upView, hasBit_setBit_other l.sticky (Ne.symm hbit)]) fun _ => id

theorem upKept_setPState (t : PState) : UpKept n s (setPState s n t) :=
  ⟨by rw [link_setPState_same]; rfl, fun h => by rw [link_setPState_same]; exact h,
    ctl_setPState_keeps (view := Ctl.samples) (fun _ => rfl) (fun _ => rfl) s n t⟩

theorem upKept_startNow (v : StepVals) : UpKept n s (startNow s n v) := by
  unfold startNow
  exact upKept_trans (upKept_setPState s n _) (upKept_updCtl _ n fun _ => rfl)

theorem upKept_startTraining : UpKept n s (startTraining s n) := by
  unfold startTraining
  dsimp only
  have hctl : UpKept n s (updCtl (setPState s n .training) n fun c => { c with presSeen := false }) :=
    upKept_trans (upKept_setPState s n .training) (upKept_updCtl _ n fun _ => rfl)
  generalize updCtl (setPState s n .training) n (fun c => { c with presSeen := false }) = u at hctl ⊢
  exact upKept_trans hctl (upKept_updLink u n (fun _ => rfl) fun _ _ => rfl)

theorem upKept_takeTemps (rt : List Byte) : UpKept n s (takeTemps s n rt) :=
  upKept_ite (fun _ => upKept_refl n s) fun _ => upKept_updCtl s n fun _ => rfl

theorem upKept_presenceNow : UpKept n s (presenceNow s n) := by
  refine upKept_trans (upKept_updCtl s n
    (f := fun c => { c with presence := decide (1 / 2 ≤ sampleVal s n 3), presSeen := true }) fun _ => rfl) ?_
  refine upKept_ite (fun _ => upKept_ite (fun _ => upKept_startNow _ n _) fun _ => upKept_refl n _) fun _ => ?_
  refine upKept_ite (fun _ => upKept_refl n _) fun _ => upKept_ite (fun _ => ?_) fun _ => ?_
  · exact upKept_trans (upKept_ite (fun _ => upKept_stick _ n (by decide)) fun _ => upKept_refl n _) (upKept_setPState _ n _)
  · exact upKept_ite (fun _ => upKept_trans (upKept_stick _ n (by decide)) (upKept_setPState _ n _)) fun _ => upKept_refl n _

theorem upKept_armAck (ident : Byte) (code : Nat) : UpKept n s (armAck s n ident code) := by
  unfold armAck
  (repeat' split) <;> exact ⟨rfl, id, rfl⟩

theorem upKept_tryUnlock : UpKept n s (tryUnlock s n) :=
  upKept_ite (fun _ => upKept_ite (fun _ => upKept_setPState s n _) fun _ => upKept_setPState s n _) fun _ => upKept_refl n s

theorem upKept_activated : UpKept n s (activated s n) := upKept_ite (fun _ => upKept_startTraining s n) fun _ => upKept_refl n s

/-- What another port does leaves this one alone. -/
theorem upKept_of_moves {m : Nat} {t : State} (h : Moves [m] s t) (hm : n ≠ m) : UpKept n s t := by
  obtain ⟨hlink, hctl⟩ := h.stand n (by simpa using hm)
  exact ⟨by rw [hlink], fun h0 => by rw [hlink, h0], by rw [hctl]⟩

theorem partner_ne : n ≠ partner n := by
  unfold partner
  split <;> omega

theorem upKept_takeLockout (lock ov : Bool) : UpKept n s (takeLockout s n lock ov) := by
  have hlink : UpKept n s (setLink s n { link s n with
      sticky := setBitIf ov (setBitIf (lock || ov) (link s n).sticky 17) 21
      lockoutClear := if lock then 0 else (link s n).lockoutClear + 1 }) := by
    refine ⟨?_, fun h => by rw [link_setLink]; exact h, rfl⟩
    rw [link_setLink]
    simp only [upView, hasBit_setBitIf_other _ _ (show (7 : Nat) ≠ 21 by decide), hasBit_setBitIf_other _ _ (show (7 : Nat) ≠ 17 by decide)]
  unfold takeLockout
  dsimp only
  generalize setLink s n { link s n with
      sticky := setBitIf ov (setBitIf (lock || ov) (link s n).sticky 17) 21
      lockoutClear := if lock then 0 else (link s n).lockoutClear + 1 } = u at hlink
  have hstate : UpKept n u (if ((lock || ov) && (canHem (link s n).state || (link s n).state == .hem)) = true then setPState u n .lockout
      else u) := upKept_ite (fun _ => upKept_setPState u n .lockout) fun _ => upKept_refl n u
  refine upKept_trans (upKept_trans hlink hstate) ?_
  exact upKept_ite (fun _ => upKept_of_moves _ n (moves_tripPort _ (partner n) 3) (partner_ne n)) fun _ => upKept_refl n _

theorem moves_takeLockout (lock ov : Bool) : Moves [n, partner n] s (takeLockout s n lock ov) := by
  have hown : ∀ m ∈ [n], m ∈ [n, partner n] := by simp
  have hpartner : ∀ m ∈ [partner n], m ∈ [n, partner n] := by simp
  unfold takeLockout
  dsimp only
  have hlink := moves_setLink s n { link s n with
      sticky := setBitIf ov (setBitIf (lock || ov) (link s n).sticky 17) 21
      lockoutClear := if lock then 0 else (link s n).lockoutClear + 1 }
  generalize setLink s n { link s n with
      sticky := setBitIf ov (setBitIf (lock || ov) (link s n).sticky 17) 21
      lockoutClear := if lock then 0 else (link s n).lockoutClear + 1 } = u at hlink ⊢
  refine moves_trans (moves_mono hown hlink) ?_
  have hstate : Moves [n] u (if ((lock || ov) && (canHem (link s n).state || (link s n).state == .hem)) = true then setPState u n .lockout
      else u) := moves_ite (fun _ => moves_setPState u n .lockout) fun _ => moves_refl _ u
  refine moves_trans (moves_mono hown hstate) ?_
  exact moves_mono hpartner (moves_ite (fun _ => moves_tripPort _ (partner n) 3) fun _ => moves_refl _ _)

end Kept

/-! ### LOCKOUT (R196, R203) -/

/-- A port in LOCKOUT whose latch stands. -/
def Locked (n : Nat) (s : State) : Prop := (link s n).state = .lockout ∧ hasBit (link s n).sticky 17 = true

section Locked
variable {s : State} {n : Nat}

theorem locked_takeLockout (ov : Bool) (hon : canHem (link s n).state = true ∨ (link s n).state = .hem) :
    Locked n (takeLockout s n true ov) ∧ (link (takeLockout s n true ov) n).fwLoad = (link s n).fwLoad := by
  unfold takeLockout
  dsimp only
  have hif : ((true || ov) && (canHem (link s n).state || (link s n).state == .hem)) = true := by simpa using hon
  rw [if_pos hif]
  generalize hu : setPState (setLink s n { link s n with
      sticky := setBitIf ov (setBitIf (true || ov) (link s n).sticky 17) 21
      lockoutClear := if true = true then 0 else (link s n).lockoutClear + 1 }) n .lockout = u
  have hlink : link u n = { link s n with
      sticky := setBitIf ov (setBitIf (true || ov) (link s n).sticky 17) 21, lockoutClear := 0, state := .lockout } := by
    rw [← hu, link_setPState_same, link_setLink]
    rfl
  have hsame (t : State) (ht : link t n = link u n) : Locked n t ∧ (link t n).fwLoad = (link s n).fwLoad := by
    unfold Locked
    rw [ht, hlink]
    exact ⟨⟨rfl, hasBit_setBitIf_of ov 21 (hasBit_setBit _ (by decide))⟩, rfl⟩
  split
  · exact hsame _ ((moves_tripPort u (partner n) 3).stand n (by simpa using partner_ne n)).1
  · exact hsame u rfl

theorem link_presenceNow_locked (h : Locked n s) : link (presenceNow s n) n = link s n := by
  have hst : (link s n).state = .lockout := h.1
  unfold presenceNow
  simp only [link_updCtl, hst]
  (repeat' split) <;> simp_all

theorem link_armAck (s : State) (n m : Nat) (ident : Byte) (code : Nat) : link (armAck s n ident code) m = link s m := by
  unfold armAck
  (repeat' split) <;> rfl

theorem tryUnlock_locked (h : Locked n s) : tryUnlock s n = s := by
  obtain ⟨-, hbit⟩ := h
  exact if_neg (by simp [hbit])

theorem activated_none (h : (link s n).fwLoad ≠ 2) : activated s n = s := if_neg (by simp [h])

end Locked

/-! ### A valid uplink beyond training -/

/-- From one state to another nothing changes but ports of a list, the packs, the records and the armed change. -/
def MovesArm (l : List Nat) (s t : State) : Prop := t = { s with
    links := t.links, ctls := t.ctls, shelf := t.shelf, recorder := t.recorder, arm := t.arm, cfg := t.cfg }
  ∧ MarginOnly s.cfg t.cfg ∧ PortsStand s t l

theorem movesArm_of {l : List Nat} {s t : State} (h : Moves l s t) : MovesArm l s t := by
  obtain ⟨⟨hframe, hcfg⟩, hstand⟩ := h
  refine ⟨?_, hcfg, hstand⟩
  rw [hframe]

theorem movesArm_trans {l : List Nat} {s t u : State} (h : MovesArm l s t) (h' : MovesArm l t u) : MovesArm l s u := by
  obtain ⟨hframe, hcfg, hstand⟩ := h
  obtain ⟨hframe', hcfg', hstand'⟩ := h'
  refine ⟨by rw [hframe', hframe], marginOnly_trans hcfg hcfg', fun m hm => ?_⟩
  exact ⟨(hstand' m hm).1.trans (hstand m hm).1, (hstand' m hm).2.trans (hstand m hm).2⟩

theorem movesArm_armAck (l : List Nat) (s : State) (n : Nat) (ident : Byte) (code : Nat) : MovesArm l s (armAck s n ident code) := by
  unfold armAck
  (repeat' split) <;> exact ⟨rfl, marginOnly_refl _, fun _ _ => ⟨rfl, rfl⟩⟩

/-- The samples of an uplink (R155). -/
def upSamples (f : UpFrame) : List (BitVec 16) := (List.range 12).map fun k => BitVec.ofNat 16 (leAt f.rt (4 + 2 * k) 2)

/-- What follows from an uplink once its status, its mailbox and its samples are taken. -/
theorem runFrame_spec (s : State) (n : Nat) (f : UpFrame) (old : Nat) : ∃ x : Link, x.taken = (link s n).taken
    ∧ x.frameOk = (link s n).frameOk ∧ x.crcErr = (link s n).crcErr ∧ x.noFrame = (link s n).noFrame ∧ x.upRt = (link s n).upRt
    ∧ x.framesOk = (link s n).framesOk ∧ x.missed = (link s n).missed ∧ x.state = (link s n).state ∧ x.fwLoad = (link s n).fwLoad
    ∧ x.feStatus = BitVec.ofNat 32 (leAt f.rt 0 4) ∧ hasBit x.sticky 7 = hasBit (link s n).sticky 7
    ∧ MovesArm [n, partner n] s (runFrame s n f old)
    ∧ upView (link (runFrame s n f old) n) = upView x
    ∧ (x.missed = 0 → (link (runFrame s n f old) n).missed = 0)
    ∧ (ctl (runFrame s n f old) n).samples = upSamples f
    ∧ (hasBit f.header 20 = true → canHem x.state = true ∨ x.state = .hem → x.fwLoad ≠ 2 → Locked n (runFrame s n f old)) := by
  have hown : ∀ m ∈ [n], m ∈ [n, partner n] := by simp
  unfold runFrame
  dsimp only
  generalize hx : ({ link s n with
      feStatus := BitVec.ofNat 32 (leAt f.rt 0 4), ackId := (f.rt[0x24]?).getD 0, ackCode := (f.rt[0x25]?).getD 0
      sticky := setBitIf (hasBit (BitVec.ofNat 32 (leAt f.rt 0 4)) 0) (link s n).sticky 16
      mbx := takeMbx s n old (link s n).obeys f.mbx } : Link) = x
  refine ⟨x, by rw [← hx], by rw [← hx], by rw [← hx], by rw [← hx], by rw [← hx], by rw [← hx], by rw [← hx], by rw [← hx],
    by rw [← hx], by rw [← hx], ?_, ?_⟩
  · rw [← hx]; exact hasBit_setBitIf_other _ _ (by decide)
  generalize hu : updCtl (setLink s n x) n (fun c => { c with
    samples := (List.range 12).map fun k => BitVec.ofNat 16 (leAt f.rt (4 + 2 * k) 2) }) = u
  have hlink : link u n = x := by rw [← hu, link_updCtl, link_setLink]
  have hsamples : (ctl u n).samples = upSamples f := by rw [← hu, ctl_updCtl]; rfl
  have hmoves : Moves [n] s u := hu ▸ moves_trans (moves_setLink s n x) (moves_updCtl _ n _)
  have htemps := upKept_takeTemps u n f.rt
  have hmtemps := moves_takeTemps u n f.rt
  have hltemps : link (takeTemps u n f.rt) n = link u n := by unfold takeTemps; dsimp only; split <;> rfl
  generalize takeTemps u n f.rt = v at htemps hmtemps hltemps
  generalize (clsOf v n == 5 && hasBit (BitVec.ofNat 32 (leAt f.rt 0 4)) 1) = ov
  have hlock := upKept_takeLockout v n (hasBit f.header 20) ov
  have hmlock := moves_takeLockout v n (hasBit f.header 20) ov
  have hlocked : hasBit f.header 20 = true → canHem (link v n).state = true ∨ (link v n).state = .hem →
      Locked n (takeLockout v n (hasBit f.header 20) ov) ∧ (link (takeLockout v n (hasBit f.header 20) ov) n).fwLoad = (link v n).fwLoad :=
    fun hbit hon => by rw [hbit]; exact locked_takeLockout ov hon
  generalize takeLockout v n (hasBit f.header 20) ov = w at hlock hmlock hlocked
  have hpres : UpKept n w (if clsOf w n == 4 then presenceNow w n else w) :=
    upKept_ite (fun _ => upKept_presenceNow w n) fun _ => upKept_refl n w
  have hmpres : Moves [n] w (if clsOf w n == 4 then presenceNow w n else w) :=
    moves_ite (fun _ => moves_presenceNow w n) fun _ => moves_refl _ w
  have hlpres (hl : Locked n w) : link (if clsOf w n == 4 then presenceNow w n else w) n = link w n := by
    split
    · exact link_presenceNow_locked hl
    · rfl
  generalize (if clsOf w n == 4 then presenceNow w n else w) = y at hpres hmpres hlpres
  have hack := upKept_armAck y n ((f.rt[0x24]?).getD 0) ((f.rt[0x25]?).getD 0).toNat
  have hmack := movesArm_armAck [n, partner n] y n ((f.rt[0x24]?).getD 0) ((f.rt[0x25]?).getD 0).toNat
  have hlack := link_armAck y n n ((f.rt[0x24]?).getD 0) ((f.rt[0x25]?).getD 0).toNat
  generalize armAck y n ((f.rt[0x24]?).getD 0) ((f.rt[0x25]?).getD 0).toNat = z at hack hmack hlack
  have hkept := upKept_trans htemps (upKept_trans hlock (upKept_trans hpres (upKept_trans hack
    (upKept_trans (upKept_tryUnlock z n) (upKept_activated (tryUnlock z n) n)))))
  refine ⟨?_, hkept.view.trans (congrArg upView hlink), fun h0 => hkept.missed (hlink ▸ h0), hkept.samples.trans hsamples, fun hbit hon hload => ?_⟩
  · have hbefore := movesArm_of (moves_trans (moves_mono hown (moves_trans hmoves hmtemps)) (moves_trans hmlock (moves_mono hown hmpres)))
    have hafter := movesArm_of (moves_mono hown (moves_trans (moves_tryUnlock z n) (moves_activated (tryUnlock z n) n)))
    exact movesArm_trans hbefore (movesArm_trans hmack hafter)
  · rw [← hlink, ← hltemps] at hon
    obtain ⟨hl, hfw⟩ := hlocked hbit hon
    have hz : link z n = link w n := hlack.trans (hlpres hl)
    have hlz : Locked n z := by unfold Locked; rw [hz]; exact hl
    rw [tryUnlock_locked hlz, activated_none]
    · exact hlz
    · rw [hz, hfw, hltemps, hlink]; exact hload

theorem uplink_spec {s : State} {n : PortId} {f : UpFrame} (htakes : takesFrame s n = true) (hlo : 108 ≤ f.delayNs)
    (hhi : f.delayNs ≤ 164) (hgood : upGood s.wheel.w f = true) (hstate : (link s n).state ≠ .training) : ∃ t,
    exec (.uplinkFrame n f) s = .next t ∧ t = { s with
      links := t.links, ctls := t.ctls, shelf := t.shelf, recorder := t.recorder, arm := t.arm, cfg := t.cfg }
    ∧ MarginOnly s.cfg t.cfg
    ∧ (link t n).taken = true ∧ (link t n).frameOk = true ∧ (link t n).crcErr = false ∧ (link t n).noFrame = false
    ∧ (link t n).missed = 0 ∧ (link t n).upRt = sliceB f.rt 0 40 ∧ (link t n).framesOk = (link s n).framesOk + 1
    ∧ (link t n).feStatus = BitVec.ofNat 32 (leAt f.rt 0 4)
    ∧ (ctl t n).samples = upSamples f
    ∧ (hasBit (link t n).sticky 7 = true ↔ hasBit (link s n).sticky 7 = true ∨ f.header.toNat / 2 ^ 22 % 64 ≠ s.wheel.round.toNat % 64)
    ∧ (hasBit f.header 20 = true → canHem (link s n).state = true ∨ (link s n).state = .hem → (link s n).fwLoad ≠ 2 →
        (link t n).state = .lockout ∧ hasBit (link t n).sticky 17 = true)
    ∧ ∀ m, m ≠ n → m ≠ partner n → link t m = link s m ∧ ctl t m = ctl s m := by
  generalize hx : ({ link s n with
      taken := true, frameOk := true, crcErr := false, noFrame := false, missed := 0, upHeader := f.header
      upRt := sliceB f.rt 0 40, obeys := f.header.toNat / 2 ^ 30, framesOk := (link s n).framesOk + 1
      sticky := setBitIf (decide (f.header.toNat / 2 ^ 22 % 64 ≠ s.wheel.round.toNat % 64)) (link s n).sticky 7 } : Link) = x
  have hexec : exec (.uplinkFrame n f) s = .next (runFrame (setLink s n x) n f (link s n).obeys) := by
    refine congrArg Host.Outcome.next ((if_neg (by simp [htakes])).trans ((if_neg (by omega)).trans ((if_neg (by simp [hgood])).trans ?_)))
    rw [← hx]
    exact if_neg (by simpa using hstate)
  obtain ⟨y, htaken, hok, hcrc, hno, hrt, hframes, hmissed, hst, hfw, hstatus, hbit, hmoves, hview, hzero, hsamples, hlocked⟩ :=
    runFrame_spec (setLink s n x) n f (link s n).obeys
  obtain ⟨hframe, hcfg, hstand⟩ := movesArm_trans (movesArm_of (moves_mono (by simp) (moves_setLink s n x))) hmoves
  rw [link_setLink] at htaken hok hcrc hno hrt hframes hmissed hst hfw hbit
  simp only [upView, Prod.mk.injEq] at hview
  obtain ⟨vtaken, vok, vcrc, vno, vrt, vframes, vstatus, vbit⟩ := hview
  refine ⟨_, hexec, hframe, hcfg, ?_, ?_, ?_, ?_, hzero ?_, ?_, ?_, vstatus.trans hstatus, hsamples, ?_, fun hlock hon hload => ?_, fun m hm hp => ?_⟩
  · rw [vtaken, htaken, ← hx]
  · rw [vok, hok, ← hx]
  · rw [vcrc, hcrc, ← hx]
  · rw [vno, hno, ← hx]
  · rw [hmissed, ← hx]
  · rw [vrt, hrt, ← hx]
  · rw [vframes, hframes, ← hx]
  · rw [vbit, hbit, ← hx]
    by_cases hseq : f.header.toNat / 2 ^ 22 % 64 ≠ s.wheel.round.toNat % 64
    · rw [decide_eq_true hseq]
      exact iff_of_true (hasBit_setBit _ (by decide)) (.inr hseq)
    · rw [decide_eq_false hseq]
      exact ⟨.inl, fun h => h.resolve_right hseq⟩
  · refine hlocked hlock ?_ ?_
    · rw [hst, ← hx]; exact hon
    · rw [hfw, ← hx]; exact hload
  · exact hstand m (by simp [Fin.val_ne_of_ne hm, hp])

/-- Settles O31: what comes in the round by its kind, a valid uplink beyond training by `runFrame_spec`. -/
theorem uplinksAreTakenOnceInARound : Obligations.UplinksAreTakenOnceInARound := by
  intro s n f outside l missed b
  refine ⟨?_, fun hno => ⟨?_, ?_⟩, fun htakes hcount => ⟨noFrame_spec hcount outside htakes, fun hout => ?_, fun hlo hhi hbad =>
    badFrame_spec hcount f htakes hlo hhi hbad⟩, uplink_spec⟩
  · unfold upGood
    rw [Bool.and_eq_true, beq_iff_eq]
  · exact congrArg Host.Outcome.next (if_pos (by simp [hno]))
  · exact congrArg Host.Outcome.next (if_neg (by simp [hno]))
  · refine (congrArg Host.Outcome.next ((if_neg (by simp [htakes])).trans (if_pos hout))).trans ?_
    exact (congrArg Host.Outcome.next (if_pos htakes)).symm

end Sys2Proof.Machine
end

section
/-! PROOFS. Training and loss of a link (R167 to R172, R175, R185, R294). -/
namespace Sys2Proof.Machine

/-! ### Loss of a link (R167, R294) -/

@[simp] theorem ctl_portToHem_lostHold (s : State) (n : Nat) : (ctl (portToHem s n) n).lostHold = (ctl s n).lostHold :=
  ctl_portToHem_keeps (view := Ctl.lostHold) (fun _ => rfl) (fun _ => rfl) s n

theorem link_raiseLinkLost (s : State) (n : Nat) :
    link (raiseLinkLost s n) n = hemmed { link s n with sticky := setBit (link s n).sticky 0, lost := true } := by
  refine (link_trigger _ _ _).trans ((link_addRecord _ _ _ _ _).trans ((link_portToHem_same _ _).trans ?_))
  rw [link_updCtl, link_updLink]

theorem lostHold_raiseLinkLost (s : State) (n : Nat) : (ctl (raiseLinkLost s n) n).lostHold = true := by
  refine (congrArg Ctl.lostHold ((ctl_trigger _ _ _).trans (ctl_addRecord _ _ _ _ _))).trans ((ctl_portToHem_lostHold _ n).trans ?_)
  exact congrArg Ctl.lostHold (ctl_updCtl _ n _)

theorem portHeld_of_lostHold {s : State} {n : Nat} (h : (ctl s n).lostHold = true) : portHeld s n = true := by simp [portHeld, h]

theorem hemBit_of_held {s : State} {n : Nat} (h : portHeld s n = true) : hemBit s n = true := by simp [hemBit, h]

@[simp] theorem hemmed_lost (l : Link) : (hemmed l).lost = l.lost := by unfold hemmed; split <;> rfl
@[simp] theorem hemmed_sticky (l : Link) : (hemmed l).sticky = l.sticky := by unfold hemmed; split <;> rfl
@[simp] theorem hemmed_step (l : Link) : (hemmed l).step = l.step := by unfold hemmed; split <;> rfl
@[simp] theorem hemmed_missed (l : Link) : (hemmed l).missed = l.missed := by unfold hemmed; split <;> rfl
@[simp] theorem hemmed_fwLoad (l : Link) : (hemmed l).fwLoad = l.fwLoad := by unfold hemmed; split <;> rfl
@[simp] theorem hemmed_fwDone (l : Link) : (hemmed l).fwDone = l.fwDone := by unfold hemmed; split <;> rfl

theorem state_hemmed (l : Link) : (hemmed l).state = if canHem l.state then .hem else l.state := by
  unfold hemmed
  split <;> rfl

/-- A port whose link is raised as lost enters HEM where it can. -/
theorem entersHem_raiseLinkLost {s t : State} {n : Nat} (h : (link t n).state = (link s n).state) :
    EntersHem s (raiseLinkLost t n) n := by
  unfold EntersHem
  rw [link_raiseLinkLost, state_hemmed, h]

theorem lostDue_iff (s : State) (n : Nat) (hcount : counting (link s n).state = true) (hlost : (link s n).lost = false) :
    lostDue s n = true ↔ 4 + (link s n).coastSent ≤ (link s n).missed ∧ (link s n).fwLoad ≠ 2 := by
  simp [lostDue, missedOut, hcount, hlost]

theorem linkLost_spec {s : State} {n : PortId} (hcount : counting (link s n).state = true) (hlost : (link s n).lost = false) :
    ((link s n).missed < 4 + (link s n).coastSent ∨ (link s n).fwLoad = 2 → exec (.linkLost n) s = .next s)
    ∧ (4 + (link s n).coastSent ≤ (link s n).missed → (link s n).fwLoad ≠ 2 → ∃ t, exec (.linkLost n) s = .next t ∧ OnlyPorts s t
      ∧ PortsStand s t [n.val]
        ∧ EntersHem s t n ∧ (link t n).lost = true ∧ (link t n).sticky = (link s n).sticky ||| 1 ∧ (ctl t n).lostHold = true
        ∧ portHeld t n = true ∧ hemBit t n = true) := by
  have hiff := lostDue_iff s n hcount hlost
  refine ⟨fun hno => congrArg Host.Outcome.next (if_neg fun hdue => ?_), fun hmissed hload =>
    ⟨_, congrArg Host.Outcome.next (if_pos (hiff.2 ⟨hmissed, hload⟩)), (moves_raiseLinkLost s n).frame, (moves_raiseLinkLost s n).stand,
      entersHem_raiseLinkLost rfl, ?_, ?_, lostHold_raiseLinkLost s n, ?_, ?_⟩⟩
  · obtain ⟨hmissed, hload⟩ := hiff.1 hdue
    rcases hno with h | h
    · omega
    · exact hload h
  · rw [link_raiseLinkLost, hemmed_lost]
  · rw [link_raiseLinkLost, hemmed_sticky]
    rfl
  · exact portHeld_of_lostHold (lostHold_raiseLinkLost s n)
  · exact hemBit_of_held (portHeld_of_lostHold (lostHold_raiseLinkLost s n))

/-! ### The start of training (R168, R169) -/

/-- The link of a port that begins its training. -/
def begunLink (highZ : Bool) (l : Link) : Link := { l with
  state := .training, driving := !highZ, step := 1, stepRounds := 0, stepRun := 0, identity := [], delaySum := 0, delayCount := 0
  tickAdvance := 0, missed := 0, again := l.again || l.lost || l.fwLoad == 2 }

theorem boot_setPState (s : State) (n : Nat) (t : PState) : (setPState s n t).boot = s.boot := by
  obtain ⟨a, b, c, d, h, -⟩ := setPState_frame s n t
  rw [h]

theorem link_startTraining (s : State) (n : Nat) : link (startTraining s n) n = begunLink s.boot.highZ (link s n) := by
  unfold startTraining
  rw [link_updLink, link_updCtl, link_setPState_same]
  show begunLink (setPState s n .training).boot.highZ _ = _
  rw [boot_setPState]
  rfl

/-- From one state to another nothing changes but ports and packs. -/
def PortsAlone (s t : State) : Prop := t = { s with links := t.links, ctls := t.ctls, shelf := t.shelf, cfg := t.cfg } ∧ MarginOnly s.cfg t.cfg

theorem portsAlone_trans {s t u : State} (h : PortsAlone s t) (h' : PortsAlone t u) : PortsAlone s u := by
  obtain ⟨hframe, hcfg⟩ := h
  obtain ⟨hframe', hcfg'⟩ := h'
  refine ⟨?_, marginOnly_trans hcfg hcfg'⟩
  rw [hframe', hframe]

theorem portsAlone_startTraining (s : State) (n : Nat) : PortsAlone s (startTraining s n) := by
  obtain ⟨a, b, c, d, hframe, hcfg⟩ := setPState_frame s n .training
  unfold startTraining
  dsimp only
  rw [hframe]
  exact ⟨rfl, hcfg⟩

/-- A port that its wave trains. -/
def inWave (s : State) (n : Nat) : Prop := enabledPort s n = true ∧ (link s n).state = .absent ∧ (link s n).lost = false

/-- What a wave does at one of its ports. -/
def waveAt (s : State) (n : Nat) : State :=
  if enabledPort s n && (link s n).state == .absent && !(link s n).lost then startTraining s n else s

theorem waveAt_of {s : State} {n : Nat} (h : inWave s n) : waveAt s n = startTraining s n := by
  obtain ⟨hen, hst, hlost⟩ := h
  exact if_pos (by simp [hen, hst, hlost])

theorem waveAt_not {s : State} {n : Nat} (h : ¬inWave s n) : waveAt s n = s :=
  if_neg fun h' => h (by simpa [inWave, and_assoc] using h')

/-- A port's objects 0x11 to 0x2F stand when only margin steps end. -/
theorem pcfg_margin {s t : State} (h : MarginOnly s.cfg t.cfg) (n : Nat) {sub : Nat} (hlo : 0x10 < sub) (hhi : sub < 0x30) :
    pcfg t n sub = pcfg s n sub := by
  have hfind : tfind t.cfg (okey (0x3100 + n) sub) = tfind s.cfg (okey (0x3100 + n) sub) := by
    refine (h _).resolve_right ?_
    rintro ⟨m, hm, -⟩
    unfold okey at hm
    omega
  have hdflt (u : State) : dfltOf u (0x3100 + n) sub = objDefault (0x3100 + n) sub := by
    unfold dfltOf
    rw [if_neg (by omega), if_neg (by omega)]
  unfold pcfg cfg
  rw [hfind, hdflt t, hdflt s]

theorem waveAt_spec (s : State) (n : Nat) : PortsAlone s (waveAt s n) ∧ PortsStand s (waveAt s n) [n] := by
  by_cases h : inWave s n
  · rw [waveAt_of h]
    exact ⟨portsAlone_startTraining s n, (moves_startTraining s n).stand⟩
  · rw [waveAt_not h]
    exact ⟨⟨rfl, marginOnly_refl _⟩, fun _ _ => ⟨rfl, rfl⟩⟩

theorem inWave_waveAt {s : State} {n m : Nat} (h : n ≠ m) : inWave (waveAt s m) n ↔ inWave s n := by
  obtain ⟨⟨-, hcfg⟩, hstand⟩ := waveAt_spec s m
  obtain ⟨hlink, -⟩ := hstand n (by simpa using h)
  unfold inWave enabledPort
  rw [hlink, pcfg_margin hcfg n (by decide) (by decide)]

/-- A wave over a list of ports: each that it trains begins, the others stay. -/
theorem wave_spec (l : List Nat) : ∀ s : State, l.Nodup → PortsAlone s (forAll l waveAt s)
    ∧ ∀ n, (n ∈ l ∧ inWave s n → link (forAll l waveAt s) n = begunLink s.boot.highZ (link s n))
      ∧ (¬(n ∈ l ∧ inWave s n) → link (forAll l waveAt s) n = link s n ∧ ctl (forAll l waveAt s) n = ctl s n) := by
  induction l with
  | nil => exact fun s _ => ⟨⟨rfl, marginOnly_refl _⟩, fun n => ⟨fun h => absurd h.1 (by simp), fun _ => ⟨rfl, rfl⟩⟩⟩
  | cons a l ih =>
    intro s hnodup
    obtain ⟨ha, hl⟩ := List.nodup_cons.1 hnodup
    obtain ⟨halone, hstand⟩ := waveAt_spec s a
    obtain ⟨halone', hports⟩ := ih (waveAt s a) hl
    have hboot : (waveAt s a).boot = s.boot := by rw [halone.1]
    refine ⟨portsAlone_trans halone halone', fun n => ?_⟩
    obtain ⟨htrained, hstays⟩ := hports n
    by_cases hna : n = a
    · subst hna
      have hend := hstays fun h => ha h.1
      refine ⟨fun h => hend.1.trans ?_, fun h => ?_⟩
      · rw [waveAt_of h.2, link_startTraining]
      · rw [waveAt_not fun h' => h ⟨by simp, h'⟩] at hend
        rw [show forAll (n :: l) waveAt s = forAll l waveAt (waveAt s n) from rfl, waveAt_not fun h' => h ⟨by simp, h'⟩]
        exact hend
    · obtain ⟨hlink, hctl⟩ := hstand n (by simpa using hna)
      rw [inWave_waveAt hna, hlink, hboot] at htrained
      rw [inWave_waveAt hna, hlink, hctl] at hstays
      have hmem : n ∈ a :: l ↔ n ∈ l := by simp [hna]
      rw [hmem]
      exact ⟨htrained, hstays⟩

theorem mem_wavePorts (w n : Nat) : n ∈ (List.range 32).map (fun j => 32 * w + j) ↔ n / 32 = w := by
  simp only [List.mem_map, List.mem_range]
  constructor
  · rintro ⟨j, hj, rfl⟩; omega
  · intro h; exact ⟨n - 32 * w, by omega, by omega⟩

theorem nodup_wavePorts (w : Nat) : ((List.range 32).map fun j => 32 * w + j).Nodup :=
  List.nodup_range.map fun a b h => by omega

theorem trainingWave_spec {s : State} (hruns : linksRun s = true) (hoff : s.boot.waveOn = false) (hwave : s.boot.wave < 8) :
    ∃ t, exec .trainingWave s = .next t
      ∧ t = { s with links := t.links, ctls := t.ctls, shelf := t.shelf, cfg := t.cfg,
                      boot := { s.boot with wave := s.boot.wave + 1, waveOn := true } }
      ∧ MarginOnly s.cfg t.cfg
      ∧ ∀ n, (n / 32 = s.boot.wave ∧ enabledPort s n = true ∧ (link s n).state = .absent ∧ (link s n).lost = false →
            (link t n).state = .training ∧ (link t n).step = 1 ∧ (link t n).driving = !s.boot.highZ ∧ (link t n).stepRounds = 0
            ∧ (link t n).tickAdvance = 0)
        ∧ (¬(n / 32 = s.boot.wave ∧ enabledPort s n = true ∧ (link s n).state = .absent ∧ (link s n).lost = false) →
            link t n = link s n ∧ ctl t n = ctl s n) := by
  obtain ⟨⟨hframe, hcfg⟩, hports⟩ := wave_spec _ s (nodup_wavePorts s.boot.wave)
  generalize hu : forAll ((List.range 32).map fun j => 32 * s.boot.wave + j) waveAt s = u at hframe hcfg hports
  have hexec : exec .trainingWave s = .next { u with boot := { u.boot with wave := u.boot.wave + 1, waveOn := true } } := by
    have hif : (linksRun s && !s.boot.waveOn && decide (s.boot.wave < 8)) = true := by rw [hruns, hoff, decide_eq_true hwave]; rfl
    rw [← hu]
    show execTrainingWave s = _
    unfold execTrainingWave waveAt
    rw [if_pos hif]
  refine ⟨_, hexec, ?_, hcfg, fun n => ?_⟩
  · refine Eq.trans (congrArg (fun t : State => { t with boot := { t.boot with wave := t.boot.wave + 1, waveOn := true } }) hframe) ?_
    rfl
  obtain ⟨htrained, hstays⟩ := hports n
  rw [mem_wavePorts] at htrained hstays
  refine ⟨fun h => ?_, hstays⟩
  have hlink : link { u with boot := { u.boot with wave := u.boot.wave + 1, waveOn := true } } n = begunLink s.boot.highZ (link s n) :=
    htrained h
  rw [hlink]
  exact ⟨rfl, rfl, rfl, rfl, rfl⟩

theorem retrainStart_spec {s : State} {n : PortId} (hruns : linksRun s = true) (hdone : wavesDone s = true)
    (hnext : nextTraining s = some n.val) (hroom : (allPorts.filter fun k => (link s k).state == .training).length < 32) :
    ∃ t, exec (.retrainStart n) s = .next t
      ∧ t = { s with links := t.links, ctls := t.ctls, shelf := t.shelf, cfg := t.cfg, boot := { s.boot with lastTrain := some n.val } }
      ∧ MarginOnly s.cfg t.cfg ∧ PortsStand s t [n.val] ∧ (link t n).state = .training ∧ (link t n).step = 1
      ∧ (link t n).driving = !s.boot.highZ := by
  generalize hu : ({ s with boot := { s.boot with lastTrain := some n.val } } : State) = u
  have hexec : exec (.retrainStart n) s = .next (updLink (startTraining u n) n fun l => { l with fwDone := true }) := by
    rw [← hu]
    refine congrArg Host.Outcome.next (if_pos ?_)
    rw [hruns, hdone, hnext, decide_eq_true hroom]
    simp
  obtain ⟨hframe, hcfg⟩ := portsAlone_startTraining u n
  have hstand := (moves_trans (moves_startTraining u n) (moves_updLink _ n fun l => { l with fwDone := true })).stand
  have hlink : link (updLink (startTraining u n) n fun l => { l with fwDone := true }) n
      = { begunLink s.boot.highZ (link s n) with fwDone := true } := by
    rw [link_updLink, link_startTraining, ← hu]
    rfl
  refine ⟨_, hexec, ?_, ?_, ?_, ?_⟩
  · refine Eq.trans (congrArg (fun t : State => updLink t n fun l => { l with fwDone := true }) hframe) ?_
    rw [← hu]
    rfl
  · rw [← hu] at hcfg ⊢
    exact hcfg
  · rw [← hu] at hstand ⊢
    exact hstand
  · rw [hlink]
    exact ⟨rfl, rfl, rfl⟩

/-! ### Steps that time out (R172, R175, R185) -/

theorem trainingTimeout_spec {s : State} {n : PortId} (hstate : (link s n).state = .training) :
    ((link s n).stepRounds < (if (link s n).step = 1 then 128 else if (link s n).step = 4 then 64 else 32) →
      exec (.trainingTimeout n) s = .next s)
    ∧ ((if (link s n).step = 1 then 128 else if (link s n).step = 4 then 64 else 32) ≤ (link s n).stepRounds →
      ∃ t, exec (.trainingTimeout n) s = .next t ∧ OnlyPorts s t ∧ PortsStand s t [n.val] ∧ (link t n).state = .absent
        ∧ (link t n).driving = false ∧ (link t n).step = 0 ∧ (link t n).sticky = (link s n).sticky ||| 2) := by
  have hlate : trainLate s n = decide (stepTimeout (link s n).step ≤ (link s n).stepRounds) := by simp [trainLate, hstate]
  refine ⟨fun h => congrArg Host.Outcome.next (if_neg ?_), fun h => ⟨_, congrArg Host.Outcome.next (if_pos ?_),
    (moves_trainFail s n).frame, (moves_trainFail s n).stand, ?_⟩⟩
  · rw [hlate, decide_eq_true_eq]
    exact Nat.not_le.2 h
  · rw [hlate, decide_eq_true_eq]
    exact h
  · have hlink : link (trainFail s n) n = { link s n with
        sticky := setBit (link s n).sticky 1, state := .absent, driving := false, step := 0, stepRounds := 0, stepRun := 0 } := by
      unfold trainFail
      rw [link_updLink, link_setPState_same, link_stick]
    rw [hlink]
    exact ⟨rfl, rfl, rfl, rfl⟩

theorem link_fwFailed (s : State) (n : Nat) : link (fwFailed s n) n = hemmed { link s n with
    sticky := setBit (setBit (link s n).sticky 9) 0, fwLoad := 0, fwStart := false, fwDone := true, lost := true } := by
  unfold fwFailed
  rw [link_raiseLinkLost, link_updLink, link_stick]

theorem fwRetrainTimeout_spec {s : State} {n : PortId} (hload : (link s n).fwLoad = 2) :
    ((link s n).fwTime < 1 / 10 → exec (.fwRetrainTimeout n) s = .next s)
    ∧ (1 / 10 ≤ (link s n).fwTime → ∃ t, exec (.fwRetrainTimeout n) s = .next t ∧ OnlyPorts s t ∧ PortsStand s t [n.val]
      ∧ EntersHem s t n ∧ (link t n).fwLoad = 0 ∧ (link t n).fwDone = true ∧ (link t n).lost = true
    ∧ (link t n).sticky = (link s n).sticky ||| 0x201) := by
  have hlate : fwLate s n = decide (1 / 10 ≤ (link s n).fwTime) := by simp [fwLate, hload]
  refine ⟨fun h => congrArg Host.Outcome.next (if_neg ?_), fun h => ⟨_, congrArg Host.Outcome.next (if_pos ?_),
    (moves_fwFailed s n).frame, (moves_fwFailed s n).stand, ?_⟩⟩
  · rw [hlate, decide_eq_true_eq]
    exact not_le.2 h
  · rw [hlate, decide_eq_true h]
  · unfold EntersHem
    rw [link_fwFailed, state_hemmed, hemmed_fwLoad, hemmed_fwDone, hemmed_lost, hemmed_sticky]
    exact ⟨rfl, rfl, rfl, rfl, BitVec.or_assoc _ _ _⟩

theorem mailboxResend_spec {s : State} {n : PortId} {g : Seg} {rest : List Seg} (hcmd : commands s = true)
    (hsent : (link s n).mbx.sent = g :: rest) :
    (7 ≤ g.age → (link s n).taken = true → 0 < (link s n).mbx.redo → ∃ t, exec (.mailboxResend n) s = .next t ∧ OnlyLink s t n
      ∧ link t n = { link s n with mbx := { (link s n).mbx with redo := 0 } })
    ∧ (g.age < 7 ∨ (link s n).taken = false → exec (.mailboxResend n) s = .next s) := by
  have hdue : mboxLate s n = ((link s n).taken && (decide (7 ≤ g.age) && decide (0 < (link s n).mbx.redo))) := by
    simp [mboxLate, hcmd, resendDue, hsent]
  refine ⟨fun hage htaken hredo => ⟨_, congrArg Host.Outcome.next (if_pos ?_), onlyLink_setLink s n _, link_updLink s n _⟩,
    fun h => congrArg Host.Outcome.next (if_neg ?_)⟩
  · rw [hdue, htaken, decide_eq_true hage, decide_eq_true hredo]
    rfl
  · rw [hdue]
    rcases h with h | h
    · simp [Nat.not_le.2 h]
    · simp [h]

/-! ### The frames of training (R169 to R171) -/

/-- What a valid uplink writes at once. -/
def gotFrame (round : Word) (f : UpFrame) (l : Link) : Link := { l with
  taken := true, frameOk := true, crcErr := false, noFrame := false, missed := 0, upHeader := f.header
  upRt := sliceB f.rt 0 40, obeys := f.header.toNat / 2 ^ 30, framesOk := l.framesOk + 1
  sticky := setBitIf (decide (f.header.toNat / 2 ^ 22 % 64 ≠ round.toNat % 64)) l.sticky 7 }

theorem exec_uplink_training {s : State} {n : PortId} {f : UpFrame} (htakes : takesFrame s n = true) (hlo : 108 ≤ f.delayNs)
    (hhi : f.delayNs ≤ 164) (hgood : upGood s.wheel.w f = true) (hstate : (link s n).state = .training) :
    exec (.uplinkFrame n f) s = .next (trainFrame (setLink s n (gotFrame s.wheel.round f (link s n))) n f) := by
  refine congrArg Host.Outcome.next ((if_neg (by simp [htakes])).trans ((if_neg (by omega)).trans ((if_neg (by simp [hgood])).trans ?_)))
  exact if_pos (by simpa using hstate)

theorem noFrame_training {s : State} {n : PortId} (htakes : takesFrame s n = true) (hstate : (link s n).state = .training)
    (outside : Bool) : ∃ t, exec (.noFrame n outside) s = .next t ∧ OnlyLink s t n
      ∧ link t n = { link s n with
          taken := true, frameOk := false, crcErr := false, noFrame := true
          sticky := (link s n).sticky ||| (if outside then 0x40 else 0)
          stepRun := if (link s n).step = 4 then 0 else (link s n).stepRun } := by
  have hmiss (u : State) (hst : (link u n).state = .training) : link (missRound u n false) n = { link u n with
      taken := true, frameOk := false, crcErr := false, noFrame := true
      stepRun := if (link u n).step = 4 then 0 else (link u n).stepRun } := by
    unfold missRound
    dsimp only
    rw [if_neg (by simp [counting, hst]), link_setLink]
    by_cases hstep : (link u n).step = 4
    · rw [if_pos (by simp [hstep]), if_pos hstep]
      rfl
    · rw [if_neg (by simp [hstep]), if_neg hstep]
      rfl
  cases outside with
  | false =>
    refine ⟨_, congrArg Host.Outcome.next (if_pos htakes), onlyLink_missRound s n false, (hmiss s hstate).trans ?_⟩
    have hsticky : (link s n).sticky ||| (if false = true then 0x40 else 0) = (link s n).sticky := BitVec.or_zero
    rw [hsticky]
  | true =>
    refine ⟨_, congrArg Host.Outcome.next (if_pos htakes), onlyLink_trans (onlyLink_stick s n 6) (onlyLink_missRound _ n false), ?_⟩
    refine (hmiss (stick s n 6) (by rw [link_stick]; exact hstate)).trans ?_
    rw [link_stick]
    rfl

section Frames
variable {s : State} {n : Nat} {f : UpFrame}

theorem trainFrame_listen (h : (link s n).step = 1) :
    trainFrame s n f = setLink s n { link s n with step := 2, stepRounds := 0, stepRun := 0 } := by
  unfold trainFrame
  simp only [h]

/-- The link of a port in IDENT that has taken a copy of the identity. -/
def identLink (f : UpFrame) (l : Link) : Link := { l with
  identity := sliceB f.rt 0 20, stepRun := if sliceB f.rt 0 20 = l.identity then l.stepRun + 1 else 1
  delaySum := l.delaySum + f.delayNs, delayCount := l.delayCount + 1 }

/-- The link of a port whose identity is settled. -/
def identified (coast : Nat) (ident : List Byte) (l : Link) : Link := { l with
  step := 3, stepRounds := 0, stepRun := 0, uid := BitVec.ofNat 64 (leAt ident 0 8), cls := (ident[8]?).getD 0, caps := (ident[9]?).getD 0
  hwVersion := BitVec.ofNat 16 (leAt ident 0x0A 2), fwVersion := BitVec.ofNat 32 (leAt ident 0x0C 4)
  fwFamily := leAt ident 0x10 2, groupCount := leAt ident 0x13 1, loopDelay := (l.delaySum * 2 + l.delayCount) / (2 * l.delayCount)
  tickAdvance := tickAdvanceOf l.delaySum l.delayCount, coastSent := coast }

theorem trainFrame_ident (h : (link s n).step = 2) : trainFrame s n f = setLink s n
    (if (identLink f (link s n)).stepRun < 4 then identLink f (link s n)
      else identified (pcfg s n 0x21) (sliceB f.rt 0 20) (identLink f (link s n))) := by
  have hrun : (if (sliceB f.rt 0 20 == (link s n).identity) = true then (link s n).stepRun + 1 else 1) = (identLink f (link s n)).stepRun := by
    simp only [identLink, beq_iff_eq]
  unfold trainFrame
  dsimp only
  split
  · omega
  · rw [hrun]
    split
    · rfl
    · rfl
  · omega
  · omega
  · exact absurd h ‹_›

/-- What a far end answers in ADJUST when it has taken what it was told. -/
def adjusted (n : Nat) (f : UpFrame) (l : Link) : Prop :=
  leAt f.rt 0x14 1 = n ∧ leAt f.rt 0x16 2 = l.tickAdvance ∧ leAt f.rt 0x18 2 = l.coastSent

theorem trainFrame_adjust_not (h : (link s n).step = 3) (hno : ¬adjusted n f (link s n)) :
    trainFrame s n f = setLink s n { link s n with stepRun := 0 } := by
  have hok : ¬(leAt f.rt 0x14 1 == n && leAt f.rt 0x16 2 == (link s n).tickAdvance && leAt f.rt 0x18 2 == (link s n).coastSent) = true :=
    fun h' => hno (by simpa [adjusted, and_assoc] using h')
  unfold trainFrame
  simp only [h]
  rw [if_neg hok, if_pos (by decide)]

theorem trainFrame_adjust (h : (link s n).step = 3) (hok : adjusted n f (link s n)) : trainFrame s n f = setLink s n
    (if (link s n).stepRun + 1 < 4 then { link s n with stepRun := (link s n).stepRun + 1 }
      else { link s n with step := 4, stepRounds := 0, stepRun := 0 }) := by
  have hok' : (leAt f.rt 0x14 1 == n && leAt f.rt 0x16 2 == (link s n).tickAdvance && leAt f.rt 0x18 2 == (link s n).coastSent) = true := by
    simpa [adjusted, and_assoc] using hok
  unfold trainFrame
  simp only [h]
  rw [if_pos hok']

theorem trainFrame_check (h : (link s n).step = 4) (hbit : hasBit f.header 21 = true) (hrun : 31 ≤ (link s n).stepRun) :
    trainFrame s n f = trainDone s n := by
  unfold trainFrame
  simp only [h]
  rw [if_pos hbit, if_neg (by omega)]

/-! ### The end of training (R171, R185) -/

theorem link_markMismatch (s : State) (n : Nat) : ∃ w, link (markMismatch s n) n = { link s n with sticky := w } := by
  unfold markMismatch
  dsimp only
  split <;> split
  · exact ⟨_, rfl⟩
  · exact ⟨_, link_stick _ _ _⟩
  · exact ⟨_, link_stick _ _ _⟩
  · exact ⟨_, by rw [link_stick, link_stick]⟩

/-- What of a link the messages that follow training leave alone. -/
def sentView (l : Link) := (l.state, l.step, l.missed, l.lost, l.fwDone, l.sticky)

theorem sentView_sendMsg (s : State) (n q ty : Nat) (body : List Byte) :
    sentView (link (sendMsg s n q ty body) n) = sentView (link s n) := by
  unfold sendMsg
  rw [link_updLink]
  rfl

theorem sentView_fwSend (s : State) (n : Nat) : sentView (link (fwSend s n) n) = sentView (link s n) := by
  unfold fwSend
  split
  · rfl
  · refine (congrArg sentView (link_updLink _ n _)).trans ((sentView_sendMsg _ n _ _ _).trans ?_)
    refine List.foldlRecOn (motive := fun t : State => sentView (link t n) = sentView (link s n)) _ _ (sentView_sendMsg s n _ _ _) ?_
    exact fun t ht b _ => (sentView_sendMsg t n _ _ _).trans ht

theorem link_sendPath (s : State) (n : Nat) : sentView (link (sendPath s n) n) = sentView (link s n)
    ∧ (link (sendPath s n) n).fwLoad = (link s n).fwLoad := by
  unfold sendPath sendMsg
  rw [link_updLink, link_updLink]
  exact ⟨rfl, rfl⟩

theorem sentView_sendStart (s : State) (n : Nat) : sentView (link (sendStart s n) n) = sentView (link s n) := by
  obtain ⟨hview, -⟩ := link_sendPath s n
  unfold sendStart
  generalize sendPath s n = u at hview
  dsimp only
  split
  · rw [sentView_fwSend, link_updLink]
    exact hview
  · exact hview

/-- A far end whose image has been sent once gets none again. -/
theorem fwLoad_sendStart {s : State} {n : Nat} (h : (link s n).fwDone = true) : (link (sendStart s n) n).fwLoad = (link s n).fwLoad := by
  obtain ⟨hview, hload⟩ := link_sendPath s n
  simp only [sentView, Prod.mk.injEq] at hview
  obtain ⟨-, -, -, -, hdone, -⟩ := hview
  unfold sendStart
  dsimp only
  rw [if_neg (by simp [fwWanted, hdone, h])]
  exact hload

theorem link_toReady (s : State) (n : Nat) : link (toReady s n) n = link s n
    ∨ (link s n).state = .discovered ∧ link (toReady s n) n = { link s n with state := .ready } := by
  unfold toReady
  split
  · rename_i h
    exact .inr ⟨by simp_all, link_setPState_same _ _ _⟩
  · exact .inl rfl

/-- The link of a port that completes training, before its state is settled. -/
def doneLink (l : Link) : Link := { l with
  step := 0, missed := 0, missedMax := 0, lost := false, again := false, lockoutClear := 0
  sticky := setBitIf l.again l.sticky 10, mbx := mboxRestart l.mbx, cfgOk := false, cfgOut := false }

theorem heldNoStart_doneLink (s : State) (n : Nat) : heldNoStart (setLink s n (doneLink (link s n))) n = heldNoStart s n := by
  unfold heldNoStart
  rw [link_setLink, show hasBit (doneLink (link s n)).sticky 0 = hasBit (link s n).sticky 0 from hasBit_setBitIf_other _ _ (by decide)]
  rfl

/-- A firmware load that training ends (R185). -/
def loadEnd (s : State) (n : Nat) : State :=
  if (link s n).fwLoad == 2 then
    if (link s n).fwVersion == (link s n).fwImage then updLink s n fun l => { l with fwLoad := 0, fwStart := false, fwDone := true }
    else fwFailed s n
  else s

/-- A port out of training before its load is judged. -/
def outOfTraining (s : State) (n : Nat) : State :=
  markMismatch (setPState (setLink s n (doneLink (link s n))) n (if heldNoStart s n then .hem else .discovered)) n

theorem trainDone_eq (s : State) (n : Nat) : trainDone s n
    = toReady (if commands (loadEnd (outOfTraining s n) n) then sendStart (loadEnd (outOfTraining s n) n) n
        else loadEnd (outOfTraining s n) n) n := by
  unfold outOfTraining
  rw [← heldNoStart_doneLink]
  rfl

theorem link_outOfTraining (s : State) (n : Nat) : ∃ w, link (outOfTraining s n) n
    = { doneLink (link s n) with state := if heldNoStart s n then .hem else .discovered, sticky := w } := by
  obtain ⟨w, h⟩ := link_markMismatch (setPState (setLink s n (doneLink (link s n))) n (if heldNoStart s n then .hem else .discovered)) n
  exact ⟨w, h.trans (by rw [link_setPState_same, link_setLink])⟩

theorem moves_outOfTraining (s : State) (n : Nat) : Moves [n] s (outOfTraining s n) :=
  moves_trans (moves_setLink s n _) (moves_trans (moves_setPState _ n _) (moves_markMismatch _ n))

theorem moves_loadEnd (s : State) (n : Nat) : Moves [n] s (loadEnd s n) :=
  moves_ite (fun _ => moves_ite (fun _ => moves_updLink s n _) fun _ => moves_fwFailed s n) fun _ => moves_refl _ s

theorem moves_trainDone (s : State) (n : Nat) : Moves [n] s (trainDone s n) := by
  rw [trainDone_eq]
  exact moves_trans (moves_trans (moves_outOfTraining s n) (moves_loadEnd _ n))
    (moves_trans (moves_ite (fun _ => moves_sendStart _ n) fun _ => moves_refl _ _) (moves_toReady _ n))

/-- What the messages that follow training and the way to READY make of a link. -/
theorem link_trainDone (s : State) (n : Nat) : ∃ l' : Link, sentView l' = sentView (link (loadEnd (outOfTraining s n) n) n)
    ∧ ((link (loadEnd (outOfTraining s n) n) n).fwDone = true → l'.fwLoad = (link (loadEnd (outOfTraining s n) n) n).fwLoad)
    ∧ (link (trainDone s n) n = l' ∨ l'.state = .discovered ∧ link (trainDone s n) n = { l' with state := .ready }) := by
  rw [trainDone_eq]
  generalize loadEnd (outOfTraining s n) n = u
  refine ⟨_, ?_, ?_, link_toReady _ n⟩
  · split
    · exact sentView_sendStart u n
    · rfl
  · intro hdone
    split
    · exact fwLoad_sendStart hdone
    · rfl

section Done
variable {s : State} {n : Nat}

theorem link_loadEnd_kept (h : (link s n).fwLoad = 2 → (link s n).fwVersion = (link s n).fwImage) :
    sentView (link (loadEnd s n) n) = sentView { link s n with fwDone := if (link s n).fwLoad = 2 then true else (link s n).fwDone }
      ∧ ((link s n).fwLoad = 2 → (link (loadEnd s n) n).fwLoad = 0) := by
  unfold loadEnd
  by_cases h2 : (link s n).fwLoad = 2
  · rw [if_pos (by simp [h2]), if_pos (by simp [h h2]), if_pos h2, link_updLink]
    exact ⟨rfl, fun _ => rfl⟩
  · rw [if_neg (by simp [h2]), if_neg h2]
    exact ⟨rfl, fun h => absurd h h2⟩

theorem link_loadEnd_failed (h2 : (link s n).fwLoad = 2) (hver : (link s n).fwVersion ≠ (link s n).fwImage) :
    link (loadEnd s n) n = hemmed { link s n with
      sticky := setBit (setBit (link s n).sticky 9) 0, fwLoad := 0, fwStart := false, fwDone := true, lost := true } := by
  unfold loadEnd
  rw [if_pos (by simp [h2]), if_neg (by simp [hver]), link_fwFailed]

theorem trainDone_kept (hload : (link s n).fwLoad = 2 → (link s n).fwVersion = (link s n).fwImage) :
    (link (trainDone s n) n).step = 0 ∧ (link (trainDone s n) n).missed = 0 ∧ (link (trainDone s n) n).lost = false
    ∧ (heldNoStart s n = true → (link (trainDone s n) n).state = .hem)
    ∧ (heldNoStart s n = false → (link (trainDone s n) n).state = .discovered ∨ (link (trainDone s n) n).state = .ready)
    ∧ ((link s n).fwLoad = 2 → (link (trainDone s n) n).fwLoad = 0 ∧ (link (trainDone s n) n).fwDone = true) := by
  obtain ⟨w, hout⟩ := link_outOfTraining s n
  obtain ⟨l', hview, hfw, hend⟩ := link_trainDone s n
  obtain ⟨hlink, hzero⟩ := link_loadEnd_kept (s := outOfTraining s n) (n := n) (by rw [hout]; exact hload)
  rw [hout] at hlink hzero
  generalize link (loadEnd (outOfTraining s n) n) n = x at hview hfw hlink hzero
  rw [hlink] at hview
  simp only [sentView, Prod.mk.injEq] at hview hlink
  obtain ⟨vstate, vstep, vmissed, vlost, vdone, -⟩ := hview
  obtain ⟨-, -, -, -, xdone, -⟩ := hlink
  have hdone : (link s n).fwLoad = 2 → l'.fwLoad = 0 ∧ l'.fwDone = true := fun h =>
    ⟨(hfw (xdone.trans (if_pos h))).trans (hzero h), vdone.trans (if_pos h)⟩
  rcases hend with hsame | ⟨hdisc, hready⟩
  · rw [hsame]
    refine ⟨vstep, vmissed, vlost, fun h => ?_, fun h => .inl ?_, hdone⟩
    · rw [vstate, h]; rfl
    · rw [vstate, h]; rfl
  · rw [hready]
    refine ⟨vstep, vmissed, vlost, fun h => ?_, fun _ => .inr rfl, hdone⟩
    rw [h] at vstate
    rw [hdisc] at vstate
    cases vstate

theorem trainDone_failed (hload : (link s n).fwLoad = 2) (hver : (link s n).fwVersion ≠ (link s n).fwImage) :
    (link (trainDone s n) n).step = 0 ∧ (link (trainDone s n) n).state = .hem ∧ (link (trainDone s n) n).fwLoad = 0
    ∧ (link (trainDone s n) n).fwDone = true ∧ (link (trainDone s n) n).lost = true
    ∧ hasBit (link (trainDone s n) n).sticky 9 = true := by
  obtain ⟨w, hout⟩ := link_outOfTraining s n
  obtain ⟨l', hview, hfw, hend⟩ := link_trainDone s n
  have hlink := link_loadEnd_failed (s := outOfTraining s n) (n := n) (by rw [hout]; exact hload) (by rw [hout]; exact hver)
  rw [hout] at hlink
  generalize link (loadEnd (outOfTraining s n) n) n = x at hview hfw hlink
  have hstate : x.state = .hem := by
    rw [hlink, state_hemmed]
    dsimp only
    cases heldNoStart s n <;> rfl
  simp only [sentView, Prod.mk.injEq] at hview
  obtain ⟨vstate, vstep, vmissed, vlost, vdone, vsticky⟩ := hview
  have hsame : link (trainDone s n) n = l' := hend.resolve_right fun h => by
    rw [h.1, hstate] at vstate
    cases vstate
  have hdone : x.fwDone = true := by rw [hlink, hemmed_fwDone]
  rw [hsame]
  refine ⟨vstep.trans ?_, vstate.trans hstate, (hfw hdone).trans ?_, vdone.trans hdone, vlost.trans ?_, ?_⟩
  · rw [hlink, hemmed_step]; rfl
  · rw [hlink, hemmed_fwLoad]
  · rw [hlink, hemmed_lost]
  · rw [vsticky, hlink, hemmed_sticky]
    exact (hasBit_setBit_other _ (by decide)).trans (hasBit_setBit _ (by decide))

end Done

end Frames

section Training
variable {s : State} {n : PortId} {f : UpFrame} (hexec : exec (.uplinkFrame n f) s
  = .next (trainFrame (setLink s n (gotFrame s.wheel.round f (link s n))) n f))
include hexec

/-- A frame of training that writes the port's link alone. -/
theorem training_link {y : Link} (h : trainFrame (setLink s n (gotFrame s.wheel.round f (link s n))) n f
    = setLink (setLink s n (gotFrame s.wheel.round f (link s n))) n y) :
    ∃ t, exec (.uplinkFrame n f) s = .next t ∧ OnlyLink s t n ∧ link t n = y := by
  refine ⟨_, hexec, ?_⟩
  rw [h]
  exact ⟨onlyLink_trans (onlyLink_setLink s n _) (onlyLink_setLink _ n y), link_setLink _ _ _⟩

theorem listen_spec (hstate : (link s n).state = .training) (hstep : (link s n).step = 1) : ∃ t,
    exec (.uplinkFrame n f) s = .next t ∧ OnlyLink s t n
    ∧ ((link t n).taken = true ∧ (link t n).frameOk = true ∧ (link t n).missed = 0 ∧ (link t n).framesOk = (link s n).framesOk + 1)
    ∧ (link t n).step = 2 ∧ (link t n).state = .training := by
  obtain ⟨t, ht, honly, hlink⟩ := training_link hexec (trainFrame_listen (by rw [link_setLink]; exact hstep))
  rw [link_setLink] at hlink
  refine ⟨t, ht, honly, ?_⟩
  rw [hlink]
  exact ⟨⟨rfl, rfl, rfl, rfl⟩, rfl, hstate⟩

theorem ident_spec (hstate : (link s n).state = .training) (hstep : (link s n).step = 2) : ∃ t,
    exec (.uplinkFrame n f) s = .next t ∧ OnlyLink s t n
    ∧ ((link t n).taken = true ∧ (link t n).frameOk = true ∧ (link t n).missed = 0 ∧ (link t n).framesOk = (link s n).framesOk + 1)
    ∧ (link t n).state = .training
    ∧ let run := if sliceB f.rt 0 20 = (link s n).identity then (link s n).stepRun + 1 else 1
      (run < 4 → (link t n).step = 2 ∧ (link t n).stepRun = run ∧ (link t n).identity = sliceB f.rt 0 20
        ∧ (link t n).delaySum = (link s n).delaySum + f.delayNs ∧ (link t n).delayCount = (link s n).delayCount + 1)
      ∧ (4 ≤ run → (link t n).step = 3 ∧ (link t n).uid = BitVec.ofNat 64 (leAt (sliceB f.rt 0 20) 0 8)
        ∧ (link t n).cls = ((sliceB f.rt 0 20)[8]?).getD 0 ∧ (link t n).fwVersion = BitVec.ofNat 32 (leAt (sliceB f.rt 0 20) 0x0C 4)
        ∧ (link t n).coastSent = pcfg s n 0x21
        ∧ (link t n).tickAdvance = Nat.min ((((((link s n).delaySum + f.delayNs : Nat) : Rat)
            / (((link s n).delayCount + 1 : Nat) : Rat) - 116) / 2 + 1 / 2).floor.toNat) 20) := by
  obtain ⟨t, ht, honly, hlink⟩ := training_link hexec (trainFrame_ident (by rw [link_setLink]; exact hstep))
  rw [link_setLink] at hlink
  refine ⟨t, ht, honly, ?_⟩
  by_cases hlt : (identLink f (gotFrame s.wheel.round f (link s n))).stepRun < 4
  · rw [if_pos hlt] at hlink
    rw [hlink]
    exact ⟨⟨rfl, rfl, rfl, rfl⟩, hstate, fun _ => ⟨hstep, rfl, rfl, rfl, rfl⟩, fun hge => absurd hlt (Nat.not_lt.2 hge)⟩
  · rw [if_neg hlt] at hlink
    rw [hlink]
    exact ⟨⟨rfl, rfl, rfl, rfl⟩, hstate, fun h => absurd h hlt, fun _ => ⟨rfl, rfl, rfl, rfl, rfl, rfl⟩⟩

theorem adjust_spec (hstate : (link s n).state = .training) (hstep : (link s n).step = 3) : ∃ t,
    exec (.uplinkFrame n f) s = .next t ∧ OnlyLink s t n
    ∧ ((link t n).taken = true ∧ (link t n).frameOk = true ∧ (link t n).missed = 0 ∧ (link t n).framesOk = (link s n).framesOk + 1)
    ∧ (link t n).state = .training
    ∧ let ok := leAt f.rt 0x14 1 = n.val ∧ leAt f.rt 0x16 2 = (link s n).tickAdvance ∧ leAt f.rt 0x18 2 = (link s n).coastSent
      (ok → (link s n).stepRun = 3 → (link t n).step = 4)
      ∧ (ok → (link s n).stepRun < 3 → (link t n).step = 3 ∧ (link t n).stepRun = (link s n).stepRun + 1)
      ∧ (¬ok → (link t n).step = 3 ∧ (link t n).stepRun = 0) := by
  have hstep' : (link (setLink s n (gotFrame s.wheel.round f (link s n))) n).step = 3 := by rw [link_setLink]; exact hstep
  by_cases hok : adjusted n f (link s n)
  · obtain ⟨t, ht, honly, hlink⟩ := training_link hexec (trainFrame_adjust hstep' (by rw [link_setLink]; exact hok))
    rw [link_setLink] at hlink
    refine ⟨t, ht, honly, ?_⟩
    by_cases hlt : (gotFrame s.wheel.round f (link s n)).stepRun + 1 < 4
    · have hlt' : (link s n).stepRun + 1 < 4 := hlt
      rw [if_pos hlt] at hlink
      rw [hlink]
      exact ⟨⟨rfl, rfl, rfl, rfl⟩, hstate, fun _ h => by omega, fun _ _ => ⟨hstep, rfl⟩, fun hno => absurd hok hno⟩
    · have hge : ¬(link s n).stepRun + 1 < 4 := hlt
      rw [if_neg hlt] at hlink
      rw [hlink]
      exact ⟨⟨rfl, rfl, rfl, rfl⟩, hstate, fun _ _ => rfl, fun _ h => by omega, fun hno => absurd hok hno⟩
  · obtain ⟨t, ht, honly, hlink⟩ := training_link hexec (trainFrame_adjust_not hstep' (by rw [link_setLink]; exact hok))
    rw [link_setLink] at hlink
    refine ⟨t, ht, honly, ?_⟩
    rw [hlink]
    exact ⟨⟨rfl, rfl, rfl, rfl⟩, hstate, fun h => absurd h hok, fun h => absurd h hok, fun _ => ⟨hstep, rfl⟩⟩

theorem check_spec (hstep : (link s n).step = 4) (hbit : hasBit f.header 21 = true) (hrun : 31 ≤ (link s n).stepRun) :
    (((link s n).fwLoad = 2 → (link s n).fwVersion = (link s n).fwImage) → ∃ t, exec (.uplinkFrame n f) s = .next t
      ∧ (link t n).step = 0 ∧ (link t n).missed = 0 ∧ (link t n).lost = false ∧ PortsStand s t [n.val]
      ∧ (heldNoStart s n = true → (link t n).state = .hem)
      ∧ (heldNoStart s n = false → (link t n).state = .discovered ∨ (link t n).state = .ready)
      ∧ ((link s n).fwLoad = 2 → (link t n).fwLoad = 0 ∧ (link t n).fwDone = true))
    ∧ ((link s n).fwLoad = 2 → (link s n).fwVersion ≠ (link s n).fwImage → ∃ t, exec (.uplinkFrame n f) s = .next t
      ∧ (link t n).step = 0 ∧ (link t n).state = .hem ∧ (link t n).fwLoad = 0 ∧ (link t n).fwDone = true
      ∧ (link t n).lost = true ∧ hasBit (link t n).sticky 9 = true ∧ PortsStand s t [n.val]) := by
  generalize hx : gotFrame s.wheel.round f (link s n) = x at hexec
  have hlink := link_setLink s n x
  have hheld : heldNoStart (setLink s n x) n = heldNoStart s n := by
    unfold heldNoStart
    rw [hlink, ← hx, show hasBit (gotFrame s.wheel.round f (link s n)).sticky 0 = hasBit (link s n).sticky 0 from
      hasBit_setBitIf_other _ _ (by decide)]
    rfl
  have hdone : trainFrame (setLink s n x) n f = trainDone (setLink s n x) n :=
    trainFrame_check (by rw [hlink, ← hx]; exact hstep) hbit (by rw [hlink, ← hx]; exact hrun)
  have hstand : PortsStand s (trainDone (setLink s n x) n) [n.val] :=
    (moves_trans (moves_setLink s n x) (moves_trainDone _ n)).stand
  rw [hdone] at hexec
  refine ⟨fun hload => ?_, fun h2 hver => ?_⟩
  · have hkept := trainDone_kept (s := setLink s n x) (n := n) (by rw [hlink, ← hx]; exact hload)
    rw [hheld, hlink, ← hx] at hkept
    obtain ⟨hs, hm, hl, hhem, hfree, hfw⟩ := hkept
    rw [hx] at hs hm hl hhem hfree hfw
    exact ⟨_, hexec, hs, hm, hl, hstand, hhem, hfree, fun h => hfw (by rw [← hx]; exact h)⟩
  · obtain ⟨hs, hst, hl, hd, hlost, hsticky⟩ := trainDone_failed (s := setLink s n x) (n := n) (by rw [hlink, ← hx]; exact h2)
      (by rw [hlink, ← hx]; exact hver)
    exact ⟨_, hexec, hs, hst, hl, hd, hlost, hsticky, hstand⟩

end Training

/-- Settles O32: the loss of a link, the start of training in waves and alone, what times out, and the frames of training by
their step. -/
theorem portsAreTrainedAndLostLinksHeld : Obligations.PortsAreTrainedAndLostLinksHeld := by
  refine ⟨fun s n hcount hlost => linkLost_spec hcount hlost, ⟨fun s => trainingWave_spec, fun s n => retrainStart_spec,
    fun s n => trainingTimeout_spec, fun s n => fwRetrainTimeout_spec, fun s n g rest => mailboxResend_spec⟩, ?_⟩
  intro s n f htakes hlo hhi hgood hstate l ident obeyed
  have hexec := exec_uplink_training htakes hlo hhi hgood hstate
  exact ⟨listen_spec hexec hstate, ident_spec hexec hstate, adjust_spec hexec hstate, check_spec hexec, noFrame_training htakes hstate⟩

end Sys2Proof.Machine
end

section
/-! PROOFS. What a downlink frame does at a far end (R154, R160 to R166, R169, R173). -/
namespace Sys2Proof.Machine

/-! ### The mailbox of the answer -/

theorem inbox_cutSeg (pay q : Nat) (m : MboxSide) : (cutSeg pay q m).1.inbox = m.inbox := by
  unfold cutSeg
  (repeat' split) <;> rfl

theorem inbox_beginMsg (q : Nat) (m : MboxSide) : (beginMsg q m).inbox = m.inbox := by
  unfold beginMsg
  (repeat' split) <;> rfl

theorem inbox_sendSeg (down : Bool) (pay : Nat) (m : MboxSide) : (sendSeg down pay m).1.inbox = m.inbox := by
  unfold sendSeg
  split
  · rfl
  split
  · rfl
  split
  · rfl
  · rw [inbox_cutSeg, inbox_beginMsg]

theorem inbox_feMail (pay : Nat) (m : MboxSide) : (feMail pay m).1.inbox = m.inbox := by
  unfold feMail
  dsimp only
  rw [inbox_sendSeg]
  unfold setHold
  dsimp only
  split <;> rfl

/-- What a far end sends changes its answer, and of its mailbox not what has arrived. -/
theorem feSend_frame (n : Nat) (f : FarEnd) (cls : Byte) (u : Bool) (d : DownFrame) : ∃ h r x m,
    feSend n f cls u d = { f with upHdr := h, upRt := r, upMbx := x, mbx := m } ∧ m.inbox = f.mbx.inbox := by
  unfold feSend
  dsimp only
  split
  · exact ⟨_, _, _, _, rfl, rfl⟩
  split
  · exact ⟨_, _, _, _, rfl, rfl⟩
  split
  · exact ⟨_, _, _, _, rfl, inbox_feMail _ _⟩
  split
  · exact ⟨_, _, _, _, rfl, rfl⟩
  · exact ⟨_, _, _, _, rfl, rfl⟩

/-! ### What a far end notes of every valid frame -/

/-- A far end that has noted a valid frame on a link. -/
def heard (f : FarEnd) (u : Bool) (d : DownFrame) : FarEnd := feMark (feSeq f u d) u d.auth

theorem heard_frame (f : FarEnd) (u : Bool) (d : DownFrame) : ∃ v w, heard f u d = { f with
    seq := if feTimes f u then d.seq else f.seq, dlOk := feTimes f u || f.dlOk, valid0 := v, valid1 := w
    auth0 := f.auth0 || (!u && d.auth), auth1 := f.auth1 || (u && d.auth) } := by
  unfold heard feSeq feMark
  cases feTimes f u <;> cases u <;> simp

section Pieces
variable (f : FarEnd) (u : Bool)

@[simp] theorem feStep_feSetTrain (step run : Nat) : feStep (feSetTrain f u step run) u = step := by cases u <;> rfl
@[simp] theorem feTrains_feSetTrain (step run : Nat) : feTrains (feSetTrain f u step run) u = run := by cases u <;> rfl
@[simp] theorem feListen_feSetTrain (step run : Nat) : feListen (feSetTrain f u step run) u = feListen f u := by cases u <;> rfl
@[simp] theorem feListen_feSetListen (b : Bool) : feListen (feSetListen f u b) u = b := by cases u <;> rfl

/-- What the place of a link in training does not touch. -/
theorem feSetTrain_frame (step run : Nat) : ∃ a b c e,
    feSetTrain f u step run = { f with step0 := a, step1 := b, trains0 := c, trains1 := e } := by
  cases u <;> exact ⟨_, _, _, _, rfl⟩

theorem feSetListen_frame (b : Bool) : ∃ v w, feSetListen f u b = { f with listen0 := v, listen1 := w } := by
  cases u <;> exact ⟨_, _, rfl⟩

theorem feBreak_frame : ∃ a b c e, feBreak f u = { f with step0 := a, step1 := b, trains0 := c, trains1 := e } := by
  unfold feBreak
  split
  · exact ⟨_, _, _, _, rfl⟩
  · exact feSetTrain_frame f u _ _

theorem feTrains_feBreak : feTrains (feBreak f u) u = if 8 ≤ feTrains f u then feTrains f u else 0 := by
  unfold feBreak
  split
  · rfl
  · exact feTrains_feSetTrain f u _ _

theorem feListen_feBreak : feListen (feBreak f u) u = feListen f u := by
  unfold feBreak
  split
  · rfl
  · exact feListen_feSetTrain f u _ _

end Pieces

/-! ### What no frame but the first RUN frame changes -/

/-- What a frame leaves of a far end beside what its case names: samples, configuration, protections, image, and what the
frame has noted. -/
def fixedView (f : FarEnd) :=
  (f.samples, f.coastRounds, f.fastLimit, f.fastMode, f.fastLatched, f.ovLatched, f.fwVersion, f.seq, f.dlOk, f.auth0, f.auth1)

/-- The training of both links and what it has brought. -/
def trainView (f : FarEnd) := (f.listen0, f.listen1, f.step0, f.step1, f.trains0, f.trains1, f.tickAdvance)

section Fixed
variable (f : FarEnd) (u : Bool) (d : DownFrame)

theorem fixedView_feBreak : fixedView (feBreak f u) = fixedView f := by
  obtain ⟨a, b, c, e, h⟩ := feBreak_frame f u
  rw [h]
  rfl

theorem fixedView_feTrain : fixedView (feTrain f u d) = fixedView f := by
  unfold feTrain
  dsimp only
  obtain ⟨v, w, hl⟩ := feSetListen_frame f u true
  rw [hl]
  obtain ⟨a, b, c, e, ht⟩ := feSetTrain_frame { f with listen0 := v, listen1 := w } u (leAt d.rt 1 1) (feTrains f u + 1)
  rw [ht]
  dsimp only
  (repeat' split) <;> rfl

theorem fixedView_feTrained : fixedView (feTrained f u) = fixedView { f with coastRounds := f.newCoast } := by
  unfold feTrained
  obtain ⟨v, w, hl⟩ := feSetListen_frame f u false
  rw [hl]
  obtain ⟨a, b, c, e, ht⟩ := feSetTrain_frame { f with listen0 := v, listen1 := w } u 0 0
  rw [ht]
  dsimp only
  split <;> rfl

/-- What an arm state changes. -/
theorem feArm_frame : ∃ st as cn cs cl, feArm f d = { f with
    staged := st, armedSeen := as, commitNext := cn, commitSeen := cs, commitLate := cl } := by
  unfold feArm
  (repeat' split) <;> exact ⟨_, _, _, _, _, rfl⟩

/-- A far end that holds the command of a frame. -/
def withCmd (f : FarEnd) (u : Bool) (d : DownFrame) : FarEnd :=
  if d.auth then (if u then { f with cmd1 := some (sliceB d.rt 0 24) } else { f with cmd0 := some (sliceB d.rt 0 24) }) else f

theorem withCmd_frame : ∃ a b, withCmd f u d = { f with cmd0 := a, cmd1 := b } := by
  unfold withCmd
  split
  · cases u <;> exact ⟨_, _, rfl⟩
  · exact ⟨_, _, rfl⟩

/-- A far end that takes the real-time part and the mailbox of its commander's frame. -/
def commanded (f : FarEnd) (d : DownFrame) (round : Word) : FarEnd :=
  let f := if d.hem then feHem f else { f with clearRun := f.clearRun + 1 }
  let f := feArm { f with fastTherm := d.fastTherm, inCoast := false, coastTicks := 0, missRun := 0 } d
  { f with mbx := recvMbox true (fun _ => false) f.mbx d.mbx round }

theorem feObeys_withCmd : feObeys (withCmd f u d) u = feObeys f u := by
  obtain ⟨a, b, h⟩ := withCmd_frame f u d
  rw [h]
  rfl

theorem feRun_eq (round : Word) : feRun f u d round = if !feObeys (withCmd f u d) u then withCmd f u d
    else if !d.auth then (if d.hem then feHem (withCmd f u d) else { withCmd f u d with clearRun := 0 })
    else commanded (withCmd f u d) d round := rfl

variable {f u d}

theorem feRun_other (round : Word) (h : feObeys f u = false) : feRun f u d round = withCmd f u d := by
  rw [feRun_eq, feObeys_withCmd, h]
  rfl

theorem feRun_unauthorised (round : Word) (h : feObeys f u = true) (hauth : d.auth = false) :
    feRun f u d round = if d.hem then feHem f else { f with clearRun := 0 } := by
  have hcmd : withCmd f u d = f := if_neg (by simp [hauth])
  rw [feRun_eq, hcmd, h, hauth]
  rfl

theorem feRun_command (round : Word) (h : feObeys f u = true) (hauth : d.auth = true) :
    feRun f u d round = commanded (withCmd f u d) d round := by
  rw [feRun_eq, feObeys_withCmd, h, hauth]
  rfl

/-- What a RUN frame leaves. -/
theorem fixedView_feRun (round : Word) : fixedView (feRun f u d round) = fixedView f
    ∧ trainView (feRun f u d round) = trainView f := by
  obtain ⟨a, b, hcmd⟩ := withCmd_frame f u d
  cases hobeys : feObeys f u with
  | false =>
    rw [feRun_other round hobeys, hcmd]
    exact ⟨rfl, rfl⟩
  | true =>
    cases hauth : d.auth with
    | false =>
      rw [feRun_unauthorised round hobeys hauth]
      cases d.hem <;> exact ⟨rfl, rfl⟩
    | true =>
      rw [feRun_command round hobeys hauth, hcmd]
      unfold commanded
      dsimp only
      cases d.hem with
      | false =>
        rw [if_neg (by decide)]
        obtain ⟨st, as, cn, cs, cl, harm⟩ := feArm_frame ({ f with
          cmd0 := a, cmd1 := b, clearRun := f.clearRun + 1, fastTherm := d.fastTherm, inCoast := false, coastTicks := 0, missRun := 0 }) d
        rw [harm]
        exact ⟨rfl, rfl⟩
      | true =>
        rw [if_pos rfl]
        obtain ⟨st, as, cn, cs, cl, harm⟩ := feArm_frame ({ feHem { f with cmd0 := a, cmd1 := b } with
          fastTherm := d.fastTherm, inCoast := false, coastTicks := 0, missRun := 0 }) d
        rw [harm]
        exact ⟨rfl, rfl⟩

end Fixed

/-! ### A valid frame by its case -/

section Valid
variable {f : FarEnd} {u : Bool} {d : DownFrame} (round : Word)

theorem feListen_heard (f : FarEnd) (u : Bool) (d : DownFrame) : feListen (heard f u d) u = feListen f u := by
  obtain ⟨v, w, h⟩ := heard_frame f u d
  rw [h]
  rfl

theorem feStep_heard (f : FarEnd) (u : Bool) (d : DownFrame) : feStep (heard f u d) u = feStep f u := by
  obtain ⟨v, w, h⟩ := heard_frame f u d
  rw [h]
  rfl

theorem feValid_eq (f : FarEnd) (u : Bool) (d : DownFrame) : feValid f u d round = if d.train then feTrain (heard f u d) u d
    else if !feListen (heard f u d) u then feRun (heard f u d) u d round
    else if feStep (heard f u d) u == 4 then feRun (feTrained (heard f u d) u) u d round
    else feBreak (heard f u d) u := rfl

theorem feValid_train (htrain : d.train = true) : feValid f u d round = feTrain (heard f u d) u d := if_pos htrain

theorem feValid_run (htrain : d.train = false) (hlisten : feListen f u = false) :
    feValid f u d round = feRun (heard f u d) u d round := by
  rw [feValid_eq, feListen_heard, htrain, hlisten]
  rfl

theorem feValid_first (htrain : d.train = false) (hlisten : feListen f u = true) (hstep : feStep f u = 4) :
    feValid f u d round = feRun (feTrained (heard f u d) u) u d round := by
  rw [feValid_eq, feListen_heard, feStep_heard, htrain, hlisten, hstep]
  rfl

theorem feValid_unready (htrain : d.train = false) (hlisten : feListen f u = true) (hstep : feStep f u ≠ 4) :
    feValid f u d round = feBreak (heard f u d) u := by
  have hstep' : (feStep f u == 4) = false := by simpa using hstep
  rw [feValid_eq, feListen_heard, feStep_heard, htrain, hlisten, hstep']
  rfl

/-- What every valid frame leaves, and what it notes (R160, R166). -/
theorem fixedView_feValid (f : FarEnd) (u : Bool) (d : DownFrame) : fixedView (feValid f u d round) = fixedView { heard f u d with
    coastRounds := if !d.train && feListen f u && feStep f u == 4 then f.newCoast else f.coastRounds } := by
  obtain ⟨v, w, hheard⟩ := heard_frame f u d
  by_cases htrain : d.train = true
  · rw [feValid_train round htrain, fixedView_feTrain, htrain, hheard]
    rfl
  rw [Bool.not_eq_true] at htrain
  by_cases hlisten : feListen f u = true
  · by_cases hstep : feStep f u = 4
    · rw [feValid_first round htrain hlisten hstep, (fixedView_feRun round).1, fixedView_feTrained, htrain, hlisten, hstep, hheard]
      rfl
    · have hstep' : (feStep f u == 4) = false := by simpa using hstep
      rw [feValid_unready round htrain hlisten hstep, fixedView_feBreak, htrain, hlisten, hstep', hheard]
      rfl
  · rw [Bool.not_eq_true] at hlisten
    rw [feValid_run round htrain hlisten, (fixedView_feRun round).1, htrain, hlisten, hheard]
    rfl

/-- What a TRAIN frame tells (R169). -/
def told (f : FarEnd) (u : Bool) (d : DownFrame) : FarEnd :=
  let f := feSetTrain (feSetListen f u true) u (leAt d.rt 1 1) (feTrains f u + 1)
  let f := if 3 ≤ leAt d.rt 1 1 then { f with newAdvance := leAt d.rt 2 2, newCoast := leAt d.rt 4 2 } else f
  { f with echo := sliceB d.rt 0 6 }

theorem told_spec (f : FarEnd) (u : Bool) (d : DownFrame) : feListen (told f u d) u = true ∧ feStep (told f u d) u = leAt d.rt 1 1
    ∧ feTrains (told f u d) u = feTrains f u + 1
    ∧ (3 ≤ leAt d.rt 1 1 → (told f u d).newAdvance = leAt d.rt 2 2 ∧ (told f u d).newCoast = leAt d.rt 4 2)
    ∧ ((told f u d).obeys, (told f u d).inHem, (told f u d).throttle, (told f u d).pfw) = (f.obeys, f.inHem, f.throttle, f.pfw) := by
  unfold told
  dsimp only
  split
  · cases u <;> exact ⟨rfl, rfl, rfl, fun _ => ⟨rfl, rfl⟩, rfl⟩
  · rename_i h
    cases u <;> exact ⟨rfl, rfl, rfl, fun h' => absurd h' h, rfl⟩

theorem feTrain_eq (f : FarEnd) (u : Bool) (d : DownFrame) : feTrain f u d = if !feObeys (told f u d) u then told f u d
    else if d.auth then feHem { told f u d with inCoast := false, coastTicks := 0, missRun := 0 } else feHem (told f u d) := rfl

/-- A TRAIN frame (R169). -/
theorem feTrain_spec (f : FarEnd) (u : Bool) (d : DownFrame) : feListen (feTrain f u d) u = true ∧ feStep (feTrain f u d) u = leAt d.rt 1 1
    ∧ feTrains (feTrain f u d) u = feTrains f u + 1
    ∧ (3 ≤ leAt d.rt 1 1 → (feTrain f u d).newAdvance = leAt d.rt 2 2 ∧ (feTrain f u d).newCoast = leAt d.rt 4 2)
    ∧ (feObeys f u = true → (feTrain f u d).inHem = true ∧ (feTrain f u d).throttle = true ∧ (feTrain f u d).pfw = true
        ∧ (d.auth = true → (feTrain f u d).inCoast = false ∧ (feTrain f u d).missRun = 0))
    ∧ (feObeys f u = false → (feTrain f u d).inHem = f.inHem ∧ (feTrain f u d).throttle = f.throttle ∧ (feTrain f u d).pfw = f.pfw) := by
  obtain ⟨hlisten, hstep, htrains, hparams, hview⟩ := told_spec f u d
  simp only [Prod.mk.injEq] at hview
  obtain ⟨hobeys, hhem, hthrottle, hpfw⟩ := hview
  have hobeys' : feObeys (told f u d) u = feObeys f u := congrArg (· == (if u then 2 else 1)) hobeys
  rw [feTrain_eq, hobeys']
  cases feObeys f u with
  | false => exact ⟨hlisten, hstep, htrains, hparams, fun h => (Bool.false_ne_true h).elim, fun _ => ⟨hhem, hthrottle, hpfw⟩⟩
  | true =>
    cases d.auth with
    | false => exact ⟨hlisten, hstep, htrains, hparams, fun _ => ⟨rfl, rfl, rfl, fun h => (Bool.false_ne_true h).elim⟩, fun h => by cases h⟩
    | true => exact ⟨hlisten, hstep, htrains, hparams, fun _ => ⟨rfl, rfl, rfl, fun _ => ⟨rfl, rfl⟩⟩, fun h => by cases h⟩

/-- The first RUN frame after CHECK (R169). -/
theorem feTrained_spec (f : FarEnd) (u : Bool) : feListen (feTrained f u) u = false ∧ (feTrained f u).tickAdvance = f.newAdvance
    ∧ feTrains (feTrained f u) u = 0 := by
  unfold feTrained
  dsimp only
  split <;> cases u <;> exact ⟨rfl, rfl, rfl⟩

/-- The arm state of a commanding frame (R137, R194). -/
theorem feArm_staged (f : FarEnd) (d : DownFrame) : (d.armState = 3 → (feArm f d).staged = none)
    ∧ ∀ x, f.staged = some x → (d.armState = 1 → (feArm f d).staged = (if d.armId = x.1 then some x else none))
      ∧ (d.armState = 2 → d.armId = x.1 → f.commitSeen = false →
          (feArm f d).staged = some x ∧ (feArm f d).commitNext = true ∧ (feArm f d).commitLate = decide (d.seq ≠ 63)) := by
  refine ⟨fun h3 => ?_, fun x hx => ⟨fun h1 => ?_, fun h2 hid hseen => ?_⟩⟩
  · unfold feArm
    rw [h3]
    split
    · assumption
    · rfl
  · unfold feArm
    rw [hx, h1]
    dsimp only
    rw [if_neg (by decide), if_pos (by decide)]
    split <;> rfl
  · have hlate : decide (d.seq.toNat ≠ 63) = decide (d.seq ≠ 63) := decide_eq_decide.2 (by simp [← BitVec.toNat_inj])
    unfold feArm
    rw [hx, h2]
    dsimp only
    rw [if_neg (by decide), if_neg (by decide), if_pos (by decide), if_pos (by simp [hid, hseen])]
    exact ⟨rfl, rfl, hlate⟩

/-- A frame of the commander (R154, R162 to R166). -/
theorem commanded_spec (f : FarEnd) (d : DownFrame) (round : Word) : ∃ h, h.staged = f.staged ∧ h.commitSeen = f.commitSeen
    ∧ (commanded f d round).staged = (feArm h d).staged ∧ (commanded f d round).commitNext = (feArm h d).commitNext
    ∧ (commanded f d round).commitLate = (feArm h d).commitLate
    ∧ ((commanded f d round).cmd0, (commanded f d round).cmd1, (commanded f d round).inCoast, (commanded f d round).missRun)
      = (f.cmd0, f.cmd1, false, 0)
    ∧ (d.hem = true → (commanded f d round).inHem = true ∧ (commanded f d round).clearRun = 0 ∧ (commanded f d round).throttle = true
        ∧ (commanded f d round).pfw = true)
    ∧ (d.hem = false → (commanded f d round).inHem = f.inHem ∧ (commanded f d round).clearRun = f.clearRun + 1)
    ∧ (commanded f d round).mbx = recvMbox true (fun _ => false) f.mbx d.mbx round := by
  generalize hh : ({ (if d.hem then feHem f else { f with clearRun := f.clearRun + 1 }) with
    fastTherm := d.fastTherm, inCoast := false, coastTicks := 0, missRun := 0 } : FarEnd) = h
  have hcmd : commanded f d round = { feArm h d with mbx := recvMbox true (fun _ => false) (feArm h d).mbx d.mbx round } := by
    rw [← hh]
    rfl
  obtain ⟨st, as, cn, cs, cl, harm⟩ := feArm_frame h d
  refine ⟨h, ?_, ?_, by rw [hcmd], by rw [hcmd], by rw [hcmd], ?_⟩
  · rw [← hh]; split <;> rfl
  · rw [← hh]; split <;> rfl
  rw [hcmd, harm, ← hh]
  by_cases hd : d.hem = true
  · rw [if_pos hd]
    exact ⟨rfl, fun _ => ⟨rfl, rfl, rfl, rfl⟩, fun hf => Bool.noConfusion (hd.symm.trans hf), rfl⟩
  · rw [if_neg hd]
    exact ⟨rfl, fun ht => absurd ht hd, fun _ => ⟨rfl, rfl⟩, rfl⟩

/-- The command of the frame, where it carries authority. -/
theorem withCmd_auth (f : FarEnd) (u : Bool) {d : DownFrame} (h : d.auth = true) :
    (if u then (withCmd f u d).cmd1 else (withCmd f u d).cmd0) = some (sliceB d.rt 0 24) := by
  unfold withCmd
  rw [if_pos h]
  cases u <;> rfl

/-- A RUN frame of the other unit, or of either while none is obeyed (R160). -/
theorem feValid_other (htrain : d.train = false) (hlisten : feListen f u = false) (hobeys : feObeys f u = false) :
    ((feValid f u d round).inHem, (feValid f u d round).staged, (feValid f u d round).clearRun) = (f.inHem, f.staged, f.clearRun)
    ∧ (d.auth = true → (if u then (feValid f u d round).cmd1 else (feValid f u d round).cmd0) = some (sliceB d.rt 0 24)) := by
  obtain ⟨v, w, hheard⟩ := heard_frame f u d
  have hobeys' : feObeys (heard f u d) u = false := by rw [hheard]; exact hobeys
  obtain ⟨a, b, hcmd⟩ := withCmd_frame (heard f u d) u d
  rw [feValid_run round htrain hlisten, feRun_other round hobeys']
  refine ⟨?_, withCmd_auth _ u⟩
  rw [hcmd, hheard]

/-- A RUN frame of the obeyed link without authority (R163). -/
theorem feValid_unauthorised (htrain : d.train = false) (hlisten : feListen f u = false) (hobeys : feObeys f u = true)
    (hauth : d.auth = false) :
    ((feValid f u d round).cmd0, (feValid f u d round).cmd1, (feValid f u d round).staged) = (f.cmd0, f.cmd1, f.staged)
    ∧ (feValid f u d round).clearRun = 0 ∧ (feValid f u d round).inHem = (f.inHem || d.hem) := by
  obtain ⟨v, w, hheard⟩ := heard_frame f u d
  have hobeys' : feObeys (heard f u d) u = true := by rw [hheard]; exact hobeys
  rw [feValid_run round htrain hlisten, feRun_unauthorised round hobeys' hauth, hheard]
  cases d.hem
  · exact ⟨rfl, rfl, (Bool.or_false _).symm⟩
  · exact ⟨rfl, rfl, (Bool.or_true _).symm⟩

/-- A RUN frame of the obeyed link with authority (R154, R162 to R166). -/
theorem feValid_command (htrain : d.train = false) (hlisten : feListen f u = false) (hobeys : feObeys f u = true)
    (hauth : d.auth = true) :
    (if u then (feValid f u d round).cmd1 else (feValid f u d round).cmd0) = some (sliceB d.rt 0 24)
    ∧ (feValid f u d round).inCoast = false ∧ (feValid f u d round).missRun = 0
    ∧ (d.hem = true → (feValid f u d round).inHem = true ∧ (feValid f u d round).clearRun = 0 ∧ (feValid f u d round).throttle = true
        ∧ (feValid f u d round).pfw = true)
    ∧ (d.hem = false → (feValid f u d round).inHem = f.inHem ∧ (feValid f u d round).clearRun = f.clearRun + 1)
    ∧ (feValid f u d round).mbx = recvMbox true (fun _ => false) f.mbx d.mbx round
    ∧ (d.armState = 3 → (feValid f u d round).staged = none)
    ∧ ∀ x, f.staged = some x →
      (d.armState = 1 → (feValid f u d round).staged = (if d.armId = x.1 then some x else none))
      ∧ (d.armState = 2 → d.armId = x.1 → f.commitSeen = false →
          (feValid f u d round).staged = some x ∧ (feValid f u d round).commitNext = true
          ∧ (feValid f u d round).commitLate = decide (d.seq ≠ 63)) := by
  obtain ⟨v, w, hheard⟩ := heard_frame f u d
  have hobeys' : feObeys (heard f u d) u = true := by rw [hheard]; exact hobeys
  obtain ⟨a, b, hcmd⟩ := withCmd_frame (heard f u d) u d
  have hword := withCmd_auth (heard f u d) u hauth
  obtain ⟨h, hstaged, hseen, estaged, enext, elate, eview, ehem, erun, embx⟩ := commanded_spec (withCmd (heard f u d) u d) d round
  rw [feValid_run round htrain hlisten, feRun_command round hobeys' hauth]
  generalize commanded (withCmd (heard f u d) u d) d round = g at *
  generalize withCmd (heard f u d) u d = c at *
  rw [hheard] at hcmd
  simp only [Prod.mk.injEq] at eview
  obtain ⟨e0, e1, ecoast, emiss⟩ := eview
  have hst : h.staged = f.staged := by rw [hstaged, hcmd]
  have hsn : h.commitSeen = f.commitSeen := by rw [hseen, hcmd]
  obtain ⟨harm3, harm⟩ := feArm_staged h d
  refine ⟨by rw [e0, e1]; exact hword, ecoast, emiss, ehem, fun hd => ?_, by rw [embx, hcmd], fun h3 => by rw [estaged]; exact harm3 h3, ?_⟩
  · obtain ⟨hin, hrun⟩ := erun hd
    exact ⟨by rw [hin, hcmd], by rw [hrun, hcmd]⟩
  · intro x hx
    obtain ⟨harm1, harm2⟩ := harm x (hst.trans hx)
    rw [estaged, enext, elate]
    exact ⟨harm1, fun h2 hid hs => harm2 h2 hid (hsn.trans hs)⟩

end Valid

/-- Settles O33: a bad frame, then a valid one by its case: TRAIN, unready, first RUN, of the other unit, without and with
authority. -/
theorem farEndsFollowTheFramesTheyObey : Obligations.FarEndsFollowTheFramesTheyObey := by
  intro s n u d f good
  generalize hv : (if downGood u d then feValid f u d s.wheel.round else feBreak f u) = v
  obtain ⟨h, r, x, m, hsend, hinbox⟩ := feSend_frame n v (link s n).cls u d
  refine ⟨setFarEnd s n (feSend n v (link s n).cls u d), by rw [← hv]; rfl, ⟨rfl, fun k hk => farEnd_setFarEnd_other _ _ _ _ hk⟩, ?_⟩
  rw [farEnd_setFarEnd, hsend]
  intro g
  obtain ⟨va, vb, hheard⟩ := heard_frame f u d
  by_cases hgood : good = true
  · have hv' : v = feValid f u d s.wheel.round := hv.symm.trans (if_pos hgood)
    have hfixed := fixedView_feValid s.wheel.round f u d
    rw [← hv', hheard] at hfixed
    simp only [fixedView, Prod.mk.injEq] at hfixed
    obtain ⟨hsamples, hcoast, hlimit, hmode, hfast, hov, hver, hseq, hdl, h0, h1⟩ := hfixed
    have htimes (ht : feTimes f u = true) : g.seq = d.seq ∧ g.dlOk = true :=
      ⟨hseq.trans (if_pos ht), hdl.trans (by rw [ht, Bool.true_or])⟩
    refine ⟨?_, fun hbad => Bool.noConfusion (hgood.symm.trans hbad), fun _ hauth => ?_, fun _ => htimes, fun _ ht => ?_, fun _ htrain => ?_,
      fun _ htrain hlisten hstep => ?_, fun _ htrain hlisten hstep => ?_, fun _ htrain hlisten hobeys => ?_,
      fun _ htrain hlisten hobeys hauth => ?_, fun _ htrain hlisten hobeys hauth => ?_⟩
    · rw [hgood, Bool.true_and]
      exact Prod.ext hsamples (Prod.ext hcoast (Prod.ext hlimit (Prod.ext hmode (Prod.ext hfast (Prod.ext hov hver)))))
    · cases u
      · exact h0.trans (by rw [hauth]; exact Bool.or_true _)
      · exact h1.trans (by rw [hauth]; exact Bool.or_true _)
    · exact ⟨hseq.trans (if_neg (by simp [ht])), hdl.trans (by rw [ht, Bool.false_or])⟩
    · have htold := feTrain_spec (heard f u d) u d
      rw [← feValid_train s.wheel.round htrain, ← hv', hheard] at htold
      exact htold
    · have hbreak := feValid_unready s.wheel.round htrain hlisten hstep
      obtain ⟨e0, e1, e2, e3, hframe⟩ := feBreak_frame (heard f u d) u
      rw [← hv'] at hbreak
      refine ⟨Prod.ext ?_ (Prod.ext ?_ (Prod.ext ?_ (Prod.ext ?_ (hinbox.trans ?_)))), ?_⟩
      · exact (congrArg FarEnd.inHem (hbreak.trans hframe)).trans (by rw [hheard])
      · exact (congrArg FarEnd.cmd0 (hbreak.trans hframe)).trans (by rw [hheard])
      · exact (congrArg FarEnd.cmd1 (hbreak.trans hframe)).trans (by rw [hheard])
      · exact (congrArg FarEnd.staged (hbreak.trans hframe)).trans (by rw [hheard])
      · exact (congrArg (fun g => g.mbx.inbox) (hbreak.trans hframe)).trans (by rw [hheard])
      · exact (congrArg (feListen · u) hbreak).trans ((feListen_feBreak _ u).trans ((feListen_heard f u d).trans hlisten))
    · obtain ⟨tlisten, tadvance, ttrains⟩ := feTrained_spec (heard f u d) u
      have hview := (fixedView_feRun (f := feTrained (heard f u d) u) (u := u) (d := d) s.wheel.round).2
      rw [← feValid_first s.wheel.round htrain hlisten hstep, ← hv'] at hview
      simp only [trainView, Prod.mk.injEq] at hview
      obtain ⟨hl0, hl1, -, -, ht0, ht1, hadv⟩ := hview
      refine ⟨?_, hadv.trans (tadvance.trans (by rw [hheard])), ?_⟩
      · cases u
        · exact hl0.trans tlisten
        · exact hl1.trans tlisten
      · cases u
        · exact ht0.trans ttrains
        · exact ht1.trans ttrains
    · have hother := feValid_other s.wheel.round htrain hlisten hobeys
      rw [← hv'] at hother
      exact hother
    · have hunauth := feValid_unauthorised s.wheel.round htrain hlisten hobeys hauth
      rw [← hv'] at hunauth
      exact hunauth
    · obtain ⟨kcmd, kcoast, kmiss, khem, krun, kmbx, karm⟩ := feValid_command s.wheel.round htrain hlisten hobeys hauth
      rw [← hv'] at kcmd kcoast kmiss khem krun kmbx karm
      obtain ⟨kseq, kdl⟩ := htimes (by rw [feTimes, hobeys, Bool.true_or])
      exact ⟨kcmd, kseq, kdl, kcoast, kmiss, khem, krun, hinbox.trans (by rw [kmbx]), karm⟩
  · rw [Bool.not_eq_true] at hgood
    have hv' : v = feBreak f u := hv.symm.trans (if_neg (by simpa using hgood))
    obtain ⟨a, b, c, e, hframe⟩ := feBreak_frame f u
    have htrains : feTrains g u = if 8 ≤ feTrains f u then feTrains f u else 0 := (congrArg (feTrains · u) hv').trans (feTrains_feBreak f u)
    have hno {P : Prop} (h : good = true) : P := Bool.noConfusion (hgood.symm.trans h)
    refine ⟨?_, fun _ => ⟨htrains, ?_⟩, hno, hno, hno, hno, hno, hno, hno, hno, hno⟩
    · rw [hgood]
      exact (congrArg (fun g => (g.samples, g.coastRounds, g.fastLimit, g.fastMode, g.fastLatched, g.ovLatched, g.fwVersion)) (hv'.trans hframe))
    · exact (congrArg (fun g => (g.obeys, g.inHem, g.cmd0, g.cmd1, g.staged, g.clearRun, g.auth0, g.auth1, g.seq, g.dlOk)) (hv'.trans hframe))

end Sys2Proof.Machine
end

section
/-! PROOFS. The local tick of a far end, its protections and its restart (R12, R157, R158, R161 to R165, R173, R191, R193, R202,
R209, R211, R451). -/
namespace Sys2Proof.Machine

/-! ### What the end of a tick leaves -/

theorem feTelem_frame (n draw q : Nat) (x : Stream) (f : FarEnd) : ∃ a b, feTelem n draw q x f = { f with streams := a, mbx := b } :=
  ⟨_, _, rfl⟩

theorem feStreams_frame (n draw : Nat) (f : FarEnd) : ∃ a b, feStreams n draw f = { f with streams := a, mbx := b } := by
  refine List.foldlRecOn (motive := fun g : FarEnd => ∃ a b, g = { f with streams := a, mbx := b }) _ _ ⟨_, _, rfl⟩ ?_
  rintro _ ⟨a, b, rfl⟩ q -
  unfold feStream
  split
  · exact ⟨_, _, rfl⟩
  split
  · exact ⟨_, _, rfl⟩
  split
  · obtain ⟨a', b', h⟩ := feTelem_frame n draw q _ { f with streams := a, mbx := b }
    exact ⟨a', b', h⟩
  · exact ⟨_, _, rfl⟩

theorem feTemps_frame (f : FarEnd) (groups : Nat) (m : FeMeas) : ∃ g t fr ne ag,
    feTemps f groups m = { f with group := g, temps := t, fresh := fr, near := ne, groupAge := ag } := by
  unfold feTemps
  dsimp only
  split <;> exact ⟨_, _, _, _, _, rfl⟩

/-- The hem state ends after four frames with HEM = 0 (R162). -/
def hemReleased (f : FarEnd) : FarEnd :=
  if f.inHem && decide (4 ≤ f.clearRun) && f.obeys != 0 && !feObeyListen f then { f with inHem := false } else f

/-- A far end at its local tick, before it takes its samples. -/
def ticked (cls : Nat) (f : FarEnd) : FarEnd := feApply cls (feCommand (hemReleased (feRoundEnd f)))

/-- A local tick: what the round has brought, and the samples of the tick. -/
theorem feLocalTick_spec (s : State) (n : PortId) (m : FeMeas) : ∃ t str mbx g tm fr ne ag, exec (.feLocalTick n m) s = .next t
    ∧ OnlyFarEnd { s with draws := s.draws + 1 } t n
    ∧ farEnd t n = { ticked (link s n).cls.toNat (farEnd s n) with
        streams := str, mbx := mbx, group := g, temps := tm, fresh := fr, near := ne, groupAge := ag
        samples := feSamples (link s n).cls.toNat m.samples
        status := (ticked (link s n).cls.toNat (farEnd s n)).status ||| (m.causes &&& causeMask (link s n).cls.toNat)
        cut := false, pulseEnded := feOverCoast (farEnd s n) m.peak, period := m.interval
        auth0 := false, auth1 := false, valid0 := false, valid1 := false, cmd0 := none, cmd1 := none, dlOk := false
        seq := (ticked (link s n).cls.toNat (farEnd s n)).seq + 1 } := by
  have hframe (f : FarEnd) : ∃ str mbx g tm fr ne ag, feTemps { feStreams n s.draws f with
        samples := feSamples (link s n).cls.toNat m.samples } (link s n).groupCount m
      = { f with
          streams := str, mbx := mbx, group := g, temps := tm, fresh := fr, near := ne, groupAge := ag
          samples := feSamples (link s n).cls.toNat m.samples } := by
    obtain ⟨a, b, hstreams⟩ := feStreams_frame n s.draws f
    rw [hstreams]
    obtain ⟨g, tm, fr, ne, ag, htemps⟩ := feTemps_frame { f with streams := a, mbx := b, samples := feSamples (link s n).cls.toNat m.samples }
      (link s n).groupCount m
    exact ⟨a, b, g, tm, fr, ne, ag, htemps⟩
  obtain ⟨str, mbx, g, tm, fr, ne, ag, h⟩ := hframe (ticked (link s n).cls.toNat (farEnd s n))
  refine ⟨_, str, mbx, g, tm, fr, ne, ag, rfl, ⟨rfl, fun k hk => farEnd_setFarEnd_other _ _ _ _ hk⟩, ?_⟩
  rw [farEnd_setFarEnd]
  exact congrArg (fun f : FarEnd => { f with
    status := f.status ||| (m.causes &&& causeMask (link s n).cls.toNat)
    cut := false, pulseEnded := feOverCoast (farEnd s n) m.peak, period := m.interval
    auth0 := false, auth1 := false, valid0 := false, valid1 := false, cmd0 := none, cmd1 := none, dlOk := false
    seq := f.seq + 1 }) h

/-! ### Samples (R157, R158) -/

theorem sampleCode_value (v : Int) : sampleCode (.value v) = BitVec.ofInt 16 (max (-32767) (min 32766 v)) := by
  refine congrArg (BitVec.ofInt 16) ?_
  split
  · omega
  · split <;> omega

theorem usedSamples_lt {cls i : Nat} (h : i < usedSamples cls) : i < 12 := by
  unfold usedSamples at h
  (repeat' split at h) <;> omega

theorem feSamples_used {cls : Nat} (l : List Sample) {i : Nat} (h : i < usedSamples cls) :
    (feSamples cls l)[i]? = some ((l[i]?).elim 0 sampleCode) := by
  have hlt := usedSamples_lt h
  simp [feSamples, hlt, h]

theorem feSamples_unused {cls : Nat} (l : List Sample) {i : Nat} (hlo : 1 ≤ cls) (hhi : cls ≤ 6) (hused : usedSamples cls ≤ i)
    (hi : i < 12) : (feSamples cls l)[i]? = some 0 := by
  have hcls : ¬((cls = 0 ∨ 6 < cls) ∨ i < usedSamples cls) := by omega
  simp only [feSamples, List.getElem?_map, List.getElem?_range hi, Option.map_some, if_neg hcls]

theorem feOverCoast_iff (f : FarEnd) (peak : Rat) :
    feOverCoast f peak = true ↔ f.inCoast = true ∧ f32Val (BitVec.ofNat 32 (leAt f.cmd 0x0C 4)) < peak := by
  unfold feOverCoast feCoastLimit
  cases f.inCoast <;> simp [cmdField]

/-! ### The pieces of a tick -/

theorem feSetWord_frame (f : FarEnd) (a : Nat) (w : Word) : ∃ c t l m v r, feSetWord f a w = { f with
    coastRounds := c, tickAdvance := t, fastLimit := l, fastMode := m, ovLevel := v, ovRelease := r } := by
  unfold feSetWord
  split <;> exact ⟨_, _, _, _, _, _, rfl⟩

/-- A write of configuration changes the words of configuration, and none of them when it is refused (R136, R194). -/
theorem feWrite_frame (cls : Nat) (f : FarEnd) (a : Nat) (ws : List Word) : ∃ c t l m v r, (feWrite cls f a ws).1 = { f with
    coastRounds := c, tickAdvance := t, fastLimit := l, fastMode := m, ovLevel := v, ovRelease := r } := by
  have hwords : ∃ c t l m v r, ws.zipIdx.foldl (fun g x => feSetWord g (a + x.2) x.1) f = { f with
      coastRounds := c, tickAdvance := t, fastLimit := l, fastMode := m, ovLevel := v, ovRelease := r } := by
    refine List.foldlRecOn (motive := fun g : FarEnd => ∃ c t l m v r, g = { f with
      coastRounds := c, tickAdvance := t, fastLimit := l, fastMode := m, ovLevel := v, ovRelease := r }) _ _ ⟨_, _, _, _, _, _, rfl⟩ ?_
    rintro _ ⟨c, t, l, m, v, r, rfl⟩ x -
    obtain ⟨c', t', l', m', v', r', h⟩ := feSetWord_frame { f with
      coastRounds := c, tickAdvance := t, fastLimit := l, fastMode := m, ovLevel := v, ovRelease := r } (a + x.2) x.1
    exact ⟨c', t', l', m', v', r', h⟩
  unfold feWrite
  split
  · exact ⟨_, _, _, _, _, _, rfl⟩
  dsimp only
  split
  · exact ⟨_, _, _, _, _, _, rfl⟩
  · exact hwords

theorem feWrite_refused {cls : Nat} {f : FarEnd} {a : Nat} {ws : List Word} (h : (feWrite cls f a ws).2 ≠ 0) : (feWrite cls f a ws).1 = f := by
  unfold feWrite at h ⊢
  split
  · rfl
  dsimp only at h ⊢
  split
  · rfl
  · rename_i hfind hrel
    rw [hfind] at h
    dsimp only at h
    rw [if_neg hrel] at h
    exact absurd rfl h

/-- What a far end is told by the words of configuration alone. -/
def cfgWords (f : FarEnd) := (f.coastRounds, f.tickAdvance, f.fastLimit, f.fastMode, f.ovLevel, f.ovRelease)

/-- What a tick leaves of a far end's course once its frame is judged. -/
def tickView (f : FarEnd) := (f.obeys, f.inHem, f.inCoast, f.coastTicks, f.missRun, f.clearRun, f.status, f.seq, f.cmd, f.throttle, f.pfw)

theorem feApply_none {cls : Nat} {f : FarEnd} (h : f.staged = none) : feApply cls f = f := by
  unfold feApply
  rw [h]

theorem tickView_feApply (cls : Nat) (f : FarEnd) : tickView (feApply cls f) = tickView f := by
  unfold feApply
  split
  · rename_i ident a ws h
    split
    · obtain ⟨c, t, l, m, v, r, hw⟩ := feWrite_frame cls f a ws
      rw [show feWrite cls f a ws = ((feWrite cls f a ws).1, (feWrite cls f a ws).2) from rfl, hw]
      rfl
    · rfl
  · rfl

theorem cfgWords_feSetWord {f g : FarEnd} (h : cfgWords f = cfgWords g) (a : Nat) (w : Word) :
    cfgWords (feSetWord f a w) = cfgWords (feSetWord g a w) := by
  simp only [cfgWords, Prod.mk.injEq] at h
  obtain ⟨hc, ht, hl, hm, hv, hr⟩ := h
  unfold feSetWord
  split <;> simp only [cfgWords, hc, ht, hl, hm, hv, hr]

theorem cfgWords_feSetWords {f g : FarEnd} (h : cfgWords f = cfgWords g) (a : Nat) (l : List (Word × Nat)) :
    cfgWords (l.foldl (fun g x => feSetWord g (a + x.2) x.1) f) = cfgWords (l.foldl (fun g x => feSetWord g (a + x.2) x.1) g) := by
  induction l generalizing f g with
  | nil => exact h
  | cons x l ih => exact ih (cfgWords_feSetWord h (a + x.2) x.1)

/-- Whether a write is taken rests on the words of configuration alone. -/
theorem feWrite_code_congr {f g : FarEnd} (h : cfgWords f = cfgWords g) (cls a : Nat) (ws : List Word) :
    (feWrite cls f a ws).2 = (feWrite cls g a ws).2 := by
  have hwords := cfgWords_feSetWords h a ws.zipIdx
  unfold feWrite
  split
  · rfl
  dsimp only
  generalize ws.zipIdx.foldl (fun g x => feSetWord g (a + x.2) x.1) f = f' at hwords
  generalize ws.zipIdx.foldl (fun g x => feSetWord g (a + x.2) x.1) g = g' at hwords
  simp only [cfgWords, Prod.mk.injEq] at hwords
  obtain ⟨-, -, -, -, hv, hr⟩ := hwords
  rw [hv, hr]
  split <;> rfl

theorem feApply_commit {cls : Nat} {f : FarEnd} {ident : Byte} {a : Nat} {ws : List Word} (hstaged : f.staged = some (ident, a, ws))
    (hnext : f.commitNext = true) : feApply cls f = { (feWrite cls f a ws).1 with
      staged := none, armedSeen := false, commitNext := false, commitSeen := false, ackId := ident
      ackCode := if (feWrite cls f a ws).2 ≠ 0 then 5 else if f.commitLate then 4 else 3 } := by
  unfold feApply
  rw [hstaged]
  dsimp only
  rw [if_pos hnext]

/-- What a command gives (R161). -/
theorem feCommand_frame (f : FarEnd) : ∃ c t p sp, feCommand f = { f with cmd := c, throttle := t, pfw := p, spare := sp } := by
  unfold feCommand
  dsimp only
  generalize (if f.inHem = true then none else if f.obeys = 1 then f.cmd0 else if f.obeys = 2 then f.cmd1 else none) = c
  cases c <;> exact ⟨_, _, _, _, rfl⟩

theorem feCommand_some {f : FarEnd} {c : List Byte} (hobeys : f.obeys = 1) (hhem : f.inHem = false) (hcmd : f.cmd0 = some c) :
    (feCommand f).cmd = c ∧ (feCommand f).throttle = (leAt c 0x12 1).testBit 0 ∧ (feCommand f).pfw = (leAt c 0x12 1).testBit 1 := by
  unfold feCommand
  dsimp only
  rw [if_neg (by simp [hhem]), if_pos hobeys, hcmd]
  exact ⟨rfl, rfl, rfl⟩

theorem feCommand_none {f : FarEnd} (hobeys : f.obeys = 1) (h : f.inHem = true ∨ f.cmd0 = none) : feCommand f = f := by
  unfold feCommand
  dsimp only
  rw [if_pos hobeys]
  rcases h with h | h
  · rw [if_pos h]
  · rw [h, ite_self]

theorem hemReleased_frame (f : FarEnd) : ∃ b, hemReleased f = { f with inHem := b } := by
  unfold hemReleased
  split <;> exact ⟨_, rfl⟩

theorem hemReleased_inHem {f : FarEnd} (h : f.obeys = 1) :
    (hemReleased f).inHem = (f.inHem && !(decide (4 ≤ f.clearRun) && !f.listen0)) := by
  have hlisten : feObeyListen f = f.listen0 := by simp [feObeyListen, h]
  unfold hemReleased
  rw [hlisten, h]
  cases hhem : f.inHem <;> cases decide (4 ≤ f.clearRun) <;> cases f.listen0 <;> simp [hhem]

/-! ### The end of a far end's round (R163, R173) -/

/-- The trainings that a round without a frame breaks. -/
def brokenRuns (f : FarEnd) : FarEnd :=
  let g := if f.valid0 then f else feBreak f false
  if g.valid1 then g else feBreak g true

theorem brokenRuns_frame (f : FarEnd) : ∃ a b c e, brokenRuns f = { f with step0 := a, step1 := b, trains0 := c, trains1 := e } := by
  have hzero : ∃ a b c e, (if f.valid0 then f else feBreak f false) = { f with step0 := a, step1 := b, trains0 := c, trains1 := e } := by
    split
    · exact ⟨_, _, _, _, rfl⟩
    · exact feBreak_frame f false
  obtain ⟨a, b, c, e, h⟩ := hzero
  unfold brokenRuns
  rw [h]
  dsimp only
  split
  · exact ⟨_, _, _, _, rfl⟩
  · obtain ⟨a', b', c', e', h'⟩ := feBreak_frame { f with step0 := a, step1 := b, trains0 := c, trains1 := e } true
    exact ⟨a', b', c', e', h'⟩

/-- A far end whose round is counted. -/
def roundCounted (f : FarEnd) : FarEnd :=
  let run := if f.auth0 && f.auth1 then f.conflictRun + 1 else 0
  { brokenRuns f with
    conflictRun := run, status := setBitIf (decide (3 < run)) (brokenRuns f).status 6
    missRun := if f.obeys = 0 ∨ feAuth f = true then 0 else f.missRun + 1
    clearRun := if feAuth (brokenRuns f) then (brokenRuns f).clearRun else 0, mbx := ageSegs (brokenRuns f).mbx
    coastTicks := if (brokenRuns f).inCoast then (brokenRuns f).coastTicks + 1 else (brokenRuns f).coastTicks }

/-- COAST begins and ends (R163, R173). -/
def coastJudged (f : FarEnd) : FarEnd :=
  let f := if decide (4 ≤ f.missRun) && !f.inCoast then feCoast f 1 else f
  if f.inCoast && decide (f.coastRounds ≤ f.coastTicks) then feExpire f else f

theorem feRoundEnd_eq (f : FarEnd) : feRoundEnd f = coastJudged (if feNextObeys f = (roundCounted f).obeys then roundCounted f
    else feObey (roundCounted f) (feNextObeys f)) := rfl

theorem coastJudged_none {f : FarEnd} (hmiss : f.missRun < 4) (hcoast : f.inCoast = false) : coastJudged f = f := by
  have hbegin : (decide (4 ≤ f.missRun) && !f.inCoast) = false := by rw [decide_eq_false (Nat.not_le.2 hmiss), Bool.false_and]
  have hend : (f.inCoast && decide (f.coastRounds ≤ f.coastTicks)) = false := by rw [hcoast, Bool.false_and]
  unfold coastJudged
  dsimp only
  rw [hbegin, show (if false = true then feCoast f 1 else f) = f from rfl, hend]
  rfl

theorem coastJudged_begins {f : FarEnd} (hmiss : 4 ≤ f.missRun) (hcoast : f.inCoast = false) (hrounds : 1 < f.coastRounds) :
    coastJudged f = feCoast f 1 := by
  have hbegin : (decide (4 ≤ f.missRun) && !f.inCoast) = true := by rw [decide_eq_true hmiss, hcoast]; rfl
  have hend : ((feCoast f 1).inCoast && decide ((feCoast f 1).coastRounds ≤ (feCoast f 1).coastTicks)) = false :=
    decide_eq_false (Nat.not_le.2 hrounds)
  unfold coastJudged
  dsimp only
  rw [hbegin, if_pos rfl, hend, if_neg (by decide)]

theorem feNextObeys_same {f : FarEnd} (hobeys : f.obeys = 1) (h1 : f.auth1 = false) : feNextObeys f = 1 := by
  unfold feNextObeys
  rw [hobeys, h1, Bool.and_false]
  rfl

section RoundEnd
variable {f : FarEnd} (hobeys : f.obeys = 1) (h1 : f.auth1 = false) (hcoast : f.inCoast = false)
include hobeys h1 hcoast

theorem roundCounted_frame : ∃ a b c e m miss run, roundCounted f = { f with
    step0 := a, step1 := b, trains0 := c, trains1 := e, mbx := m, conflictRun := 0, missRun := miss, clearRun := run }
    ∧ miss = (if f.auth0 then 0 else f.missRun + 1) ∧ run = if f.auth0 then f.clearRun else 0 := by
  obtain ⟨a, b, c, e, hbroken⟩ := brokenRuns_frame f
  have hauth : feAuth f = f.auth0 := by simp [feAuth, hobeys]
  have hauth' : feAuth (brokenRuns f) = f.auth0 := by rw [hbroken]; exact hauth
  have hmiss : (if f.obeys = 0 ∨ feAuth f = true then 0 else f.missRun + 1) = if f.auth0 then 0 else f.missRun + 1 := by
    rw [hauth, hobeys]
    simp
  have hticks : (if (brokenRuns f).inCoast = true then (brokenRuns f).coastTicks + 1 else (brokenRuns f).coastTicks) = f.coastTicks := by
    rw [hbroken]
    exact if_neg (by simp [hcoast])
  have hrun : (if (f.auth0 && f.auth1) = true then f.conflictRun + 1 else 0) = 0 := if_neg (by simp [h1])
  refine ⟨a, b, c, e, ageSegs f.mbx, _, _, ?_, rfl, rfl⟩
  unfold roundCounted
  dsimp only
  rw [hmiss, hauth', hticks, hrun, hbroken]
  rfl

/-- A round whose obeyed link brought its frame. -/
theorem feRoundEnd_heard (h0 : f.auth0 = true) : ∃ a b c e m, feRoundEnd f = { f with
    step0 := a, step1 := b, trains0 := c, trains1 := e, conflictRun := 0, missRun := 0, mbx := m } := by
  obtain ⟨a, b, c, e, m, miss, run, h, hm, hr⟩ := roundCounted_frame hobeys h1 hcoast
  rw [hm, hr, if_pos h0, if_pos h0] at h
  refine ⟨a, b, c, e, m, ?_⟩
  have hjudged := coastJudged_none (f := roundCounted f) (by rw [h]; exact Nat.zero_lt_succ 3) (by rw [h]; exact hcoast)
  rw [feRoundEnd_eq, feNextObeys_same hobeys h1, if_pos (by rw [h]; exact hobeys.symm), hjudged, h]

/-- The fourth round without a frame. -/
theorem feRoundEnd_missed (h0 : f.auth0 = false) (hmiss : f.missRun = 3) (hrounds : 1 < f.coastRounds) :
    ∃ a b c e m, feRoundEnd f = { f with
      step0 := a, step1 := b, trains0 := c, trains1 := e, conflictRun := 0, missRun := 4, clearRun := 0, mbx := m
      inCoast := true, coastTicks := 1, status := setBit f.status 4 } := by
  obtain ⟨a, b, c, e, m, miss, run, h, hm, hr⟩ := roundCounted_frame hobeys h1 hcoast
  have hno : ¬f.auth0 = true := by simp [h0]
  rw [hm, hr, if_neg hno, if_neg hno, hmiss] at h
  refine ⟨a, b, c, e, m, ?_⟩
  have hjudged := coastJudged_begins (f := roundCounted f) (by rw [h]) (by rw [h]; exact hcoast)
    (by rw [h]; exact hrounds)
  rw [feRoundEnd_eq, feNextObeys_same hobeys h1, if_pos (by rw [h]; exact hobeys.symm), hjudged, h]
  rfl

end RoundEnd

/-! ### The tick by its case -/

section Tick
variable {f : FarEnd} (cls : Nat)

/-- A tick whose obeyed link brought its frame (R161, R162). -/
theorem ticked_heard (hobeys : f.obeys = 1) (h0 : f.auth0 = true) (h1 : f.auth1 = false) (hcoast : f.inCoast = false) :
    (ticked cls f).inHem = (f.inHem && !(decide (4 ≤ f.clearRun) && !f.listen0)) ∧ (ticked cls f).seq = f.seq
    ∧ (ticked cls f).missRun = 0 ∧ (ticked cls f).obeys = 1 ∧ (ticked cls f).status = f.status
    ∧ (∀ c, (ticked cls f).inHem = false → f.cmd0 = some c → (ticked cls f).cmd = c ∧ (ticked cls f).throttle = (leAt c 0x12 1).testBit 0
        ∧ (ticked cls f).pfw = (leAt c 0x12 1).testBit 1)
    ∧ ((ticked cls f).inHem = true ∨ f.cmd0 = none →
        (ticked cls f).cmd = f.cmd ∧ (ticked cls f).throttle = f.throttle ∧ (ticked cls f).pfw = f.pfw) := by
  obtain ⟨a, b, c, e, m, hround⟩ := feRoundEnd_heard hobeys h1 hcoast h0
  have hhem := hemReleased_inHem (f := feRoundEnd f) (by rw [hround]; exact hobeys)
  obtain ⟨r, hreleased⟩ := hemReleased_frame (feRoundEnd f)
  obtain ⟨cm, th, pf, sp, hcommand⟩ := feCommand_frame (hemReleased (feRoundEnd f))
  have hview := tickView_feApply cls (feCommand (hemReleased (feRoundEnd f)))
  simp only [tickView, Prod.mk.injEq] at hview
  obtain ⟨vobeys, vhem, -, -, vmiss, -, vstatus, vseq, vcmd, vthrottle, vpfw⟩ := hview
  have hreleased' : hemReleased (feRoundEnd f) = { f with
      step0 := a, step1 := b, trains0 := c, trains1 := e, conflictRun := 0, missRun := 0, mbx := m, inHem := r } := by
    rw [hreleased, hround]
  have hin : (ticked cls f).inHem = (hemReleased (feRoundEnd f)).inHem := vhem.trans (by rw [hcommand])
  have hobeys' : (hemReleased (feRoundEnd f)).obeys = 1 := by rw [hreleased']; exact hobeys
  have hcmd0 : (hemReleased (feRoundEnd f)).cmd0 = f.cmd0 := by rw [hreleased']
  unfold ticked
  rw [vseq, vmiss, vobeys, vstatus, vcmd, vthrottle, vpfw]
  refine ⟨?_, ?_, ?_, ?_, ?_, fun x hfree hx => ?_, fun hheld => ?_⟩
  · exact hin.trans (hhem.trans (by rw [hround]))
  · rw [hcommand, hreleased']
  · rw [hcommand, hreleased']
  · rw [hcommand, hreleased']; exact hobeys
  · rw [hcommand, hreleased']
  · exact feCommand_some hobeys' (hin.symm.trans hfree) (hcmd0.trans hx)
  · rw [feCommand_none hobeys' (hheld.imp (fun h => hin.symm.trans h) fun h => hcmd0.trans h), hreleased']
    exact ⟨rfl, rfl, rfl⟩

/-- The tick of the fourth round without a frame (R163). -/
theorem ticked_missed (hobeys : f.obeys = 1) (h0 : f.auth0 = false) (h1 : f.auth1 = false) (hcoast : f.inCoast = false)
    (hmiss : f.missRun = 3) (hrounds : 1 < f.coastRounds) (hcmd : f.cmd0 = none) :
    (ticked cls f).inCoast = true ∧ (ticked cls f).coastTicks = 1 ∧ (ticked cls f).status = setBit f.status 4
    ∧ (ticked cls f).cmd = f.cmd ∧ (ticked cls f).clearRun = 0 := by
  obtain ⟨a, b, c, e, m, hround⟩ := feRoundEnd_missed hobeys h1 hcoast h0 hmiss hrounds
  obtain ⟨r, hreleased⟩ := hemReleased_frame (feRoundEnd f)
  rw [hround] at hreleased
  have hview := tickView_feApply cls (feCommand (hemReleased (feRoundEnd f)))
  have hnone : feCommand (hemReleased (feRoundEnd f)) = hemReleased (feRoundEnd f) :=
    feCommand_none (by rw [hround, hreleased]; exact hobeys) (.inr (by rw [hround, hreleased]; exact hcmd))
  rw [hnone, hround, hreleased] at hview
  simp only [tickView, Prod.mk.injEq] at hview
  obtain ⟨-, -, vcoast, vticks, -, vrun, vstatus, -, vcmd, -, -⟩ := hview
  unfold ticked
  rw [hnone, hround, hreleased]
  exact ⟨vcoast, vticks, vstatus, vcmd, vrun⟩

/-- The tick that applies a staged change (R136, R137, R194). -/
theorem ticked_commit {ident : Byte} {a : Nat} {ws : List Word} (hstaged : f.staged = some (ident, a, ws)) (hnext : f.commitNext = true)
    (hobeys : f.obeys = 1) (h0 : f.auth0 = true) (h1 : f.auth1 = false) (hcoast : f.inCoast = false) :
    (ticked cls f).staged = none ∧ (ticked cls f).ackId = ident
    ∧ ((feWrite cls f a ws).2 = 0 → (ticked cls f).ackCode = if f.commitLate then 4 else 3)
    ∧ ((feWrite cls f a ws).2 ≠ 0 → (ticked cls f).ackCode = 5 ∧ (ticked cls f).fastLimit = f.fastLimit
        ∧ (ticked cls f).fastMode = f.fastMode ∧ (ticked cls f).ovLevel = f.ovLevel ∧ (ticked cls f).ovRelease = f.ovRelease) := by
  obtain ⟨x0, x1, x2, x3, m, hround⟩ := feRoundEnd_heard hobeys h1 hcoast h0
  obtain ⟨r, hreleased⟩ := hemReleased_frame (feRoundEnd f)
  obtain ⟨cm, th, pf, sp, hcommand⟩ := feCommand_frame (hemReleased (feRoundEnd f))
  rw [hreleased, hround] at hcommand
  have heq : ticked cls f = feApply cls (feCommand (hemReleased (feRoundEnd f))) := rfl
  generalize hg : feCommand (hemReleased (feRoundEnd f)) = g at heq
  have hframe : g = _ := hg.symm.trans ((congrArg feCommand (hreleased.trans (by rw [hround]))).trans hcommand)
  have hcode : (feWrite cls g a ws).2 = (feWrite cls f a ws).2 := feWrite_code_congr (by rw [hframe]; rfl) cls a ws
  rw [heq, feApply_commit (by rw [hframe]; exact hstaged) (by rw [hframe]; exact hnext)]
  refine ⟨rfl, rfl, fun hok => ?_, fun hno => ?_⟩
  · have hlate : g.commitLate = f.commitLate := by rw [hframe]
    dsimp only
    rw [hcode, if_neg (not_not.2 hok), hlate]
  · rw [feWrite_refused (by rw [hcode]; exact hno), if_pos (by rw [hcode]; exact hno), hframe]
    exact ⟨rfl, rfl, rfl, rfl, rfl⟩

end Tick

/-! ### COAST (R163, R173, R191) -/

theorem feExpire_spec (f : FarEnd) : (feExpire f).inCoast = false ∧ (feExpire f).inHem = true ∧ (feExpire f).throttle = true
    ∧ (feExpire f).pfw = true ∧ (feExpire f).spare = 0 ∧ (feExpire f).obeys = 0
    ∧ (f.obeys = 1 → (feExpire f).listen0 = true) ∧ (f.obeys = 2 → (feExpire f).listen1 = true)
    ∧ ((feExpire f).status, (feExpire f).cmd, (feExpire f).staged) = (f.status, f.cmd, f.staged) := by
  unfold feExpire
  by_cases h : f.obeys = 0
  · rw [if_pos h]
    exact ⟨rfl, rfl, rfl, rfl, rfl, rfl, fun h1 => absurd (h.symm.trans h1) (by decide), fun h2 => absurd (h.symm.trans h2) (by decide), rfl⟩
  rw [if_neg h]
  by_cases h2 : f.obeys = 2
  · have hu : (f.obeys == 2) = true := by simp [h2]
    rw [hu]
    exact ⟨rfl, rfl, rfl, rfl, rfl, rfl, fun h1 => absurd (h2.symm.trans h1) (by decide), fun _ => rfl, rfl⟩
  · have hu : (f.obeys == 2) = false := by simp [h2]
    rw [hu]
    exact ⟨rfl, rfl, rfl, rfl, rfl, rfl, fun _ => rfl, fun h2' => absurd h2' h2, rfl⟩

theorem onlyFarEnd_set (s : State) (n : Nat) (x : FarEnd) : OnlyFarEnd s (setFarEnd s n x) n :=
  ⟨rfl, fun _ hk => farEnd_setFarEnd_other _ _ _ _ hk⟩

theorem coast_spec {s : State} {n : PortId} (hobeys : (farEnd s n).obeys ≠ 0) (hcoast : (farEnd s n).inCoast = false)
    (hauth : feAuth (farEnd s n) = false) (hmiss : 3 ≤ (farEnd s n).missRun) : ∃ t, exec (.coast n) s = .next t ∧ OnlyFarEnd s t n
      ∧ ((farEnd s n).coastRounds ≠ 0 →
          farEnd t n = { farEnd s n with inCoast := true, coastTicks := 0, status := (farEnd s n).status ||| 0x10 })
      ∧ ((farEnd s n).coastRounds = 0 → (farEnd t n).inHem = true ∧ (farEnd t n).throttle = true ∧ (farEnd t n).pfw = true
        ∧ (farEnd t n).obeys = 0) := by
  have hexec : exec (.coast n) s = .next (setFarEnd s n (if (feCoast (farEnd s n) 0).coastRounds = 0 then feExpire (feCoast (farEnd s n) 0)
      else feCoast (farEnd s n) 0)) :=
    congrArg Host.Outcome.next (if_pos (by simp [hobeys, hcoast, hauth, hmiss]))
  refine ⟨_, hexec, onlyFarEnd_set s n _, fun hrounds => ?_, fun hrounds => ?_⟩
  · rw [farEnd_setFarEnd, if_neg (show (feCoast (farEnd s n) 0).coastRounds ≠ 0 from hrounds)]
    rfl
  · obtain ⟨-, hhem, hthrottle, hpfw, -, hzero, -⟩ := feExpire_spec (feCoast (farEnd s n) 0)
    rw [farEnd_setFarEnd, if_pos (show (feCoast (farEnd s n) 0).coastRounds = 0 from hrounds)]
    exact ⟨hhem, hthrottle, hpfw, hzero⟩

theorem coastExpiry_spec {s : State} {n : PortId} (hcoast : (farEnd s n).inCoast = true)
    (hrounds : (farEnd s n).coastRounds ≤ (farEnd s n).coastTicks) : ∃ t, exec (.coastExpiry n) s = .next t ∧ OnlyFarEnd s t n
      ∧ farEnd t n = feExpire (farEnd s n) :=
  ⟨_, congrArg Host.Outcome.next (if_pos (by simp [hcoast, hrounds])), onlyFarEnd_set s n _, farEnd_setFarEnd s n _⟩

/-! ### Latches and restart (R173, R202, R209, R211, R451) -/

theorem fastTrip_spec (s : State) (n : PortId) : ∃ t, exec (.fastTrip n) s = .next t ∧ OnlyFarEnd s t n
    ∧ farEnd t n = { farEnd s n with
        status := (farEnd s n).status ||| 1, cut := true, fastLatched := (farEnd s n).fastLatched || (farEnd s n).fastMode == 1 }
    ∧ feGatesOff (farEnd t n) (link s n).cls.toNat = true
    ∧ ((farEnd s n).fastMode = 1 → feLockout (farEnd t n) = true) := by
  refine ⟨_, rfl, onlyFarEnd_set s n _, farEnd_setFarEnd s n _, ?_, fun hmode => ?_⟩
  · rw [farEnd_updFe]
    simp [feGatesOff]
  · rw [farEnd_updFe]
    simp [feLockout, hmode]

theorem ovLatch_spec {s : State} {n : PortId} (hcls : (link s n).cls = 5) : ∃ t, exec (.ovLatch n) s = .next t ∧ OnlyFarEnd s t n
    ∧ farEnd t n = { farEnd s n with status := (farEnd s n).status ||| 2, ovLatched := true } ∧ feLockout (farEnd t n) = true
    ∧ feGatesOff (farEnd t n) 5 = true ∧ feLowSide (farEnd t n) = true := by
  refine ⟨_, congrArg Host.Outcome.next (if_pos (by simp [hcls])), onlyFarEnd_set s n _, farEnd_setFarEnd s n _, ?_, ?_, ?_⟩
  · rw [farEnd_updFe]
    simp [feLockout]
  · rw [farEnd_updFe]
    simp [feGatesOff]
  · rw [farEnd_updFe]
    simp [feLowSide]

theorem feRestart_spec (s : State) (n : PortId) : ∃ t, exec (.feRestart n) s = .next t ∧ OnlyFarEnd s t n
    ∧ hasBit (farEnd t n).status 5 = true ∧ (farEnd t n).ovLatched = (farEnd s n).ovLatched ∧ (farEnd t n).fastLatched = false
    ∧ (farEnd t n).obeys = 0 ∧ (farEnd t n).listen0 = true ∧ (farEnd t n).listen1 = true ∧ (farEnd t n).inHem = true
    ∧ (farEnd t n).staged = none ∧ (farEnd t n).coastRounds = 32 ∧ (farEnd t n).fastLimit = none ∧ (farEnd t n).fastMode = 1 := by
  refine ⟨_, rfl, onlyFarEnd_set s n _, ?_⟩
  rw [farEnd_updFe]
  exact ⟨hasBit_setBit _ (by decide), rfl, rfl, rfl, rfl, rfl, rfl, rfl, rfl, rfl, rfl⟩

/-- Settles O34: the local tick by what its round brought, COAST, the latches and the restart. -/
theorem farEndTicksLatchesAndRestart : Obligations.FarEndTicksLatchesAndRestart := by
  refine ⟨⟨fun s n m => ?_, fun s n m => ?_, fun s n m => ?_, fun s n m ident a ws => ?_, fun s n => coast_spec, fun s n => ?_⟩,
    fun s n mask causes => ⟨fastTrip_spec s n, ovLatch_spec, fun hcls => ?_, feRestart_spec s n, ?_⟩⟩
  · intro f cls
    obtain ⟨t, str, mbx, g, tm, fr, ne, ag, hexec, honly, hfe⟩ := feLocalTick_spec s n m
    refine ⟨t, hexec, honly, ?_⟩
    rw [hfe]
    refine ⟨rfl, rfl, rfl, fun i v hi hv => (feSamples_used m.samples hi).trans ?_, fun i neg hi hv =>
      (feSamples_used m.samples hi).trans ?_, fun i hlo hhi hused hi => feSamples_unused m.samples hlo hhi hused hi, feOverCoast_iff f m.peak⟩
    · rw [hv]
      exact congrArg some (sampleCode_value v)
    · rw [hv]
      rfl
  · intro f hobeys h0 h1 hcoast hem
    obtain ⟨t, str, mbx, g, tm, fr, ne, ag, hexec, honly, hfe⟩ := feLocalTick_spec s n m
    obtain ⟨hhem, hseq, hmiss, hob, hstatus, hcmd, hsame⟩ := ticked_heard (link s n).cls.toNat hobeys h0 h1 hcoast
    refine ⟨t, hexec, honly, ?_⟩
    rw [hfe]
    refine ⟨hhem, congrArg (· + 1) hseq, hmiss, hob, rfl, rfl, congrArg (· ||| (m.causes &&& causeMask (link s n).cls.toNat)) hstatus,
      fun c hfree => hcmd c (hhem.trans hfree), fun h => hsame (h.imp_left fun h => hhem.trans h)⟩
  · intro f hobeys h0 h1 hcoast hmiss hrounds hcmd
    obtain ⟨t, str, mbx, g, tm, fr, ne, ag, hexec, honly, hfe⟩ := feLocalTick_spec s n m
    obtain ⟨hin, hticks, hstatus, hsame, hrun⟩ := ticked_missed (link s n).cls.toNat hobeys h0 h1 hcoast hmiss hrounds hcmd
    refine ⟨t, hexec, honly, ?_⟩
    rw [hfe]
    refine ⟨hin, hticks, ?_, hsame, hrun⟩
    dsimp only
    rw [hstatus, hasBit_or, hasBit_setBit _ (by decide), Bool.true_or]
  · intro f hstaged hnext hobeys h0 h1 hcoast
    obtain ⟨t, str, mbx, g, tm, fr, ne, ag, hexec, honly, hfe⟩ := feLocalTick_spec s n m
    have hcommit := ticked_commit (link s n).cls.toNat hstaged hnext hobeys h0 h1 hcoast
    refine ⟨t, hexec, honly, ?_⟩
    rw [hfe]
    exact hcommit
  · intro f hcoast hrounds
    obtain ⟨t, hexec, honly, hfe⟩ := coastExpiry_spec hcoast hrounds
    refine ⟨t, hexec, honly, ?_⟩
    rw [hfe]
    exact feExpire_spec f
  · exact congrArg Host.Outcome.next (if_neg (by simpa using hcls))
  · exact ⟨_, rfl, onlyFarEnd_set s n _, farEnd_setFarEnd s n _⟩

end Sys2Proof.Machine
end

section
/-! PROOFS. Configuration and firmware at a far end (R136, R172, R173, R178 to R180, R184, R194). -/
namespace Sys2Proof.Machine

/-! ### The words of configuration -/

section Words
variable (n cls : Nat) (dual : Bool)

/-- A write leaves every word at another address. -/
theorem feWord_feSetWord_other (f : FarEnd) {a a' : Nat} (w : Word) (h : a' ≠ a) :
    feWord n cls dual (feSetWord f a w) a' = feWord n cls dual f a' := by
  unfold feSetWord
  split <;> (unfold feWord; split <;> simp_all [feState, feFast, feLockout])

/-- A word that is taken is read back. -/
theorem feWord_feSetWord_same (f : FarEnd) {a : Nat} {w : Word} (h : feCheck cls a w = 0) :
    feWord n cls dual (feSetWord f a w) a = some w := by
  unfold feCheck at h
  split at h
  · omega
  · exact congrArg some (BitVec.ofNat_toNat 32 w)
  · exact congrArg some (BitVec.ofNat_toNat 32 w)
  · rfl
  · exact congrArg some (BitVec.ofNat_toNat 32 w)
  · by_cases hcls : cls = 5
    · exact if_pos hcls
    · rw [if_pos hcls] at h; omega
  · by_cases hcls : cls = 5
    · exact if_pos hcls
    · rw [if_pos hcls] at h; omega
  · omega

theorem feWord_feSetWord {f : FarEnd} {a : Nat} {w : Word} (h : feCheck cls a w = 0) (a' : Nat) :
    feWord n cls dual (feSetWord f a w) a' = if a' = a then some w else feWord n cls dual f a' := by
  split
  case isTrue ha => rw [ha, feWord_feSetWord_same n cls dual f h]
  case isFalse ha => exact feWord_feSetWord_other n cls dual f w ha

end Words

/-- The words of a configuration message laid in their place. -/
def feSetWords (addr : Nat) (l : List (Word × Nat)) (f : FarEnd) : FarEnd := l.foldl (fun g x => feSetWord g (addr + x.2) x.1) f

theorem feWord_feSetWords (n cls addr : Nat) (dual : Bool) (l : List Word) : ∀ (i : Nat) (f : FarEnd),
    (∀ k, ∀ h : k < l.length, feCheck cls (addr + (i + k)) l[k] = 0) → ∀ a,
    feWord n cls dual (feSetWords addr (l.zipIdx i) f) a
      = (if addr + i ≤ a then l[a - (addr + i)]? else none).or (feWord n cls dual f a) := by
  induction l with
  | nil => intro i f _ a; simp [feSetWords]
  | cons w l ih =>
    intro i f hcheck a
    have hfirst : feCheck cls (addr + i) w = 0 := hcheck 0 (by simp)
    have hrest (k : Nat) (h : k < l.length) : feCheck cls (addr + (i + 1 + k)) l[k] = 0 := by
      have := hcheck (k + 1) (by simpa using h)
      rw [show i + 1 + k = i + (k + 1) by omega]
      simpa using this
    have hstep := ih (i + 1) (feSetWord f (addr + i) w) hrest a
    rw [feWord_feSetWord n cls dual hfirst] at hstep
    refine hstep.trans ?_
    rcases Nat.lt_trichotomy a (addr + i) with hlt | rfl | hgt
    · rw [if_neg (by omega), if_neg (by omega), if_neg (by omega)]
    · rw [if_neg (by omega), if_pos rfl, if_pos (Nat.le_refl _), Nat.sub_self]
      rfl
    · rw [if_pos (by omega), if_neg (by omega), if_pos (by omega), show a - (addr + i) = a - (addr + (i + 1)) + 1 by omega]
      rfl

/-- The first bad word of a write refuses it whole. -/
theorem feWrite_first {cls addr : Nat} (f : FarEnd) {ws : List Word} {k : Nat} (hk : k < ws.length)
    (hbad : feCheck cls (addr + k) ws[k] ≠ 0) (hgood : ∀ j, ∀ h : j < ws.length, j < k → feCheck cls (addr + j) ws[j] = 0) :
    feWrite cls f addr ws = (f, feCheck cls (addr + k) ws[k]) := by
  have hfind : (ws.zipIdx.map fun x => feCheck cls (addr + x.2) x.1).find? (fun st => st != 0) = some (feCheck cls (addr + k) ws[k]) := by
    rw [List.find?_eq_some_iff_getElem]
    refine ⟨by simpa using hbad, k, by simpa using hk, by simp, fun j hj => ?_⟩
    simpa using hgood j (by omega) hj
  unfold feWrite
  rw [hfind]

theorem feWrite_good {cls addr : Nat} (f : FarEnd) {ws : List Word} (hgood : ∀ k, ∀ h : k < ws.length, feCheck cls (addr + k) ws[k] = 0) :
    feWrite cls f addr ws = if cls = 5 ∧ f32Val (feSetWords addr ws.zipIdx f).ovLevel ≤ f32Val (feSetWords addr ws.zipIdx f).ovRelease
      then (f, 2) else (feSetWords addr ws.zipIdx f, 0) := by
  have hfind : (ws.zipIdx.map fun x => feCheck cls (addr + x.2) x.1).find? (fun st => st != 0) = none := by
    rw [List.find?_eq_none]
    intro st hst
    obtain ⟨⟨w, j⟩, hmem, rfl⟩ := List.mem_map.1 hst
    obtain ⟨hj, hw⟩ := List.mem_zipIdx' hmem
    simpa [hw] using hgood j hj
  unfold feWrite
  rw [hfind]
  rfl

/-- The value of a word of configuration that a write would give. -/
def newWord (addr : Nat) (ws : List Word) (a : Nat) (old : Word) : Word := if addr ≤ a then (ws[a - addr]?).getD old else old

section Write
variable {cls addr : Nat} {f : FarEnd} {ws : List Word} (hgood : ∀ k, ∀ h : k < ws.length, feCheck cls (addr + k) ws[k] = 0)
include hgood

theorem feWord_written (n : Nat) (dual : Bool) (a : Nat) : feWord n cls dual (feSetWords addr ws.zipIdx f) a
    = (if addr ≤ a then ws[a - addr]? else none).or (feWord n cls dual f a) :=
  feWord_feSetWords n cls addr dual ws 0 f (fun k h => by rw [Nat.zero_add]; exact hgood k h) a

theorem ov_written (hcls : cls = 5) : (feSetWords addr ws.zipIdx f).ovLevel = newWord addr ws 0x102 f.ovLevel
    ∧ (feSetWords addr ws.zipIdx f).ovRelease = newWord addr ws 0x103 f.ovRelease := by
  have hor (a : Nat) (old : Word) : (if addr ≤ a then ws[a - addr]? else none).or (some old) = some (newWord addr ws a old) := by
    unfold newWord
    split
    · cases ws[a - addr]? <;> rfl
    · rfl
  have hread (g : FarEnd) : feWord 0 cls false g 0x102 = some g.ovLevel ∧ feWord 0 cls false g 0x103 = some g.ovRelease :=
    ⟨if_pos hcls, if_pos hcls⟩
  have hlevel := feWord_written (f := f) hgood 0 false 0x102
  have hrelease := feWord_written (f := f) hgood 0 false 0x103
  rw [(hread _).1, (hread _).1, hor] at hlevel
  rw [(hread _).2, (hread _).2, hor] at hrelease
  exact ⟨Option.some.inj hlevel, Option.some.inj hrelease⟩

/-- A write of good words is taken where the release of the over-voltage latch lies below its level (R194). -/
theorem feWrite_ordered (h : cls = 5 → f32Val (newWord addr ws 0x103 f.ovRelease) < f32Val (newWord addr ws 0x102 f.ovLevel)) :
    feWrite cls f addr ws = (feSetWords addr ws.zipIdx f, 0) := by
  rw [feWrite_good f hgood, if_neg]
  rintro ⟨hcls, hle⟩
  obtain ⟨hlevel, hrelease⟩ := ov_written (f := f) hgood hcls
  rw [hlevel, hrelease] at hle
  exact absurd (h hcls) (not_lt.2 hle)

theorem feWrite_unordered (h : ¬(cls = 5 → f32Val (newWord addr ws 0x103 f.ovRelease) < f32Val (newWord addr ws 0x102 f.ovLevel))) :
    feWrite cls f addr ws = (f, 2) := by
  obtain ⟨hcls, hle⟩ := Classical.not_imp.1 h
  obtain ⟨hlevel, hrelease⟩ := ov_written (f := f) hgood hcls
  rw [feWrite_good f hgood, if_pos]
  rw [hlevel, hrelease]
  exact ⟨hcls, not_lt.1 hle⟩

end Write

/-! ### Configuration messages (R178 to R180) -/

theorem feWord_reply (n cls : Nat) (dual : Bool) (f : FarEnd) (q r ty : Nat) (body : List Byte) (a : Nat) :
    feWord n cls dual (feReply f q r ty body) a = feWord n cls dual f a := rfl

/-- The mailbox of a far end that answers a configuration message. -/
def cfgAnswer (f : FarEnd) (st : Nat) (more : List Byte) : MboxSide :=
  enqueue (dropInbox 0 f.mbx) 1 (message 0x81 (inTag f.mbx 0) (leBytes 4 st ++ more))

theorem cfgAnswer_of {f g : FarEnd} (h : g.mbx = f.mbx) (st : Nat) : (feReply g 0 1 0x81 (leBytes 4 st)).mbx = cfgAnswer f st [] := by
  unfold cfgAnswer
  rw [List.append_nil, ← h]
  rfl

theorem cfgWrite_spec (s : State) (n : PortId) (addr : Nat) (words : List Word) :
    let f := farEnd s n
    let cls := (link s n).cls.toNat
    let new := newWord addr words
    let ordered := cls = 5 → f32Val (new 0x103 f.ovRelease) < f32Val (new 0x102 f.ovLevel)
    ∃ t, exec (.cfgWrite n addr words) s = .next t ∧ OnlyFarEnd s t n
      ∧ (∀ k, ∀ h : k < words.length, feCheck cls (addr + k) words[k] ≠ 0 →
          (∀ j, ∀ h : j < words.length, j < k → feCheck cls (addr + j) words[j] = 0) →
          farEnd t n = { f with mbx := cfgAnswer f (feCheck cls (addr + k) words[k]) [] })
      ∧ ((∀ k, ∀ h : k < words.length, feCheck cls (addr + k) words[k] = 0) →
          (¬ordered → farEnd t n = { f with mbx := cfgAnswer f 2 [] })
          ∧ (ordered → (farEnd t n).mbx = cfgAnswer f 0 []
            ∧ (∀ k, ∀ h : k < words.length, feWord n cls (feDual s n) (farEnd t n) (addr + k) = some words[k])
            ∧ ∀ a, (a < addr ∨ addr + words.length ≤ a) →
              feWord n cls (feDual s n) (farEnd t n) a = feWord n cls (feDual s n) f a)) := by
  intro f cls new ordered
  have hfe : farEnd (updFe s n fun f => feReply (feWrite cls f addr words).1 0 1 0x81 (leBytes 4 (feWrite cls f addr words).2)) n
      = feReply (feWrite cls f addr words).1 0 1 0x81 (leBytes 4 (feWrite cls f addr words).2) := farEnd_updFe _ _ _
  have hrefused (st : Nat) : feReply f 0 1 0x81 (leBytes 4 st) = { f with mbx := cfgAnswer f st [] } :=
    congrArg (fun m => { f with mbx := m }) (cfgAnswer_of (g := f) rfl st)
  refine ⟨_, rfl, onlyFarEnd_set s n _, fun k hk hbad hbefore => hfe.trans ?_, fun hgood => ⟨fun hno => hfe.trans ?_, fun hord => ?_⟩⟩
  · rw [feWrite_first f hk hbad hbefore]
    exact hrefused _
  · rw [feWrite_unordered hgood hno]
    exact hrefused 2
  · have hmbx : (feWrite cls f addr words).1.mbx = f.mbx := by
      obtain ⟨c, t, l, m, v, r, h⟩ := feWrite_frame cls f addr words
      rw [h]
    have hword (a : Nat) : feWord n cls (feDual s n) (feReply (feWrite cls f addr words).1 0 1 0x81 (leBytes 4 (feWrite cls f addr words).2)) a
        = (if addr ≤ a then words[a - addr]? else none).or (feWord n cls (feDual s n) f a) := by
      rw [feWord_reply, feWrite_ordered hgood hord]
      exact feWord_written hgood n (feDual s n) a
    refine ⟨(congrArg FarEnd.mbx hfe).trans ?_, fun k hk => (congrArg (feWord n cls (feDual s n) · (addr + k)) hfe).trans ?_,
      fun a ha => (congrArg (feWord n cls (feDual s n) · a) hfe).trans ?_⟩
    · rw [cfgAnswer_of hmbx, feWrite_ordered hgood hord]
    · refine (hword (addr + k)).trans ?_
      rw [if_pos (Nat.le_add_right _ _), Nat.add_sub_cancel_left, List.getElem?_eq_getElem hk]
      rfl
    · refine (hword a).trans ?_
      by_cases hle : addr ≤ a
      · rw [if_pos hle, List.getElem?_eq_none (by omega)]
        rfl
      · rw [if_neg hle]
        rfl

theorem cfgRead_spec (s : State) (n : PortId) (addr count : Nat) :
    let f := farEnd s n
    let cls := (link s n).cls.toNat
    ∃ t, exec (.cfgRead n addr count) s = .next t ∧ OnlyFarEnd s t n
      ∧ ((∃ k < count, feWord n cls (feDual s n) f (addr + k) = none) → farEnd t n = { f with mbx := cfgAnswer f 1 [] })
      ∧ ((∀ k < count, feWord n cls (feDual s n) f (addr + k) ≠ none) → farEnd t n = { f with
          mbx := cfgAnswer f 0 ((List.range count).map fun k => wordBytes ((feWord n cls (feDual s n) f (addr + k)).getD 0)).flatten }) := by
  intro f cls
  have hall : ((List.range count).map fun k => feWord n cls (feDual s n) f (addr + k)).all (·.isSome) = true
      ↔ ∀ k < count, feWord n cls (feDual s n) f (addr + k) ≠ none := by
    simp [List.all_eq_true, Option.isSome_iff_ne_none]
  refine ⟨_, rfl, onlyFarEnd_set s n _, fun ⟨k, hk, hnone⟩ => (farEnd_updFe _ _ _).trans ?_, fun hsome => (farEnd_updFe _ _ _).trans ?_⟩
  · refine (if_neg fun h => hall.1 h k hk hnone).trans ?_
    exact congrArg (fun m => { f with mbx := m }) (cfgAnswer_of (g := f) rfl 1)
  · refine (if_pos (hall.2 hsome)).trans ?_
    rw [List.map_map]
    rfl

theorem cfgStage_spec (s : State) (n : PortId) (addr : Nat) (words : List Word) (ident : Byte) :
    let f := farEnd s n
    let cls := (link s n).cls.toNat
    ∃ t, exec (.cfgStage n ident addr words) s = .next t ∧ OnlyFarEnd s t n ∧ (farEnd t n).ackId = ident
      ∧ (farEnd t n).mbx = dropInbox 0 f.mbx
      ∧ ((feWrite cls f addr words).2 = 0 → (farEnd t n).staged = some (ident, addr, words) ∧ (farEnd t n).ackCode = 1)
      ∧ ((feWrite cls f addr words).2 ≠ 0 → (farEnd t n).staged = none ∧ (farEnd t n).ackCode = 2)
      ∧ (∀ a, a ≠ 0 → feWord n cls (feDual s n) (farEnd t n) a = feWord n cls (feDual s n) f a) := by
  intro f cls
  generalize hx : (if (feWrite cls f addr words).2 = 0 then { f with
      mbx := dropInbox 0 f.mbx, armedSeen := false, commitSeen := false, commitNext := false, ackId := ident
      staged := some (ident, addr, words), ackCode := 1 }
    else { f with
      mbx := dropInbox 0 f.mbx, armedSeen := false, commitSeen := false, commitNext := false, ackId := ident
      staged := none, ackCode := 2 } : FarEnd) = x
  have hexec : exec (.cfgStage n ident addr words) s = .next (setFarEnd s n x) := by rw [← hx]; rfl
  refine ⟨_, hexec, onlyFarEnd_set s n _, ?_⟩
  rw [farEnd_setFarEnd, ← hx]
  by_cases h : (feWrite cls f addr words).2 = 0
  · rw [if_pos h]
    refine ⟨rfl, rfl, fun _ => ⟨rfl, rfl⟩, fun hno => absurd h hno, fun a ha => ?_⟩
    unfold feWord
    split <;> simp_all [feFast]
  · rw [if_neg h]
    refine ⟨rfl, rfl, fun hyes => absurd hyes h, fun _ => ⟨rfl, rfl⟩, fun a ha => ?_⟩
    unfold feWord
    split <;> simp_all [feFast]

/-! ### Firmware (R172, R173, R184) -/

/-- The mailbox of a far end that reports on its load. -/
def fwAnswer (f : FarEnd) (st : Nat) (ver : Word) : MboxSide :=
  enqueue (dropInbox 5 f.mbx) 1 (message 0xA1 (inTag f.mbx 5) (leBytes 4 st ++ wordBytes ver))

theorem fwBegin_spec (s : State) (n : PortId) (size : Nat) (crc version : Word) (family : Nat) : let f := farEnd s n
    ∃ t, exec (.fwBegin n size crc version family) s = .next t ∧ OnlyFarEnd s t n
      ∧ (262144 < size → farEnd t n = { f with fw := none, mbx := fwAnswer f 2 version })
      ∧ (size ≤ 262144 → (link s n).fwFamily ≠ family → farEnd t n = { f with fw := none, mbx := fwAnswer f 3 version })
      ∧ (size ≤ 262144 → (link s n).fwFamily = family → farEnd t n = { f with
          fw := some ⟨size, crc, version, family, [], false⟩, mbx := dropInbox 5 f.mbx }) := by
  intro f
  refine ⟨_, rfl, onlyFarEnd_set s n _, fun hbig => (farEnd_updFe _ _ _).trans (if_pos hbig),
    fun hsize hfam => (farEnd_updFe _ _ _).trans ((if_neg (Nat.not_lt.2 hsize)).trans (if_pos hfam)),
    fun hsize hfam => (farEnd_updFe _ _ _).trans ((if_neg (Nat.not_lt.2 hsize)).trans (if_neg (not_not.2 hfam)))⟩

/-- A far end without a load under way reports each message of one (R184). -/
theorem fw_idle {s : State} {n : PortId} (hfw : (farEnd s n).fw = none) (offset : Nat) (crc : Word) (data : List Byte) : let f := farEnd s n
    (∃ t, exec (.fwBlock n offset crc data) s = .next t ∧ OnlyFarEnd s t n ∧ farEnd t n = { f with mbx := fwAnswer f 5 0 })
    ∧ (∃ t, exec (.fwEnd n) s = .next t ∧ OnlyFarEnd s t n ∧ farEnd t n = { f with mbx := fwAnswer f 5 0 })
    ∧ ∃ t, exec (.fwActivate n) s = .next t ∧ OnlyFarEnd s t n ∧ farEnd t n = { f with mbx := fwAnswer f 5 0 } := by
  intro f
  refine ⟨⟨_, rfl, onlyFarEnd_set s n _, (farEnd_updFe _ _ _).trans ?_⟩, ⟨_, rfl, onlyFarEnd_set s n _, (farEnd_updFe _ _ _).trans ?_⟩, ?_⟩
  · split
    · rfl
    · next hsome => exact absurd (hfw.symm.trans hsome) (by simp)
  · split
    · rfl
    · next hsome => exact absurd (hfw.symm.trans hsome) (by simp)
  · have hexec : exec (.fwActivate n) s = .next (updFe s n fun f => fwReply f 5 0) := by
      refine congrArg Host.Outcome.next ?_
      rw [hfw]
    exact ⟨_, hexec, onlyFarEnd_set s n _, farEnd_updFe _ _ _⟩

section Load
variable {s : State} {n : PortId} {x : FwRx} (hfw : (farEnd s n).fw = some x)
include hfw

theorem fwBlock_spec (offset : Nat) (crc : Word) (data : List Byte) : let f := farEnd s n
    ∃ t, exec (.fwBlock n offset crc data) s = .next t ∧ OnlyFarEnd s t n
      ∧ (offset ≠ x.data.length → farEnd t n = { f with fw := none, mbx := fwAnswer f 5 x.version })
      ∧ (offset = x.data.length → crc32 data ≠ crc → farEnd t n = { f with fw := none, mbx := fwAnswer f 1 x.version })
      ∧ (offset = x.data.length → crc32 data = crc → offset + data.length ≤ x.size →
          farEnd t n = { f with fw := some { x with data := x.data ++ data }, mbx := dropInbox 5 f.mbx })
      ∧ (offset = x.data.length → crc32 data = crc → x.size < offset + data.length →
          farEnd t n = { f with fw := none, mbx := fwAnswer f 2 x.version }) := by
  intro f
  refine ⟨_, rfl, onlyFarEnd_set s n _, ?_⟩
  rw [farEnd_updFe, hfw]
  exact ⟨fun hoff => if_pos hoff, fun hoff hcrc => (if_neg (not_not.2 hoff)).trans (if_pos hcrc),
    fun hoff hcrc hsize => (if_neg (not_not.2 hoff)).trans ((if_neg (not_not.2 hcrc)).trans (if_neg (Nat.not_lt.2 hsize))),
    fun hoff hcrc hsize => (if_neg (not_not.2 hoff)).trans ((if_neg (not_not.2 hcrc)).trans (if_pos hsize))⟩

theorem fwEnd_spec : let f := farEnd s n
    ∃ t, exec (.fwEnd n) s = .next t ∧ OnlyFarEnd s t n
      ∧ (x.data.length ≠ x.size → farEnd t n = { f with fw := none, mbx := fwAnswer f 2 x.version })
      ∧ (x.data.length = x.size → crc32 x.data ≠ x.crc → farEnd t n = { f with fw := none, mbx := fwAnswer f 1 x.version })
      ∧ (x.data.length = x.size → crc32 x.data = x.crc →
          farEnd t n = { f with fw := some { x with complete := true }, mbx := fwAnswer f 0 x.version }) := by
  intro f
  refine ⟨_, rfl, onlyFarEnd_set s n _, ?_⟩
  rw [farEnd_updFe, hfw]
  exact ⟨fun hlen => if_pos hlen, fun hlen hcrc => (if_neg (not_not.2 hlen)).trans (if_pos hcrc),
    fun hlen hcrc => (if_neg (not_not.2 hlen)).trans (if_neg (not_not.2 hcrc))⟩

theorem fwActivate_spec (hcomplete : x.complete = true) : ∃ t, exec (.fwActivate n) s = .next t
    ∧ OnlyFarEnd { s with draws := s.draws + 1 } t n
    ∧ ((farEnd t n).fwVersion, (farEnd t n).fwFamily)
      = (if (drawBool s).1 then (x.version, x.family) else ((farEnd s n).fwVersion, (farEnd s n).fwFamily))
    ∧ (farEnd t n).listen0 = true ∧ (farEnd t n).obeys = 0 ∧ hasBit (farEnd t n).status 5 = true := by
  have hexec : exec (.fwActivate n) s = .next (updFe { s with draws := s.draws + 1 } n fun f =>
      if (drawBool s).1 then feActivated f x else feFresh f) := by
    refine congrArg Host.Outcome.next ?_
    rw [hfw]
    exact if_pos hcomplete
  refine ⟨_, hexec, onlyFarEnd_set _ n _, ?_⟩
  rw [farEnd_updFe]
  cases (drawBool s).1 with
  | false => exact ⟨rfl, rfl, rfl, hasBit_setBit _ (by decide)⟩
  | true => exact ⟨rfl, rfl, rfl, hasBit_setBit _ (by decide)⟩

theorem fwActivate_incomplete (hno : x.complete = false) : ∃ t, exec (.fwActivate n) s = .next t ∧ OnlyFarEnd s t n
    ∧ farEnd t n = { farEnd s n with mbx := fwAnswer (farEnd s n) 5 x.version } := by
  have hexec : exec (.fwActivate n) s = .next (updFe s n fun f => fwReply f 5 x.version) := by
    refine congrArg Host.Outcome.next ?_
    rw [hfw]
    exact if_neg (by simp [hno])
  exact ⟨_, hexec, onlyFarEnd_set _ n _, farEnd_updFe _ _ _⟩

end Load

/-- Settles O35: the configuration messages, then the messages of a firmware load. -/
theorem farEndConfigurationAndFirmware : Obligations.FarEndConfigurationAndFirmware := by
  refine ⟨fun s n addr count words ident => ⟨cfgWrite_spec s n addr words, cfgRead_spec s n addr count,
    cfgStage_spec s n addr words ident⟩, fun s n size crc version family offset data x => ⟨fwBegin_spec s n size crc version family,
    fun hfw => fw_idle hfw offset crc data, fun hfw => ⟨fwBlock_spec hfw offset crc data, fwEnd_spec hfw, fwActivate_spec hfw,
    fwActivate_incomplete hfw⟩⟩⟩

end Sys2Proof.Machine
end

section
/-! PROOFS. What the mailbox brings to a far end and to the controller (R158, R178, R181 to R185, R195, R260 to R262, R346, R347,
R364). -/
namespace Sys2Proof.Machine

/-! ### Requests that a far end serves (R158, R178, R181, R183) -/

theorem telemSet_spec (s : State) (n : PortId) (stream decimate : Nat) (enable : Bool) (source : Word) : let f := farEnd s n
    ∃ t, exec (.telemSet n stream enable decimate source) s = .next t ∧ OnlyFarEnd s t n
      ∧ (6 ≤ stream → stream ≤ 13 → (farEnd t n).mbx = dropInbox 0 f.mbx
          ∧ tget {} (farEnd t n).streams stream = { enable := enable, decimate := decimate, source := source }
          ∧ ∀ k, k ≠ stream → tget {} (farEnd t n).streams k = tget {} f.streams k)
      ∧ (stream < 6 ∨ 13 < stream → farEnd t n = { f with mbx := dropInbox 0 f.mbx }) := by
  intro f
  refine ⟨_, rfl, onlyFarEnd_set s n _, fun hlo hhi => ?_, fun hout => (farEnd_updFe _ _ _).trans (if_pos hout)⟩
  rw [farEnd_updFe, if_neg (by omega)]
  exact ⟨rfl, tget_tset_same _ _ _ _, fun k hk => tget_tset_other _ _ _ _ _ hk⟩

theorem tunnelDone_spec {s : State} {n : PortId} {tag : Nat} {y : Xfer} {rest : List (Nat × Xfer)} (htw : (farEnd s n).tw = (tag, y) :: rest)
    (data : List Byte) (status : TwStatus) : let f := farEnd s n
    let bus := (link s n).caps.toNat.testBit 1 = true ∧ y.bus.toNat ≤ 1
    ∃ t st ans, exec (.tunnelTransactionDone n status data) s = .next t ∧ OnlyFarEnd s t n
      ∧ farEnd t n = { f with
          tw := rest, status := if st = 6 then f.status ||| 0x80 else f.status,
          mbx := enqueue f.mbx 3 (message 0x90 tag ([st] ++ leBytes 1 ans.length ++ [0, 0] ++ ans)) }
      ∧ (¬bus → st = 7) ∧ (bus → status ≠ 5 ∨ y.flags.toNat.testBit 0 = true → st = status)
      ∧ (bus → status = 5 → y.flags.toNat.testBit 0 = false → st = 0)
      ∧ (st = 1 ∨ st = 7 → ans = []) ∧ (st ≠ 1 → st ≠ 7 → ans = data.take y.rlen.toNat) := by
  intro f bus
  have hexec : exec (.tunnelTransactionDone n status data) s = .next (updFe s n fun f => { f with
      tw := rest, status := setBitIf (tunnelStatus (link s n).caps y status == 6) f.status 7
      mbx := enqueue f.mbx 3 (message 0x90 tag (twResult y (tunnelStatus (link s n).caps y status) data)) }) := by
    refine congrArg Host.Outcome.next ?_
    rw [htw]
  have hbus : (!(link s n).caps.toNat.testBit 1 || decide (1 < y.bus.toNat)) = true ↔ ¬bus := by
    simp [bus]
    cases (link s n).caps.toNat.testBit 1 <;> simp
  refine ⟨_, tunnelStatus (link s n).caps y status, twData y (tunnelStatus (link s n).caps y status) data, hexec, onlyFarEnd_set s n _,
    (farEnd_updFe _ _ _).trans ?_, fun hno => if_pos (hbus.2 hno), fun hb hst => ?_, fun hb h5 hflag => ?_, fun h => if_pos h, fun h1 h7 => ?_⟩
  · have hstatus : setBitIf (tunnelStatus (link s n).caps y status == 6) f.status 7
        = if tunnelStatus (link s n).caps y status = 6 then f.status ||| 0x80 else f.status := by
      by_cases h6 : tunnelStatus (link s n).caps y status = 6
      · rw [if_pos h6, h6]
        rfl
      · rw [if_neg h6, beq_eq_false_iff_ne.2 h6]
        rfl
    rw [hstatus]
    rfl
  · refine (if_neg fun h => hbus.1 h hb).trans (if_neg ?_)
    rintro ⟨h5, hf⟩
    rcases hst with h | h
    · exact h h5
    · rw [hf] at h; cases h
  · exact (if_neg fun h => hbus.1 h hb).trans (if_pos ⟨h5, hflag⟩)
  · exact if_neg (not_or.2 ⟨h1, h7⟩)

/-! ### What the controller takes of a far end (R182 to R185, R195, R260 to R262) -/

theorem onlyLink_updLink (s : State) (n : Nat) (f : Link → Link) : OnlyLink s (updLink s n f) n := onlyLink_setLink s n _

theorem cfgResult_spec (s : State) (n : PortId) (status : Byte) (words : List Word) : let l := link s n
    ∃ t, exec (.cfgResult n status words) s = .next t ∧ OnlyLink s t n ∧ link t n = { l with
      mbx := dropInbox 1 l.mbx, cfgOut := false, cfgOk := if l.cfgOut then status == 0 else l.cfgOk,
      sticky := if status = 0 then l.sticky else l.sticky ||| 0x4000000 } := by
  intro l
  by_cases h : status = 0
  · refine ⟨_, congrArg Host.Outcome.next (if_pos (by simp [h])), onlyLink_updLink s n _, (link_updLink _ _ _).trans ?_⟩
    rw [if_pos h]
  · refine ⟨_, congrArg Host.Outcome.next (if_neg (mt beq_iff_eq.1 h)), onlyLink_trans (onlyLink_updLink s n _) (onlyLink_stick _ n 26), ?_⟩
    rw [link_stick, link_updLink, if_neg h]
    rfl

theorem fwStatus_spec (s : State) (n : PortId) (status : Byte) (version : Word) : let l := link s n
    ∃ t, exec (.fwStatus n status version) s = .next t ∧ OnlyLink s t n
      ∧ (l.fwLoad ≠ 1 → link t n = { l with mbx := dropInbox 1 l.mbx })
      ∧ (l.fwLoad = 1 → status = 0 → (link t n).fwLoad = 2
          ∧ (link t n).mbx = offer (poolBytes (setLink s n { l with mbx := dropInbox 1 l.mbx })) (dropInbox 1 l.mbx) 5
              (message 0x23 l.tag []))
      ∧ (l.fwLoad = 1 → status ≠ 0 → link t n = { l with
          mbx := dropInbox 1 l.mbx, fwLoad := 0, fwStart := false, fwDone := true }) := by
  intro l
  generalize hu : (updLink s n fun l => { l with mbx := dropInbox 1 l.mbx }) = u
  have hlink : link u n = { l with mbx := dropInbox 1 l.mbx } := by rw [← hu]; exact link_updLink _ _ _
  have honly : OnlyLink s u n := hu ▸ onlyLink_updLink s n _
  have hexec : exec (.fwStatus n status version) s = .next (if (link u n).fwLoad != 1 then u
      else if status == 0 then updLink (sendMsg u n 5 0x23 []) n fun l => { l with fwLoad := 2 }
      else updLink u n fun l => { l with fwLoad := 0, fwStart := false, fwDone := true }) := by rw [← hu]; rfl
  have hload : (link u n).fwLoad = l.fwLoad := by rw [hlink]
  by_cases h1 : l.fwLoad = 1
  · rw [if_neg (by simp [hload, h1])] at hexec
    by_cases h0 : status = 0
    · rw [if_pos (by simp [h0])] at hexec
      refine ⟨_, hexec, onlyLink_trans honly (onlyLink_trans (onlyLink_updLink u n _) (onlyLink_updLink _ n _)),
        fun h => absurd h1 h, fun _ _ => ?_, fun _ h => absurd h0 h⟩
      unfold sendMsg
      rw [link_updLink, link_updLink, hlink, ← hu]
      exact ⟨rfl, rfl⟩
    · rw [if_neg (mt beq_iff_eq.1 h0)] at hexec
      refine ⟨_, hexec, onlyLink_trans honly (onlyLink_updLink _ n _), fun h => absurd h1 h, fun _ h => absurd h h0, fun _ _ => ?_⟩
      rw [link_updLink, hlink]
  · rw [if_pos (by simp [hload, h1])] at hexec
    exact ⟨_, hexec, honly, fun _ => hlink, fun h => absurd h h1, fun h => absurd h h1⟩

/-! ### Packs (R260 to R262, R364) -/

/-- From one state to another nothing changes but the packs. -/
def PacksAlone (s t : State) : Prop := t = { s with shelf := { s.shelf with packs := t.shelf.packs } }

theorem packsAlone_updPack (s : State) (p : Nat) (f : Pack → Pack) : PacksAlone s (updPack s p f) := rfl

theorem packsAlone_trans {s t u : State} (h : PacksAlone s t) (h' : PacksAlone t u) : PacksAlone s u := by
  unfold PacksAlone at *
  rw [h', h]

/-- The identity read of a pack that failed. -/
theorem takeIdent_failed {s : State} {p : Nat} {ok : Bool} {id : List Byte} (h : (!ok || id.all (· == 0)) = true) :
    PacksAlone s (takeIdent s p ok id) ∧ (∀ k, k ≠ p → pack (takeIdent s p ok id) k = pack s k)
    ∧ (pack (takeIdent s p ok id) p).idState = 0 ∧ (pack (takeIdent s p ok id) p).ident = (pack s p).ident
    ∧ (pack (takeIdent s p ok id) p).sticky = if kcfg s p 2 = 0xFF then (pack s p).sticky else (pack s p).sticky ||| 0x10 := by
  generalize hu : (updPack s p fun k => { k with idState := 0 }) = u
  have hpack : pack u p = { pack s p with idState := 0 } := hu ▸ pack_updPack s p _
  have hother (k : Nat) (hk : k ≠ p) : pack u k = pack s k := hu ▸ pack_updPack_other s p k _ hk
  have halone : PacksAlone s u := hu ▸ packsAlone_updPack s p _
  have heq : takeIdent s p ok id = if kcfg s p 2 = 0xFF then u else packStick u p 4 := by
    rw [← hu]
    exact if_pos h
  rw [heq]
  by_cases hdirect : kcfg s p 2 = 0xFF
  · rw [if_pos hdirect, if_pos hdirect, hpack]
    exact ⟨halone, hother, rfl, rfl, rfl⟩
  · rw [if_neg hdirect, if_neg hdirect]
    unfold packStick
    rw [pack_updPack, hpack]
    exact ⟨packsAlone_trans halone (packsAlone_updPack u p _), fun k hk => (pack_updPack_other u p k _ hk).trans (hother k hk), rfl, rfl, rfl⟩

/-- The identity read of a pack that succeeded. -/
theorem takeIdent_taken {s : State} {p : Nat} {ok : Bool} {id : List Byte} (h : (!ok || id.all (· == 0)) = false) :
    PacksAlone s (takeIdent s p ok id) ∧ (∀ k, k ≠ p → pack (takeIdent s p ok id) k = pack s k)
    ∧ (pack (takeIdent s p ok id) p).ident = id ∧ (pack (takeIdent s p ok id) p).idState = 1
    ∧ ((pack s p).ident ≠ [] → (pack s p).ident ≠ id → (pack (takeIdent s p ok id) p).conf = 0
        ∧ (pack (takeIdent s p ok id) p).learnOpen = false ∧ (pack (takeIdent s p ok id) p).sticky = (pack s p).sticky ||| 1)
    ∧ ((pack s p).ident = [] ∨ (pack s p).ident = id → (pack (takeIdent s p ok id) p).conf = (pack s p).conf
        ∧ (pack (takeIdent s p ok id) p).sticky = (pack s p).sticky) := by
  generalize hc : (!(pack s p).ident.isEmpty && (pack s p).ident != id) = changed
  generalize hu : (updPack s p fun k => { k with
    ident := id, idState := 1, conf := if changed then 0 else k.conf, learnOpen := if changed then false else k.learnOpen }) = u
  have hpack : pack u p = { pack s p with
      ident := id, idState := 1, conf := if changed then 0 else (pack s p).conf
      learnOpen := if changed then false else (pack s p).learnOpen } := hu ▸ pack_updPack s p _
  have hother (k : Nat) (hk : k ≠ p) : pack u k = pack s k := hu ▸ pack_updPack_other s p k _ hk
  have halone : PacksAlone s u := hu ▸ packsAlone_updPack s p _
  have heq : takeIdent s p ok id = if changed then packStick u p 0 else u := by
    rw [← hu, ← hc]
    exact if_neg (Bool.eq_false_iff.1 h)
  have hiff : changed = true ↔ (pack s p).ident ≠ [] ∧ (pack s p).ident ≠ id := by rw [← hc]; simp
  rw [heq]
  cases changed with
  | false =>
    rw [if_neg (by decide), hpack]
    refine ⟨halone, hother, rfl, rfl, fun hne hid => ?_, fun _ => ⟨rfl, rfl⟩⟩
    cases hiff.2 ⟨hne, hid⟩
  | true =>
    rw [if_pos rfl]
    unfold packStick
    rw [pack_updPack, hpack]
    obtain ⟨hne, hid⟩ := hiff.1 rfl
    exact ⟨packsAlone_trans halone (packsAlone_updPack u p _), fun k hk => (pack_updPack_other u p k _ hk).trans (hother k hk), rfl, rfl,
      fun _ _ => ⟨rfl, rfl, rfl⟩, fun hsame => (hsame.elim hne hid).elim⟩

theorem packOf_setLink (s : State) (n m : Nat) (x : Link) : packOf (setLink s n x) m = packOf s m := rfl

/-- The identity read of a pack of the port comes back (R260 to R262). -/
theorem twResult_pack {s : State} {n : PortId} {p : Nat} (hpack : packOf s n = some p) (htag : inTag (link s n).mbx 3 ∈ (link s n).idTag)
    (status : TwStatus) (data : List Byte) : ∃ t, exec (.twResult n status data) s = .next t
      ∧ t = { s with links := t.links, shelf := { s.shelf with packs := t.shelf.packs } } ∧ (∀ k, k ≠ n.val → link t k = link s k)
      ∧ (∀ k, k ≠ p → pack t k = pack s k)
      ∧ (status = 0 → (∃ b ∈ data.take 32, b ≠ 0) → (pack t p).ident = data.take 32 ∧ (pack t p).idState = 1
          ∧ ((pack s p).ident ≠ [] → (pack s p).ident ≠ data.take 32 → (pack t p).conf = 0 ∧ (pack t p).learnOpen = false
              ∧ (pack t p).sticky = (pack s p).sticky ||| 1)
          ∧ ((pack s p).ident = [] ∨ (pack s p).ident = data.take 32 → (pack t p).conf = (pack s p).conf
              ∧ (pack t p).sticky = (pack s p).sticky))
      ∧ (status ≠ 0 ∨ (∀ b ∈ data.take 32, b = 0) → (pack t p).idState = 0 ∧ (pack t p).ident = (pack s p).ident
          ∧ (pack t p).sticky = (if kcfg s p 2 = 0xFF then (pack s p).sticky else (pack s p).sticky ||| 0x10)) := by
  generalize hu : setLink s n { link s n with
      idTag := (link s n).idTag.filter fun t => t != inTag (link s n).mbx 3, mbx := dropInbox 3 (link s n).mbx } = u
  have hexec : exec (.twResult n status data) s = .next (takeIdent u p (status == 0) (data.take 32)) := by
    refine congrArg Host.Outcome.next ?_
    dsimp only
    rw [if_pos (List.contains_iff_mem.2 htag), packOf_setLink, hpack, ← hu]
  have hframe : PacksAlone u (takeIdent u p (status == 0) (data.take 32)) ∧ ∀ k, k ≠ p → pack (takeIdent u p (status == 0) (data.take 32)) k = pack u k := by
    cases h : (!(status == 0) || (data.take 32).all (· == 0)) with
    | true => exact ⟨(takeIdent_failed h).1, (takeIdent_failed h).2.1⟩
    | false => exact ⟨(takeIdent_taken h).1, (takeIdent_taken h).2.1⟩
  obtain ⟨halone, hother⟩ := hframe
  have hpacks (k : Nat) : pack u k = pack s k := by rw [← hu]; rfl
  have hkcfg : kcfg u p 2 = kcfg s p 2 := by rw [← hu]; rfl
  refine ⟨_, hexec, ?_, fun k hk => ?_, fun k hk => (hother k hk).trans (hpacks k), fun hok hid => ?_, fun hno => ?_⟩
  · rw [halone, ← hu]
    rfl
  · rw [halone, ← hu]
    exact link_setLink_other _ _ _ _ hk
  · obtain ⟨b, hb, hne⟩ := hid
    have hall : (data.take 32).all (· == 0) = false := by
      rw [List.all_eq_false]
      exact ⟨b, hb, mt beq_iff_eq.1 hne⟩
    obtain ⟨-, -, hident, hstate, hchanged, hsame⟩ := takeIdent_taken (s := u) (p := p) (ok := status == 0) (id := data.take 32)
      (by rw [hall, hok]; rfl)
    rw [hpacks] at hchanged hsame
    exact ⟨hident, hstate, hchanged, hsame⟩
  · have hfail : (!(status == 0) || (data.take 32).all (· == 0)) = true := by
      rcases hno with h | h
      · rw [beq_eq_false_iff_ne.2 h]; rfl
      · rw [Bool.or_eq_true, List.all_eq_true]
        exact .inr fun b hb => beq_iff_eq.2 (h b hb)
    obtain ⟨-, -, hstate, hident, hsticky⟩ := takeIdent_failed (s := u) (p := p) hfail
    rw [hpacks] at hident
    rw [hpacks, hkcfg] at hsticky
    exact ⟨hstate, hident, hsticky⟩

/-- A result that no identity read waits for. -/
theorem twResult_other {s : State} {n : PortId} (htag : inTag (link s n).mbx 3 ∉ (link s n).idTag) (status : TwStatus) (data : List Byte) :
    ∃ t, exec (.twResult n status data) s = .next t ∧ OnlyLink s t n ∧ (link t n).mbx = dropInbox 3 (link s n).mbx := by
  have hexec : exec (.twResult n status data) s = .next (setLink s n { link s n with
      idTag := (link s n).idTag.filter fun t => t != inTag (link s n).mbx 3, mbx := dropInbox 3 (link s n).mbx }) := by
    refine congrArg Host.Outcome.next ?_
    dsimp only
    rw [if_neg (mt List.contains_iff_mem.1 htag)]
  exact ⟨_, hexec, onlyLink_setLink s n _, by rw [link_setLink]⟩

/-! ### Events (R181, R364) -/

theorem recorder_addRecord (s : State) (n : Nat) (f : Link → Link) (code : Nat) (round : Word) (data : List Byte) :
    (addRecord (updLink s n f) code round data).recorder = (addRecord s code round data).recorder := by
  have htoken : takeToken (updLink s n f) code = takeToken s code := rfl
  have hrecorder : (updLink s n f).recorder = s.recorder := rfl
  have hbytes (supp : Nat) (seq : Word) : recBytes (updLink s n f) code supp seq round data = recBytes s code supp seq round data := rfl
  unfold addRecord
  simp only [htoken, hrecorder, hbytes]
  (repeat' split) <;> rfl

theorem packsAlone_marks (l : List Nat) : ∀ s : State, PacksAlone s (forAll l (fun s p => updPack s p fun k => { k with
    sticky := setBit k.sticky 5, idWant := true }) s) := by
  induction l with
  | nil => exact fun s => rfl
  | cons p l ih => exact fun s => packsAlone_trans (packsAlone_updPack s p _) (ih _)

theorem event_spec (s : State) (n : PortId) (code age : Nat) (stamp : Word) (data : List Byte) : let l := link s n
    ∃ t, exec (.event n code age stamp data) s = .next t ∧ t = { s with
          links := t.links, recorder := t.recorder, shelf := { s.shelf with packs := t.shelf.packs } }
      ∧ (∀ k, k ≠ n.val → link t k = link s k) ∧ (link t n).mbx = dropInbox 4 l.mbx
      ∧ let stamp := ((firstIn 4 l.mbx).map (·.2)).getD stamp
        t.recorder = (addRecord s (0x1000 + n) (stamp - BitVec.ofNat 32 age) (leBytes 2 code ++ leBytes 2 age ++ data)).recorder
      ∧ (code ≠ Config.smbalertCode.toNat → t.shelf = s.shelf) := by
  intro l
  generalize hst : ((firstIn 4 l.mbx).map (·.2)).getD stamp = st
  generalize hd : leBytes 2 code ++ leBytes 2 age ++ data = body
  have hrecorder := recorder_addRecord s n (fun l => { l with mbx := dropInbox 4 l.mbx }) (0x1000 + n) (st - BitVec.ofNat 32 age) body
  generalize hu : (updLink s n fun l => { l with mbx := dropInbox 4 l.mbx }) = u at hrecorder
  have hlink : link u n = { l with mbx := dropInbox 4 l.mbx } := by rw [← hu]; exact link_updLink _ _ _
  have honly : OnlyLink s u n := hu ▸ onlyLink_updLink s n _
  obtain ⟨r, hrec⟩ := addRecord_frame u (0x1000 + n) (st - BitVec.ofNat 32 age) body
  rw [hrec] at hrecorder
  have hr : r = (addRecord s (0x1000 + n) (st - BitVec.ofNat 32 age) body).recorder := hrecorder
  have hexec : exec (.event n code age stamp data) s = .next (if code = Config.smbalertCode.toNat then
      forAll (packsOn { u with recorder := r } n (Config.smbalertBus data).toNat)
        (fun s p => updPack s p fun k => { k with sticky := setBit k.sticky 5, idWant := true }) { u with recorder := r }
      else { u with recorder := r }) := by
    rw [← hrec, ← hst, ← hd, ← hu]
    rfl
  obtain ⟨hframe, hother⟩ := honly
  by_cases hcode : code = Config.smbalertCode.toNat
  · rw [if_pos hcode] at hexec
    have halone := packsAlone_marks (packsOn { u with recorder := r } n (Config.smbalertBus data).toNat) { u with recorder := r }
    refine ⟨_, hexec, ?_, fun k hk => ?_, ?_, ?_, fun h => absurd hcode h⟩
    · rw [halone, hframe]
    · rw [halone]
      exact hother k hk
    · rw [halone]
      exact congrArg Link.mbx hlink
    · rw [halone]
      exact hr
  · rw [if_neg hcode] at hexec
    have hshelf : u.shelf = s.shelf := by rw [hframe]
    refine ⟨_, hexec, ?_, hother, congrArg Link.mbx hlink, hr, fun _ => hshelf⟩
    rw [hframe]

/-! ### Telemetry and diagnostics (R182, R346, R347) -/

/-- From one state to another nothing changes but the interfaces. -/
def NetAlone (s t : State) : Prop := t = { s with net := t.net }

theorem netAlone_refl (s : State) : NetAlone s s := rfl

theorem netAlone_trans {s t u : State} (h : NetAlone s t) (h' : NetAlone t u) : NetAlone s u := by
  unfold NetAlone at *
  rw [h', h]

theorem netAlone_of_net {s t : State} {x : Net} (h : NetAlone { s with net := x } t) : NetAlone s t := h

theorem netAlone_lineStart (s : State) (k : Nat) (l : Line) (r : Reply) : NetAlone s (lineStart s k l r) := by
  unfold lineStart
  dsimp only
  split <;> rfl

theorem netAlone_linePump (k : Nat) : ∀ (fuel : Nat) (s : State), NetAlone s (linePump fuel s k) := by
  intro fuel
  induction fuel with
  | zero => exact fun s => rfl
  | succ fuel ih =>
    intro s
    unfold linePump
    dsimp only
    split
    · rfl
    split
    · exact netAlone_trans (netAlone_lineStart _ _ _ _) (ih _)
    · exact netAlone_trans (netAlone_lineStart _ _ _ _) (ih _)
    · split
      · rfl
      split
      · exact netAlone_of_net (ih _)
      split
      · rfl
      · exact netAlone_of_net (netAlone_trans (netAlone_lineStart _ _ _ _) (ih _))
    · rfl

theorem netAlone_lineSend (s : State) (k : Nat) (r : Reply) : NetAlone s (lineSend s k r) := by
  unfold lineSend
  dsimp only
  split
  · rfl
  · exact netAlone_of_net (netAlone_linePump _ _ _)

theorem netAlone_sendReply (s : State) (r : Reply) : NetAlone s (sendReply s r) := by
  unfold sendReply
  split
  · rfl
  split
  · exact netAlone_lineSend _ _ _
  · dsimp only
    split <;> rfl

theorem netAlone_sendTelem (s : State) (x : Sub) (count : Nat) (body : List Byte) : NetAlone s (sendTelem s x count body) := by
  unfold sendTelem
  split
  · rfl
  split
  · exact netAlone_sendReply _ _
  · exact netAlone_of_net (netAlone_sendReply _ _)

theorem line_setLine (s : State) (k : Nat) (l : Line) : line (setLine s k l) k = l := tget_tset_same _ _ _ _

theorem lineOf_telemDest (s : State) (d : Iface) : lineOf (telemDest s d) = lineOf d := by cases d <;> rfl

theorem linePump_busy {s : State} {k : Nat} (fuel : Nat) (h : 0 < (line s k).busy) : linePump (fuel + 1) s k = s := by
  unfold linePump
  exact if_pos h

theorem linePump_empty {s : State} {k : Nat} (fuel : Nat) (hbusy : ¬0 < (line s k).busy) (hurg : (line s k).urg = [])
    (hresp : (line s k).resp = []) (htel : (line s k).tel = []) : linePump (fuel + 1) s k = setLine s k { line s k with busy := 0 } := by
  unfold linePump
  dsimp only
  rw [if_neg hbusy, hurg, hresp, htel]

/-- A free line starts the telemetry that alone waits, where its bucket allows (R347). -/
theorem linePump_telem {s : State} {k : Nat} {r : Reply} {y : Session} (fuel : Nat) (hbusy : ¬0 < (line s k).busy)
    (hurg : (line s k).urg = []) (hresp : (line s k).resp = []) (htel : (line s k).tel = [r]) (hhush : s.net.hushed = false)
    (hsess : tfind s.net.sessions r.session = some y) (hroom : telemNeed k r ≤ (line s k).tokens) :
    linePump (fuel + 1) s k = linePump fuel (lineStart { s with net := { s.net with
        sessions := tput s.net.sessions r.session { y with outSeq := y.outSeq + 1 } } } k
      { line s k with tel := [], tokens := (line s k).tokens - (wireBytes k r : Nat) } { r with seq := y.outSeq + 1 }) k := by
  rw [linePump]
  dsimp only
  rw [if_neg hbusy, hurg, hresp, htel]
  dsimp only
  rw [if_neg (by simp [hhush]), hsess]
  dsimp only
  rw [if_neg (not_lt.2 hroom)]

/-- At a line where nothing waits the pump sends nothing. -/
theorem linePump_drained {s : State} {k : Nat} (fuel : Nat) (hurg : (line s k).urg = []) (hresp : (line s k).resp = [])
    (htel : (line s k).tel = []) : (linePump (fuel + 1) s k).net.out = s.net.out
      ∧ (linePump (fuel + 1) s k).net.sessions = s.net.sessions
      ∧ (line (linePump (fuel + 1) s k) k).tokens = (line s k).tokens := by
  by_cases hbusy : 0 < (line s k).busy
  · rw [linePump_busy fuel hbusy]
    exact ⟨rfl, rfl, rfl⟩
  · rw [linePump_empty fuel hbusy hurg hresp htel, line_setLine]
    exact ⟨rfl, rfl, rfl⟩

theorem lineStart_spec {s : State} {k : Nat} {l : Line} {r : Reply} (hz : s.boot.highZ = false) :
    (lineStart s k l r).net.out = s.net.out ++ [r] ∧ (lineStart s k l r).net.sessions = s.net.sessions
    ∧ ∃ b, line (lineStart s k l r) k = { l with busy := b } := by
  have heq : lineStart s k l r = { setLine s k { l with busy := q40 (l.busy + (wireBytes k r : Nat) / lineRate s k) } with
      net := { (setLine s k { l with busy := q40 (l.busy + (wireBytes k r : Nat) / lineRate s k) }).net with out := s.net.out ++ [r] } } :=
    if_neg (by simp [hz])
  rw [heq]
  exact ⟨rfl, rfl, _, line_setLine s k _⟩

section Sub
variable {s : State} {x : Sub} {y : Session} (hsess : tfind s.net.sessions x.session = some y) (hz : s.boot.highZ = false)
include hsess hz

/-- Telemetry for a subscriber that no line serves. -/
theorem sendTelem_direct (hline : lineOf x.dest = none) (hsmb : x.dest ≠ .smb) (count : Nat) (body : List Byte) :
    sendTelem s x count body = { s with net := { s.net with
      sessions := tput s.net.sessions x.session { y with outSeq := y.outSeq + 1 }
      out := s.net.out ++ [⟨telemDest s x.dest, 0x21, x.session, y.outSeq + 1, 0, count, body⟩] } } := by
  have hdest : telemDest s x.dest = x.dest := by
    unfold telemDest
    split
    · next e p q h => rw [h] at hline; cases hline
    · rfl
  unfold sendTelem
  rw [hsess, hline, hdest]
  refine (if_neg (by simpa [setSession] using hz)).trans ?_
  rw [hline]
  exact if_neg (by simpa using hsmb)

theorem sendTelem_line {k : Nat} (hline : lineOf x.dest = some k) (hruns : domainRuns s = true) (count : Nat) (body : List Byte) :
    sendTelem s x count body = linePump (lineLoad { line s k with
        tel := (line s k).tel ++ [⟨telemDest s x.dest, 0x21, x.session, 0, 0, count, body⟩] } + 1)
      (setLine s k { line s k with tel := (line s k).tel ++ [⟨telemDest s x.dest, 0x21, x.session, 0, 0, count, body⟩] }) k := by
  unfold sendTelem
  rw [hsess, hline]
  refine (if_neg (by simp [hz])).trans ?_
  rw [lineOf_telemDest, hline]
  refine (if_neg (by simp [hruns])).trans ?_
  rfl

/-- A busy line keeps the telemetry. -/
theorem sendTelem_busy {k : Nat} (hline : lineOf x.dest = some k) (hruns : domainRuns s = true) (hbusy : 0 < (line s k).busy)
    (count : Nat) (body : List Byte) : (sendTelem s x count body).net.out = s.net.out
      ∧ (line (sendTelem s x count body) k).tel = (line s k).tel ++ [⟨telemDest s x.dest, 0x21, x.session, 0, 0, count, body⟩] := by
  rw [sendTelem_line hsess hz hline hruns, linePump_busy _ (by rw [line_setLine]; exact hbusy), line_setLine]
  exact ⟨rfl, rfl⟩

/-- A free line sends it, where its bucket allows. -/
theorem sendTelem_free {k : Nat} (hline : lineOf x.dest = some k) (hruns : domainRuns s = true) (hhush : s.net.hushed = false)
    (hbusy : (line s k).busy ≤ 0) (hurg : (line s k).urg = []) (hresp : (line s k).resp = []) (htel : (line s k).tel = [])
    (count : Nat) (body : List Byte)
    (hroom : telemNeed k ⟨telemDest s x.dest, 0x21, x.session, 0, 0, count, body⟩ ≤ (line s k).tokens) :
    (sendTelem s x count body).net.out = s.net.out ++ [⟨telemDest s x.dest, 0x21, x.session, y.outSeq + 1, 0, count, body⟩]
    ∧ (sendTelem s x count body).net.sessions = tput s.net.sessions x.session { y with outSeq := y.outSeq + 1 }
    ∧ (line (sendTelem s x count body) k).tokens
      = (line s k).tokens - (wireBytes k ⟨telemDest s x.dest, 0x21, x.session, 0, 0, count, body⟩ : Nat) := by
  generalize hr : (⟨telemDest s x.dest, 0x21, x.session, 0, 0, count, body⟩ : Reply) = r at hroom ⊢
  have hrsess : r.session = x.session := by rw [← hr]
  generalize hl : ({ line s k with tel := (line s k).tel ++ [r] } : Line) = l
  have hload : lineLoad l = 1 := by rw [← hl]; simp [lineLoad, hurg, hresp, htel]
  have hsend := sendTelem_line hsess hz hline hruns count body
  rw [hr, hl, hload] at hsend
  have hline' := line_setLine s k l
  rw [linePump_telem (s := setLine s k l) (y := y) (r := r) 1 (by rw [hline', ← hl]; exact not_lt.2 hbusy) (by rw [hline', ← hl]; exact hurg)
    (by rw [hline', ← hl]; exact hresp) (by rw [hline', ← hl, htel]; rfl) hhush (by rw [hrsess]; exact hsess)
    (by rw [hline', ← hl]; exact hroom), hline'] at hsend
  generalize hv : ({ setLine s k l with net := { (setLine s k l).net with
      sessions := tput (setLine s k l).net.sessions r.session { y with outSeq := y.outSeq + 1 } } } : State) = v at hsend
  have hvz : v.boot.highZ = false := by rw [← hv]; exact hz
  obtain ⟨hout, hsessions, b, hbline⟩ := lineStart_spec (s := v) (k := k)
    (l := { l with tel := [], tokens := l.tokens - (wireBytes k r : Nat) }) (r := { r with seq := y.outSeq + 1 }) hvz
  obtain ⟨dout, dsessions, dtokens⟩ := linePump_drained 0 (by rw [hbline, ← hl]; exact hurg) (by rw [hbline, ← hl]; exact hresp)
    (by rw [hbline])
  rw [hsend]
  refine ⟨(dout.trans hout).trans ?_, (dsessions.trans hsessions).trans ?_, dtokens.trans ?_⟩
  · rw [← hv, ← hr]
    rfl
  · rw [← hv, ← hr]
    rfl
  · rw [hbline, ← hl]

end Sub

/-- The message of a telemetry stream for one subscriber (R182, R346). -/
def telemBody (subId dropped : Nat) (stamp : Word) (data : List Byte) : List Byte :=
  leBytes 1 subId ++ [0] ++ leBytes 2 dropped ++ wordBytes stamp ++ data

/-- The subscribers of a telemetry stream. -/
def telemSubs (s : State) (n queue : Nat) : List Sub := s.net.subs.filter fun x => x.items.contains (0x3000 + n, 0xF0 + queue)

theorem netAlone_telems (dropped : Nat) (stamp : Word) (data : List Byte) (l : List Sub) : ∀ s : State,
    NetAlone s (l.foldl (fun s x => sendTelem s x 1 (telemBody x.subId dropped stamp data)) s) := by
  induction l with
  | nil => exact netAlone_refl
  | cons x l ih => exact fun s => netAlone_trans (netAlone_sendTelem s x 1 _) (ih _)

theorem telem_spec (s : State) (n : PortId) (queue dropped : Nat) (stamp : Word) (data : List Byte) : let l := link s n
    ∃ t, exec (.telem n queue dropped stamp data) s = .next t ∧ t = { s with links := t.links, net := t.net }
      ∧ (∀ k, k ≠ n.val → link t k = link s k) ∧ (link t n).mbx = dropInbox queue l.mbx
      ∧ (s.net.hushed = true ∨ queue < 6 ∨ 13 < queue → t.net = s.net)
      ∧ (∀ x y, s.net.hushed = false → s.boot.highZ = false → 6 ≤ queue → queue ≤ 13 →
          tfind s.net.sessions x.session = some y
            → (s.net.subs.filter fun x => x.items.contains (0x3000 + n.val, 0xF0 + queue)) = [x] →
          let stamp := ((firstIn queue l.mbx).map (·.2)).getD stamp
          let r : Reply := ⟨telemDest s x.dest, 0x21, x.session, y.outSeq + 1, 0, 1,
            leBytes 1 x.subId ++ [0] ++ leBytes 2 dropped ++ wordBytes stamp ++ data⟩
          (lineOf x.dest = none → x.dest ≠ .smb → t.net = { s.net with
              sessions := tput s.net.sessions x.session { y with outSeq := y.outSeq + 1 }, out := s.net.out ++ [r] })
          ∧ ∀ k, lineOf x.dest = some k → domainRuns s = true →
            (0 < (line s k).busy → t.net.out = s.net.out ∧ (line t k).tel = (line s k).tel ++ [{ r with seq := 0 }])
            ∧ ((line s k).busy ≤ 0 → (line s k).urg = [] → (line s k).resp = [] → (line s k).tel = [] →
              telemNeed k r ≤ (line s k).tokens → t.net.out = s.net.out ++ [r]
                ∧ t.net.sessions = tput s.net.sessions x.session { y with outSeq := y.outSeq + 1 }
                ∧ (line t k).tokens = (line s k).tokens - (wireBytes k r : Nat))) := by
  intro l
  generalize hst : ((firstIn queue l.mbx).map (·.2)).getD stamp = st
  generalize hu : (updLink s n fun l => { l with mbx := dropInbox queue l.mbx }) = u
  have hlink : link u n = { l with mbx := dropInbox queue l.mbx } := by rw [← hu]; exact link_updLink _ _ _
  obtain ⟨hframe, hother⟩ : OnlyLink s u n := hu ▸ onlyLink_updLink s n _
  have hnet : u.net = s.net := by rw [hframe]
  have hexec : exec (.telem n queue dropped stamp data) s = .next (if s.net.hushed || !(decide (6 ≤ queue) && decide (queue ≤ 13)) then u
      else (telemSubs s n queue).foldl (fun s x => sendTelem s x 1 (telemBody x.subId dropped st data)) u) := by
    rw [← hst, ← hu]
    rfl
  by_cases hout : (s.net.hushed || !(decide (6 ≤ queue) && decide (queue ≤ 13))) = true
  · rw [if_pos hout] at hexec
    refine ⟨u, hexec, ?_, hother, by rw [hlink], fun _ => hnet, fun x y hhush _ hlo hhi => ?_⟩
    · rw [hframe]
    · rw [hhush, decide_eq_true hlo, decide_eq_true hhi] at hout
      cases hout
  · rw [if_neg hout] at hexec
    have halone := netAlone_telems dropped st data (telemSubs s n queue) u
    generalize hw : (telemSubs s n queue).foldl (fun s x => sendTelem s x 1 (telemBody x.subId dropped st data)) u = w at hexec halone
    refine ⟨w, hexec, ?_, fun k hk => ?_, ?_, fun h => (hout ?_).elim, fun x y hhush hz hlo hhi hsess hsubs => ?_⟩
    · rw [halone, hframe]
    · rw [halone]
      exact hother k hk
    · rw [halone]
      exact congrArg Link.mbx hlink
    · rcases h with h | h | h
      · rw [h]; rfl
      · simp [Nat.not_le.2 h]
      · simp [Nat.not_le.2 h]
    · have hsend : w = sendTelem u x 1 (telemBody x.subId dropped st data) := by
        rw [← hw, show telemSubs s n queue = [x] from hsubs]
        rfl
      have husess : tfind u.net.sessions x.session = some y := by rw [hnet]; exact hsess
      have huz : u.boot.highZ = false := by rw [hframe]; exact hz
      have hdest : telemDest u x.dest = telemDest s x.dest := by rw [hframe]; rfl
      have hline (k : Nat) : line u k = line s k := by rw [hframe]; rfl
      have hruns : domainRuns u = domainRuns s := by rw [hframe]; rfl
      rw [hsend]
      refine ⟨fun hnone hsmb => ?_, fun k hk hrun => ⟨fun hbusy => ?_, fun hbusy hurg hresp htel hroom => ?_⟩⟩
      · rw [sendTelem_direct husess huz hnone hsmb, hdest, hnet]
        rfl
      · have hb := sendTelem_busy husess huz hk (hruns.trans hrun) (by rw [hline]; exact hbusy) 1 (telemBody x.subId dropped st data)
        rw [hline, hnet, hdest] at hb
        exact hb
      · have hf := sendTelem_free husess huz hk (hruns.trans hrun) (by rw [hnet]; exact hhush) (by rw [hline]; exact hbusy)
          (by rw [hline]; exact hurg) (by rw [hline]; exact hresp) (by rw [hline]; exact htel) 1 (telemBody x.subId dropped st data)
          (by rw [hline, hdest]; exact hroom)
        rw [hline, hnet, hdest] at hf
        exact hf

/-- Settles O36: the requests that a far end serves, then what the controller takes of it. -/
theorem mailboxMessagesAreServed : Obligations.MailboxMessagesAreServed := by
  refine ⟨fun s n stream decimate bus enable source x data status => ⟨telemSet_spec s n stream decimate enable source,
    ⟨_, rfl, onlyFarEnd_set s n _, farEnd_updFe _ _ _⟩, fun tag y rest htw => tunnelDone_spec htw data status,
    ⟨_, rfl, onlyFarEnd_set s n _, farEnd_updFe _ _ _⟩, ⟨_, rfl, onlyFarEnd_set s n _, farEnd_updFe _ _ _⟩⟩,
    fun s n status words version stamp data code age queue dropped => ⟨cfgResult_spec s n status words, fwStatus_spec s n status version,
    fun p hp htag => twResult_pack hp htag status data, fun htag => twResult_other htag status data, event_spec s n code age stamp data,
    telem_spec s n queue dropped stamp data, ⟨_, rfl, onlyLink_updLink s n _, link_updLink _ _ _⟩⟩⟩

end Sys2Proof.Machine
end

section
/-! PROOFS. START, STOP, delays and ramps of a port (R196, R198 to R200). -/
namespace Sys2Proof.Machine

/-! ### The commands (R198) -/

/-- A port command that is accepted waits for its seam and is told to the mate. -/
theorem portCmd_waits {c : Instr} {s : State} {lvl : Level} {n : PortId} {v : Nat} (hobj : objectOf c = some (lvl, 0x3100 + n.val, 1, v))
    (hadm : Admits s lvl (0x3100 + n) 1 v) (hcmd : portCmd (taken s) n v = (stOK, queueCmd (taken s) n v)) :
    ∃ t, exec c s = .next (sendCtrl t (.command (0x3100 + n) 1 v)) ∧ t = { answered s stOK with ctls := t.ctls }
      ∧ (∀ k, k ≠ n.val → ctl t k = ctl s k)
      ∧ ctl t n = { ctl s n with pend := ((ctl s n).pend.filter fun p => p.2 != skipNow s) ++ [(v, skipNow s)] } := by
  have heff : effect (taken s) (0x3100 + n) 1 v = (stOK, sendCtrl (queueCmd (taken s) n v) (.command (0x3100 + n) 1 v)) := by
    rw [effect_port n.isLt]
    refine (if_pos rfl : effect3100 _ _ _ _ = _).trans ?_
    rw [hcmd]
    rfl
  have hexec := exec_admitted hobj hadm
  rw [dropReserved_port n.isLt (by decide), heff, withStatus_sendCtrl] at hexec
  exact ⟨_, hexec, rfl, fun k hk => ctl_setCtl_other _ _ _ _ hk, ctl_setCtl _ _ _⟩

theorem stop_waits {s : State} {lvl : Level} {n : PortId} (hadm : Admits s lvl (0x3100 + n) 1 2) :
    ∃ t, exec (.stop lvl n) s = .next (sendCtrl t (.command (0x3100 + n) 1 2)) ∧ t = { answered s stOK with ctls := t.ctls }
      ∧ (∀ k, k ≠ n.val → ctl t k = ctl s k)
      ∧ ctl t n = { ctl s n with pend := ((ctl s n).pend.filter fun p => p.2 != skipNow s) ++ [(2, skipNow s)] } :=
  portCmd_waits rfl hadm rfl

/-- The conditions of a START (R198). -/
def startable (s : State) (n : Nat) : Prop :=
  (link s n).state = .ready ∧ 0 < latestF s (0x3100 + n) 7 ∧ latestF s (0x3100 + n) 7 < latestF s (0x3100 + n) 9
    ∧ (isVolt (clsOf s n) = true → 0 < latestF s (0x3100 + n) 6) ∧ (link s n).cfgOk = true ∧ (link s n).fwLoad = 0
      ∧ 2 * (ctl s n).heat < 2 ^ 48
    ∧ (clsOf s n = 4 → (ctl s n).presence = true)

theorem startStatus_cases (s : State) (n : Nat) :
    (startable s n → startStatus (taken s) n = stOK) ∧ (¬startable s n → startStatus (taken s) n = stState) := by
  have hiff : ((link s n).state == .ready && decide (0 < latestF s (0x3100 + n) 7)
      && decide (latestF s (0x3100 + n) 7 < latestF s (0x3100 + n) 9)
      && (!isVolt (clsOf s n) || decide (0 < latestF s (0x3100 + n) 6)) && (link s n).cfgOk && (link s n).fwLoad == 0
      && decide (2 * (ctl s n).heat < 2 ^ 48) && (clsOf s n != 4 || (ctl s n).presence)) = true ↔ startable s n := by
    unfold startable
    rw [imp_iff_not_or (a := isVolt (clsOf s n) = true), imp_iff_not_or (a := clsOf s n = 4)]
    simp only [Bool.and_eq_true, Bool.or_eq_true, beq_iff_eq, bne_iff_ne, decide_eq_true_eq, Bool.not_eq_true', Bool.not_eq_true, and_assoc, ne_eq]
  exact ⟨fun h => if_pos (hiff.2 h), fun h => if_neg fun h' => h (hiff.1 h')⟩

theorem start_spec {s : State} {lvl : Level} {n : PortId} (hadm : Admits s lvl (0x3100 + n) 1 1) :
    (startable s n → ∃ t, exec (.start lvl n) s = .next (sendCtrl t (.command (0x3100 + n) 1 1)) ∧ t = { answered s stOK with ctls := t.ctls }
      ∧ (∀ k, k ≠ n.val → ctl t k = ctl s k)
      ∧ ctl t n = { ctl s n with pend := ((ctl s n).pend.filter fun p => p.2 != skipNow s) ++ [(1, skipNow s)] })
    ∧ (¬startable s n → exec (.start lvl n) s = .next (answered s stState)) := by
  obtain ⟨hyes, hno⟩ := startStatus_cases s n
  have hcmd : portCmd (taken s) n 1 = (startStatus (taken s) n, if startStatus (taken s) n = stOK then queueCmd (taken s) n 1 else taken s) := rfl
  refine ⟨fun hready => portCmd_waits rfl hadm ?_, fun hready => ?_⟩
  · rw [hcmd, hyes hready]
    rfl
  · have heff : effect (taken s) (0x3100 + n) 1 1 = (stState, taken s) := by
      rw [effect_port n.isLt]
      refine (if_pos rfl : effect3100 _ _ _ _ = _).trans ?_
      rw [hcmd, hno hready]
      rfl
    have hexec := exec_admitted (c := .start lvl n) rfl hadm
    rw [dropReserved_port n.isLt (by decide), heff] at hexec
    exact hexec

/-! ### Delays and ramps (R199, R200) -/

theorem onlyCtl_updCtl (s : State) (n : Nat) (f : Ctl → Ctl) : OnlyCtl s (updCtl s n f) n :=
  ⟨rfl, fun _ hk => ctl_updCtl_other _ _ _ _ hk⟩

theorem onDelay_spec {s : State} {n : PortId} (hstate : (link s n).state = .starting) (hcls : clsOf s n ≠ 4)
    (hramp : (ctl s n).ramp = none) : let wait := Nat.max (stepOr (ctl s n).vals.onDelay (pcfg s n 2)) 4
    ((ctl s n).since < wait → exec (.onDelay n) s = .next s)
    ∧ (wait ≤ (ctl s n).since → ∃ t, exec (.onDelay n) s = .next t ∧ OnlyCtl s t n
      ∧ (ctl t n).ramp = some (0, stepOr (ctl s n).vals.rampUp (pcfg s n 3))
      ∧ (ctl t n).rampFrom = (if isVolt (clsOf s n) then regV s n else 0)) := by
  intro wait
  have hdue : onDelayDue s n = decide (wait ≤ (ctl s n).since) := by
    simp [onDelayDue, hstate, hcls, hramp, wait]
  refine ⟨fun h => congrArg Host.Outcome.next (if_neg ?_), fun h => ⟨_, congrArg Host.Outcome.next (if_pos ?_), ?_, ?_⟩⟩
  · rw [hdue, decide_eq_true_eq]
    exact Nat.not_le.2 h
  · rw [hdue, decide_eq_true h]
  · exact onlyCtl_updCtl s n fun c => { c with ramp := some (0, stepOr (ctl s n).vals.rampUp (pcfg s n 3)), rampFrom := rampBegin s n }
  · unfold onDelayNow
    rw [ctl_updCtl]
    exact ⟨rfl, rfl⟩

theorem offDelay_spec {s : State} {n : PortId} (hstate : (link s n).state = .stopping) (hdown : (ctl s n).down = false)
    (hready : (ctl s n).readyNext = false) : let wait := stepOr (ctl s n).vals.offDelay (pcfg s n 4)
    ((ctl s n).since < wait → exec (.offDelay n) s = .next s)
    ∧ (wait ≤ (ctl s n).since → ∃ t, exec (.offDelay n) s = .next t ∧ OnlyCtl s t n
      ∧ let all := ((ctl s n).ramp.map (·.2)).getD 0
        (clsOf s n = 4 ∨ all = 0 → runBit t n = false ∧ ctl t n = { ctl s n with
          bypass := false, down := true, readyNext := true, ramp := some (0, 0), value := 0 })
        ∧ (clsOf s n ≠ 4 → all ≠ 0 → ctl t n = { ctl s n with down := true, ramp := some (0, all), rampFrom := (ctl s n).value }
            ∧ runBit t n = (ctl s n).cmd.run)) := by
  intro wait
  have hdue : offDue s n = decide (wait ≤ (ctl s n).since) := by simp [offDue, hstate, hdown, hready, wait]
  refine ⟨fun h => congrArg Host.Outcome.next (if_neg ?_), fun h => ⟨_, congrArg Host.Outcome.next (if_pos ?_), ?_, fun hoff => ?_,
    fun hcls hall => ?_⟩⟩
  · rw [hdue, decide_eq_true_eq]
    exact Nat.not_le.2 h
  · rw [hdue, decide_eq_true h]
  · unfold offNow
    dsimp only
    split <;> exact onlyCtl_updCtl s n _
  · have heq : offNow s n = updCtl s n fun c => { c with bypass := false, down := true, readyNext := true, ramp := some (0, 0), value := 0 } :=
      if_pos hoff
    rw [heq]
    refine ⟨?_, ctl_updCtl _ _ _⟩
    simp [runBit, hstate]
  · have heq : offNow s n = updCtl s n fun c => { c with down := true, ramp := some (0, ((ctl s n).ramp.map (·.2)).getD 0), rampFrom := c.value } :=
      if_neg (not_or.2 ⟨hcls, hall⟩)
    have hcls' : clsOf (offNow s n) n ≠ 4 := by rw [heq]; exact hcls
    have hlink : (link (offNow s n) n).state = .stopping := by rw [heq]; exact hstate
    refine ⟨by rw [heq, ctl_updCtl], ?_⟩
    unfold runBit
    dsimp only
    rw [if_neg hcls', hlink, heq, ctl_updCtl]
    dsimp only
    rw [hready]
    cases (ctl s n).cmd.run <;> rfl

theorem rampDown_spec {s : State} {n : PortId} {k all : Nat} (hstate : (link s n).state = .stopping) (hdown : (ctl s n).down = true)
    (hready : (ctl s n).readyNext = false) (hramp : (ctl s n).ramp = some (k, all)) :
    (k = 0 ∨ k < all → exec (.rampDownComplete n) s = .next s)
    ∧ (0 < k → all ≤ k → ∃ t, exec (.rampDownComplete n) s = .next t ∧ OnlyCtl s t n
      ∧ ctl t n = { ctl s n with readyNext := true, ramp := some (0, 0), value := 0 } ∧ runBit t n = false) := by
  have hdue : downDue s n = decide (0 < k ∧ all ≤ k) := by simp [downDue, hstate, hdown, hready, hramp]
  refine ⟨fun h => congrArg Host.Outcome.next (if_neg ?_), fun hk hall => ⟨_, congrArg Host.Outcome.next (if_pos ?_), onlyCtl_updCtl s n _,
    ctl_updCtl _ _ _, ?_⟩⟩
  · rw [hdue, decide_eq_true_eq]
    omega
  · rw [hdue, decide_eq_true ⟨hk, hall⟩]
  · simp [runBit, downNow, hstate]

/-- A port that comes to run takes no reset with it. -/
theorem setPState_running {s : State} {n : Nat} (h : (link s n).state = .starting) :
    ∃ p, setPState s n .running = { updLink s n (fun l => { l with state := .running }) with shelf := { s.shelf with packs := p } }
    ∧ ∀ k, tget {} p k = pack s k := by
  have hkeep (q : Pack) : ({ q with idWant := q.idWant || false } : Pack) = q := by rw [Bool.or_false]
  unfold setPState
  dsimp only
  rw [h, if_neg (by decide), if_pos (by decide)]
  split
  · next q _ =>
    refine ⟨_, rfl, fun k => ?_⟩
    by_cases hk : k = q
    · subst hk
      exact (tget_tset_same _ _ _ _).trans (hkeep _)
    · exact tget_tset_other _ _ _ _ _ hk
  · exact ⟨s.shelf.packs, rfl, fun _ => rfl⟩

theorem rampComplete_spec {s : State} {n : PortId} {k all : Nat} (hstate : (link s n).state = .starting)
    (hramp : (ctl s n).ramp = some (k, all)) :
    (k = 0 ∨ k < all → exec (.rampComplete n) s = .next s)
    ∧ (0 < k → all ≤ k → ∃ t, exec (.rampComplete n) s = .next t
      ∧ t = { s with links := t.links, ctls := t.ctls, shelf := t.shelf }
      ∧ PortsStand s t [n.val] ∧ (∀ p, pack t p = pack s p) ∧ link t n = { link s n with state := .running }
      ∧ ctl t n = { ctl s n with ramp := none, value := q40 (rampTarget s n) }) := by
  have hdue : rampDue s n = decide (0 < k ∧ all ≤ k) := by simp [rampDue, hstate, hramp]
  obtain ⟨p, hrun, hpacks⟩ := setPState_running hstate
  have hcls : clsOf (setPState s n .running) n = clsOf s n := congrArg (fun l => l.cls.toNat) (link_setPState_same s n .running)
  have htarget : rampTarget (setPState s n .running) n = rampTarget s n := by
    unfold rampTarget
    rw [hcls, hrun]
    rfl
  have hctl (m : Nat) : ctl (setPState s n .running) m = ctl s m := by rw [hrun]; rfl
  have heq : rampNow s n = updCtl (setPState s n .running) n fun c => { c with ramp := none, value := q40 (rampTarget s n) } := by
    rw [← htarget]
    rfl
  refine ⟨fun h => congrArg Host.Outcome.next (if_neg ?_), fun hk hall => ⟨rampNow s n, congrArg Host.Outcome.next (if_pos ?_), ?_⟩⟩
  · rw [hdue, decide_eq_true_eq]
    omega
  · rw [hdue, decide_eq_true ⟨hk, hall⟩]
  rw [heq]
  refine ⟨?_, (moves_trans (moves_setPState s n .running) (moves_updCtl _ n _)).stand, fun q => ?_, ?_, ?_⟩
  · rw [hrun]
    rfl
  · rw [hrun]
    exact hpacks q
  · exact link_setPState_same s n .running
  · rw [ctl_updCtl, hctl]

/-- Settles O37: the commands at the seam's queue, then the delays and ramps. -/
theorem portsStartAndStop : Obligations.PortsStartAndStop := by
  refine ⟨fun s lvl n => ⟨stop_waits, start_spec⟩, fun s n => onDelay_spec, fun s n k all => rampComplete_spec, fun s n => offDelay_spec,
    fun s n k all => rampDown_spec⟩

end Sys2Proof.Machine
end

section
/-! PROOFS. Overload, saturation, insertion and inrush of a port (R205 to R208, R212 to R214). -/
namespace Sys2Proof.Machine

/-! ### A trip -/

/-- A port that trips: held, with its reason, in HEM where it can be. -/
def TripsAs (s t : State) (n : Nat) (bits : Word) (reason : Byte) : Prop := OnlyPorts s t ∧ PortsStand s t [n]
  ∧ EntersHem s t n ∧ (link t n).sticky = (link s n).sticky ||| bits ∧ (ctl t n).tripped = true
  ∧ (ctl t n).tripReason = reason ∧ (ctl t n).heat = (ctl s n).heat ∧ portHeld t n = true

theorem heat_tripPort (s : State) (n : Nat) (reason : Byte) : (ctl (tripPort s n reason) n).heat = (ctl s n).heat := by
  refine (congrArg Ctl.heat (ctl_trigger _ _ _)).trans ((ctl_portToHem_keeps (view := Ctl.heat) (fun _ => rfl) (fun _ => rfl) _ n).trans ?_)
  rw [ctl_updCtl]

theorem trips_tripPort {s u : State} {n : Nat} {bits : Word} (hmoves : Moves [n] s u) (hstate : (link u n).state = (link s n).state)
    (hsticky : (link u n).sticky = (link s n).sticky ||| bits) (hheat : (ctl u n).heat = (ctl s n).heat) (reason : Byte) :
    TripsAs s (tripPort u n reason) n bits reason := by
  obtain ⟨htripped, hreason, hlink, -, -⟩ := tripPort_spec u n reason
  have hlink' : link (tripPort u n reason) n = hemmed (link u n) := (hlink n).trans (if_pos rfl)
  obtain ⟨hframe, hstand⟩ := moves_trans hmoves (moves_tripPort u n reason)
  refine ⟨hframe, hstand, ?_, ?_, htripped, hreason, (heat_tripPort u n reason).trans hheat, ?_⟩
  · unfold EntersHem
    rw [hlink', state_hemmed, hstate]
  · rw [hlink', hemmed_sticky, hsticky]
  · simp [portHeld, htripped]

theorem trips_stick (s : State) (n bit : Nat) (reason : Byte) : TripsAs s (tripPort (stick s n bit) n reason) n (bitW bit) reason :=
  trips_tripPort (moves_stick s n bit) (by rw [link_stick]) (by rw [link_stick]; rfl) rfl reason

/-! ### Overload (R205 to R207) -/

theorem overload_trips {s : State} {n : PortId} (hheat : 2 ^ 48 ≤ (ctl s n).heat)
    (h : breakerOn s n = true ∨ (ctl s n).tripped = false ∨ (ctl s n).tripReason ≠ 1) :
    ∃ t, exec (.overload n) s = .next t ∧ TripsAs s t n 0x40000 1 := by
  have hcause : (breakerOn s n || !(ctl s n).tripped || (ctl s n).tripReason != 1) = true := by
    rw [Bool.or_eq_true, Bool.or_eq_true, Bool.not_eq_true', bne_iff_ne, or_assoc]
    exact h
  refine ⟨_, congrArg Host.Outcome.next (if_pos ?_), trips_stick s n 18 1⟩
  unfold overloadDue
  dsimp only
  rw [decide_eq_true hheat, hcause]
  rfl

theorem breakerOn_live {s : State} {n : Nat} (hlive : (link s n).state = .starting ∨ (link s n).state = .running)
    (hbattery : clsOf s n = 4 → (link s n).state = .running ∧ (ctl s n).bypass = true) : breakerOn s n = true := by
  unfold breakerOn
  by_cases hcls : clsOf s n = 4
  · obtain ⟨hrun, hbypass⟩ := hbattery hcls
    rw [if_pos hcls, hrun, hbypass]
    rfl
  · rw [if_neg hcls]
    rcases hlive with h | h <;> rw [h] <;> rfl

/-! ### Saturation (R208, R212) -/

theorem satAction_spec {s : State} {n : PortId} (hsat : (ctl s n).satNow = true)
    (hlive : (link s n).state = .starting ∨ (link s n).state = .running) (htime : pcfg s n 0x0D ≤ (ctl s n).satRun) :
    (pcfg s n 0x0E = 1 ∧ (ctl s n).reduced = false → ∃ t, exec (.satAction n) s = .next t
      ∧ t = { s with links := t.links, ctls := t.ctls } ∧ PortsStand s t [n.val]
      ∧ link t n = { link s n with sticky := (link s n).sticky ||| 0x100000 }
      ∧ ctl t n = { ctl s n with reduced := true, satRun := 0 })
    ∧ (¬(pcfg s n 0x0E = 1 ∧ (ctl s n).reduced = false) → ∃ t, exec (.satAction n) s = .next t ∧ TripsAs s t n 0x100000 2) := by
  have hdue : satDue s n = true := by
    unfold satDue
    dsimp only
    rw [hsat, decide_eq_true htime]
    rcases hlive with h | h <;> rw [h] <;> rfl
  have hact : satAct s n = if pcfg s n 0x0E == 1 && !(ctl s n).reduced then updCtl (stick s n 20) n fun c => { c with reduced := true, satRun := 0 }
      else tripPort (updCtl (stick s n 20) n fun c => { c with satRun := 0 }) n 2 := rfl
  have hiff : (pcfg s n 0x0E == 1 && !(ctl s n).reduced) = true ↔ pcfg s n 0x0E = 1 ∧ (ctl s n).reduced = false := by simp
  have hexec : exec (.satAction n) s = .next (satAct s n) := congrArg Host.Outcome.next (if_pos hdue)
  rw [hact] at hexec
  refine ⟨fun h => ?_, fun h => ?_⟩
  · rw [if_pos (hiff.2 h)] at hexec
    exact ⟨_, hexec, rfl, (moves_trans (moves_stick s n 20) (moves_updCtl _ n _)).stand, link_stick s n 20, ctl_updCtl _ _ _⟩
  · rw [if_neg fun h' => h (hiff.1 h')] at hexec
    have hlink : link (updCtl (stick s n 20) n fun c => { c with satRun := 0 }) n = { link s n with sticky := setBit (link s n).sticky 20 } :=
      link_stick s n 20
    exact ⟨_, hexec, trips_tripPort (moves_trans (moves_stick s n 20) (moves_updCtl _ n _)) (by rw [hlink]) (by rw [hlink]; rfl)
      (by rw [ctl_updCtl]; rfl) 2⟩

/-! ### Insertion and inrush (R213, R214) -/

theorem insDebounce_spec {s : State} {n : PortId} (hstate : (link s n).state = .starting) (hstage : (ctl s n).insStage = 2)
    (htime : pcfg s n 0x16 ≤ (ctl s n).insRun) :
    ∃ t, exec (.insDebounce n) s = .next t ∧ OnlyCtl s t n ∧ ctl t n = { ctl s n with insStage := 3, insRun := 0 } := by
  refine ⟨_, congrArg Host.Outcome.next (if_pos ?_), onlyCtl_updCtl s n _, ctl_updCtl _ _ _⟩
  simp [debounceDue, hstate, hstage, htime]

/-- A port with its own bypass conducts while it charges what was inserted. -/
theorem runBit_inrush {s : State} {n : Nat} (hcls : clsOf s n = 4) (hstate : (link s n).state = .starting)
    (hstage : (ctl s n).insStage = 4) : runBit s n = true := by
  unfold runBit
  dsimp only
  rw [if_pos hcls, hstate, hstage]
  exact Bool.or_true _

theorem insDelay_spec {s : State} {n : PortId} (hstate : (link s n).state = .starting) (hstage : (ctl s n).insStage = 3)
    (htime : pcfg s n 0x17 * 1024 ≤ (ctl s n).insRun) (hwait : Nat.max (stepOr (ctl s n).vals.onDelay (pcfg s n 2)) 4 ≤ (ctl s n).since) :
    ∃ t, exec (.insDelay n) s = .next t ∧ OnlyCtl s t n
      ∧ ctl t n = { ctl s n with insStage := 4, insRun := 0, insCharge := 0, insV0 := sampleVal s n 2 }
      ∧ (clsOf s n = 4 → runBit t n = true) := by
  have hdue : insDelayDue s n = true := by
    unfold insDelayDue
    dsimp only
    rw [hstate, hstage, decide_eq_true htime, decide_eq_true hwait]
    rfl
  have hnow : insDelayNow s n = updCtl s n fun c => { c with insStage := 4, insRun := 0, insCharge := 0, insV0 := sampleVal s n 2 } := rfl
  refine ⟨insDelayNow s n, congrArg Host.Outcome.next (if_pos hdue), ?_⟩
  rw [hnow]
  refine ⟨onlyCtl_updCtl s n _, ctl_updCtl _ _ _, fun hcls => ?_⟩
  exact runBit_inrush hcls hstate (by rw [ctl_updCtl])

theorem inrush_trips {s : State} {n : PortId} (hstate : (link s n).state = .starting) (hstage : (ctl s n).insStage = 4)
    (htime : pcfg s n 0x1A ≤ (ctl s n).insRun) : ∃ t, exec (.inrushTimeout n) s = .next t ∧ TripsAs s t n 0x400000 4 := by
  refine ⟨_, congrArg Host.Outcome.next (if_pos ?_), trips_stick s n 22 4⟩
  simp [inrushDue, hstate, hstage, htime]

/-- Settles O38: each protection by its cause. -/
theorem protectionsTripTheirPort : Obligations.ProtectionsTripTheirPort := by
  intro s n trips live
  refine ⟨overload_trips, breakerOn_live, fun hcool => congrArg Host.Outcome.next (if_neg ?_), satAction_spec, insDebounce_spec, insDelay_spec,
    inrush_trips⟩
  unfold overloadDue
  dsimp only
  rw [decide_eq_false (Nat.not_le.2 hcool)]
  simp

end Sys2Proof.Machine
end

section
/-! PROOFS. Curves, snapshots and the clearing of latched protections (R9, R203, R204, R211, R220). -/
namespace Sys2Proof.Machine

/-! ### Curves (R203, R204) -/

theorem effect_apply {s : State} {c v : Nat} (hc : c < 16) :
    effect s (0x3500 + c) 0x13 v = mirrored (applyWrite s c v) (0x3500 + c) 0x13 v := by
  unfold effect
  rw [if_neg (by omega), if_neg (by omega), if_neg (by omega), if_neg (by omega), if_neg (by omega), if_neg (by omega),
    if_neg (by omega), if_pos (by omega), if_pos rfl, Nat.add_sub_cancel_left]

theorem dropReserved_curve {c v : Nat} : dropReserved (0x3500 + c) 0x13 v = v := by
  unfold dropReserved
  rw [if_neg (by omega), if_neg (by omega), if_neg (by omega), if_neg fun h => absurd h.2 (by decide)]

theorem apply_spec {s : State} {lvl : Level} {c : CurveId} {v : Byte} (hadm : Admits s lvl (0x3500 + c) 0x13 v.toNat) :
    let told (u : State) := sendCtrl u (.command (0x3500 + c) 0x13 v.toNat)
    (v = 0 → exec (.apply lvl c v) s = .next (told (answered s stOK)))
    ∧ (v ≠ 0 → applyStatus (taken s) c ≠ stOK → exec (.apply lvl c v) s = .next (answered s (applyStatus (taken s) c)))
    ∧ (v ≠ 0 → applyStatus (taken s) c = stOK
      → exec (.apply lvl c v) s = .next (told { answered s stOK with net := { (answered s stOK).net with
        staged := s.net.staged.filter fun x => x.1 / 256 != c.val,
        pend := s.net.pend ++ (s.net.staged.filter fun x => x.1 / 256 == c.val).map fun x =>
          ⟨0x3500 + c.val, x.1 % 256, x.2, skipNow s⟩ } })) := by
  intro told
  have hexec := exec_admitted (c := .apply lvl c v) rfl hadm
  rw [dropReserved_curve, effect_apply c.isLt] at hexec
  have hzero : v ≠ 0 → v.toNat ≠ 0 := fun h h' => h (BitVec.eq_of_toNat_eq h')
  refine ⟨fun h => ?_, fun h hst => ?_, fun h hst => ?_⟩
  · subst h
    rw [hexec]
    exact congrArg Host.Outcome.next (withStatus_sendCtrl _ _ _)
  · have hwrite : applyWrite (taken s) c v.toNat = (applyStatus (taken s) c, taken s) := (if_neg (hzero h)).trans (if_pos hst)
    rw [hexec, hwrite]
    refine congrArg Host.Outcome.next (congrArg (withStatus · _) (if_neg hst))
  · have hwrite : applyWrite (taken s) c v.toNat = (stOK, { taken s with net := { (taken s).net with
        staged := s.net.staged.filter fun x => x.1 / 256 != c.val
        pend := s.net.pend ++ (s.net.staged.filter fun x => x.1 / 256 == c.val).map fun x =>
          ⟨0x3500 + c.val, x.1 % 256, x.2, skipNow s⟩ } }) := (if_neg (hzero h)).trans (if_neg (not_not.2 hst))
    rw [hexec, hwrite]
    exact congrArg Host.Outcome.next (withStatus_sendCtrl _ _ _)

/-- The points of a curve rise in current and fall in time. -/
theorem curveShape_falls : ∀ l : List (Rat × Rat), curveShape l = true → ∀ i, (h : i + 1 < l.length) →
    l[i].1 < l[i + 1].1 ∧ l[i + 1].2 < l[i].2
  | [], _, i, h => absurd h (Nat.not_lt_zero _)
  | [_], _, i, h => absurd h (by simp)
  | (m, t) :: (m2, t2) :: r, hshape, i, h => by
    simp only [curveShape, Bool.and_eq_true, decide_eq_true_eq] at hshape
    obtain ⟨⟨-, hm⟩, ht⟩ := hshape.1
    cases i with
    | zero => exact ⟨hm, ht⟩
    | succ i => exact curveShape_falls ((m2, t2) :: r) hshape.2 i (by simpa using h)

theorem applyStatus_spec (s : State) (c : Nat) : let k := stagedVal s c 1
    (k = 1 ∨ 8 < k → applyStatus s c = stRange)
    ∧ (k = 0 → (∃ n < 256, latest s (0x3100 + n) 8 = c) → applyStatus s c = stState)
    ∧ (applyStatus s c = stOK → k ≠ 0 → ∀ i, i + 1 < k →
        f32Val (BitVec.ofNat 32 (stagedVal s c (2 + i))) < f32Val (BitVec.ofNat 32 (stagedVal s c (3 + i)))
        ∧ f32Val (BitVec.ofNat 32 (stagedVal s c (0x0B + i))) < f32Val (BitVec.ofNat 32 (stagedVal s c (0x0A + i)))) := by
  intro k
  refine ⟨fun h => (if_neg (by omega)).trans (if_pos (by omega)), fun h ⟨n, hn, hc⟩ => (if_pos h).trans (if_pos ?_), fun hok hk i hi => ?_⟩
  · rw [List.any_eq_true]
    exact ⟨n, List.mem_range.2 hn, beq_iff_eq.2 hc⟩
  · unfold applyStatus at hok
    dsimp only at hok
    rw [if_neg hk] at hok
    split at hok
    · cases hok
    split at hok
    case isFalse => cases hok
    case isTrue hrange hpoints =>
      simp only [Bool.and_eq_true] at hpoints
      obtain ⟨⟨⟨-, hshape⟩, -⟩, -⟩ := hpoints
      have hfalls := curveShape_falls _ hshape i (by simpa using hi)
      simp only [List.getElem_map, List.getElem_range] at hfalls
      rw [show 3 + i = 2 + (i + 1) by omega, show 0x0B + i = 0x0A + (i + 1) by omega]
      exact hfalls

/-! ### Snapshots (R220) -/

theorem snap_spec {s : State} {lvl : Level} {n : PortId} {v : Byte} (hadm : Admits s lvl (0x3100 + n) 0x1B v.toNat) :
    (v = 0 → exec (.snap lvl n v) s = .next (answered s stOK))
    ∧ (v ≠ 0 → ∃ t, exec (.snap lvl n v) s = .next t ∧ t = { answered s stOK with ctls := t.ctls }
        ∧ (∀ k, k ≠ n.val → ctl t k = ctl s k) ∧ ctl t n = { ctl s n with snapPend := true }) := by
  have hexec := exec_admitted (c := .snap lvl n v) rfl hadm
  rw [dropReserved_port n.isLt (by decide), effect_port n.isLt, show effect3100 (taken s) n 0x1B v.toNat = snapWrite (taken s) n v.toNat from rfl]
    at hexec
  refine ⟨fun h => ?_, fun h => ?_⟩
  · subst h
    exact hexec
  · have hwrite : snapWrite (taken s) n v.toNat = (stOK, updCtl (taken s) n fun c => { c with snapPend := true }) :=
      if_neg fun h' => h (BitVec.eq_of_toNat_eq h')
    rw [hwrite] at hexec
    exact ⟨_, hexec, rfl, fun k hk => ctl_setCtl_other _ _ _ _ hk, ctl_setCtl _ _ _⟩

/-! ### Latched protections (R9, R211) -/

/-- The latches of a far end stand in STICKY without a cause of their own. -/
theorem portCauses_latches (s : State) (n : Nat) : (0x30000 : Word) &&& 0x07FF07FF &&& ~~~(portCauses s n) = 0x30000
    ∧ (0x200000 : Word) &&& 0x07FF07FF &&& ~~~(portCauses s n) = 0x200000 := by
  unfold portCauses
  dsimp only
  generalize (!((link s n).state == .absent) && !((link s n).state == .training) && !classFits s n) = misfit
  generalize (!((link s n).state == .absent) && !((link s n).state == .training) && !uidOk s n) = other
  cases (ctl s n).satNow <;> cases other <;> cases misfit <;> cases (link s n).lost <;> decide

theorem gone_of {bits w : Word} {causes : Word} (h : w &&& 0x07FF07FF &&& ~~~causes = w) :
    clearBits ((bits &&& w) &&& 0x07FF07FF) causes = bits &&& w := by
  unfold clearBits
  rw [BitVec.and_assoc, BitVec.and_assoc, ← BitVec.and_assoc w, h]

theorem tryUnlock_of {s : State} {n : Nat} (h : (link s n).state ≠ .lockout) : tryUnlock s n = s := if_neg (by simp [h])

/-- Clearing latches asks the far end for it. -/
theorem stickyWrite_latches {s : State} {n : Nat} {bits w : Word} (hgone : clearBits ((bits &&& w) &&& 0x07FF07FF) (portCauses s n) = bits &&& w)
    (hsat : hasBit (bits &&& w) 20 = false) (hmask : clearMask (bits &&& w) ≠ 0) (hstate : (link s n).state ≠ .lockout) :
    portStickyWrite s n (bits &&& w) = (stOK, sendMsg (setLink s n { link s n with sticky := (link s n).sticky &&& ~~~(bits &&& w) }) n 0 0x04
      (wordBytes (clearMask (bits &&& w)))) := by
  unfold portStickyWrite
  dsimp only
  rw [hgone, if_neg hmask, if_neg (Bool.eq_false_iff.1 hsat)]
  refine congrArg (Prod.mk stOK) (tryUnlock_of ?_)
  unfold sendMsg
  rw [link_updLink, link_setLink]
  exact hstate

/-- A write that clears latches of a port. -/
theorem latchClear_spec {c : Instr} {s : State} {lvl : Level} {n : PortId} {bits w : Word}
    (hobj : objectOf c = some (lvl, 0x3000 + n.val, 4, (bits &&& w).toNat)) (hadm : Admits s lvl (0x3000 + n) 4 (bits &&& w).toNat)
    (hgone : clearBits ((bits &&& w) &&& 0x07FF07FF) (portCauses (taken s) n) = bits &&& w)
    (hsat : hasBit (bits &&& w) 20 = false) (hmask : clearMask (bits &&& w) ≠ 0) (hstate : (link s n).state ≠ .lockout) :
    ∃ t, exec c s = .next t ∧ t = { answered s stOK with links := t.links }
      ∧ (∀ k, k ≠ n.val → link t k = link s k)
      ∧ let l : Link := { link s n with sticky := (link s n).sticky &&& ~~~(bits &&& w) }
        link t n = { l with
          tag := (l.tag + 1) % 256
          mbx := offer (poolBytes (setLink s n l)) (link s n).mbx 0 (message 0x04 (link s n).tag (wordBytes (clearMask (bits &&& w)))) } := by
  have hlt := n.isLt
  generalize hx : ({ link s n with sticky := (link s n).sticky &&& ~~~(bits &&& w) } : Link) = x
  have hx' : x.mbx = (link s n).mbx ∧ x.tag = (link s n).tag := by rw [← hx]; exact ⟨rfl, rfl⟩
  have hwrite := stickyWrite_latches (s := taken s) hgone hsat hmask hstate
  rw [show ({ link (taken s) n with sticky := (link (taken s) n).sticky &&& ~~~(bits &&& w) } : Link) = x from hx] at hwrite
  generalize wordBytes (clearMask (bits &&& w)) = body at hwrite ⊢
  have heff : effect (taken s) (0x3000 + n) 4 (bits &&& w).toNat = portStickyWrite (taken s) n (bits &&& w) := by
    unfold effect
    rw [if_neg (by omega), if_neg (by omega), if_neg (by omega), if_neg (by omega), if_pos (by omega), if_pos rfl,
      Nat.add_sub_cancel_left, BitVec.ofNat_toNat, BitVec.setWidth_eq]
  have hexec := exec_admitted hobj hadm
  rw [dropReserved_low (by omega) (by omega) (by omega) (by omega), heff, hwrite] at hexec
  obtain ⟨hframe, hother⟩ := onlyLink_trans (onlyLink_setLink (taken s) n x) (onlyLink_updLink (setLink (taken s) n x) n fun l =>
    { l with mbx := offer (poolBytes (setLink (taken s) n x)) l.mbx 0 (message 0x04 l.tag body), tag := (l.tag + 1) % 256 })
  refine ⟨_, hexec, congrArg (withStatus · stOK) hframe, hother, ?_⟩
  dsimp only
  have hlink : link (sendMsg (setLink (taken s) n x) n 0 0x04 body) n
      = { x with mbx := offer (poolBytes (setLink s n x)) x.mbx 0 (message 0x04 x.tag body), tag := (x.tag + 1) % 256 } := by
    unfold sendMsg
    rw [link_updLink, link_setLink]
    rfl
  rw [hx'.1, hx'.2] at hlink
  rw [hx'.2]
  exact hlink

theorem hasBit_and (w v : Word) (i : Nat) : hasBit (w &&& v) i = (hasBit w i && hasBit v i) := by
  simp [hasBit, BitVec.toNat_and, Nat.testBit_and]

theorem clearMask_fast (bits : Word) : clearMask (bits &&& 0x30000) = (if hasBit bits 16 then 1 else 0) ||| (if hasBit bits 17 then 3 else 0) := by
  unfold clearMask
  rw [hasBit_and, hasBit_and, hasBit_and, show hasBit 0x30000 16 = true from by decide, show hasBit 0x30000 17 = true from by decide,
    show hasBit 0x30000 21 = false from by decide]
  cases hasBit bits 16 <;> cases hasBit bits 17 <;> cases hasBit bits 21 <;> decide

theorem fastTripClear_spec {s : State} {lvl : Level} {n : PortId} {bits : Word} (hadm : Admits s lvl (0x3000 + n) 4 (bits &&& 0x30000).toNat)
    (hstate : (link s n).state ≠ .lockout) (hbits : bits &&& 0x30000 ≠ 0) :
    let mask : Word := (if hasBit bits 16 then 1 else 0) ||| (if hasBit bits 17 then 3 else 0)
    ∃ t, exec (.fastTripClear lvl n bits) s = .next t ∧ t = { answered s stOK with links := t.links }
      ∧ (∀ k, k ≠ n.val → link t k = link s k)
      ∧ let l : Link := { link s n with sticky := (link s n).sticky &&& ~~~(bits &&& 0x30000) }
        link t n = { l with
          tag := (l.tag + 1) % 256
          mbx := offer (poolBytes (setLink s n l)) (link s n).mbx 0 (message 0x04 (link s n).tag (wordBytes mask)) } := by
  have hmask : clearMask (bits &&& 0x30000) ≠ 0 := by
    have hsplit : bits &&& 0x30000 = (if hasBit bits 16 then BitVec.twoPow 32 16 else 0) ||| (if hasBit bits 17 then BitVec.twoPow 32 17 else 0) := by
      rw [show (0x30000 : Word) = BitVec.twoPow 32 16 ||| BitVec.twoPow 32 17 from by decide, BitVec.and_or_distrib_left, BitVec.and_twoPow,
        BitVec.and_twoPow]
      rfl
    rw [hsplit] at hbits
    rw [clearMask_fast]
    revert hbits
    cases hasBit bits 16 <;> cases hasBit bits 17 <;> decide
  have h := latchClear_spec (c := .fastTripClear lvl n bits) rfl hadm (gone_of (portCauses_latches (taken s) n).1)
    (by rw [hasBit_and]; exact Bool.and_false _) hmask hstate
  rw [clearMask_fast] at h
  exact h

theorem ovLatchClear_spec {s : State} {lvl : Level} {n : PortId} (hadm : Admits s lvl (0x3000 + n) 4 0x200000)
    (hstate : (link s n).state ≠ .lockout) :
    ∃ t, exec (.ovLatchClear lvl n) s = .next t ∧ t = { answered s stOK with links := t.links }
      ∧ (∀ k, k ≠ n.val → link t k = link s k)
      ∧ let l : Link := { link s n with sticky := (link s n).sticky &&& ~~~0x200000 }
        link t n = { l with
          tag := (l.tag + 1) % 256
          mbx := offer (poolBytes (setLink s n l)) (link s n).mbx 0 (message 0x04 (link s n).tag (wordBytes 2)) } :=
  latchClear_spec (c := .ovLatchClear lvl n) (bits := 0x200000) (w := 0x200000) rfl hadm (gone_of (portCauses_latches (taken s) n).2)
    (by decide) (by decide) hstate

/-- Settles O39: curves and snapshots by the value written, latches by their bits. -/
theorem curvesSnapshotsAndLatches : Obligations.CurvesSnapshotsAndLatches :=
  ⟨fun s lvl c v => apply_spec, applyStatus_spec, fun s lvl n v => snap_spec, fun s lvl n bits => fastTripClear_spec,
    fun s lvl n => ovLatchClear_spec⟩

end Sys2Proof.Machine
end

section
/-! PROOFS. Transfers and hold-up (R233 to R238, R251), and what the flow control leaves of the machine. -/
namespace Sys2Proof.Machine

/-! ### The flow control changes commands, and its own numbers (R224 to R229) -/

/-- From one state to another the flow control has commanded: the ports' commands and what it computes on the way. -/
structure Commanded (s t : State) : Prop where
  only : OnlyCommands s t
  flow : FlowIs t s.flow
  shed : ∀ n, (ctl t n).shed = (ctl s n).shed
  bits : ∀ n, (ctl t n).cmd.throttle = (ctl s n).cmd.throttle ∧ (ctl t n).cmd.pfw = (ctl s n).cmd.pfw

theorem onlyCommands_refl (s : State) : OnlyCommands s s := ⟨rfl, fun _ => rfl⟩

theorem onlyCommands_trans {s t u : State} (h : OnlyCommands s t) (h' : OnlyCommands t u) : OnlyCommands s u := by
  obtain ⟨hframe, hctl⟩ := h
  obtain ⟨hframe', hctl'⟩ := h'
  refine ⟨by rw [hframe', hframe], fun n => ?_⟩
  rw [hctl' n, hctl n]

theorem flowIs_refl (s : State) : FlowIs s s.flow := rfl

theorem flowIs_trans {s t : State} {f : Flow} (h : FlowIs s f) (h' : FlowIs t s.flow) : FlowIs t f := by
  unfold FlowIs at *
  rw [h', h]

theorem commanded_refl (s : State) : Commanded s s := ⟨onlyCommands_refl s, rfl, fun _ => rfl, fun _ => ⟨rfl, rfl⟩⟩

theorem commanded_trans {s t u : State} (h : Commanded s t) (h' : Commanded t u) : Commanded s u :=
  ⟨onlyCommands_trans h.only h'.only, flowIs_trans h.flow h'.flow, fun n => (h'.shed n).trans (h.shed n),
    fun n => ⟨(h'.bits n).1.trans (h.bits n).1, (h'.bits n).2.trans (h.bits n).2⟩⟩

theorem commanded_ite {c : Prop} [Decidable c] {s a b : State} (ha : Commanded s a) (hb : Commanded s b) : Commanded s (if c then a else b) := by
  split
  · exact ha
  · exact hb

theorem commanded_fold {α : Type} {f : State → α → State} (hf : ∀ s a, Commanded s (f s a)) (l : List α) (s : State) :
    Commanded s (l.foldl f s) :=
  List.foldlRecOn (motive := Commanded s) l f (commanded_refl s) fun _ h a _ => commanded_trans h (hf _ a)

/-- A change of a port's command that is none of its throttle and its early warning. -/
theorem commanded_updCmd (s : State) (n : Nat) {f : Ctl → Ctl} (hf : ∃ m : Cmd, f (ctl s n) = { ctl s n with cmd := m }
    ∧ m.throttle = (ctl s n).cmd.throttle ∧ m.pfw = (ctl s n).cmd.pfw) : Commanded s (updCtl s n f) := by
  have hctl (k : Nat) : ∃ m : Cmd, ctl (updCtl s n f) k = { ctl s k with cmd := m }
      ∧ m.throttle = (ctl s k).cmd.throttle ∧ m.pfw = (ctl s k).cmd.pfw := by
    by_cases hk : k = n
    · subst hk
      rw [ctl_updCtl]
      exact hf
    · rw [ctl_updCtl_other _ _ _ _ hk]
      exact ⟨_, rfl, rfl, rfl⟩
  refine ⟨⟨rfl, fun k => ?_⟩, rfl, fun k => ?_, fun k => ?_⟩ <;> obtain ⟨m, h, hbits⟩ := hctl k <;> rw [h]
  exact hbits

theorem commanded_draws (s : State) (d : Nat) : Commanded s { s with draws := d } :=
  ⟨⟨rfl, fun _ => rfl⟩, rfl, fun _ => rfl, fun _ => ⟨rfl, rfl⟩⟩

theorem commanded_tapLimitOf (s : State) (n : Nat) : Commanded s (tapLimitOf s n).2 := by
  unfold tapLimitOf
  dsimp only
  split
  · exact commanded_refl s
  split
  · exact commanded_refl s
  split
  · split
    · exact commanded_refl s
    · dsimp only
      split
      · exact commanded_draws s _
      · exact commanded_refl s
  · exact commanded_refl s

theorem commanded_commandStep (s : State) (n : Nat) : Commanded s (commandStep s n) := by
  unfold commandStep
  dsimp only
  have htap : Commanded s (if clsOf s n = 4 then tapLimitOf s n else ((0 : Rat), s)).2 := by
    split
    · exact commanded_tapLimitOf s n
    · exact commanded_refl s
  generalize (if clsOf s n = 4 then tapLimitOf s n else ((0 : Rat), s)) = tap at htap ⊢
  have hls : Commanded s (if clsOf tap.2 n = 5 then drawBool tap.2 else (false, tap.2)).2 := by
    split
    · exact commanded_trans htap (commanded_draws tap.2 _)
    · exact htap
  generalize (if clsOf tap.2 n = 5 then drawBool tap.2 else (false, tap.2)) = ls at hls ⊢
  refine commanded_trans hls (commanded_updCmd ls.2 n ⟨_, rfl, ?_, ?_⟩) <;> split <;> rfl

theorem writeSlot_frame (s : State) (n : Nat) : ∃ shm d, writeSlot s n = { s with draws := d, arr := { s.arr with shm := shm } } :=
  ⟨_, _, rfl⟩

theorem commanded_writeSlot (s : State) (n : Nat) : Commanded s (writeSlot s n) := by
  obtain ⟨shm, d, h⟩ := writeSlot_frame s n
  rw [h]
  exact ⟨⟨rfl, fun _ => rfl⟩, rfl, fun _ => rfl, fun _ => ⟨rfl, rfl⟩⟩

theorem commanded_portOutput (s : State) (n : Nat) : Commanded s (portOutput s n) :=
  commanded_ite (commanded_trans (commanded_commandStep s n) (commanded_writeSlot _ n)) (commanded_refl s)

theorem commanded_target (s : State) : Commanded s (target s) :=
  ⟨⟨rfl, fun _ => rfl⟩, rfl, fun _ => rfl, fun _ => ⟨rfl, rfl⟩⟩

theorem commanded_setDcdc (l : List (Nat × Rat)) (s : State) (n : Nat) : Commanded s (setDcdc l s n) :=
  commanded_updCmd s n ⟨_, rfl, rfl, rfl⟩

theorem commanded_setGroup (s : State) (f : Feed) : Commanded s (setGroup s f) := by
  unfold setGroup
  dsimp only
  refine commanded_trans ?_ (commanded_fold (commanded_setDcdc _) _ _)
  exact ⟨⟨rfl, fun _ => rfl⟩, rfl, fun _ => rfl, fun _ => ⟨rfl, rfl⟩⟩

theorem commanded_setPackPort (s : State) (n : Nat) (net : Rat) : Commanded s (setPackPort s n net) := by
  unfold setPackPort
  dsimp only
  have htrim : Commanded s (if net = 0 then ((0 : Rat), s) else drawRat s).2 := by
    split
    · exact commanded_refl s
    · exact commanded_draws s _
  exact commanded_trans htrim (commanded_updCmd _ n ⟨_, rfl, rfl, rfl⟩)

theorem commanded_setPacks (s : State) : Commanded s (setPacks s) :=
  commanded_fold (fun s (x : Nat × Nat) => commanded_setPackPort s x.2 _) _ _

theorem commanded_flowShare (s : State) : Commanded s (flowShare s) := by
  have htarget := commanded_ite (c := rackRuns s = true) (commanded_target s) (commanded_refl s)
  unfold flowShare
  dsimp only
  generalize (if rackRuns s = true then target s else s) = u at htarget ⊢
  have hgroups := commanded_ite (c := shareRuns u = true) (commanded_trans (commanded_setGroup u .A) (commanded_setGroup _ .B)) (commanded_refl u)
  generalize (if shareRuns u = true then setGroup (setGroup u .A) .B else u) = v at hgroups ⊢
  exact commanded_trans htarget (commanded_trans hgroups (commanded_ite (commanded_setPacks v) (commanded_refl v)))

/-- The flow control after a change. -/
theorem commanded_flowAgain (s : State) : Commanded s (flowAgain s) :=
  commanded_trans (commanded_flowShare s) (commanded_ite (commanded_fold commanded_portOutput _ _) (commanded_refl _))

theorem flowAgain_after (s : State) (g : Flow) : OnlyCommands s (flowAgain { s with flow := g }) ∧ FlowIs (flowAgain { s with flow := g }) g := by
  obtain ⟨honly, hflow, -, -⟩ := commanded_flowAgain { s with flow := g }
  have hstart : OnlyCommands s { s with flow := g } := ⟨rfl, fun _ => rfl⟩
  exact ⟨onlyCommands_trans hstart honly, hflow⟩

/-! ### Planned transfers (R233, R234) -/

theorem xferOk_iff (s : State) (f : Feed) : xferOk s f = true ↔ s.flow.active ≠ none ∧ standbyReady s f = true ∧ s.flow.state = 0
    ∧ s.flow.ramp = none ∧ s.flow.pDem ≤ sumOf ((modulesOf s f).filter (bothRun s)) (capacity s) := by
  simp only [xferOk, Bool.and_eq_true, Option.isSome_iff_ne_none, beq_iff_eq, Option.isNone_iff_eq_none, decide_eq_true_eq, and_assoc]

theorem xferCmd_spec {s : State} {lvl : Level} {v : Byte} (hadm : Admits s lvl 0x2501 1 v.toNat) : let f : Feed := if v = 0 then .A else .B
    (xferOk s f = true → exec (.xferCmd lvl v) s = .next (sendCtrl { answered s stOK with flow := { s.flow with
        xferPend := some (f, skipNow s) } } (.command 0x2501 1 v.toNat)))
    ∧ (xferOk s f = false → exec (.xferCmd lvl v) s = .next (answered s stState)) := by
  intro f
  have hf : (if v.toNat = 0 then Feed.A else Feed.B) = f := by
    by_cases h : v = 0
    · subst h; rfl
    · exact (if_neg fun h' : v.toNat = 0 => h (BitVec.eq_of_toNat_eq h')).trans (if_neg h).symm
  have hwrite : xferWrite (taken s) v.toNat = if xferOk (taken s) f then
      (stOK, { taken s with flow := { s.flow with xferPend := some (f, skipNow s) } }) else (stState, taken s) := by
    rw [← hf]
    rfl
  have heff : effect (taken s) 0x2501 1 v.toNat = mirrored (xferWrite (taken s) v.toNat) 0x2501 1 v.toNat := rfl
  have hexec := exec_admitted (c := .xferCmd lvl v) rfl hadm
  rw [dropReserved_low (by decide) (by decide) (by decide) (by decide), heff, hwrite] at hexec
  refine ⟨fun hok => ?_, fun hno => ?_⟩
  · rw [if_pos (show xferOk (taken s) f = true from hok)] at hexec
    rw [hexec]
    exact congrArg Host.Outcome.next (withStatus_sendCtrl _ _ _)
  · rw [if_neg (Bool.eq_false_iff.1 (show xferOk (taken s) f = false from hno))] at hexec
    exact hexec

section Ramp
variable {s : State} {r : XferRamp} (hramp : s.flow.ramp = some r)
include hramp

theorem xferRampNow_planned (hk : r.kind = 1) : xferRampNow s = { s with flow := { s.flow with
    ramp := none, bridging := false, state := 0, active := some r.incoming, sticky := s.flow.sticky ||| 1 } } := by
  unfold xferRampNow
  rw [hramp]
  dsimp only
  rw [hk]
  rfl

theorem xferRampNow_sudden (hk : r.kind = 2) : xferRampNow s = { s with flow := { s.flow with
    ramp := none, bridging := false, state := 0, active := some r.incoming } } := by
  unfold xferRampNow
  rw [hramp]
  dsimp only
  rw [hk]
  rfl

/-- A hold-up whose ramp has run. -/
def rampedUp (s : State) : State := { s with flow := { s.flow with ramp := none, bridging := false, state := 3, rampDone := true } }

theorem xferRampNow_holdup (hk : r.kind = 4) :
    xferRampNow s = if holdupEndDue (rampedUp s) then holdupEnd (rampedUp s) else rampedUp s := by
  unfold xferRampNow
  rw [hramp]
  dsimp only
  rw [hk]
  rfl

theorem xferRampNow_end (hk : r.kind = 5) :
    xferRampNow s = { s with flow := { s.flow with ramp := none, bridging := false, state := 0 } } := by
  unfold xferRampNow
  rw [hramp]
  dsimp only
  rw [hk]
  rfl

end Ramp

theorem holdupEndDue_rampedUp (s : State) :
    holdupEndDue (rampedUp s) = (s.flow.vFormed && decide (cfgF s 0x2503 2 ≤ s.flow.vBus)) := rfl

theorem flow_setPfw (s : State) : (setPfw s).flow = s.flow := by
  unfold setPfw forAll
  exact List.foldlRecOn (motive := fun t : State => t.flow = s.flow) _ _ rfl fun _ h _ _ => h

/-- The end of a hold-up leaves which feed is active and which had restarted. -/
theorem flow_holdupEnd (s : State) : (holdupEnd s).flow.state = 0 ∧ (holdupEnd s).flow.ramp = none ∧ (holdupEnd s).flow.rampDone = false
    ∧ (holdupEnd s).flow.active = s.flow.active ∧ (holdupEnd s).flow.restarted = s.flow.restarted := by
  unfold holdupEnd
  dsimp only
  split
  · unfold flowStick
    dsimp only
    rw [flow_setPfw]
    exact ⟨rfl, rfl, rfl, rfl, rfl⟩
  · exact ⟨rfl, rfl, rfl, rfl, rfl⟩

/-- The ramp of a transfer has run (R235 to R238). -/
theorem xferRamp_spec {s : State} {r : XferRamp} (hruns : feedRuns s = true) (hramp : s.flow.ramp = some r) :
    (r.done < r.all → exec .xferRampComplete s = .next s)
    ∧ (r.all ≤ r.done → ∃ t, exec .xferRampComplete s = .next t
      ∧ (r.kind = 1 → OnlyCommands s t ∧ FlowIs t { s.flow with
          ramp := none, bridging := false, state := 0, active := some r.incoming, sticky := s.flow.sticky ||| 1 })
      ∧ (r.kind = 2 → OnlyCommands s t ∧ FlowIs t { s.flow with
          ramp := none, bridging := false, state := 0, active := some r.incoming })
      ∧ (r.kind = 4 → s.flow.vFormed = false ∨ s.flow.vBus < cfgF s 0x2503 2 → OnlyCommands s t ∧ FlowIs t { s.flow with
          ramp := none, bridging := false, state := 3, rampDone := true })
      ∧ (r.kind = 4 → s.flow.vFormed = true → cfgF s 0x2503 2 ≤ s.flow.vBus →
          t.flow.state = 0 ∧ t.flow.ramp = none ∧ t.flow.rampDone = false ∧ t.flow.active = s.flow.active
          ∧ t.flow.restarted = s.flow.restarted)
      ∧ (r.kind = 5 → OnlyCommands s t ∧ FlowIs t { s.flow with ramp := none, bridging := false, state := 0 })) := by
  have hdue : xferRampDue s = decide (r.all ≤ r.done) := by
    unfold xferRampDue
    rw [hramp]
  refine ⟨fun h => congrArg Host.Outcome.next (if_neg ?_), fun h => ⟨flowAgain (xferRampNow s), congrArg Host.Outcome.next (if_pos ?_), ?_⟩⟩
  · rw [hruns, hdue, decide_eq_false (Nat.not_le.2 h)]
    decide
  · rw [hruns, hdue, decide_eq_true h]
    rfl
  refine ⟨fun hk => ?_, fun hk => ?_, fun hk hlow => ?_, fun hk hformed hbus => ?_, fun hk => ?_⟩
  · rw [xferRampNow_planned hramp hk]
    exact flowAgain_after s _
  · rw [xferRampNow_sudden hramp hk]
    exact flowAgain_after s _
  · rw [xferRampNow_holdup hramp hk, if_neg]
    · exact flowAgain_after s _
    · rw [holdupEndDue_rampedUp]
      rcases hlow with h | h
      · rw [h, Bool.false_and]; decide
      · rw [decide_eq_false (not_le.2 h), Bool.and_false]; decide
  · have hend : xferRampNow s = holdupEnd (rampedUp s) := by
      rw [xferRampNow_holdup hramp hk, if_pos]
      rw [holdupEndDue_rampedUp, hformed, decide_eq_true hbus]
      rfl
    have hflow := (commanded_flowAgain (holdupEnd (rampedUp s))).flow
    rw [hend, hflow]
    exact flow_holdupEnd (rampedUp s)
  · rw [xferRampNow_end hramp hk]
    exact flowAgain_after s _

/-! ### A sudden transfer (R236) -/

theorem sudden_spec {s : State} {f : Feed} (hruns : feedRuns s = true) (hactive : s.flow.active = some f) (hdue : suddenDue s = true) :
    ∃ t, exec .suddenXfer s = .next t ∧ OnlyCommands s t ∧ FlowIs t { s.flow with
      state := 2, bridging := true, sticky := s.flow.sticky ||| 2,
      ramp := some { kind := 2, incoming := otherFeed f, start := 0, done := 0, all := rampRounds s } } := by
  have hnow : suddenNow s = { s with flow := { s.flow with
      state := 2, bridging := true, sticky := s.flow.sticky ||| 2
      ramp := some { kind := 2, incoming := otherFeed f, start := 0, done := 0, all := rampRounds s } } } := by
    unfold suddenNow
    split
    · next g hg =>
      obtain rfl : g = f := Option.some.inj (hg.symm.trans hactive)
      rfl
    · next hg => exact absurd (hg.symm.trans hactive) (by simp)
  refine ⟨flowAgain (suddenNow s), congrArg Host.Outcome.next (if_pos (by rw [hruns, hdue]; rfl)), ?_⟩
  rw [hnow]
  exact flowAgain_after s _

/-! ### Shedding and hold-up (R230, R237, R251) -/

/-- What a group's modules are told by setShed. -/
def shedOne (f : Feed) (s : State) (n : Nat) : State :=
  let b := heldShed s f || s.flow.shedOrder.contains n
  updCtl (updCtl s n fun c => { c with shed := b }) (partner n) fun c => { c with shed := b }

theorem setShed_eq (s : State) : setShed s = (modulesOf s .B).foldl (shedOne .B) ((modulesOf s .A).foldl (shedOne .A) s) := rfl

/-- Whether a module of a feed's group is shed. -/
def shedBit (s : State) (f : Feed) (n : Nat) : Bool := heldShed s f || s.flow.shedOrder.contains n

/-- From one state to another nothing changes but which ports are shed. -/
def ShedAlone (s t : State) : Prop := t = { s with ctls := t.ctls } ∧ ∀ n, ctl t n = { ctl s n with shed := (ctl t n).shed }

theorem shedAlone_trans {s t u : State} (h : ShedAlone s t) (h' : ShedAlone t u) : ShedAlone s u := by
  obtain ⟨hframe, hctl⟩ := h
  obtain ⟨hframe', hctl'⟩ := h'
  refine ⟨by rw [hframe', hframe], fun n => ?_⟩
  rw [hctl' n, hctl n]

theorem shedAlone_upd (s : State) (n : Nat) (b : Bool) : ShedAlone s (updCtl s n fun c => { c with shed := b }) := by
  refine ⟨rfl, fun k => ?_⟩
  by_cases hk : k = n
  · subst hk
    rw [ctl_updCtl]
  · rw [ctl_updCtl_other _ _ _ _ hk]

theorem shedAlone_shedOne (f : Feed) (s : State) (n : Nat) : ShedAlone s (shedOne f s n) :=
  shedAlone_trans (shedAlone_upd s n _) (shedAlone_upd _ (partner n) _)

theorem shedAlone_fold (f : Feed) (l : List Nat) (s : State) : ShedAlone s (l.foldl (shedOne f) s) :=
  List.foldlRecOn (motive := ShedAlone s) l _ ⟨rfl, fun _ => rfl⟩ fun _ h a _ => shedAlone_trans h (shedAlone_shedOne f _ a)

theorem shedAlone_setShed (s : State) : ShedAlone s (setShed s) := by
  rw [setShed_eq]
  exact shedAlone_trans (shedAlone_fold .A _ s) (shedAlone_fold .B _ _)

theorem shed_shedOne (f : Feed) (s : State) (n k : Nat) :
    (ctl (shedOne f s n) k).shed = if n = k ∨ partner n = k then shedBit s f n else (ctl s k).shed := by
  unfold shedOne
  dsimp only
  by_cases hp : k = partner n
  · subst hp
    rw [ctl_updCtl, if_pos (.inr rfl)]
    rfl
  rw [ctl_updCtl_other _ _ _ _ hp]
  by_cases hn : k = n
  · subst hn
    rw [ctl_updCtl, if_pos (.inl rfl)]
    rfl
  · rw [ctl_updCtl_other _ _ _ _ hn, if_neg fun h => h.elim (fun h => hn h.symm) fun h => hp h.symm]

/-- A port is shed at the end of a pass when every module that speaks for it is shed and one does, or it was before. -/
theorem shed_fold {f : Feed} {k : Nat} (l : List Nat) : ∀ s : State, (∀ m ∈ l, m = k ∨ partner m = k → shedBit s f m = true) →
    ((ctl s k).shed = true ∨ ∃ m ∈ l, m = k ∨ partner m = k) → (ctl (l.foldl (shedOne f) s) k).shed = true := by
  induction l with
  | nil => exact fun s _ h => h.resolve_right fun ⟨m, hm, _⟩ => absurd hm (by simp)
  | cons m l ih =>
    intro s hbits h
    refine ih (shedOne f s m) (fun j hj => hbits j (by simp [hj])) ?_
    rw [shed_shedOne]
    by_cases hm : m = k ∨ partner m = k
    · rw [if_pos hm]
      exact .inl (hbits m (by simp) hm)
    · rw [if_neg hm]
      refine h.imp_right fun ⟨j, hj, hjk⟩ => ⟨j, ?_, hjk⟩
      rcases List.mem_cons.1 hj with rfl | hj
      · exact absurd hjk hm
      · exact hj

theorem shed_setShed {s : State} {k : Nat} (hbits : ∀ f, ∀ m ∈ modulesOf s f, m = k ∨ partner m = k → shedBit s f m = true)
    (h : ∃ m ∈ allModules s, m = k ∨ partner m = k) : (ctl (setShed s) k).shed = true := by
  obtain ⟨hframe, -⟩ := shedAlone_fold .A (modulesOf s .A) s
  rw [setShed_eq]
  obtain ⟨m, hm, hmk⟩ := h
  refine shed_fold _ _ (fun j hj hjk => ?_) ?_
  · rw [hframe]
    exact hbits .B j hj hjk
  · rcases List.mem_append.1 hm with hA | hB
    · exact .inl (shed_fold _ s (hbits .A) (.inr ⟨m, hA, hmk⟩))
    · exact .inr ⟨m, hB, hmk⟩

theorem onlyCommands_shedAlone {s t : State} (h : ShedAlone s t) : OnlyCommands s t := by
  obtain ⟨hframe, hctl⟩ := h
  refine ⟨by rw [hframe], fun n => ?_⟩
  rw [hctl n]

/-- The flow control after a change of its own and of what is shed. -/
theorem flowAgain_setShed (s : State) (g : Flow) : OnlyCommands s (flowAgain (setShed { s with flow := g }))
    ∧ FlowIs (flowAgain (setShed { s with flow := g })) g
    ∧ ∀ n, (ctl (flowAgain (setShed { s with flow := g })) n).shed = (ctl (setShed { s with flow := g }) n).shed := by
  have hshed := shedAlone_setShed { s with flow := g }
  have hgflow : (setShed { s with flow := g }).flow = g := by rw [hshed.1]
  obtain ⟨honly, hflow, hkept, -⟩ := commanded_flowAgain (setShed { s with flow := g })
  have hstart : OnlyCommands s { s with flow := g } := ⟨rfl, fun _ => rfl⟩
  rw [hgflow] at hflow
  exact ⟨onlyCommands_trans hstart (onlyCommands_trans (onlyCommands_shedAlone hshed) honly), hflow, hkept⟩

theorem holdup_spec {s : State} (hruns : holdRuns s = true) (hever : s.flow.everActive = true) (h3 : s.flow.state ≠ 3)
    (h4 : s.flow.state ≠ 4) (hA : canCarry s .A = false) (hB : canCarry s .B = false) :
    ∃ t, exec .holdup s = .next t ∧ OnlyCommands s t ∧ FlowIs t { s.flow with
      state := 3, active := none, ramp := none, xferPend := none, bridging := false, restarted := none, rampDone := false,
      warned := false, holdTime := 0, sticky := s.flow.sticky ||| (if s.flow.state = 1 then 0xA else 8) }
      ∧ ∀ n ∈ allModules s, (ctl t n).shed = true ∧ (ctl t (partner n)).shed = true := by
  have hdue : holdupDue s = true := by simp [holdupDue, inHoldup, hever, h3, h4, hA, hB]
  generalize hg : ({ s.flow with
    state := 3, active := none, ramp := none, xferPend := none, bridging := false, restarted := none, rampDone := false
    warned := false, holdTime := 0, sticky := s.flow.sticky ||| (if s.flow.state = 1 then 0xA else 8) } : Flow) = g
  have hnow : holdupNow s = setShed { s with flow := g } := by
    rw [← hg]
    unfold holdupNow
    dsimp only
    by_cases h1 : s.flow.state = 1
    · have hbits : s.flow.sticky ||| 0xA = setBit (setBit s.flow.sticky 3) 1 := by
        rw [show (0xA : Word) = bitW 3 ||| bitW 1 from by decide]
        exact (BitVec.or_assoc _ _ _).symm
      rw [if_pos (beq_iff_eq.2 h1), if_pos h1, hbits]
      rfl
    · rw [if_neg (mt beq_iff_eq.1 h1), if_neg h1]
      rfl
  obtain ⟨honly, hflow, hkept⟩ := flowAgain_setShed s g
  have hheld (f : Feed) : heldShed { s with flow := g } f = true := by rw [← hg]; rfl
  have hshed {k : Nat} (h : ∃ m ∈ allModules s, m = k ∨ partner m = k) : (ctl (setShed { s with flow := g }) k).shed = true :=
    shed_setShed (fun f m _ _ => by rw [shedBit, hheld, Bool.true_or]) h
  refine ⟨flowAgain (holdupNow s), congrArg Host.Outcome.next (if_pos (by rw [hruns, hdue]; rfl)), ?_⟩
  rw [hnow]
  refine ⟨honly, hflow, fun n hn => ⟨?_, ?_⟩⟩
  · rw [hkept]
    exact hshed ⟨n, hn, .inl rfl⟩
  · rw [hkept]
    exact hshed ⟨n, hn, .inr rfl⟩

/-- Settles O40: the planned transfer and its conditions, the ramp that has run by its kind, the sudden transfer, hold-up. -/
theorem feedsTransferAndHoldUp : Obligations.FeedsTransferAndHoldUp :=
  ⟨fun _ _ _ => xferCmd_spec, xferOk_iff, fun _ _ => xferRamp_spec, fun _ _ => sudden_spec, fun _ => holdup_spec⟩

end Sys2Proof.Machine
end

section
/-! PROOFS. The stops of a shutdown, what they leave of the machine, and how a shutdown begins (R284 to R287). -/
namespace Sys2Proof.Machine

/-! ### The round in which a port stops -/

/-- From one state to another nothing changes but ports and packs, the sequencing, the commands' slots and free values drawn. -/
structure StopFrame (s t : State) : Prop where
  frame : t = { s with
    links := t.links, ctls := t.ctls, shelf := t.shelf, sq := t.sq, cfg := t.cfg, draws := t.draws, arr := { s.arr with shm := t.arr.shm } }
  margin : MarginOnly s.cfg t.cfg

/-- The same, and of the ports only those of a list. -/
structure Stops (l : List Nat) (s t : State) : Prop where
  frame : StopFrame s t
  stand : PortsStand s t l

theorem stopFrame_refl (s : State) : StopFrame s s := ⟨rfl, marginOnly_refl _⟩

theorem stopFrame_trans {s t u : State} (h : StopFrame s t) (h' : StopFrame t u) : StopFrame s u := by
  obtain ⟨hframe, hcfg⟩ := h
  obtain ⟨hframe', hcfg'⟩ := h'
  refine ⟨?_, marginOnly_trans hcfg hcfg'⟩
  rw [hframe', hframe]

theorem stopFrame_sq (s : State) (q : Seq) : StopFrame s { s with sq := q } := ⟨rfl, marginOnly_refl _⟩

theorem stopFrame_fold {α : Type} {f : State → α → State} (hf : ∀ s a, StopFrame s (f s a)) (l : List α) (s : State) :
    StopFrame s (l.foldl f s) :=
  List.foldlRecOn (motive := StopFrame s) l f (stopFrame_refl s) fun _ h a _ => stopFrame_trans h (hf _ a)

theorem stops_refl (l : List Nat) (s : State) : Stops l s s := ⟨stopFrame_refl s, fun _ _ => ⟨rfl, rfl⟩⟩

theorem stops_trans {l : List Nat} {s t u : State} (h : Stops l s t) (h' : Stops l t u) : Stops l s u :=
  ⟨stopFrame_trans h.frame h'.frame, fun m hm =>
    ⟨(h'.stand m hm).1.trans (h.stand m hm).1, (h'.stand m hm).2.trans (h.stand m hm).2⟩⟩

theorem stops_ite {c : Prop} [Decidable c] {l : List Nat} {s a b : State} (ha : Stops l s a) (hb : Stops l s b) :
    Stops l s (if c then a else b) := by
  split
  · exact ha
  · exact hb

section Port
variable (s : State) (n : Nat)

theorem stops_updCtl (f : Ctl → Ctl) : Stops [n] s (updCtl s n f) := ⟨⟨rfl, marginOnly_refl _⟩, (moves_updCtl s n f).stand⟩

theorem stops_setPState (x : PState) : Stops [n] s (setPState s n x) := by
  obtain ⟨a, b, c, d, hframe, hcfg⟩ := setPState_frame s n x
  refine ⟨⟨?_, ?_⟩, (moves_setPState s n x).stand⟩
  · rw [hframe]
  · rw [hframe]; exact hcfg

theorem stops_draws (d : Nat) : Stops [n] s { s with draws := d } := ⟨⟨rfl, marginOnly_refl _⟩, fun _ _ => ⟨rfl, rfl⟩⟩

theorem stops_tapLimitOf : Stops [n] s (tapLimitOf s n).2 := by
  unfold tapLimitOf
  dsimp only
  split
  · exact stops_refl _ s
  split
  · exact stops_refl _ s
  split
  · split
    · exact stops_refl _ s
    · dsimp only
      split
      · exact stops_draws s n _
      · exact stops_refl _ s
  · exact stops_refl _ s

theorem stops_commandStep : Stops [n] s (commandStep s n) := by
  unfold commandStep
  dsimp only
  have htap : Stops [n] s (if clsOf s n = 4 then tapLimitOf s n else ((0 : Rat), s)).2 := by
    split
    · exact stops_tapLimitOf s n
    · exact stops_refl _ s
  generalize (if clsOf s n = 4 then tapLimitOf s n else ((0 : Rat), s)) = tap at htap ⊢
  have hls : Stops [n] s (if clsOf tap.2 n = 5 then drawBool tap.2 else (false, tap.2)).2 := by
    split
    · exact stops_trans htap (stops_draws tap.2 n _)
    · exact htap
  generalize (if clsOf tap.2 n = 5 then drawBool tap.2 else (false, tap.2)) = ls at hls ⊢
  exact stops_trans hls (stops_updCtl ls.2 n _)

theorem stops_writeSlot : Stops [n] s (writeSlot s n) := by
  obtain ⟨shm, d, h⟩ := writeSlot_frame s n
  rw [h]
  exact ⟨⟨rfl, marginOnly_refl _⟩, fun _ _ => ⟨rfl, rfl⟩⟩

theorem stops_portOutput : Stops [n] s (portOutput s n) :=
  stops_ite (stops_trans (stops_commandStep s n) (stops_writeSlot _ n)) (stops_refl _ s)

theorem stops_portReady : Stops [n] s (portReady s n) :=
  stops_ite (stops_refl _ s) (stops_ite (stops_updCtl s n _) (stops_ite (stops_updCtl s n _) (stops_setPState s n _)))

theorem stops_portMove : Stops [n] s (portMove s n) :=
  stops_trans (stops_portReady s n) (stops_ite (stops_updCtl _ n _) (stops_ite (stops_updCtl _ n _) (stops_refl _ _)))

theorem stops_stopNow (v : StepVals) : Stops [n] s (stopNow s n v) := by
  have hstop := stops_trans (stops_setPState s n .stopping) (stops_updCtl _ n fun c => { c with
    vals := v, since := 0, ramp := some (0, downRounds s n v), rampFrom := c.value, down := false, insStage := 0 })
  have hoff (u : State) : Stops [n] u (offNow u n) := stops_ite (stops_updCtl u n _) (stops_updCtl u n _)
  exact stops_ite (stops_ite (stops_trans hstop (hoff _)) hstop) (stops_refl _ s)

theorem stops_stopInRound (v : StepVals) : Stops [n] s (stopInRound s n v) :=
  stops_ite (stops_trans (stops_stopNow s n v) (stops_trans (stops_portMove _ n) (stops_portOutput _ n))) (stops_refl _ s)

end Port

/-! ### The stops of a shutdown (R284) -/

theorem stopFrame_stopStep (s : State) (i : Nat) : StopFrame s (stopStep s i) :=
  stopFrame_trans (stopFrame_fold (fun s n => (stops_stopInRound s n _).frame) _ s) (stopFrame_sq _ _)

theorem stopFrame_stopMore (k : Nat) : ∀ s : State, StopFrame s (stopMore k s) := by
  induction k with
  | zero => exact stopFrame_refl
  | succ k ih =>
    intro s
    unfold stopMore
    split
    · exact stopFrame_sq s _
    · dsimp only
      split
      · exact stopFrame_trans (stopFrame_stopStep s _) (ih _)
      · split
        · exact stopFrame_trans (stopFrame_sq s _) (ih _)
        · exact stopFrame_refl s

theorem stopFrame_stopFirst (s : State) : StopFrame s (stopFirst s) := stopFrame_trans (stopFrame_sq s _) (stopFrame_stopMore 1024 _)

/-! ### The early warning at the trays (R286) -/

/-- From one state to another nothing changes but what ports are commanded, with free values drawn. -/
structure CmdFrame (s t : State) : Prop where
  frame : t = { s with ctls := t.ctls, draws := t.draws, arr := { s.arr with shm := t.arr.shm } }
  ctls : ∀ n, ctl t n = { ctl s n with cmd := (ctl t n).cmd }

theorem cmdFrame_refl (s : State) : CmdFrame s s := ⟨rfl, fun _ => rfl⟩

theorem cmdFrame_trans {s t u : State} (h : CmdFrame s t) (h' : CmdFrame t u) : CmdFrame s u := by
  obtain ⟨hframe, hctl⟩ := h
  obtain ⟨hframe', hctl'⟩ := h'
  refine ⟨by rw [hframe', hframe], fun n => ?_⟩
  rw [hctl' n, hctl n]

theorem stopFrame_of_cmdFrame {s t : State} (h : CmdFrame s t) : StopFrame s t := by
  obtain ⟨hframe, -⟩ := h
  refine ⟨?_, ?_⟩
  · rw [hframe]
  · rw [hframe]; exact marginOnly_refl _

theorem cmdFrame_portOutput (s : State) (n : Nat) : CmdFrame s (portOutput s n) := by
  obtain ⟨⟨honly, hctl⟩, -, hshed, -⟩ := commanded_portOutput s n
  have hflow : (portOutput s n).flow = s.flow := by rw [(stops_portOutput s n).frame.frame]
  rw [hflow] at honly
  refine ⟨honly, fun k => ?_⟩
  rw [hctl k, hshed k]

theorem cmdFrame_updCmd (s : State) (n : Nat) (f : Cmd → Cmd) : CmdFrame s (updCtl s n fun c => { c with cmd := f c.cmd }) := by
  refine ⟨rfl, fun k => ?_⟩
  by_cases hk : k = n
  · subst hk
    rw [ctl_updCtl]
  · rw [ctl_updCtl_other _ _ _ _ hk]

/-- A tray is told the early warning. -/
def pfwOne (s : State) (n : Nat) : State := portOutput (updCtl s n fun c => { c with cmd := { c.cmd with pfw := true } }) n

theorem raisePfw_eq (s : State) : raisePfw s = (portsOf s 5).foldl pfwOne { s with flow := { s.flow with pfw := true } } := rfl

theorem pfw_pfwOne (s : State) (n k : Nat) : (ctl (pfwOne s n) k).cmd.pfw = if k = n then true else (ctl s k).cmd.pfw := by
  refine ((commanded_portOutput _ n).bits k).2.trans ?_
  by_cases hk : k = n
  · rw [if_pos hk, hk, ctl_updCtl]
  · rw [if_neg hk, ctl_updCtl_other _ _ _ _ hk]

theorem cmdFrame_pfwOne (s : State) (n : Nat) : CmdFrame s (pfwOne s n) :=
  cmdFrame_trans (cmdFrame_updCmd s n fun c => { c with pfw := true }) (cmdFrame_portOutput _ n)

theorem pfwOne_fold (l : List Nat) (s : State) : CmdFrame s (l.foldl pfwOne s)
    ∧ ∀ n, n ∈ l ∨ (ctl s n).cmd.pfw = true → (ctl (l.foldl pfwOne s) n).cmd.pfw = true := by
  induction l generalizing s with
  | nil => exact ⟨cmdFrame_refl s, fun n h => h.resolve_left (by simp)⟩
  | cons a l ih =>
    obtain ⟨hframe, hpfw⟩ := ih (pfwOne s a)
    refine ⟨cmdFrame_trans (cmdFrame_pfwOne s a) hframe, fun n hn => hpfw n ?_⟩
    rw [pfw_pfwOne]
    by_cases ha : n = a
    · exact .inr (if_pos ha)
    · rw [if_neg ha]
      exact hn.imp_left fun h => (List.mem_cons.1 h).resolve_left ha

theorem raisePfw_spec (s : State) : CmdFrame { s with flow := { s.flow with pfw := true } } (raisePfw s)
    ∧ ∀ n ∈ portsOf s 5, (ctl (raisePfw s) n).cmd.pfw = true := by
  obtain ⟨hframe, hpfw⟩ := pfwOne_fold (portsOf s 5) { s with flow := { s.flow with pfw := true } }
  exact ⟨hframe, fun n hn => hpfw n (.inl hn)⟩

/-! ### The begin of a shutdown (R285, R286) -/

/-- The steps that a shutdown has to stop. -/
def startedOrder (s : State) : List Nat := s.sq.order.filter fun i => startedStep (stepSt s i)

/-- A started step has a tray that runs. -/
def TraysRun (s : State) : Prop :=
  ∃ i ∈ s.sq.order, startedStep (stepSt s i) = true ∧ ∃ n ∈ (stepSt s i).ports, clsOf s n = 5 ∧ (link s n).state = .running

theorem beginShutdown_trays {s : State} (origin : Nat) (hnew : s.sq.shutdown = false) (htrays : TraysRun s) :
    CmdFrame { s with
        sq := { s.sq with
          shutdown := true, failWant := false, origin := origin, stopOrder := startedOrder s, deadline := some (pfwRounds s)
          cancellable := origin == 4, state := 3, sticky := setBit s.sq.sticky 3 }
        flow := { s.flow with pfw := true } } (beginShutdown s origin)
      ∧ ∀ n ∈ portsOf s 5, (ctl (beginShutdown s origin) n).cmd.pfw = true := by
  generalize hu : ({ s with sq := { s.sq with
    shutdown := true, failWant := false, origin := origin, stopOrder := startedOrder s, deadline := some (pfwRounds s)
    cancellable := origin == 4, state := 3 } } : State) = u
  have hany : ((startedOrder s).any fun i => (stepSt s i).ports.any fun n => clsOf s n == 5 && (link s n).state == .running) = true := by
    obtain ⟨i, hi, hstarted, n, hn, hcls, hrun⟩ := htrays
    refine List.any_eq_true.2 ⟨i, List.mem_filter.2 ⟨hi, hstarted⟩, List.any_eq_true.2 ⟨n, hn, ?_⟩⟩
    rw [hcls, hrun]
    rfl
  have heq : beginShutdown s origin = seqStick (raisePfw u) 3 := by
    unfold beginShutdown
    rw [hnew, ← hu]
    exact if_pos hany
  obtain ⟨⟨hframe, hctl⟩, hpfw⟩ := raisePfw_spec u
  rw [heq]
  have hports : portsOf u 5 = portsOf s 5 := by rw [← hu]; rfl
  have hctlu (n : Nat) : ctl u n = ctl s n := by rw [← hu]; rfl
  refine ⟨⟨?_, fun n => (hctl n).trans ?_⟩, fun n hn => hpfw n (by rw [hports]; exact hn)⟩
  · unfold seqStick
    rw [hframe, ← hu]
  · exact congrArg (fun c : Ctl => { c with cmd := (ctl (raisePfw u) n).cmd }) (hctlu n)

/-- What a shutdown that begins leaves: besides what its stops change, the early warning that the flow control gives. -/
theorem beginShutdown_frame (s : State) (origin : Nat) : ∃ b, StopFrame { s with flow := { s.flow with pfw := b } } (beginShutdown s origin)
    ∧ (s.flow.pfw = true → b = true) := by
  unfold beginShutdown
  split
  · refine ⟨s.flow.pfw, ?_, id⟩
    split
    · exact stopFrame_sq s _
    · exact stopFrame_refl s
  · dsimp only
    split
    · refine ⟨true, stopFrame_trans (stopFrame_trans ?_ (stopFrame_of_cmdFrame (raisePfw_spec _).1)) (stopFrame_sq _ _), fun _ => rfl⟩
      exact stopFrame_sq { s with flow := { s.flow with pfw := true } } _
    · exact ⟨s.flow.pfw, stopFrame_trans (stopFrame_sq s _) (stopFrame_stopFirst _), id⟩

end Sys2Proof.Machine
end

section
/-! PROOFS. Early warning, collapse of the bus, shedding, caps and throttling (R231, R240, R243 to R248, R285, R287, R291). -/
namespace Sys2Proof.Machine

/-! ### Early warning (R285 to R287) -/

theorem pfw_setPfwFold (b : Bool) (l : List Nat) (s : State) (hb : s.flow.pfw = b) :
    ∀ n, n ∈ l ∨ (ctl s n).cmd.pfw = b →
      (ctl (l.foldl (fun s n => updCtl s n fun c => { c with cmd := { c.cmd with pfw := s.flow.pfw } }) s) n).cmd.pfw = b := by
  induction l generalizing s with
  | nil => exact fun n h => h.resolve_left (by simp)
  | cons a l ih =>
    refine fun n h => ih (updCtl s a fun c => { c with cmd := { c.cmd with pfw := s.flow.pfw } }) hb n ?_
    by_cases ha : n = a
    · subst ha
      rw [ctl_updCtl]
      exact .inr hb
    · rw [ctl_updCtl_other _ _ _ _ ha]
      exact h.imp_left fun h => (List.mem_cons.1 h).resolve_left ha

theorem pfw_setPfw {s : State} {n : Nat} (hn : n ∈ portsOf s 5) : (ctl (setPfw s) n).cmd.pfw = s.flow.pfw :=
  pfw_setPfwFold s.flow.pfw (portsOf s 5) s rfl n (.inl hn)

theorem setPfw_frame (s : State) : ∃ c : Tab Ctl, setPfw s = { s with ctls := c } := by
  unfold setPfw forAll
  refine List.foldlRecOn (motive := fun t : State => ∃ c : Tab Ctl, t = { s with ctls := c }) _ _ ⟨s.ctls, rfl⟩ fun t h a _ => ?_
  obtain ⟨c, h⟩ := h
  rw [h]
  exact ⟨_, rfl⟩

theorem warning_spec {s : State} (hruns : holdRuns s = true) (hstate : s.flow.state = 3 ∨ s.flow.state = 4) (hnew : s.flow.warned = false) :
    (cfgF s 0x2503 4 < storedKwh s → exec .earlyWarning s = .next s)
    ∧ (storedKwh s ≤ cfgF s 0x2503 4 → ∃ t, exec .earlyWarning s = .next t ∧ t.flow.warned = true ∧ t.flow.pfw = true
      ∧ hasBit t.flow.sticky 4 = true ∧ (∀ n ∈ portsOf s 5, (ctl t n).cmd.pfw = true)
      ∧ (s.sq.shutdown = false → TraysRun s →
          t.sq.shutdown = true ∧ t.sq.origin = 4 ∧ t.sq.deadline = some (pfwRounds s) ∧ t.sq.cancellable = true
          ∧ hasBit t.sq.sticky 3 = true ∧ t.links = s.links)) := by
  have hin : inHoldup s = true := by
    unfold inHoldup
    rcases hstate with h | h <;> rw [h] <;> rfl
  have hdue : warningDue s = decide (storedKwh s ≤ cfgF s 0x2503 4) := by
    unfold warningDue
    rw [hin, hnew]
    rfl
  refine ⟨fun h => congrArg Host.Outcome.next (if_neg ?_), fun h => ?_⟩
  · rw [hruns, hdue, decide_eq_false (not_le.2 h)]
    exact Bool.false_ne_true
  generalize hw : ({ s with flow := { s.flow with warned := true, pfw := true, sticky := setBit s.flow.sticky 4 } } : State) = w
  have hexec : exec .earlyWarning s = .next (flowAgain (setPfw (beginShutdown w 4))) := by
    refine congrArg Host.Outcome.next ((if_pos ?_).trans ?_)
    · rw [hruns, hdue, decide_eq_true h]
      rfl
    · rw [← hw]
      rfl
  have hwpfw : w.flow.pfw = true := by rw [← hw]
  obtain ⟨b, ⟨hframe, -⟩, hb⟩ := beginShutdown_frame w 4
  obtain ⟨⟨honly, -⟩, hflow, -, hbits⟩ := commanded_flowAgain (setPfw (beginShutdown w 4))
  obtain ⟨c, hset⟩ := setPfw_frame (beginShutdown w 4)
  have hflow' : (setPfw (beginShutdown w 4)).flow = { w.flow with pfw := true } := by
    rw [flow_setPfw, hframe, hb hwpfw]
  have hports : portsOf (beginShutdown w 4) 5 = portsOf s 5 := by
    rw [hframe, ← hw]
    rfl
  rw [hflow'] at hflow
  refine ⟨_, hexec, ?_, ?_, ?_, fun n hn => ?_, fun hshut htrays => ?_⟩
  · rw [hflow, ← hw]
  · rw [hflow]
  · rw [hflow, ← hw]
    exact hasBit_setBit _ (by decide)
  · rw [(hbits n).2, pfw_setPfw (by rw [hports]; exact hn), ← flow_setPfw, hflow']
  · obtain ⟨⟨hbegin, -⟩, -⟩ := beginShutdown_trays (s := w) 4 (by rw [← hw]; exact hshut) (by rw [← hw]; exact htrays)
    have hrounds : pfwRounds w = pfwRounds s := by rw [← hw]; rfl
    rw [honly, hset, hbegin, hrounds, ← hw]
    exact ⟨rfl, rfl, rfl, rfl, hasBit_setBit _ (by decide), rfl⟩

/-! ### Collapse of the bus (R243, R285) -/

theorem tripAll_spec (reason : Byte) (l : List Nat) (s : State) :
    Moves l s (l.foldl (fun s n => tripPort s n reason) s)
    ∧ ∀ n, (n ∈ l → EntersHem s (l.foldl (fun s n => tripPort s n reason) s) n)
      ∧ (n ∈ l ∨ ((ctl s n).tripped = true ∧ (ctl s n).tripReason = reason) →
        (ctl (l.foldl (fun s n => tripPort s n reason) s) n).tripped = true
        ∧ (ctl (l.foldl (fun s n => tripPort s n reason) s) n).tripReason = reason) := by
  induction l generalizing s with
  | nil => exact ⟨moves_refl _ s, fun n => ⟨fun h => absurd h (by simp), fun h => h.resolve_left (by simp)⟩⟩
  | cons a l ih =>
    obtain ⟨hmoves, hports⟩ := ih (tripPort s a reason)
    obtain ⟨htripped, hreason, hlink, hctl, -⟩ := tripPort_spec s a reason
    refine ⟨moves_trans (moves_mono (by simp) (moves_tripPort s a reason)) (moves_mono (by simp +contextual) hmoves), fun n => ⟨fun hn => ?_, fun hn => ?_⟩⟩
    · have hrest : canHem .hem = false := rfl
      by_cases hl : n ∈ l
      · have h := (hports n).1 hl
        unfold EntersHem at h ⊢
        refine h.trans ?_
        rw [hlink]
        by_cases ha : n = a
        · rw [if_pos ha, state_hemmed, ← ha]
          by_cases hc : canHem (link s n).state = true
          · rw [if_pos hc]; rfl
          · rw [if_neg hc, if_neg hc]
        · rw [if_neg ha]
      · have ha : n = a := (List.mem_cons.1 hn).resolve_right hl
        have h := (hmoves.stand n hl).1
        unfold EntersHem
        exact (congrArg Link.state (h.trans ((hlink n).trans (if_pos ha)))).trans (by rw [state_hemmed, ha])
    · refine (hports n).2 ?_
      by_cases ha : n = a
      · subst ha
        exact .inr ⟨htripped, hreason⟩
      · rw [hctl n ha]
        exact hn.imp_left fun h => (List.mem_cons.1 h).resolve_left ha

/-- An object of the controller reads the same where only margins of ports have changed. -/
theorem cfg_margin {s t : State} (h : MarginOnly s.cfg t.cfg) {ix sub : Nat} (hix : ix < 0x3100) (hsub : sub < 256) :
    cfg t ix sub = cfg s ix sub := by
  have hfind : tfind t.cfg (okey ix sub) = tfind s.cfg (okey ix sub) := by
    refine (h _).resolve_right ?_
    rintro ⟨m, hm, -⟩
    unfold okey at hm
    omega
  have hdflt (u : State) : dfltOf u ix sub = objDefault ix sub := by
    unfold dfltOf
    rw [if_neg (by omega), if_neg (by omega)]
  unfold cfg
  rw [hfind, hdflt t, hdflt s]

theorem collapse_spec {s : State} (hruns : holdRuns s = true) (harmed : s.flow.collapseArmed = true) :
    (s.flow.collapseRun < 4 → exec .busCollapse s = .next s)
    ∧ (4 ≤ s.flow.collapseRun → ∃ t, exec .busCollapse s = .next t
      ∧ t = { s with
          links := t.links, ctls := t.ctls, shelf := t.shelf, recorder := t.recorder, sq := t.sq, cfg := t.cfg,
          flow := { s.flow with collapseArmed := false, collapseRun := 0, sticky := s.flow.sticky ||| 0x40 } }
      ∧ MarginOnly s.cfg t.cfg ∧ PortsStand s t (portsOf s 4)
      ∧ (∀ n ∈ portsOf s 4, EntersHem s t n ∧ (ctl t n).tripped = true ∧ (ctl t n).tripReason = 5)
      ∧ t.sq.state = 5 ∧ t.sq.shutdown = false ∧ t.sq.deadline = none ∧ (∀ x ∈ t.sq.steps, x.2.state = 5)
      ∧ (t.sq.autoWant = true ↔ cfg s 0x23F0 8 = 1)) := by
  have hdue : collapseDue s = decide (4 ≤ s.flow.collapseRun) := by
    unfold collapseDue
    rw [harmed]
    rfl
  refine ⟨fun h => congrArg Host.Outcome.next (if_neg ?_), fun h => ?_⟩
  · rw [hruns, hdue, decide_eq_false (not_le.2 h)]
    exact Bool.false_ne_true
  have hexec : exec .busCollapse s = .next (collapseNow s) := by
    refine congrArg Host.Outcome.next (if_pos ?_)
    rw [hruns, hdue, decide_eq_true h]
    rfl
  generalize hu : ({ s with flow := { s.flow with collapseArmed := false, collapseRun := 0, sticky := s.flow.sticky ||| 0x40 } } : State) = u
  obtain ⟨⟨⟨hframe, hcfg⟩, hstand⟩, hports⟩ := tripAll_spec 5 (portsOf s 4) u
  generalize hv : (portsOf s 4).foldl (fun s n => tripPort s n 5) u = v at hframe hcfg hstand hports
  have hnow : collapseNow s = { v with sq := { v.sq with
      steps := v.sq.steps.map fun x => (x.1, { x.2 with state := 5 }),
      state := 5, shutdown := false, deadline := none, cancellable := false, stopOrder := [], nextWait := none,
      failWant := false, runPend := none, autoWant := cfg v 0x23F0 8 == 1 } } := by
    rw [← hv, ← hu]
    rfl
  have hucfg : u.cfg = s.cfg := by rw [← hu]
  rw [hucfg] at hcfg
  refine ⟨_, hexec, ?_⟩
  rw [hnow]
  refine ⟨?_, hcfg, fun m hm => ?_, fun n hn => ⟨?_, (hports n).2 (.inl hn)⟩, rfl, rfl, rfl, fun x hx => ?_, ?_⟩
  · rw [hframe, ← hu]
  · refine (hstand m hm).imp (fun h => h.trans ?_) fun h => h.trans ?_ <;> rw [← hu] <;> rfl
  · have h := (hports n).1 hn
    rw [← hu] at h
    exact h
  · obtain ⟨y, -, rfl⟩ := List.mem_map.1 hx
    rfl
  · rw [← cfg_margin hcfg (by decide) (by decide)]
    exact beq_iff_eq

/-! ### Shedding (R231) -/

theorem partner_partner (n : Nat) : partner (partner n) = n := by
  unfold partner
  split <;> split <;> omega

theorem shed_spec {s : State} {f : Feed} {n : Nat} {l : List Nat} (hruns : shareRuns s = true) (hwant : s.flow.shedWant = true)
    (hactive : s.flow.active = some f) (hfirst : shedCandidates s ((modulesOf s f).filter (available s)) = n :: l)
    (hpart : ∀ m ∈ allModules s, partner m ≠ n) (hpart' : partner n ∉ allModules s) :
    ∃ t, exec .shed s = .next t ∧ OnlyCommands s t ∧ FlowIs t { s.flow with
      shedWant := false, shedOrder := n :: s.flow.shedOrder, unshedOrder := s.flow.unshedOrder.filter fun k => k != n }
      ∧ (ctl t n).shed = true ∧ (ctl t (partner n)).shed = true := by
  generalize hg : ({ s.flow with
    shedWant := false, shedOrder := n :: s.flow.shedOrder
    unshedOrder := s.flow.unshedOrder.filter fun k => k != n } : Flow) = g
  have hnow : shedNow s = setShed { s with flow := g } := by
    unfold shedNow
    dsimp only
    split
    next hoff => cases hactive.symm.trans hoff
    next f' hon =>
      cases hactive.symm.trans hon
      split
      next hnone => cases hfirst.symm.trans hnone
      next m rest hsome =>
        cases hfirst.symm.trans hsome
        rw [← hg]
  obtain ⟨honly, hflow, hkept⟩ := flowAgain_setShed s g
  have hn : n ∈ allModules s := by
    have hmem : n ∈ shedCandidates s ((modulesOf s f).filter (available s)) := by rw [hfirst]; simp
    have hmods : n ∈ modulesOf s f := by
      unfold shedCandidates at hmem
      simp only [List.mem_append, List.mem_filter, List.mem_reverse, List.contains_iff_mem, decide_eq_true_eq] at hmem
      rcases hmem with ⟨-, h⟩ | ⟨h, -⟩
      · exact h.1
      · exact h.1
    cases f with
    | A => exact List.mem_append_left _ hmods
    | B => exact List.mem_append_right _ hmods
  have hbit (f' : Feed) (m : Nat) (hm : m = n) : shedBit { s with flow := g } f' m = true := by
    unfold shedBit
    rw [← hg, hm]
    simp
  have hall (f' : Feed) (m : Nat) (hm : m ∈ modulesOf { s with flow := g } f') : m ∈ allModules s := by
    cases f' with
    | A => exact List.mem_append_left _ hm
    | B => exact List.mem_append_right _ hm
  refine ⟨flowAgain (shedNow s), congrArg Host.Outcome.next (if_pos (by rw [hruns, hwant]; rfl)), ?_⟩
  rw [hnow]
  refine ⟨honly, hflow, ?_, ?_⟩
  · rw [hkept]
    refine shed_setShed (fun f' m hm h => hbit f' m (h.resolve_right (hpart m (hall f' m hm)))) ⟨n, hn, .inl rfl⟩
  · rw [hkept]
    refine shed_setShed (fun f' m hm h => hbit f' m ?_) ⟨n, hn, .inr rfl⟩
    rcases h with h | h
    · exact absurd (h ▸ hall f' m hm) hpart'
    · rw [← partner_partner m, h, partner_partner]

/-! ### Caps (R245 to R247) -/

theorem cfg_setCfg_same (s : State) (ix sub v : Nat) : cfg (setCfg s ix sub v) ix sub = v := by
  unfold cfg setCfg
  rw [tfind_tput_same]

theorem cfg_setCfg_other (s : State) {ix sub jx sub' : Nat} (v : Nat) (h : okey jx sub' ≠ okey ix sub) :
    cfg (setCfg s ix sub v) jx sub' = cfg s jx sub' := by
  have hfind : tfind (setCfg s ix sub v).cfg (okey jx sub') = tfind s.cfg (okey jx sub') := tfind_tput_other _ _ _ _ h
  unfold cfg
  rw [hfind]
  rfl

/-- What an object reads is a matter of the configuration and of the running pattern. -/
theorem cfg_of {s t : State} (hcfg : t.cfg = s.cfg) (hpat : t.pat = s.pat) (ix sub : Nat) : cfg t ix sub = cfg s ix sub := by
  unfold cfg dfltOf declClass
  rw [hcfg, hpat]

theorem sendCtrl_frame (s : State) (c : Ctrl) : sendCtrl s c = { s with pair := (sendCtrl s c).pair } := by
  unfold sendCtrl
  split <;> rfl

theorem sendCtrl_pair {s u : State} (h : u.pair = s.pair) (c : Ctrl) : (sendCtrl u c).pair = (sendCtrl s c).pair := by
  unfold sendCtrl
  rw [h]
  split
  · rfl
  · exact h

theorem capSelect_spec {s : State} {lvl : Level} {v : Byte} (hadm : Admits s lvl 0x2505 3 v.toNat) :
    ∃ t, exec (.capSelect lvl v) s = .next t
      ∧ t = { answered s stOK with cfg := t.cfg, pair := t.pair, flow := { s.flow with
          capEff := if (s.flow.capLow1 && s.flow.capLow2) || v == 1 then 1 else 0 } }
      ∧ cfg t 0x2505 3 = v.toNat ∧ (∀ ix sub, sub < 256 → ¬(ix = 0x2505 ∧ sub = 3) → cfg t ix sub = cfg s ix sub)
      ∧ t.pair = (sendCtrl s (.capSelect v)).pair := by
  have hv : BitVec.ofNat 8 v.toNat = v := by
    rw [BitVec.ofNat_toNat, BitVec.setWidth_eq]
  have heff : effect (taken s) 0x2505 3 v.toNat = (stOK, sendCtrl (capSelectNow (taken s) v.toNat) (.capSelect v)) := by
    refine (rfl : _ = capSelectWrite (taken s) v.toNat).trans ?_
    unfold capSelectWrite
    rw [hv]
  have hexec := exec_admitted (c := .capSelect lvl v) rfl hadm
  rw [dropReserved_low (by decide) (by decide) (by decide) (by decide), heff, withStatus_sendCtrl] at hexec
  have hcap : (cfg (setCfg (taken s) 0x2505 3 v.toNat) 0x2505 3 == 1) = (v == 1) := by
    rw [cfg_setCfg_same]
    exact Bool.eq_iff_iff.2 ⟨fun h => beq_iff_eq.2 (BitVec.eq_of_toNat_eq (beq_iff_eq.1 h)),
      fun h => beq_iff_eq.2 (congrArg BitVec.toNat (beq_iff_eq.1 h))⟩
  have hsel : capSelectNow (taken s) v.toNat = { setCfg (taken s) 0x2505 3 v.toNat with flow := { s.flow with
      capEff := if (s.flow.capLow1 && s.flow.capLow2) || v == 1 then 1 else 0 } } := by
    unfold capSelectNow selectCap
    rw [hcap]
    rfl
  have hframe := sendCtrl_frame (withStatus (capSelectNow (taken s) v.toNat) stOK) (.capSelect v)
  have hpair : (sendCtrl (withStatus (capSelectNow (taken s) v.toNat) stOK) (.capSelect v)).pair = (sendCtrl s (.capSelect v)).pair :=
    sendCtrl_pair (by rw [hsel]; rfl) _
  rw [hsel] at hexec hframe hpair
  generalize sendCtrl _ _ = t at hexec hframe hpair
  have hread (ix sub : Nat) : cfg t ix sub = cfg (setCfg s 0x2505 3 v.toNat) ix sub :=
    cfg_of (by rw [hframe]; rfl) (by rw [hframe]; rfl) ix sub
  refine ⟨t, hexec, ?_, ?_, fun ix sub hsub hne => ?_, hpair⟩
  · rw [hframe]
    rfl
  · rw [hread, cfg_setCfg_same]
  · rw [hread]
    refine cfg_setCfg_other s _ fun h => hne ?_
    unfold okey at h
    omega

theorem tapLimitStep_spec {s : State} (hruns : capRuns s = true) :
    (tapStepDue s = true → ∃ t, exec .tapLimitStep s = .next t ∧ OnlyCommands s t ∧ FlowIs t { s.flow with
      tapSteps := s.flow.tapSteps + 1, tapWait := 0, lowSeams := 0, sticky := s.flow.sticky ||| 0x400 })
    ∧ (s.flow.capShort = false → exec .tapLimitStep s = .next s) := by
  refine ⟨fun h => ?_, fun h => congrArg Host.Outcome.next (if_neg ?_)⟩
  · exact ⟨_, congrArg Host.Outcome.next (if_pos (by rw [hruns, h]; rfl)), flowAgain_after s _⟩
  · have hnot : tapStepDue s = false := by
      unfold tapStepDue
      dsimp only
      rw [h]
      rfl
    rw [hruns, hnot]
    exact Bool.false_ne_true

/-! ### Throttle slots (R246, R247) -/

/-- A tray is told whether its slot is a throttled one. -/
def throttleOne (s : State) (x : Nat × Nat) : State :=
  let on := decide ((s.flow.slot + 16 - x.2 % 16) % 16 < Nat.max s.flow.dutyNow (ctl s x.1).thermDuty)
  updCtl s x.1 fun c => { c with cmd := { c.cmd with throttle := on } }

theorem setThrottle_eq (s : State) : setThrottle s = (portsOf s 5).zipIdx.foldl throttleOne s := rfl

/-- From one state to another nothing changes but which ports are throttled. -/
def ThrottleAlone (s t : State) : Prop := t = { s with ctls := t.ctls }
  ∧ ∀ n, ctl t n = { ctl s n with cmd := { (ctl s n).cmd with throttle := (ctl t n).cmd.throttle } }

theorem throttleOne_spec (s : State) (x : Nat × Nat) : ThrottleAlone s (throttleOne s x)
    ∧ ((ctl (throttleOne s x) x.1).cmd.throttle = true ↔
        (s.flow.slot + 16 - x.2 % 16) % 16 < Nat.max s.flow.dutyNow (ctl s x.1).thermDuty)
    ∧ ∀ k, k ≠ x.1 → (ctl (throttleOne s x) k).cmd.throttle = (ctl s k).cmd.throttle := by
  unfold throttleOne
  refine ⟨⟨rfl, fun k => ?_⟩, ?_, fun k hk => ?_⟩
  · by_cases hk : k = x.1
    · rw [hk, ctl_updCtl]
    · rw [ctl_updCtl_other _ _ _ _ hk]
  · rw [ctl_updCtl]
    exact decide_eq_true_iff
  · rw [ctl_updCtl_other _ _ _ _ hk]

theorem throttle_fold (l : List (Nat × Nat)) : ∀ s : State, (l.map (·.1)).Nodup → ThrottleAlone s (l.foldl throttleOne s)
    ∧ (∀ x ∈ l, (ctl (l.foldl throttleOne s) x.1).cmd.throttle = true ↔
        (s.flow.slot + 16 - x.2 % 16) % 16 < Nat.max s.flow.dutyNow (ctl s x.1).thermDuty)
    ∧ ∀ k, k ∉ l.map (·.1) → (ctl (l.foldl throttleOne s) k).cmd.throttle = (ctl s k).cmd.throttle := by
  induction l with
  | nil => exact fun s _ => ⟨⟨rfl, fun _ => rfl⟩, fun x hx => absurd hx (by simp), fun _ _ => rfl⟩
  | cons y l ih =>
    intro s hnodup
    obtain ⟨hy, hl⟩ := List.nodup_cons.1 hnodup
    obtain ⟨⟨hframe, hctl⟩, hon, hkeep⟩ := throttleOne_spec s y
    obtain ⟨⟨hframe', hctl'⟩, hon', hkeep'⟩ := ih (throttleOne s y) hl
    have hflow : (throttleOne s y).flow = s.flow := by rw [hframe]
    refine ⟨⟨?_, fun n => ?_⟩, fun x hx => ?_, fun k hk => ?_⟩
    · exact hframe'.trans (congrArg (fun t : State => { t with ctls := (l.foldl throttleOne (throttleOne s y)).ctls }) hframe)
    · refine (hctl' n).trans ?_
      rw [hctl n]
      rfl
    · rcases List.mem_cons.1 hx with rfl | hx
      · exact (Bool.eq_iff_iff.1 (hkeep' _ hy)).trans hon
      · have h := hon' x hx
        rw [hflow, hctl x.1] at h
        exact h
    · exact (hkeep' k fun h => hk (List.mem_cons_of_mem _ h)).trans (hkeep k fun h => hk (h ▸ List.mem_cons_self))

theorem throttle_spec {s : State} (hruns : capRuns s = true) :
    (s.flow.slotRounds < cfg s 0x2505 4 → exec .throttleSlot s = .next s)
    ∧ (cfg s 0x2505 4 ≤ s.flow.slotRounds → (portsOf s 5).Nodup →
      let k := (s.flow.slot + 1) % 16
      let d := if k = 0 then s.flow.duty else s.flow.dutyNow
      let asked := forAll (portsOf s 5) (fun s n => updCtl s n fun c => { c with
        thermDuty := Nat.max (ctl s n).derate (ctl s (partner n)).derate }) s
      let u := if k = 0 then asked else s
      ∃ t, exec .throttleSlot s = .next t ∧ OnlyCommands u t
        ∧ FlowIs t { s.flow with slot := k, slotRounds := 0, dutyNow := d }
        ∧ ∀ i n, (portsOf s 5)[i]? = some n →
          ((ctl t n).cmd.throttle = true ↔ (k + 16 - i % 16) % 16 < Nat.max d (ctl u n).thermDuty)) := by
  refine ⟨fun h => congrArg Host.Outcome.next (if_neg ?_), fun h hnodup => ?_⟩
  · unfold slotDue
    rw [hruns, decide_eq_false (not_le.2 h)]
    exact Bool.false_ne_true
  intro k d asked u
  have hexec : exec .throttleSlot s = .next (flowAgain (slotNow s)) := by
    refine congrArg Host.Outcome.next (if_pos ?_)
    unfold slotDue
    rw [hruns, decide_eq_true h]
    rfl
  have hasked : ∃ c : Tab Ctl, u = { s with ctls := c } := by
    by_cases hk : k = 0
    · have hfold : ∃ c : Tab Ctl, asked = { s with ctls := c } := by
        refine List.foldlRecOn (motive := fun t : State => ∃ c : Tab Ctl, t = { s with ctls := c }) _ _ ⟨s.ctls, rfl⟩ ?_
        rintro t ⟨c, rfl⟩ a -
        exact ⟨_, rfl⟩
      obtain ⟨c, hc⟩ := hfold
      exact ⟨c, (if_pos hk).trans hc⟩
    · exact ⟨s.ctls, if_neg hk⟩
  obtain ⟨c, hu⟩ := hasked
  have hnow : slotNow s = setThrottle { u with flow := { s.flow with slot := k, slotRounds := 0, dutyNow := d } } := by
    have hslot : slotNow s = setThrottle { u with flow := { u.flow with
        slot := k, slotRounds := 0, dutyNow := if k = 0 then u.flow.duty else u.flow.dutyNow } } := rfl
    have hflow : u.flow = s.flow := by rw [hu]
    rw [hslot, hflow]
  generalize hg : ({ s.flow with slot := k, slotRounds := 0, dutyNow := d } : Flow) = g at hnow ⊢
  have hports : portsOf { u with flow := g } 5 = portsOf s 5 := by
    rw [hu]
    rfl
  rw [setThrottle_eq, hports] at hnow
  obtain ⟨⟨hframe, hctl⟩, hon, -⟩ := throttle_fold (portsOf s 5).zipIdx { u with flow := g } (by simpa using hnodup)
  rw [← hnow] at hframe hctl hon
  have hslotflow : (slotNow s).flow = g := by rw [hframe]
  obtain ⟨honly, hflow, -, hbits⟩ := commanded_flowAgain (slotNow s)
  rw [hslotflow] at hflow
  refine ⟨_, hexec, onlyCommands_trans ⟨?_, fun n => ?_⟩ honly, hflow, fun i n hi => ?_⟩
  · generalize slotNow s = w at hframe
    rw [hframe]
  · rw [hctl n]
    rfl
  · have hmem : (n, i) ∈ (portsOf s 5).zipIdx := by
      rw [List.mem_iff_getElem?]
      exact ⟨i, by rw [List.getElem?_zipIdx, hi, Nat.zero_add]; rfl⟩
    rw [(hbits n).1]
    refine (hon _ hmem).trans ?_
    rw [← hg]
    rfl

/-- Settles O41: the early warning, the collapse of the bus, shedding, the caps and the slots of the throttle. -/
theorem warningCollapseSheddingAndCaps : Obligations.WarningCollapseSheddingAndCaps :=
  ⟨⟨fun _ => warning_spec, fun _ => collapse_spec, fun _ _ _ _ => shed_spec⟩,
    fun _ _ => rfl, fun _ _ _ => capSelect_spec, fun _ => tapLimitStep_spec, fun _ => throttle_spec⟩

end Sys2Proof.Machine
end

section
/-! PROOFS. The packs and the shelf: rest, charge pulses, identity, watchdog, ship mode, service press (R255 to R271, R406). -/
namespace Sys2Proof.Machine

/-! ### One pack -/

theorem onlyPack_updPack (s : State) (p : Nat) (f : Pack → Pack) : OnlyPack s (updPack s p f) p :=
  ⟨rfl, fun _ hk => pack_updPack_other s _ _ f hk⟩

theorem onlyPack_refl (s : State) (p : Nat) : OnlyPack s s p := ⟨rfl, fun _ _ => rfl⟩

theorem onlyPack_trans {s t u : State} {p : Nat} (h : OnlyPack s t p) (h' : OnlyPack t u p) : OnlyPack s u p :=
  ⟨packsAlone_trans h.1 h'.1, fun k hk => (h'.2 k hk).trans (h.2 k hk)⟩

/-! ### Rest points (R255 to R257) -/

theorem learnClose_spec (s : State) (p : Nat) (x : Rat) :
    OnlyPack s (learnClose s p x) p ∧ (pack (learnClose s p x) p).charge = (pack s p).charge := by
  have hstick (b : Nat) : OnlyPack s (packStick s p b) p ∧ (pack (packStick s p b) p).charge = (pack s p).charge :=
    ⟨onlyPack_updPack s p _, by unfold packStick; rw [pack_updPack]⟩
  unfold learnClose
  dsimp only
  split
  · exact ⟨onlyPack_refl s p, rfl⟩
  split
  · exact hstick 2
  · obtain ⟨honly, hcharge⟩ := hstick 1
    refine ⟨onlyPack_trans honly (onlyPack_updPack _ p _), ?_⟩
    rw [pack_updPack]
    exact hcharge

/-- A strictly rising table rises between any two of its points. -/
theorem ocv_le {s : State} (hrise : ∀ j < 10, ocv s j < ocv s (j + 1)) {i : Nat} : ∀ j, i ≤ j → j ≤ 10 → ocv s i ≤ ocv s j := by
  intro j hij
  induction j, hij using Nat.le_induction with
  | base => exact fun _ => le_refl _
  | succ j _ ih => exact fun hj => (ih (by omega)).trans (hrise j (by omega)).le

/-- The cell table gives SOC between the points that hold the voltage. -/
theorem socOcv_between {s : State} {v : Rat} {k : Nat} (hk : k < 10) (hrise : ∀ j < 10, ocv s j < ocv s (j + 1)) (hlo : ocv s k < v)
    (hhi : v ≤ ocv s (k + 1)) : socOcv s v = some (q40 ((k : Rat) * 10 + (v - ocv s k) / (ocv s (k + 1) - ocv s k) * 10)) := by
  have hfind : ((List.range 10).find? fun j => decide (ocv s j ≤ v) && decide (v ≤ ocv s (j + 1))) = some k := by
    refine List.find?_range_eq_some.2 ⟨?_, List.mem_range.2 hk, fun j hj => ?_⟩
    · rw [decide_eq_true hlo.le, decide_eq_true hhi]
      rfl
    · rw [decide_eq_false (not_le.2 ((ocv_le hrise k (by omega) (by omega)).trans_lt hlo)), Bool.and_false]
      rfl
  unfold socOcv
  rw [hfind]
  rfl

theorem longRest_spec (s : State) (p : PackId) (x : Rat) : let k := pack s p
    let v := k.avgSum / ((k.avgN : Nat) : Rat) / series s p
    (k.restTime < 1200 ∨ k.resting = false ∨ k.restDone = true → exec (.longRest p x) s = .next s)
    ∧ (boundTo s p ≠ none → k.resting = true → k.restDone = false → 1200 ≤ k.restTime → k.avgFrom + 60 ≤ k.restTime →
      0 < k.avgN → domainRuns s = true → s.boot.restarting = false → ∃ t, exec (.longRest p x) s = .next t
      ∧ t = { s with shelf := { s.shelf with packs := t.shelf.packs } } ∧ (∀ k, k ≠ p.val → pack t k = pack s k)
      ∧ (pack t p).restDone = true ∧ (pack t p).waitRest = false ∧ (pack t p).discharged = 0 ∧ (pack t p).learnOpen = true
      ∧ (pack t p).learnCharge = k.charge ∧ (pack t p).learnTime = 0 ∧ (pack t p).learnSoc = (pack t p).soc
      ∧ ∀ k, k < 10 → (∀ j < 10, ocv s j < ocv s (j + 1)) → ocv s k < v → v ≤ ocv s (k + 1) →
          (pack t p).soc = q40 ((k : Rat) * 10 + (v - ocv s k) / (ocv s (k + 1) - ocv s k) * 10)) := by
  intro k v
  refine ⟨fun h => congrArg Host.Outcome.next (if_neg ?_), fun hbound hrest hnew htime havg hn hdom hcollar => ?_⟩
  · unfold restDue
    simp only [Bool.and_eq_true, decide_eq_true_eq, Bool.not_eq_true']
    rintro ⟨⟨⟨⟨⟨⟨⟨-, hrest⟩, hnew⟩, htime⟩, -⟩, -⟩, -⟩, -⟩
    rcases h with h | h | h
    · exact absurd htime (not_le.2 h)
    · exact absurd (h.symm.trans hrest) Bool.false_ne_true
    · exact absurd (hnew.symm.trans h) Bool.false_ne_true
  obtain ⟨honly, hcharge⟩ := learnClose_spec s p ((socOcv s v).getD x)
  have hexec : exec (.longRest p x) s = .next (longRest s p x) := by
    refine congrArg Host.Outcome.next (if_pos ?_)
    unfold restDue
    dsimp only
    rw [Option.isSome_iff_ne_none.2 hbound, hrest, hnew, decide_eq_true htime, decide_eq_true havg, decide_eq_true hn, hdom, hcollar]
    rfl
  obtain ⟨hframe, hother⟩ := onlyPack_trans honly (onlyPack_updPack _ p fun k => { k with
    soc := (socOcv s v).getD x, restDone := true, rested := true, waitRest := false, discharged := 0, learnOpen := true
    learnSoc := (socOcv s v).getD x, learnCharge := k.charge, learnTime := 0 })
  refine ⟨_, hexec, hframe, hother, ?_⟩
  unfold longRest
  dsimp only
  rw [pack_updPack]
  refine ⟨rfl, rfl, rfl, rfl, hcharge, rfl, rfl, fun j hj hrise hlo hhi => ?_⟩
  exact congrArg (Option.getD · x) (socOcv_between hj hrise hlo hhi)

/-! ### Charge pulses (R259, R265) -/

theorem pulseEnd_spec {s : State} {p : PackId} (hstate : (pack s p).chgState = 1) :
    ((pack s p).chgSeams < seamsOf s (cfgF s 0x26F0 5) → exec (.chargePulseEnd p) s = .next s)
    ∧ (seamsOf s (cfgF s 0x26F0 5) ≤ (pack s p).chgSeams → ∃ t, exec (.chargePulseEnd p) s = .next t ∧ OnlyPack s t p
      ∧ (pack t p).chgState = (if (pack s p).cvHeld && (pack s p).termLow then 3 else 2) ∧ (pack t p).chgSeams = 0
      ∧ ((pack s p).cvHeld = true → (pack s p).termLow = true → (pack t p).full = true)
      ∧ (pack t p).vOn = q40 (mean (pack s p).onV) ∧ (pack t p).iOn = q40 (mean (pack s p).onI) ∧ (pack t p).impPend = true) := by
  have hdue : pulseDue s p = decide (seamsOf s (cfgF s 0x26F0 5) ≤ (pack s p).chgSeams) := by
    unfold pulseDue
    rw [hstate]
    rfl
  refine ⟨fun h => congrArg Host.Outcome.next (if_neg ?_), fun h => ?_⟩
  · rw [hdue, decide_eq_false (not_le.2 h)]
    exact Bool.false_ne_true
  refine ⟨_, congrArg Host.Outcome.next (if_pos (by rw [hdue, decide_eq_true h])), ?_⟩
  have hstop (state : Nat) : OnlyPack s (pulseStop s p state) p ∧ pack (pulseStop s p state) p = { pack s p with
      chgState := state, chgSeams := 0, vOn := q40 (mean (pack s p).onV), iOn := q40 (mean (pack s p).onI), offRounds := 0, offSum := 0
      offGood := false, impPend := state == 2 || state == 3 } :=
    ⟨onlyPack_updPack s p _, pack_updPack s p _⟩
  unfold pulseEnd
  dsimp only
  by_cases hfull : ((pack s p).cvHeld && (pack s p).termLow) = true
  · rw [if_pos hfull, if_pos hfull, pack_updPack, (hstop 3).2]
    exact ⟨onlyPack_trans (hstop 3).1 (onlyPack_updPack _ p _), rfl, rfl, fun _ _ => rfl, rfl, rfl, rfl⟩
  · rw [if_neg hfull, if_neg hfull, (hstop 2).2]
    exact ⟨(hstop 2).1, rfl, rfl, fun hcv hlow => absurd (by rw [hcv, hlow]; rfl) hfull, rfl, rfl, rfl⟩

theorem chargeRest_spec {s : State} {p : PackId} (hstate : (pack s p).chgState = 2) :
    ((pack s p).chgSeams < seamsOf s (cfgF s 0x26F0 6) → exec (.chargeRestEnd p) s = .next s)
    ∧ (seamsOf s (cfgF s 0x26F0 6) ≤ (pack s p).chgSeams → ∃ t, exec (.chargeRestEnd p) s = .next t ∧ OnlyPack s t p
      ∧ pack t p = { pack s p with chgState := 1, chgSeams := 0, tempHold := false, cvHeld := false, termLow := false, onV := [], onI := [] }) := by
  have hdue : chargeRestDue s p = decide (seamsOf s (cfgF s 0x26F0 6) ≤ (pack s p).chgSeams) := by
    unfold chargeRestDue
    rw [hstate]
    rfl
  refine ⟨fun h => congrArg Host.Outcome.next (if_neg ?_), fun h => ?_⟩
  · rw [hdue, decide_eq_false (not_le.2 h)]
    exact Bool.false_ne_true
  · exact ⟨_, congrArg Host.Outcome.next (if_pos (by rw [hdue, decide_eq_true h])), onlyPack_updPack s p _, pack_updPack s p _⟩

/-! ### The identity read and PACK_RESET (R260 to R263) -/

theorem pmuIdRead_spec (s : State) (p : PackId) :
    (boundTo s p = none ∨ kcfg s p 2 = 0xFF ∨ commands s = false ∨ s.boot.restarting = true → exec (.pmuIdRead p) s = .next s)
    ∧ ∀ n, boundTo s p = some n → kcfg s p 2 ≠ 0xFF → commands s = true → s.boot.restarting = false →
      let l : Link := { link s n with idTag := (link s n).idTag ++ [(link s n).tag] }
      ∃ t, exec (.pmuIdRead p) s = .next t ∧ OnlyLink s t n ∧ link t n = { l with
        tag := (l.tag + 1) % 256, mbx := offer (poolBytes (setLink s n l)) l.mbx 2 (message 0x10 l.tag
          (leBytes 1 (kcfg s p 2) ++ leBytes 1 (kcfg s p 3) ++ [2, 1, 32, 0] ++ leBytes 2 25 ++ leBytes 1 (kcfg s p 4))) } := by
  constructor
  · intro h
    refine congrArg Host.Outcome.next ?_
    unfold readIdent
    split
    · rfl
    next n hbound =>
      refine if_pos ?_
      rcases h with h | h | h | h
      · cases hbound.symm.trans h
      · exact .inl h
      · exact .inr (.inl (by rw [h]; rfl))
      · exact .inr (.inr h)
  · intro n hbound hunit hcmd hcollar l
    generalize hbody : leBytes 1 (kcfg s p 2) ++ leBytes 1 (kcfg s p 3) ++ [2, 1, 32, 0] ++ leBytes 2 25 ++ leBytes 1 (kcfg s p 4) = body
    have hread : readIdent s p = sendMsg (setLink s n l) n 2 0x10 body := by
      unfold readIdent
      split
      next h => cases hbound.symm.trans h
      next m h =>
        cases hbound.symm.trans h
        rw [← hbody]
        refine if_neg ?_
        rintro (h | h | h)
        · exact hunit h
        · rw [hcmd] at h; exact Bool.false_ne_true h
        · rw [hcollar] at h; exact Bool.false_ne_true h
    refine ⟨_, congrArg Host.Outcome.next hread, ?_, ?_⟩
    · exact onlyLink_trans (onlyLink_setLink s n l) (onlyLink_updLink _ n _)
    · unfold sendMsg
      rw [link_updLink, link_setLink]

theorem effect_packReset {s : State} {p v : Nat} (hp : p < 32) :
    effect s (0x2600 + p) 10 v = mirrored (packResetWrite s p v) (0x2600 + p) 10 v := by
  rw [effect_2400 (by omega) (by omega)]
  unfold effect2400
  dsimp only
  split <;> try omega
  rw [if_neg (by omega), if_pos (by omega), Nat.add_sub_cancel_left]

theorem packReset_spec {s : State} {lvl : Level} {p : PackId} {v : Byte} (hadm : Admits s lvl (0x2600 + p) 10 v.toNat) :
    let told (u : State) := sendCtrl u (.command (0x2600 + p) 10 v.toNat)
    (v = 0 → exec (.packReset lvl p v) s = .next (told (answered s stOK)))
    ∧ (v ≠ 0 → ∃ t, exec (.packReset lvl p v) s = .next (told t)
        ∧ t = { answered s stOK with shelf := { s.shelf with packs := t.shelf.packs } } ∧ (∀ k, k ≠ p.val → pack t k = pack s k)
        ∧ pack t p = { pack s p with resetPend := some (skipNow s) }) := by
  have hexec := exec_admitted (c := .packReset lvl p v) rfl hadm
  rw [dropReserved_low (by omega) (by omega) (by omega) (by omega), effect_packReset p.isLt] at hexec
  refine ⟨fun h => ?_, fun h => ?_⟩
  · subst h
    rw [hexec]
    exact congrArg Host.Outcome.next (withStatus_sendCtrl _ _ _)
  · have hwrite : packResetWrite (taken s) p v.toNat = (stOK, updPack (taken s) p fun k => { k with resetPend := some (skipNow s) }) :=
      if_neg fun h' => h (BitVec.eq_of_toNat_eq h')
    have hpack (u : State) (k : Nat) : pack (withStatus u stOK) k = pack u k := rfl
    rw [hwrite] at hexec
    refine ⟨withStatus (updPack (taken s) p fun k => { k with resetPend := some (skipNow s) }) stOK, ?_, rfl, fun k hk => ?_, ?_⟩
    · rw [hexec]
      exact congrArg Host.Outcome.next (withStatus_sendCtrl _ _ _)
    · rw [hpack, pack_updPack_other _ _ _ _ hk]
      rfl
    · rw [hpack, pack_updPack]
      rfl

/-! ### The charge watchdog (R267) -/

theorem cwd_spec {s : State} (hup : s.boot.collarUp = true) (hrun : s.boot.restarting = false) (hnew : s.shelf.cwdSafe = false) :
    (s.shelf.cwdTime < cfgF s 0x26F0 9 → exec .cwdExpiry s = .next s)
    ∧ (cfgF s 0x26F0 9 ≤ s.shelf.cwdTime →
      exec .cwdExpiry s = .next { s with shelf := { s.shelf with cwdSafe := true, sticky := s.shelf.sticky ||| 1 } }) := by
  have hdue : cwdDue s = decide (cfgF s 0x26F0 9 ≤ s.shelf.cwdTime) := by
    unfold cwdDue
    rw [hup, hrun, hnew]
    rfl
  refine ⟨fun h => congrArg Host.Outcome.next (if_neg ?_), fun h => congrArg Host.Outcome.next (if_pos ?_)⟩
  · rw [hdue, decide_eq_false (not_le.2 h)]
    exact Bool.false_ne_true
  · rw [hdue, decide_eq_true h]

theorem cwdKick_spec {s : State} {lvl : Level} {v : Byte} (hadm : Admits s lvl 0x26F0 12 v.toNat) :
    exec (.cwdKick lvl v) s = .next { answered s stOK with shelf := { s.shelf with cwdTime := 0 } } := by
  have hexec := exec_admitted (c := .cwdKick lvl v) rfl hadm
  rw [dropReserved_low (by decide) (by decide) (by decide) (by decide)] at hexec
  exact hexec

/-! ### Ship mode (R268, R269) -/

theorem shipCmd_spec {s : State} {lvl : Level} {v : Byte} (hadm : Admits s lvl 0x26F0 15 v.toNat) :
    let told (u : State) := sendCtrl u (.command 0x26F0 15 v.toNat)
    (v = 0 → exec (.shipCmd lvl v) s = .next (told (answered s stOK)))
    ∧ (v ≠ 0 → s.flow.state = 2 ∨ s.flow.state = 3 → exec (.shipCmd lvl v) s = .next (answered s stState))
    ∧ (v ≠ 0 → s.flow.state ≠ 2 → s.flow.state ≠ 3 → exec (.shipCmd lvl v) s = .next (told { answered s stOK with
        shelf := { s.shelf with shipPend := some (skipNow s) } })) := by
  have heff : effect (taken s) 0x26F0 15 v.toNat = mirrored (shipWrite (taken s) v.toNat) 0x26F0 15 v.toNat := rfl
  have hexec := exec_admitted (c := .shipCmd lvl v) rfl hadm
  rw [dropReserved_low (by decide) (by decide) (by decide) (by decide), heff] at hexec
  have hnat (h : v ≠ 0) : v.toNat ≠ 0 := fun h' => h (BitVec.eq_of_toNat_eq h')
  refine ⟨fun h => ?_, fun h hbusy => ?_, fun h h2 h3 => ?_⟩
  · subst h
    rw [hexec]
    exact congrArg Host.Outcome.next (withStatus_sendCtrl _ _ _)
  · have hwrite : shipWrite (taken s) v.toNat = (stState, taken s) := (if_neg (hnat h)).trans (if_pos hbusy)
    rw [hexec, hwrite]
    rfl
  · have hwrite : shipWrite (taken s) v.toNat = (stOK, { taken s with shelf := { s.shelf with shipPend := some (skipNow s) } }) :=
      (if_neg (hnat h)).trans (if_neg fun h => h.elim h2 h3)
    rw [hexec, hwrite]
    exact congrArg Host.Outcome.next (withStatus_sendCtrl _ _ _)

/-- A port that leaves a state other than RUNNING changes nothing of the configuration. -/
theorem setPState_stopped {s : State} {n : Nat} (x : PState) (h : (link s n).state ≠ .running) :
    ∃ (l : Tab Link) (c : Tab Ctl) (p : Tab Pack), setPState s n x = { s with links := l, ctls := c, shelf := { s.shelf with packs := p } } := by
  unfold setPState
  dsimp only
  split
  · exact ⟨_, _, _, rfl⟩
  rw [if_neg (mt beq_iff_eq.1 h)]
  split <;> split <;> exact ⟨_, _, _, rfl⟩

/-- From one state to another nothing changes but ports and packs. -/
def PortsPacks (s t : State) : Prop := t = { s with links := t.links, ctls := t.ctls, shelf := { s.shelf with packs := t.shelf.packs } }

theorem portsPacks_trans {s t u : State} (h : PortsPacks s t) (h' : PortsPacks t u) : PortsPacks s u := by
  unfold PortsPacks at *
  rw [h', h]

theorem portHeld_of {s t : State} (h : PortsPacks s t) {n : Nat} (hlink : link t n = link s n) (hctl : ctl t n = ctl s n) :
    portHeld t n = portHeld s n := by
  unfold portHeld
  rw [hlink, hctl, h]
  rfl

theorem freeState_of {s t : State} (h : PortsPacks s t) {n : Nat} (hlink : link t n = link s n) : freeState t n = freeState s n := by
  have hcfg (sub : Nat) : pcfg t n sub = pcfg s n sub := cfg_of (by rw [h]) (by rw [h]) _ _
  unfold freeState readyOk classOk classFits declClass uidOk fwCurrent imageHeld
  rw [hlink, hcfg, hcfg, h]

theorem shipBack_spec (s : State) (n : Nat) : PortsPacks s (shipBack s n) ∧ PortsStand s (shipBack s n) [n]
    ∧ ((link s n).state = .hem ∧ portHeld s n = false → (link (shipBack s n) n).state = freeState s n)
    ∧ (¬((link s n).state = .hem ∧ portHeld s n = false) → shipBack s n = s) := by
  have hiff : ((link s n).state == .hem && !portHeld s n) = true ↔ (link s n).state = .hem ∧ portHeld s n = false := by simp
  by_cases h : (link s n).state = .hem ∧ portHeld s n = false
  · obtain ⟨l, c, p, hset⟩ := setPState_stopped (n := n) (freeState s n) (by rw [h.1]; decide)
    have hstate : (link (setPState s n (freeState s n)) n).state = freeState s n := by rw [link_setPState_same]
    have hback : shipBack s n = if startStatus (setPState s n (freeState s n)) n = stOK then queueCmd (setPState s n (freeState s n)) n 1
        else setPState s n (freeState s n) := if_pos (hiff.2 h)
    have hmoves := moves_setPState s n (freeState s n)
    rw [hback]
    refine ⟨?_, ?_, fun _ => ?_, fun hn => absurd h hn⟩
    · split
      · exact portsPacks_trans (t := setPState s n (freeState s n)) (by rw [hset]; rfl) rfl
      · rw [hset]; rfl
    · split
      · exact (moves_trans hmoves (moves_updCtl _ n _)).stand
      · exact hmoves.stand
    · split
      · exact hstate
      · exact hstate
  · have hback : shipBack s n = s := if_neg fun h' => h (hiff.1 h')
    rw [hback]
    exact ⟨rfl, fun _ _ => ⟨rfl, rfl⟩, fun h' => absurd h' h, fun _ => rfl⟩

theorem freeState_ne_hem (s : State) (n : Nat) : freeState s n ≠ .hem := by
  unfold freeState
  split <;> decide

theorem shipBack_fold (l : List Nat) : ∀ s : State, PortsPacks s (l.foldl shipBack s) ∧ PortsStand s (l.foldl shipBack s) l
    ∧ ∀ n ∈ l, (link (l.foldl shipBack s) n).state =
        if (link s n).state = .hem ∧ portHeld s n = false then freeState s n else (link s n).state := by
  induction l with
  | nil => exact fun s => ⟨rfl, fun _ _ => ⟨rfl, rfl⟩, fun n hn => absurd hn (by simp)⟩
  | cons a l ih =>
    intro s
    obtain ⟨hframe, hstand, hfree, hsame⟩ := shipBack_spec s a
    obtain ⟨hframe', hstand', hstate'⟩ := ih (shipBack s a)
    refine ⟨portsPacks_trans hframe hframe', fun m hm => ?_, fun n hn => ?_⟩
    · obtain ⟨hl, hc⟩ := hstand' m fun h => hm (List.mem_cons_of_mem _ h)
      obtain ⟨hl', hc'⟩ := hstand m fun h => hm (List.mem_cons.2 (.inl (List.mem_singleton.1 h)))
      exact ⟨hl.trans hl', hc.trans hc'⟩
    by_cases ha : n = a
    · subst ha
      by_cases h : (link s n).state = .hem ∧ portHeld s n = false
      · rw [if_pos h]
        by_cases hl : n ∈ l
        · refine (hstate' n hl).trans ((if_neg ?_).trans (hfree h))
          rw [hfree h]
          exact fun h' => freeState_ne_hem s n h'.1
        · exact (congrArg Link.state (hstand' n hl).1).trans (hfree h)
      · by_cases hl : n ∈ l
        · have hn := hstate' n hl
          rw [hsame h] at hn
          rw [List.foldl_cons, hsame h]
          exact hn
        · exact (congrArg Link.state (hstand' n hl).1).trans ((congrArg (fun u => (link u n).state) (hsame h)).trans (if_neg h).symm)
    · obtain ⟨hl, hc⟩ := hstand n fun h => ha (List.mem_singleton.1 h)
      refine (hstate' n ((List.mem_cons.1 hn).resolve_left ha)).trans ?_
      rw [hl, portHeld_of hframe hl hc, freeState_of hframe hl]

theorem shipExit_early {s : State} (h : s.shelf.busValid < 10) : exec .shipExit s = .next s := by
  refine congrArg Host.Outcome.next (if_neg ?_)
  unfold shipDue
  rw [decide_eq_false (not_le.2 h), Bool.and_false]
  exact Bool.false_ne_true

theorem shipExit_spec {s : State} (hship : s.shelf.ship = true) (hbus : busOk s = true) (hvalid : 10 ≤ s.shelf.busValid) :
    ∃ t, exec .shipExit s = .next t
      ∧ t = { s with links := t.links, ctls := t.ctls, shelf := { s.shelf with
          packs := t.shelf.packs, ship := false, busValid := 0, sticky := s.shelf.sticky ||| 8 } }
      ∧ PortsStand s t (battPorts s)
      ∧ ∀ n ∈ battPorts s, (link t n).state = if (link s n).state = .hem ∧
          portHeld { s with shelf := { s.shelf with ship := false } } n = false then freeState s n else (link s n).state := by
  have hexec : exec .shipExit s = .next (shipNow s) := by
    refine congrArg Host.Outcome.next (if_pos ?_)
    unfold shipDue
    rw [hship, hbus, decide_eq_true hvalid]
    rfl
  obtain ⟨hframe, hstand, hstate⟩ := shipBack_fold (battPorts s)
    { s with shelf := { s.shelf with ship := false, busValid := 0, sticky := s.shelf.sticky ||| 8 } }
  exact ⟨_, hexec, hframe, hstand, hstate⟩

/-! ### The service press (R270, R271, R406) -/

theorem portsToHem_moves (l : List Nat) : ∀ s : State, Moves l s (portsToHem s l) := by
  induction l with
  | nil => exact fun s => moves_refl _ s
  | cons a l ih =>
    exact fun s => moves_trans (moves_mono (by simp) (moves_portToHem s a)) (moves_mono (by simp +contextual) (ih (portToHem s a)))

theorem shelf_setPState (s : State) (n : Nat) (x : PState) : ∃ p : Tab Pack, (setPState s n x).shelf = { s.shelf with packs := p } := by
  unfold setPState
  dsimp only
  split
  · exact ⟨_, rfl⟩
  split <;> split <;> split <;> exact ⟨_, rfl⟩

theorem shelf_portsToHem (l : List Nat) (s : State) : ∃ p : Tab Pack, (portsToHem s l).shelf = { s.shelf with packs := p } := by
  unfold portsToHem
  refine List.foldlRecOn (motive := fun t : State => ∃ p : Tab Pack, t.shelf = { s.shelf with packs := p }) _ _ ⟨_, rfl⟩ fun t ht n _ => ?_
  obtain ⟨p, hp⟩ := ht
  unfold portToHem
  split
  · obtain ⟨q, hq⟩ := shelf_setPState t n .hem
    exact ⟨q, by rw [hq, hp]⟩
  · exact ⟨p, hp⟩

theorem svcPress_spec {s : State} (hused : s.shelf.btnUsed = false) (hclosed : s.shelf.svcOpen = false) : ∃ t, exec (.svcBtnN true) s = .next t
    ∧ t.shelf.btnLow = true ∧ t.shelf.btnUsed = true
    ∧ (s.flow.state = 2 ∨ s.flow.state = 3 → t.shelf.svcOpen = false ∧ t.shelf.sticky = s.shelf.sticky ||| 2
      ∧ t.links = s.links)
    ∧ (s.flow.state ≠ 2 → s.flow.state ≠ 3 → t.shelf.svcOpen = true ∧ t.shelf.sticky = s.shelf.sticky ||| 4
        ∧ (∀ n ∈ battPorts s, EntersHem s t n ∧ (declClass s n = 3 → portHeld t n = true)) ∧ PortsStand s t (battPorts s)) := by
  have hlet : (s.shelf.btnUsed || s.shelf.svcOpen) = false := by rw [hused, hclosed]; rfl
  by_cases hbusy : s.flow.state = 2 ∨ s.flow.state = 3
  · obtain ⟨r, hr⟩ := addRecord_frame { s with shelf := { s.shelf with btnLow := true, btnUsed := true, sticky := setBit s.shelf.sticky 1 } }
      (Config.recordCode 1).toNat s.wheel.round (Config.recordData 1)
    have hexec : exec (.svcBtnN true) s = .next (addRecord
        { s with shelf := { s.shelf with btnLow := true, btnUsed := true, sticky := setBit s.shelf.sticky 1 } }
        (Config.recordCode 1).toNat s.wheel.round (Config.recordData 1)) :=
      congrArg Host.Outcome.next ((if_neg (Bool.eq_false_iff.1 hlet)).trans (if_pos hbusy))
    rw [hr] at hexec
    exact ⟨_, hexec, rfl, rfl, fun _ => ⟨hclosed, rfl, rfl⟩, fun h2 h3 => absurd hbusy fun h => h.elim h2 h3⟩
  · generalize hu : ({ s with shelf := { s.shelf with
      btnLow := true, btnUsed := true, sticky := setBit s.shelf.sticky 2, svcOpen := true } } : State) = u
    obtain ⟨r, hr⟩ := addRecord_frame (portsToHem u (battPorts s)) (Config.recordCode 2).toNat (portsToHem u (battPorts s)).wheel.round
      (Config.recordData 2)
    have hexec : exec (.svcBtnN true) s = .next (addRecord (portsToHem u (battPorts s)) (Config.recordCode 2).toNat
        (portsToHem u (battPorts s)).wheel.round (Config.recordData 2)) := by
      rw [← hu]
      exact congrArg Host.Outcome.next ((if_neg (Bool.eq_false_iff.1 hlet)).trans (if_neg hbusy))
    obtain ⟨p, hshelf⟩ := shelf_portsToHem (battPorts s) u
    obtain ⟨⟨hframe, -⟩, hstand⟩ := portsToHem_moves (battPorts s) u
    have hbatt : battPorts u = battPorts s := by rw [← hu]; rfl
    have hlink (m : Nat) : link (portsToHem u (battPorts s)) m = if m ∈ battPorts s then hemmed (link s m) else link s m := by
      rw [link_portsToHem, ← hu]
      rfl
    rw [hr] at hexec
    generalize hv : portsToHem u (battPorts s) = v at hexec hshelf hframe hstand hlink
    have hsh : v.shelf = { s.shelf with packs := p, btnLow := true, btnUsed := true, sticky := setBit s.shelf.sticky 2, svcOpen := true } := by
      rw [hshelf, ← hu]
    refine ⟨_, hexec, ?_, ?_, fun h => absurd h hbusy, fun _ _ => ⟨?_, ?_, fun n hn => ⟨?_, fun hcls => ?_⟩, fun m hm => ⟨?_, ?_⟩⟩⟩
    · exact congrArg Shelf.btnLow hsh
    · exact congrArg Shelf.btnUsed hsh
    · exact congrArg Shelf.svcOpen hsh
    · exact congrArg Shelf.sticky hsh
    · have h := hlink n
      rw [if_pos hn] at h
      exact (congrArg Link.state h).trans (state_hemmed _)
    · have hcont : contactorHold { v with recorder := r } n = true := by
        have hpat : v.pat = s.pat := by rw [hframe, ← hu]
        unfold contactorHold declClass at *
        dsimp only
        rw [hsh, hpat, hcls]
        simp
      simp [portHeld, hcont]
    · have h := hlink m
      rw [if_neg hm] at h
      exact h
    · refine (hstand m hm).2.trans ?_
      rw [← hu]
      rfl

/-- Settles O42: rest points, charge pulses, the identity read, PACK_RESET, the charge watchdog, ship mode and the service press. -/
theorem packsAndTheShelfAreKept : Obligations.PacksAndTheShelfAreKept :=
  ⟨⟨longRest_spec, fun _ _ => pulseEnd_spec, fun _ _ => chargeRest_spec, pmuIdRead_spec, fun _ _ _ _ => packReset_spec⟩,
    fun _ => cwd_spec, fun _ _ _ => cwdKick_spec, fun _ _ _ => shipCmd_spec, fun _ _ _ => shipExit_early, fun _ => shipExit_spec,
    fun _ => rfl, fun _ => svcPress_spec, fun _ _ =>
      ⟨fun h => congrArg Host.Outcome.next (if_neg (Bool.eq_false_iff.1 h)), fun h => congrArg Host.Outcome.next (if_pos h)⟩⟩

end Sys2Proof.Machine
end

section
/-! PROOFS. The sequencing table (R279 to R287): the counterexample to the ramp of a port that a shutdown stops. -/
namespace Sys2Proof.Machine

/-- A shutdown whose deadline has come, with one step to stop; its port 0 runs and is already marked for READY at its next
round, as nothing in the model's state excludes. -/
def markedReady : State := { State.reset with
  links := [(0, { state := .running })], ctls := [(0, { readyNext := true })]
  sq := { State.reset.sq with
    shutdown := true, deadline := some 0, stopOrder := [0]
    steps := [(0, { state := 2, ports := [0], vals := { offDelay := 1, rampDown := 1 } })] } }

/-- The round in which the port stops takes the mark for READY and drops the ramp-down that STOPPING has just begun. -/
theorem markedReady_dropsRamp : ∀ t, exec .pfwDeadline markedReady = .next t → (ctl t 0).ramp = none := by
  intro t ht
  have hexec : exec .pfwDeadline markedReady = .next (stopFirst markedReady) := congrArg Host.Outcome.next (if_pos (by decide +kernel))
  rw [← Host.Outcome.next.inj (hexec.symm.trans ht)]
  decide +kernel

/-- Refutes O43: at the deadline of the early warning a running port that is marked for READY enters STOPPING without a ramp-down. -/
theorem not_theSequenceRisesAndFails : ¬ Obligations.TheSequenceRisesAndFails := by
  rintro ⟨-, -, -, -, hdeadline⟩
  obtain ⟨hstop, -⟩ := hdeadline markedReady 0 [] 0
  obtain ⟨t, hexec, -, -, -, -, -, -, hramp, -⟩ := hstop rfl rfl rfl rfl rfl rfl
  have hnone := markedReady_dropsRamp t hexec
  have hsome := hramp (by decide)
  rw [hnone] at hsome
  cases hsome

end Sys2Proof.Machine
end

section
/-! PROOFS. The doubts of controller scope and the causes that raise none (R289, R293 to R296, R402, R433, R435). -/
namespace Sys2Proof.Machine

/-! ### A doubt that is raised -/

/-- What a doubt of controller scope does to the machine, whose number is its SUMMARY bit. -/
structure Doubted (s t : State) (bit : Nat) : Prop where
  summary : hasBit t.hem.summary bit = true
  held : t.hem.held = true
  hem : ∀ n ∈ linkPorts s, EntersHem s t n
  links : ∀ n, n ∉ linkPorts s → link t n = link s n
  halting : ∀ k < 32, (sleeve t k).halting = true
  first : s.hem.summary &&& 0x1F = 0 → t.hem.firstCause = bit ∧ t.hem.firstRound = s.wheel.round
  engines : t.arr.engines = s.arr.engines
  wheel : t.wheel = s.wheel
  net : t.net = s.net
  margin : MarginOnly s.cfg t.cfg
  boot : t.boot = s.boot

theorem raiseCtrl_doubted (s : State) {bit : Nat} (hbit : bit < 32) : Doubted s (raiseCtrl s bit) bit := by
  obtain ⟨x, a, b, c, d, q, r, y, h, hraise, hmargin, hsum, hheld, hfirst, hsleeves, hlinks⟩ := raiseCtrl_frame s bit
  rw [hraise]
  refine ⟨?_, hheld, fun n hn => ?_, fun n hn => (hlinks n).trans (if_neg hn), fun k hk => ?_, hfirst, rfl, rfl, rfl, hmargin, rfl⟩
  · exact (congrArg (hasBit · bit) hsum).trans (hasBit_setBit _ hbit)
  · exact (congrArg Link.state ((hlinks n).trans (if_pos hn))).trans (state_hemmed _)
  · exact congrArg Sleeve.halting ((hsleeves k).trans (if_pos hk))

theorem hemBit_of_ctrl {s : State} (h : s.hem.held = true) (n : Nat) : hemBit s n = true := by
  refine hemBit_of_held ?_
  simp [portHeld, ctrlHeld, h]

/-! ### Die temperatures (R289) -/

theorem foldMax_spec (l : List (BitVec 16)) : ∀ m : Int, let f := l.foldl (fun m x => if m < x.toInt then x.toInt else m) m
    m ≤ f ∧ (∀ x ∈ l, x.toInt ≤ f) ∧ (f = m ∨ ∃ x ∈ l, x.toInt = f) := by
  induction l with
  | nil => exact fun m => ⟨le_refl m, fun x hx => absurd hx (by simp), .inl rfl⟩
  | cons a l ih =>
    intro m
    dsimp only [List.foldl_cons]
    obtain ⟨hbase, hall, hsome⟩ := ih (if m < a.toInt then a.toInt else m)
    have hstep : m ≤ (if m < a.toInt then a.toInt else m) ∧ a.toInt ≤ (if m < a.toInt then a.toInt else m) := by
      split <;> omega
    refine ⟨hstep.1.trans hbase, fun x hx => ?_, ?_⟩
    · rcases List.mem_cons.1 hx with rfl | hx
      · exact hstep.2.trans hbase
      · exact hall x hx
    · rcases hsome with h | ⟨x, hx, h⟩
      · by_cases hlt : m < a.toInt
        · rw [if_pos hlt] at h ⊢
          exact .inr ⟨a, by simp, h.symm⟩
        · rw [if_neg hlt] at h ⊢
          exact .inl h
      · exact .inr ⟨x, List.mem_cons_of_mem _ hx, h⟩

/-- The highest of the die codes. -/
def dieTop (codes : List (BitVec 16)) : Int := codes.foldl (fun m x => if m < x.toInt then x.toInt else m) (-32768)

theorem dieTop_spec {codes : List (BitVec 16)} (h : codes ≠ []) :
    (∀ x ∈ codes, x.toInt ≤ dieTop codes) ∧ ∃ x ∈ codes, x.toInt = dieTop codes := by
  obtain ⟨-, hall, hsome⟩ := foldMax_spec codes (-32768)
  rcases hsome with hlow | hsome
  · obtain ⟨x, hx⟩ := List.exists_mem_of_ne_nil codes h
    have hle := hall x hx
    have hge := BitVec.le_toInt x
    rw [hlow] at hle
    exact ⟨hall, x, hx, (le_antisymm hle hge).trans hlow.symm⟩
  · exact ⟨hall, hsome⟩

theorem dieCodes_eq {codes : List (BitVec 16)} (h : codes.length = 8) : ((List.range 8).map fun k => (codes[k]?).getD 0) = codes := by
  refine List.ext_getElem (by simp [h]) fun k hk hk' => ?_
  rw [List.getElem_map, List.getElem_range, List.getElem?_eq_getElem hk']
  rfl

theorem mkRat_le_iff {a b : Int} : mkRat a 16 ≤ mkRat b 16 ↔ a ≤ b := by
  rw [Rat.mkRat_eq_div, Rat.mkRat_eq_div, div_le_div_iff_of_pos_right (by norm_num)]
  exact Int.cast_le

/-- The state after a die conversion, but for a doubt that it raises. -/
def converted (s : State) (codes : List (BitVec 16)) : State := { s with hem := { s.hem with
  dieCodes := codes, dieMax := mkRat (dieTop codes) 16
  dieRun := if cfgF s 0x2700 0x0B ≤ mkRat (dieTop codes) 16 then s.hem.dieRun + 1 else 0
  summary := setBitIf (decide (cfgF s 0x2700 0x0A ≤ mkRat (dieTop codes) 16)) s.hem.summary 5 } }

theorem exec_dieConversion {s : State} {codes : List (BitVec 16)} (h : codes.length = 8) : exec (.dieConversion codes) s = .next
    (if decide (2 ≤ (converted s codes).hem.dieRun) && !hasBit (converted s codes).hem.summary 2 then raiseCtrl (converted s codes) 2
      else converted s codes) := by
  refine congrArg Host.Outcome.next ?_
  dsimp only
  rw [dieCodes_eq h]
  rfl

theorem die_doubt {s : State} {codes : List (BitVec 16)} (hlen : codes.length = 8) (hrun : s.hem.dieRun ≥ 1)
    (hnew : hasBit s.hem.summary 2 = false) (hcrit : ∃ x ∈ codes, cfgF s 0x2700 0x0B ≤ mkRat x.toInt 16) :
    exec (.dieConversion codes) s = .next (raiseCtrl (converted s codes) 2) := by
  obtain ⟨x, hx, hcrit⟩ := hcrit
  have hne : codes ≠ [] := List.ne_nil_of_mem hx
  have hmax : (converted s codes).hem.dieRun = s.hem.dieRun + 1 :=
    if_pos (hcrit.trans (mkRat_le_iff.2 ((dieTop_spec hne).1 x hx)))
  have hbit : hasBit (converted s codes).hem.summary 2 = false := (hasBit_setBitIf_other _ _ (by decide)).trans hnew
  rw [exec_dieConversion hlen, hmax, hbit, decide_eq_true (by omega : 2 ≤ s.hem.dieRun + 1)]
  rfl

theorem die_cool {s : State} {codes : List (BitVec 16)} (hlen : codes.length = 8) (hcool : ∀ x ∈ codes, mkRat x.toInt 16 < cfgF s 0x2700 0x0B) :
    ∃ t, exec (.dieConversion codes) s = .next t ∧ t = { s with hem := { s.hem with
        dieCodes := codes, dieMax := t.hem.dieMax, dieRun := 0, summary := t.hem.summary } }
      ∧ (∀ x ∈ codes, mkRat x.toInt 16 ≤ t.hem.dieMax) ∧ (∃ x ∈ codes, mkRat x.toInt 16 = t.hem.dieMax)
      ∧ t.hem.summary = (if cfgF s 0x2700 0x0A ≤ t.hem.dieMax then s.hem.summary ||| 0x20 else s.hem.summary) := by
  have hne : codes ≠ [] := fun h => by rw [h] at hlen; cases hlen
  obtain ⟨hall, x, hx, htop⟩ := dieTop_spec hne
  have hrun : (converted s codes).hem.dieRun = 0 := if_neg (not_le.2 (htop ▸ hcool x hx))
  have hexec := exec_dieConversion (s := s) hlen
  rw [hrun] at hexec
  refine ⟨converted s codes, hexec, ?_, fun y hy => mkRat_le_iff.2 (hall y hy), ⟨x, hx, congrArg (mkRat · 16) htop⟩, ?_⟩
  · rw [← hrun]
    rfl
  · unfold converted setBitIf
    simp only [decide_eq_true_eq]
    rfl

/-! ### The rails and KILL_N (R402, R433, R435) -/

theorem supply_window {s : State} {rail : Byte} {ns : Nat} (hlo : 2 ≤ rail.toNat) (hhi : rail.toNat < 8) (hns : 1000 < ns) :
    exec (.supply rail ns) s = .next (raiseCtrl s 1) := by
  have hwin : (railWindow rail.toNat).isSome = true := by
    generalize rail.toNat = r at hlo hhi
    interval_cases r <;> rfl
  refine congrArg Host.Outcome.next ((if_neg (by omega)).trans (if_pos ?_))
  rw [hwin, decide_eq_true hns]
  rfl

theorem supply_quiet {s : State} {rail : Byte} {ns : Nat} (h : 8 ≤ rail.toNat ∨ (2 ≤ rail.toNat ∧ ns ≤ 1000)) :
    exec (.supply rail ns) s = .next s := by
  refine congrArg Host.Outcome.next ((if_neg (by omega)).trans (if_neg ?_))
  rcases h with h | ⟨-, h⟩
  · have hwin : railWindow rail.toNat = none := by
      unfold railWindow
      split
      any_goals omega
      rfl
    rw [hwin]
    exact Bool.false_ne_true
  · rw [decide_eq_false (by omega), Bool.and_false]
    exact Bool.false_ne_true

theorem tget_map_driving (l : Tab Link) (n : Nat) :
    tget ({} : Link) (l.map fun x => (x.1, { x.2 with driving := false })) n = { tget ({} : Link) l n with driving := false } := by
  induction l with
  | nil => rfl
  | cons x l ih =>
    unfold tget at *
    rw [List.map_cons, tfind, tfind]
    split
    · rfl
    · exact ih

theorem link_outputsOff (s : State) (n : Nat) : link (outputsOff s) n = { link s n with driving := false } := tget_map_driving _ n

theorem supply_core {s : State} {rail : Byte} {ns : Nat} (hrail : rail.toNat < 2) : ∃ t, exec (.supply rail ns) s = .next t
    ∧ t.boot.highZ = true ∧ t.wheel = { s.wheel with syncOut := 0 } ∧ (∀ n, (link t n).driving = false)
    ∧ (1000 < ns → hasBit t.hem.summary 1 = true ∧ t.hem.held = true ∧ (∀ n ∈ linkPorts s, EntersHem s t n)
        ∧ (∀ k < 32, (sleeve t k).halting = true) ∧ ∀ n, hemBit t n = true)
    ∧ (ns ≤ 1000 → t.hem = s.hem ∧ t.ctls = s.ctls ∧ t.arr = s.arr
        ∧ ∀ n, link t n = { link s n with driving := false }) := by
  have hwin : (railWindow rail.toNat).isSome = true := by
    generalize rail.toNat = r at hrail
    interval_cases r <;> rfl
  by_cases hns : 1000 < ns
  · have hd := raiseCtrl_doubted s (bit := 1) (by decide)
    have hexec : exec (.supply rail ns) s = .next (outputsOff (raiseCtrl s 1)) := by
      refine congrArg Host.Outcome.next ((if_pos hrail).trans (congrArg outputsOff (if_pos ?_)))
      rw [hwin, decide_eq_true hns]
      rfl
    have hlink (n : Nat) := link_outputsOff (raiseCtrl s 1) n
    refine ⟨_, hexec, rfl, ?_, fun n => by rw [hlink], fun _ => ⟨hd.summary, hd.held, fun n hn => ?_, hd.halting, hemBit_of_ctrl hd.held⟩,
      fun h => absurd hns (by omega)⟩
    · exact congrArg (fun w : Wheel => { w with syncOut := 0 }) hd.wheel
    · unfold EntersHem
      rw [hlink]
      exact hd.hem n hn
  · have hexec : exec (.supply rail ns) s = .next (outputsOff s) := by
      refine congrArg Host.Outcome.next ((if_pos hrail).trans (congrArg outputsOff (if_neg ?_)))
      rw [decide_eq_false hns, Bool.and_false]
      exact Bool.false_ne_true
    exact ⟨_, hexec, rfl, rfl, fun n => by rw [link_outputsOff], fun h => absurd h hns, fun _ => ⟨rfl, rfl, rfl, link_outputsOff s⟩⟩

/-! ### The obligation -/

theorem doubt_spec {s : State} {bit : Nat} {c : Instr} (h : (bit = 0 ∧ c = .killN true)
      ∨ (bit = 1 ∧ ∃ rail : Byte, ∃ ns, 2 ≤ rail.toNat ∧ rail.toNat < 8 ∧ 1000 < ns ∧ c = .supply rail ns)
      ∨ (bit = 2 ∧ s.hem.dieRun ≥ 1 ∧ hasBit s.hem.summary 2 = false ∧ ∃ codes : List (BitVec 16), codes.length = 8
          ∧ (∃ x ∈ codes, cfgF s 0x2700 0x0B ≤ mkRat x.toInt 16) ∧ c = .dieConversion codes)) :
    ∃ t, exec c s = .next t ∧ Doubted s t bit := by
  rcases h with ⟨rfl, rfl⟩ | ⟨rfl, rail, ns, hlo, hhi, hns, rfl⟩ | ⟨rfl, hrun, hnew, codes, hlen, hcrit, rfl⟩
  · obtain ⟨hsum, hheld, hhem, hlinks, hhalt, hfirst, heng, hwheel, hnet, hmargin, hboot⟩ :=
      raiseCtrl_doubted { s with hem := { s.hem with killLow := true } } (bit := 0) (by decide)
    exact ⟨_, rfl, hsum, hheld, hhem, hlinks, hhalt, hfirst, heng, hwheel, hnet, hmargin, hboot⟩
  · exact ⟨_, supply_window hlo hhi hns, raiseCtrl_doubted s (by decide)⟩
  · obtain ⟨hsum, hheld, hhem, hlinks, hhalt, hfirst, heng, hwheel, hnet, hmargin, hboot⟩ :=
      raiseCtrl_doubted (converted s codes) (bit := 2) (by decide)
    refine ⟨_, die_doubt hlen hrun hnew hcrit, hsum, hheld, hhem, hlinks, hhalt, fun h => hfirst ?_, heng, hwheel, hnet, hmargin, hboot⟩
    unfold converted setBitIf
    dsimp only
    split
    · have hbits : setBit s.hem.summary 5 &&& 0x1F = s.hem.summary &&& 0x1F := by
        show (s.hem.summary ||| bitW 5) &&& 0x1F = _
        rw [BitVec.and_or_distrib_right, show bitW 5 &&& 0x1F = 0#32 by decide, BitVec.or_zero]
      rw [hbits, h]
    · exact h

/-- Settles O44: the doubts of controller scope, the core rails, and the causes that raise nothing. -/
theorem doubtsHoldEveryPort : Obligations.DoubtsHoldEveryPort := by
  refine ⟨⟨fun s bit c h => ?_, fun s rail ns => supply_core⟩, fun s => ⟨rfl, fun _ _ => supply_quiet, fun _ => die_cool⟩⟩
  obtain ⟨t, hexec, hd⟩ := doubt_spec h
  refine ⟨t, hexec, hd.summary, hd.held, ?_, hd.hem, hd.links, hd.halting, hemBit_of_ctrl hd.held, hd.first, hd.engines, hd.wheel, hd.net,
    hd.margin, hd.boot⟩
  unfold ctrlHeld
  rw [hd.held]
  rfl

end Sys2Proof.Machine
end

section
/-! PROOFS. The releases of controller, Sleeve, port and group (R289, R298, R313, R344). -/
namespace Sys2Proof.Machine

/-- A release waits for its seam and is told to the mate, where it is accepted. -/
theorem exec_release {c : Instr} {s : State} {lvl : Level} {sub v : Nat} (hobj : objectOf c = some (lvl, 0x2310, sub, v))
    (hadm : Admits s lvl 0x2310 sub v) : exec c s = .next (withStatus (effect (taken s) 0x2310 sub v).2 (effect (taken s) 0x2310 sub v).1) := by
  have hexec := exec_admitted hobj hadm
  rwa [dropReserved_low (by omega) (by omega) (by omega) (by omega)] at hexec

/-! ### Controller and Sleeve -/

theorem clearController_spec {s : State} {lvl : Level} {v : Byte} (hadm : Admits s lvl 0x2310 1 v.toNat) :
    (v = 0 → exec (.clearController lvl v) s = .next (answered s stOK))
    ∧ (v ≠ 0 → s.hem.summary.toNat % 32 ≠ 0 → exec (.clearController lvl v) s = .next (answered s stState))
    ∧ (v ≠ 0 → s.hem.summary.toNat % 32 = 0 → s.hem.held = true → exec (.clearController lvl v) s = .next
        (sendCtrl { answered s stOK with hem := { s.hem with release := some (skipNow s) } } (.release 2 0))) := by
  have hexec := exec_release (c := .clearController lvl v) rfl hadm
  have heff : effect (taken s) 0x2310 1 v.toNat = if v.toNat = 0 then (stOK, taken s) else withRelease (clearController (taken s) v.toNat) 2 0 := rfl
  have hnat (h : v ≠ 0) : v.toNat ≠ 0 := fun h' => h (BitVec.eq_of_toNat_eq h')
  rw [heff] at hexec
  refine ⟨fun h => ?_, fun h hcause => ?_, fun h hnone hheld => ?_⟩
  · subst h
    exact hexec
  · have hclear : clearController (taken s) v.toNat = (stState, taken s) := (if_neg (hnat h)).trans (if_pos hcause)
    rw [if_neg (hnat h), hclear] at hexec
    exact hexec
  · have hclear : clearController (taken s) v.toNat = (stOK, { taken s with hem := { s.hem with release := some (skipNow s) } }) :=
      (if_neg (hnat h)).trans ((if_neg (not_not.2 hnone)).trans (if_pos hheld))
    rw [if_neg (hnat h), hclear] at hexec
    rw [hexec]
    exact congrArg Host.Outcome.next (withStatus_sendCtrl _ _ _)

theorem clearSleeve_spec {s : State} {lvl : Level} {v : Byte} (hadm : Admits s lvl 0x2310 2 v.toNat) :
    (ctrlHeld s = true ∨ (sleeve s v.toNat).sticky &&& 0x7F ≠ 0 → exec (.clearSleeve lvl v) s = .next (answered s stState))
    ∧ (ctrlHeld s = false → (sleeve s v.toNat).sticky &&& 0x7F = 0 → (sleeve s v.toNat).held = true →
        ∃ t, exec (.clearSleeve lvl v) s = .next t
          ∧ t = sendCtrl { answered s stOK with arr := { s.arr with sleeves := t.arr.sleeves } } (.release 1 v.toNat)
          ∧ (∀ k, k ≠ v.toNat → sleeve t k = sleeve s k)
          ∧ sleeve t v.toNat = { sleeve s v.toNat with restart := some (skipNow s) }) := by
  have hexec := exec_release (c := .clearSleeve lvl v) rfl hadm
  have heff : effect (taken s) 0x2310 2 v.toNat = withRelease (clearSleeve (taken s) v.toNat) 1 v.toNat := rfl
  rw [heff] at hexec
  refine ⟨fun h => ?_, fun hctrl hcause hheld => ?_⟩
  · have hclear : clearSleeve (taken s) v.toNat = (stState, taken s) := by
      refine if_pos ?_
      rw [Bool.or_eq_true, bne_iff_ne]
      exact h
    rw [hclear] at hexec
    exact hexec
  · generalize hu : updSleeve (taken s) v.toNat (fun x => { x with restart := some (skipNow s) }) = u at *
    have hclear : clearSleeve (taken s) v.toNat = (stOK, u) := by
      rw [← hu]
      refine (if_neg ?_).trans (if_pos hheld)
      rw [Bool.or_eq_true, bne_iff_ne]
      exact fun h => h.elim (fun h => Bool.false_ne_true (hctrl.symm.trans h)) fun h => h hcause
    have hnext : exec (.clearSleeve lvl v) s = .next (sendCtrl (withStatus u stOK) (.release 1 v.toNat)) := by
      rw [hexec, hclear]
      exact congrArg Host.Outcome.next (withStatus_sendCtrl _ _ _)
    have hframe := sendCtrl_frame (withStatus u stOK) (.release 1 v.toNat)
    have hsleeve (k : Nat) : sleeve (sendCtrl (withStatus u stOK) (.release 1 v.toNat)) k = sleeve u k := by
      rw [hframe]
      rfl
    refine ⟨_, hnext, ?_, fun k hk => ?_, ?_⟩
    · have hsl : (sendCtrl (withStatus u stOK) (.release 1 v.toNat)).arr.sleeves = u.arr.sleeves := by
        rw [hframe]
        rfl
      rw [hsl, ← hu]
      rfl
    · rw [hsleeve, ← hu, sleeve_updSleeve_other _ _ _ _ hk]
      rfl
    · rw [hsleeve, ← hu, sleeve_updSleeve]
      rfl

/-! ### Port and group -/

/-- A port's holds are gone at the next seam. -/
def released (s : State) (n : Nat) : State := updCtl s n fun c => { c with
  tripped := false, armHold := false, lostHold := false, release := some (skipNow s) }

theorem clearPort_spec {s : State} {lvl : Level} {v : BitVec 16} (hadm : Admits s lvl 0x2310 3 v.toNat) : let n := v.toNat
    ((link s n).state ≠ .hem ∨ ctrlHeld s = true ∨ (sleeve s (n / 8)).held = true ∨ hasBit (link s n).sticky 0 = true →
      exec (.clearPort lvl v) s = .next (answered s stState))
    ∧ (clearPortRefused s n = false → ∃ t, exec (.clearPort lvl v) s = .next t
        ∧ t = sendCtrl { answered s stOK with ctls := t.ctls } (.release 0 n) ∧ (∀ k, k ≠ n → ctl t k = ctl s k)
        ∧ ctl t n = { ctl s n with tripped := false, armHold := false, lostHold := false, release := some (skipNow s) }) := by
  intro n
  have hexec := exec_release (c := .clearPort lvl v) rfl hadm
  have heff : effect (taken s) 0x2310 3 n = withRelease (clearPort (taken s) n) 0 n := rfl
  rw [heff] at hexec
  refine ⟨fun h => ?_, fun h => ?_⟩
  · have hrefused : clearPortRefused (taken s) n = true := by
      unfold clearPortRefused
      simp only [Bool.or_eq_true, bne_iff_ne]
      rcases h with h | h | h | h
      · exact .inl (.inl (.inl (.inl (.inl h))))
      · exact .inl (.inl (.inl (.inl (.inr h))))
      · exact .inl (.inl (.inl (.inr h)))
      · exact .inl (.inl (.inr h))
    have hclear : clearPort (taken s) n = (stState, taken s) := if_pos hrefused
    rw [hclear] at hexec
    exact hexec
  · have hclear : clearPort (taken s) n = (stOK, released (taken s) n) := if_neg (Bool.eq_false_iff.1 (show clearPortRefused (taken s) n = false from h))
    generalize hu : released (taken s) n = u at hclear
    have hnext : exec (.clearPort lvl v) s = .next (sendCtrl (withStatus u stOK) (.release 0 n)) := by
      rw [hexec, hclear]
      exact congrArg Host.Outcome.next (withStatus_sendCtrl _ _ _)
    have hframe := sendCtrl_frame (withStatus u stOK) (.release 0 n)
    have hctl (k : Nat) : ctl (sendCtrl (withStatus u stOK) (.release 0 n)) k = ctl u k := by
      rw [hframe]
      rfl
    refine ⟨_, hnext, ?_, fun k hk => ?_, ?_⟩
    · have hctls : (sendCtrl (withStatus u stOK) (.release 0 n)).ctls = u.ctls := by
        rw [hframe]
        rfl
      rw [hctls, ← hu]
      rfl
    · rw [hctl, ← hu]
      exact ctl_updCtl_other _ _ _ _ hk
    · rw [hctl, ← hu]
      exact ctl_updCtl _ _ _

theorem released_frame (s : State) (n : Nat) : released s n = { s with ctls := (released s n).ctls } := rfl

/-- The releases of ports that can all be released. -/
theorem releaseAll_spec (l : List Nat) : ∀ s : State, l.Nodup → (∀ n ∈ l, clearPortRefused s n = false) →
    (∃ c : Tab Ctl, l.foldl (fun s n => (clearPort s n).2) s = { s with ctls := c })
    ∧ ∀ n, ctl (l.foldl (fun s n => (clearPort s n).2) s) n = if n ∈ l then { ctl s n with
        tripped := false, armHold := false, lostHold := false, release := some (skipNow s) } else ctl s n := by
  induction l with
  | nil => exact fun s _ _ => ⟨⟨_, rfl⟩, fun n => rfl⟩
  | cons a l ih =>
    intro s hnodup hok
    obtain ⟨ha, hl⟩ := List.nodup_cons.1 hnodup
    have hclear : (clearPort s a).2 = released s a :=
      congrArg Prod.snd (if_neg (Bool.eq_false_iff.1 (hok a (by simp))) : clearPort s a = (stOK, released s a))
    have hother {n : Nat} (hn : n ≠ a) : ctl (released s a) n = ctl s n := ctl_updCtl_other _ _ _ _ hn
    obtain ⟨⟨c, hframe⟩, hctl⟩ := ih (released s a) hl fun n hn => by
      have hna : n ≠ a := fun h => ha (h ▸ hn)
      have hsame : clearPortRefused (released s a) n = clearPortRefused s n := by
        unfold clearPortRefused
        dsimp only
        rw [hother hna]
        rfl
      rw [hsame]
      exact hok n (List.mem_cons_of_mem _ hn)
    rw [List.foldl_cons, hclear]
    refine ⟨⟨c, hframe⟩, fun n => ?_⟩
    rw [hctl]
    by_cases hna : n = a
    · subst hna
      rw [if_neg ha, if_pos (by simp)]
      exact ctl_updCtl _ _ _
    · rw [hother hna]
      by_cases hn : n ∈ l
      · rw [if_pos hn, if_pos (List.mem_cons_of_mem _ hn)]
        rfl
      · rw [if_neg hn, if_neg fun h => hn ((List.mem_cons.1 h).resolve_left hna)]

/-- Each of a list of records is told to the mate, by a unit that commands one. -/
theorem sendAll_eq (l : List Nat) : ∀ s : State, l.foldl (fun s n => sendCtrl s (.release 0 n)) s = { s with pair := { s.pair with
    sentCtrl := s.pair.sentCtrl ++ if s.pair.role = .active ∧ s.pair.link = 2 then l.map (Ctrl.release 0) else [] } } := by
  induction l with
  | nil => intro s; simp
  | cons a l ih =>
    intro s
    rw [List.foldl_cons, ih]
    unfold sendCtrl
    by_cases h : s.pair.role = .active ∧ s.pair.link = 2
    · rw [if_pos (by rw [h.1, h.2]; rfl : (s.pair.role == .active && s.pair.link == 2) = true), if_pos h, if_pos h]
      simp
    · have hno : ¬(s.pair.role == .active && s.pair.link == 2) = true := by simpa using h
      rw [if_neg hno, if_neg h, if_neg h]

theorem clearGroup_spec {s : State} {lvl : Level} {v : Byte} (hadm : Admits s lvl 0x2310 4 v.toNat) : let ms := members s v.toNat
    ∃ t, exec (.clearGroup lvl v) s = .next t
      ∧ t = { answered s stOK with
          ctls := t.ctls, net := { (answered s stOK).net with gres := t.net.gres },
          pair := { s.pair with sentCtrl := s.pair.sentCtrl ++
            (if s.pair.role = .active ∧ s.pair.link = 2 then
              (ms.filter fun n => !clearPortRefused s n).map (Ctrl.release 0) else []) } }
      ∧ (∀ n, (n ∈ ms ∧ clearPortRefused s n = false) → (ctl t n).tripped = false ∧ (ctl t n).armHold = false
          ∧ (ctl t n).release = some (skipNow s))
      ∧ (∀ n, ¬(n ∈ ms ∧ clearPortRefused s n = false) → ctl t n = ctl s n)
      ∧ (tget {} t.net.gres v.toNat).written = ms.filter (fun n => !clearPortRefused s n)
      ∧ ((∀ n ∈ ms, clearPortRefused s n = false) → (tget {} t.net.gres v.toNat).failPort = 0xFFFF)
      ∧ (∀ n, ms.find? (clearPortRefused s) = some n → (tget {} t.net.gres v.toNat).failPort = n
          ∧ (tget {} t.net.gres v.toNat).failStatus = stState) := by
  intro ms
  generalize hok : (ms.filter fun n => !clearPortRefused s n) = ok
  have hmem (n : Nat) : n ∈ ok ↔ n ∈ ms ∧ clearPortRefused s n = false := by
    rw [← hok, List.mem_filter, Bool.not_eq_true']
  have hnodup : ok.Nodup := by
    rw [← hok]
    exact ((List.nodup_range).filter _).filter _
  obtain ⟨⟨c, hframe⟩, hctl⟩ := releaseAll_spec ok (taken s) hnodup fun n hn => ((hmem n).1 hn).2
  generalize hw : ok.foldl (fun s n => (clearPort s n).2) (taken s) = w at hframe hctl
  generalize hres : ({ (tget {} s.net.gres v.toNat : GroupRes) with
    written := ok, late := [], failPort := (ms.find? (clearPortRefused s)).getD 0xFFFF
    failStatus := if (ms.find? (clearPortRefused s)).isSome then stState else 0 } : GroupRes) = res
  have hexec := exec_release (c := .clearGroup lvl v) rfl hadm
  have heff : effect (taken s) 0x2310 4 v.toNat = (stOK, ok.foldl (fun s n => sendCtrl s (.release 0 n))
      { w with net := { w.net with gres := tput w.net.gres v.toNat res } }) := by
    rw [← hw, ← hres, ← hok]
    rfl
  rw [heff, sendAll_eq, hframe] at hexec
  have hgres : tget ({} : GroupRes) (tput s.net.gres v.toNat res) v.toNat = res := tget_tput_same _ _ _ _
  have hport (n : Nat) : tget ({} : Ctl) c n = if n ∈ ok then { ctl s n with
      tripped := false, armHold := false, lostHold := false, release := some (skipNow s) } else ctl s n := by
    have h := hctl n
    rw [hframe] at h
    exact h
  refine ⟨_, hexec, rfl, fun n hn => ?_, fun n hn => ?_, ?_, fun hall => ?_, fun n hn => ?_⟩
  · have h : tget ({} : Ctl) c n = _ := (hport n).trans (if_pos ((hmem n).2 hn))
    exact ⟨congrArg Ctl.tripped h, congrArg Ctl.armHold h, congrArg Ctl.release h⟩
  · exact (hport n).trans (if_neg fun h => hn ((hmem n).1 h))
  · exact (congrArg GroupRes.written hgres).trans (by rw [← hres])
  · have hnone : ms.find? (clearPortRefused s) = none := List.find?_eq_none.2 fun n hn => Bool.eq_false_iff.1 (hall n hn)
    exact (congrArg GroupRes.failPort hgres).trans (by rw [← hres, hnone]; rfl)
  · exact ⟨(congrArg GroupRes.failPort hgres).trans (by rw [← hres, hn]; rfl),
      (congrArg GroupRes.failStatus hgres).trans (by rw [← hres, hn]; rfl)⟩

/-! ### Stale temperatures (R289) -/

theorem stale_spec {s : State} {n : PortId} (hon : thermOn s n = true) (hnew : (ctl s n).stale = false) :
    ((∀ g < (link s n).groupCount, tget 0 (ctl s n).ages g < 128) → exec (.stale n) s = .next s)
    ∧ ((∃ g < (link s n).groupCount, 128 ≤ tget 0 (ctl s n).ages g) → ∃ t, exec (.stale n) s = .next t ∧ OnlyCtl s t n
        ∧ ctl t n = { ctl s n with stale := true, thermSticky := (ctl s n).thermSticky ||| 4 }) := by
  have hiff : groupsStale s n = true ↔ ∃ g < (link s n).groupCount, 128 ≤ tget 0 (ctl s n).ages g := by
    simp [groupsStale]
  refine ⟨fun h => congrArg Host.Outcome.next (if_neg ?_), fun h => ?_⟩
  · have hno : groupsStale s n = false := by
      rw [← Bool.not_eq_true, hiff]
      rintro ⟨g, hg, hage⟩
      exact absurd (h g hg) (not_lt.2 hage)
    rw [hno, Bool.and_false]
    exact Bool.false_ne_true
  · refine ⟨staleNow s n, congrArg Host.Outcome.next (if_pos ?_), onlyCtl_updCtl s n _, ctl_updCtl _ _ _⟩
    rw [hon, hnew, hiff.2 h]
    rfl

/-- Settles O45: the releases of controller, Sleeve, port and group, and stale temperatures. -/
theorem holdsAreReleasedAtSeams : Obligations.HoldsAreReleasedAtSeams :=
  ⟨fun _ _ _ => clearController_spec, fun _ _ _ => clearSleeve_spec, fun _ _ _ => clearPort_spec, fun _ _ _ => clearGroup_spec,
    fun _ _ => stale_spec⟩

end Sys2Proof.Machine
end

section
/-! PROOFS. Arbitration: HELLO, its timeout, the copy to the mate and the lanes of the mate link (R305 to R308, R313, R320, R410). -/
namespace Sys2Proof.Machine

/-! ### The wheel mode of a role (R307) -/

/-- What a wheel in a new mode does at once. -/
def modeTaken (u : State) (m : Nat) : State :=
  if u.wheel.state == .locked && m != 2 && refPresent u then
    (if decide (rabs (phaseError u) < 1 / 2) && decide (rabs (refFreq u - u.wheel.fTick) < 1 / 100) then u else wheelTo u .reacquire)
  else u

theorem modeTaken_spec (u : State) (m : Nat) : modeTaken u m = { u with wheel := (modeTaken u m).wheel }
    ∧ (modeTaken u m).wheel.mode = u.wheel.mode := by
  have hmode : (wheelTo u .reacquire).wheel.mode = u.wheel.mode := by
    unfold wheelTo
    dsimp only
    split
    · rfl
    · split <;> rfl
  unfold modeTaken
  split
  · split
    · exact ⟨rfl, rfl⟩
    · exact ⟨wheelTo_frame u .reacquire, hmode⟩
  · exact ⟨rfl, rfl⟩

theorem setMode_spec (s : State) (m : Nat) : setMode s m = { s with wheel := (setMode s m).wheel } ∧ (setMode s m).wheel.mode = m := by
  by_cases h : m = s.wheel.mode
  · have hset : setMode s m = s := if_pos h
    rw [hset]
    exact ⟨rfl, h.symm⟩
  · have hset : setMode s m = modeTaken { s with wheel := { s.wheel with
        mode := m, syncPresent := false, syncLost := false, syncMissed := 0, syncPlaced := false, syncCycles := 0,
        syncAge := 0, syncFreq := f32Of s.wheel.fTick } } m := if_neg h
    rw [hset]
    exact modeTaken_spec _ m

/-! ### Starts that are sent (R195, R410) -/

/-- From one state to another a port's mailbox has taken messages; its state and its path write stand. -/
structure Mailed (n : Nat) (s t : State) : Prop where
  only : OnlyLink s t n
  state : (link t n).state = (link s n).state
  cfgOut : (link t n).cfgOut = (link s n).cfgOut
  cfgOk : (link t n).cfgOk = (link s n).cfgOk

theorem mailed_refl (n : Nat) (s : State) : Mailed n s s := ⟨⟨rfl, fun _ _ => rfl⟩, rfl, rfl, rfl⟩

theorem mailed_trans {n : Nat} {s t u : State} (h : Mailed n s t) (h' : Mailed n t u) : Mailed n s u :=
  ⟨onlyLink_trans h.only h'.only, h'.state.trans h.state, h'.cfgOut.trans h.cfgOut, h'.cfgOk.trans h.cfgOk⟩

theorem mailed_sendMsg (s : State) (n q ty : Nat) (body : List Byte) : Mailed n s (sendMsg s n q ty body) := by
  unfold sendMsg
  exact ⟨onlyLink_updLink s n _, by rw [link_updLink], by rw [link_updLink], by rw [link_updLink]⟩

theorem mailed_fwSend (s : State) (n : Nat) : Mailed n s (fwSend s n) := by
  unfold fwSend
  split
  · exact mailed_refl n s
  · have hmark (u : State) (v : Word) : Mailed n u (updLink u n fun l => { l with fwLoad := 1, fwImage := v }) :=
      ⟨onlyLink_updLink u n _, by rw [link_updLink], by rw [link_updLink], by rw [link_updLink]⟩
    refine mailed_trans (mailed_trans ?_ (mailed_sendMsg _ n _ _ _)) (hmark _ _)
    refine List.foldlRecOn (motive := fun t : State => Mailed n s t) _ _ (mailed_sendMsg s n _ _ _) ?_
    exact fun t ht b _ => mailed_trans ht (mailed_sendMsg t n _ _ _)

theorem sendStart_spec (s : State) (n : Nat) : OnlyLink s (sendStart s n) n ∧ (link (sendStart s n) n).state = (link s n).state
    ∧ (link (sendStart s n) n).cfgOut = true ∧ (link (sendStart s n) n).cfgOk = false := by
  have hpath : OnlyLink s (sendPath s n) n ∧ (link (sendPath s n) n).state = (link s n).state
      ∧ (link (sendPath s n) n).cfgOut = true ∧ (link (sendPath s n) n).cfgOk = false := by
    obtain ⟨honly, hstate, hout, hok⟩ := mailed_sendMsg (updLink s n fun l => { l with cfgOut := true, cfgOk := false }) n 0 0x01
      (cfgBody 0x0100 (pathWords (updLink s n fun l => { l with cfgOut := true, cfgOk := false }) n))
    rw [link_updLink] at hstate hout hok
    exact ⟨onlyLink_trans (onlyLink_updLink s n _) honly, hstate, hout, hok⟩
  obtain ⟨honly, hstate, hout, hok⟩ := hpath
  unfold sendStart
  generalize sendPath s n = u at honly hstate hout hok
  dsimp only
  split
  · have hmark : Mailed n u (updLink u n fun l => { l with fwStart := true }) :=
      ⟨onlyLink_updLink u n _, by rw [link_updLink], by rw [link_updLink], by rw [link_updLink]⟩
    obtain ⟨honly', hstate', hout', hok'⟩ := mailed_trans hmark (mailed_fwSend _ n)
    exact ⟨onlyLink_trans honly honly', hstate'.trans hstate, hout'.trans hout, hok'.trans hok⟩
  · exact ⟨honly, hstate, hout, hok⟩

/-- A port that is neither absent nor in training is sent its start. -/
def startAt (s : State) (n : Nat) : State :=
  if (link s n).state == .absent || (link s n).state == .training then s else sendStart s n

theorem startAt_spec (s : State) (n : Nat) : OnlyLink s (startAt s n) n ∧ (link (startAt s n) n).state = (link s n).state
    ∧ ((link s n).state ≠ .absent → (link s n).state ≠ .training →
      (link (startAt s n) n).cfgOut = true ∧ (link (startAt s n) n).cfgOk = false) := by
  obtain ⟨honly, hstate, hout, hok⟩ := sendStart_spec s n
  unfold startAt
  split
  next h =>
    refine ⟨⟨rfl, fun _ _ => rfl⟩, rfl, fun habs htrain => ?_⟩
    rcases Bool.or_eq_true _ _ ▸ h with h | h
    · exact absurd (beq_iff_eq.1 h) habs
    · exact absurd (beq_iff_eq.1 h) htrain
  next h => exact ⟨honly, hstate, fun _ _ => ⟨hout, hok⟩⟩

theorem startAt_fold (l : List Nat) : ∀ s : State, (∃ x : Tab Link, l.foldl startAt s = { s with links := x })
    ∧ (∀ n, (link (l.foldl startAt s) n).state = (link s n).state)
    ∧ ∀ n, (link s n).state ≠ .absent → (link s n).state ≠ .training →
      n ∈ l ∨ ((link s n).cfgOut = true ∧ (link s n).cfgOk = false) →
      (link (l.foldl startAt s) n).cfgOut = true ∧ (link (l.foldl startAt s) n).cfgOk = false := by
  induction l with
  | nil => exact fun s => ⟨⟨_, rfl⟩, fun _ => rfl, fun n _ _ h => h.resolve_left (by simp)⟩
  | cons a l ih =>
    intro s
    obtain ⟨⟨hframe, hother⟩, hstate, hsent⟩ := startAt_spec s a
    obtain ⟨⟨x, hframe'⟩, hstate', hsent'⟩ := ih (startAt s a)
    have hst (n : Nat) : (link (startAt s a) n).state = (link s n).state := by
      by_cases hn : n = a
      · rw [hn, hstate]
      · rw [hother n hn]
    refine ⟨⟨x, hframe'.trans (by rw [hframe])⟩, fun n => (hstate' n).trans (hst n), fun n habs htrain hn => ?_⟩
    refine hsent' n (by rw [hst]; exact habs) (by rw [hst]; exact htrain) ?_
    by_cases ha : n = a
    · subst ha
      exact .inr (hsent habs htrain)
    · rw [hother n ha]
      exact hn.imp_left fun h => (List.mem_cons.1 h).resolve_left ha

theorem startSends_eq (s : State) : startSends s = (linkPorts s).foldl startAt s := rfl

/-! ### A role is taken (R305, R306) -/

theorem toRole_commands {s : State} {r : Role} (hnew : s.pair.role ≠ r) (hr : r = .solo ∨ r = .active) :
    ∃ t, toRole s r = (if commands s then t else startSends t) ∧ t = { s with pair := roleOf s.pair r, wheel := t.wheel }
      ∧ t.wheel.mode = cfg s 0x2001 1 := by
  generalize hu : ({ s with pair := roleOf s.pair r } : State) = u
  have hcmd : commands u = true := by
    rw [← hu]
    rcases hr with rfl | rfl <;> rfl
  have hmode : roleMode u = cfg s 0x2001 1 := by
    unfold roleMode
    rw [hcmd, ← hu]
    rfl
  obtain ⟨hframe, hwheel⟩ := setMode_spec u (cfg s 0x2001 1)
  refine ⟨setMode u (cfg s 0x2001 1), ?_, ?_, hwheel⟩
  · have hset : commands (setMode u (cfg s 0x2001 1)) = true := by
      rw [hframe]
      exact hcmd
    have htake : toRole s r = if commands (setMode u (roleMode u)) && !commands s then startSends (setMode u (roleMode u))
        else setMode u (roleMode u) := by
      rw [← hu]
      refine (if_neg (mt beq_iff_eq.1 hnew)).trans ?_
      rcases hr with rfl | rfl <;> rfl
    rw [htake, hmode, hset]
    cases commands s <;> rfl
  · rw [hframe, ← hu]

/-- A Sleeve stops where it stands. -/
def parkOne (s : State) (n : Nat) : State := updSleeve s n fun x => { x with halted := true, halting := false, parked := true }

theorem parkOne_fold (l : List Nat) : ∀ s : State, (∃ x : Tab Sleeve, l.foldl parkOne s = { s with arr := { s.arr with sleeves := x } })
    ∧ ∀ k, sleeve (l.foldl parkOne s) k = if k ∈ l then { sleeve s k with halted := true, halting := false, parked := true } else sleeve s k := by
  induction l with
  | nil => exact fun s => ⟨⟨_, rfl⟩, fun _ => rfl⟩
  | cons a l ih =>
    intro s
    obtain ⟨⟨x, hframe⟩, hsleeve⟩ := ih (parkOne s a)
    refine ⟨⟨x, hframe⟩, fun k => (hsleeve k).trans ?_⟩
    by_cases hk : k = a
    · subst hk
      unfold parkOne
      rw [sleeve_updSleeve, if_pos (by simp : k ∈ k :: l)]
      split <;> rfl
    · unfold parkOne
      rw [sleeve_updSleeve_other _ _ _ _ hk]
      by_cases hl : k ∈ l
      · rw [if_pos hl, if_pos (List.mem_cons_of_mem _ hl)]
      · rw [if_neg hl, if_neg fun h => hl ((List.mem_cons.1 h).resolve_left hk)]

theorem parkAll_eq (s : State) : parkAll s = allSleeves.foldl parkOne s := rfl

theorem toRole_cold {s : State} (hrole : s.pair.role = .joining ∨ s.pair.role = .hot) :
    toRole s .cold = { s with
        pair := roleOf s.pair .cold, wheel := (toRole s .cold).wheel, arr := { s.arr with sleeves := (toRole s .cold).arr.sleeves } }
      ∧ (toRole s .cold).wheel.mode = (if s.pair.settled then 1 else cfg s 0x2001 1)
      ∧ ∀ n < 32, sleeve (toRole s .cold) n = { sleeve s n with halted := true, halting := false, parked := true } := by
  obtain ⟨⟨x, hpark⟩, hsleeve⟩ := parkOne_fold allSleeves { s with pair := roleOf s.pair .cold }
  generalize hu : allSleeves.foldl parkOne { s with pair := roleOf s.pair .cold } = u at hpark hsleeve
  have hmode : roleMode u = if s.pair.settled then 1 else cfg s 0x2001 1 := by
    have hread : cfg u 0x2001 1 = cfg s 0x2001 1 := cfg_of (by rw [hpark]) (by rw [hpark]) _ _
    unfold roleMode
    rw [hread, hpark]
    cases hset : s.pair.settled <;> simp [commands, roleOf, hset]
  obtain ⟨hframe, hwheel⟩ := setMode_spec u (roleMode u)
  have hcmd : commands (setMode u (roleMode u)) = false := by
    rw [hframe, hpark]
    rfl
  have htake : toRole s .cold = setMode u (roleMode u) := by
    have hstep : toRole s .cold = if commands (setMode u (roleMode u)) && !commands s then startSends (setMode u (roleMode u))
        else setMode u (roleMode u) := by
      rw [← hu]
      refine (if_neg ?_).trans rfl
      rcases hrole with h | h <;> rw [h] <;> decide
    rw [hstep, hcmd]
    rfl
  rw [htake]
  refine ⟨?_, hwheel.trans hmode, fun n hn => ?_⟩
  · generalize setMode u (roleMode u) = v at hframe
    rw [hframe, hpark]
  · have hs : sleeve (setMode u (roleMode u)) n = sleeve u n := by
      rw [hframe]
      rfl
    rw [hs, hsleeve]
    exact if_pos (show n ∈ allSleeves from List.mem_range.2 hn)

/-! ### HELLO (R308) -/

/-- The mate's HELLO says that it commands. -/
def helloCommands (h : Hello) : Prop := h.role = .solo ∨ h.role = .active

/-- The pair after a HELLO, before a unit decides on it. -/
def helloPair (s : State) (h : Hello) : Pair := { s.pair with
  hello := some h, mateRole := some h.role
  sweepNext := if h.role = .joining then (if s.pair.mateRole = some .joining then s.pair.sweepNext else some 0) else none
  sweepSl := if h.role = .hot ∨ h.role = .joining then s.pair.sweepSl else []
  seamOffset := if (h.role = .solo ∨ h.role = .active) ∧ commands s = false then (h.seam.toNat : Int) - s.wheel.seam.toNat
    else s.pair.seamOffset }

/-- What a unit decides on the HELLO of a unit with another number. -/
def helloAct (u : State) (h : Hello) : State :=
  let mate := h.role == .solo || h.role == .active
  match u.pair.role with
  | .out =>
    if u.pair.settled then u
    else
      let u := { u with pair := { u.pair with settled := true } }
      if !mate && u.pair.unit == 0 then { u with pair := { u.pair with activeAtSeam := true } }
      else if helloDiffers u h then pairStick u 3
      else u
  | .solo => if mate then bothSolo u h else if helloDiffers u h then u else toRole u .active
  | _ => u

theorem exec_hello {s : State} (h : Hello) (hlink : s.pair.link = 2) : exec (.hello h) s = .next
    (if h.unit = s.pair.unit then pairStick { s with pair := { helloPair s h with settled := true } } 2
      else sendCopy (tellRole (helloAct { s with pair := helloPair s h } h))) := by
  have hpair : ({ (mateRoleIs s h.role).pair with
      hello := some h
      seamOffset := if (h.role == .solo || h.role == .active) && !commands s then (h.seam.toNat : Int) - s.wheel.seam.toNat
        else s.pair.seamOffset } : Pair) = helloPair s h := by
    unfold helloPair mateRoleIs
    simp only [beq_iff_eq, Bool.and_eq_true, Bool.or_eq_true, Bool.not_eq_true']
  rw [← hpair]
  refine congrArg Host.Outcome.next (if_neg ?_)
  rw [hlink]
  decide

section Hello
variable {s : State} {h : Hello}

theorem mate_true (hm : helloCommands h) : (h.role == .solo || h.role == .active) = true := by
  rcases hm with hm | hm <;> rw [hm] <;> rfl

theorem mate_false (hm : ¬helloCommands h) : (h.role == .solo || h.role == .active) = false := by
  rw [Bool.eq_false_iff]
  simpa [helloCommands] using hm

theorem helloAct_first (hrole : s.pair.role = .out) (hnew : s.pair.settled = false) (hm : ¬helloCommands h) (hunit : s.pair.unit = 0) :
    helloAct s h = { s with pair := { s.pair with settled := true, activeAtSeam := true } } := by
  unfold helloAct
  dsimp only
  rw [hrole]
  refine (if_neg (Bool.eq_false_iff.1 hnew)).trans (if_pos ?_)
  rw [mate_false hm, hunit]
  rfl

theorem helloAct_second (hrole : s.pair.role = .out) (hnew : s.pair.settled = false) (hm : helloCommands h ∨ s.pair.unit ≠ 0) :
    helloAct s h = { s with pair := { s.pair with
      settled := true, sticky := if helloDiffers s h then s.pair.sticky ||| 8 else s.pair.sticky } } := by
  have hnot : (!(h.role == .solo || h.role == .active) && s.pair.unit == 0) = false := by
    rcases hm with hm | hm
    · rw [mate_true hm]
      rfl
    · rw [beq_eq_false_iff_ne.2 hm, Bool.and_false]
  unfold helloAct
  dsimp only
  rw [hrole]
  refine (if_neg (Bool.eq_false_iff.1 hnew)).trans ((if_neg (Bool.eq_false_iff.1 hnot)).trans ?_)
  by_cases hdiff : helloDiffers s h = true
  · rw [if_pos hdiff]
    exact if_pos hdiff
  · rw [if_neg hdiff]
    exact if_neg hdiff

theorem helloAct_active (hrole : s.pair.role = .solo) (hm : ¬helloCommands h) (hsame : helloDiffers s h = false) :
    helloAct s h = toRole s .active := by
  unfold helloAct
  dsimp only
  rw [hrole]
  exact (if_neg (Bool.eq_false_iff.1 (mate_false hm))).trans (if_neg (Bool.eq_false_iff.1 hsame))

theorem helloAct_both (hrole : s.pair.role = .solo) (hm : helloCommands h) : helloAct s h = bothSolo s h := by
  unfold helloAct
  dsimp only
  rw [hrole]
  exact if_pos (mate_true hm)

theorem helloAct_stands (hstand : (s.pair.role = .out ∧ s.pair.settled = true) ∨ (s.pair.role = .solo ∧ ¬helloCommands h ∧ helloDiffers s h = true)
    ∨ s.pair.role = .active ∨ s.pair.role = .hot ∨ s.pair.role = .joining ∨ s.pair.role = .cold) : helloAct s h = s := by
  unfold helloAct
  dsimp only
  rcases hstand with ⟨hrole, hset⟩ | ⟨hrole, hm, hdiff⟩ | hrole | hrole | hrole | hrole <;> rw [hrole]
  · exact if_pos hset
  · exact (if_neg (Bool.eq_false_iff.1 (mate_false hm))).trans (if_pos hdiff)

end Hello

/-- A unit that commands and becomes ACTIVE sends no starts anew. -/
theorem toRole_active {s : State} (hrole : s.pair.role = .solo) :
    toRole s .active = { s with pair := roleOf s.pair .active, wheel := (toRole s .active).wheel }
      ∧ (toRole s .active).wheel.mode = cfg s 0x2001 1 := by
  obtain ⟨t, htake, ht, hmode⟩ := toRole_commands (s := s) (r := .active) (by rw [hrole]; decide) (.inr rfl)
  have hcmd : commands s = true := by
    unfold commands
    rw [hrole]
    rfl
  rw [htake, if_pos hcmd]
  exact ⟨ht, hmode⟩

theorem bothSolo_stays {s : State} {h : Hello} (hwins : obeyCount s (h.unit + 1) < obeyCount s (s.pair.unit + 1)
    ∨ (obeyCount s (s.pair.unit + 1) = obeyCount s (h.unit + 1) ∧ s.pair.unit = 0)) : bothSolo s h = toRole s .active := by
  refine if_pos ?_
  rw [Bool.or_eq_true, Bool.and_eq_true, decide_eq_true_eq, beq_iff_eq, beq_iff_eq]
  exact hwins

theorem bothSolo_yields {s : State} {h : Hello} (hloses : ¬(obeyCount s (h.unit + 1) < obeyCount s (s.pair.unit + 1)
    ∨ (obeyCount s (s.pair.unit + 1) = obeyCount s (h.unit + 1) ∧ s.pair.unit = 0))) :
    bothSolo s h = { s with pair := { s.pair with
      nextRole := some .out, sticky := if helloDiffers s h then s.pair.sticky ||| 8 else s.pair.sticky } } := by
  refine (if_neg ?_).trans ?_
  · rw [Bool.or_eq_true, Bool.and_eq_true, decide_eq_true_eq, beq_iff_eq, beq_iff_eq]
    exact hloses
  · by_cases hdiff : helloDiffers s h = true
    · rw [if_pos hdiff]
      exact if_pos hdiff
    · rw [if_neg hdiff]
      exact if_neg hdiff

theorem hello_spec (s : State) (h : Hello) :
    let mate := h.role = .solo ∨ h.role = .active
    let p : Pair := { s.pair with
      hello := some h, mateRole := some h.role,
      sweepNext := if h.role = .joining then (if s.pair.mateRole = some .joining then s.pair.sweepNext else some 0) else none,
      sweepSl := if h.role = .hot ∨ h.role = .joining then s.pair.sweepSl else [],
      seamOffset := if mate ∧ commands s = false then (h.seam.toNat : Int) - s.wheel.seam.toNat else s.pair.seamOffset }
    let own := obeyCount s (s.pair.unit + 1)
    let other := obeyCount s (h.unit + 1)
    (s.pair.link ≠ 2 → exec (.hello h) s = .next s)
    ∧ (s.pair.link = 2 →
      (h.unit = s.pair.unit → exec (.hello h) s = .next { s with pair := { p with settled := true, sticky := p.sticky ||| 4 } })
      ∧ (h.unit ≠ s.pair.unit →
        (s.pair.role = .out → s.pair.settled = false → ¬mate → s.pair.unit = 0 →
          exec (.hello h) s = .next (sendCopy (tellRole { s with
            pair := { p with settled := true, activeAtSeam := true } })))
        ∧ (s.pair.role = .out → s.pair.settled = false → mate ∨ s.pair.unit ≠ 0
          → exec (.hello h) s = .next (sendCopy (tellRole { s with
            pair := { p with settled := true, sticky := if helloDiffers s h then p.sticky ||| 8 else p.sticky } })))
        ∧ (s.pair.role = .solo → ¬mate → helloDiffers s h = false → ∃ t, exec (.hello h) s = .next (sendCopy (tellRole t))
            ∧ t = { s with pair := roleOf p .active, wheel := t.wheel } ∧ t.wheel.mode = cfg s 0x2001 1)
        ∧ (s.pair.role = .solo → mate → other < own ∨ (own = other ∧ s.pair.unit = 0)
          → ∃ t, exec (.hello h) s = .next (sendCopy (tellRole t))
            ∧ t = { s with pair := roleOf p .active, wheel := t.wheel } ∧ t.wheel.mode = cfg s 0x2001 1)
        ∧ (s.pair.role = .solo → mate → ¬(other < own ∨ (own = other ∧ s.pair.unit = 0))
          → exec (.hello h) s = .next (sendCopy (tellRole { s with
            pair := { p with nextRole := some .out, sticky := if helloDiffers s h then p.sticky ||| 8 else p.sticky } })))
        ∧ ((s.pair.role = .out ∧ s.pair.settled = true) ∨ (s.pair.role = .solo ∧ ¬mate ∧ helloDiffers s h = true)
            ∨ s.pair.role = .active ∨ s.pair.role = .hot ∨ s.pair.role = .joining
            ∨ s.pair.role = .cold → exec (.hello h) s = .next (sendCopy (tellRole { s with pair := p }))))) := by
  intro mate p own other
  refine ⟨fun hlink => congrArg Host.Outcome.next (if_pos (bne_iff_ne.2 hlink)), fun hlink => ⟨fun hunit => ?_, fun hunit => ?_⟩⟩
  · exact (exec_hello h hlink).trans (congrArg Host.Outcome.next (if_pos hunit))
  · have hexec : exec (.hello h) s = .next (sendCopy (tellRole (helloAct { s with pair := p } h))) :=
      (exec_hello h hlink).trans (congrArg Host.Outcome.next (if_neg hunit))
    have hact {u : State} (heq : helloAct { s with pair := p } h = u) : exec (.hello h) s = .next (sendCopy (tellRole u)) := by
      rw [hexec, heq]
    have hstays {hrole : s.pair.role = .solo} (heq : helloAct { s with pair := p } h = toRole { s with pair := p } .active) :
        ∃ t, exec (.hello h) s = .next (sendCopy (tellRole t)) ∧ t = { s with pair := roleOf p .active, wheel := t.wheel }
          ∧ t.wheel.mode = cfg s 0x2001 1 := by
      obtain ⟨hframe, hmode⟩ := toRole_active (s := { s with pair := p }) hrole
      exact ⟨_, hact heq, hframe, hmode⟩
    refine ⟨fun hrole hnew hm h0 => hact (helloAct_first hrole hnew hm h0), fun hrole hnew hm => hact (helloAct_second hrole hnew hm),
      fun hrole hm hsame => hstays (hrole := hrole) (helloAct_active hrole hm hsame),
      fun hrole hm hwins => hstays (hrole := hrole) ((helloAct_both (s := { s with pair := p }) hrole hm).trans (bothSolo_stays hwins)),
      fun hrole hm hloses => hact ((helloAct_both (s := { s with pair := p }) hrole hm).trans (bothSolo_yields hloses)),
      fun hstand => hact (helloAct_stands hstand)⟩

/-! ### The records to the mate (R313, R320) -/

theorem tellRole_spec (s : State) : (s.pair.told = s.pair.role → tellRole s = s)
    ∧ (s.pair.told ≠ s.pair.role → tellRole s = { s with pair := { s.pair with
        told := s.pair.role,
        sentCtrl := s.pair.sentCtrl ++ (if s.pair.link = 2 then [Ctrl.role s.pair.role] else []) } }) := by
  refine ⟨fun h => if_pos (beq_iff_eq.2 h), fun h => (if_neg (mt beq_iff_eq.1 h)).trans ?_⟩
  by_cases hlink : s.pair.link = 2
  · rw [if_pos hlink]
    exact if_pos (beq_iff_eq.2 hlink)
  · rw [if_neg hlink, List.append_nil]
    exact if_neg (mt beq_iff_eq.1 hlink)

theorem mem_of_tfind {α : Type} {t : Tab α} {i : Nat} {v : α} (h : tfind t i = some v) : (i, v) ∈ t := by
  induction t with
  | nil => cases h
  | cons x t ih =>
    obtain ⟨k, w⟩ := x
    rw [tfind] at h
    split at h
    next hk =>
      cases h
      subst hk
      exact List.mem_cons_self
    next hk => exact List.mem_cons_of_mem _ (ih h)

theorem sendCopy_spec (s : State) : (s.pair.role ≠ .active ∨ s.pair.link ≠ 2 ∨ s.pair.copied = true → sendCopy s = s)
    ∧ (s.pair.role = .active → s.pair.link = 2 → s.pair.copied = false → ∃ l,
        sendCopy s = { s with pair := { s.pair with copied := true, sentCtrl := s.pair.sentCtrl ++ l } }
        ∧ (∀ ix sub v, sub < 256 → tfind s.cfg (okey ix sub) = some v → ¬(ix = 0x2201 ∧ sub = 1) → Ctrl.config ix sub v ∈ l)
        ∧ (∀ k b, tfind s.net.levelKeys k = some b → Ctrl.bytes 0x1200 k b ∈ l)
        ∧ (∀ k b, tfind s.net.imageKeys k = some b → Ctrl.bytes 0x1210 k b ∈ l)
        ∧ ∀ n b, tfind s.net.labels n = some b → Ctrl.bytes (0x3200 + n) 11 b ∈ l) := by
  have hiff : (s.pair.role != .active || s.pair.link != 2 || s.pair.copied) = true ↔
      s.pair.role ≠ .active ∨ s.pair.link ≠ 2 ∨ s.pair.copied = true := by
    rw [Bool.or_eq_true, Bool.or_eq_true, bne_iff_ne, bne_iff_ne, or_assoc]
  refine ⟨fun h => if_pos (hiff.2 h), fun hrole hlink hnew => ?_⟩
  have hno : ¬(s.pair.role != .active || s.pair.link != 2 || s.pair.copied) = true := by
    rw [hiff, hrole, hlink, hnew]
    simp
  refine ⟨((s.cfg.filter fun x => x.1 != okey 0x2201 1).map fun x => Ctrl.config (x.1 / 256) (x.1 % 256) x.2)
    ++ ((s.net.levelKeys.map fun x => Ctrl.bytes 0x1200 x.1 x.2) ++ (s.net.imageKeys.map fun x => Ctrl.bytes 0x1210 x.1 x.2)
      ++ s.net.labels.map fun x => Ctrl.bytes (0x3200 + x.1) 11 x.2), ?_, fun ix sub v hsub hv hne => ?_, fun k b hb => ?_,
    fun k b hb => ?_, fun n b hb => ?_⟩
  · refine (if_neg hno).trans ?_
    rw [← List.append_assoc s.pair.sentCtrl]
  · refine List.mem_append_left _ (List.mem_map.2 ⟨(okey ix sub, v), List.mem_filter.2 ⟨mem_of_tfind hv, bne_iff_ne.2 ?_⟩, ?_⟩)
    · unfold okey
      omega
    · have hix : okey ix sub / 256 = ix := by unfold okey; omega
      have hlow : okey ix sub % 256 = sub := by unfold okey; omega
      dsimp only
      rw [hix, hlow]
  · exact List.mem_append_right _ (List.mem_append_left _ (List.mem_append_left _ (List.mem_map.2 ⟨_, mem_of_tfind hb, rfl⟩)))
  · exact List.mem_append_right _ (List.mem_append_left _ (List.mem_append_right _ (List.mem_map.2 ⟨_, mem_of_tfind hb, rfl⟩)))
  · exact List.mem_append_right _ (List.mem_append_right _ (List.mem_map.2 ⟨_, mem_of_tfind hb, rfl⟩))

/-! ### The end of arbitration, and the lanes (R305, R306) -/

theorem arbitration_spec (s : State) :
    let waits := s.pair.settled = false ∧ s.pair.hello = none ∧ s.pair.role = .out
    let heard := s.pair.unit = 1 ∧ ∃ x ∈ s.links, x.2.frameOk = true ∧ x.2.obeys = 1
    (¬waits → exec .arbitrationTimeout s = .next s)
    ∧ (waits → heard → exec .arbitrationTimeout s = .next { s with
        pair := { s.pair with settled := true, sticky := s.pair.sticky ||| 1 } })
    ∧ (waits → ¬heard → ∃ t, exec .arbitrationTimeout s = .next t
      ∧ t = { s with pair := roleOf { s.pair with settled := true } .solo, wheel := t.wheel, links := t.links }
      ∧ t.wheel.mode = cfg s 0x2001 1
      ∧ ∀ n ∈ linkPorts s, (link s n).state ≠ .absent → (link s n).state ≠ .training →
          (link t n).cfgOut = true ∧ (link t n).cfgOk = false) := by
  intro waits heard
  have hwaits : (s.pair.settled || s.pair.hello.isSome || s.pair.role != .out) = true ↔ ¬waits := by
    simp only [waits, Bool.or_eq_true, Option.isSome_iff_ne_none, bne_iff_ne, not_and_or, Bool.not_eq_false, or_assoc, ne_eq]
  have hheard : (decide (s.pair.unit = 1) && s.links.any fun x => x.2.frameOk && x.2.obeys == 1) = true ↔ heard := by
    simp only [heard, Bool.and_eq_true, decide_eq_true_eq, List.any_eq_true, beq_iff_eq]
  refine ⟨fun h => congrArg Host.Outcome.next (if_pos (hwaits.2 h)), fun h hh => ?_, fun h hh => ?_⟩
  · exact congrArg Host.Outcome.next ((if_neg (mt hwaits.1 (not_not.2 h))).trans (if_pos (hheard.2 hh)))
  · have hexec : exec .arbitrationTimeout s = .next (toRole { s with pair := { s.pair with settled := true } } .solo) :=
      congrArg Host.Outcome.next ((if_neg (mt hwaits.1 (not_not.2 h))).trans (if_neg (mt hheard.1 hh)))
    obtain ⟨-, -, hrole⟩ := h
    obtain ⟨t, htake, ht, hmode⟩ := toRole_commands (s := { s with pair := { s.pair with settled := true } }) (r := .solo)
      (by rw [hrole]; decide) (.inl rfl)
    have hcmd : ¬commands { s with pair := { s.pair with settled := true } } = true := by
      unfold commands
      rw [hrole]
      decide
    rw [if_neg hcmd, startSends_eq] at htake
    have hports : linkPorts t = linkPorts s := by rw [ht]; rfl
    have hlink (n : Nat) : link t n = link s n := by rw [ht]; rfl
    rw [hports] at htake
    obtain ⟨⟨x, hframe⟩, -, hsent⟩ := startAt_fold (linkPorts s) t
    rw [htake] at hexec
    refine ⟨_, hexec, ?_, ?_, fun n hn habs htrain => ?_⟩
    · rw [hframe, ht]
    · rw [hframe]
      exact hmode
    · exact hsent n (by rw [hlink]; exact habs) (by rw [hlink]; exact htrain) (.inl hn)

/-- A unit that has lost a lane, or, without any left, the mate. -/
def laneLost (s : State) (lanes : List Nat) : State := pairStick { s with pair := { s.pair with
  lanes := lanes, link := if lanes.isEmpty then 0 else if s.pair.link = 0 then 0 else 1, copied := false
  mateRole := if lanes.isEmpty then none else s.pair.mateRole, sweepNext := none, sweepSl := [] } } 1

/-- A unit that shadows its mate falls to COLD. -/
def shadowFalls (s : State) : State := if s.pair.role == .joining || s.pair.role == .hot then toRole s .cold else s

theorem laneDown_spec (s : State) (lane : Fin 8) :
    let lanes := s.pair.lanes.filter fun k => k != lane.val
    let p : Pair := { s.pair with
      lanes := lanes, link := if lanes = [] ∨ s.pair.link = 0 then 0 else 1, copied := false, sweepNext := none, sweepSl := [],
      mateRole := if lanes = [] then none else s.pair.mateRole,
      sticky := s.pair.sticky ||| (if lanes = [] ∧ s.pair.role = .active then 3 else 2) }
    (s.pair.role ≠ .joining → s.pair.role ≠ .hot → exec (.laneDown lane) s = .next { s with pair := p })
    ∧ (s.pair.role = .joining ∨ s.pair.role = .hot → ∃ t, exec (.laneDown lane) s = .next t
      ∧ t = { s with pair := roleOf p .cold, wheel := t.wheel, arr := { s.arr with sleeves := t.arr.sleeves } }
      ∧ t.wheel.mode = (if s.pair.settled then 1 else cfg s 0x2001 1)
      ∧ ∀ n < 32, sleeve t n = { sleeve s n with halted := true, halting := false, parked := true }) := by
  intro lanes p
  have hpair : (if lanes.isEmpty && s.pair.role == .active then pairStick (laneLost s lanes) 0 else laneLost s lanes) = { s with pair := p } := by
    unfold laneLost pairStick
    by_cases hempty : lanes = [] <;> by_cases hactive : s.pair.role = .active <;> by_cases hlink : s.pair.link = 0 <;>
      simp [p, hempty, hactive, hlink, setBit, bitW, BitVec.or_assoc]
  have hexec : exec (.laneDown lane) s = .next (shadowFalls { s with pair := p }) := by
    rw [← hpair]
    rfl
  refine ⟨fun hjoin hhot => ?_, fun hrole => ?_⟩
  · have hno : (s.pair.role == .joining || s.pair.role == .hot) = false := by
      rw [beq_eq_false_iff_ne.2 hjoin, beq_eq_false_iff_ne.2 hhot]
      rfl
    exact hexec.trans (congrArg Host.Outcome.next (if_neg (Bool.eq_false_iff.1 hno)))
  · have hpos : (s.pair.role == .joining || s.pair.role == .hot) = true := by rw [Bool.or_eq_true, beq_iff_eq, beq_iff_eq]; exact hrole
    obtain ⟨hframe, hmode, hsleeve⟩ := toRole_cold (s := { s with pair := p }) hrole
    exact ⟨_, hexec.trans (congrArg Host.Outcome.next (if_pos hpos)), hframe, hmode, hsleeve⟩

/-- Settles O46: HELLO, the records to the mate, the end of arbitration and the lanes of the mate link. -/
theorem arbitrationAssignsRoles : Obligations.ArbitrationAssignsRoles :=
  ⟨hello_spec, fun s => ⟨(tellRole_spec s).1, (tellRole_spec s).2, sendCopy_spec s⟩, arbitration_spec, fun _ => rfl, laneDown_spec⟩

end Sys2Proof.Machine
end

section
/-! PROOFS. What a shadow unit takes from the active's records (R307, R309, R310, R315 to R317). -/
namespace Sys2Proof.Machine

/-! ### The roles that follow (R307) -/

/-- A unit whose engines run beside the active's. -/
def Shadows (s : State) : Prop := s.pair.role = .hot ∨ (s.pair.role = .joining ∧ ∃ k, s.pair.join = some k ∧ 5 ≤ k)

theorem inShadow_iff (s : State) : inShadow s = true ↔ Shadows s := by
  unfold inShadow Shadows
  rw [Bool.or_eq_true, Bool.and_eq_true, beq_iff_eq, beq_iff_eq]
  refine or_congr Iff.rfl (and_congr Iff.rfl ?_)
  cases s.pair.join <;> simp

/-- A unit that takes the persistent words of a Sleeve. -/
def Takes (s : State) (sl : Nat) : Prop := (s.pair.role = .joining ∧ ∃ k, s.pair.join = some k ∧ k < 5)
  ∨ (s.pair.role = .hot ∧ hasBit s.pair.resync sl = true)

theorem mirrors_iff (s : State) (sl : Nat) : mirrors s sl = true ↔ Takes s sl := by
  have hjoin : (s.pair.role = .joining ∧ s.pair.join.isSome = true) ∧ ¬Shadows s ↔ s.pair.role = .joining ∧ ∃ k, s.pair.join = some k ∧ k < 5 := by
    unfold Shadows
    constructor
    · rintro ⟨⟨hrole, hsome⟩, hno⟩
      obtain ⟨k, hk⟩ := Option.isSome_iff_exists.1 hsome
      exact ⟨hrole, k, hk, by by_contra hlt; exact hno (.inr ⟨hrole, k, hk, by omega⟩)⟩
    · rintro ⟨hrole, k, hk, hlt⟩
      refine ⟨⟨hrole, by rw [hk]; rfl⟩, ?_⟩
      rintro (hhot | ⟨-, j, hj, hge⟩)
      · cases hrole.symm.trans hhot
      · cases hk.symm.trans hj
        omega
  unfold mirrors Takes
  rw [Bool.or_eq_true, Bool.and_eq_true, Bool.and_eq_true, Bool.and_eq_true, Bool.not_eq_true', ← Bool.not_eq_true, inShadow_iff, beq_iff_eq,
    beq_iff_eq, hjoin]

theorem wheelDeadline_spec (s : State) :
    (Shadows s → s.pair.wheelGot = false → exec .wheelBlockDeadline s = .next { s with
        pair := { s.pair with blockLate := true, sticky := s.pair.sticky ||| 0x10 } })
    ∧ (¬(Shadows s ∧ s.pair.wheelGot = false) → exec .wheelBlockDeadline s = .next s) := by
  have hiff : (inShadow s && !s.pair.wheelGot) = true ↔ Shadows s ∧ s.pair.wheelGot = false := by
    rw [Bool.and_eq_true, inShadow_iff, Bool.not_eq_true']
  exact ⟨fun h hgot => congrArg Host.Outcome.next (if_pos (hiff.2 ⟨h, hgot⟩)), fun h => congrArg Host.Outcome.next (if_neg (mt hiff.1 h))⟩

/-! ### Words that are mirrored (R309, R310) -/

/-- Words written one after the other, each to its place. -/
def putAll {α : Type} (place : α → Nat) (val : α → Word) (l : List α) (m : Mem) : Mem := l.foldl (fun m x => mputWord m (place x) (val x)) m

theorem putAll_outside {α : Type} (place : α → Nat) (val : α → Word) {a : Nat} (l : List α) : ∀ m : Mem,
    (∀ x ∈ l, a < place x ∨ place x + 4 ≤ a) → mget (putAll place val l m) a = mget m a := by
  induction l with
  | nil => exact fun _ _ => rfl
  | cons x l ih =>
    intro m h
    refine (ih _ fun y hy => h y (List.mem_cons_of_mem _ hy)).trans ?_
    exact sameOutside_mputWord m _ _ a (h x List.mem_cons_self)

theorem putAll_word {α : Type} (place : α → Nat) (val : α → Word) (halign : ∀ x y, place x ≠ place y → place x + 4 ≤ place y ∨ place y + 4 ≤ place x)
    (pre : List α) (x : α) (post : List α) (m : Mem) (hlast : ∀ y ∈ post, place y ≠ place x) :
    wordAt (putAll place val (pre ++ x :: post) m) (place x) = val x := by
  have hpost : ∀ (l : List α) (m : Mem), (∀ y ∈ l, place y ≠ place x) → wordAt (putAll place val l m) (place x) = wordAt m (place x) := by
    intro l
    induction l with
    | nil => exact fun _ _ => rfl
    | cons y l ih =>
      intro m h
      refine (ih _ fun z hz => h z (List.mem_cons_of_mem _ hz)).trans (wordAt_mputWord_apart m _ _ _ ?_)
      exact (halign x y fun h' => h y List.mem_cons_self h'.symm)
  unfold putAll
  rw [List.foldl_append, List.foldl_cons]
  exact (hpost post _ hlast).trans (wordAt_mputWord _ _ _)

/-- A word stands where it was written, unless another has been written there. -/
theorem putAll_mem {α : Type} {place : α → Nat} {val : α → Word} {x : α}
    (halign : ∀ y, place y ≠ place x → place y + 4 ≤ place x ∨ place x + 4 ≤ place y) (l : List α) : ∀ m : Mem,
    (∀ y ∈ l, place y = place x → val y = val x) → x ∈ l ∨ wordAt m (place x) = val x → wordAt (putAll place val l m) (place x) = val x := by
  induction l with
  | nil => exact fun _ _ h => h.resolve_left (by simp)
  | cons y l ih =>
    intro m hsame h
    refine ih _ (fun z hz => hsame z (List.mem_cons_of_mem _ hz)) ?_
    by_cases hplace : place y = place x
    · right
      refine (congrArg (fun a => wordAt (mputWord m a (val y)) (place x)) hplace).trans ((wordAt_mputWord _ _ _).trans ?_)
      exact hsame y List.mem_cons_self hplace
    · refine h.imp (fun h => (List.mem_cons.1 h).resolve_left fun h' => hplace (by rw [h'])) fun h => ?_
      exact (wordAt_mputWord_apart m _ _ _ (halign y hplace).symm).trans h

theorem mirror_fold {α : Type} (e idx : α → Nat) (val : α → Word) (l : List α) : ∀ s : State,
    l.foldl (fun s x => mirrorWord s (e x) (idx x) (val x)) s
      = setDmem s (putAll (fun x => e x * 4096 + 0xF00 + idx x % 64 * 4) val l s.arr.dmem) := by
  induction l with
  | nil => exact fun _ => rfl
  | cons x l ih => exact fun s => ih _

theorem store_spec (s : State) (sl : SleeveId) (words : List (Nat × Nat × Word)) :
    let place (x : Nat × Nat × Word) : Nat := (32 * sl.val + x.1 % 32) * 4096 + 0xF00 + x.2.1 % 64 * 4
    (¬Takes s sl → exec (.store sl words) s = .next s)
    ∧ (Takes s sl → ∃ t, exec (.store sl words) s = .next t ∧ t = { s with arr := { s.arr with dmem := t.arr.dmem } }
      ∧ (∀ a, (∀ x ∈ words, a < place x ∨ place x + 4 ≤ a) → mget t.arr.dmem a = mget s.arr.dmem a)
      ∧ ∀ pre x post, words = pre ++ x :: post → (∀ y ∈ post, place y ≠ place x) → wordAt t.arr.dmem (place x) = x.2.2) := by
  intro place
  refine ⟨fun h => congrArg Host.Outcome.next (if_neg (mt (mirrors_iff s sl).1 h)), fun h => ?_⟩
  have hexec : exec (.store sl words) s = .next (setDmem s (putAll place (fun x => x.2.2) words s.arr.dmem)) := by
    refine congrArg Host.Outcome.next ((if_pos ((mirrors_iff s sl).2 h)).trans ?_)
    exact mirror_fold (fun x : Nat × Nat × Word => 32 * sl.val + x.1 % 32) (fun x => x.2.1) (fun x => x.2.2) words s
  refine ⟨_, hexec, rfl, fun a ha => putAll_outside place _ words _ ha, fun pre x post hwords hlast => ?_⟩
  rw [hwords]
  refine putAll_word place (fun x => x.2.2) (fun x y hne => ?_) pre x post _ hlast
  dsimp only [place] at hne ⊢
  omega

/-- What a line that was taken counts for. -/
def sweptTail (s : State) (line : Nat) : State :=
  if s.pair.role == .joining then
    (if line = s.pair.sweepLines then { s with pair := { s.pair with sweepLines := line + 1 } } else s)
  else
    let k := tget 0 s.pair.resyncLines (line / 128)
    { s with pair := { s.pair with
        resyncLines := if k < 128 then tput s.pair.resyncLines (line / 128) (k + 1) else s.pair.resyncLines } }

theorem sweptTail_spec (s : State) (line : Nat) (htakes : Takes s (line / 128)) :
    sweptTail s line = { s with pair := { s.pair with
      sweepLines := if s.pair.role = .joining ∧ line = s.pair.sweepLines then line + 1 else s.pair.sweepLines
      resyncLines := (sweptTail s line).pair.resyncLines } }
    ∧ ∀ n, tget 0 (sweptTail s line).pair.resyncLines n = tget 0 s.pair.resyncLines n
      + (if s.pair.role = .hot ∧ n = line / 128 ∧ tget 0 s.pair.resyncLines n < 128 then 1 else 0) := by
  rcases htakes with ⟨hrole, -⟩ | ⟨hrole, -⟩
  · have hhot : ¬s.pair.role = .hot := by rw [hrole]; decide
    have hnone (n : Nat) : (if s.pair.role = .hot ∧ n = line / 128 ∧ tget 0 s.pair.resyncLines n < 128 then 1 else 0) = 0 :=
      if_neg fun h => hhot h.1
    have htail : sweptTail s line = if line = s.pair.sweepLines then { s with pair := { s.pair with sweepLines := line + 1 } } else s :=
      if_pos (beq_iff_eq.2 hrole)
    rw [htail]
    by_cases hline : line = s.pair.sweepLines
    · rw [if_pos hline, if_pos ⟨hrole, hline⟩]
      exact ⟨rfl, fun n => by rw [hnone]; rfl⟩
    · rw [if_neg hline, if_neg fun h => hline h.2]
      exact ⟨rfl, fun n => by rw [hnone]; rfl⟩
  · have hjoin : ¬s.pair.role = .joining := by rw [hrole]; decide
    have htail : sweptTail s line = { s with pair := { s.pair with
        resyncLines := if tget 0 s.pair.resyncLines (line / 128) < 128
          then tput s.pair.resyncLines (line / 128) (tget 0 s.pair.resyncLines (line / 128) + 1) else s.pair.resyncLines } } :=
      if_neg (mt beq_iff_eq.1 hjoin)
    have hno : ¬(s.pair.role = .joining ∧ line = s.pair.sweepLines) := fun h => hjoin h.1
    rw [htail, if_neg hno]
    refine ⟨rfl, fun n => ?_⟩
    dsimp only
    by_cases hn : n = line / 128
    · subst hn
      by_cases hk : tget 0 s.pair.resyncLines (line / 128) < 128
      · rw [if_pos hk, if_pos ⟨hrole, rfl, hk⟩, tget_tput_same]
      · rw [if_neg hk, if_neg fun h => hk h.2.2]
        rfl
    · have hother : ¬(s.pair.role = .hot ∧ n = line / 128 ∧ tget 0 s.pair.resyncLines n < 128) := fun h => hn h.2.1
      rw [if_neg hother]
      split
      · exact tget_tput_other _ _ _ _ _ hn
      · rfl

theorem sweep_spec (s : State) (line : Nat) (words : List Word) (hlen : words.length = 16) :
    let base := line / 4 * 4096 + 0xF00 + line % 4 * 64
    (4096 ≤ line ∨ ¬Takes s (line / 128) → exec (.sweep line words) s = .next s)
    ∧ (line < 4096 → Takes s (line / 128) → ∃ t, exec (.sweep line words) s = .next t
      ∧ t = { s with arr := { s.arr with dmem := t.arr.dmem }, pair := { s.pair with
          sweepLines := if s.pair.role = .joining ∧ line = s.pair.sweepLines then line + 1 else s.pair.sweepLines,
          resyncLines := t.pair.resyncLines } }
      ∧ SameOutside s.arr.dmem t.arr.dmem base 64
      ∧ (∀ k w, words[k]? = some w → wordAt t.arr.dmem (base + 4 * k) = w)
      ∧ (∀ n, tget 0 t.pair.resyncLines n = tget 0 s.pair.resyncLines n
          + (if s.pair.role = .hot ∧ n = line / 128 ∧ tget 0 s.pair.resyncLines n < 128 then 1 else 0))) := by
  intro base
  have hskip : (4096 ≤ line ∨ mirrors s (line / 128) = false) ↔ 4096 ≤ line ∨ ¬Takes s (line / 128) := by
    rw [← Bool.not_eq_true, mirrors_iff]
  refine ⟨fun h => congrArg Host.Outcome.next (if_pos (hskip.2 h)), fun hline htakes => ?_⟩
  have htake : ¬(4096 ≤ line ∨ mirrors s (line / 128) = false) := fun h => (hskip.1 h).elim (fun h => absurd hline (not_lt.2 h)) fun h => h htakes
  generalize hm : putAll (fun x : Word × Nat => line / 4 * 4096 + 0xF00 + (16 * (line % 4) + x.2) % 64 * 4) (fun x => x.1) words.zipIdx
    s.arr.dmem = m
  have hexec : exec (.sweep line words) s = .next (sweptTail (setDmem s m) line) := by
    refine congrArg Host.Outcome.next ((if_neg htake).trans ?_)
    rw [← hm, ← mirror_fold (fun _ : Word × Nat => line / 4) (fun x => 16 * (line % 4) + x.2), List.take_of_length_le (by omega)]
    rfl
  obtain ⟨hframe, hlines⟩ := sweptTail_spec (setDmem s m) line htakes
  have hdmem : (sweptTail (setDmem s m) line).arr.dmem = m := by rw [hframe]; rfl
  have hidx {x : Word × Nat} (hx : x ∈ words.zipIdx) : x.2 < 16 ∧ words[x.2]? = some x.1 := by
    have h := List.mk_mem_zipIdx_iff_getElem?.1 hx
    exact ⟨hlen ▸ (List.getElem?_eq_some_iff.1 h).1, h⟩
  refine ⟨_, hexec, ?_, fun a ha => ?_, fun k w hw => ?_, hlines⟩
  · rw [hdmem]
    exact hframe
  · rw [hdmem, ← hm]
    refine putAll_outside _ _ _ _ fun x hx => ?_
    have := (hidx hx).1
    dsimp only [base] at ha ⊢
    omega
  · have hk : k < 16 := hlen ▸ (List.getElem?_eq_some_iff.1 hw).1
    have hbase : base + 4 * k = line / 4 * 4096 + 0xF00 + (16 * (line % 4) + k) % 64 * 4 := by
      dsimp only [base]
      omega
    rw [hdmem, hbase, ← hm]
    refine putAll_mem (x := (w, k)) (fun y hy => ?_) _ _ (fun y hy hplace => ?_) (.inl (List.mk_mem_zipIdx_iff_getElem?.2 hw))
    · dsimp only at hy ⊢
      omega
    · obtain ⟨hlt, hy⟩ := hidx hy
      have hsame : y.2 = k := by
        dsimp only at hplace
        omega
      rw [hsame, hw] at hy
      exact (Option.some.inj hy).symm

/-! ### Digests (R315 to R317) -/

/-- A Sleeve whose digest is compared. -/
def Runs (s : State) (n : Nat) : Prop := hasBit s.pair.resync n = false ∧ (sleeve s n).halted = false

/-- A Sleeve whose inputs were not the active's. -/
def SplitIn (fs : List Byte) (s : State) (n : Nat) : Prop :=
  Runs s n ∧ (s.pair.ownPrev = true ∨ (fs[n]?).getD 0 ≠ (s.pair.frameOks[n]?).getD 0)

/-- A Sleeve that had the active's inputs and has another digest. -/
def WrongIn (ds : List Word) (fs : List Byte) (s : State) (n : Nat) : Prop :=
  Runs s n ∧ ¬SplitIn fs s n ∧ (ds[n]?).getD 0 ≠ tget 0 s.pair.digests n

/-- A Sleeve is sent to resynchronisation. -/
def resyncAt (s : State) (n : Nat) : State :=
  setSleeve (pairStick { s with pair := { s.pair with
    resync := setBit s.pair.resync n, resyncLines := tput s.pair.resyncLines n 0 } } 4) n { sleeve s n with halting := true, parked := true }

/-- A mismatch is recorded. -/
def wrongAt (s : State) (n : Nat) : State :=
  pairStick { s with pair := { s.pair with
    mismatches := s.pair.mismatches + 1, mismatchRound := s.wheel.round - 1, mismatchSleeve := n, nextRole := some .cold } } 5

section Compare
variable (ds : List Word) (fs : List Byte) (s : State) (n : Nat)

theorem compareSleeve_split (h : SplitIn fs s n) : compareSleeve ds fs s n = resyncAt s n := by
  obtain ⟨⟨hresync, hhalt⟩, hsplit⟩ := h
  refine (if_neg ?_).trans (if_pos ?_)
  · rw [hresync, hhalt]
    decide
  · rw [Bool.or_eq_true, bne_iff_ne]
    exact hsplit

theorem compareSleeve_wrong (h : WrongIn ds fs s n) : compareSleeve ds fs s n = wrongAt s n := by
  obtain ⟨⟨hresync, hhalt⟩, hsplit, hwrong⟩ := h
  refine (if_neg ?_).trans ((if_neg ?_).trans (if_pos (bne_iff_ne.2 hwrong)))
  · rw [hresync, hhalt]
    decide
  · rw [Bool.or_eq_true, bne_iff_ne]
    exact fun h => hsplit ⟨⟨hresync, hhalt⟩, h⟩

theorem compareSleeve_right (hsplit : ¬SplitIn fs s n) (hwrong : ¬WrongIn ds fs s n) : compareSleeve ds fs s n = s := by
  by_cases hruns : Runs s n
  · refine (if_neg ?_).trans ((if_neg ?_).trans (if_neg ?_))
    · rw [hruns.1, hruns.2]
      decide
    · rw [Bool.or_eq_true, bne_iff_ne]
      exact fun h => hsplit ⟨hruns, h⟩
    · rw [bne_iff_ne]
      exact fun h => hwrong ⟨hruns, hsplit, h⟩
  · refine if_pos ?_
    rw [Bool.or_eq_true]
    by_contra hno
    rw [not_or, Bool.not_eq_true, Bool.not_eq_true] at hno
    exact hruns hno

end Compare

/-- The same as a Bool, to be counted. -/
def wrongBit (ds : List Word) (fs : List Byte) (s : State) (n : Nat) : Bool :=
  !hasBit s.pair.resync n && !(sleeve s n).halted && !(s.pair.ownPrev || (fs[n]?).getD 0 != (s.pair.frameOks[n]?).getD 0)
    && (ds[n]?).getD 0 != tget 0 s.pair.digests n

theorem wrongBit_iff (ds : List Word) (fs : List Byte) (s : State) (n : Nat) : wrongBit ds fs s n = true ↔ WrongIn ds fs s n := by
  unfold wrongBit WrongIn SplitIn Runs
  simp only [Bool.and_eq_true, Bool.not_eq_true', Bool.or_eq_false_iff, bne_iff_ne, bne_eq_false_iff_eq]
  constructor
  · rintro ⟨⟨⟨hresync, hhalt⟩, hown, hfs⟩, hds⟩
    exact ⟨⟨hresync, hhalt⟩, fun h => h.2.elim (fun h => Bool.false_ne_true (hown.symm.trans h)) fun h => h hfs, hds⟩
  · rintro ⟨hruns, hsplit, hds⟩
    refine ⟨⟨hruns, Bool.eq_false_iff.2 fun h => hsplit ⟨hruns, .inl h⟩, ?_⟩, hds⟩
    by_contra h
    exact hsplit ⟨hruns, .inr h⟩

/-- What the comparison of the Sleeves of a list leaves. -/
structure Compared (ds : List Word) (fs : List Byte) (l : List Nat) (s t : State) : Prop where
  frame : t = { s with arr := { s.arr with sleeves := t.arr.sleeves }, pair := { s.pair with
    resync := t.pair.resync, resyncLines := t.pair.resyncLines, sticky := t.pair.sticky, mismatches := t.pair.mismatches
    mismatchRound := t.pair.mismatchRound, mismatchSleeve := t.pair.mismatchSleeve, nextRole := t.pair.nextRole } }
  split : ∀ n ∈ l, SplitIn fs s n → hasBit t.pair.resync n = true ∧ tget 0 t.pair.resyncLines n = 0
    ∧ sleeve t n = { sleeve s n with halting := true, parked := true } ∧ hasBit t.pair.sticky 4 = true
  stay : ∀ n, ¬(n ∈ l ∧ SplitIn fs s n) → hasBit t.pair.resync n = hasBit s.pair.resync n ∧ sleeve t n = sleeve s n
    ∧ tget 0 t.pair.resyncLines n = tget 0 s.pair.resyncLines n
  wrong : (∃ n ∈ l, WrongIn ds fs s n) → t.pair.nextRole = some .cold ∧ hasBit t.pair.sticky 5 = true
    ∧ t.pair.mismatchRound = s.wheel.round - 1 ∧ t.pair.mismatchSleeve ∈ l ∧ WrongIn ds fs s t.pair.mismatchSleeve
    ∧ ∀ n ∈ l, WrongIn ds fs s n → n ≤ t.pair.mismatchSleeve
  right : (∀ n ∈ l, ¬WrongIn ds fs s n) → t.pair.nextRole = s.pair.nextRole ∧ hasBit t.pair.sticky 5 = hasBit s.pair.sticky 5
    ∧ t.pair.mismatchRound = s.pair.mismatchRound ∧ t.pair.mismatchSleeve = s.pair.mismatchSleeve
  count : t.pair.mismatches = s.pair.mismatches + BitVec.ofNat 32 (l.filter (wrongBit ds fs s)).length
  whole : (∀ n ∈ l, ¬SplitIn fs s n) → hasBit t.pair.sticky 4 = hasBit s.pair.sticky 4
  bits : ∀ b, b ≠ 4 → b ≠ 5 → hasBit t.pair.sticky b = hasBit s.pair.sticky b

section Fold
variable {ds : List Word} {fs : List Byte}

theorem compared_nil (s : State) : Compared ds fs [] s s :=
  ⟨rfl, fun n hn => absurd hn (by simp), fun _ _ => ⟨rfl, rfl, rfl⟩, fun ⟨_, hn, _⟩ => absurd hn (by simp), fun _ => ⟨rfl, rfl, rfl, rfl⟩,
    (BitVec.add_zero _).symm, fun _ => rfl, fun _ _ _ => rfl⟩

theorem compared_split {s : State} {a : Nat} (ha : a < 32) (h : SplitIn fs s a) : Compared ds fs [a] s (resyncAt s a) := by
  have hright : ¬WrongIn ds fs s a := fun hw => hw.2.1 h
  have hbit : wrongBit ds fs s a = false := Bool.eq_false_iff.2 fun hw => hright ((wrongBit_iff _ _ _ _).1 hw)
  have hcount : [a].filter (wrongBit ds fs s) = [] := by
    rw [List.filter_cons_of_neg (by rw [hbit]; decide), List.filter_nil]
  refine ⟨rfl, fun n hn _ => ?_, fun n hn => ?_, fun ⟨n, hn, hw⟩ => ?_, fun _ => ⟨rfl, hasBit_setBit_other _ (by decide), rfl, rfl⟩, ?_, fun hno => ?_,
    fun b h4 _ => hasBit_setBit_other _ h4⟩
  · rw [List.mem_singleton.1 hn]
    exact ⟨hasBit_setBit _ ha, tget_tput_same _ _ _ _, sleeve_setSleeve _ _ _, hasBit_setBit _ (by decide)⟩
  · have hna : n ≠ a := fun hna => hn ⟨List.mem_singleton.2 hna, hna ▸ h⟩
    exact ⟨hasBit_setBit_other _ hna, sleeve_setSleeve_other _ _ _ _ hna, tget_tput_other _ _ _ _ _ hna⟩
  · exact absurd (List.mem_singleton.1 hn ▸ hw) hright
  · rw [hcount]
    exact (BitVec.add_zero _).symm
  · exact absurd h (hno a (by simp))

theorem compared_wrong {s : State} {a : Nat} (h : WrongIn ds fs s a) : Compared ds fs [a] s (wrongAt s a) := by
  have hcount : [a].filter (wrongBit ds fs s) = [a] := List.filter_cons_of_pos ((wrongBit_iff _ _ _ _).2 h)
  refine ⟨rfl, fun n hn hs => ?_, fun n hn => ⟨rfl, rfl, rfl⟩, fun _ => ?_, fun hno => ?_, ?_, fun _ => hasBit_setBit_other _ (by decide),
    fun b _ h5 => hasBit_setBit_other _ h5⟩
  · exact absurd (List.mem_singleton.1 hn ▸ hs) h.2.1
  · exact ⟨rfl, hasBit_setBit _ (by decide), rfl, List.mem_singleton.2 rfl, h, fun n hn _ => le_of_eq (List.mem_singleton.1 hn)⟩
  · exact absurd h (hno a (by simp))
  · rw [hcount]
    rfl

theorem compared_same {s : State} {a : Nat} (hsplit : ¬SplitIn fs s a) (hwrong : ¬WrongIn ds fs s a) : Compared ds fs [a] s s := by
  have hbit : wrongBit ds fs s a = false := Bool.eq_false_iff.2 fun hw => hwrong ((wrongBit_iff _ _ _ _).1 hw)
  have hcount : [a].filter (wrongBit ds fs s) = [] := by
    rw [List.filter_cons_of_neg (by rw [hbit]; decide), List.filter_nil]
  refine ⟨rfl, fun n hn hs => ?_, fun _ _ => ⟨rfl, rfl, rfl⟩, fun ⟨n, hn, hw⟩ => ?_, fun _ => ⟨rfl, rfl, rfl, rfl⟩, ?_, fun _ => rfl, fun _ _ _ => rfl⟩
  · exact absurd (List.mem_singleton.1 hn ▸ hs) hsplit
  · exact absurd (List.mem_singleton.1 hn ▸ hw) hwrong
  · rw [hcount]
    exact (BitVec.add_zero _).symm

theorem compared_one {s : State} {a : Nat} (ha : a < 32) : Compared ds fs [a] s (compareSleeve ds fs s a) := by
  by_cases hsplit : SplitIn fs s a
  · rw [compareSleeve_split ds fs s a hsplit]
    exact compared_split ha hsplit
  by_cases hwrong : WrongIn ds fs s a
  · rw [compareSleeve_wrong ds fs s a hwrong]
    exact compared_wrong hwrong
  · rw [compareSleeve_right ds fs s a hsplit hwrong]
    exact compared_same hsplit hwrong

theorem compared_cons {s u t : State} {a : Nat} {l : List Nat} (h : Compared ds fs [a] s u) (h' : Compared ds fs l u t)
    (hlt : ∀ n ∈ l, a < n) : Compared ds fs (a :: l) s t := by
  have hne {n : Nat} (hn : n ∈ l) : n ≠ a := fun heq => absurd (hlt n hn) (by omega)
  have hstay {n : Nat} (hn : n ≠ a) := h.stay n fun h => hn (List.mem_singleton.1 h.1)
  have hown : u.pair.ownPrev = s.pair.ownPrev := by rw [h.frame]
  have hfs : u.pair.frameOks = s.pair.frameOks := by rw [h.frame]
  have hds : u.pair.digests = s.pair.digests := by rw [h.frame]
  have hruns {n : Nat} (hn : n ≠ a) : Runs u n ↔ Runs s n := by
    obtain ⟨hresync, hsleeve, -⟩ := hstay hn
    unfold Runs
    rw [hresync, hsleeve]
  have hsplit {n : Nat} (hn : n ≠ a) : SplitIn fs u n ↔ SplitIn fs s n := by
    unfold SplitIn
    rw [hruns hn, hown, hfs]
  have hwrong {n : Nat} (hn : n ≠ a) : WrongIn ds fs u n ↔ WrongIn ds fs s n := by
    unfold WrongIn
    rw [hruns hn, hsplit hn, hds]
  have hcount : l.filter (wrongBit ds fs u) = l.filter (wrongBit ds fs s) := by
    refine List.filter_congr fun n hn => Bool.eq_iff_iff.2 ?_
    rw [wrongBit_iff, wrongBit_iff, hwrong (hne hn)]
  refine ⟨?_, fun n hn hs => ?_, fun n hn => ?_, fun hex => ?_, fun hno => ?_, ?_, fun hno => ?_, fun b h4 h5 => (h'.bits b h4 h5).trans (h.bits b h4 h5)⟩
  · have hf := h.frame
    rw [h'.frame, hf]
  · by_cases ha : n = a
    · subst ha
      have hl : ¬(n ∈ l ∧ SplitIn fs u n) := fun h => hne h.1 rfl
      obtain ⟨hresync, hlines, hsleeve, hsticky⟩ := h.split n (by simp) hs
      obtain ⟨hresync', hsleeve', hlines'⟩ := h'.stay n hl
      refine ⟨hresync'.trans hresync, hlines'.trans hlines, hsleeve'.trans hsleeve, ?_⟩
      by_cases hany : ∃ k ∈ l, SplitIn fs u k
      · obtain ⟨k, hk, hks⟩ := hany
        exact (h'.split k hk hks).2.2.2
      · exact (h'.whole fun k hk hks => hany ⟨k, hk, hks⟩).trans hsticky
    · obtain ⟨hresync, hlines, hsleeve, hsticky⟩ := h'.split n ((List.mem_cons.1 hn).resolve_left ha) ((hsplit ha).2 hs)
      rw [(hstay ha).2.1] at hsleeve
      exact ⟨hresync, hlines, hsleeve, hsticky⟩
  · have hl : ¬(n ∈ l ∧ SplitIn fs u n) := fun h => hn ⟨List.mem_cons_of_mem _ h.1, (hsplit (hne h.1)).1 h.2⟩
    have ha : ¬(n ∈ [a] ∧ SplitIn fs s n) := fun h => hn ⟨List.mem_cons.2 (.inl (List.mem_singleton.1 h.1)), h.2⟩
    obtain ⟨hresync, hsleeve, hlines⟩ := h.stay n ha
    obtain ⟨hresync', hsleeve', hlines'⟩ := h'.stay n hl
    exact ⟨hresync'.trans hresync, hsleeve'.trans hsleeve, hlines'.trans hlines⟩
  · have hround : u.wheel.round = s.wheel.round := by rw [h.frame]
    by_cases hany : ∃ k ∈ l, WrongIn ds fs u k
    · obtain ⟨hnext, hsticky, hr, hmem, hw, hmax⟩ := h'.wrong hany
      refine ⟨hnext, hsticky, hr.trans (by rw [hround]), List.mem_cons_of_mem _ hmem, (hwrong (hne hmem)).1 hw, fun n hn hwn => ?_⟩
      rcases List.mem_cons.1 hn with rfl | hn
      · exact (hlt _ hmem).le
      · exact hmax n hn ((hwrong (hne hn)).2 hwn)
    · have hno : ∀ k ∈ l, ¬WrongIn ds fs u k := fun k hk hw => hany ⟨k, hk, hw⟩
      have hwa : WrongIn ds fs s a := by
        obtain ⟨n, hn, hw⟩ := hex
        rcases List.mem_cons.1 hn with rfl | hn
        · exact hw
        · exact absurd ((hwrong (hne hn)).2 hw) (hno n hn)
      obtain ⟨hnext, hsticky, hr, hmem, hw, -⟩ := h.wrong ⟨a, by simp, hwa⟩
      obtain ⟨hnext', hsticky', hr', hmm'⟩ := h'.right hno
      rw [hnext', hsticky', hr', hmm', List.mem_singleton.1 hmem]
      refine ⟨hnext, hsticky, hr, by simp, hwa, fun n hn hwn => ?_⟩
      rcases List.mem_cons.1 hn with rfl | hn
      · exact le_refl _
      · exact absurd ((hwrong (hne hn)).2 hwn) (hno n hn)
  · obtain ⟨hnext, hsticky, hr, hmm⟩ := h.right fun n hn => hno n (List.mem_cons.2 (.inl (List.mem_singleton.1 hn)))
    obtain ⟨hnext', hsticky', hr', hmm'⟩ := h'.right fun n hn hw => hno n (List.mem_cons_of_mem _ hn) ((hwrong (hne hn)).1 hw)
    exact ⟨hnext'.trans hnext, hsticky'.trans hsticky, hr'.trans hr, hmm'.trans hmm⟩
  · have hlen : ((a :: l).filter (wrongBit ds fs s)).length = ([a].filter (wrongBit ds fs s)).length + (l.filter (wrongBit ds fs s)).length := by
      rw [← List.length_append, ← List.filter_append]
      rfl
    rw [h'.count, h.count, hcount, hlen, BitVec.ofNat_add, BitVec.add_assoc]
  · refine (h'.whole fun n hn hs => hno n (List.mem_cons_of_mem _ hn) ((hsplit (hne hn)).1 hs)).trans (h.whole fun n hn => ?_)
    exact hno n (List.mem_cons.2 (.inl (List.mem_singleton.1 hn)))

theorem compared_all (l : List Nat) : ∀ s : State, l.Pairwise (· < ·) → (∀ n ∈ l, n < 32) →
    Compared ds fs l s (l.foldl (compareSleeve ds fs) s) := by
  induction l with
  | nil => exact fun s _ _ => compared_nil s
  | cons a l ih =>
    intro s hsorted hsmall
    obtain ⟨hlt, hl⟩ := List.pairwise_cons.1 hsorted
    exact compared_cons (compared_one (hsmall a (by simp))) (ih _ hl fun n hn => hsmall n (List.mem_cons_of_mem _ hn)) hlt

end Fold

theorem digest_active {s : State} (ds : List Word) (fs : List Byte) (hrole : s.pair.role = .active) (hmate : s.pair.mateRole = some .hot) :
    ∃ l, exec (.digest ds fs) s = .next { s with pair := { s.pair with sweepSl := s.pair.sweepSl ++ l } }
      ∧ (l.map Prod.fst).Nodup
      ∧ ∀ x, x ∈ l ↔ x.2 = 0 ∧ x.1 < 32 ∧ (sleeve s x.1).halted = false
          ∧ (fs[x.1]?).getD 0 ≠ (s.pair.frameOks[x.1]?).getD 0 ∧ ∀ y ∈ s.pair.sweepSl, y.1 ≠ x.1 := by
  have hno : ¬inShadow s = true := by
    rw [inShadow_iff]
    rintro (h | ⟨h, -⟩) <;> cases hrole.symm.trans h
  have hpos : (s.pair.role == .active && s.pair.mateRole == some .hot) = true := by
    rw [hrole, hmate]
    rfl
  refine ⟨_, congrArg Host.Outcome.next ((if_neg hno).trans (if_pos hpos)), ?_, fun x => ?_⟩
  · rw [List.map_map]
    exact (List.map_id' _).symm ▸ List.nodup_range.filter _
  · obtain ⟨n, k⟩ := x
    rw [List.mem_map]
    simp only [List.mem_filter, allSleeves, List.mem_range, Bool.and_eq_true, bne_iff_ne, Bool.not_eq_true', List.any_eq_false, beq_iff_eq,
      Prod.mk.injEq]
    constructor
    · rintro ⟨m, ⟨hm, ⟨hfs, hnew⟩, hhalt⟩, rfl, rfl⟩
      exact ⟨rfl, hm, hhalt, hfs, hnew⟩
    · rintro ⟨rfl, hm, hhalt, hfs, hnew⟩
      exact ⟨n, ⟨hm, ⟨hfs, hnew⟩, hhalt⟩, rfl, rfl⟩

/-- Settles O47: the deadline of the WHEEL block, mirrored stores and lines, and the digests. -/
theorem shadowFollowsTheActive : Obligations.ShadowFollowsTheActive := by
  intro s
  refine ⟨(wheelDeadline_spec s).1, (wheelDeadline_spec s).2, store_spec s, sweep_spec s, fun ds fs => ?_⟩
  intro runs split wrong
  refine ⟨fun hshadow hactive => ?_, digest_active ds fs, fun hshadow => ?_⟩
  · refine congrArg Host.Outcome.next ((if_neg (mt (inShadow_iff s).1 hshadow)).trans (if_neg ?_))
    rw [Bool.and_eq_true, beq_iff_eq, beq_iff_eq]
    exact hactive
  · have hc := compared_all (ds := ds) (fs := fs) allSleeves s List.pairwise_lt_range fun n hn => List.mem_range.1 hn
    have hmem {n : Nat} : n ∈ allSleeves ↔ n < 32 := List.mem_range
    refine ⟨_, congrArg Host.Outcome.next (if_pos ((inShadow_iff s).2 hshadow)), hc.frame, fun n hn => ⟨hc.split n (hmem.2 hn), fun hs =>
      hc.stay n fun h => hs h.2⟩, fun ⟨n, hn, hw⟩ => ?_, fun hno => hc.right fun n hn => hno n (hmem.1 hn), ?_,
      fun hno => hc.whole fun n hn => hno n (hmem.1 hn), hc.bits⟩
    · obtain ⟨hnext, hsticky, hr, hmm, hw, hmax⟩ := hc.wrong ⟨n, hmem.2 hn, hw⟩
      exact ⟨hnext, hsticky, hr, hmem.1 hmm, hw, fun n hn => hmax n (hmem.2 hn)⟩
    · have hfilter : allSleeves.filter (wrongBit ds fs s) = allSleeves.filter fun n => decide (wrong n) :=
        List.filter_congr fun n _ => by
          rw [Bool.eq_iff_iff, decide_eq_true_eq]
          exact wrongBit_iff ds fs s n
      rw [← hfilter]
      exact hc.count

end Sys2Proof.Machine
end

section
/-! PROOFS. Takeover, split withdrawal, HANDOVER, WITHDRAW and the records that a unit follows (R308, R312, R313, R318 to R324). -/
namespace Sys2Proof.Machine

/-! ### The persistent words of an engine that starts cold (R318) -/

/-- The persistent words of an engine at their initial values. -/
@[irreducible] def coldMem (img : PatImg) (m : Mem) (e : Nat) : Mem :=
  putAll (fun k => e * 4096 + 0xF00 + k % 64 * 4) (fun k => wordInit img e (960 + k)) (List.range 64) m

theorem coldRegion_eq (s : State) (e : Nat) : coldRegion s e = setDmem s (coldMem s.pat.run s.arr.dmem e) := by
  unfold coldRegion coldMem
  generalize List.range 64 = l
  induction l generalizing s with
  | nil => rfl
  | cons k l ih => exact ih (mirrorWord s e k (wordInit s.pat.run e (960 + k)))

theorem coldRegions_eq (l : List Nat) : ∀ s : State, l.foldl coldRegion s = setDmem s (l.foldl (coldMem s.pat.run) s.arr.dmem) := by
  induction l with
  | nil => exact fun _ => rfl
  | cons e l ih =>
    intro s
    rw [List.foldl_cons, List.foldl_cons, ih, coldRegion_eq]
    rfl

theorem coldMem_outside (img : PatImg) (m : Mem) {e a : Nat} (h : a < e * 4096 + 0xF00 ∨ e * 4096 + 0x1000 ≤ a) :
    mget (coldMem img m e) a = mget m a := by
  unfold coldMem
  generalize List.range 64 = l
  refine putAll_outside _ _ _ _ fun k _ => ?_
  show a < e * 4096 + 0xF00 + k % 64 * 4 ∨ e * 4096 + 0xF00 + k % 64 * 4 + 4 ≤ a
  have hk := Nat.mod_lt k (show 0 < 64 by decide)
  generalize e * 4096 = x at *
  omega

theorem coldMem_word (img : PatImg) (m : Mem) (e : Nat) {k : Nat} (hk : k < 64) :
    wordAt (coldMem img m e) (e * 4096 + 0xF00 + 4 * k) = wordInit img e (960 + k) := by
  have hplace : e * 4096 + 0xF00 + 4 * k = e * 4096 + 0xF00 + k % 64 * 4 := by omega
  rw [hplace]
  unfold coldMem
  refine putAll_mem (x := k) (fun y _ => by omega) _ _ (fun y hy hsame => ?_) (.inl (List.mem_range.2 hk))
  have hy' := List.mem_range.1 hy
  have hyk : y = k := by omega
  rw [hyk]

theorem wordAt_congr {m m' : Mem} {a : Nat} (h : ∀ i < 4, mget m' (a + i) = mget m (a + i)) : wordAt m' a = wordAt m a := by
  unfold wordAt
  rw [h 3 (by omega), h 2 (by omega), h 1 (by omega), show mget m' a = mget m a from h 0 (by omega)]

theorem coldMem_wordOther (img : PatImg) (m : Mem) {e e' k : Nat} (he : e' ≠ e) (hk : k < 64) :
    wordAt (coldMem img m e') (e * 4096 + 0xF00 + 4 * k) = wordAt m (e * 4096 + 0xF00 + 4 * k) :=
  wordAt_congr fun i hi => coldMem_outside img m (by omega)

theorem coldMems_outside (img : PatImg) {a : Nat} (l : List Nat) (hl : ∀ e ∈ l, e < 1024) (ha : a % 4096 < 0xF00 ∨ 1024 * 4096 ≤ a) : ∀ m : Mem,
    mget (l.foldl (coldMem img) m) a = mget m a := by
  induction l with
  | nil => exact fun _ => rfl
  | cons e l ih =>
    intro m
    have := hl e (by simp)
    exact (ih (fun e he => hl e (List.mem_cons_of_mem _ he)) _).trans (coldMem_outside img m (by omega))

theorem coldMems_word (img : PatImg) {e k : Nat} (hk : k < 64) (l : List Nat) : ∀ m : Mem,
    (e ∈ l ∨ wordAt m (e * 4096 + 0xF00 + 4 * k) = wordInit img e (960 + k) →
      wordAt (l.foldl (coldMem img) m) (e * 4096 + 0xF00 + 4 * k) = wordInit img e (960 + k))
    ∧ (e ∉ l → wordAt (l.foldl (coldMem img) m) (e * 4096 + 0xF00 + 4 * k) = wordAt m (e * 4096 + 0xF00 + 4 * k)) := by
  induction l with
  | nil => exact fun m => ⟨fun h => h.resolve_left (by simp), fun _ => rfl⟩
  | cons e' l ih =>
    intro m
    obtain ⟨hin, hout⟩ := ih (coldMem img m e')
    refine ⟨fun h => hin ?_, fun h => ?_⟩
    · by_cases he : e = e'
      · subst he
        exact .inr (coldMem_word img m e hk)
      · rw [coldMem_wordOther img m (Ne.symm he) hk]
        exact h.imp_left fun h => (List.mem_cons.1 h).resolve_left he
    · have he : e ≠ e' := fun he => h (List.mem_cons.2 (.inl he))
      exact (hout fun hl => h (List.mem_cons_of_mem _ hl)).trans (coldMem_wordOther img m (Ne.symm he) hk)

/-! ### Sleeves that seed at the next tick -/

theorem tfind_filter {α : Type} (p : Nat → Bool) (t : Tab α) (i : Nat) : tfind (t.filter fun x => p x.1) i = if p i then tfind t i else none := by
  induction t with
  | nil => cases p i <;> rfl
  | cons x t ih =>
    obtain ⟨k, v⟩ := x
    rw [tfind]
    by_cases hp : p k = true
    · rw [List.filter_cons_of_pos (by exact hp), tfind, ih]
      by_cases hk : k = i
      · subst hk
        rw [if_pos rfl, if_pos rfl, if_pos hp]
      · rw [if_neg hk, if_neg hk]
    · rw [List.filter_cons_of_neg (by exact hp), ih]
      by_cases hk : k = i
      · subst hk
        rw [if_neg hp, if_neg hp]
      · rw [if_neg hk]

theorem engine_clearSleeve (s : State) (sl e : Nat) : engine (clearSleeveEngines s sl) e = if e / 32 = sl then {} else engine s e := by
  unfold engine tget clearSleeveEngines
  dsimp only
  rw [tfind_filter fun k => k / 32 != sl]
  by_cases h : e / 32 = sl
  · rw [if_pos h, if_neg (by simp [h])]
    rfl
  · rw [if_neg h, if_pos (bne_iff_ne.2 h)]

/-- A Sleeve that seeds from the next tick on. -/
def seeded (s : State) (x : Sleeve) : Sleeve := { x with
  halted := false, halting := false, parked := false, seedLeft := s.pat.run.seedRounds + 1, seedMute := false }

theorem seedFromTick_fold (l : List Nat) : ∀ s : State,
    (∃ x y, l.foldl seedFromTick s = { s with arr := { s.arr with engines := x, sleeves := y } })
    ∧ (∀ e, engine (l.foldl seedFromTick s) e = if e / 32 ∈ l then {} else engine s e)
    ∧ ∀ n, sleeve (l.foldl seedFromTick s) n = if n ∈ l then seeded s (sleeve s n) else sleeve s n := by
  induction l with
  | nil => exact fun s => ⟨⟨_, _, rfl⟩, fun _ => rfl, fun _ => rfl⟩
  | cons a l ih =>
    intro s
    obtain ⟨⟨x, y, hframe⟩, hengine, hsleeve⟩ := ih (seedFromTick s a)
    refine ⟨⟨x, y, hframe⟩, fun e => (hengine e).trans ?_, fun n => (hsleeve n).trans ?_⟩
    · have hone : engine (seedFromTick s a) e = if e / 32 = a then {} else engine s e := engine_clearSleeve s a e
      rw [hone]
      by_cases hl : e / 32 ∈ l
      · rw [if_pos hl, if_pos (List.mem_cons_of_mem _ hl)]
      · rw [if_neg hl]
        by_cases ha : e / 32 = a
        · rw [if_pos ha, if_pos (List.mem_cons.2 (.inl ha))]
        · rw [if_neg ha, if_neg fun h => (List.mem_cons.1 h).elim ha hl]
    · by_cases ha : n = a
      · subst ha
        have hone : sleeve (seedFromTick s n) n = seeded s (sleeve s n) := sleeve_updSleeve (clearSleeveEngines s n) n _
        rw [hone, if_pos (by simp : n ∈ n :: l)]
        split <;> rfl
      · have hone : sleeve (seedFromTick s a) n = sleeve s n := sleeve_updSleeve_other (clearSleeveEngines s a) a n _ ha
        rw [hone]
        by_cases hl : n ∈ l
        · rw [if_pos hl, if_pos (List.mem_cons_of_mem _ hl)]
          rfl
        · rw [if_neg hl, if_neg fun h => (List.mem_cons.1 h).elim ha hl]

/-! ### Takeover (R318, R319) -/

/-- What a takeover needs. -/
def TakeoverDue (s : State) : Prop := (s.pair.role = .hot ∨ s.pair.role = .joining ∨ (s.pair.role = .cold ∧ cfg s 0x2201 4 = 1))
  ∧ (s.pair.mateRole = some .active ∨ s.pair.mateRole = some .solo) ∧ s.pair.wheelGot = false ∧ s.pair.seedLeft = none
  ∧ s.pair.nextRole ≠ some .active ∧ s.boot.frozen = false

theorem takeoverDue_iff (s : State) : takeoverDue s = true ↔ TakeoverDue s := by
  have hable : (match s.pair.role with | .hot | .joining => true | .cold => cfg s 0x2201 4 == 1 | _ => false) = true ↔
      s.pair.role = .hot ∨ s.pair.role = .joining ∨ (s.pair.role = .cold ∧ cfg s 0x2201 4 = 1) := by
    cases s.pair.role <;> simp
  unfold takeoverDue TakeoverDue mateCommands
  simp only [Bool.and_eq_true, Bool.or_eq_true, beq_iff_eq, bne_iff_ne, Bool.not_eq_true', Option.isNone_iff_eq_none, and_assoc]
  exact and_congr hable Iff.rfl

/-- The Sleeves that a takeover has to seed. -/
def takeSeeds (s : State) : List Nat :=
  match s.pair.role with
  | .hot => allSleeves.filter fun n => hasBit s.pair.resync n
  | _ => allSleeves

/-- A Sleeve that a takeover has to seed. -/
def Seeds (s : State) (n : Nat) : Prop := s.pair.role ≠ .hot ∨ hasBit s.pair.resync n = true

theorem mem_takeSeeds (s : State) (n : Nat) : n ∈ takeSeeds s ↔ n < 32 ∧ Seeds s n := by
  unfold takeSeeds Seeds
  split
  next h => simp [h, allSleeves]
  next h => exact ⟨fun hm => ⟨List.mem_range.1 hm, .inl h⟩, fun hm => List.mem_range.2 hm.1⟩

/-- The Sleeves whose engines the mirrored words cover whole. -/
def coveredWord (s : State) : Word := allSleeves.foldl (fun w n => setBitIf ((sleeveEngines n).all (covered s)) w n) 0

theorem hasBit_fold (p : Nat → Bool) {n : Nat} (hn : n < 32) (l : List Nat) : ∀ w : Word,
    hasBit (l.foldl (fun w n => setBitIf (p n) w n) w) n = (hasBit w n || (decide (n ∈ l) && p n)) := by
  induction l with
  | nil => intro w; simp
  | cons a l ih =>
    intro w
    rw [List.foldl_cons, ih]
    by_cases ha : n = a
    · subst ha
      cases hp : p n
      · simp [setBitIf]
      · simp [setBitIf, hasBit_setBit _ hn]
    · rw [hasBit_setBitIf_other _ _ ha]
      simp [ha]

theorem hasBit_coveredWord (s : State) {n : Nat} (hn : n < 32) : hasBit (coveredWord s) n = (sleeveEngines n).all (covered s) := by
  have hzero : hasBit (0 : Word) n = false := by simp [hasBit]
  unfold coveredWord
  rw [hasBit_fold _ hn, hzero, Bool.false_or, decide_eq_true (show n ∈ allSleeves from List.mem_range.2 hn), Bool.true_and]

/-- The pair of a unit that takes over. -/
def takePair (s : State) : Pair := { s.pair with
  coverage := mkRat (4 * ((List.range 1024).filter (covered s)).length * 100 : Nat) 4096, covered := coveredWord s
  lossRound := s.wheel.round, nextCause := if s.pair.role == .cold then 5 else if (takeSeeds s).isEmpty then 1 else 4 }

/-- The engines whose words are not mirrored. -/
def bareEngines (s : State) : List Nat := (List.range 1024).filter fun e => (takeSeeds s).contains (e / 32) && !covered s e

theorem takeoverNow_eq (s : State) : takeoverNow s =
    if (takeSeeds s).isEmpty then { s with pair := { takePair s with nextRole := some .active } }
    else
      let u := (takeSeeds s).foldl seedFromTick ((bareEngines s).foldl coldRegion { s with pair := takePair s })
      { u with pair := { u.pair with seedLeft := some (u.pat.run.seedRounds + 2), resync := 0, resyncLines := [] } } := rfl

theorem takeover_whole {s : State} (hdue : TakeoverDue s) (hrole : s.pair.role = .hot) (hresync : s.pair.resync = 0) :
    exec .takeover s = .next { s with pair := { s.pair with
      lossRound := s.wheel.round, nextCause := 1, coverage := 100, covered := 0xFFFFFFFF, nextRole := some .active } } := by
  have hbit (n : Nat) : hasBit s.pair.resync n = false := by
    rw [hresync]
    simp [hasBit]
  have hcov (e : Nat) : covered s e = true := by
    unfold covered
    rw [hrole]
    dsimp only
    rw [hbit]
    rfl
  have hseeds : takeSeeds s = [] := by
    refine List.eq_nil_iff_forall_not_mem.2 fun n hn => ?_
    rcases ((mem_takeSeeds s n).1 hn).2 with h | h
    · exact h hrole
    · exact Bool.false_ne_true ((hbit n).symm.trans h)
  have hword : coveredWord s = 0xFFFFFFFF := by
    have hfold : (fun (w : Word) (n : Nat) => setBitIf ((sleeveEngines n).all (covered s)) w n) = fun w n => setBitIf true w n := by
      funext w n
      rw [List.all_eq_true.2 fun e _ => hcov e]
    unfold coveredWord
    rw [hfold]
    decide
  have hkept : ((List.range 1024).filter (covered s)).length = 1024 := by
    rw [List.filter_eq_self.2 fun e _ => hcov e, List.length_range]
  refine congrArg Host.Outcome.next ((if_pos ((takeoverDue_iff s).2 hdue)).trans ?_)
  rw [takeoverNow_eq, hseeds]
  refine (if_pos rfl).trans ?_
  unfold takePair
  rw [hseeds, hword, hkept, hrole]
  rfl

theorem takeover_seeds {s : State} (hdue : TakeoverDue s) (hseeds : s.pair.role ≠ .hot ∨ ∃ n < 32, hasBit s.pair.resync n = true) :
    ∃ t, exec .takeover s = .next t
      ∧ t = { s with
          arr := { s.arr with dmem := t.arr.dmem, engines := t.arr.engines, sleeves := t.arr.sleeves },
          pair := { s.pair with
            lossRound := s.wheel.round, nextCause := if s.pair.role = .cold then 5 else 4, coverage := t.pair.coverage,
            covered := t.pair.covered, seedLeft := some (s.pat.run.seedRounds + 2), resync := 0, resyncLines := [] } }
      ∧ t.pair.coverage = mkRat (4 * ((List.range 1024).filter (covered s)).length * 100) 4096
      ∧ (∀ n < 32, hasBit t.pair.covered n = (sleeveEngines n).all (covered s))
      ∧ (∀ a, a % 4096 < 0xF00 ∨ 1024 * 4096 ≤ a → mget t.arr.dmem a = mget s.arr.dmem a)
      ∧ (∀ e, e / 32 < 32 → engine t e =
          if s.pair.role ≠ .hot ∨ hasBit s.pair.resync (e / 32) = true then {} else engine s e)
      ∧ ∀ n < 32,
          let seeds := s.pair.role ≠ .hot ∨ hasBit s.pair.resync n = true
          (seeds → sleeve t n = { sleeve s n with
              halted := false, halting := false, parked := false, seedLeft := s.pat.run.seedRounds + 1, seedMute := false })
          ∧ (¬seeds → sleeve t n = sleeve s n)
          ∧ ∀ e k, e / 32 = n → k < 64 →
              (seeds → covered s e = false →
                wordAt t.arr.dmem (e * 4096 + 0xF00 + 4 * k) = wordInit s.pat.run e (960 + k))
              ∧ (¬seeds ∨ covered s e = true →
                wordAt t.arr.dmem (e * 4096 + 0xF00 + 4 * k) = wordAt s.arr.dmem (e * 4096 + 0xF00 + 4 * k)) := by
  have hnot : (takeSeeds s).isEmpty = false := by
    refine List.isEmpty_eq_false_iff.2 fun hnil => ?_
    have hnone (n : Nat) : ¬(n < 32 ∧ Seeds s n) := fun h => by
      have hmem := (mem_takeSeeds s n).2 h
      rw [hnil] at hmem
      exact absurd hmem (by simp)
    rcases hseeds with h | ⟨n, hn, h⟩
    · exact hnone 0 ⟨by decide, .inl h⟩
    · exact hnone n ⟨hn, .inr h⟩
  generalize hv : (bareEngines s).foldl (coldMem s.pat.run) s.arr.dmem = m
  have hcold : (bareEngines s).foldl coldRegion { s with pair := takePair s } = setDmem { s with pair := takePair s } m := by
    rw [coldRegions_eq, ← hv]
  obtain ⟨⟨x, y, hframe⟩, hengine, hsleeve⟩ := seedFromTick_fold (takeSeeds s) (setDmem { s with pair := takePair s } m)
  have hnow := takeoverNow_eq s
  rw [if_neg (Bool.eq_false_iff.1 hnot), hcold] at hnow
  have hexec : exec .takeover s = .next (takeoverNow s) := congrArg Host.Outcome.next (if_pos ((takeoverDue_iff s).2 hdue))
  dsimp only at hnow
  have hpair : (takePair s).nextCause = if s.pair.role = .cold then 5 else 4 := by
    unfold takePair
    rw [hnot]
    simp only [beq_iff_eq, Bool.false_eq_true, if_false]
  have hbare (e : Nat) : e ∈ bareEngines s ↔ e < 1024 ∧ Seeds s (e / 32) ∧ covered s e = false := by
    unfold bareEngines
    rw [List.mem_filter, List.mem_range, Bool.and_eq_true, List.contains_iff_mem, mem_takeSeeds, Bool.not_eq_true']
    constructor
    · rintro ⟨he, ⟨-, hs⟩, hc⟩
      exact ⟨he, hs, hc⟩
    · rintro ⟨he, hs, hc⟩
      exact ⟨he, ⟨by omega, hs⟩, hc⟩
  refine ⟨takeoverNow s, hexec, ?_⟩
  generalize hu : (takeSeeds s).foldl seedFromTick (setDmem { s with pair := takePair s } m) = u at hnow hframe hengine hsleeve
  have hdmem : u.arr.dmem = m := by rw [hframe]; rfl
  rw [hnow]
  refine ⟨?_, ?_, fun n hn => ?_, fun a ha => ?_, fun e he => (hengine e).trans ?_, fun n hn => ⟨fun hs => ?_, fun hs => ?_, fun e k he hk =>
    ⟨fun hs hc => ?_, fun hs => ?_⟩⟩⟩
  · rw [← hpair, hframe]
    rfl
  · rw [hframe]
    show mkRat (4 * ((List.range 1024).filter (covered s)).length * 100 : Nat) 4096 = _
    push_cast
    rfl
  · rw [hframe]
    exact hasBit_coveredWord s hn
  · refine (congrArg (mget · a) hdmem).trans ?_
    rw [← hv]
    exact coldMems_outside _ _ (fun e he => ((hbare e).1 he).1) ha _
  · by_cases hs : Seeds s (e / 32)
    · rw [if_pos ((mem_takeSeeds s _).2 ⟨he, hs⟩)]
      exact (if_pos hs).symm
    · rw [if_neg fun h => hs ((mem_takeSeeds s _).1 h).2]
      exact (if_neg hs).symm
  · exact (hsleeve n).trans (if_pos ((mem_takeSeeds s n).2 ⟨hn, hs⟩))
  · exact (hsleeve n).trans (if_neg fun h => hs ((mem_takeSeeds s n).1 h).2)
  · refine (congrArg (wordAt · _) hdmem).trans ?_
    rw [← hv]
    exact (coldMems_word _ hk _ _).1 (.inl ((hbare e).2 ⟨by omega, by rw [he]; exact hs, hc⟩))
  · refine (congrArg (wordAt · _) hdmem).trans ?_
    rw [← hv]
    refine (coldMems_word _ hk _ _).2 fun hmem => ?_
    obtain ⟨-, hs', hc⟩ := (hbare e).1 hmem
    rw [he] at hs'
    rcases hs with h | h
    · exact h hs'
    · exact Bool.false_ne_true (hc.symm.trans h)

/-! ### Split withdrawal, HANDOVER and WITHDRAW (R320 to R322) -/

theorem split_spec (s : State) : let due := s.pair.countPend = some 0 ∧ obeyCount s (s.pair.unit + 1) < obeyCount s (2 - s.pair.unit)
    (due → exec .splitWithdraw s = .next { s with pair := { s.pair with
        countPend := none, nextRole := some .cold, sticky := s.pair.sticky ||| 0x40 } })
    ∧ (¬due → exec .splitWithdraw s = .next s) := by
  intro due
  have hiff : splitDue s = true ↔ due := by
    unfold splitDue
    rw [Bool.and_eq_true, beq_iff_eq, decide_eq_true_eq]
  exact ⟨fun h => congrArg Host.Outcome.next (if_pos (hiff.2 h)), fun h => congrArg Host.Outcome.next (if_neg (mt hiff.1 h))⟩

theorem handover_spec {s : State} {lvl : Level} {v : Byte} (hadm : Admits s lvl 0x2201 3 v.toNat) :
    (v = 0 → exec (.handover lvl v) s = .next (answered s stOK))
    ∧ (v ≠ 0 → s.pair.role = .active → s.pair.mateRole = some .hot → exec (.handover lvl v) s = .next { answered s stOK with
        pair := { s.pair with
          handover := some (skipNow s),
          sentCtrl := s.pair.sentCtrl ++ (if s.pair.link = 2 then [Ctrl.role .hot] else []) } })
    ∧ (v ≠ 0 → ¬(s.pair.role = .active ∧ s.pair.mateRole = some .hot) →
        exec (.handover lvl v) s = .next (answered s stState)) := by
  have heff : effect (taken s) 0x2201 3 v.toNat = handoverWrite (taken s) v.toNat := rfl
  have hexec := exec_admitted (c := .handover lvl v) rfl hadm
  rw [dropReserved_low (by decide) (by decide) (by decide) (by decide), heff] at hexec
  have hnat (h : v ≠ 0) : v.toNat ≠ 0 := fun h' => h (BitVec.eq_of_toNat_eq h')
  have hiff : (s.pair.role == .active && s.pair.mateRole == some .hot) = true ↔ s.pair.role = .active ∧ s.pair.mateRole = some .hot := by
    rw [Bool.and_eq_true, beq_iff_eq, beq_iff_eq]
  refine ⟨fun h => ?_, fun h hrole hmate => ?_, fun h hno => ?_⟩
  · subst h
    exact hexec
  · have hwrite : handoverWrite (taken s) v.toNat = (stOK, sendCtrl { taken s with pair := { s.pair with handover := some (skipNow s) } }
        (Ctrl.role .hot)) := (if_neg (hnat h)).trans (if_pos (hiff.2 ⟨hrole, hmate⟩))
    rw [hexec, hwrite]
    refine congrArg Host.Outcome.next ((withStatus_sendCtrl _ _ _).trans ?_)
    by_cases hlink : s.pair.link = 2
    · refine (if_pos ?_).trans (by rw [if_pos hlink]; rfl)
      rw [Bool.and_eq_true, beq_iff_eq, beq_iff_eq]
      exact ⟨hrole, hlink⟩
    · refine (if_neg ?_).trans (by rw [if_neg hlink, List.append_nil]; rfl)
      rw [Bool.and_eq_true, beq_iff_eq, beq_iff_eq]
      exact fun h => hlink h.2
  · have hwrite : handoverWrite (taken s) v.toNat = (stState, taken s) := (if_neg (hnat h)).trans (if_neg (mt hiff.1 hno))
    rw [hexec, hwrite]
    rfl

theorem withdraw_spec {s : State} {lvl : Level} {v : Byte} (hadm : Admits s lvl 0x2201 5 v.toNat) :
    (v = 0 → exec (.withdraw lvl v) s = .next (answered s stOK))
    ∧ (v ≠ 0 → s.pair.role = .active → exec (.withdraw lvl v) s = .next (answered s stState))
    ∧ (v ≠ 0 → s.pair.role ≠ .active → exec (.withdraw lvl v) s = .next { answered s stOK with
        pair := { s.pair with withdraw := some (skipNow s) } }) := by
  have heff : effect (taken s) 0x2201 5 v.toNat = withdrawWrite (taken s) v.toNat := rfl
  have hexec := exec_admitted (c := .withdraw lvl v) rfl hadm
  rw [dropReserved_low (by decide) (by decide) (by decide) (by decide), heff] at hexec
  have hnat (h : v ≠ 0) : v.toNat ≠ 0 := fun h' => h (BitVec.eq_of_toNat_eq h')
  refine ⟨fun h => ?_, fun h hrole => ?_, fun h hrole => ?_⟩
  · subst h
    exact hexec
  · have hwrite : withdrawWrite (taken s) v.toNat = (stState, taken s) := (if_neg (hnat h)).trans (if_pos (beq_iff_eq.2 hrole))
    rw [hexec, hwrite]
    rfl
  · have hwrite : withdrawWrite (taken s) v.toNat = (stOK, { taken s with pair := { s.pair with withdraw := some (skipNow s) } }) :=
      (if_neg (hnat h)).trans (if_neg (mt beq_iff_eq.1 hrole))
    rw [hexec, hwrite]
    rfl

/-! ### The records of the mate (R308, R312, R313, R324) -/

/-- From one state to another only the engine array has changed. -/
def ArrayAlone (s t : State) : Prop := t = { s with arr := t.arr }

theorem arrayAlone_trans {s t u : State} (h : ArrayAlone s t) (h' : ArrayAlone t u) : ArrayAlone s u := by
  unfold ArrayAlone at *
  rw [h', h]

theorem arrayAlone_restartSleeve (s : State) (n : Nat) : ArrayAlone s (restartSleeve s n) := by
  have hstart (u : State) : ArrayAlone u (startSleeve u n) := by
    unfold startSleeve
    split
    · exact List.foldlRecOn (motive := ArrayAlone u) _ _ (rfl : ArrayAlone u u) fun t ht e _ => arrayAlone_trans ht (rfl : ArrayAlone t (updEngine t e _))
    · rfl
  exact arrayAlone_trans (t := updSleeve (clearSleeveEngines s n) n _) rfl (hstart _)

theorem arrayAlone_unparkAll (s : State) : ArrayAlone s (unparkAll s) := by
  refine List.foldlRecOn (motive := ArrayAlone s) _ _ (rfl : ArrayAlone s s) fun t ht n _ => arrayAlone_trans ht ?_
  dsimp only
  split
  · split
    · exact arrayAlone_trans (t := updSleeve t n _) rfl (arrayAlone_restartSleeve _ n)
    · rfl
  · rfl

/-- A unit that goes OUT stops no Sleeve and sends nothing. -/
theorem toRole_out {s : State} (hrole : s.pair.role = .joining) :
    toRole s .out = { s with pair := roleOf s.pair .out, wheel := (toRole s .out).wheel, arr := (toRole s .out).arr } := by
  generalize hu : unparkAll { s with pair := roleOf s.pair .out } = u
  have hpark : ArrayAlone { s with pair := roleOf s.pair .out } u := hu ▸ arrayAlone_unparkAll _
  obtain ⟨hframe, -⟩ := setMode_spec u (roleMode u)
  have hcmd : commands (setMode u (roleMode u)) = false := by
    rw [hframe, hpark]
    rfl
  have htake : toRole s .out = setMode u (roleMode u) := by
    have hstep : toRole s .out = if commands (setMode u (roleMode u)) && !commands s then startSends (setMode u (roleMode u))
        else setMode u (roleMode u) := by
      rw [← hu]
      refine (if_neg ?_).trans rfl
      rw [hrole]
      decide
    rw [hstep, hcmd]
    rfl
  rw [htake]
  generalize setMode u (roleMode u) = v at hframe
  rw [hframe, hpark]

section Ctrl
variable {s : State} (hlink : s.pair.link = 2)
include hlink

theorem ctrl_live : ¬(s.pair.link != 2) = true := by
  rw [hlink]
  decide

theorem ctrl_role (r : Role) : exec (.ctrl (.role r)) s = .next { s with pair := { s.pair with
    mateRole := some r,
    sweepNext := if r = .joining then (if s.pair.mateRole = some .joining then s.pair.sweepNext else some 0) else none,
    sweepSl := if r = .hot ∨ r = .joining then s.pair.sweepSl else [],
    takeAtSeam := if r = .hot ∧ s.pair.role = .hot then some (skipNow s) else s.pair.takeAtSeam } } := by
  have hmate : mateRoleIs s r = { s with pair := { s.pair with
      mateRole := some r
      sweepNext := if r = .joining then (if s.pair.mateRole = some .joining then s.pair.sweepNext else some 0) else none
      sweepSl := if r = .hot ∨ r = .joining then s.pair.sweepSl else [] } } := by
    unfold mateRoleIs
    simp only [beq_iff_eq, Bool.or_eq_true]
  have hiff : (r == .hot && s.pair.role == .hot) = true ↔ r = .hot ∧ s.pair.role = .hot := by
    rw [Bool.and_eq_true, beq_iff_eq, beq_iff_eq]
  refine congrArg Host.Outcome.next ((if_neg (ctrl_live hlink)).trans ?_)
  dsimp only
  rw [hmate]
  by_cases h : r = .hot ∧ s.pair.role = .hot
  · rw [if_pos h]
    exact if_pos (hiff.2 h)
  · rw [if_neg h]
    exact if_neg (mt hiff.1 h)

theorem ctrl_handover : (s.pair.role = .hot → s.hem.summary &&& 0x1F = 0 → (∀ n < 32, (sleeve s n).sticky &&& 0x7F = 0) →
      exec (.ctrl .handover) s = .next { s with draws := s.draws + 1, pair := { s.pair with
        nextRole := some .active, nextCause := 2, gapRounds := if Config.freeBool s.draws then 1 else 0, coverage := 100,
        covered := 0xFFFFFFFF } })
    ∧ (s.pair.role ≠ .hot → exec (.ctrl .handover) s = .next s)
    ∧ ((s.hem.summary &&& 0x1F ≠ 0 ∨ ∃ n < 32, (sleeve s n).sticky &&& 0x7F ≠ 0) → exec (.ctrl .handover) s = .next s) := by
  have hexec : exec (.ctrl .handover) s = .next (takeHandover s) := congrArg Host.Outcome.next (if_neg (ctrl_live hlink))
  have hiff : (s.pair.role == .hot && s.hem.summary &&& 0x1F == 0 && !(allSleeves.any fun n => sleeveDoubts (sleeve s n).sticky != 0)) = true ↔
      s.pair.role = .hot ∧ s.hem.summary &&& 0x1F = 0 ∧ ∀ n < 32, (sleeve s n).sticky &&& 0x7F = 0 := by
    simp only [Bool.and_eq_true, beq_iff_eq, Bool.not_eq_true', List.any_eq_false, allSleeves, List.mem_range, bne_iff_ne, not_not, and_assoc,
      sleeveDoubts, ne_eq]
  refine ⟨fun hrole hsum hst => ?_, fun hrole => ?_, fun hdoubt => ?_⟩
  · rw [hexec]
    exact congrArg Host.Outcome.next (if_pos (hiff.2 ⟨hrole, hsum, hst⟩))
  · rw [hexec]
    exact congrArg Host.Outcome.next (if_neg fun h => hrole (hiff.1 h).1)
  · rw [hexec]
    refine congrArg Host.Outcome.next (if_neg fun h => ?_)
    obtain ⟨-, hsum, hst⟩ := hiff.1 h
    rcases hdoubt with h | ⟨n, hn, h⟩
    · exact h hsum
    · exact h (hst n hn)

theorem ctrl_commanding (hcmd : commands s = true) (c : Ctrl) (hc : ∀ r, c ≠ .role r) : exec (.ctrl c) s = .next s := by
  have hskip {a : State} : (if commands s = true then s else a) = s := if_pos hcmd
  have hbranch {a : State} (h : a = s) : (if (s.pair.link != 2) = true then s else a) = s := (if_neg (ctrl_live hlink)).trans h
  cases c with
  | handover =>
    refine (ctrl_handover hlink).2.1 fun h => ?_
    unfold commands at hcmd
    rw [h] at hcmd
    cases hcmd
  | role r => exact absurd rfl (hc r)
  | config ix sub v =>
    refine congrArg Host.Outcome.next (hbranch (if_pos ?_))
    rw [hcmd]
    rfl
  | command | bytes | capSelect | release | packState | watchdog | sequencer => exact congrArg Host.Outcome.next (hbranch hskip)

variable (hno : commands s = false)
include hno

theorem ctrl_followed {a : State} : (if (s.pair.link != 2) = true then s else if commands s = true then s else a) = a :=
  (if_neg (ctrl_live hlink)).trans (if_neg (Bool.eq_false_iff.1 hno))

theorem ctrl_config {ix sub : Nat} (v : Nat) (h : ¬(ix = 0x2201 ∧ sub = 1)) : exec (.ctrl (.config ix sub v)) s = .next { s with
    net := { s.net with pend := s.net.pend ++ [⟨ix, sub, v, skipNow s⟩] } } := by
  refine congrArg Host.Outcome.next ((if_neg (ctrl_live hlink)).trans (if_neg ?_))
  rw [hno, Bool.false_or, Bool.and_eq_true, beq_iff_eq, beq_iff_eq]
  exact h

theorem ctrl_unit (v : Nat) : exec (.ctrl (.config 0x2201 1 v)) s = .next s := by
  refine congrArg Host.Outcome.next ((if_neg (ctrl_live hlink)).trans (if_pos ?_))
  rw [hno]
  rfl

theorem ctrl_command {ix sub v : Nat} (h : ¬(s.pair.role = .joining ∧ ix = 0x2101 ∧ sub = 6)) :
    (paramAt s ix sub = none → isImage ix = false → exec (.ctrl (.command ix sub v)) s = .next (effect s ix sub v).2)
    ∧ (paramAt s ix sub = none → isImage ix = true → exec (.ctrl (.command ix sub v)) s = .next (groupWrite s ix sub v).2)
    ∧ ∀ p, paramAt s ix sub = some p → exec (.ctrl (.command ix sub v)) s = .next (paramWrite s p v).2 := by
  have hbit : ¬(s.pair.role == .joining && ix == 0x2101 && sub == 6) = true := by
    rw [Bool.and_eq_true, Bool.and_eq_true, beq_iff_eq, beq_iff_eq, beq_iff_eq, and_assoc]
    exact h
  have hexec : exec (.ctrl (.command ix sub v)) s = .next (match paramAt s ix sub with
      | some p => (paramWrite s p v).2
      | none => if isImage ix then (groupWrite s ix sub v).2 else (effect s ix sub v).2) :=
    congrArg Host.Outcome.next ((ctrl_followed hlink hno).trans (if_neg hbit))
  refine ⟨fun hp him => ?_, fun hp him => ?_, fun p hp => ?_⟩
  · rw [hexec, hp]
    exact congrArg Host.Outcome.next (if_neg (Bool.eq_false_iff.1 him))
  · rw [hexec, hp]
    exact congrArg Host.Outcome.next (if_pos him)
  · rw [hexec, hp]

theorem ctrl_capSelect (a : Byte) : ∃ t, exec (.ctrl (.capSelect a)) s = .next t
    ∧ t = { s with
        cfg := tput s.cfg (okey 0x2505 3) a.toNat,
        flow := { s.flow with
          capEff := if (s.flow.capLow1 = true ∧ s.flow.capLow2 = true) ∨ cfg t 0x2505 3 = 1 then 1 else 0 } } := by
  have hexec : exec (.ctrl (.capSelect a)) s = .next (selectCap (setCfg s 0x2505 3 a.toNat)) :=
    congrArg Host.Outcome.next (ctrl_followed hlink hno)
  have hread : cfg (selectCap (setCfg s 0x2505 3 a.toNat)) 0x2505 3 = cfg (setCfg s 0x2505 3 a.toNat) 0x2505 3 := cfg_of rfl rfl _ _
  refine ⟨_, hexec, ?_⟩
  rw [hread]
  unfold selectCap
  simp only [Bool.or_eq_true, Bool.and_eq_true, beq_iff_eq]
  rfl

theorem ctrl_bytes (k : Nat) (b : List Byte) :
    exec (.ctrl (.bytes 0x1200 k b)) s = .next { s with net := { s.net with levelKeys := tput s.net.levelKeys k b } }
    ∧ exec (.ctrl (.bytes 0x1210 k b)) s = .next { s with net := { s.net with imageKeys := tput s.net.imageKeys k b } }
    ∧ exec (.ctrl (.bytes (0x3200 + k) 11 b)) s = .next { s with net := { s.net with labels := tset [] s.net.labels k b } } := by
  refine ⟨congrArg Host.Outcome.next (ctrl_followed hlink hno), congrArg Host.Outcome.next (ctrl_followed hlink hno), ?_⟩
  refine congrArg Host.Outcome.next ((ctrl_followed hlink hno).trans ((if_neg (by omega)).trans ((if_neg (by omega)).trans ?_)))
  rw [Nat.add_sub_cancel_left]

end Ctrl

/-- Settles O48: takeover, split withdrawal, HANDOVER, WITHDRAW and the records of the mate. -/
theorem authorityChangesHands : Obligations.AuthorityChangesHands := by
  refine ⟨fun s => ⟨fun h => ?_, takeover_whole, takeover_seeds⟩, split_spec, fun _ _ _ => handover_spec, fun _ _ _ => withdraw_spec, fun s => ⟨?_, ?_⟩⟩
  · exact congrArg Host.Outcome.next (if_neg (mt (takeoverDue_iff s).1 h))
  · exact fun c h => congrArg Host.Outcome.next (if_pos (bne_iff_ne.2 h))
  intro hlink
  obtain ⟨hhand, hcold, hdoubt⟩ := ctrl_handover hlink
  refine ⟨ctrl_role hlink, hhand, hcold, hdoubt, ctrl_commanding hlink, fun hno => ?_⟩
  have hfollow {c : Ctrl} {a : State} (h : exec (.ctrl c) s = .next (if (s.pair.link != 2) = true then s else if commands s = true then s else a)) :
      exec (.ctrl c) s = .next a := h.trans (congrArg Host.Outcome.next (ctrl_followed hlink hno))
  refine ⟨fun ix sub v => ctrl_config hlink hno v, ctrl_unit hlink hno, fun v hrole => ?_,
    fun ix sub v h => (ctrl_command hlink hno h).1, fun ix sub v h => (ctrl_command hlink hno h).2.1,
    fun ix sub v p h => (ctrl_command hlink hno h).2.2 p, fun k b => (ctrl_bytes hlink hno k b).1, fun k b => (ctrl_bytes hlink hno k b).2.1,
    fun k b => (ctrl_bytes hlink hno k b).2.2, ctrl_capSelect hlink hno, fun scope n => hfollow rfl, fun p soc cap conf rested => ?_,
    fun safe count => hfollow rfl, fun st step => hfollow rfl⟩
  · refine ⟨toRole s .out, (hfollow rfl).trans (congrArg Host.Outcome.next (if_pos ?_)), toRole_out hrole⟩
    rw [hrole]
    rfl
  · exact ⟨_, hfollow rfl, onlyPack_updPack s p _, pack_updPack s p _⟩

end Sys2Proof.Machine
end

section
/-! PROOFS. Messages at the server, and sessions (R330 to R336, R422). -/
namespace Sys2Proof.Machine

/-! ### Messages of the host (R330, R334, R336) -/

/-- To the host a reply leaves at once. -/
theorem sendReply_host (s : State) {r : Reply} (h : r.dest = .host) : sendReply s r = sends s r := by
  unfold sendReply sends lineOf
  rw [h]
  rfl

/-- A command that is a message of the host hands it to the server. -/
theorem exec_message {c : Instr} {m : InMsg} (h : messageOf c = some m) (s : State) :
    exec c s = .next (receive s m) ∧ m.src = .host ∧ m.tag = 0 ∧ ∀ q a, m.req ≠ .urgent q a := by
  unfold messageOf at h
  split at h <;> cases h <;> exact ⟨rfl, rfl, rfl, fun _ _ h => by cases h⟩

theorem receive_server {s : State} (m : InMsg) (h : serverRuns s = true) : receive s m = handle s m := if_pos h

/-- A message other than OPEN and URGENT belongs to a session. -/
theorem handle_session {m : InMsg} (s : State) (hopen : ∀ lvl nonce client, m.req ≠ .openS lvl nonce client) (hurg : ∀ q a, m.req ≠ .urgent q a) :
    handle s m = sessionMsg s m := by
  unfold handle
  split
  next h => exact absurd h (hopen _ _ _)
  next h => exact absurd h (hurg _ _)
  next => rfl

theorem sessionMsg_unknown {s : State} {m : InMsg} (h : tfind s.net.sessions m.auth.session = none) : sessionMsg s m = discard s := by
  unfold sessionMsg
  split
  · rfl
  next hx => cases h.symm.trans hx

theorem sessionMsg_badTag {s : State} {m : InMsg} (h : m.auth.macOk = false) : sessionMsg s m = discard s := by
  unfold sessionMsg
  split
  · rfl
  · refine if_pos ?_
    rw [h]
    rfl

theorem sessionMsg_stale {s : State} {m : InMsg} {x : Session} (hmac : m.auth.macOk = true) (hx : tfind s.net.sessions m.auth.session = some x)
    (hseq : m.auth.seq ≤ x.seq) : sessionMsg s m = sendReply { s with net := { s.net with
        sessions := tput s.net.sessions m.auth.session { x with outSeq := x.outSeq + 1 }, replay := s.net.replay + 1 } }
      ⟨m.src, reqKind m.req + 0x80, m.auth.session, x.outSeq + 1, m.tag, 0, statusBytes stAuth⟩ := by
  unfold sessionMsg
  split
  next h => cases hx.symm.trans h
  next y h =>
    cases hx.symm.trans h
    exact (if_neg (by rw [hmac]; decide)).trans (if_pos hseq)

/-- An accepted message is executed and answered. -/
theorem sessionMsg_accepted {s : State} {m : InMsg} {x : Session} (hmac : m.auth.macOk = true)
    (hx : tfind s.net.sessions m.auth.session = some x) (hseq : x.seq < m.auth.seq) :
    sessionMsg s m = sendReply (runReq (accepted s m.auth x) m x.level).2.2
      ⟨m.src, reqKind m.req + 0x80, m.auth.session, x.outSeq + 1, m.tag, (runReq (accepted s m.auth x) m x.level).1,
        (runReq (accepted s m.auth x) m x.level).2.1⟩ := by
  unfold sessionMsg
  split
  next h => cases hx.symm.trans h
  next y h =>
    cases hx.symm.trans h
    exact (if_neg (by rw [hmac]; decide)).trans (if_neg (not_le.2 hseq))

theorem message_spec {s : State} {c : Instr} {m : InMsg} (hm : messageOf c = some m) :
    (serverRuns s = false → s.boot.restarting = true → inReset s = false →
      (s.net.ingress.length < 256 → exec c s = .next { s with net := { s.net with ingress := s.net.ingress ++ [m] } })
      ∧ (256 ≤ s.net.ingress.length → exec c s = .next { s with net := { s.net with
          rxqDropped := s.net.rxqDropped + 1 } }))
    ∧ (serverRuns s = false → ¬(s.boot.restarting = true ∧ inReset s = false) → exec c s = .next s)
    ∧ (serverRuns s = true → m.auth.macOk = false → exec c s = .next { s with net := { s.net with
        authFail := s.net.authFail + 1 } })
    ∧ (serverRuns s = true → (∀ lvl nonce client, m.req ≠ .openS lvl nonce client) →
        tfind s.net.sessions m.auth.session = none → exec c s = .next { s with net := { s.net with
          authFail := s.net.authFail + 1 } })
    ∧ (∀ x, serverRuns s = true → (∀ lvl nonce client, m.req ≠ .openS lvl nonce client) → m.auth.macOk = true →
        tfind s.net.sessions m.auth.session = some x → m.auth.seq ≤ x.seq →
        exec c s = .next (sends { s with net := { s.net with
            sessions := tput s.net.sessions m.auth.session { x with outSeq := x.outSeq + 1 }, replay := s.net.replay + 1 } }
          ⟨.host, reqKind m.req + 0x80, m.auth.session, x.outSeq + 1, 0, 0, leBytes 2 stAuth⟩)) := by
  obtain ⟨hexec, hsrc, htag, hurg⟩ := exec_message hm s
  rw [hexec]
  refine ⟨fun hno hrest hreset => ⟨fun hroom => ?_, fun hfull => ?_⟩, fun hno hhold => ?_, fun hserver hmac => ?_, fun hserver hopen hx => ?_,
    fun x hserver hopen hmac hx hseq => ?_⟩
  · have hhold : (s.boot.restarting && !inReset s) = true := by rw [hrest, hreset]; rfl
    exact congrArg Host.Outcome.next ((if_neg (Bool.eq_false_iff.1 hno)).trans ((if_pos hhold).trans (if_pos hroom)))
  · have hhold : (s.boot.restarting && !inReset s) = true := by rw [hrest, hreset]; rfl
    exact congrArg Host.Outcome.next ((if_neg (Bool.eq_false_iff.1 hno)).trans ((if_pos hhold).trans (if_neg (not_lt.2 hfull))))
  · refine congrArg Host.Outcome.next ((if_neg (Bool.eq_false_iff.1 hno)).trans (if_neg ?_))
    rw [Bool.and_eq_true, Bool.not_eq_true']
    exact hhold
  · rw [receive_server m hserver]
    refine congrArg Host.Outcome.next ?_
    unfold handle
    split
    · exact if_neg (by rw [hmac]; decide)
    next h => exact absurd h (hurg _ _)
    · exact sessionMsg_badTag hmac
  · rw [receive_server m hserver, handle_session s hopen hurg, sessionMsg_unknown hx]
    rfl
  · rw [receive_server m hserver, handle_session s hopen hurg, sessionMsg_stale hmac hx hseq, hsrc, htag, sendReply_host _ rfl]
    rfl

/-! ### OPEN (R332, R333, R422) -/

theorem tfind_mem_keys {α : Type} {t : Tab α} {i : Nat} (h : tfind t i ≠ none) : i ∈ t.map (·.1) := by
  obtain ⟨v, hv⟩ := Option.ne_none_iff_exists'.1 h
  exact List.mem_map.2 ⟨_, mem_of_tfind hv, rfl⟩

/-- With fewer than 64 sessions open the lowest free number is one. -/
theorem freeSession_spec {s : State} (h : s.net.sessions.length < 64) : 1 ≤ freeSession s ∧ freeSession s ≤ 64
    ∧ tfind s.net.sessions (freeSession s) = none ∧ ∀ j, 1 ≤ j → j < freeSession s → tfind s.net.sessions j ≠ none := by
  generalize hl : (List.range 64).map (· + 1) = l
  have hmem (k : Nat) : k ∈ l ↔ 1 ≤ k ∧ k ≤ 64 := by
    rw [← hl, List.mem_map]
    constructor
    · rintro ⟨j, hj, rfl⟩
      have := List.mem_range.1 hj
      omega
    · exact fun hk => ⟨k - 1, List.mem_range.2 (by omega), by omega⟩
  have hsorted : l.Pairwise (· < ·) := by
    rw [← hl]
    exact List.pairwise_lt_range.map _ fun a b hab => by omega
  have hfree : freeSession s = (l.find? fun k => (tfind s.net.sessions k).isNone).getD 0 := by
    rw [← hl]
    rfl
  cases hfind : l.find? fun k => (tfind s.net.sessions k).isNone with
  | none =>
    have hall : l ⊆ s.net.sessions.map (·.1) := fun k hk => by
      have hno := List.find?_eq_none.1 hfind k hk
      exact tfind_mem_keys fun h => hno (by rw [h]; rfl)
    have hnodup : l.Nodup := hsorted.imp ne_of_lt
    have hlen := (List.subperm_of_subset hnodup hall).length_le
    rw [List.length_map, ← hl, List.length_map, List.length_range] at hlen
    omega
  | some k =>
    obtain ⟨hk, pre, post, hsplit, hbefore⟩ := List.find?_eq_some_iff_append.1 hfind
    have hkl : k ∈ l := by rw [hsplit]; simp
    rw [hfree, hfind]
    refine ⟨((hmem k).1 hkl).1, ((hmem k).1 hkl).2, Option.isNone_iff_eq_none.1 hk, fun j hj hlt hnone => ?_⟩
    have hjl : j ∈ l := (hmem j).2 ⟨hj, by have := ((hmem k).1 hkl).2; exact hlt.le.trans this⟩
    rw [hsplit] at hjl hsorted
    rcases List.mem_append.1 hjl with hpre | hpost
    · have := hbefore j hpre
      rw [hnone] at this
      exact absurd this (by decide)
    · have hge : k ≤ j := by
        rcases List.mem_cons.1 hpost with rfl | hpost
        · exact le_refl _
        · exact ((List.pairwise_cons.1 (List.pairwise_append.1 hsorted).2.1).1 j hpost).le
      exact absurd hlt (not_lt.2 hge)

theorem refuseOpen_host (s : State) (a : Auth) (r : Req) (st : Nat) : refuseOpen s (hostMsg a r) st
    = sends { s with draws := s.draws + 1 } ⟨.host, 0x81, 0, 0, 0, 0,
        leBytes 2 0 ++ leBytes 2 st ++ leBytes 16 (Config.freeNonce s.draws).toNat ++ leBytes 2 120⟩ := by
  unfold refuseOpen
  exact sendReply_host _ rfl

theorem openS_spec {s : State} {lvl : Level} {nonce : BitVec 128} {client : BitVec 64} (hserver : serverRuns s = true) :
    let known := s.net.sessions.find? fun x => x.2.clientNonce == nonce
    let able := s.boot.frozen = false ∧ s.boot.asleep = false ∧ (s.boot.recovery = true → lvl = .service)
    let server := leBytes 16 (Config.freeNonce s.draws).toNat
    (∀ x, known = some x →
      exec (.openS lvl nonce client true) s = .next (sends s ⟨.host, 0x81, x.1, 1, x.2.replyTag, 0, x.2.reply⟩))
    ∧ (known = none → ¬able → exec (.openS lvl nonce client true) s = .next (sends { s with draws := s.draws + 1 }
        ⟨.host, 0x81, 0, 0, 0, 0, leBytes 2 0 ++ leBytes 2 stState ++ server ++ leBytes 2 120⟩))
    ∧ (known = none → able → 64 ≤ s.net.sessions.length →
        exec (.openS lvl nonce client true) s = .next (sends { s with
            draws := s.draws + 1, net := { s.net with refused := s.net.refused + 1 } }
          ⟨.host, 0x81, 0, 0, 0, 0, leBytes 2 0 ++ leBytes 2 stFull ++ server ++ leBytes 2 120⟩))
    ∧ (known = none → able → s.net.sessions.length < 64 → ∃ k, 1 ≤ k ∧ k ≤ 64 ∧ tfind s.net.sessions k = none
      ∧ (∀ j, 1 ≤ j → j < k → tfind s.net.sessions j ≠ none)
      ∧ let body := leBytes 2 k ++ leBytes 2 stOK ++ server ++ leBytes 2 120
        exec (.openS lvl nonce client true) s = .next (sends { s with
            draws := s.draws + 1,
            net := { s.net with
              sessions := tput s.net.sessions k
                { level := lvl, clientNonce := nonce, serverNonce := Config.freeNonce s.draws, clientId := client, seq := 0,
                  urgSeq := 0, outSeq := 1, outUrg := 0, idle := 0, locate := 0xFFFFFFFF, replyTag := 0, reply := body } } }
          ⟨.host, 0x81, k, 1, 0, 0, body⟩)) := by
  intro known able server
  have hexec : exec (.openS lvl nonce client true) s = .next (openMsg s (hostMsg ⟨0, 0, true⟩ (.openS lvl nonce client)) lvl nonce client) :=
    congrArg Host.Outcome.next (if_pos hserver)
  have hable : (s.boot.frozen || s.boot.asleep || (s.boot.recovery && lvl != .service)) = true ↔ ¬able := by
    simp only [able, Bool.or_eq_true, Bool.and_eq_true, bne_iff_ne, not_and_or, Bool.not_eq_false, Classical.not_imp, or_assoc, ne_eq]
  have hnew {a : State} (hknown : known = none)
      (h : (if (s.boot.frozen || s.boot.asleep || (s.boot.recovery && lvl != .service)) = true
        then refuseOpen s (hostMsg ⟨0, 0, true⟩ (.openS lvl nonce client)) stState
        else if 64 ≤ sessionsOpen s then
          refuseOpen { s with net := { s.net with refused := s.net.refused + 1 } } (hostMsg ⟨0, 0, true⟩ (.openS lvl nonce client)) stFull
        else sendReply (setSession { s with draws := s.draws + 1 } (freeSession s)
          { level := lvl, clientNonce := nonce, serverNonce := Config.freeNonce s.draws, clientId := client, seq := 0, urgSeq := 0, outSeq := 1,
            outUrg := 0, idle := 0, locate := 0xFFFFFFFF, replyTag := 0
            reply := leBytes 2 (freeSession s) ++ statusBytes stOK ++ server ++ leBytes 2 120 })
          ⟨.host, 0x81, freeSession s, 1, 0, 0, leBytes 2 (freeSession s) ++ statusBytes stOK ++ server ++ leBytes 2 120⟩) = a) :
      exec (.openS lvl nonce client true) s = .next a := by
    rw [hexec, ← h]
    refine congrArg Host.Outcome.next ?_
    unfold openMsg
    split
    next x hx => cases hknown.symm.trans hx
    next => rfl
  refine ⟨fun x hx => ?_, fun hknown hno => hnew hknown ((if_pos (hable.2 hno)).trans (refuseOpen_host ..)),
    fun hknown hyes hfull => hnew hknown ((if_neg (not_not.2 hyes ∘ hable.1)).trans ((if_pos hfull).trans (refuseOpen_host ..))),
    fun hknown hyes hroom => ?_⟩
  · rw [hexec]
    refine congrArg Host.Outcome.next ?_
    unfold openMsg
    split
    next y hy =>
      cases hx.symm.trans hy
      exact sendReply_host s rfl
    next hnone => cases hx.symm.trans hnone
  · obtain ⟨hlo, hhi, hfree, hlow⟩ := freeSession_spec hroom
    exact ⟨freeSession s, hlo, hhi, hfree, hlow, hnew hknown ((if_neg (not_not.2 hyes ∘ hable.1)).trans
      ((if_neg (not_le.2 hroom)).trans (sendReply_host _ rfl)))⟩

/-! ### The end of a session (R335) -/

theorem close_spec {s : State} {a : Auth} {x : Session} (hserver : serverRuns s = true) (hmac : a.macOk = true)
    (hx : tfind s.net.sessions a.session = some x) (hseq : x.seq < a.seq) : let u := accepted s a x
    (s.boot.asleep = false → exec (.close a) s = .next (sends { u with net := { u.net with
        sessions := tdel u.net.sessions a.session, subs := s.net.subs.filter fun y => y.session != a.session } }
      ⟨.host, 0x82, a.session, x.outSeq + 1, 0, 0, []⟩))
    ∧ (s.boot.asleep = true → exec (.close a) s = .next (sends u
      ⟨.host, 0x82, a.session, x.outSeq + 1, 0, 0, leBytes 2 stState⟩)) := by
  intro u
  have hexec : exec (.close a) s = .next (sessionMsg s (hostMsg a .close)) := congrArg Host.Outcome.next (if_pos hserver)
  have hrun : runReq u (hostMsg a .close) x.level = if s.boot.asleep then (0, statusBytes stState, u) else (0, [], closeNow u a.session) := rfl
  rw [hexec, sessionMsg_accepted (m := hostMsg a .close) hmac hx hseq]
  refine ⟨fun hawake => ?_, fun hasleep => ?_⟩
  · rw [show runReq (accepted s (hostMsg a .close).auth x) (hostMsg a .close) x.level = _ from hrun.trans (if_neg (Bool.eq_false_iff.1 hawake)),
      sendReply_host _ rfl]
    rfl
  · rw [show runReq (accepted s (hostMsg a .close).auth x) (hostMsg a .close) x.level = _ from hrun.trans (if_pos hasleep), sendReply_host _ rfl]
    rfl

theorem closeSession_spec {s : State} {lvl : Level} {v : BitVec 16} (hadm : Admits s lvl 0x1100 7 v.toNat) :
    (tfind s.net.sessions v.toNat = none → exec (.closeSession lvl v) s = .next (answered s stRange))
    ∧ (tfind s.net.sessions v.toNat ≠ none → exec (.closeSession lvl v) s = .next { s with net := { (answered s stOK).net with
        sessions := tdel s.net.sessions v.toNat, subs := s.net.subs.filter fun y => y.session != v.toNat } }) := by
  have heff : effect (taken s) 0x1100 7 v.toNat = closeWrite (taken s) v.toNat := rfl
  have hexec := exec_admitted (c := .closeSession lvl v) rfl hadm
  rw [dropReserved_low (by decide) (by decide) (by decide) (by decide), heff] at hexec
  refine ⟨fun h => ?_, fun h => ?_⟩
  · have hwrite : closeWrite (taken s) v.toNat = (stRange, taken s) := if_neg (by rw [show (taken s).net.sessions = s.net.sessions from rfl, h]; decide)
    rw [hexec, hwrite]
    rfl
  · have hwrite : closeWrite (taken s) v.toNat = (stOK, closeNow (taken s) v.toNat) := if_pos (Option.isSome_iff_ne_none.2 h)
    rw [hexec, hwrite]
    rfl

/-- The sessions of a list close one after the other, each with its subscriptions. -/
theorem closeAll_eq (l : List (Nat × Session)) : ∀ s : State, l.foldl (fun s x => closeNow s x.1) s = { s with net := { s.net with
    sessions := s.net.sessions.filter fun y => !l.any fun x => x.1 == y.1
    subs := s.net.subs.filter fun y => !l.any fun x => x.1 == y.session } } := by
  induction l with
  | nil => intro s; simp
  | cons x l ih =>
    intro s
    have hkeep (k : Nat) : ((k != x.1) && !l.any fun y => y.1 == k) = !((x :: l).any fun y => y.1 == k) := by
      rw [List.any_cons, Bool.not_or, bne, Bool.beq_comm]
    rw [List.foldl_cons, ih]
    unfold closeNow tdel
    simp only [List.filter_filter, ← hkeep, Bool.and_comm]

theorem idle_spec (s : State) : let l := s.net.sessions.map fun x => (x.1, { x.2 with idle := x.2.idle + 1 })
    let old (k : Nat) : Bool := l.any fun x => x.1 == k && decide (121 ≤ x.2.idle)
    (inReset s = true → exec .sessionIdleCheck s = .next s)
    ∧ (inReset s = false → serverRuns s = false → exec .sessionIdleCheck s = .next { s with net := { s.net with sessions := l } })
    ∧ (inReset s = false → serverRuns s = true → exec .sessionIdleCheck s = .next { s with net := { s.net with
        sessions := l.filter fun x => !old x.1, subs := s.net.subs.filter fun y => !old y.session } }) := by
  intro l old
  refine ⟨fun h => congrArg Host.Outcome.next (if_pos h), fun h hno => ?_, fun h hserver => ?_⟩
  · exact congrArg Host.Outcome.next ((if_neg (Bool.eq_false_iff.1 h)).trans (if_neg (Bool.eq_false_iff.1 hno)))
  · have hold (k : Nat) : ((l.filter fun x => decide (121 ≤ x.2.idle)).any fun x => x.1 == k) = old k := by
      dsimp only [old]
      rw [List.any_filter]
      simp only [Bool.and_comm]
    refine congrArg Host.Outcome.next ((if_neg (Bool.eq_false_iff.1 h)).trans ((if_pos hserver).trans ?_))
    refine (closeAll_eq (l.filter fun x => decide (121 ≤ x.2.idle)) { s with net := { s.net with sessions := l } }).trans ?_
    generalize l.filter (fun x => decide (121 ≤ x.2.idle)) = due at hold
    simp only [hold]

/-- Settles O49: messages at the server, OPEN, CLOSE, CLOSE_SESSION and the idle check. -/
theorem messagesAndSessions : Obligations.MessagesAndSessions :=
  ⟨fun _ _ _ => message_spec, fun _ _ _ _ => openS_spec, fun _ _ _ => close_spec, fun _ _ _ => closeSession_spec, idle_spec⟩

end Sys2Proof.Machine
end

section
/-! PROOFS. Accepted requests: reads, writes, domain blocks, domain reads and subscriptions (R331, R341, R345, R351). -/
namespace Sys2Proof.Machine

/-- An accepted message of the host is executed on the session's new state and answered to the host. -/
theorem exec_request {s : State} {c : Instr} {a : Auth} {q : Req} {x : Session} (hc : messageOf c = some (hostMsg a q)) (hserver : serverRuns s = true)
    (hmac : a.macOk = true) (hx : tfind s.net.sessions a.session = some x) (hseq : x.seq < a.seq) (hopen : ∀ lvl nonce client, q ≠ .openS lvl nonce client) :
    let r := runReq (accepted s a x) (hostMsg a q) x.level
    exec c s = .next (sends r.2.2 ⟨.host, reqKind q + 0x80, a.session, x.outSeq + 1, 0, r.1, r.2.1⟩) := by
  obtain ⟨hexec, -, -, hurg⟩ := exec_message hc s
  intro r
  rw [hexec, receive_server _ hserver, handle_session s hopen hurg, sessionMsg_accepted (m := hostMsg a q) hmac hx hseq]
  exact congrArg Host.Outcome.next (sendReply_host _ rfl)

/-! ### READ and WRITE (R331, R341) -/

/-- Only the counters of the timers change when they are read. -/
theorem readNum_pure {s : State} {session ix sub : Nat} (h : ¬(0x2940 ≤ ix ∧ ix < 0x2980)) : (readNum s session ix sub).2.2 = s := by
  unfold readNum
  rw [if_neg fun k => h ⟨k.1, k.2.1⟩, if_neg fun k => h ⟨k.1, k.2.1⟩, if_neg fun k => h ⟨k.1, k.2.1⟩]

theorem readItem_pure {s : State} {lvl : Level} {session ix sub : Nat} (h : ¬(0x2940 ≤ ix ∧ ix < 0x2980)) :
    (readItem s lvl session ix sub).2.2.2 = s := by
  unfold readItem
  split
  · rfl
  · dsimp only
    split_ifs
    · rfl
    · rfl
    · rfl
    · exact readNum_pure h
    · exact readNum_pure h

theorem readItems_pure {s : State} (lvl : Level) (session : Nat) (items : List ReadItem) (h : ∀ i ∈ items, ¬(0x2940 ≤ i.index ∧ i.index < 0x2980)) :
    (readItems lvl session (items.map fun i => (i.index, i.sub)) s).2 = s
    ∧ (readItems lvl session (items.map fun i => (i.index, i.sub)) s).1 = (items.map fun i => let q := readItem s lvl session i.index i.sub
        readReply i.index i.sub (q.1, q.2.1, q.2.2.1)).flatten := by
  induction items with
  | nil => exact ⟨rfl, rfl⟩
  | cons i items ih =>
    obtain ⟨hstate, hbytes⟩ := ih fun j hj => h j (List.mem_cons_of_mem _ hj)
    rw [List.map_cons, readItems, readItem_pure (h i List.mem_cons_self), List.map_cons, List.flatten_cons, ← hbytes]
    exact ⟨hstate, rfl⟩

/-- A write of which every item is refused answers each item's status. -/
theorem writeItems_refused {s : State} (lvl : Level) (session : Nat) (st : WriteItem → Nat) (items : List WriteItem)
    (h : ∀ i ∈ items, (if s.boot.frozen then (stState, s) else writeItem s lvl session i) = (st i, s)) :
    (writeItems lvl session items s).2 = s
    ∧ (writeItems lvl session items s).1 = (items.map fun i => leBytes 2 i.index ++ leBytes 1 i.sub ++ [0] ++ leBytes 2 (st i)).flatten := by
  induction items with
  | nil => exact ⟨rfl, rfl⟩
  | cons i items ih =>
    obtain ⟨hstate, hbytes⟩ := ih fun j hj => h j (List.mem_cons_of_mem _ hj)
    rw [writeItems, h i List.mem_cons_self, List.map_cons, List.flatten_cons, ← hbytes]
    exact ⟨hstate, rfl⟩

theorem writeItem_refused {s : State} {lvl : Level} {session : Nat} {i : WriteItem} (h : accessStatus s lvl i.index i.sub true ≠ stOK) :
    writeItem s lvl session i = (accessStatus s lvl i.index i.sub true, s) := if_pos h

/-! ### Blocks of a domain (R345) -/

theorem domainWriteMsg_bad {s : State} {lvl : Level} {b : DomainBlock} (h : crc32 b.data ≠ b.crc ∨ b.total < b.offset + b.data.length) :
    domainWriteMsg s lvl b = (stBlock, s) := by
  refine if_pos ?_
  unfold badBlock
  rw [Bool.or_eq_true, Bool.or_eq_true, bne_iff_ne, decide_eq_true_eq]
  exact .inl h

/-- A whole block of a download goes to the download's store. -/
theorem domainWriteMsg_download {s : State} {lvl : Level} {b : DomainBlock} {y : Nat} {r : Row} (hbad : badBlock s b = false)
    (hacc : accessStatus s lvl b.index b.sub true = stOK) (hrow : rowHere s b.index b.sub = some r) (hty : r.ty = 12)
    (hlo : 1 ≤ b.data.length) (hhi : b.data.length ≤ 1024) (htotal : badTotal b = false) (hgate : gated s b.index b.sub = false)
    (hy : dlTarget b.index b.sub = some y) (hst : dlState s y = false) : domainWriteMsg s lvl b = (stOK, dlBlock s y b) := by
  have hsize : ¬(b.data.length < 1 ∨ 1024 < b.data.length ∨ badTotal b = true) := by
    rw [htotal]
    rintro (h | h | h)
    · omega
    · omega
    · cases h
  unfold domainWriteMsg
  simp only [hbad, Bool.false_eq_true, if_false, hacc, ne_eq, not_true, hrow, hty, if_neg hsize, hgate, hy, hst]

theorem dl_setDl_same (s : State) (y : Nat) (d : Dl) : dl (setDl s y d) y = d := tget_tset_same ..

theorem dl_setDl_other (s : State) {y k : Nat} (d : Dl) (h : k ≠ y) : dl (setDl s y d) k = dl s k := tget_tset_other _ _ _ _ _ h

/-- A block of a download under way lands in its place. -/
theorem dlBlock_running {s : State} {y : Nat} {b : DomainBlock} (h : (dl s y).state = 1) : let t := dlBlock s y b
    t = { s with mram := t.mram, boot := { s.boot with dls := t.boot.dls } } ∧ (∀ k, k ≠ y → dl t k = dl s k)
    ∧ t.mram = mwrite s.mram (dlAddr s y + b.offset) b.data
    ∧ dl t y = { dl s y with
        ranges := rangeAdd (dl s y).ranges b.offset (b.offset + b.data.length)
        state := if rangeSum (rangeAdd (dl s y).ranges b.offset (b.offset + b.data.length)) = (dl s y).total then 2 else 1 } := by
  intro t
  have ht : t = setDl (setMram s (mwrite s.mram (dlAddr s y + b.offset) b.data)) y { dl s y with
      ranges := rangeAdd (dl s y).ranges b.offset (b.offset + b.data.length)
      state := if rangeSum (rangeAdd (dl s y).ranges b.offset (b.offset + b.data.length)) = (dl s y).total then 2 else 1 } := by
    unfold t dlBlock
    rw [if_pos h]
  rw [ht]
  exact ⟨rfl, fun k hk => dl_setDl_other _ _ hk, rfl, dl_setDl_same ..⟩

theorem dlInvalid_frame (s : State) (y : Nat) :
    dlInvalid s y = { s with boot := { s.boot with slotValid := (dlInvalid s y).boot.slotValid } }
    ∧ (y < 2 → tget false (dlInvalid s y).boot.slotValid y = false) ∧ (2 ≤ y → (dlInvalid s y).boot.slotValid = s.boot.slotValid) := by
  unfold dlInvalid
  split_ifs with h
  · exact ⟨rfl, fun _ => tget_tset_same false s.boot.slotValid y false, fun h' => absurd h (not_lt.2 h')⟩
  · exact ⟨rfl, fun h' => absurd h' h, fun _ => rfl⟩

/-- The first block of a download invalidates what its store held and begins anew. -/
theorem dlBlock_first {s : State} {y : Nat} {b : DomainBlock} (h : (dl s y).state ≠ 1) : let t := dlBlock s y b
    t = { s with mram := t.mram, boot := { s.boot with dls := t.boot.dls, slotValid := t.boot.slotValid } } ∧ (∀ k, k ≠ y → dl t k = dl s k)
    ∧ t.mram = mwrite s.mram (dlAddr t y + b.offset) b.data
    ∧ dl t y = ⟨if b.data.length = b.total then 2 else 1, 0, b.total, [(b.offset, b.offset + b.data.length)], (freeArea s).getD 0⟩
    ∧ (y < 2 → tget false t.boot.slotValid y = false) ∧ (2 ≤ y → t.boot.slotValid = s.boot.slotValid) := by
  intro t
  obtain ⟨hframe, hlow, hhigh⟩ := dlInvalid_frame s y
  generalize hv : dlInvalid s y = v at hframe hlow hhigh
  generalize hd : ({ state := 1, total := b.total, area := (freeArea s).getD 0 } : Dl) = d
  have hsum : rangeSum [(b.offset, b.offset + b.data.length)] = b.data.length := by
    rw [rangeSum, List.map_singleton, List.sum_singleton]
    exact Nat.add_sub_cancel_left ..
  have ht : t = setDl (setMram (setDl v y d) (mwrite v.mram (dlAddr (setDl v y d) y + b.offset) b.data)) y { d with
      ranges := [(b.offset, b.offset + b.data.length)], state := if b.data.length = b.total then 2 else 1 } := by
    unfold t dlBlock
    rw [if_neg h, hv, hd]
    dsimp only
    rw [dl_setDl_same, ← hd]
    simp only [rangeAdd, hsum]
    rfl
  have hother (k : Nat) (hk : k ≠ y) : dl t k = dl s k := by
    rw [ht, dl_setDl_other _ _ hk]
    refine (dl_setDl_other v d hk).trans ?_
    rw [hframe]
    rfl
  have hsame : dl t y = { d with ranges := [(b.offset, b.offset + b.data.length)], state := if b.data.length = b.total then 2 else 1 } := by
    rw [ht, dl_setDl_same]
  have haddr : dlAddr t y = dlAddr (setDl v y d) y := by
    unfold dlAddr
    rw [hsame, dl_setDl_same]
  refine ⟨?_, hother, ?_, hsame.trans (by rw [← hd]), ?_, ?_⟩
  · rw [ht, hframe]
    rfl
  · rw [haddr, ht, hframe]
    rfl
  · rw [ht]
    exact hlow
  · rw [ht]
    exact hhigh

/-- The bytes of a block written to a memory, and only those, stand there. -/
theorem mwrite_block (m : Mem) (a : Nat) (l : List Byte) :
    (∀ i (h : i < l.length), mget (mwrite m a l) (a + i) = l[i]) ∧ SameOutside m (mwrite m a l) a l.length :=
  ⟨fun i h => mget_mwrite_inside l m a i h, fun c h => mget_mwrite_outside l m a c h⟩

/-! ### DOMAIN_READ (R345) -/

theorem domainReadItem_inside {s : State} {lvl : Level} {ix sub off n len : Nat} {r : Row} (hacc : accessStatus s lvl ix sub false = stOK)
    (hrow : rowHere s ix sub = some r) (hty : r.ty = 12) (hlo : 1 ≤ n) (hhi : n ≤ 1024) (hlen : domainLen s ix sub = some len) (hoff : off ≤ len) :
    domainReadItem s lvl ix sub off n = (stOK, domainBytes s ix sub off (Nat.min n (len - off))) := by
  have hsize : ¬(n < 1 ∨ 1024 < n) := by omega
  unfold domainReadItem
  simp only [hrow, hacc, hty, hlen, ne_eq, not_true, if_false, if_neg hsize, if_neg (not_lt.2 hoff)]

/-! ### SUBSCRIBE (R351) -/

/-- To have a stream sent leaves all but the queue of its link alone. -/
theorem enableStream_frame (s : State) (i : ReadItem) :
    enableStream s i = { s with links := (enableStream s i).links, draws := (enableStream s i).draws } := by
  unfold enableStream
  split
  · unfold telemSetMsg sendMsg updLink setLink
    rfl
  · rfl

theorem enableStream_fold (l : List ReadItem) : ∀ s : State, ∃ links draws, l.foldl enableStream s = { s with links := links, draws := draws } := by
  induction l with
  | nil => exact fun s => ⟨s.links, s.draws, rfl⟩
  | cons i l ih =>
    intro s
    obtain ⟨links, draws, h⟩ := ih (enableStream s i)
    rw [List.foldl_cons, h, enableStream_frame]
    exact ⟨links, draws, rfl⟩

theorem subscribe_spec {s : State} {lvl : Level} {k subId period : Nat} {items : List ReadItem} :
    let same (st : Nat) : List Nat := items.map fun _ => st
    let rest := s.net.subs.filter fun y => !(y.session == k && y.subId == subId)
    let good := items.filter fun i => subStatus s lvl i == stOK
    let right := subId ≤ 15 ∧ items.length ≤ 32 ∧ period ≤ 65535 ∧ (items = [] → period = 0)
    (s.boot.frozen = true ∨ s.boot.asleep = true → subscribeMsg s .host lvl k subId period items = (same stState, s))
    ∧ (s.boot.frozen = false → s.boot.asleep = false →
      (¬right → subscribeMsg s .host lvl k subId period items = (same stRange, s))
      ∧ (right → period = 0 → subscribeMsg s .host lvl k subId period items = (same stOK, { s with net := { s.net with subs := rest } }))
      ∧ (right → period ≠ 0 → 256 ≤ rest.length → subscribeMsg s .host lvl k subId period items = (same stRange, s))
      ∧ (right → period ≠ 0 → rest.length < 256 → ∃ t,
          subscribeMsg s .host lvl k subId period items = (items.map (subStatus s lvl), t)
          ∧ (good = [] → t = s)
          ∧ (good ≠ [] → t = { s with
              links := t.links
              draws := t.draws
              net := { s.net with
                subs := rest ++ [⟨.host, k, subId, period, good.map fun i => (i.index, i.sub), period, 0, none⟩] } }))) := by
  intro same rest good right
  have hright : (15 < subId ∨ 32 < items.length ∨ 65535 < period ∨ (items = [] ∧ period ≠ 0)) ↔ ¬right := by
    simp only [right, not_and_or, not_le, Classical.not_imp, ne_eq]
  have hquiet (hf : s.boot.frozen = false) (ha : s.boot.asleep = false) : ¬((Iface.host == Iface.smb || s.boot.frozen || s.boot.asleep) = true) := by
    rw [hf, ha]
    decide
  refine ⟨fun h => if_pos ?_, fun hf ha => ⟨fun h => ?_, fun h hper => ?_, fun h hper hfull => ?_, fun h hper hroom => ?_⟩⟩
  · rw [Bool.or_eq_true, Bool.or_eq_true, or_assoc]
    exact .inr h
  · exact (if_neg (hquiet hf ha)).trans (if_pos (hright.2 h))
  · exact (if_neg (hquiet hf ha)).trans ((if_neg (not_not.2 h ∘ hright.1)).trans (if_pos hper))
  · exact (if_neg (hquiet hf ha)).trans ((if_neg (not_not.2 h ∘ hright.1)).trans ((if_neg hper).trans (if_pos hfull)))
  · have hmsg {r : List Nat × State} (hr : (if good.isEmpty = true then (items.map (subStatus s lvl), s)
        else (items.map (subStatus s lvl), good.foldl enableStream { s with net := { s.net with
          subs := rest ++ [⟨.host, k, subId, period, good.map fun i => (i.index, i.sub), period, 0, none⟩] } })) = r) :
        subscribeMsg s .host lvl k subId period items = r :=
      (if_neg (hquiet hf ha)).trans ((if_neg (not_not.2 h ∘ hright.1)).trans ((if_neg hper).trans ((if_neg (not_le.2 hroom)).trans hr)))
    by_cases hgood : good = []
    · exact ⟨s, hmsg (if_pos (List.isEmpty_iff.2 hgood)), fun _ => rfl, fun hno => absurd hgood hno⟩
    · refine ⟨_, hmsg (if_neg fun he => hgood (List.isEmpty_iff.1 he)), fun he => absurd he hgood, fun _ => ?_⟩
      obtain ⟨links, draws, hfold⟩ := enableStream_fold good { s with net := { s.net with
        subs := rest ++ [⟨.host, k, subId, period, good.map fun i => (i.index, i.sub), period, 0, none⟩] } }
      rw [hfold]

theorem statusList_same {α : Type} (l : List α) (st : Nat) : statusList (l.map fun _ => st) = (l.map fun _ => leBytes 2 st).flatten := by
  rw [statusList, List.map_map]
  rfl

/-- Settles O50: reads, writes, blocks of a domain, domain reads and subscriptions of an accepted message. -/
theorem requestsAreExecutedAndAnswered : Obligations.RequestsAreExecutedAndAnswered := by
  intro s a x hserver hmac hx hseq u reply
  refine ⟨fun items => ⟨?_, fun h => readItems_pure _ _ _ h⟩, fun items => ⟨?_, fun hfrozen => ?_, fun hfrozen hno => ?_⟩, fun b => ?_, fun ix sub off n => ?_,
    fun subId period items => ?_⟩
  · exact exec_request (c := .read a items) (q := .read items) rfl hserver hmac hx hseq fun _ _ _ h => by cases h
  · exact exec_request (c := .write a items) (q := .write items) rfl hserver hmac hx hseq fun _ _ _ h => by cases h
  · exact writeItems_refused _ _ (fun _ => stState) items fun i _ => if_pos hfrozen
  · exact writeItems_refused _ _ (fun i => accessStatus u x.level i.index i.sub true) items fun i hi =>
      (if_neg (Bool.eq_false_iff.1 hfrozen)).trans (writeItem_refused (hno i hi))
  · have hexec := exec_request (c := .domainWrite a b) (q := .domainWrite b) rfl hserver hmac hx hseq fun _ _ _ h => by cases h
    have hrun : runReq u (hostMsg a (.domainWrite b)) x.level =
        (1, leBytes 2 (if (s.boot.frozen || s.boot.asleep) = true then (stState, u) else domainWriteMsg u x.level b).1,
          (if (s.boot.frozen || s.boot.asleep) = true then (stState, u) else domainWriteMsg u x.level b).2) := rfl
    have hblock {st : Nat} {t : State} (h : (if (s.boot.frozen || s.boot.asleep) = true then (stState, u) else domainWriteMsg u x.level b) = (st, t)) :
        exec (.domainWrite a b) s = .next (sends t (reply 0x92 1 (leBytes 2 st))) := by
      rw [h] at hrun
      dsimp only at hexec
      rw [hrun] at hexec
      exact hexec
    refine ⟨fun h => hblock (if_pos (by rw [Bool.or_eq_true]; exact h)), fun hf ha => ?_⟩
    have hquiet : ¬((s.boot.frozen || s.boot.asleep) = true) := by rw [hf, ha]; decide
    have hmsg {st : Nat} {t : State} (h : domainWriteMsg u x.level b = (st, t)) := hblock ((if_neg hquiet).trans h)
    refine ⟨hmsg rfl, fun h => hmsg (domainWriteMsg_bad h), fun y r hbad hacc hrow hty hlo hhi htotal hgate hy hrec hst => ?_,
      fun y r hbad hacc hrow hty hlo hhi htotal hgate hy hrec hst => ?_⟩
    · obtain ⟨hframe, hother, hmem, hdl⟩ := dlBlock_running (s := u) (b := b) hrec
      obtain ⟨hin, hout⟩ := mwrite_block u.mram (dlAddr u y + b.offset) b.data
      refine ⟨dlBlock u y b, hmsg (domainWriteMsg_download hbad hacc hrow hty hlo hhi htotal hgate hy hst), hframe, hother, ?_, ?_, ?_, ?_, ?_⟩
      · rw [hmem]
        exact hin
      · rw [hmem]
        exact hout
      · rw [hdl]
        rfl
      · rw [hdl]
        split_ifs with h
        · exact ⟨fun _ => h, fun _ => rfl⟩
        · exact ⟨fun h' => absurd (show 1 = 2 from h') (by decide), fun h' => absurd h' h⟩
      · rw [hdl]
        split_ifs
        · exact .inr rfl
        · exact .inl rfl
    · obtain ⟨hframe, hother, hmem, hdl, hlow, hhigh⟩ := dlBlock_first (s := u) (b := b) hrec
      obtain ⟨hin, hout⟩ := mwrite_block u.mram (dlAddr (dlBlock u y b) y + b.offset) b.data
      refine ⟨dlBlock u y b, hmsg (domainWriteMsg_download hbad hacc hrow hty hlo hhi htotal hgate hy hst), hframe, hother, ?_, ?_, ?_, ?_, ?_, ?_, hlow,
        hhigh⟩
      · rw [hdl]
      · rw [hdl]
      · rw [hdl]
      · rw [hdl]
      · rw [hmem]
        exact hin
      · rw [hmem]
        exact hout
  · have hexec := exec_request (c := .domainRead a ix sub off n) (q := .domainRead ix sub off n) rfl hserver hmac hx hseq fun _ _ _ h => by cases h
    have hread {st : Nat} {l : List Byte} (h : (if s.boot.asleep = true then (stState, []) else domainReadItem u x.level ix sub off n) = (st, l)) :
        exec (.domainRead a ix sub off n) s = .next (sends u (reply 0x93 1 (leBytes 2 st ++ l))) := by
      have hrun : runReq u (hostMsg a (.domainRead ix sub off n)) x.level = (1, leBytes 2 st ++ l, u) :=
        congrArg (fun r : Nat × List Byte => (1, leBytes 2 r.1 ++ r.2, u)) h
      dsimp only at hexec
      rw [hrun] at hexec
      exact hexec
    refine ⟨fun h => (hread (if_pos h)).trans (by rw [List.append_nil]), fun h => hread (if_neg (Bool.eq_false_iff.1 h)),
      fun r len h hacc hrow hty hlo hhi hlen hoff => ?_⟩
    rw [hread ((if_neg (Bool.eq_false_iff.1 h)).trans (domainReadItem_inside hacc hrow hty hlo hhi hlen hoff))]
  · intro same rest good right
    have hexec := exec_request (c := .subscribe a subId period items) (q := .subscribe subId period items) rfl hserver hmac hx hseq fun _ _ _ h => by cases h
    have hmsg {l : List Nat} {t : State} (h : subscribeMsg u .host x.level a.session subId period items = (l, t)) :
        exec (.subscribe a subId period items) s = .next (sends t (reply 0xA0 items.length (statusList l))) := by
      have hrun : runReq u (hostMsg a (.subscribe subId period items)) x.level = (items.length, statusList l, t) :=
        congrArg (fun r : List Nat × State => (items.length, statusList r.1, r.2)) h
      dsimp only at hexec
      rw [hrun] at hexec
      exact hexec
    obtain ⟨hclosed, hopen⟩ := subscribe_spec (s := u) (lvl := x.level) (k := a.session) (subId := subId) (period := period) (items := items)
    refine ⟨fun h => ?_, fun hf ha => ?_⟩
    · rw [hmsg (hclosed h), statusList_same]
    · obtain ⟨hwrong, hend, hfull, hnew⟩ := hopen hf ha
      refine ⟨fun h => ?_, fun h hper => ?_, fun h hper hroom => ?_, fun h hper hroom => ?_⟩
      · rw [hmsg (hwrong h), statusList_same]
      · rw [hmsg (hend h hper), statusList_same]
        rfl
      · rw [hmsg (hfull h hper hroom), statusList_same]
      · obtain ⟨t, ht, hnone, hsome⟩ := hnew h hper hroom
        refine ⟨t, (hmsg ht).trans ?_, hnone, hsome⟩
        rw [statusList, List.map_map]
        rfl

end Sys2Proof.Machine
end

section
/-! PROOFS. Urgent commands, keys and subscription periods (R346 to R353). -/
namespace Sys2Proof.Machine

/-! ### The urgent responder (R348 to R350) -/

/-- An urgent command of the host reaches the responder. -/
theorem exec_urgent {c : Instr} {a : Auth} {command arg : Byte} (h : urgentOf c = some (a, command, arg)) (s : State) :
    exec c s = .next (respond s (hostMsg a (.urgent command arg)) command arg) := by
  unfold urgentOf at h
  split at h <;> cases h <;> rfl

/-- The state in which an urgent command in its sequence is executed: the session holds the command's number. -/
def urgentTaken (s : State) (a : Auth) (x : Session) : State := { s with net := { s.net with
  sessions := tput s.net.sessions a.session { x with outUrg := x.outUrg + 1, urgSeq := a.seq, idle := 0 } } }

/-- An urgent command of a known session in its sequence has one outcome, which is counted and answered. -/
theorem urgentMsg_taken {s : State} {a : Auth} {x : Session} {command arg : Byte} {st : Nat} {t : State} (hmac : a.macOk = true)
    (hx : tfind s.net.sessions a.session = some x) (hseq : x.urgSeq < a.seq)
    (h : (if levelNo x.level < levelNo .operate then (stAccess, urgentTaken s a x) else urgentEffect (urgentTaken s a x) command arg) = (st, t)) :
    urgentMsg s (hostMsg a (.urgent command arg)) false command arg
      = sends (if st = stOK then { t with net := { t.net with urgAccepted := t.net.urgAccepted + 1 } }
        else { t with net := { t.net with urgRejected := t.net.urgRejected + 1 } }) ⟨.host, 0xB0, a.session, x.outUrg + 1, 0, 0, leBytes 2 st⟩ := by
  have hfresh : decide (a.seq ≤ x.urgSeq) = false := decide_eq_false (not_le.2 hseq)
  unfold urgentMsg
  split
  next hnone => cases hx.symm.trans hnone
  next y hy =>
    cases hx.symm.trans hy
    have hmac' : ¬((!(hostMsg a (.urgent command arg)).auth.macOk) = true) := by
      rw [show (hostMsg a (.urgent command arg)).auth.macOk = true from hmac]
      decide
    rw [if_neg hmac', show decide ((hostMsg a (.urgent command arg)).auth.seq ≤ x.urgSeq) = false from hfresh]
    exact (congrArg (fun r : Nat × State => sendReply
      (if r.1 = stOK then { r.2 with net := { r.2.net with urgAccepted := r.2.net.urgAccepted + 1 } }
        else { r.2 with net := { r.2.net with urgRejected := r.2.net.urgRejected + 1 } })
      ⟨.host, 0xB0, a.session, x.outUrg + 1, 0, 0, leBytes 2 r.1⟩) h).trans (sendReply_host _ rfl)

theorem urgentMsg_stale {s : State} {a : Auth} {x : Session} {command arg : Byte} (hmac : a.macOk = true)
    (hx : tfind s.net.sessions a.session = some x) (hseq : a.seq ≤ x.urgSeq) :
    urgentMsg s (hostMsg a (.urgent command arg)) false command arg = sends { s with net := { s.net with
        sessions := tput s.net.sessions a.session { x with outUrg := x.outUrg + 1 }
        replay := s.net.replay + 1, urgRejected := s.net.urgRejected + 1 } } ⟨.host, 0xB0, a.session, x.outUrg + 1, 0, 0, leBytes 2 stAuth⟩ := by
  have hstale : decide (a.seq ≤ x.urgSeq) = true := decide_eq_true hseq
  unfold urgentMsg
  split
  next hnone => cases hx.symm.trans hnone
  next y hy =>
    cases hx.symm.trans hy
    have hmac' : ¬((!(hostMsg a (.urgent command arg)).auth.macOk) = true) := by
      rw [show (hostMsg a (.urgent command arg)).auth.macOk = true from hmac]
      decide
    rw [if_neg hmac', show decide ((hostMsg a (.urgent command arg)).auth.seq ≤ x.urgSeq) = true from hstale]
    exact sendReply_host { s with net := { s.net with
        sessions := tput s.net.sessions a.session { x with outUrg := x.outUrg + 1 }
        replay := s.net.replay + 1, urgRejected := s.net.urgRejected + 1 } } rfl

theorem urgentMsg_discard {s : State} {a : Auth} {command arg : Byte} (h : tfind s.net.sessions a.session = none ∨ a.macOk = false) :
    urgentMsg s (hostMsg a (.urgent command arg)) false command arg = discard s := by
  unfold urgentMsg
  split
  next => rfl
  next x hx =>
    refine if_pos ?_
    rcases h with h | h
    · cases h.symm.trans hx
    · rw [show (hostMsg a (.urgent command arg)).auth.macOk = false from h]
      rfl

theorem levelNo_low {l : Level} : levelNo l < levelNo .operate ↔ l = .observe := by cases l <;> decide

/-- CAP sets CAP_SELECT and the selection, and tells the mate. -/
theorem capSelectWrite_spec (s : State) (v : Byte) : let t := (capSelectWrite s v.toNat).2
    t = { s with
      cfg := tput s.cfg (okey 0x2505 3) v.toNat
      flow := { s.flow with capEff := if (s.flow.capLow1 = true ∧ s.flow.capLow2 = true) ∨ cfg t 0x2505 3 = 1 then 1 else 0 }
      pair := { s.pair with sentCtrl := s.pair.sentCtrl ++ (if s.pair.role = .active ∧ s.pair.link = 2 then [Ctrl.capSelect v] else []) } } := by
  intro t
  have hcfg : cfg t 0x2505 3 = cfg (setCfg s 0x2505 3 v.toNat) 0x2505 3 := by
    unfold t capSelectWrite
    dsimp only
    rw [sendCtrl_frame]
    exact cfg_of rfl rfl _ _
  have hv : BitVec.ofNat 8 v.toNat = v := BitVec.eq_of_toNat_eq (by rw [BitVec.toNat_ofNat, Nat.mod_eq_of_lt v.isLt])
  rw [hcfg]
  unfold t capSelectWrite capSelectNow selectCap sendCtrl
  simp only [hv, Bool.or_eq_true, Bool.and_eq_true, beq_iff_eq]
  by_cases hmate : s.pair.role = .active ∧ s.pair.link = 2
  · rw [if_pos hmate]
    exact if_pos hmate
  · rw [if_neg hmate, List.append_nil]
    exact if_neg hmate

theorem urgent_spec {s : State} {c : Instr} {a : Auth} {command arg : Byte} (hc : urgentOf c = some (a, command, arg)) :
    (responderRuns s = false → exec c s = .next s)
    ∧ (responderRuns s = true → tfind s.net.sessions a.session = none ∨ a.macOk = false →
        exec c s = .next { s with net := { s.net with authFail := s.net.authFail + 1 } })
    ∧ ∀ x, responderRuns s = true → tfind s.net.sessions a.session = some x → a.macOk = true →
      let reply (st : Nat) : Reply := ⟨.host, 0xB0, a.session, x.outUrg + 1, 0, 0, leBytes 2 st⟩
      let y : Session := { x with outUrg := x.outUrg + 1, urgSeq := a.seq, idle := 0 }
      let refused (st : Nat) : State := sends { s with net := { s.net with
        sessions := tput s.net.sessions a.session y, urgRejected := s.net.urgRejected + 1 } } (reply st)
      (a.seq ≤ x.urgSeq → exec c s = .next (sends { s with net := { s.net with
          sessions := tput s.net.sessions a.session { x with outUrg := x.outUrg + 1 }, replay := s.net.replay + 1,
          urgRejected := s.net.urgRejected + 1 } } (reply stAuth)))
      ∧ (x.urgSeq < a.seq →
        (x.level = .observe → exec c s = .next (refused stAccess))
        ∧ (x.level ≠ .observe → command = 1 → exec c s = .next (sends { s with net := { s.net with
            sessions := tput s.net.sessions a.session y, hushed := true, urgAccepted := s.net.urgAccepted + 1 } } (reply stOK)))
        ∧ (x.level ≠ .observe → command = 2 → arg.toNat ≤ 1 → commands s = false → exec c s = .next (refused stState))
        ∧ (x.level ≠ .observe → command = 2 → arg.toNat ≤ 1 → commands s = true → ∃ t, exec c s = .next (sends t (reply stOK))
            ∧ t = { s with
                cfg := tput s.cfg (okey 0x2505 3) arg.toNat,
                flow := { s.flow with
                  capEff := if (s.flow.capLow1 = true ∧ s.flow.capLow2 = true) ∨ cfg t 0x2505 3 = 1 then 1 else 0 },
                pair := { s.pair with sentCtrl := s.pair.sentCtrl
                  ++ (if s.pair.role = .active ∧ s.pair.link = 2 then [Ctrl.capSelect arg] else []) },
                net := { s.net with
                  sessions := tput s.net.sessions a.session y, urgAccepted := s.net.urgAccepted + 1 } })
        ∧ (x.level ≠ .observe → command ≠ 1 → ¬(command = 2 ∧ arg.toNat ≤ 1) → exec c s = .next (refused stRange))) := by
  have hexec := exec_urgent hc s
  have hmsg {t : State} (hruns : responderRuns s = true) (h : urgentMsg s (hostMsg a (.urgent command arg)) false command arg = t) :
      exec c s = .next t := hexec.trans (congrArg Host.Outcome.next ((if_pos hruns).trans h))
  refine ⟨fun hno => hexec.trans (congrArg Host.Outcome.next (if_neg (Bool.eq_false_iff.1 hno))), fun hruns h => hmsg hruns (urgentMsg_discard h),
    fun x hruns hx hmac => ?_⟩
  intro reply y refused
  refine ⟨fun hseq => hmsg hruns (urgentMsg_stale hmac hx hseq), fun hseq => ⟨fun hlow => ?_, fun hlevel h1 => ?_, fun hlevel h2 harg hno => ?_,
    fun hlevel h2 harg hcom => ?_, fun hlevel h1 h2 => ?_⟩⟩
  · exact hmsg hruns (urgentMsg_taken hmac hx hseq (if_pos (levelNo_low.2 hlow)))
  · exact hmsg hruns (urgentMsg_taken hmac hx hseq ((if_neg (hlevel ∘ levelNo_low.1)).trans (if_pos h1)))
  · have hne : ¬command = 1 := by rw [h2]; decide
    exact hmsg hruns (urgentMsg_taken hmac hx hseq ((if_neg (hlevel ∘ levelNo_low.1)).trans ((if_neg hne).trans ((if_pos ⟨h2, harg⟩).trans
      (if_neg (Bool.eq_false_iff.1 hno))))))
  · have hne : ¬command = 1 := by rw [h2]; decide
    have hcap := capSelectWrite_spec (urgentTaken s a x) arg
    dsimp only at hcap
    generalize ht : (capSelectWrite (urgentTaken s a x) arg.toNat).2 = t at hcap
    have heff : urgentEffect (urgentTaken s a x) command arg = (stOK, t) := by
      rw [← ht]
      exact (if_neg hne).trans ((if_pos ⟨h2, harg⟩).trans (if_pos hcom))
    refine ⟨{ t with net := { t.net with urgAccepted := t.net.urgAccepted + 1 } },
      hmsg hruns (urgentMsg_taken hmac hx hseq ((if_neg (hlevel ∘ levelNo_low.1)).trans heff)), ?_⟩
    have hcfg : cfg { t with net := { t.net with urgAccepted := t.net.urgAccepted + 1 } } 0x2505 3 = cfg t 0x2505 3 := cfg_of rfl rfl _ _
    generalize hu : ({ t with net := { t.net with urgAccepted := t.net.urgAccepted + 1 } } : State) = u at hcfg ⊢
    rw [hcfg, ← hu]
    generalize cfg t 0x2505 3 = w at hcap ⊢
    rw [hcap]
    rfl
  · exact hmsg hruns (urgentMsg_taken hmac hx hseq ((if_neg (hlevel ∘ levelNo_low.1)).trans ((if_neg h1).trans (if_neg h2))))

theorem hushed_spec {s : State} {lvl : Level} {v : Byte} (hadm : Admits s lvl 0x1130 1 v.toNat) :
    exec (.hushed lvl v) s = .next { answered s stOK with net := { (answered s stOK).net with hushed := v != 0 } } := by
  have hexec := exec_admitted (c := .hushed lvl v) rfl hadm
  have heff : effect (taken s) 0x1130 1 v.toNat = hushWrite (taken s) v.toNat := rfl
  have hv : (v.toNat != 0) = (v != 0) := by
    rw [Bool.eq_iff_iff, bne_iff_ne, bne_iff_ne, ne_eq, ne_eq, BitVec.toNat_eq]
    rfl
  rw [hexec, dropReserved_low (by decide) (by decide) (by decide) (by decide), heff]
  unfold hushWrite
  rw [hv]
  rfl

/-! ### Keys (R353) -/

theorem levelKey_spec {s : State} {lvl : Level} {k : Nat} {key : List Byte} (hs : Serves s) : let a := accessStatus (taken s) lvl 0x1200 k true
    (a ≠ stOK → exec (.levelKey lvl k key) s = .next (answered s a))
    ∧ (a = stOK → key.length ≠ 32 ∨ (∀ x ∈ key, x = 0) → exec (.levelKey lvl k key) s = .next (answered s stRange))
    ∧ (a = stOK → key.length = 32 → (∃ x ∈ key, x ≠ 0) → gated s 0x1200 k = false → exec (.levelKey lvl k key) s = .next (sendCtrl { s with
        net := { (answered s stOK).net with levelKeys := tput s.net.levelKeys k key } } (.bytes 0x1200 k key)))
    ∧ (a = stOK → key.length = 32 → (∃ x ∈ key, x ≠ 0) → gated s 0x1200 k = true → exec (.levelKey lvl k key) s = .next (answered s stState)) := by
  intro a
  have hkey {st : Nat} {t : State} (h : levelKeyWrite (taken s) lvl k key = (st, t)) : exec (.levelKey lvl k key) s = .next (withStatus t st) := by
    have hexec : exec (.levelKey lvl k key) s = .next (served s fun s => levelKeyWrite s lvl k key) := rfl
    rw [hexec, served_of hs, h]
  have hzero : (key.all fun b => b == 0) = true ↔ ∀ x ∈ key, x = 0 := by simp only [List.all_eq_true, beq_iff_eq]
  have hgood (hlen : key.length = 32) (hnz : ∃ x ∈ key, x ≠ 0) : ¬(key.length ≠ 32 ∨ (key.all fun b => b == 0) = true) := by
    obtain ⟨x, hx, hne⟩ := hnz
    rintro (h | h)
    · exact h hlen
    · exact hne (hzero.1 h x hx)
  refine ⟨fun ha => hkey (if_pos ha), fun ha hbad => hkey ((if_neg (not_not.2 ha)).trans (if_pos (hbad.imp id hzero.2))),
    fun ha hlen hnz hg => ?_, fun ha hlen hnz hg => ?_⟩
  · rw [hkey ((if_neg (not_not.2 ha)).trans ((if_neg (hgood hlen hnz)).trans (if_neg (Bool.eq_false_iff.1 hg)))), withStatus_sendCtrl]
    rfl
  · exact hkey ((if_neg (not_not.2 ha)).trans ((if_neg (hgood hlen hnz)).trans (if_pos hg)))

theorem imageKey_spec {s : State} {lvl : Level} {k : Nat} {key : List Byte} (hs : Serves s) : let b := accessStatus (taken s) lvl 0x1210 k true
    (b ≠ stOK → exec (.imageKey lvl k key) s = .next (answered s b))
    ∧ (b = stOK → key.length ≠ 97 ∨ Config.onCurve key = false → exec (.imageKey lvl k key) s = .next (answered s stRange))
    ∧ (b = stOK → key.length = 97 → Config.onCurve key = true → gated s 0x1210 k = false → exec (.imageKey lvl k key) s = .next (sendCtrl { s with
        net := { (answered s stOK).net with imageKeys := tput s.net.imageKeys k key } } (.bytes 0x1210 k key)))
    ∧ (b = stOK → key.length = 97 → Config.onCurve key = true → gated s 0x1210 k = true → exec (.imageKey lvl k key) s = .next (answered s stState)) := by
  intro b
  have hkey {st : Nat} {t : State} (h : imageKeyWrite (taken s) lvl k key = (st, t)) : exec (.imageKey lvl k key) s = .next (withStatus t st) := by
    have hexec : exec (.imageKey lvl k key) s = .next (served s fun s => imageKeyWrite s lvl k key) := rfl
    rw [hexec, served_of hs, h]
  have hgood (hlen : key.length = 97) (hcurve : Config.onCurve key = true) : ¬(key.length ≠ 97 ∨ Config.onCurve key = false) := by
    rintro (h | h)
    · exact h hlen
    · cases hcurve.symm.trans h
  refine ⟨fun hb => hkey (if_pos hb), fun hb hbad => hkey ((if_neg (not_not.2 hb)).trans (if_pos hbad)),
    fun hb hlen hcurve hg => ?_, fun hb hlen hcurve hg => ?_⟩
  · rw [hkey ((if_neg (not_not.2 hb)).trans ((if_neg (hgood hlen hcurve)).trans (if_neg (Bool.eq_false_iff.1 hg)))), withStatus_sendCtrl]
    rfl
  · exact hkey ((if_neg (not_not.2 hb)).trans ((if_neg (hgood hlen hcurve)).trans (if_pos hg)))

/-! ### Subscriptions (R346, R349, R351) -/

theorem subscriptionPeriod_spec (s : State) (k subId : Nat) :
    let found := s.net.subs.find? fun x => x.session == k && x.subId == subId
    let put (y : Sub) : List Sub := s.net.subs.map fun x => if x.session == k && x.subId == subId then y else x
    (found = none → exec (.subscriptionPeriod k subId) s = .next s)
    ∧ (∀ x, found = some x → x.due = none → exec (.subscriptionPeriod k subId) s = .next s)
    ∧ (∀ x seam items, found = some x → x.due = some (seam, items) →
      (s.net.hushed = true → exec (.subscriptionPeriod k subId) s = .next { s with net := { s.net with
          subs := put { x with due := none } } })
      ∧ (s.net.hushed = false →
        let body := leBytes 1 subId ++ [0] ++ leBytes 2 (Nat.min x.dropped 0xFFFF) ++ wordBytes seam ++ items
        let u : State := { s with net := { s.net with subs := put { x with due := none, dropped := 0 } } }
        (tfind s.net.sessions k = none → exec (.subscriptionPeriod k subId) s = .next u)
        ∧ (∀ y, tfind s.net.sessions k = some y → lineOf x.dest = none →
          exec (.subscriptionPeriod k subId) s = .next (sendReply { u with net := { u.net with
              sessions := tput s.net.sessions k { y with outSeq := y.outSeq + 1 } } }
            ⟨x.dest, 0x21, k, y.outSeq + 1, 0, x.items.length, body⟩))
        ∧ (∀ y j, tfind s.net.sessions k = some y → lineOf x.dest = some j →
          exec (.subscriptionPeriod k subId) s = .next (sendReply u
            ⟨telemDest s x.dest, 0x21, k, 0, 0, x.items.length, body⟩)))) := by
  intro found put
  have hfound {x : Sub} (h : found = some x) : x.session = k ∧ x.subId = subId := by
    have := List.find?_some h
    simpa only [Bool.and_eq_true, beq_iff_eq] using this
  have hnext : exec (.subscriptionPeriod k subId) s = execSubscriptionPeriod k subId s := rfl
  have hdue {x : Sub} {seam : Word} {items : List Byte} (h : found = some x) (hx : x.due = some (seam, items)) :
      exec (.subscriptionPeriod k subId) s = .next (if s.net.hushed then putSub s { x with due := none }
        else sendTelem (putSub s { x with due := none, dropped := 0 }) { x with due := none, dropped := 0 } x.items.length
          (leBytes 1 x.subId ++ [0] ++ leBytes 2 (Nat.min x.dropped 0xFFFF) ++ wordBytes seam ++ items)) := by
    rw [hnext]
    unfold execSubscriptionPeriod
    split
    next hnone => cases h.symm.trans hnone
    next y hy =>
      cases h.symm.trans hy
      split
      next hno => cases hx.symm.trans hno
      next hyes =>
        cases hx.symm.trans hyes
        rfl
  refine ⟨fun h => ?_, fun x h hx => ?_, fun x seam items h hx => ?_⟩
  · rw [hnext]
    unfold execSubscriptionPeriod
    split
    next => rfl
    next hy => cases h.symm.trans hy
  · rw [hnext]
    unfold execSubscriptionPeriod
    split
    next => rfl
    next y hy =>
      cases h.symm.trans hy
      split
      next => rfl
      next hyes => cases hx.symm.trans hyes
  · obtain ⟨rfl, rfl⟩ := hfound h
    refine ⟨fun hush => (hdue h hx).trans (congrArg Host.Outcome.next (if_pos hush)), fun hush => ?_⟩
    intro body u
    have hsend : exec (.subscriptionPeriod x.session x.subId) s
        = .next (sendTelem u { x with due := none, dropped := 0 } x.items.length body) :=
      (hdue h hx).trans (congrArg Host.Outcome.next (if_neg (Bool.eq_false_iff.1 hush)))
    refine ⟨fun hsess => ?_, fun y hsess hline => ?_, fun y j hsess hline => ?_⟩
    · rw [hsend]
      refine congrArg Host.Outcome.next ?_
      unfold sendTelem
      split
      next => rfl
      next hy => cases hsess.symm.trans hy
    · rw [hsend]
      refine congrArg Host.Outcome.next ?_
      unfold sendTelem
      split
      next hy => cases hsess.symm.trans hy
      next z hz =>
        cases hsess.symm.trans hz
        split
        next hj => cases hline.symm.trans hj
        next => rfl
    · rw [hsend]
      refine congrArg Host.Outcome.next ?_
      have hdest : telemDest u x.dest = telemDest s x.dest := by
        unfold telemDest
        split
        · rw [cfg_of (s := s) (t := u) rfl rfl]
        · rfl
      unfold sendTelem
      split
      next hy => cases hsess.symm.trans hy
      next z hz =>
        cases hsess.symm.trans hz
        split
        next => rw [hdest]
        next hj => cases hline.symm.trans hj

/-- Settles O51: urgent commands, keys and the periods of subscriptions. -/
theorem urgentCommandsKeysAndPeriods : Obligations.UrgentCommandsKeysAndPeriods :=
  ⟨⟨fun _ _ _ _ _ => urgent_spec, fun _ _ _ => hushed_spec⟩,
    fun _ _ _ _ hs => ⟨(levelKey_spec hs).1, (levelKey_spec hs).2.1, (levelKey_spec hs).2.2.1, (levelKey_spec hs).2.2.2, imageKey_spec hs⟩,
    subscriptionPeriod_spec⟩

end Sys2Proof.Machine
end

section
/-! PROOFS. Ethernet, CAN FD and SMBus, and the order in which a line sends (R337 to R340, R347). -/
namespace Sys2Proof.Machine

/-! ### Ethernet (R337, R338) -/

/-- The state after a frame was seen at a port: its buckets are filled up to now. -/
def frameSeen (s : State) (e us : Nat) : State := { s with net := { s.net with
  ethUp := tput s.net.ethUp e true
  urgTokens := tput s.net.urgTokens e (fill 1000 16 (tget 16 s.net.urgTokens e) us)
  tokens := tput s.net.tokens e (fill 50000 256 (tget 256 s.net.tokens e) us) } }

/-- What a port does with a frame that it takes (R338). -/
def frameServed (s : State) (e : Nat) (urgent ours : Bool) (rdp : List Byte) (m : InMsg) : State :=
  if urgent && ours && leAt rdp 1 1 == 0x30 then
    if tget 0 s.net.urgTokens e < 1 then plainFrame { s with net := { s.net with urgLimited := s.net.urgLimited + 1 } } e true m
    else
      let s := { s with net := { s.net with
        urgTokens := tput s.net.urgTokens e (tget 0 s.net.urgTokens e - 1), urgRx := count64Of s.net.urgRx e } }
      match m.req with
      | .urgent c a => respond s m c a
      | _ => if responderRuns s then discard s else s
  else plainFrame s e ours m

theorem exec_ethernetFrame (e : Fin 2) (size : Nat) (fragment : Bool) (vlan : Option Nat) (pcp : Nat) (udp : UdpPorts) (mac : Bool)
    (us : Nat) (rdp : List Byte) (s : State) : exec (.ethernetFrame e size fragment vlan pcp udp mac us rdp) s
      = .next (if inReset s || s.boot.coldP0 then s
        else if !frameTaken (frameSeen s e us) e size fragment vlan then frameSeen s e us
        else frameServed (frameSeen s e us) e (vlan.isSome && pcp == 7) (decide (udp.dst = cfg (frameSeen s e us) (0x1101 + e) 10)) rdp
          (parseMsg (.eth e udp.src (if vlan.isSome then pcp else 0)) mac rdp)) := rfl

theorem cfg_frameSeen (s : State) (e us ix sub : Nat) : cfg (frameSeen s e us) ix sub = cfg s ix sub := cfg_of rfl rfl _ _

theorem frameTaken_iff {s : State} {e size : Nat} {fragment : Bool} {vlan : Option Nat} : frameTaken s e size fragment vlan = true
    ↔ fragment = false ∧ size ≤ 1522 ∧ (cfg s (0x1101 + e) 9 = 0 ∨ vlan = some (cfg s (0x1101 + e) 9)) := by
  unfold frameTaken
  simp only [Bool.and_eq_true, Bool.not_eq_true', decide_eq_true_eq, Bool.or_eq_true, beq_iff_eq, and_assoc]

theorem plainFrame_spent {s : State} {e : Nat} (rdp : Bool) (m : InMsg) (h : tget 256 s.net.tokens e < 1) :
    plainFrame s e rdp m = { s with net := { s.net with rxDropped := count64Of s.net.rxDropped e } } := if_pos h

theorem plainFrame_room {s : State} {e : Nat} (rdp : Bool) (m : InMsg) (h : ¬tget 256 s.net.tokens e < 1) :
    plainFrame s e rdp m = if rdp
      then receive { s with net := { s.net with tokens := tput s.net.tokens e (tget 256 s.net.tokens e - 1) } } m
      else { s with net := { s.net with tokens := tput s.net.tokens e (tget 256 s.net.tokens e - 1) } } := if_neg h

theorem ethernet_spec (s : State) (e : Fin 2) (size : Nat) (fragment : Bool) (vlan : Option Nat) (pcp : Nat) (udp : UdpPorts) (mac : Bool)
    (us : Nat) (rdp : List Byte) :
    let c : Instr := .ethernetFrame e size fragment vlan pcp udp mac us rdp
    let urgFill := rmin 16 (tget 16 s.net.urgTokens e + 1000 * (us : Rat) / 1000000)
    let fill := rmin 256 (tget 256 s.net.tokens e + 50000 * (us : Rat) / 1000000)
    let u : State := { s with net := { s.net with
      ethUp := tput s.net.ethUp e true, urgTokens := tput s.net.urgTokens e urgFill, tokens := tput s.net.tokens e fill } }
    let takes := fragment = false ∧ size ≤ 1522 ∧ (cfg s (0x1101 + e) 9 = 0 ∨ vlan = some (cfg s (0x1101 + e) 9))
    let ours := udp.dst = cfg s (0x1101 + e) 10
    let m := parseMsg (.eth e udp.src (if vlan.isSome then pcp else 0)) mac rdp
    let on := inReset s = false ∧ s.boot.coldP0 = false
    let urgent := vlan ≠ none ∧ pcp = 7 ∧ ours ∧ leAt rdp 1 1 = 0x30
    let spent : State := { u with net := { u.net with tokens := tput u.net.tokens e (fill - 1) } }
    (¬on → exec c s = .next s)
    ∧ (on → ¬takes → exec c s = .next u)
    ∧ (on → takes → ¬urgent → fill < 1 → exec c s = .next { u with net := { u.net with
        rxDropped := tset 0 s.net.rxDropped e ((tget 0 s.net.rxDropped e + 1) % 2 ^ 64) } })
    ∧ (on → takes → ¬urgent → 1 ≤ fill → exec c s = .next (if ours then receive spent m else spent))
    ∧ (on → takes → urgent → urgFill < 1 → 1 ≤ fill →
        exec c s = .next (receive { spent with net := { spent.net with urgLimited := s.net.urgLimited + 1 } } m))
    ∧ (on → takes → urgent → urgFill < 1 → fill < 1 → exec c s = .next { u with net := { u.net with
        urgLimited := s.net.urgLimited + 1,
        rxDropped := tset 0 s.net.rxDropped e ((tget 0 s.net.rxDropped e + 1) % 2 ^ 64) } })
    ∧ (on → takes → urgent → 1 ≤ urgFill →
        let w : State := { u with net := { u.net with
          urgTokens := tput u.net.urgTokens e (urgFill - 1),
          urgRx := tset 0 s.net.urgRx e ((tget 0 s.net.urgRx e + 1) % 2 ^ 64) } }
        (∀ k arg, m.req = .urgent k arg → exec c s = .next (respond w m k arg))
        ∧ ((∀ k arg, m.req ≠ .urgent k arg) → exec c s = .next (if responderRuns s then
            { w with net := { w.net with authFail := s.net.authFail + 1 } } else w))) := by
  intro c urgFill fill u takes ours m on urgent spent
  have hu : frameSeen s e us = u := rfl
  have hexec := exec_ethernetFrame e size fragment vlan pcp udp mac us rdp s
  rw [hu] at hexec
  have hcfg (ix sub : Nat) : cfg u ix sub = cfg s ix sub := cfg_frameSeen s e us ix sub
  have hon : (inReset s || s.boot.coldP0) = true ↔ ¬on := by
    simp only [on, Bool.or_eq_true, not_and_or, Bool.not_eq_false]
  have htakes : (!frameTaken u e size fragment vlan) = true ↔ ¬takes := by
    rw [Bool.not_eq_true', ← Bool.not_eq_true, frameTaken_iff, hcfg]
  have hurgent : (vlan.isSome && pcp == 7 && decide (udp.dst = cfg u (0x1101 + e) 10) && leAt rdp 1 1 == 0x30) = true ↔ urgent := by
    rw [hcfg]
    simp only [urgent, ours, Bool.and_eq_true, beq_iff_eq, decide_eq_true_eq, and_assoc, ne_eq, Option.isSome_iff_ne_none]
  have htokens : tget 256 u.net.tokens e = fill := tget_tput_same ..
  have hurgTokens : tget 0 u.net.urgTokens e = urgFill := tget_tput_same ..
  have hserve {t : State} (h₁ : on) (h₂ : takes)
      (h : frameServed u e (vlan.isSome && pcp == 7) (decide (udp.dst = cfg u (0x1101 + e) 10)) rdp m = t) : exec c s = .next t :=
    hexec.trans (congrArg Host.Outcome.next ((if_neg (not_not.2 h₁ ∘ hon.1)).trans ((if_neg (not_not.2 h₂ ∘ htakes.1)).trans h)))
  have hplain {t : State} (h₁ : on) (h₂ : takes) (hno : ¬urgent) (h : plainFrame u e (decide (udp.dst = cfg u (0x1101 + e) 10)) m = t) :
      exec c s = .next t := hserve h₁ h₂ ((if_neg (hno ∘ hurgent.1)).trans h)
  have hlimited {t : State} (h₁ : on) (h₂ : takes) (hyes : urgent) (hlow : urgFill < 1)
      (h : plainFrame { u with net := { u.net with urgLimited := u.net.urgLimited + 1 } } e true m = t) : exec c s = .next t :=
    hserve h₁ h₂ ((if_pos (hurgent.2 hyes)).trans ((if_pos (by rw [hurgTokens]; exact hlow)).trans h))
  refine ⟨fun h => hexec.trans (congrArg Host.Outcome.next (if_pos (hon.2 h))),
    fun h₁ h₂ => hexec.trans (congrArg Host.Outcome.next ((if_neg (not_not.2 h₁ ∘ hon.1)).trans (if_pos (htakes.2 h₂)))),
    fun h₁ h₂ hno hlow => hplain h₁ h₂ hno (plainFrame_spent _ _ (by rw [htokens]; exact hlow)),
    fun h₁ h₂ hno hroom => hplain h₁ h₂ hno ?_, fun h₁ h₂ hyes hlow hroom => hlimited h₁ h₂ hyes hlow ?_,
    fun h₁ h₂ hyes hlow hspent => hlimited h₁ h₂ hyes hlow (plainFrame_spent _ _ ?_), fun h₁ h₂ hyes hroom => ?_⟩
  · rw [plainFrame_room _ _ (by rw [htokens]; exact not_lt.2 hroom), htokens, hcfg]
    simp only [decide_eq_true_eq]
    rfl
  · rw [plainFrame_room _ _ (by rw [show tget 256 _ _ = fill from htokens]; exact not_lt.2 hroom)]
    rw [show tget 256 _ _ = fill from htokens]
    rfl
  · rw [show tget 256 _ _ = fill from htokens]
    exact hspent
  · intro w
    have hw : { u with net := { u.net with
        urgTokens := tput u.net.urgTokens e (tget 0 u.net.urgTokens e - 1), urgRx := count64Of u.net.urgRx e } } = w := by
      rw [hurgTokens]
      rfl
    have hlane {t : State} (h : (match m.req with
        | .urgent c a => respond w m c a
        | _ => if responderRuns w then discard w else w) = t) : exec c s = .next t := by
      refine hserve h₁ h₂ ((if_pos (hurgent.2 hyes)).trans ((if_neg (by rw [hurgTokens]; exact not_lt.2 hroom)).trans ?_))
      rw [← h, ← hw]
    refine ⟨fun k arg hreq => hlane (by rw [hreq]), fun hreq => hlane ?_⟩
    split
    next k arg h => exact absurd h (hreq k arg)
    next => rfl

/-! ### CAN FD (R339) -/

theorem joinPart_first {flag : Byte} (old : Option CanPart) (data : List Byte) (h₇ : flag.toNat.testBit 7 = true) (h₀ : flag.toNat % 64 = 0) :
    joinPart old flag data = some (⟨1, data⟩, flag.toNat.testBit 6) := (if_pos h₇).trans (if_pos h₀)

theorem joinPart_misnumbered {flag : Byte} (old : Option CanPart) (data : List Byte) (h₇ : flag.toNat.testBit 7 = true) (h₀ : flag.toNat % 64 ≠ 0) :
    joinPart old flag data = none := (if_pos h₇).trans (if_neg h₀)

theorem joinPart_stray {flag : Byte} (data : List Byte) (h₇ : flag.toNat.testBit 7 = false) : joinPart none flag data = none :=
  if_neg (Bool.eq_false_iff.1 h₇)

theorem joinPart_next {flag : Byte} {p : CanPart} (data : List Byte) (h₇ : flag.toNat.testBit 7 = false) (h : flag.toNat % 64 = p.next) :
    joinPart (some p) flag data = some (⟨p.next + 1, p.bytes ++ data⟩, flag.toNat.testBit 6) :=
  (if_neg (Bool.eq_false_iff.1 h₇)).trans (if_pos h)

theorem joinPart_gap {flag : Byte} {p : CanPart} (data : List Byte) (h₇ : flag.toNat.testBit 7 = false) (h : flag.toNat % 64 ≠ p.next) :
    joinPart (some p) flag data = none := (if_neg (Bool.eq_false_iff.1 h₇)).trans (if_neg h)

/-- What a CAN channel does with a segment that it takes. -/
def canJoined (s : State) (c src key : Nat) (mac : Bool) : Option (CanPart × Bool) → State
  | none => { s with net := { s.net with parts := tdel s.net.parts key } }
  | some (p, false) => { s with net := { s.net with parts := tput s.net.parts key p } }
  | some (p, true) => receive { s with net := { s.net with parts := tdel s.net.parts key } } (parseMsg (.can c src) mac (cutMsg p.bytes))

theorem exec_canFdFrame (s : State) (c : Fin 2) (ident : BitVec 29) (flag : Byte) (data : List Byte) (mac : Bool) {src key addr : Nat}
    (hsrc : ident.toNat / 2 ^ 12 % 128 = src) (hkey : c.val * 65536 + src * 16 + ident.toNat / 256 % 16 = key)
    (haddr : ident.toNat / 2 ^ 19 % 128 = addr) : exec (.canFdFrame c ident (flag :: data) mac) s
      = .next (if inReset s || s.boot.coldP0 || cfg s (0x1110 + c) 1 == 0 || decide (addr ≠ cfg s (0x1110 + c) 2) then s
        else canJoined s c src key mac (joinPart (tfind s.net.parts key) flag data)) := by
  rw [← haddr, ← hkey, ← hsrc]
  rfl

theorem exec_canFdFrame_nil (s : State) (c : Fin 2) (ident : BitVec 29) (mac : Bool) : exec (.canFdFrame c ident [] mac) s = .next s :=
  congrArg Host.Outcome.next (ite_self s)

theorem can_spec (s : State) (c : Fin 2) (ident : BitVec 29) (flag : Byte) (data : List Byte) (mac : Bool) :
    let src := ident.toNat / 2 ^ 12 % 128
    let key := c.val * 65536 + src * 16 + ident.toNat / 256 % 16
    let without : State := { s with net := { s.net with parts := tdel s.net.parts key } }
    let ours := inReset s = false ∧ s.boot.coldP0 = false ∧ cfg s (0x1110 + c) 1 ≠ 0
      ∧ ident.toNat / 2 ^ 19 % 128 = cfg s (0x1110 + c) 2
    let last := flag.toNat.testBit 6 = true
    exec (.canFdFrame c ident [] mac) s = .next s
    ∧ (¬ours → exec (.canFdFrame c ident (flag :: data) mac) s = .next s)
    ∧ (ours → flag.toNat.testBit 7 = true → flag.toNat % 64 ≠ 0 → exec (.canFdFrame c ident (flag :: data) mac) s = .next without)
    ∧ (ours → flag.toNat.testBit 7 = true → flag.toNat % 64 = 0 → ¬last →
        exec (.canFdFrame c ident (flag :: data) mac) s = .next { s with net := { s.net with
          parts := tput s.net.parts key ⟨1, data⟩ } })
    ∧ (ours → flag.toNat.testBit 7 = true → flag.toNat % 64 = 0 → last →
        exec (.canFdFrame c ident (flag :: data) mac) s = .next (receive without (parseMsg (.can c src) mac (cutMsg data))))
    ∧ (ours → flag.toNat.testBit 7 = false → tfind s.net.parts key = none →
        exec (.canFdFrame c ident (flag :: data) mac) s = .next without)
    ∧ (∀ p, ours → flag.toNat.testBit 7 = false → tfind s.net.parts key = some p →
        (flag.toNat % 64 ≠ p.next → exec (.canFdFrame c ident (flag :: data) mac) s = .next without)
        ∧ (flag.toNat % 64 = p.next → ¬last → exec (.canFdFrame c ident (flag :: data) mac) s = .next { s with
            net := { s.net with parts := tput s.net.parts key ⟨p.next + 1, p.bytes ++ data⟩ } })
        ∧ (flag.toNat % 64 = p.next → last → exec (.canFdFrame c ident (flag :: data) mac) s
            = .next (receive without (parseMsg (.can c src) mac (cutMsg (p.bytes ++ data)))))) := by
  intro src key without ours last
  have hexec := exec_canFdFrame s c ident flag data mac (src := src) (key := key) rfl rfl rfl
  have hours : (inReset s || s.boot.coldP0 || cfg s (0x1110 + c) 1 == 0 || decide (ident.toNat / 2 ^ 19 % 128 ≠ cfg s (0x1110 + c) 2)) = true
      ↔ ¬ours := by
    simp only [ours, Bool.or_eq_true, beq_iff_eq, decide_eq_true_eq, not_and_or, Bool.not_eq_false, not_not, ne_eq, or_assoc]
  have htaken {r : Option (CanPart × Bool)} (h : ours) (hj : joinPart (tfind s.net.parts key) flag data = r) :
      exec (.canFdFrame c ident (flag :: data) mac) s = .next (canJoined s c src key mac r) := by
    rw [← hj]
    exact hexec.trans (congrArg Host.Outcome.next (if_neg (not_not.2 h ∘ hours.1)))
  have hmore {p : CanPart} (h : ours) (hlast : ¬last) (hj : joinPart (tfind s.net.parts key) flag data = some (p, flag.toNat.testBit 6)) :
      exec (.canFdFrame c ident (flag :: data) mac) s = .next { s with net := { s.net with parts := tput s.net.parts key p } } := by
    rw [Bool.eq_false_iff.2 hlast] at hj
    exact htaken h hj
  have hwhole {k : Nat} {l : List Byte} (h : ours) (hlast : last)
      (hj : joinPart (tfind s.net.parts key) flag data = some (⟨k, l⟩, flag.toNat.testBit 6)) :
      exec (.canFdFrame c ident (flag :: data) mac) s = .next (receive without (parseMsg (.can c src) mac (cutMsg l))) := by
    rw [show flag.toNat.testBit 6 = true from hlast] at hj
    exact htaken h hj
  refine ⟨exec_canFdFrame_nil .., fun h => hexec.trans (congrArg Host.Outcome.next (if_pos (hours.2 h))),
    fun h h₇ h₀ => htaken h (joinPart_misnumbered _ _ h₇ h₀), fun h h₇ h₀ hlast => hmore h hlast (joinPart_first _ _ h₇ h₀),
    fun h h₇ h₀ hlast => hwhole h hlast (joinPart_first _ _ h₇ h₀), fun h h₇ hp => htaken h (r := none) ?_, fun p h h₇ hp => ⟨fun hne => htaken h (r := none) ?_,
    fun heq hlast => hmore h hlast ?_, fun heq hlast => hwhole (k := p.next + 1) h hlast ?_⟩⟩
  · rw [hp]
    exact joinPart_stray _ h₇
  · rw [hp]
    exact joinPart_gap _ h₇ hne
  · rw [hp]
    exact joinPart_next _ h₇ heq
  · rw [hp]
    exact joinPart_next _ h₇ heq

/-! ### SMBus (R340) -/

/-- What MSG_WRITE does with a segment that it takes. -/
def smbJoined (s : State) (mac : Bool) : Option (CanPart × Bool) → State
  | none => { s with net := { s.net with smbReq := [], smbNext := 0 } }
  | some (p, last) =>
    if 1248 < p.bytes.length then { s with net := { s.net with smbReq := [], smbNext := 0, smbOver := true } }
    else if last then smbRequest { s with net := { s.net with smbOver := false } } (cutMsg p.bytes) mac
    else { s with net := { s.net with smbReq := p.bytes, smbNext := p.next } }

theorem exec_msgWrite (flag : Byte) (data : List Byte) (pec pecOk mac : Bool) (s : State) : exec (.msgWrite flag data pec pecOk mac) s
    = .next (if inReset s || s.boot.coldP0 then s
      else if s.net.smbBusy || (pec && !pecOk) || (!pec && cfg s 0x1118 2 != 0) then { s with net := { s.net with smbNack := true } }
      else smbJoined { s with net := { s.net with smbNack := false } } mac (joinPart
        (if s.net.smbReq.isEmpty then none else some { next := s.net.smbNext, bytes := s.net.smbReq }) flag data)) := rfl

theorem msgWrite_spec {s : State} (hreset : inReset s = false) (hcold : s.boot.coldP0 = false) (flag : Byte) (data : List Byte) (pec pecOk mac : Bool) :
    let c : Instr := .msgWrite flag data pec pecOk mac
    let bad := s.net.smbBusy = true ∨ (pec = true ∧ pecOk = false) ∨ (pec = false ∧ cfg s 0x1118 2 ≠ 0)
    let first := flag.toNat.testBit 7 = true ∧ flag.toNat % 64 = 0
    let next := flag.toNat.testBit 7 = false ∧ s.net.smbReq ≠ [] ∧ flag.toNat % 64 = s.net.smbNext
    let req := if flag.toNat.testBit 7 then data else s.net.smbReq ++ data
    let u : State := { s with net := { s.net with smbNack := false, smbReq := [], smbNext := 0 } }
    (bad → exec c s = .next { s with net := { s.net with smbNack := true } })
    ∧ (¬bad → ¬first → ¬next → exec c s = .next u)
    ∧ (¬bad → first ∨ next → 1248 < req.length → exec c s = .next { u with net := { u.net with smbOver := true } })
    ∧ (¬bad → first ∨ next → req.length ≤ 1248 → flag.toNat.testBit 6 = false → exec c s = .next { s with net := { s.net with
          smbNack := false, smbReq := req, smbNext := if flag.toNat.testBit 7 then 1 else s.net.smbNext + 1 } })
    ∧ (¬bad → first ∨ next → req.length ≤ 1248 → flag.toNat.testBit 6 = true → ∃ t,
        exec c s = .next { t with net := { t.net with smbBusy := decide (s.net.ingress.length < t.net.ingress.length) } }
          ∧ t = receive { u with net := { u.net with smbOver := false, smbReady := false, smbResp := [] } }
            (parseMsg .smb mac (cutMsg req))) := by
  intro c bad first next req u
  have hon : ¬((inReset s || s.boot.coldP0) = true) := by rw [hreset, hcold]; decide
  have hbad : (s.net.smbBusy || (pec && !pecOk) || (!pec && cfg s 0x1118 2 != 0)) = true ↔ bad := by
    simp only [bad, Bool.or_eq_true, Bool.and_eq_true, Bool.not_eq_true', bne_iff_ne, or_assoc]
  have hexec {r : Option (CanPart × Bool)} (h : ¬bad)
      (hr : joinPart (if s.net.smbReq.isEmpty then none else some { next := s.net.smbNext, bytes := s.net.smbReq }) flag data = r) :
      exec c s = .next (smbJoined { s with net := { s.net with smbNack := false } } mac r) := by
    rw [← hr]
    exact congrArg Host.Outcome.next ((if_neg hon).trans (if_neg (h ∘ hbad.1)))
  have hold (h : s.net.smbReq ≠ []) : (if s.net.smbReq.isEmpty then none else some { next := s.net.smbNext, bytes := s.net.smbReq } : Option CanPart)
      = some ⟨s.net.smbNext, s.net.smbReq⟩ := if_neg fun he => h (List.isEmpty_iff.1 he)
  have hjoin (h : first ∨ next) :
      joinPart (if s.net.smbReq.isEmpty then none else some { next := s.net.smbNext, bytes := s.net.smbReq }) flag data
        = some (⟨if flag.toNat.testBit 7 then 1 else s.net.smbNext + 1, req⟩, flag.toNat.testBit 6) := by
    rcases h with ⟨h₇, h₀⟩ | ⟨h₇, hne, heq⟩
    · rw [joinPart_first _ _ h₇ h₀, if_pos h₇, show req = data from if_pos h₇]
    · rw [hold hne, joinPart_next _ h₇ heq, if_neg (Bool.eq_false_iff.1 h₇), show req = s.net.smbReq ++ data from if_neg (Bool.eq_false_iff.1 h₇)]
  refine ⟨fun h => congrArg Host.Outcome.next ((if_neg hon).trans (if_pos (hbad.2 h))), fun h hfirst hnext => hexec (r := none) h ?_,
    fun h hj hlong => (hexec h (hjoin hj)).trans (congrArg Host.Outcome.next (if_pos hlong)),
    fun h hj hshort hmore => (hexec h (hjoin hj)).trans (congrArg Host.Outcome.next
      ((if_neg (not_lt.2 hshort)).trans (if_neg (Bool.eq_false_iff.1 hmore)))),
    fun h hj hshort hlast => ⟨_, (hexec h (hjoin hj)).trans (congrArg Host.Outcome.next ((if_neg (not_lt.2 hshort)).trans (if_pos hlast))), rfl⟩⟩
  cases h₇ : flag.toNat.testBit 7 with
  | true => exact joinPart_misnumbered _ _ h₇ fun h₀ => hfirst ⟨h₇, h₀⟩
  | false =>
    by_cases hne : s.net.smbReq = []
    · rw [hne]
      exact joinPart_stray _ h₇
    · rw [hold hne]
      exact joinPart_gap _ h₇ fun heq => hnext ⟨h₇, hne, heq⟩

theorem msgRead_spec {s : State} (hreset : inReset s = false) (hcold : s.boot.coldP0 = false) :
    (s.net.smbReady = false → exec .msgRead s = .next { s with net := { s.net with smbBlock := [] } })
    ∧ (s.net.smbReady = true →
      let seg := (s.net.smbResp.drop s.net.smbSent).take 254
      let sent := s.net.smbSent + seg.length
      let last := s.net.smbResp.length ≤ sent
      exec .msgRead s = .next { s with net := { s.net with
        smbBlock := BitVec.ofNat 8 ((if s.net.smbSent = 0 then 128 else 0) + (if last then 64 else 0) + s.net.smbSent / 254 % 64)
          :: seg,
        smbSent := sent, smbReady := decide (¬last) } }) := by
  have hon : ¬((inReset s || s.boot.coldP0) = true) := by rw [hreset, hcold]; decide
  refine ⟨fun h => congrArg Host.Outcome.next ((if_neg hon).trans (if_pos (by rw [h]; rfl))), fun h => ?_⟩
  intro seg sent last
  have hbit (p : Prop) [Decidable p] (n : Nat) : b2n (decide p) * n = if p then n else 0 := by
    unfold b2n
    split_ifs <;> simp_all
  have hready : (!decide last) = decide (¬last) := (decide_not ..).symm
  refine congrArg Host.Outcome.next ((if_neg hon).trans ((if_neg (by rw [h]; decide)).trans ?_))
  dsimp only
  rw [show (s.net.smbSent == 0) = decide (s.net.smbSent = 0) from rfl, hbit, hbit, ← hready]

theorem gwStatus_spec {s : State} (hreset : inReset s = false) (hcold : s.boot.coldP0 = false) :
    exec .gwStatus s = .next { s with net := { s.net with smbByte := BitVec.ofNat 8 ((if s.net.smbReady then 1 else 0)
        + 2 * (if s.net.smbBusy then 1 else 0) + 4 * (if s.net.smbOver then 1 else 0)) } } := by
  have hon : ¬((inReset s || s.boot.coldP0) = true) := by rw [hreset, hcold]; decide
  exact congrArg Host.Outcome.next (if_neg hon)

theorem smbus_off {s : State} (h : inReset s = true ∨ s.boot.coldP0 = true) :
    (∀ flag data pec pecOk mac, exec (.msgWrite flag data pec pecOk mac) s = .next s) ∧ exec .msgRead s = .next s
      ∧ exec .gwStatus s = .next s := by
  have hoff : (inReset s || s.boot.coldP0) = true := by
    rw [Bool.or_eq_true]
    exact h
  exact ⟨fun _ _ _ _ _ => congrArg Host.Outcome.next (if_pos hoff), congrArg Host.Outcome.next (if_pos hoff), congrArg Host.Outcome.next (if_pos hoff)⟩

/-! ### The order of sending (R347) -/

theorem sendReply_spec (s : State) (r : Reply) :
    let joined (l : Line) : Line := if r.kind = 0xB0 then { l with urg := l.urg ++ [r] }
      else if r.kind = 0x21 then { l with tel := l.tel ++ [r] } else { l with resp := l.resp ++ [r] }
    (s.boot.highZ = true → sendReply s r = s)
    ∧ (s.boot.highZ = false → r.dest = .host → sendReply s r = { s with net := { s.net with out := s.net.out ++ [r] } })
    ∧ (s.boot.highZ = false → r.dest = .smb → sendReply s r = { s with net := { s.net with
        out := s.net.out ++ [r], smbResp := replyBytes r, smbSent := 0, smbReady := true } })
    ∧ ∀ k, s.boot.highZ = false → lineOf r.dest = some k →
      (domainRuns s = false → sendReply s r = { s with net := { s.net with out := s.net.out ++ [r] } })
      ∧ (domainRuns s = true → 0 < (line s k).busy → sendReply s r = setLine s k (joined (line s k))) := by
  intro joined
  refine ⟨fun h => if_pos h, fun h hd => ?_, fun h hd => ?_, fun k h hk => ?_⟩
  · rw [sendReply_host s hd]
    exact if_neg (Bool.eq_false_iff.1 h)
  · unfold sendReply
    rw [if_neg (Bool.eq_false_iff.1 h), hd]
    rfl
  · have hsend : sendReply s r = lineSend s k r := by
      unfold sendReply
      rw [if_neg (Bool.eq_false_iff.1 h), hk]
    rw [hsend]
    refine ⟨fun hstop => if_pos (by rw [hstop]; rfl), fun hruns hbusy => ?_⟩
    have hline : lineSend s k r = linePump (lineLoad (joined (line s k)) + 1) (setLine s k (joined (line s k))) k :=
      if_neg (by rw [hruns]; decide)
    have hjoined : (joined (line s k)).busy = (line s k).busy := by
      unfold joined
      split_ifs <;> rfl
    rw [hline, linePump_busy _ (by rw [line_setLine, hjoined]; exact hbusy)]

theorem linePump_order (s : State) (k fuel : Nat) : let l := line s k
    l.busy ≤ 0 →
    (∀ r l', l.urg = r :: l' → linePump (fuel + 1) s k = linePump fuel (lineStart s k { l with urg := l' } r) k)
    ∧ (∀ r l', l.urg = [] → l.resp = r :: l' → linePump (fuel + 1) s k = linePump fuel (lineStart s k { l with resp := l' } r) k)
    ∧ (∀ r l', l.urg = [] → l.resp = [] → l.tel = r :: l' → s.net.hushed = true →
        linePump (fuel + 1) s k = setLine s k { l with busy := 0, tel := [] })
    ∧ ∀ r l' x, l.urg = [] → l.resp = [] → l.tel = r :: l' → s.net.hushed = false → tfind s.net.sessions r.session = some x →
      (l.tokens < telemNeed k r → linePump (fuel + 1) s k = setLine s k { l with busy := 0 })
      ∧ (telemNeed k r ≤ l.tokens → linePump (fuel + 1) s k = linePump fuel (lineStart { s with net := { s.net with
            sessions := tput s.net.sessions r.session { x with outSeq := x.outSeq + 1 } } } k
          { l with tel := l', tokens := l.tokens - (wireBytes k r : Nat) } { r with seq := x.outSeq + 1 }) k) := by
  intro l hfree
  refine ⟨fun r l' hurg => ?_, fun r l' hurg hresp => ?_, fun r l' hurg hresp htel hush => ?_, fun r l' x hurg hresp htel hush hx => ⟨fun hlow => ?_, fun hroom => ?_⟩⟩
  · rw [linePump, if_neg (not_lt.2 hfree), hurg]
  · rw [linePump, if_neg (not_lt.2 hfree), hurg, hresp]
  · rw [linePump, if_neg (not_lt.2 hfree), hurg, hresp, htel]
    exact if_pos hush
  · rw [linePump, if_neg (not_lt.2 hfree), hurg, hresp, htel]
    dsimp only
    rw [if_neg (Bool.eq_false_iff.1 hush), hx]
    exact if_pos hlow
  · rw [linePump, if_neg (not_lt.2 hfree), hurg, hresp, htel]
    dsimp only
    rw [if_neg (Bool.eq_false_iff.1 hush), hx]
    exact if_neg (not_lt.2 hroom)

/-- Settles O52: Ethernet frames, CAN segments, SMBus messages and the order of sending. -/
theorem interfacesDeliverWholeMessages : Obligations.InterfacesDeliverWholeMessages :=
  ⟨ethernet_spec, can_spec, fun _ _ _ _ => rfl, fun _ => smbus_off,
    fun _ hreset hcold => ⟨msgWrite_spec hreset hcold, (msgRead_spec hreset hcold).1, (msgRead_spec hreset hcold).2, gwStatus_spec hreset hcold⟩,
    sendReply_spec, linePump_order⟩

end Sys2Proof.Machine
end

section
/-! PROOFS. Trace windows and the freeze (R373 to R376). -/
namespace Sys2Proof.Machine

/-! ### Byte memories as lists of cells -/

/-- In a memory in canonical form a cell of the list is the byte at its address. -/
theorem mget_of_mem {m : Mem} (h : Memory.wf m = true) {c : Host.Cell} (hc : c ∈ m) : mget m c.1 = c.2 := by
  have hsorted := ((wf_iff m).1 h).1
  clear h
  induction m with
  | nil => cases hc
  | cons d m ih =>
    obtain ⟨hd, hm⟩ := List.pairwise_cons.1 hsorted
    unfold mget tget
    rw [tfind]
    rcases List.mem_cons.1 hc with rfl | hc
    · rw [if_pos rfl]
      rfl
    · rw [if_neg (hd c hc).ne]
      exact ih hc hm

theorem mget_absent {m : Mem} {a : Nat} (h : ∀ c ∈ m, c.1 ≠ a) : mget m a = 0 := by
  unfold mget tget
  by_contra hne
  cases ha : tfind m a with
  | none => exact hne (by rw [ha]; rfl)
  | some b => exact h _ (mem_of_tfind ha) rfl

/-- Bytes written one after the other, of which those for one address agree. -/
theorem mget_fold_mset (l : List Host.Cell) (x : Nat) (v : Byte) : ∀ m : Mem, (∀ c ∈ l, c.1 = x → c.2 = v) →
    ((∃ c ∈ l, c.1 = x) → mget (l.foldl (fun m c => mset m c.1 c.2) m) x = v)
    ∧ ((∀ c ∈ l, c.1 ≠ x) → mget (l.foldl (fun m c => mset m c.1 c.2) m) x = mget m x) := by
  induction l with
  | nil => exact fun m _ => ⟨fun ⟨_, h, _⟩ => absurd h List.not_mem_nil, fun _ => rfl⟩
  | cons d l ih =>
    intro m hval
    obtain ⟨hin, hout⟩ := ih (mset m d.1 d.2) fun c hc => hval c (List.mem_cons_of_mem _ hc)
    rw [List.foldl_cons]
    refine ⟨fun hex => ?_, fun hno => ?_⟩
    · by_cases hlater : ∃ c ∈ l, c.1 = x
      · exact hin hlater
      · obtain ⟨c, hc, hcx⟩ := hex
        rcases List.mem_cons.1 hc with rfl | hc
        · rw [hout fun e he hex => hlater ⟨e, he, hex⟩, ← hcx, mget_mset_same]
          exact hval c List.mem_cons_self hcx
        · exact absurd ⟨c, hc, hcx⟩ hlater
    · rw [hout fun c hc => hno c (List.mem_cons_of_mem _ hc), mget_mset_other _ _ _ _ (hno d List.mem_cons_self).symm]

theorem mget_mclear (m : Mem) (lo hi a : Nat) : mget (mclear m lo hi) a = if a < lo ∨ hi ≤ a then mget m a else 0 := by
  unfold mget tget mclear
  rw [tfind_filter (fun k => k < lo || hi ≤ k)]
  simp only [Bool.or_eq_true, decide_eq_true_eq]
  split_ifs <;> rfl

/-! ### The copy of a window (R374) -/

/-- The place in the slot at `a` of a cell of the trace ring, where it belongs to the window. -/
def windowCell (first len a : Nat) (c : Host.Cell) : Option Host.Cell :=
  if (c.1 / traceRow + 512 - first % 512) % 512 < len
  then some (a + (c.1 / traceRow + 512 - first % 512) % 512 * traceRow + c.1 % traceRow, c.2) else none

/-- The memory after the copy of the window that begins in round `first`. -/
def windowCopied (m trace : Mem) (first len a : Nat) : Mem :=
  (trace.filterMap (windowCell first len a)).foldl (fun m c => mset m c.1 c.2) (mclear m a (a + len * traceRow))

theorem windowCell_inside {first len a : Nat} {c d : Host.Cell} (h : windowCell first len a c = some d) : a ≤ d.1 ∧ d.1 < a + len * 4096 := by
  unfold windowCell traceRow at h
  split_ifs at h with hlt
  cases h
  have := Nat.mod_lt c.1 (show 0 < 4096 by decide)
  dsimp only
  omega

theorem windowCopied_outside (m trace : Mem) (first len a : Nat) : SameOutside m (windowCopied m trace first len a) a (len * 4096) := by
  intro x hx
  have hout : ∀ c ∈ trace.filterMap (windowCell first len a), c.1 ≠ x := by
    intro c hc
    obtain ⟨d, -, hd⟩ := List.mem_filterMap.1 hc
    have := windowCell_inside hd
    omega
  unfold windowCopied
  rw [(mget_fold_mset _ x 0 _ fun c hc hcx => absurd hcx (hout c hc)).2 hout, mget_mclear]
  exact if_pos hx

/-- Which cell of the ring comes to a place of the slot. -/
theorem windowCell_place {first len a idx i : Nat} {c : Host.Cell} (hc : c.1 < 512 * 4096) (hidx : idx < len) (hlen : len ≤ 512) (hi : i < 4096) :
    (∃ d, windowCell first len a c = some d ∧ d.1 = a + idx * 4096 + i) ↔ c.1 = (first + idx) % 512 * 4096 + i := by
  unfold windowCell traceRow
  constructor
  · rintro ⟨d, hd, hx⟩
    split_ifs at hd
    cases hd
    dsimp only at hx
    omega
  · intro h
    have hrow : (c.1 / 4096 + 512 - first % 512) % 512 = idx := by omega
    have hoff : c.1 % 4096 = i := by omega
    rw [hrow, hoff, if_pos hidx]
    exact ⟨_, rfl, rfl⟩

theorem windowCell_value {first len a : Nat} {c d : Host.Cell} (h : windowCell first len a c = some d) : d.2 = c.2 := by
  unfold windowCell at h
  split_ifs at h
  cases h
  rfl

theorem windowCopied_inside {m trace : Mem} {first len a idx i : Nat} (hwf : Memory.wf trace = true) (hring : ∀ c ∈ trace, c.1 < 512 * 4096)
    (hlen : len ≤ 512) (hidx : idx < len) (hi : i < 4096) :
    mget (windowCopied m trace first len a) (a + idx * 4096 + i) = mget trace ((first + idx) % 512 * 4096 + i) := by
  have hplace {c : Host.Cell} (hc : c ∈ trace) := windowCell_place (first := first) (a := a) (hring c hc) hidx hlen hi
  have hval : ∀ d ∈ trace.filterMap (windowCell first len a), d.1 = a + idx * 4096 + i → d.2 = mget trace ((first + idx) % 512 * 4096 + i) := by
    intro d hd hx
    obtain ⟨c, hc, hcd⟩ := List.mem_filterMap.1 hd
    rw [windowCell_value hcd, ← (hplace hc).1 ⟨d, hcd, hx⟩]
    exact (mget_of_mem hwf hc).symm
  obtain ⟨hin, hout⟩ := mget_fold_mset _ _ _ (mclear m a (a + len * traceRow)) hval
  unfold windowCopied
  by_cases hex : ∃ d ∈ trace.filterMap (windowCell first len a), d.1 = a + idx * 4096 + i
  · exact hin hex
  · have hno (c : Host.Cell) (hc : c ∈ trace) : c.1 ≠ (first + idx) % 512 * 4096 + i := fun h => by
      obtain ⟨d, hd, hx⟩ := (hplace hc).2 h
      exact hex ⟨d, List.mem_filterMap.2 ⟨c, hc, hd⟩, hx⟩
    rw [hout fun d hd hx => hex ⟨d, hd, hx⟩, mget_mclear, mget_absent hno]
    refine if_neg ?_
    unfold traceRow
    omega

theorem takeToken_window (s : State) (code : Nat) : let r := (takeToken s code).1
    r.traceState = s.recorder.traceState ∧ r.slots = s.recorder.slots ∧ r.slotAge = s.recorder.slotAge ∧ r.slotFirst = s.recorder.slotFirst := by
  unfold takeToken
  dsimp only
  split
  · exact ⟨rfl, rfl, rfl, rfl⟩
  · split_ifs <;> exact ⟨rfl, rfl, rfl, rfl⟩

/-- A record leaves the trace windows alone. -/
theorem addRecord_window (s : State) (code : Nat) (round : Word) (data : List Byte) : let r := (addRecord s code round data).recorder
    r.traceState = s.recorder.traceState ∧ r.slots = s.recorder.slots ∧ r.slotAge = s.recorder.slotAge ∧ r.slotFirst = s.recorder.slotFirst := by
  have htoken : let r := (if critical code then (s.recorder, true) else takeToken s code).1
      r.traceState = s.recorder.traceState ∧ r.slots = s.recorder.slots ∧ r.slotAge = s.recorder.slotAge ∧ r.slotFirst = s.recorder.slotFirst := by
    split_ifs
    · exact ⟨rfl, rfl, rfl, rfl⟩
    · exact takeToken_window s code
  unfold addRecord
  generalize (if critical code = true then (s.recorder, true) else takeToken s code) = q at htoken ⊢
  obtain ⟨r, ok⟩ := q
  dsimp only
  split_ifs <;> exact htoken

/-- The state in which TRACE_SAVED is recorded. -/
def windowSaved (s : State) : State :=
  let k := nextSlot s.recorder
  let first := s.recorder.lastRound - BitVec.ofNat 32 (s.recorder.lenNow - 1)
  { s with
    mram := windowCopied s.mram s.recorder.trace first.toNat s.recorder.lenNow (slotAddr s.recorder.lenNow k)
    recorder := { s.recorder with
      traceState := 0, slots := if s.recorder.slots.contains k then s.recorder.slots else s.recorder.slots ++ [k],
      slotAge := (s.recorder.slotAge.filter fun j => j != k) ++ [k], slotFirst := tput s.recorder.slotFirst k first } }

theorem traceCopyNow_eq (s : State) : let k := nextSlot s.recorder
    let first := s.recorder.lastRound - BitVec.ofNat 32 (s.recorder.lenNow - 1)
    traceCopyNow s = addRecord (windowSaved s) 0x0060 s.wheel.round
      (leBytes 1 k ++ wordBytes first ++ wordBytes s.recorder.trigRound ++ leBytes 1 s.recorder.trigSrc) := rfl

theorem traceCopy_spec (s : State) : let t := traceCopyNow s
    t = { s with mram := t.mram, recorder := t.recorder }
    ∧ let k := nextSlot s.recorder
      let len := s.recorder.lenNow
      let first := s.recorder.lastRound - BitVec.ofNat 32 (len - 1)
      t.recorder.traceState = 0 ∧ k ∈ t.recorder.slots ∧ (∀ j, j ≠ k → (j ∈ t.recorder.slots ↔ j ∈ s.recorder.slots))
      ∧ tfind t.recorder.slotFirst k = some first ∧ t.recorder.slotAge.getLast? = some k
      ∧ t.mram = windowCopied s.mram s.recorder.trace first.toNat len (slotAddr len k) := by
  intro t
  have ht : t = addRecord (windowSaved s) 0x0060 s.wheel.round _ := traceCopyNow_eq s
  generalize leBytes 1 _ ++ _ ++ _ ++ _ = data at ht
  obtain ⟨hstate, hslots, hage, hfirst⟩ := addRecord_window (windowSaved s) 0x0060 s.wheel.round data
  obtain ⟨r, hr⟩ := addRecord_frame (windowSaved s) 0x0060 s.wheel.round data
  rw [← ht] at hstate hslots hage hfirst hr
  refine ⟨?_, hstate, ?_, fun j hj => ?_, ?_, ?_, ?_⟩
  · rw [hr]
    rfl
  · rw [hslots]
    show _ ∈ (if _ then _ else _)
    split_ifs with h
    · exact List.contains_iff_mem.1 h
    · exact List.mem_append_right _ List.mem_cons_self
  · rw [hslots]
    show _ ∈ (if _ then _ else _) ↔ _
    split_ifs
    · exact Iff.rfl
    · rw [List.mem_append, List.mem_singleton, or_iff_left hj]
  · rw [hfirst]
    exact tfind_tput_same ..
  · rw [hage]
    exact List.getLast?_concat
  · rw [hr]
    rfl

/-! ### Triggers, RELEASE and the freeze (R373, R374, R376) -/

theorem traceNow_spec {s : State} {lvl : Level} {v : Byte} (hadm : Admits s lvl 0x2810 5 v.toNat) :
    let full := slotCount s.recorder.lenNow ≤ s.recorder.slots.length ∧ cfg s 0x2810 6 = 0
    (v = 0 ∨ (cfg s 0x2810 4).testBit 3 = false → exec (.traceNow lvl v) s = .next (answered s stOK))
    ∧ (v ≠ 0 → (cfg s 0x2810 4).testBit 3 = true → s.recorder.traceState ≠ 0 ∨ full →
        exec (.traceNow lvl v) s = .next { answered s stOK with recorder := { s.recorder with
          missed := if s.recorder.missed = 0xFFFFFFFF then s.recorder.missed else s.recorder.missed + 1,
          sticky := s.recorder.sticky ||| 0x40 } })
    ∧ (v ≠ 0 → (cfg s 0x2810 4).testBit 3 = true → s.recorder.traceState = 0 → ¬full →
        exec (.traceNow lvl v) s = .next { answered s stOK with recorder := { s.recorder with
          traceState := 1, trigRound := s.wheel.round, trigSrc := 3, postLeft := cfg s 0x2810 3 + 1 } }) := by
  intro full
  have hexec := exec_admitted (c := .traceNow lvl v) rfl hadm
  have heff : effect (taken s) 0x2810 5 v.toNat = traceNowWrite (taken s) v.toNat := rfl
  rw [dropReserved_low (by decide) (by decide) (by decide) (by decide), heff] at hexec
  have hcfg (ix sub : Nat) : cfg (taken s) ix sub = cfg s ix sub := cfg_of rfl rfl _ _
  have hv : v.toNat = 0 ↔ v = 0 := by rw [BitVec.toNat_eq]; rfl
  have hwrite {r : Nat × State} (h : traceNowWrite (taken s) v.toNat = r) : exec (.traceNow lvl v) s = .next (withStatus r.2 r.1) := by
    rw [hexec, h]
  have hclosed : ((taken s).recorder.traceState != 0 || (decide (slotCount (taken s).recorder.lenNow ≤ (taken s).recorder.slots.length)
      && cfg (taken s) 0x2810 6 == 0)) = true ↔ s.recorder.traceState ≠ 0 ∨ full := by
    rw [hcfg]
    simp only [full, Bool.or_eq_true, Bool.and_eq_true, bne_iff_ne, beq_iff_eq, decide_eq_true_eq]
    rfl
  have htrigger {t : State} (h0 : v ≠ 0) (h : trigger (taken s) 3 = t) : exec (.traceNow lvl v) s = .next (withStatus t stOK) :=
    hwrite ((if_neg (h0 ∘ hv.1)).trans (by rw [h]))
  refine ⟨fun h => ?_, fun h0 hon hbusy => ?_, fun h0 hon hfree hroom => ?_⟩
  · by_cases h0 : v = 0
    · exact hwrite (if_pos (hv.2 h0))
    · refine htrigger h0 (if_pos ?_)
      rw [hcfg, h.resolve_left h0]
      rfl
  · have henabled : ¬(!(cfg (taken s) 0x2810 4).testBit 3) = true := by rw [hcfg, hon]; decide
    exact htrigger h0 ((if_neg henabled).trans (if_pos (hclosed.2 hbusy)))
  · have henabled : ¬(!(cfg (taken s) 0x2810 4).testBit 3) = true := by rw [hcfg, hon]; decide
    have hopen : ¬(s.recorder.traceState ≠ 0 ∨ full) := not_or.2 ⟨not_not.2 hfree, hroom⟩
    rw [htrigger h0 ((if_neg henabled).trans (if_neg (hopen ∘ hclosed.1))), hcfg]
    rfl

theorem release_spec {s : State} {lvl : Level} {v : Byte} (hadm : Admits s lvl 0x2810 8 v.toNat) :
    (slotCount s.recorder.lenNow ≤ v.toNat → exec (.release lvl v) s = .next (answered s stRange))
    ∧ (v.toNat < slotCount s.recorder.lenNow → exec (.release lvl v) s = .next { answered s stOK with
        recorder := { s.recorder with
          slots := s.recorder.slots.filter fun k => k != v.toNat,
          slotAge := s.recorder.slotAge.filter fun k => k != v.toNat } }) := by
  have hexec := exec_admitted (c := .release lvl v) rfl hadm
  have heff : effect (taken s) 0x2810 8 v.toNat = releaseWrite (taken s) v.toNat := rfl
  rw [dropReserved_low (by decide) (by decide) (by decide) (by decide), heff] at hexec
  have hwrite {r : Nat × State} (h : releaseWrite (taken s) v.toNat = r) : exec (.release lvl v) s = .next (withStatus r.2 r.1) := by
    rw [hexec, h]
  exact ⟨fun h => hwrite (if_pos h), fun h => hwrite (if_neg (not_le.2 h))⟩

/-- Whether a freeze begins. -/
theorem freezeStart_spec (s : State) (src : Nat) : let runs := s.boot.freezing = 0 ∧ s.boot.frozen = false ∧ s.boot.recovery = false
    (runs → freezeStart s src = { s with boot := { s.boot with freezing := 1, freezeSrc := src } }) ∧ (¬runs → freezeStart s src = s) := by
  intro runs
  have hruns : (s.boot.freezing != 0 || s.boot.frozen || s.boot.recovery) = true ↔ ¬runs := by
    simp only [runs, Bool.or_eq_true, bne_iff_ne, not_and_or, Bool.not_eq_false, or_assoc, ne_eq]
  exact ⟨fun h => if_neg (not_not.2 h ∘ hruns.1), fun h => if_pos (hruns.2 h)⟩

theorem freeze_spec {s : State} {lvl : Level} {v : Byte} (hadm : Admits s lvl 0x2820 1 v.toNat) :
    let runs := s.boot.freezing = 0 ∧ s.boot.recovery = false
    (v ≠ 0 → runs → exec (.freeze lvl v) s = .next { answered s stOK with boot := { s.boot with freezing := 1, freezeSrc := 1 } })
    ∧ (v = 0 ∨ ¬runs → exec (.freeze lvl v) s = .next (answered s stOK)) := by
  intro runs
  have hthaw : s.boot.frozen = false := hadm.1.2
  have hexec := exec_admitted (c := .freeze lvl v) rfl hadm
  have heff : effect (taken s) 0x2820 1 v.toNat = freezeWrite (taken s) v.toNat := rfl
  rw [dropReserved_low (by decide) (by decide) (by decide) (by decide), heff] at hexec
  have hv : v.toNat = 0 ↔ v = 0 := by rw [BitVec.toNat_eq]; rfl
  obtain ⟨hstart, hstay⟩ := freezeStart_spec (taken s) 1
  have hwrite {r : Nat × State} (h : freezeWrite (taken s) v.toNat = r) : exec (.freeze lvl v) s = .next (withStatus r.2 r.1) := by
    rw [hexec, h]
  have hfreeze {t : State} (h0 : v ≠ 0) (h : freezeStart (taken s) 1 = t) : exec (.freeze lvl v) s = .next (withStatus t stOK) :=
    hwrite ((if_neg (h0 ∘ hv.1)).trans (by rw [h]))
  refine ⟨fun h0 h => hfreeze h0 (hstart ⟨h.1, hthaw, h.2⟩), fun h => ?_⟩
  by_cases h0 : v = 0
  · exact hwrite (if_pos (hv.2 h0))
  · exact hfreeze h0 (hstay fun hruns => h.resolve_left h0 ⟨hruns.1, hruns.2.2⟩)

/-- Settles O54: the hold and the copy of a trace window, TRACE_NOW, RELEASE, FREEZE_N and FREEZE. -/
theorem traceWindowsAndFreeze : Obligations.TraceWindowsAndFreeze := by
  refine ⟨fun s => ⟨fun h => congrArg Host.Outcome.next (if_pos ?_), fun h => congrArg Host.Outcome.next (if_neg ?_),
    fun h => congrArg Host.Outcome.next (if_neg ?_), fun h hruns => ?_⟩, fun _ _ _ => traceNow_spec, fun _ _ _ => release_spec, fun s => ⟨fun h => ?_, fun h => ?_, rfl⟩,
    fun _ _ _ => freeze_spec⟩
  · unfold traceHoldDue
    rw [h.1, h.2]
    rfl
  · unfold traceHoldDue
    rw [Bool.and_eq_true, beq_iff_eq, beq_iff_eq]
    exact h
  · rw [Bool.and_eq_true, beq_iff_eq]
    exact h
  · obtain ⟨hframe, hstate, hin, hother, hfirst, hage, hmem⟩ := traceCopy_spec s
    refine ⟨traceCopyNow s, congrArg Host.Outcome.next (if_pos (by rw [h, hruns]; rfl)), hframe, hstate, hin, hother, hfirst, hage, ?_, ?_⟩
    · rw [hmem]
      exact windowCopied_outside _ _ _ _ _
    · intro hwf hring hlen idx i hidx hi
      rw [hmem]
      exact windowCopied_inside hwf hring hlen hidx hi
  · exact congrArg Host.Outcome.next ((freezeStart_spec s 0).1 h)
  · exact congrArg Host.Outcome.next ((freezeStart_spec s 0).2 h)

end Sys2Proof.Machine
end

section
/-! PROOFS. Timers and pins (R390 to R395): the counterexample to a read of CAPTURE. -/
namespace Sys2Proof.Machine

/-- A unit that serves, whose running pattern declares a parameter of a domain type under the index of timer 0's CAPTURE, as nothing
in the model's state excludes. -/
def captureShadowed : State := { State.reset with
  boot := { State.reset.boot with collarUp := true, coldP0 := false }
  pat := { State.reset.pat with run := { State.reset.pat.run with
    params := [{ index := 0x2940, sub := 6, ty := 12, service := false, lo := 0, hi := 0, dflt := 0, targets := [] }] } } }

/-- The row of the parameter hides the timer's own: the read is refused for its type. -/
theorem captureShadowed_type : ∀ t, exec (.capture .operate 0) captureShadowed = .next t → t.net.status = stType := by
  intro t ht
  have hexec : exec (.capture .operate 0) captureShadowed = .next (readObj captureShadowed .operate 0x2940 6) := rfl
  rw [← Host.Outcome.next.inj (hexec.symm.trans ht)]
  decide +kernel

/-- Refutes O56: where the running pattern declares a parameter of a domain type under the index and sub of a timer's CAPTURE, a read of
CAPTURE that has access answers TYPE and not OK. -/
theorem not_timersAndPins : ¬ Obligations.TimersAndPins := by
  rintro ⟨htimers, -⟩
  obtain ⟨-, -, hread, -⟩ := htimers captureShadowed 0
  obtain ⟨hcapture, -⟩ := hread .operate 0 (by decide +kernel)
  obtain ⟨hempty, -⟩ := hcapture (by decide +kernel)
  have hstatus : stOK = stType := captureShadowed_type _ (hempty rfl)
  exact absurd hstatus (by decide)

end Sys2Proof.Machine
end

section
/-! PROOFS. Resets (R406, R421, R425, R434, R441). -/
namespace Sys2Proof.Machine

/-! ### What the recorder keeps in MRAM -/

/-- The parts of a recorder that stand in MRAM are those of another one. -/
def SameMedia (r q : Recorder) : Prop := r.copyA = q.copyA ∧ r.copyB = q.copyB ∧ r.checkpoints = q.checkpoints ∧ r.slots = q.slots

theorem sameMedia_trans {r q p : Recorder} (h : SameMedia r q) (h' : SameMedia q p) : SameMedia r p := by
  obtain ⟨ha, hb, hc, hs⟩ := h
  obtain ⟨ha', hb', hc', hs'⟩ := h'
  exact ⟨ha.trans ha', hb.trans hb', hc.trans hc', hs.trans hs'⟩

theorem takeToken_media (s : State) (code : Nat) : SameMedia (takeToken s code).1 s.recorder := by
  unfold takeToken
  dsimp only
  split
  · exact ⟨rfl, rfl, rfl, rfl⟩
  · split_ifs <;> exact ⟨rfl, rfl, rfl, rfl⟩

theorem addRecord_media (s : State) (code : Nat) (round : Word) (data : List Byte) :
    SameMedia (addRecord s code round data).recorder s.recorder := by
  have htoken : SameMedia (if critical code then (s.recorder, true) else takeToken s code).1 s.recorder := by
    split_ifs
    · exact ⟨rfl, rfl, rfl, rfl⟩
    · exact takeToken_media s code
  unfold addRecord
  generalize (if critical code = true then (s.recorder, true) else takeToken s code) = q at htoken ⊢
  obtain ⟨r, ok⟩ := q
  dsimp only
  split_ifs <;> exact htoken

theorem trigger_media (s : State) (src : Nat) : SameMedia (trigger s src).recorder s.recorder := by
  unfold trigger
  dsimp only
  split_ifs <;> exact ⟨rfl, rfl, rfl, rfl⟩

/-! ### The reset -/

/-- The machine after a reset while KILL_N is high. -/
def resetBase (s : State) (cause mode : Nat) : State :=
  { State.reset with
    pending := s.pending, wheel := { fTick := fNom s, fHold := fNom s, mode := cfg s 0x2001 1 }
    pat := { recordedSlot := s.pat.recordedSlot, paramVals := s.pat.paramVals }, fes := s.fes
    shelf :=
      { packs := s.shelf.packs.map fun x => (x.1, packAtStart x.2), ship := s.shelf.ship, btnLow := s.shelf.btnLow
        btnUsed := s.shelf.btnUsed, sticky := if cause = 2 then s.shelf.sticky &&& 4 else 0
        effIchg := BitVec.ofNat 32 (cfg s 0x26F0 1), effVchg := BitVec.ofNat 32 (cfg s 0x26F0 2) }
    net := { levelKeys := s.net.levelKeys, imageKeys := s.net.imageKeys, labels := s.net.labels, ethUp := s.net.ethUp }
    flow := { State.reset.flow with capPin := s.flow.capPin }, pair := { State.reset.pair with unit := cfg s 0x2201 1 }
    hem := { State.reset.hem with killLow := s.hem.killLow, hemN := false }, recorder := recorderAtStart s
    gpio := { State.reset.gpio with pins := s.gpio.pins }, boot := bootAtStart s cause mode, cfg := cfgAtStart s, mram := s.mram
    draws := s.draws }

theorem resetNow_eq (s : State) (cause mode : Nat) :
    resetNow s cause mode = if s.hem.killLow then raiseCtrl (resetBase s cause mode) 0 else resetBase s cause mode := rfl

/-- A doubt of KILL_N at a machine with no port, no shutdown and no role holds and halts it, and is recorded. -/
theorem raiseCtrl_still {s : State} (hports : s.links = []) (hstop : s.sq.shutdown = false) (hrole : s.pair.role = .out) :
    ∃ x h r, raiseCtrl s 0 = { s with arr := { s.arr with sleeves := x }, hem := h, recorder := r }
      ∧ h.held = true ∧ h.summary = setBit s.hem.summary 0 ∧ SameMedia r s.recorder := by
  unfold raiseCtrl
  dsimp only
  generalize hh : (if (s.hem.summary &&& 31 == 0) = true then _ else _ : Hem) = h
  have hheld : h.held = true ∧ h.summary = setBit s.hem.summary 0 := by
    rw [← hh]
    split_ifs <;> exact ⟨rfl, rfl⟩
  generalize hu : ({ s with hem := h } : State) = u
  obtain ⟨x, hx, -⟩ := halting_frame allSleeves u
  generalize forAll allSleeves (fun s n => updSleeve s n fun x => { x with halting := true }) u = v at hx
  have hv : linkPorts v = [] ∧ v.sq.shutdown = false ∧ v.pair.role = .out ∧ v.recorder = s.recorder := by
    rw [hx, ← hu]
    exact ⟨by rw [linkPorts, hports]; rfl, hstop, hrole, rfl⟩
  obtain ⟨hnone, hquiet, hout, hrec⟩ := hv
  have habandon : abandonShutdown (portsToHem v (linkPorts v)) = v := by
    rw [hnone]
    exact if_neg (Bool.eq_false_iff.1 hquiet)
  rw [habandon]
  have hmedia := sameMedia_trans (trigger_media (addRecord v 0x0010 v.wheel.round ([2] ++ leBytes 2 0 ++ wordBytes h.summary)) 0)
    (addRecord_media v 0x0010 v.wheel.round ([2] ++ leBytes 2 0 ++ wordBytes h.summary))
  obtain ⟨q, hq⟩ := addRecord_frame v 0x0010 v.wheel.round ([2] ++ leBytes 2 0 ++ wordBytes h.summary)
  rw [hq] at hmedia ⊢
  generalize hw : ({ v with recorder := q } : State) = w at hmedia ⊢
  obtain ⟨r, hr⟩ := trigger_frame w 0
  have hpair : pairDoubt (trigger w 0) ((0 : Nat) != 3 && (0 : Nat) != 0) = trigger w 0 := by
    have hrole' : (trigger w 0).pair.role = .out := by
      rw [hr, ← hw]
      exact hout
    unfold pairDoubt
    rw [hrole']
  refine ⟨x, h, r, ?_, hheld.1, hheld.2, ?_⟩
  · rw [hpair, hr, ← hw, hx, ← hu]
  · rw [hr, hrec] at hmedia
    exact hmedia

/-- A reset is that of a machine with KILL_N high, but for the hold, the halted Sleeves and the records of a low KILL_N. -/
theorem resetNow_frame (s : State) (cause mode : Nat) : ∃ x h r, resetNow s cause mode = { resetBase s cause mode with
      arr := { State.reset.arr with sleeves := x }, hem := h, recorder := r }
    ∧ SameMedia r s.recorder
    ∧ (s.hem.killLow = false → x = State.reset.arr.sleeves ∧ h.held = false)
    ∧ (s.hem.killLow = true → h.held = true ∧ hasBit h.summary 0 = true) := by
  rw [resetNow_eq]
  cases hkill : s.hem.killLow with
  | false => exact ⟨_, _, _, rfl, ⟨rfl, rfl, rfl, rfl⟩, fun _ => ⟨rfl, rfl⟩, fun h => nomatch h⟩
  | true =>
    obtain ⟨x, h, r, hraise, hheld, hsum, hmedia⟩ := raiseCtrl_still (s := resetBase s cause mode) rfl rfl rfl
    exact ⟨x, h, r, (if_pos rfl).trans hraise, hmedia, (fun h => nomatch h), fun _ => ⟨hheld, by rw [hsum]; exact hasBit_setBit _ (by decide)⟩⟩

/-! ### MARGIN after a reset (R217) -/

/-- The key is that of a port's MARGIN. -/
def isMargin (k : Nat) : Bool := decide (0x3100 ≤ k / 256) && decide (k / 256 < 0x3200) && k % 256 == 0x10

theorem isMargin_okey {n : Nat} (hn : n < 256) : isMargin (okey (0x3100 + n) 0x10) = true := by
  unfold isMargin okey
  simp only [Bool.and_eq_true, decide_eq_true_eq, beq_iff_eq]
  omega

theorem isMargin_other {k : Nat} (h : ∀ n < 256, k ≠ okey (0x3100 + n) 0x10) : isMargin k = false := by
  rw [Bool.eq_false_iff]
  unfold isMargin
  simp only [Bool.and_eq_true, decide_eq_true_eq, beq_iff_eq, ne_eq]
  rintro ⟨⟨hlo, hhi⟩, hsub⟩
  refine h (k / 256 - 0x3100) (by omega) ?_
  unfold okey
  omega

theorem tfind_cfgAtStart (s : State) (k : Nat) : tfind (cfgAtStart s) k = if isMargin k then none else tfind s.cfg k := by
  unfold cfgAtStart
  rw [show (fun x : Nat × Nat => !(decide (0x3100 ≤ x.1 / 256) && decide (x.1 / 256 < 0x3200) && x.1 % 256 == 0x10)) = fun x => !isMargin x.1 from rfl,
    tfind_filter fun k => !isMargin k]
  cases isMargin k <;> rfl

theorem objDefault_margin : ∀ n < 256, objDefault (0x3100 + n) 0x10 = 0 := by decide +kernel

theorem cfg_margin_reset {s t : State} (h : t.cfg = cfgAtStart s) {n : Nat} (hn : n < 256) : cfg t (0x3100 + n) 0x10 = 0 := by
  have hfind : tfind t.cfg (okey (0x3100 + n) 0x10) = none := by
    rw [h, tfind_cfgAtStart, isMargin_okey hn]
    rfl
  unfold cfg
  rw [hfind]
  dsimp only
  unfold dfltOf
  rw [if_neg (by omega), if_neg (by omega)]
  exact objDefault_margin n hn

theorem hasBit_svc (w : Word) : hasBit (w &&& 4) 2 = hasBit w 2 := by
  have hfour : Nat.testBit 4 2 = true := by decide
  unfold hasBit
  simp [hfour]

/-- Settles O57: what a reset keeps, VAUX_RISE, the internal reset and the TCXO. -/
theorem resetsKeepWhatThePowerKeeps : Obligations.ResetsKeepWhatThePowerKeeps := by
  refine ⟨fun s cause mode => ?_, fun s m => ⟨fun h => ?_, fun h => ?_⟩, fun s => ?_⟩
  · obtain ⟨x, h, r, hreset, ⟨ha, hb, hcp, hsl⟩, hhigh, hlow⟩ := resetNow_frame s cause mode
    rw [hreset]
    refine ⟨rfl, rfl, rfl, rfl, rfl, rfl, rfl, rfl, rfl, rfl, rfl, fun n hn => cfg_margin_reset rfl hn, fun k hk => ?_, ?_, rfl, rfl, rfl, rfl, ha, hb, hcp, hsl,
      rfl, rfl, rfl, rfl, rfl, rfl, rfl, rfl, rfl, rfl, rfl, rfl, fun hkill => ⟨rfl, rfl, ?_, rfl, (hhigh hkill).2⟩, hlow⟩
    · refine (tfind_cfgAtStart s k).trans ?_
      rw [isMargin_other hk]
      rfl
    · show hasBit (if cause = 2 then s.shelf.sticky &&& 4 else 0) 2 = _
      by_cases hc : cause = 2
      · rw [if_pos hc, hasBit_svc, hc]
        rfl
      · rw [if_neg hc, beq_false_of_ne hc]
        rfl
    · rw [(hhigh hkill).1]
  · exact congrArg Host.Outcome.next (if_neg (Bool.eq_false_iff.1 h))
  · exact ⟨_, congrArg Host.Outcome.next (if_pos h), rfl, rfl, rfl⟩
  · obtain ⟨x, h, r, hreset, -⟩ := resetNow_frame s 0 s.boot.bootMode
    have hcycles : (resetNow s 0 s.boot.bootMode).boot.cycles = s.boot.cycles := by
      rw [hreset]
      rfl
    intro v r
    refine ⟨?_, rfl, rfl, rfl⟩
    rw [← hcycles]
    rfl

end Sys2Proof.Machine
end

section
/-! PROOFS. The end of P0, and the restart of the Collar alone (R267, R336, R406, R412, R413, R419, R421, R425 to R427). -/
namespace Sys2Proof.Machine

/-! ### The end of P0 (R336, R406, R412, R421) -/

/-- The held messages are executed by a server that P0 leaves running. -/
theorem collarBootDone_serves {s t : State} (hp : inP0 s = true) (ht : bootDone s = t) (hnet : t.net = s.net) (hruns : serverRuns t = true) :
    exec .collarBootDone s = .next (s.net.ingress.foldl handle { t with net := { s.net with ingress := [], smbBusy := false } }) := by
  have hexec : exec .collarBootDone s = .next (if inP0 s && serverRuns (bootDone s)
      then (bootDone s).net.ingress.foldl handle { bootDone s with net := { (bootDone s).net with ingress := [], smbBusy := false } }
      else bootDone s) := rfl
  rw [hexec, ht, hp, hruns, hnet]
  rfl

theorem collarBootDone_idle {s : State} (hp : inP0 s = false) : exec .collarBootDone s = .next s := by
  have hexec : exec .collarBootDone s = .next (if inP0 s && serverRuns (bootDone s)
      then (bootDone s).net.ingress.foldl handle { bootDone s with net := { (bootDone s).net with ingress := [], smbBusy := false } }
      else bootDone s) := rfl
  have hdone : bootDone s = s := if_pos (by rw [hp]; rfl)
  rw [hexec, hp, hdone]
  rfl

theorem inP0_iff {s : State} : inP0 s = true ↔ inReset s = false ∧ (s.boot.coldP0 = true ∨ s.boot.restarting = true) := by
  unfold inP0
  rw [Bool.and_eq_true, Bool.not_eq_true', Bool.or_eq_true]

/-- The boot state that P0 starts from: a trial that was not confirmed has ended (R419). -/
def p0Boot (s : State) : Boot := if s.boot.coldP0 = true ∧ s.boot.trial = true then
    { s.boot with trial := false, bootSlot := s.boot.confirmed, sticky := s.boot.sticky ||| 4 } else s.boot

theorem revertTrial_p0 (s : State) : (if s.boot.coldP0 then revertTrial s else s) = { s with boot := p0Boot s } := by
  unfold p0Boot revertTrial
  cases hc : s.boot.coldP0 <;> cases ht : s.boot.trial <;> rfl

theorem slotOk_p0 (s : State) (k : Nat) : slotOk { s with boot := p0Boot s } k = slotOk s k := by
  unfold slotOk p0Boot
  split_ifs <;> rfl

theorem inReset_p0 (s : State) : (p0Boot s).internal = s.boot.internal ∧ (p0Boot s).tcxoLost = s.boot.tcxoLost := by
  unfold p0Boot
  split_ifs <;> exact ⟨rfl, rfl⟩

/-- The boot state in which the Collar runs slot k. -/
def slotBoot (b : Boot) (k : Nat) : Boot := { b with
  coldP0 := false, restarting := false, collarUp := true, runningSlot := k, sticky := if k = b.bootSlot then b.sticky else b.sticky ||| 1 }

theorem bootDone_rom {s : State} (hp : inP0 s = true) (hfirst : slotOk s (p0Boot s).bootSlot = false) (hother : slotOk s (1 - (p0Boot s).bootSlot) = false) :
    bootDone s = { s with boot := { p0Boot s with
      coldP0 := false, restarting := false, collarUp := false, recovery := true, sticky := (p0Boot s).sticky ||| 8 } } := by
  have hslot : p0Slot { s with boot := p0Boot s } = none := by
    refine (if_neg ?_).trans (if_neg ?_)
    · rw [slotOk_p0, hfirst]
      decide
    · rw [slotOk_p0, hother]
      decide
  unfold bootDone
  rw [if_neg (by rw [hp]; decide)]
  dsimp only
  rw [revertTrial_p0, hslot]
  rfl

theorem bootDone_slot {s : State} {k : Nat} (hp : inP0 s = true)
    (hk : (k = (p0Boot s).bootSlot ∧ slotOk s k = true) ∨ (k = 1 - (p0Boot s).bootSlot ∧ slotOk s (p0Boot s).bootSlot = false ∧ slotOk s k = true)) :
    bootDone s = if s.boot.coldP0 then coldStart { s with boot := slotBoot (p0Boot s) k } else { s with boot := slotBoot (p0Boot s) k } := by
  have hslot : p0Slot { s with boot := p0Boot s } = some k := by
    rcases hk with ⟨rfl, hok⟩ | ⟨rfl, hno, hok⟩
    · exact if_pos (by rw [slotOk_p0]; exact hok)
    · exact (if_neg (by rw [slotOk_p0, hno]; decide)).trans (if_pos (by rw [slotOk_p0]; exact hok))
  have hsticky : setBitIf (decide (k ≠ (p0Boot s).bootSlot)) (p0Boot s).sticky 0 = if k = (p0Boot s).bootSlot then (p0Boot s).sticky
      else (p0Boot s).sticky ||| 1 := by
    unfold setBitIf
    by_cases h : k = (p0Boot s).bootSlot
    · rw [if_pos h, if_neg (by simp [h])]
    · rw [if_neg h, if_pos (by simp [h])]
      rfl
  unfold bootDone slotBoot
  rw [if_neg (by rw [hp]; decide)]
  dsimp only
  rw [revertTrial_p0, hslot]
  dsimp only
  rw [hsticky]

/-! ### The cold start (R359, R426, R427) -/

theorem updCtl_fold {α : Type} (n : α → Nat) (f : α → Ctl → Ctl) (l : List α) : ∀ s : State,
    ∃ ctls, l.foldl (fun s x => updCtl s (n x) (f x)) s = { s with ctls := ctls } := by
  induction l with
  | nil => exact fun s => ⟨s.ctls, rfl⟩
  | cons x l ih =>
    intro s
    obtain ⟨c, hc⟩ := ih (updCtl s (n x) (f x))
    exact ⟨c, hc⟩

/-- A fold of steps that leave all but the shelf alone. -/
theorem shelf_fold {α : Type} (f : State → α → State) (hf : ∀ s x, ∃ k, f s x = { s with shelf := k }) (l : List α) : ∀ s : State,
    ∃ k, l.foldl f s = { s with shelf := k } := by
  induction l with
  | nil => exact fun s => ⟨s.shelf, rfl⟩
  | cons x l ih =>
    intro s
    obtain ⟨k, hk⟩ := hf s x
    obtain ⟨k', hk'⟩ := ih (f s x)
    rw [List.foldl_cons, hk', hk]
    exact ⟨k', rfl⟩

theorem restoreData_frame (s : State) : ∃ ctls shelf draws, restoreData s = { s with ctls := ctls, shelf := shelf, draws := draws } := by
  have hbind (u : State) : ∃ k, allPacks.foldl (fun s p => let v := kcfg s p 1
      if v = 0xFFFF then s else updPack s p fun k => { k with bound := some v, chgState := 0 }) u = { u with shelf := k } := by
    refine shelf_fold _ (fun v p => ?_) allPacks u
    dsimp only
    split_ifs
    · exact ⟨v.shelf, rfl⟩
    · exact ⟨_, rfl⟩
  unfold restoreData
  dsimp only
  cases checkpointInForce s with
  | none =>
    obtain ⟨k, hk⟩ := hbind s
    exact ⟨s.ctls, k, s.draws, hk⟩
  | some c =>
    dsimp only
    obtain ⟨x, hx⟩ := updCtl_fold (fun x : Nat × BitVec 64 × BitVec 64 => x.1) (fun x k => { k with energyFwd := x.2.1, energyRev := x.2.2 }) c.energy s
    rw [hx]
    have hsince : ∃ d, (sinceCheckpoint { s with ctls := x } c).2 = { s with ctls := x, draws := d } := by
      unfold sinceCheckpoint
      split_ifs
      · exact ⟨_, rfl⟩
      · exact ⟨s.draws, rfl⟩
    obtain ⟨d, hd⟩ := hsince
    rw [hd]
    generalize hoff : (sinceCheckpoint { s with ctls := x } c).1 = off
    obtain ⟨k, hk⟩ := shelf_fold (fun s (y : Nat × Pack) => updPack s y.1 fun z => packRestored off z y.2) (fun v y => ⟨_, rfl⟩) c.packs
      { s with ctls := x, draws := d }
    rw [hk]
    obtain ⟨k', hk'⟩ := hbind { s with ctls := x, draws := d, shelf := k }
    exact ⟨x, k', d, hk'⟩

/-- The always-on domain at a start. -/
theorem restoreAo_spec (s : State) : let b := (restoreAo s).boot
    restoreAo s = { s with boot := b }
    ∧ b = { s.boot with
        sticky := b.sticky, hours := b.hours, hoursFrac := b.hoursFrac, cycles := b.cycles, aoClock := b.aoClock, aoRem := b.aoRem, aoValid := true }
    ∧ (s.boot.aoValid = true → b.hours = s.boot.hours ∧ b.cycles = s.boot.cycles)
    ∧ (s.boot.aoValid = false → hasBit b.sticky 4 = true ∧ b.aoClock = 0
        ∧ (∀ cp, checkpointInForce s = some cp → b.hours = cp.hours ∧ b.cycles = BitVec.ofNat 32 (cp.cycles + 1))
        ∧ (checkpointInForce s = none → b.hours = 0 ∧ b.cycles = 1))
    ∧ hasBit b.sticky 0 = hasBit s.boot.sticky 0 := by
  unfold restoreAo
  dsimp only
  cases hv : s.boot.aoValid with
  | true =>
    rw [if_pos rfl]
    exact ⟨rfl, by rw [← hv], fun _ => ⟨rfl, rfl⟩, (fun h => nomatch h), hasBit_setBitIf_other (i := 0) (j := 5) _ _ (by decide)⟩
  | false =>
    rw [if_neg (by decide)]
    refine ⟨rfl, rfl, (fun h => nomatch h), fun _ => ⟨?_, rfl, fun cp h => ?_, fun h => ?_⟩, ?_⟩
    · exact (hasBit_setBitIf_other (i := 4) (j := 5) _ _ (by decide)).trans (hasBit_setBit _ (by decide))
    · rw [h]
      exact ⟨rfl, rfl⟩
    · rw [h]
      exact ⟨rfl, rfl⟩
    · exact (hasBit_setBitIf_other (i := 0) (j := 5) _ _ (by decide)).trans (hasBit_setBit_other _ (by decide))

theorem restoreTallies_frame (s : State) : restoreTallies s = { s with recorder := (restoreTallies s).recorder }
    ∧ (restoreTallies s).recorder.newest = s.recorder.newest := by
  unfold restoreTallies
  dsimp only
  split_ifs <;> exact ⟨rfl, rfl⟩

/-- A critical record takes the next number. -/
theorem addRecord_newest (s : State) {code : Nat} (round : Word) (data : List Byte) (h : critical code = true) :
    (addRecord s code round data).recorder.newest = nextSeq s.recorder.newest := by
  unfold addRecord
  simp only [h, if_true, Bool.not_true, Bool.false_and, Bool.false_eq_true, if_false]

theorem coldStart_spec (s : State) : ∃ ctls shelf draws r, coldStart s = { s with
      boot := (restoreAo s).boot, ctls := ctls, shelf := shelf, draws := draws, recorder := r
      pat := { s.pat with p1 := some false, loading := some (s.pat.recordedSlot, true), loadResult := 0xFF, loadDetail := 0 } }
    ∧ r.newest = nextSeq s.recorder.newest := by
  have hao := (restoreAo_spec s).1
  obtain ⟨ctls, shelf, draws, hdata⟩ := restoreData_frame (restoreAo s)
  obtain ⟨htally, hnewest⟩ := restoreTallies_frame (restoreData (restoreAo s))
  generalize hu : restoreTallies (restoreData (restoreAo s)) = u at htally hnewest
  have hrec := addRecord_newest u u.wheel.round (leBytes 1 u.boot.cause ++ leBytes 4 u.recorder.gapS) (code := 0x0001) rfl
  obtain ⟨r, hr⟩ := addRecord_frame u 0x0001 u.wheel.round (leBytes 1 u.boot.cause ++ leBytes 4 u.recorder.gapS)
  have hstart : coldStart s = beginP1 (addRecord u 0x0001 u.wheel.round (leBytes 1 u.boot.cause ++ leBytes 4 u.recorder.gapS))
      (addRecord u 0x0001 u.wheel.round (leBytes 1 u.boot.cause ++ leBytes 4 u.recorder.gapS)).pat.recordedSlot false := by
    rw [← hu]
    rfl
  rw [hr] at hrec hstart
  refine ⟨ctls, shelf, draws, r, ?_, ?_⟩
  · rw [hstart, htally, hdata]
    generalize (restoreAo s).boot = b at hao
    rw [hao]
    rfl
  · rw [show r.newest = nextSeq u.recorder.newest from hrec, hnewest, hdata, hao]

theorem serverRuns_boot {s : State} (h : ((s.boot.collarUp && !s.boot.restarting) || s.boot.recovery) = true) (hreset : inReset s = false) :
    serverRuns s = true := by
  unfold serverRuns collarRuns
  rw [h, hreset]
  rfl

theorem collarBootDone_spec {s : State} (hreset : inReset s = false) (hp0 : s.boot.coldP0 = true ∨ s.boot.restarting = true) :
    let b : Boot := if s.boot.coldP0 = true ∧ s.boot.trial = true then { s.boot with
      trial := false, bootSlot := s.boot.confirmed, sticky := s.boot.sticky ||| 4 } else s.boot
    let other := slotOk s b.bootSlot = false
    let serves (t : State) : State := s.net.ingress.foldl handle { t with net := { s.net with ingress := [], smbBusy := false } }
    (other → slotOk s (1 - b.bootSlot) = false → exec .collarBootDone s = .next (serves { s with
        boot := { b with coldP0 := false, restarting := false, collarUp := false, recovery := true, sticky := b.sticky ||| 8 } }))
    ∧ ∀ k, (k = b.bootSlot ∧ slotOk s k = true) ∨ (k = 1 - b.bootSlot ∧ other ∧ slotOk s k = true) →
      let c : Boot := { b with
        coldP0 := false, restarting := false, collarUp := true, runningSlot := k,
        sticky := if k = b.bootSlot then b.sticky else b.sticky ||| 1 }
      (s.boot.coldP0 = false → exec .collarBootDone s = .next (serves { s with boot := c }))
      ∧ (s.boot.coldP0 = true → ∃ t, exec .collarBootDone s = .next (serves t)
        ∧ t = { s with
            boot := t.boot, ctls := t.ctls, shelf := t.shelf, recorder := t.recorder, draws := t.draws, pat := { s.pat with
              p1 := some false, loading := some (s.pat.recordedSlot, true), loadResult := 0xFF, loadDetail := 0 } }
        ∧ t.boot = { c with
            sticky := t.boot.sticky, hours := t.boot.hours, hoursFrac := t.boot.hoursFrac, cycles := t.boot.cycles,
            aoClock := t.boot.aoClock, aoRem := t.boot.aoRem, aoValid := true }
        ∧ (s.boot.aoValid = true → t.boot.hours = s.boot.hours ∧ t.boot.cycles = s.boot.cycles)
        ∧ (s.boot.aoValid = false → hasBit t.boot.sticky 4 = true ∧ t.boot.aoClock = 0
            ∧ (∀ cp, checkpointInForce s = some cp → t.boot.hours = cp.hours ∧ t.boot.cycles = BitVec.ofNat 32 (cp.cycles + 1))
            ∧ (checkpointInForce s = none → t.boot.hours = 0 ∧ t.boot.cycles = 1))
        ∧ (hasBit t.boot.sticky 0 = true ↔ k ≠ b.bootSlot ∨ hasBit b.sticky 0 = true)
        ∧ t.recorder.newest = nextSeq s.recorder.newest) := by
  intro b other serves
  have hb : p0Boot s = b := rfl
  have hp : inP0 s = true := inP0_iff.2 ⟨hreset, hp0⟩
  have hres : (b.internal || b.tcxoLost) = false := by
    obtain ⟨hi, ht⟩ := inReset_p0 s
    rw [← hb, hi, ht]
    exact hreset
  refine ⟨fun hfirst hother => collarBootDone_serves hp (bootDone_rom hp hfirst hother) rfl (serverRuns_boot rfl hres), fun k hk => ?_⟩
  intro c
  have hc : slotBoot (p0Boot s) k = c := rfl
  have hslot := bootDone_slot hp hk
  rw [hc] at hslot
  refine ⟨fun hwarm => collarBootDone_serves hp (hslot.trans (if_neg (Bool.eq_false_iff.1 hwarm))) rfl (serverRuns_boot rfl hres), fun hcold => ?_⟩
  obtain ⟨ctls, shelf, draws, r, hstart, hnewest⟩ := coldStart_spec { s with boot := c }
  obtain ⟨-, hboot, hvalid, hlost, hbit⟩ := restoreAo_spec { s with boot := c }
  generalize (restoreAo { s with boot := c }).boot = a at hstart hboot hvalid hlost hbit
  have hdone := hslot.trans ((if_pos hcold).trans hstart)
  generalize ht : bootDone s = t at hdone
  have hruns : serverRuns t = true := by
    rw [hdone]
    refine serverRuns_boot ?_ ?_
    · rw [show State.boot _ = a from rfl, hboot]
      rfl
    · refine Eq.trans ?_ hres
      show (a.internal || a.tcxoLost) = _
      rw [hboot]
  have hnet : t.net = s.net := by rw [hdone]
  have hold : c.aoValid = s.boot.aoValid ∧ c.hours = s.boot.hours ∧ c.cycles = s.boot.cycles := by
    unfold c b
    split_ifs <;> exact ⟨rfl, rfl, rfl⟩
  obtain ⟨hav, hh, hcy⟩ := hold
  have hsticky : hasBit c.sticky 0 = true ↔ k ≠ b.bootSlot ∨ hasBit b.sticky 0 = true := by
    show hasBit (if k = b.bootSlot then b.sticky else b.sticky ||| 1) 0 = true ↔ _
    by_cases h : k = b.bootSlot
    · rw [if_pos h]
      exact ⟨.inr, fun h' => h'.resolve_left (not_not.2 h)⟩
    · rw [if_neg h]
      exact ⟨fun _ => .inl h, fun _ => hasBit_setBit (i := 0) b.sticky (by decide)⟩
  refine ⟨t, collarBootDone_serves hp ht hnet hruns, ?_⟩
  rw [hdone]
  refine ⟨rfl, hboot, fun h => ?_, fun h => ?_, ?_, hnewest⟩
  · obtain ⟨h₁, h₂⟩ := hvalid (hav.trans h)
    exact ⟨h₁.trans hh, h₂.trans hcy⟩
  · exact hlost (hav.trans h)
  · rw [← hsticky, ← hbit]

end Sys2Proof.Machine
end

section
/-! PROOFS. The restart of the Collar alone (R267, R412, R413, R419), sleep and wake (R272, R423, R424). -/
namespace Sys2Proof.Machine

/-! ### The restart of the Collar alone -/

theorem groupLost_eq (s : State) (p : PendWrite) : groupLost s p = { s with net := { s.net with
    gres := tput s.net.gres (imageGroup p.index)
      { tget {} s.net.gres (imageGroup p.index) with written := [], late := members s (imageGroup p.index) } } } := rfl

theorem members_of {s t : State} (hcfg : t.cfg = s.cfg) (hpat : t.pat.run = s.pat.run) (g : Nat) : members t g = members s g := by
  have hread (ix sub : Nat) : cfg t ix sub = cfg s ix sub := by
    unfold cfg dfltOf declClass
    rw [hcfg, hpat]
  have hmember : isMember t g = isMember s g := by
    funext n
    unfold isMember
    rw [hread]
  unfold members
  rw [hmember]

/-- The group writes of a list are all reported as not written. -/
theorem groupLost_fold (l : List PendWrite) : ∀ s : State, ∃ gres, l.foldl groupLost s = { s with net := { s.net with gres := gres } }
    ∧ ∀ g, (g ∈ l.map fun p => imageGroup p.index) ∨ ((tget {} s.net.gres g).written = [] ∧ (tget {} s.net.gres g).late = members s g) →
      (tget {} gres g).written = [] ∧ (tget {} gres g).late = members s g := by
  induction l with
  | nil => exact fun s => ⟨s.net.gres, rfl, fun g h => h.resolve_left List.not_mem_nil⟩
  | cons p l ih =>
    intro s
    obtain ⟨gres, hfold, hlost⟩ := ih (groupLost s p)
    have hmembers (g : Nat) : members (groupLost s p) g = members s g := members_of rfl rfl g
    refine ⟨gres, by rw [List.foldl_cons, hfold]; rfl, fun g h => ?_⟩
    rw [← hmembers]
    refine hlost g ?_
    by_cases hg : g = imageGroup p.index
    · right
      rw [hmembers, hg]
      unfold groupLost
      dsimp only
      rw [tget_tput_same]
      exact ⟨rfl, rfl⟩
    · refine (h.imp (fun hmem => ?_) fun hdone => ?_)
      · rw [List.map_cons] at hmem
        exact (List.mem_cons.1 hmem).resolve_left hg
      · rw [hmembers]
        unfold groupLost
        dsimp only
        rw [tget_tput_other _ _ _ _ _ hg]
        exact hdone

/-- What a restart that is not an activation ends. -/
theorem endChanges_spec (s : State) : let armed := s.arm.queued = true ∨ s.arm.state = 1 ∨ (s.arm.state = 2 ∧ s.arm.committing = false)
    ∃ gres, endChanges s = { s with
      pat := if s.pat.shadowState = 2 then { s.pat with shadowState := 3, loadResult := 0x25, bound := false, readBack := false } else s.pat
      arm := if armed then { s.arm with abortNext := true, queued := false } else s.arm
      net := { s.net with pend := s.net.pend.filter fun p => !isImage p.index, gres := gres } }
    ∧ ∀ p ∈ s.net.pend, isImage p.index = true → (tget {} gres (imageGroup p.index)).written = []
        ∧ (tget {} gres (imageGroup p.index)).late = members s (imageGroup p.index) := by
  intro armed
  have hcommit : (if s.pat.shadowState == 2 then commitFailed s else s) = { s with
      pat := if s.pat.shadowState = 2 then { s.pat with shadowState := 3, loadResult := 0x25, bound := false, readBack := false } else s.pat } := by
    by_cases h : s.pat.shadowState = 2
    · rw [if_pos (beq_iff_eq.2 h), if_pos h]
      rfl
    · rw [if_neg (h ∘ beq_iff_eq.1), if_neg h]
  have hrun : (if s.pat.shadowState = 2 then { s.pat with shadowState := 3, loadResult := 0x25, bound := false, readBack := false } else s.pat).run
      = s.pat.run := by split_ifs <;> rfl
  generalize (if s.pat.shadowState = 2 then { s.pat with shadowState := 3, loadResult := 0x25, bound := false, readBack := false } else s.pat) = q
    at hcommit hrun ⊢
  have harmed : (s.arm.queued || s.arm.state == 1 || (s.arm.state == 2 && !s.arm.committing)) = true ↔ armed := by
    simp only [armed, Bool.or_eq_true, Bool.and_eq_true, beq_iff_eq, Bool.not_eq_true', or_assoc]
  have harm : (if s.arm.queued || s.arm.state == 1 || (s.arm.state == 2 && !s.arm.committing) then
        { s with pat := q, arm := { s.arm with abortNext := true, queued := false } } else { s with pat := q })
      = { s with pat := q, arm := if armed then { s.arm with abortNext := true, queued := false } else s.arm } := by
    by_cases h : armed
    · rw [if_pos (harmed.2 h), if_pos h]
    · rw [if_neg (h ∘ harmed.1), if_neg h]
  generalize (if armed then { s.arm with abortNext := true, queued := false } else s.arm) = r at harm ⊢
  obtain ⟨gres, hfold, hlost⟩ := groupLost_fold (s.net.pend.filter fun p => isImage p.index) { s with pat := q, arm := r }
  refine ⟨gres, ?_, fun p hp himage => ?_⟩
  · unfold endChanges
    dsimp only
    rw [hcommit]
    dsimp only
    rw [harm]
    dsimp only
    rw [hfold]
  · rw [← members_of (s := s) (t := { s with pat := q, arm := r }) rfl hrun]
    exact hlost _ (.inl (List.mem_map.2 ⟨p, List.mem_filter.2 ⟨hp, himage⟩, rfl⟩))

theorem revertTrial_eq (s : State) : revertTrial s = { s with boot := if s.boot.trial then { s.boot with
    trial := false, bootSlot := s.boot.confirmed, sticky := s.boot.sticky ||| 4 } else s.boot } := by
  unfold revertTrial
  cases h : s.boot.trial <;> rfl

theorem collarRestart_spec (s : State) :
    let b : Boot := if s.boot.trial then { s.boot with
      trial := false, bootSlot := s.boot.confirmed, sticky := s.boot.sticky ||| 4 } else s.boot
    let armed := s.arm.queued = true ∨ s.arm.state = 1 ∨ (s.arm.state = 2 ∧ s.arm.committing = false)
    let ends (c : RestartCause) (cause : Nat) := ∃ t, exec (.collarRestart c) s = .next t ∧ t = { s with
      boot := { b with restarting := true, cause := cause }, shelf := { s.shelf with cwdTime := 0 },
      pat := if s.pat.shadowState = 2 then { s.pat with shadowState := 3, loadResult := 0x25, bound := false, readBack := false }
        else s.pat,
      arm := if armed then { s.arm with abortNext := true, queued := false } else s.arm,
      net := { s.net with pend := s.net.pend.filter fun p => !isImage p.index, gres := t.net.gres } }
      ∧ ∀ p ∈ s.net.pend, isImage p.index = true → (tget {} t.net.gres (imageGroup p.index)).written = []
          ∧ (tget {} t.net.gres (imageGroup p.index)).late = members s (imageGroup p.index)
    (∀ c, collarRuns s = false → exec (.collarRestart c) s = .next s)
    ∧ (collarRuns s = true →
      exec (.collarRestart .activation) s = .next { s with
        boot := { s.boot with restarting := true }, shelf := { s.shelf with cwdTime := 0 } }
      ∧ ends .watchdog 4 ∧ ends .lockstep s.boot.cause) := by
  intro b armed ends
  have hb : b.cause = s.boot.cause := by
    unfold b
    split_ifs <;> rfl
  have hmembers (g : Nat) : members (revertTrial s) g = members s g := by
    rw [revertTrial_eq]
    exact members_of rfl rfl g
  obtain ⟨gres, hend, hlost⟩ := endChanges_spec (revertTrial s)
  simp only [hmembers] at hlost
  rw [revertTrial_eq, show (if s.boot.trial then { s.boot with
    trial := false, bootSlot := s.boot.confirmed, sticky := s.boot.sticky ||| 4 } else s.boot) = b from rfl] at hend hlost
  have hends {c : RestartCause} {cause : Nat} (w : Bool) (hc : exec (.collarRestart c) s = .next (collarDown (endChanges (revertTrial s)) w))
      (hw : (if w then 4 else b.cause) = cause) : ends c cause := by
    refine ⟨_, hc, ?_⟩
    rw [revertTrial_eq, show (if s.boot.trial then { s.boot with
      trial := false, bootSlot := s.boot.confirmed, sticky := s.boot.sticky ||| 4 } else s.boot) = b from rfl, hend, ← hw]
    exact ⟨rfl, hlost⟩
  have hgo : ¬((!collarRuns s) = true) ↔ collarRuns s = true := by rw [Bool.not_eq_true', Bool.not_eq_false]
  refine ⟨fun c h => congrArg Host.Outcome.next (if_pos (by rw [h]; rfl)), fun hruns => ⟨congrArg Host.Outcome.next (if_neg (hgo.2 hruns)),
    hends true (congrArg Host.Outcome.next (if_neg (hgo.2 hruns))) rfl, hends false (congrArg Host.Outcome.next (if_neg (hgo.2 hruns))) hb⟩⟩

/-! ### Sleep (R424) -/

theorem sleep_spec {s : State} {lvl : Level} {v : Byte} (hadm : Admits s lvl 0x1020 4 v.toNat) :
    let able := (powerState s = 2 ∨ powerState s = 3 ∨ powerState s = 5) ∧ s.pair.role = .solo
      ∧ (∀ x ∈ s.links, x.2.state ≠ .starting ∧ x.2.state ≠ .running ∧ x.2.state ≠ .stopping) ∧ s.boot.sleeping = none
    (v = 0 → exec (.sleepCmd lvl v) s = .next (answered s stOK))
    ∧ (v ≠ 0 → able → exec (.sleepCmd lvl v) s = .next { answered s stOK with
        boot := { s.boot with sleeping := some (17 + skipNow s) } })
    ∧ (v ≠ 0 → ¬able → exec (.sleepCmd lvl v) s = .next (answered s stState)) := by
  intro able
  have hexec := exec_admitted (c := .sleepCmd lvl v) rfl hadm
  have heff : effect (taken s) 0x1020 4 v.toNat = sleepWrite (taken s) v.toNat := rfl
  rw [dropReserved_low (by decide) (by decide) (by decide) (by decide), heff] at hexec
  have hv : v.toNat = 0 ↔ v = 0 := by rw [BitVec.toNat_eq]; rfl
  have hwrite {r : Nat × State} (h : sleepWrite (taken s) v.toNat = r) : exec (.sleepCmd lvl v) s = .next (withStatus r.2 r.1) := by
    rw [hexec, h]
  have hlive : (!(s.links.any fun x => isLive x.2.state)) = true
      ↔ ∀ x ∈ s.links, x.2.state ≠ .starting ∧ x.2.state ≠ .running ∧ x.2.state ≠ .stopping := by
    rw [Bool.not_eq_true', List.any_eq_false]
    refine forall₂_congr fun x _ => ?_
    rw [isLive, Bool.or_eq_true, Bool.or_eq_true, beq_iff_eq, beq_iff_eq, beq_iff_eq, not_or, not_or, and_assoc]
  have hable : ((powerState (taken s) == 2 || powerState (taken s) == 3 || powerState (taken s) == 5) && (taken s).pair.role == .solo
      && !((taken s).links.any fun x => isLive x.2.state) && (taken s).boot.sleeping.isNone) = true ↔ able := by
    rw [Bool.and_eq_true, Bool.and_eq_true, Bool.and_eq_true, show (taken s).links = s.links from rfl, hlive, Bool.or_eq_true, Bool.or_eq_true,
      beq_iff_eq, beq_iff_eq, beq_iff_eq, beq_iff_eq, Option.isNone_iff_eq_none, and_assoc, and_assoc, or_assoc]
    rfl
  exact ⟨fun h => hwrite (if_pos (hv.2 h)), fun h hyes => hwrite ((if_neg (h ∘ hv.1)).trans (if_pos (hable.2 hyes))),
    fun h hno => hwrite ((if_neg (h ∘ hv.1)).trans (if_neg (hno ∘ hable.1)))⟩

/-! ### Wake (R272, R424) -/

/-- A fold of steps that leave all but the timers alone. -/
theorem timers_fold {α : Type} (f : State → α → State) (hf : ∀ s x, ∃ k, f s x = { s with timers := k }) (l : List α) : ∀ s : State,
    ∃ k, l.foldl f s = { s with timers := k } := by
  induction l with
  | nil => exact fun s => ⟨s.timers, rfl⟩
  | cons x l ih =>
    intro s
    obtain ⟨k, hk⟩ := hf s x
    obtain ⟨k', hk'⟩ := ih (f s x)
    rw [List.foldl_cons, hk', hk]
    exact ⟨k', rfl⟩

theorem makeup_frame (s : State) (e : Nat) : ∃ x, makeup s e = { s with timers := x } := by
  refine timers_fold _ (fun v t => ?_) _ s
  dsimp only
  split_ifs
  · obtain ⟨k, hk⟩ := timers_fold (fun (w : State) (u : Nat) => if (tEnabled (tmr s u) && hasBit (tmr s u).ctrl 24) = true then
        updTmr w u fun y => (makeupAdd y ((makeupAdd (tmr v t) (makeupSteps v (tmr v t) e)).2 / (tcf y 0 8 + 1))).1 else w) (fun w u => by
      split_ifs
      · exact ⟨_, rfl⟩
      · exact ⟨w.timers, rfl⟩) (listeners (updTmr v t fun _ => (makeupAdd (tmr v t) (makeupSteps v (tmr v t) e)).1) t 0 3)
        (updTmr v t fun _ => (makeupAdd (tmr v t) (makeupSteps v (tmr v t) e)).1)
    exact ⟨k, hk⟩
  · exact ⟨v.timers, rfl⟩

/-- The wake of a pack changes that pack alone. -/
theorem packWake_fold (t : Rat) (current : Bool) (l : List (Nat × Nat)) (s : State) :
    ∃ k, l.foldl (fun s x => packWake s t current x.1) s = { s with shelf := k } :=
  shelf_fold _ (fun v x => ⟨_, rfl⟩) l s

/-- The port waits to be trained again. -/
def Untrained (s : State) (n : Nat) : Prop := (link s n).state = .absent ∧ (link s n).driving = false

theorem portWake_spec (s : State) (n : Nat) : (∃ a b c d, portWake s n = { s with links := a, ctls := b, shelf := c, cfg := d } ∧ MarginOnly s.cfg d)
    ∧ Untrained (portWake s n) n ∧ ∀ m, Untrained s m → Untrained (portWake s n) m := by
  obtain ⟨a, b, c, d, hset, hcfg⟩ := setPState_frame s n .absent
  have hsame : Untrained (portWake s n) n := by
    unfold Untrained portWake
    rw [link_updLink, link_setPState_same]
    exact ⟨rfl, rfl⟩
  refine ⟨?_, hsame, fun m hm => ?_⟩
  · unfold portWake
    rw [hset]
    exact ⟨_, b, c, d, rfl, hcfg⟩
  · by_cases h : m = n
    · rw [h]
      exact hsame
    · have hlink : link (portWake s n) m = link s m := by
        unfold portWake
        rw [link_updLink_other _ _ _ _ h, link_setPState, if_neg fun hn => h hn.1]
      unfold Untrained
      rw [hlink]
      exact hm

theorem portWake_fold (l : List Nat) : ∀ s : State,
    (∃ a b c d, forAll l portWake s = { s with links := a, ctls := b, shelf := c, cfg := d } ∧ MarginOnly s.cfg d)
    ∧ ∀ m, m ∈ l ∨ Untrained s m → Untrained (forAll l portWake s) m := by
  induction l with
  | nil => exact fun s => ⟨⟨s.links, s.ctls, s.shelf, s.cfg, rfl, marginOnly_refl _⟩, fun m h => h.resolve_left List.not_mem_nil⟩
  | cons n l ih =>
    intro s
    obtain ⟨⟨a, b, c, d, hstep, hcfg⟩, hsame, hkeep⟩ := portWake_spec s n
    obtain ⟨⟨a', b', c', d', hfold, hcfg'⟩, hdone⟩ := ih (portWake s n)
    have hcons : forAll (n :: l) portWake s = forAll l portWake (portWake s n) := rfl
    rw [hcons]
    refine ⟨⟨a', b', c', d', ?_, ?_⟩, fun m h => hdone m ?_⟩
    · rw [hfold, hstep]
    · rw [hstep] at hcfg'
      exact marginOnly_trans hcfg hcfg'
    · rcases h with h | h
      · rcases List.mem_cons.1 h with rfl | h
        · exact .inr hsame
        · exact .inl h
      · exact .inr (hkeep m h)

/-- What a wake leaves: nothing runs, P1 begins, and every port waits to be trained. -/
def Wakes (s u t : State) : Prop := t.boot.asleep = false ∧ t.arr.started = false ∧ t.wheel.state = .free
  ∧ t.hem.startHold = true ∧ t.pat.p1 = some false ∧ t.pat.loading = some (s.pat.recordedSlot, true)
  ∧ t.boot.cycles = s.boot.cycles ∧ MarginOnly s.cfg t.cfg ∧ t.mram = s.mram ∧ t.net = u.net ∧ t.pair = s.pair
  ∧ ∀ n ∈ linkPorts s, (link t n).state = .absent ∧ (link t n).driving = false

theorem wakeNow_spec (s : State) (ticks : Nat) (current : Bool) : Wakes s s (wakeNow s ticks current) := by
  unfold wakeNow
  dsimp only
  generalize hu : ({ passTime s (mkRat ticks 32768) with
    boot := { (passTime s (mkRat ticks 32768)).boot with asleep := false, wave := 0, waveOn := false, lastTrain := none } } : State) = u
  have hstart : u = { s with boot := u.boot } ∧ u.boot.asleep = false ∧ u.boot.cycles = s.boot.cycles := by
    rw [← hu]
    exact ⟨rfl, rfl, rfl⟩
  obtain ⟨hframe, hawake, hcycles⟩ := hstart
  obtain ⟨x, hmake⟩ := makeup_frame u ticks
  rw [hmake]
  obtain ⟨k, hpacks⟩ := packWake_fold (mkRat ticks 32768) current (boundPacks { u with timers := x }) { u with timers := x }
  rw [hpacks]
  obtain ⟨⟨a, b, c, d, hports, hcfg⟩, hdone⟩ := portWake_fold (linkPorts { u with timers := x, shelf := k }) { u with timers := x, shelf := k }
  generalize hv : forAll (linkPorts { u with timers := x, shelf := k }) portWake { u with timers := x, shelf := k } = v at hports hdone ⊢
  have hwheel := wheelTo_frame v .free
  have hfree := wheelTo_state v .free
  generalize wheelTo v .free = w at hwheel hfree ⊢
  have hlinks : w.links = v.links := by rw [hwheel]
  have huntrained : ∀ n ∈ linkPorts s, Untrained w n := fun n hn => by
    have : Untrained v n := hdone n (.inl (by
      rw [show linkPorts { u with timers := x, shelf := k } = linkPorts s by rw [hframe]; rfl]
      exact hn))
    unfold Untrained link at *
    rw [hlinks]
    exact this
  have hall : w = { s with boot := u.boot, timers := x, shelf := c, links := a, ctls := b, cfg := d, wheel := w.wheel } := by
    rw [hwheel, hports]
    generalize u.boot = y at hframe
    rw [hframe]
  have hcfg' : MarginOnly s.cfg d := by
    rw [hframe] at hcfg
    exact hcfg
  unfold Untrained at huntrained
  generalize w.wheel = y at hall hfree
  rw [hall] at huntrained ⊢
  exact ⟨hawake, rfl, hfree, rfl, rfl, rfl, hcycles, hcfg', rfl, rfl, rfl, huntrained⟩

theorem wakeWrite_awake {s : State} {v : Nat} (h : ¬(v = 0 ∨ s.boot.asleep = false)) :
    ∃ ticks, wakeWrite s v = (stOK, wakeNow { s with draws := s.draws + 1 } ticks false) := ⟨_, if_neg h⟩

theorem wake_spec {s : State} {lvl : Level} {v : Byte} (hadm : Admits s lvl 0x1020 5 v.toNat) :
    (v = 0 ∨ s.boot.asleep = false → exec (.wake lvl v) s = .next (answered s stOK))
    ∧ (v ≠ 0 → s.boot.asleep = true → ∃ t, exec (.wake lvl v) s = .next t ∧ Wakes s (answered s stOK) t) := by
  have hexec := exec_admitted (c := .wake lvl v) rfl hadm
  have heff : effect (taken s) 0x1020 5 v.toNat = wakeWrite (taken s) v.toNat := rfl
  rw [dropReserved_low (by decide) (by decide) (by decide) (by decide), heff] at hexec
  have hv : v.toNat = 0 ↔ v = 0 := by rw [BitVec.toNat_eq]; rfl
  have hwrite {r : Nat × State} (h : wakeWrite (taken s) v.toNat = r) : exec (.wake lvl v) s = .next (withStatus r.2 r.1) := by
    rw [hexec, h]
  refine ⟨fun h => hwrite (if_pos (h.imp hv.2 id)), fun h hasleep => ?_⟩
  have hwake : ¬(v.toNat = 0 ∨ (taken s).boot.asleep = false) := not_or.2 ⟨h ∘ hv.1, by rw [show (taken s).boot.asleep = true from hasleep]; decide⟩
  obtain ⟨ticks, hdrawn⟩ := wakeWrite_awake hwake
  obtain ⟨ha, hb, hc, hd, he, hf, hg, hcfg, hm, hnet, hp, hports⟩ := wakeNow_spec { taken s with draws := (taken s).draws + 1 } ticks false
  generalize wakeNow { taken s with draws := (taken s).draws + 1 } ticks false = t at *
  refine ⟨withStatus t stOK, hwrite hdrawn, ?_⟩
  exact ⟨ha, hb, hc, hd, he, hf, hg, hcfg, hm, congrArg (fun n : Net => { n with status := stOK }) hnet, hp, hports⟩

/-- Settles O58: the end of P0, the restart of the Collar alone, sleep and wake. -/
theorem startRestartSleepAndWake : Obligations.StartRestartSleepAndWake := by
  refine ⟨⟨fun s h => collarBootDone_idle ?_, fun s => collarBootDone_spec, collarRestart_spec⟩,
    fun s lvl v => ⟨sleep_spec, wake_spec, fun k ticks => ⟨fun hasleep hmask => ?_, fun h => ?_⟩⟩⟩
  · rw [← Bool.not_eq_true, inP0_iff]
    rintro ⟨hno, hp0⟩
    rcases h with h | ⟨hcold, hwarm⟩
    · cases hno.symm.trans h
    · rw [hcold, hwarm] at hp0
      exact hp0.elim nofun nofun
  · exact ⟨_, congrArg Host.Outcome.next (if_pos (by rw [hasleep, hmask]; rfl)), wakeNow_spec s ticks (k == 0)⟩
  · exact congrArg Host.Outcome.next (if_neg (by rw [Bool.and_eq_true]; exact h))

end Sys2Proof.Machine
end

section
/-! PROOFS. Images: their verification, download, activation and the load of a far end (R122, R123, R129, R184, R415 to R422). -/
namespace Sys2Proof.Machine

/-! ### The reasons of a pattern (R122, R123, R129) -/

/-- Two members of a list of which the first fails against a later one. -/
theorem any_clash {α : Type} (f : α → α → Bool) (l : List α) :
    (l.zipIdx.any fun p => (l.drop (p.2 + 1)).any fun q => !f p.1 q) = false ↔ l.Pairwise fun p q => f p q = true := by
  rw [List.any_eq_false, List.pairwise_iff_getElem]
  constructor
  · intro h i j hi hj hij
    have hp := h (l[i], i) (List.mem_zipIdx_iff_getElem?.2 (List.getElem?_eq_getElem hi))
    rw [Bool.not_eq_true, List.any_eq_false] at hp
    have hq := hp l[j] (List.mem_drop_iff_getElem.2 ⟨j - (i + 1), by omega, by simp only [show i + 1 + (j - (i + 1)) = j by omega]⟩)
    rwa [Bool.not_eq_true', Bool.not_eq_false] at hq
  · rintro h ⟨x, i⟩ hx
    obtain ⟨hi, hxi⟩ := List.getElem?_eq_some_iff.1 (List.mem_zipIdx_iff_getElem?.1 hx)
    rw [Bool.not_eq_true, List.any_eq_false]
    intro q hq
    obtain ⟨j, hj, rfl⟩ := List.mem_drop_iff_getElem.1 hq
    rw [Bool.not_eq_true', Bool.not_eq_false, ← show l[i] = x from hxi]
    simp only [show i + 1 + j = j + (i + 1) by omega]
    exact h i (j + (i + 1)) hi hj (by omega)

/-- The header of a pattern (R122). -/
def PatHead (q : List Byte) : Prop :=
  leAt q 0 4 = 0x31544150 ∧ leAt q 4 2 = 1 ∧ leAt q 6 2 = 0x40 ∧ leAt q 0x3C 4 = (crc32 (q.take 60)).toNat

/-- The parts of a pattern of a given size stand in it and apart (R122). -/
def PatSize (limit size : Nat) (parts : List (Nat × Nat)) : Prop :=
  size ≤ limit ∧ (∀ p ∈ parts, 64 ≤ p.1 ∧ p.1 + p.2 + 96 ≤ size) ∧ parts.Pairwise fun p r => p.1 + p.2 ≤ r.1 ∨ r.1 + r.2 ≤ p.1

/-- The signature of a pattern with the flag and the key slot of its header (R123). -/
def PatSigned (s : State) (readBack lanistan customer : Bool) (flags key : Nat) : Prop :=
  readBack = true ∧ (if flags % 2 = 1 then lanistan else customer) = true ∧ (flags % 2 = 1 ↔ key = 0)
    ∧ (key ≠ 0 → tget [] s.net.imageKeys key ≠ [])

theorem patHead_fails {q : List Byte} :
    (leAt q 0 4 ≠ 0x31544150 ∨ leAt q 4 2 ≠ 1 ∨ leAt q 6 2 ≠ 0x40 ∨ leAt q 0x3C 4 ≠ (crc32 (q.take 60)).toNat) ↔ ¬PatHead q := by
  simp only [PatHead, not_and_or, ne_eq]

theorem patSize_fails {limit size : Nat} {parts : List (Nat × Nat)} :
    (limit < size ∨ ((parts.zipIdx.any fun p => (parts.drop (p.2 + 1)).any fun r =>
        !(decide (p.1.1 + p.1.2 ≤ r.1) || decide (r.1 + r.2 ≤ p.1.1)))
      || !(parts.all fun p => decide (64 ≤ p.1) && decide (p.1 + p.2 + 96 ≤ size))) = true) ↔ ¬PatSize limit size parts := by
  have hinside : (parts.all fun p => decide (64 ≤ p.1) && decide (p.1 + p.2 + 96 ≤ size)) = true ↔ ∀ p ∈ parts, 64 ≤ p.1 ∧ p.1 + p.2 + 96 ≤ size := by
    simp only [List.all_eq_true, Bool.and_eq_true, decide_eq_true_eq]
  have hclash := any_clash (fun p r : Nat × Nat => decide (p.1 + p.2 ≤ r.1) || decide (r.1 + r.2 ≤ p.1)) parts
  simp only [Bool.or_eq_true, decide_eq_true_eq] at hclash
  rw [← not_le, ← Bool.not_eq_false, Bool.or_eq_false_iff, Bool.not_eq_false', hclash, hinside, ← not_and_or, and_comm (a := List.Pairwise _ _)]
  rfl

theorem patSigned_fails {s : State} {readBack lanistan customer : Bool} {flags key : Nat} :
    (!readBack || !(if flags % 2 == 1 then lanistan else customer) || (flags % 2 == 1) != (key == 0)
      || (key != 0 && (tget [] s.net.imageKeys key).isEmpty)) = true ↔ ¬PatSigned s readBack lanistan customer flags key := by
  have hstock : ((flags % 2 == 1) != (key == 0)) = true ↔ ¬(flags % 2 = 1 ↔ key = 0) := by
    rw [bne_iff_ne, ne_eq, Bool.eq_iff_iff, beq_iff_eq, beq_iff_eq]
  rw [Bool.or_eq_true, Bool.or_eq_true, Bool.or_eq_true, hstock, Bool.not_eq_true', Bool.not_eq_true', Bool.and_eq_true, bne_iff_ne,
    List.isEmpty_iff]
  simp only [PatSigned, not_and_or, beq_iff_eq, Bool.not_eq_true, Classical.not_imp, not_not, ne_eq, or_assoc]

theorem patternReason_spec (s : State) (x : Nat) (readBack lanistan customer : Bool) {q : List Byte} (hq : mread s.mram (dlAddr s x) 64 = q)
    {secs : List (Nat × Nat × Word)} (hsecs : (List.range (leAt q 0x22 2)).map (dirEntry s (dlAddr s x) (leAt q 0x24 4)) = secs)
    {parts : List (Nat × Nat)} (hparts : ((leAt q 0x24 4, 16 * leAt q 0x22 2) :: secs.map fun e => (e.1, e.2.1)) = parts) :
    let patSize := PatSize (dlSize x) (leAt q 8 4) parts
    let patCrc := ∀ e ∈ secs, crc32 (mread s.mram (dlAddr s x + e.1) e.2.1) = e.2.2
    let patSigned := PatSigned s readBack lanistan customer (leAt q 0x18 4) (leAt q 0x38 4)
    let reason := patternReason s x readBack lanistan customer
    (¬PatHead q → reason = 1) ∧ (PatHead q → ¬patSize → reason = 2) ∧ (PatHead q → patSize → ¬patCrc → reason = 3)
    ∧ (PatHead q → patSize → patCrc → ¬patSigned → reason = 4) ∧ (PatHead q → patSize → patCrc → patSigned → reason = 0) := by
  intro patSize patCrc patSigned reason
  have hcrc : (secs.any fun e => crc32 (mread s.mram (dlAddr s x + e.1) e.2.1) != e.2.2) = true ↔ ¬patCrc := by
    rw [← Bool.not_eq_false, List.any_eq_false]
    simp only [patCrc, bne_iff_ne, not_not, ne_eq]
  have hreason := patternReason.eq_1 s x readBack lanistan customer
  dsimp only at hreason
  rw [hq, hsecs, hparts] at hreason
  unfold reason
  rw [hreason]
  refine ⟨fun h => ?_, fun hh h => ?_, fun hh hs h => ?_, fun hh hs hc h => ?_, fun hh hs hc h => ?_⟩
  · rw [if_pos (patHead_fails.2 h)]
  · rw [if_neg (not_not.2 hh ∘ patHead_fails.1), if_pos (patSize_fails.2 h)]
  · rw [if_neg (not_not.2 hh ∘ patHead_fails.1), if_neg (not_not.2 hs ∘ patSize_fails.1), if_pos (hcrc.2 h)]
  · rw [if_neg (not_not.2 hh ∘ patHead_fails.1), if_neg (not_not.2 hs ∘ patSize_fails.1), if_neg (not_not.2 hc ∘ hcrc.1),
      if_pos (patSigned_fails.2 h)]
  · rw [if_neg (not_not.2 hh ∘ patHead_fails.1), if_neg (not_not.2 hs ∘ patSize_fails.1), if_neg (not_not.2 hc ∘ hcrc.1),
      if_neg (not_not.2 h ∘ patSigned_fails.1)]

/-! ### The reasons of a Collar or far-end image (R414, R416) -/

/-- The header of an image (R414). -/
def ImgHead (h : List Byte) : Prop :=
  leAt h 0 4 = 0x474D4946 ∧ leAt h 4 2 = 1 ∧ leAt h 0x1C 4 = (crc32 (h.take 28)).toNat ∧ leAt h 0x13 9 = 0

/-- Kind and key slot of an image of target x (R414). -/
def ImgKind (x kind key : Nat) : Prop := if x = 4 then kind = 2 ∧ 1 ≤ key ∧ key ≤ 4 else kind = 1 ∧ key = 0

/-- The signature of an image of target x (R416). -/
def ImgSigned (s : State) (x : Nat) (lanistan customer : Bool) (key : Nat) : Prop :=
  (if x = 4 then customer else lanistan) = true ∧ (x = 4 → tget [] s.net.imageKeys key ≠ [])

theorem imgHead_fails {h : List Byte} :
    (leAt h 0 4 ≠ 0x474D4946 ∨ leAt h 4 2 ≠ 1 ∨ leAt h 0x1C 4 ≠ (crc32 (h.take 28)).toNat ∨ leAt h 0x13 9 ≠ 0) ↔ ¬ImgHead h := by
  simp only [ImgHead, not_and_or, ne_eq]

theorem imgKind_fails {x kind key : Nat} :
    (kind ≠ (if (x == 4) = true then 2 else 1) ∨ (if (x == 4) = true then key < 1 ∨ 4 < key else key ≠ 0)) ↔ ¬ImgKind x kind key := by
  by_cases h : x = 4
  · simp only [ImgKind, h, beq_self_eq_true, if_true, not_and_or, not_le, ne_eq]
  · simp only [ImgKind, beq_iff_eq, h, if_false, not_and_or, ne_eq]

theorem imgSigned_fails {s : State} {x key : Nat} {lanistan customer : Bool} :
    (!(if (x == 4) = true then customer else lanistan) || (x == 4 && (tget [] s.net.imageKeys key).isEmpty)) = true
      ↔ ¬ImgSigned s x lanistan customer key := by
  simp only [ImgSigned, Bool.or_eq_true, Bool.and_eq_true, Bool.not_eq_true', beq_iff_eq, List.isEmpty_iff, not_and_or, Classical.not_imp, not_not,
    ne_eq, Bool.not_eq_true]

theorem imageReason_spec (s : State) {x : Nat} (hx : x < 2 ∨ x = 4) (readBack lanistan customer : Bool) {h : List Byte}
    (hread : mread s.mram (dlAddr s x) 32 = h) :
    let size := leAt h 8 4 = (dl s x).total ∧ leAt h 8 4 ≤ dlSize x
    let kind := ImgKind x (leAt h 6 1) (leAt h 7 1)
    let signed := ImgSigned s x lanistan customer (leAt h 7 1)
    let floor := x = 4 ∨ cfg s 0x1800 10 ≤ leAt h 0x0C 4
    let reason := imageReason s x readBack lanistan customer
    (¬ImgHead h → reason = 1) ∧ (ImgHead h → ¬size → reason = 2) ∧ (ImgHead h → size → ¬kind → reason = 3)
    ∧ (ImgHead h → size → kind → readBack = false → reason = 4) ∧ (ImgHead h → size → kind → readBack = true → ¬signed → reason = 5)
    ∧ (ImgHead h → size → kind → readBack = true → signed → ¬floor → reason = 6)
    ∧ (ImgHead h → size → kind → readBack = true → signed → floor → reason = 0) := by
  intro size kind signed floor reason
  have hsize : (leAt h 8 4 ≠ (dl s x).total ∨ dlSize x < leAt h 8 4) ↔ ¬size := by
    simp only [size, not_and_or, not_le, ne_eq]
  have hfloor : (x < 2 ∧ leAt h 0x0C 4 < cfg s 0x1800 10) ↔ ¬floor := by
    have : x < 2 ↔ ¬x = 4 := by omega
    simp only [floor, not_or, not_le, this]
  have hback : (!readBack) = true ↔ readBack = false := by rw [Bool.not_eq_true']
  have hreason := imageReason.eq_1 s x readBack lanistan customer
  rw [hread] at hreason
  unfold reason
  rw [hreason]
  have hok (hb : readBack = true) : ¬(!readBack) = true := by rw [hb]; decide
  refine ⟨fun h₁ => ?_, fun h₁ h₂ => ?_, fun h₁ h₂ h₃ => ?_, fun h₁ h₂ h₃ h₄ => ?_, fun h₁ h₂ h₃ h₄ h₅ => ?_, fun h₁ h₂ h₃ h₄ h₅ h₆ => ?_,
    fun h₁ h₂ h₃ h₄ h₅ h₆ => ?_⟩
  · rw [if_pos (imgHead_fails.2 h₁)]
  · rw [if_neg (not_not.2 h₁ ∘ imgHead_fails.1), if_pos (hsize.2 h₂)]
  · rw [if_neg (not_not.2 h₁ ∘ imgHead_fails.1), if_neg (not_not.2 h₂ ∘ hsize.1), if_pos (imgKind_fails.2 h₃)]
  · rw [if_neg (not_not.2 h₁ ∘ imgHead_fails.1), if_neg (not_not.2 h₂ ∘ hsize.1), if_neg (not_not.2 h₃ ∘ imgKind_fails.1), if_pos (hback.2 h₄)]
  · rw [if_neg (not_not.2 h₁ ∘ imgHead_fails.1), if_neg (not_not.2 h₂ ∘ hsize.1), if_neg (not_not.2 h₃ ∘ imgKind_fails.1), if_neg (hok h₄),
      if_pos (imgSigned_fails.2 h₅)]
  · rw [if_neg (not_not.2 h₁ ∘ imgHead_fails.1), if_neg (not_not.2 h₂ ∘ hsize.1), if_neg (not_not.2 h₃ ∘ imgKind_fails.1), if_neg (hok h₄),
      if_neg (not_not.2 h₅ ∘ imgSigned_fails.1), if_pos (hfloor.2 h₆)]
  · rw [if_neg (not_not.2 h₁ ∘ imgHead_fails.1), if_neg (not_not.2 h₂ ∘ hsize.1), if_neg (not_not.2 h₃ ∘ imgKind_fails.1), if_neg (hok h₄),
      if_neg (not_not.2 h₅ ∘ imgSigned_fails.1), if_neg (not_not.2 h₆ ∘ hfloor.1)]

/-! ### The verification (R415 to R417) -/

/-- The reason that a completed image gives. -/
def verdict (s : State) (x : Nat) (readBack lanistan customer : Bool) : Nat :=
  if x = 2 ∨ x = 3 then patternReason s x readBack lanistan customer else imageReason s x readBack lanistan customer

section Verification
variable {s : State} {x : Fin 5} {readBack lanistan customer : Bool} (hstate : (dl s x).state = 2)
include hstate

theorem exec_verification : exec (.verificationComplete x readBack lanistan customer) s
    = .next (if verdict s x readBack lanistan customer = 0
      then imageVerified (setDl s x { dl s x with state := 3, reason := 0 }) x
      else setDl s x { dl s x with state := 4, reason := verdict s x readBack lanistan customer }) := by
  refine congrArg Host.Outcome.next ((if_neg (not_not.2 hstate)).trans ?_)
  dsimp only
  rw [show (if x.val = 2 ∨ x.val = 3 then patternReason s x readBack lanistan customer else imageReason s x readBack lanistan customer)
    = verdict s x readBack lanistan customer from rfl]
  by_cases h : verdict s x readBack lanistan customer = 0
  · rw [if_pos h, if_pos h, if_pos h, h]
  · rw [if_neg h, if_neg h, if_neg h]

theorem verification_rejects {r : Nat} (h : verdict s x readBack lanistan customer = r) (hr : r ≠ 0) :
    ∃ t, exec (.verificationComplete x readBack lanistan customer) s = .next t ∧ t = { s with boot := { s.boot with dls := t.boot.dls } }
      ∧ dl t x = { dl s x with state := 4, reason := r } ∧ ∀ k, k ≠ x.val → dl t k = dl s k := by
  refine ⟨setDl s x { dl s x with state := 4, reason := r }, ?_, rfl, dl_setDl_same .., fun k hk => dl_setDl_other _ _ hk⟩
  rw [exec_verification hstate, h, if_neg hr]

theorem verification_accepts (h : verdict s x readBack lanistan customer = 0) :
    exec (.verificationComplete x readBack lanistan customer) s = .next (imageVerified (setDl s x { dl s x with state := 3, reason := 0 }) x) := by
  rw [exec_verification hstate, if_pos h]

end Verification

/-- A verified image becomes usable. -/
theorem imageVerified_spec (s : State) (x : Nat) : let h := mread s.mram (dlAddr s x) 32
    let t := imageVerified (setDl s x { dl s x with state := 3, reason := 0 }) x
    t = { s with boot := { s.boot with dls := t.boot.dls, slotVer := t.boot.slotVer, slotValid := t.boot.slotValid, areas := t.boot.areas } }
    ∧ dl t x = { dl s x with state := 3, reason := 0 } ∧ (∀ k, k ≠ x → dl t k = dl s k)
    ∧ (x < 2 → slotVersion t x = BitVec.ofNat 32 (leAt h 0x0C 4) ∧ slotOk t x = true ∧ t.boot.areas = s.boot.areas)
    ∧ (x = 4 → tfind t.boot.areas (dl s x).area = some (leAt h 0x10 2, BitVec.ofNat 32 (leAt h 0x0C 4)))
    ∧ (x = 2 ∨ x = 3 → t = { s with boot := { s.boot with dls := t.boot.dls } }) := by
  intro h t
  obtain ⟨d, hd⟩ : ∃ d : Dl, { dl s x with state := 3, reason := 0 } = d := ⟨_, rfl⟩
  have ht : t = imageVerified (setDl s x d) x := by
    rw [← hd]
  rw [hd, ht]
  have harea : (dl (setDl s x d) x).area = (dl s x).area := by rw [dl_setDl_same, ← hd]
  have haddr : dlAddr (setDl s x d) x = dlAddr s x := by
    unfold dlAddr
    rw [harea]
  have hread : mread (setDl s x d).mram (dlAddr (setDl s x d) x) 32 = h := by
    rw [haddr]
    rfl
  have hcases : imageVerified (setDl s x d) x = if x < 2 then { setDl s x d with boot := { (setDl s x d).boot with
        slotVer := tput s.boot.slotVer x (BitVec.ofNat 32 (leAt h 0x0C 4)), slotValid := tset false s.boot.slotValid x true } }
      else if x = 4 then { setDl s x d with boot := { (setDl s x d).boot with
        areas := tput (s.boot.areas.filter fun a => a.2.1 != leAt h 0x10 2) (dl s x).area (leAt h 0x10 2, BitVec.ofNat 32 (leAt h 0x0C 4)) } }
      else setDl s x d := by
    have heq := imageVerified.eq_1 (setDl s x d) x
    dsimp only at heq
    rw [hread, harea] at heq
    exact heq
  by_cases hlow : x < 2
  · rw [hcases, if_pos hlow]
    have hok : tget false (tset false s.boot.slotValid x true) x = true := tget_tset_same false s.boot.slotValid x true
    refine ⟨rfl, dl_setDl_same .., fun k hk => dl_setDl_other s d hk, fun _ => ⟨?_, hok, rfl⟩, fun h4 => absurd hlow (by omega),
      fun h23 => absurd hlow (by omega)⟩
    unfold slotVersion slotOk
    dsimp only
    rw [hok, tfind_tput_same]
    rfl
  · rw [hcases, if_neg hlow]
    by_cases h4 : x = 4
    · rw [if_pos h4]
      exact ⟨rfl, dl_setDl_same .., fun k hk => dl_setDl_other s d hk, fun h2 => absurd h2 hlow, fun _ => tfind_tput_same .., fun h23 => absurd h4 (by omega)⟩
    · rw [if_neg h4]
      exact ⟨rfl, dl_setDl_same .., fun k hk => dl_setDl_other s d hk, fun h2 => absurd h2 hlow, fun h4' => absurd h4' h4, fun _ => rfl⟩

end Sys2Proof.Machine
end

section
/-! PROOFS. Downloads, activation, firmware floor and the load of a far end (R184, R413, R415, R417 to R420). -/
namespace Sys2Proof.Machine

/-! ### Downloads that end (R415) -/

/-- A download that has been returned to IDLE. -/
def Idled (s u t : State) (x : Nat) : Prop := t = { u with boot := { s.boot with dls := t.boot.dls, slotValid := t.boot.slotValid } }
  ∧ dl t x = {} ∧ (∀ k, k ≠ x → dl t k = dl s k) ∧ (x < 2 → slotOk t x = false) ∧ (∀ k, k ≠ x ∨ 2 ≤ k → slotOk t k = slotOk s k)

theorem dlIdle_spec {s u : State} (x : Nat) (hboot : u.boot = s.boot) : Idled s u (dlIdle u x) x := by
  obtain ⟨hframe, hlow, hhigh⟩ := dlInvalid_frame u x
  have hdl (k : Nat) : dl (dlInvalid u x) k = dl s k := by
    rw [hframe]
    unfold dl
    rw [hboot]
  refine ⟨?_, dl_setDl_same .., fun k hk => (dl_setDl_other _ _ hk).trans (hdl k), hlow, fun k hk => ?_⟩
  · unfold dlIdle setDl
    dsimp only
    generalize (dlInvalid u x).boot.slotValid = v at hframe
    rw [hframe, ← hboot]
  · show tget false (dlInvalid u x).boot.slotValid k = tget false s.boot.slotValid k
    by_cases hx : x < 2
    · have hne : k ≠ x := hk.elim id fun h => by omega
      unfold dlInvalid
      rw [if_pos hx, ← hboot]
      exact tget_tset_other false u.boot.slotValid x k false hne
    · rw [hhigh (not_lt.1 hx), hboot]

theorem effect_dlAbort (s : State) (x : Fin 5) (v : Nat) : effect s (0x1808 + x) 5 v = dlAbortWrite s x v := by
  fin_cases x <;> rfl

theorem download_spec (s : State) (x : Fin 5) :
    ((dl s x).state = 1 → ∃ t, exec (.downloadTimeout x) s = .next t ∧ Idled s s t x)
    ∧ ((dl s x).state ≠ 1 → exec (.downloadTimeout x) s = .next s)
    ∧ ∀ (lvl : Level) (v : Byte), Admits s lvl (0x1808 + x) 5 v.toNat →
      (v ≠ 0 → (dl s x).state = 1 ∨ (dl s x).state = 2 → ∃ t, exec (.dlAbort lvl x v) s = .next t ∧ Idled s (answered s stOK) t x)
      ∧ (v = 0 ∨ ((dl s x).state ≠ 1 ∧ (dl s x).state ≠ 2) → exec (.dlAbort lvl x v) s = .next (answered s stOK)) := by
  refine ⟨fun h => ⟨_, congrArg Host.Outcome.next (if_pos h), dlIdle_spec x rfl⟩, fun h => congrArg Host.Outcome.next (if_neg h), fun lvl v hadm => ?_⟩
  have hx := x.isLt
  have hexec := exec_admitted (c := .dlAbort lvl x v) rfl hadm
  rw [dropReserved_low (by omega) (by omega) (by omega) (by omega), effect_dlAbort] at hexec
  have hv : v.toNat = 0 ↔ v = 0 := by rw [BitVec.toNat_eq]; rfl
  have hwrite {r : Nat × State} (h : dlAbortWrite (taken s) x v.toNat = r) : exec (.dlAbort lvl x v) s = .next (withStatus r.2 r.1) := by
    rw [hexec, h]
  refine ⟨fun h0 hgo => ⟨_, hwrite ((if_neg (h0 ∘ hv.1)).trans (if_pos hgo)), ?_⟩, fun h => ?_⟩
  · obtain ⟨hframe, hdl, hother, hslot, hslots⟩ := dlIdle_spec (s := s) (u := taken s) x rfl
    refine ⟨?_, hdl, hother, hslot, hslots⟩
    generalize dlIdle (taken s) x = t at hframe
    dsimp only
    generalize t.boot.dls = d at hframe
    generalize t.boot.slotValid = w at hframe
    rw [hframe]
    rfl
  · by_cases h0 : v = 0
    · exact hwrite (if_pos (hv.2 h0))
    · obtain ⟨h1, h2⟩ := h.resolve_left h0
      exact hwrite ((if_neg (h0 ∘ hv.1)).trans (if_neg (not_or.2 ⟨h1, h2⟩)))

/-! ### Activation and confirmation (R413, R419, R422) -/

theorem activate_spec {s : State} {lvl : Level} {v : Byte} (hadm : Admits s lvl 0x1800 6 v.toNat) :
    let pending := s.pat.shadowState = 2 ∨ s.arm.queued = true ∨ s.arm.state = 1 ∨ s.arm.state = 2
      ∨ ∃ p ∈ s.net.pend, isImage p.index = true
    ((dl s v.toNat).state ≠ 3 → exec (.activate lvl v) s = .next (answered s stState))
    ∧ ((dl s v.toNat).state = 3 → s.boot.recovery = false → pending → exec (.activate lvl v) s = .next (answered s stBusy))
    ∧ ((dl s v.toNat).state = 3 → s.boot.recovery = false → ¬pending → exec (.activate lvl v) s = .next { answered s stOK with
        boot := { s.boot with bootSlot := v.toNat, trial := true, restarting := true },
        shelf := { s.shelf with cwdTime := 0 } })
    ∧ ((dl s v.toNat).state = 3 → s.boot.recovery = true →
      let r := resetNow { taken s with boot := { s.boot with
        bootSlot := v.toNat, confirmed := v.toNat, trial := false } } 3 0
      exec (.activate lvl v) s = .next { r with net := { r.net with status := stOK } }) := by
  intro pending
  have hexec := exec_admitted (c := .activate lvl v) rfl hadm
  have heff : effect (taken s) 0x1800 6 v.toNat = activateWrite (taken s) v.toNat := rfl
  rw [dropReserved_low (by decide) (by decide) (by decide) (by decide), heff] at hexec
  have hwrite {r : Nat × State} (h : activateWrite (taken s) v.toNat = r) : exec (.activate lvl v) s = .next (withStatus r.2 r.1) := by
    rw [hexec, h]
  have hpending : changePending (taken s) = true ↔ pending := by
    unfold changePending
    simp only [pending, Bool.or_eq_true, beq_iff_eq, List.any_eq_true, or_assoc]
    rfl
  refine ⟨fun h => hwrite (if_pos h), fun h hrec hp => hwrite ((if_neg (not_not.2 h)).trans ((if_neg ?_).trans (if_pos (hpending.2 hp)))),
    fun h hrec hp => hwrite ((if_neg (not_not.2 h)).trans ((if_neg ?_).trans (if_neg (hp ∘ hpending.1)))),
    fun h hrec => hwrite ((if_neg (not_not.2 h)).trans (if_pos hrec))⟩
  · exact Bool.eq_false_iff.1 hrec
  · exact Bool.eq_false_iff.1 hrec

theorem confirm_spec {s : State} {lvl : Level} {v : Byte} (hadm : Admits s lvl 0x1800 7 v.toNat) :
    (v = 0 ∨ s.boot.trial = false → exec (.confirm lvl v) s = .next (answered s stOK))
    ∧ (v ≠ 0 → s.boot.trial = true → exec (.confirm lvl v) s = .next { answered s stOK with
        boot := { s.boot with trial := false, confirmed := s.boot.runningSlot } }) := by
  have hexec := exec_admitted (c := .confirm lvl v) rfl hadm
  have heff : effect (taken s) 0x1800 7 v.toNat = confirmWrite (taken s) v.toNat := rfl
  rw [dropReserved_low (by decide) (by decide) (by decide) (by decide), heff] at hexec
  have hv : v.toNat = 0 ↔ v = 0 := by rw [BitVec.toNat_eq]; rfl
  have hwrite {r : Nat × State} (h : confirmWrite (taken s) v.toNat = r) : exec (.confirm lvl v) s = .next (withStatus r.2 r.1) := by
    rw [hexec, h]
  refine ⟨fun h => hwrite (if_pos (h.imp hv.2 id)), fun h htrial => hwrite (if_neg (not_or.2 ⟨h ∘ hv.1, ?_⟩))⟩
  rw [show (taken s).boot.trial = true from htrial]
  decide

theorem trialConfirm_spec (s : State) :
    (s.boot.trial = true → collarRuns s = true → exec .trialConfirm s = .next { s with
      boot := { s.boot with trial := false, confirmed := s.boot.runningSlot } })
    ∧ (¬(s.boot.trial = true ∧ collarRuns s = true) → exec .trialConfirm s = .next s) :=
  ⟨fun htrial hruns => congrArg Host.Outcome.next (if_pos (by rw [htrial, hruns]; rfl)),
    fun h => congrArg Host.Outcome.next (if_neg (by rw [Bool.and_eq_true]; exact h))⟩

theorem fwFloor_spec {s : State} {lvl : Level} {f : Word} (hadm : Admits s lvl 0x1800 10 f.toNat) :
    let right := cfg s 0x1800 10 ≤ f.toNat ∧ s.boot.trial = false ∧ f.toNat ≤ (slotVersion s s.boot.runningSlot).toNat
    (right → exec (.fwFloor lvl f) s = .next { answered s stOK with cfg := tput s.cfg (okey 0x1800 10) f.toNat })
    ∧ (¬right → exec (.fwFloor lvl f) s = .next (answered s stRange)) := by
  intro right
  have hexec := exec_admitted (c := .fwFloor lvl f) rfl hadm
  have heff : effect (taken s) 0x1800 10 f.toNat = floorWrite (taken s) f.toNat := rfl
  rw [dropReserved_low (by decide) (by decide) (by decide) (by decide), heff] at hexec
  have hwrite {r : Nat × State} (h : floorWrite (taken s) f.toNat = r) : exec (.fwFloor lvl f) s = .next (withStatus r.2 r.1) := by
    rw [hexec, h]
  have hright : (f.toNat < cfg (taken s) 0x1800 10 ∨ (taken s).boot.trial = true
      ∨ (slotVersion (taken s) (taken s).boot.runningSlot).toNat < f.toNat) ↔ ¬right := by
    rw [cfg_of (s := s) (t := taken s) rfl rfl]
    simp only [right, not_and_or, not_le, Bool.not_eq_false]
    rfl
  exact ⟨fun h => hwrite (if_neg (not_not.2 h ∘ hright.1)), fun h => hwrite (if_pos (hright.2 h))⟩

/-! ### The load of a far end (R184, R418) -/

/-- A message spells its tag in one byte. -/
theorem message_mod (ty tag : Nat) (body : List Byte) : message ty (tag % 256) body = message ty tag body := by
  unfold message
  rw [show BitVec.ofNat 8 (tag % 256) = BitVec.ofNat 8 tag from BitVec.eq_of_toNat_eq (by simp)]

theorem waiting_append (m : MboxSide) (msg : List Byte) : waiting { m with wait := m.wait ++ [(5, msg)] } 5 = true := by
  unfold waiting
  rw [List.any_append, List.any_cons, Bool.or_eq_true]
  exact .inr rfl

/-- Messages on queue 5 keep their order: first those that find room, then those that wait. -/
theorem sendMsg_fold (n : Nat) (l : List (Nat × List Byte)) : ∀ (i tag : Nat) (s : State), (link s n).tag % 256 = (tag + i) % 256 →
    ∃ new more, let t := l.foldl (fun s b => sendMsg s n 5 b.1 b.2) s
      t = { s with links := t.links } ∧ (∀ m, m ≠ n → link t m = link s m)
      ∧ (link t n).mbx.out = (link s n).mbx.out ++ new ∧ (link t n).mbx.wait = (link s n).mbx.wait ++ more
      ∧ (∀ m ∈ new ++ more, m.1 = 5)
      ∧ (new ++ more).map (fun m => m.2) = (l.zipIdx i).map (fun b => message b.1.1 ((tag + b.2) % 256) b.1.2)
      ∧ (waiting (link s n).mbx 5 = true → new = []) := by
  induction l with
  | nil =>
    exact fun i tag s _ => ⟨[], [], rfl, fun _ _ => rfl, (List.append_nil _).symm, (List.append_nil _).symm, fun _ h => absurd h List.not_mem_nil, rfl, fun _ => rfl⟩
  | cons b l ih =>
    intro i tag s htag
    have hmsg : message b.1 ((tag + i) % 256) b.2 = message b.1 (link s n).tag b.2 := by rw [← htag, message_mod]
    have hlink : link (sendMsg s n 5 b.1 b.2) n = { link s n with
        mbx := offer (poolBytes s) (link s n).mbx 5 (message b.1 (link s n).tag b.2), tag := ((link s n).tag + 1) % 256 } := link_updLink s n _
    have hother (m : Nat) (hm : m ≠ n) : link (sendMsg s n 5 b.1 b.2) m = link s m := link_updLink_other s n m _ hm
    have hframe : sendMsg s n 5 b.1 b.2 = { s with links := (sendMsg s n 5 b.1 b.2).links } := rfl
    generalize hu : sendMsg s n 5 b.1 b.2 = u at hlink hother hframe
    generalize message b.1 (link s n).tag b.2 = msg at hmsg hlink
    obtain ⟨new, more, ht, hothers, hout, hwait, hfive, hmap, hnone⟩ := ih (i + 1) tag u (by rw [hlink]; dsimp only; omega)
    rw [List.zipIdx_cons, List.map_cons, List.foldl_cons, hu, hmsg]
    generalize l.foldl (fun s b => sendMsg s n 5 b.1 b.2) u = t at *
    have hall : t = { s with links := t.links } := by
      generalize t.links = x at ht
      rw [ht, hframe]
    have hrest (m : Nat) (hm : m ≠ n) : link t m = link s m := (hothers m hm).trans (hother m hm)
    by_cases hroom : (!waiting (link s n).mbx 5 && hasRoom (poolBytes s) (link s n).mbx 5 msg.length) = true
    · have hoffer : (link u n).mbx = enqueue (link s n).mbx 5 msg := by
        rw [hlink]
        exact if_pos hroom
      rw [hoffer] at hout hwait
      refine ⟨(5, msg) :: new, more, hall, hrest, ?_, hwait, fun m hm => ?_, ?_, fun hw => ?_⟩
      · rw [hout]
        exact List.append_assoc _ [(5, msg)] new
      · rcases List.mem_cons.1 hm with rfl | hm
        · rfl
        · exact hfive m hm
      · rw [List.cons_append, List.map_cons, hmap]
      · rw [hw] at hroom
        cases hroom
    · have hoffer : (link u n).mbx = { (link s n).mbx with wait := (link s n).mbx.wait ++ [(5, msg)] } := by
        rw [hlink]
        exact if_neg hroom
      rw [hoffer] at hout hwait hnone
      have hnew : new = [] := hnone (waiting_append _ _)
      rw [hnew] at hout hfive hmap
      refine ⟨[], (5, msg) :: more, hall, hrest, hout, ?_, fun m hm => ?_, ?_, fun _ => rfl⟩
      · rw [hwait, List.append_assoc]
        rfl
      · rcases List.mem_cons.1 hm with rfl | hm
        · rfl
        · exact hfive m hm
      · rw [List.nil_append, List.map_cons, ← hmap, List.nil_append]

/-- The messages of a load: FW_BEGIN, the blocks and FW_END. -/
def loadBodies (s : State) (k : Nat) : List (Nat × List Byte) :=
  let img := mread s.mram (areaAddr k) (leNat (mread s.mram (areaAddr k + 8) 4))
  let begins := leBytes 4 (leNat (mread s.mram (areaAddr k + 8) 4)) ++ wordBytes (crc32 img)
    ++ mread s.mram (areaAddr k + 12) 4 ++ mread s.mram (areaAddr k + 16) 2 ++ [0, 0]
  (0x20, begins) :: (fwBlocks img ((leNat (mread s.mram (areaAddr k + 8) 4) + 1023) / 1024) 0).map (fun b => (0x21, b)) ++ [(0x22, [])]

theorem fwSend_eq {s : State} {n k : Nat} (hk : areaOf s (link s n).fwFamily = some k) :
    fwSend s n = updLink ((loadBodies s k).foldl (fun s b => sendMsg s n 5 b.1 b.2) s) n fun l =>
      { l with fwLoad := 1, fwImage := BitVec.ofNat 32 (leNat (mread s.mram (areaAddr k + 12) 4)) } := by
  unfold fwSend loadBodies
  rw [hk]
  dsimp only
  simp only [List.cons_append, List.foldl_cons, List.foldl_append, List.foldl_map, List.foldl_nil]

theorem fwSend_spec {s : State} {n k : Nat} (hk : areaOf s (link s n).fwFamily = some k) : let t := fwSend s n
    t = { s with links := t.links } ∧ (∀ m, m ≠ n → link t m = link s m) ∧ (link t n).fwLoad = 1
    ∧ ∃ new more, (link t n).mbx.out = (link s n).mbx.out ++ new ∧ (link t n).mbx.wait = (link s n).mbx.wait ++ more
      ∧ (∀ m ∈ new ++ more, m.1 = 5)
      ∧ (new ++ more).map (fun m => m.2) = (loadBodies s k).zipIdx.map fun b => message b.1.1 (((link s n).tag + b.2) % 256) b.1.2 := by
  obtain ⟨new, more, ht, hother, hout, hwait, hfive, hmap, -⟩ := sendMsg_fold n (loadBodies s k) 0 (link s n).tag s (by rw [Nat.add_zero])
  intro t
  have hsend : t = _ := fwSend_eq hk
  generalize (loadBodies s k).foldl (fun s b => sendMsg s n 5 b.1 b.2) s = u at *
  have hlink : link t n = _ := (congrArg (link · n) hsend).trans (link_updLink _ n _)
  refine ⟨?_, fun m hm => ?_, by rw [hlink], new, more, by rw [hlink]; exact hout, by rw [hlink]; exact hwait, hfive, hmap⟩
  · rw [hsend]
    generalize u.links = x at ht
    rw [ht]
    rfl
  · rw [hsend, link_updLink_other _ _ _ _ hm]
    exact hother m hm

theorem feLoad_spec {s : State} {lvl : Level} {v : Byte} (hadm : Admits s lvl 0x1810 2 v.toNat) :
    let n := cfg s 0x1810 1
    let able := (link s n).state = .hem ∧ commands s = true ∧ (areaOf s (link s n).fwFamily).isSome = true
      ∧ (link s n).fwLoad = 0
    (v = 0 → exec (.feLoad lvl v) s = .next (answered s stOK))
    ∧ (v ≠ 0 → ¬able → exec (.feLoad lvl v) s = .next (answered s stState))
    ∧ (v ≠ 0 → able → ∃ t, exec (.feLoad lvl v) s = .next t ∧ t = { answered s stOK with links := t.links }
        ∧ (∀ k, k ≠ n → link t k = link s k) ∧ (link t n).fwLoad = 1
        ∧ ∃ k new more, areaOf s (link s n).fwFamily = some k
          ∧ (link t n).mbx.out = (link s n).mbx.out ++ new ∧ (link t n).mbx.wait = (link s n).mbx.wait ++ more
          ∧ (∀ m ∈ new ++ more, m.1 = 5)
          ∧ let img := mread s.mram (areaAddr k) (leNat (mread s.mram (areaAddr k + 8) 4))
            let begins := leBytes 4 (leNat (mread s.mram (areaAddr k + 8) 4)) ++ wordBytes (crc32 img)
              ++ mread s.mram (areaAddr k + 12) 4 ++ mread s.mram (areaAddr k + 16) 2 ++ [0, 0]
            let bodies := (0x20, begins) :: (fwBlocks img ((leNat (mread s.mram (areaAddr k + 8) 4) + 1023) / 1024) 0).map
              (fun b => (0x21, b)) ++ [(0x22, [])]
            (new ++ more).map (fun m => m.2)
              = bodies.zipIdx.map fun b => message b.1.1 (((link s n).tag + b.2) % 256) b.1.2) := by
  intro n able
  have hexec := exec_admitted (c := .feLoad lvl v) rfl hadm
  have heff : effect (taken s) 0x1810 2 v.toNat = feLoadWrite (taken s) v.toNat := rfl
  rw [dropReserved_low (by decide) (by decide) (by decide) (by decide), heff] at hexec
  have hv : v.toNat = 0 ↔ v = 0 := by rw [BitVec.toNat_eq]; rfl
  have hwrite {r : Nat × State} (h : feLoadWrite (taken s) v.toNat = r) : exec (.feLoad lvl v) s = .next (withStatus r.2 r.1) := by
    rw [hexec, h]
  have hn : cfg (taken s) 0x1810 1 = n := cfg_of rfl rfl _ _
  have hable : ((link s n).state != .hem || !commands s || (areaOf s (link s n).fwFamily).isNone || (link s n).fwLoad != 0) = true ↔ ¬able := by
    simp only [able, Bool.or_eq_true, bne_iff_ne, Bool.not_eq_true', not_and_or, Bool.not_eq_true, or_assoc, ne_eq, Option.isNone_iff_eq_none,
      Option.isSome_eq_false_iff]
  have hload {r : Nat × State} (h0 : v ≠ 0) (h : (if (link s n).state != .hem || !commands s || (areaOf s (link s n).fwFamily).isNone
      || (link s n).fwLoad != 0 then (stState, taken s) else (stOK, fwSend (taken s) n)) = r) : feLoadWrite (taken s) v.toNat = r := by
    have heq := feLoadWrite.eq_1 (taken s) v.toNat
    rw [hn] at heq
    exact heq.trans ((if_neg (h0 ∘ hv.1)).trans h)
  refine ⟨fun h => hwrite (if_pos (hv.2 h)), fun h0 hno => hwrite (hload h0 (if_pos (hable.2 hno))), fun h0 hyes => ?_⟩
  obtain ⟨k, hk⟩ := Option.isSome_iff_exists.1 hyes.2.2.1
  have hrun := hwrite (hload h0 (if_neg (not_not.2 hyes ∘ hable.1)))
  obtain ⟨hframe, hother, hone, new, more, hout, hwait, hfive, hmap⟩ := fwSend_spec (s := taken s) (n := n) hk
  generalize fwSend (taken s) n = t at *
  refine ⟨withStatus t stOK, hrun, ?_, hother, hone, k, new, more, hk, hout, hwait, hfive, hmap⟩
  show withStatus t stOK = { answered s stOK with links := t.links }
  generalize t.links = x at hframe
  rw [hframe]
  rfl

/-- Settles O59: verification, downloads that end, activation, confirmation, the floor and the load of a far end. -/
theorem imagesAreVerifiedAndActivated : Obligations.ImagesAreVerifiedAndActivated := by
  refine ⟨fun s x readBack lanistan customer => ?_, download_spec, fun s lvl v => ⟨activate_spec, confirm_spec, (trialConfirm_spec s).1, (trialConfirm_spec s).2,
    fun f => fwFloor_spec, feLoad_spec⟩⟩
  intro h q c rejects head size kind signed secs parts patHead patSize patCrc patSigned floor
  refine ⟨fun hno => congrArg Host.Outcome.next (if_pos hno), fun hstate => ⟨fun hx => ?_, fun hx hh hs hc hsig => ?_, fun h2 h3 => ?_⟩⟩
  · have hverdict : verdict s x readBack lanistan customer = patternReason s x readBack lanistan customer := if_pos hx
    obtain ⟨h₁, h₂, h₃, h₄, -⟩ := patternReason_spec s x readBack lanistan customer (q := q) rfl (secs := secs) rfl (parts := parts) rfl
    exact ⟨fun a => verification_rejects hstate (hverdict.trans (h₁ a)) (by decide),
      fun a b => verification_rejects hstate (hverdict.trans (h₂ a b)) (by decide),
      fun a b d => verification_rejects hstate (hverdict.trans (h₃ a b d)) (by decide),
      fun a b d e => verification_rejects hstate (hverdict.trans (h₄ a b d e)) (by decide)⟩
  · have hverdict : verdict s x readBack lanistan customer = patternReason s x readBack lanistan customer := if_pos hx
    obtain ⟨-, -, -, -, h₅⟩ := patternReason_spec s x readBack lanistan customer (q := q) rfl (secs := secs) rfl (parts := parts) rfl
    obtain ⟨-, hdl, hother, -, -, hplain⟩ := imageVerified_spec s x
    exact ⟨_, verification_accepts hstate (hverdict.trans (h₅ hh hs hc hsig)), hplain hx, hdl, hother⟩
  · have hverdict : verdict s x readBack lanistan customer = imageReason s x readBack lanistan customer := if_neg (not_or.2 ⟨h2, h3⟩)
    obtain ⟨h₁, h₂, h₃, h₄, h₅, h₆, h₇⟩ := imageReason_spec s (x := x) (by omega) readBack lanistan customer (h := h) rfl
    obtain ⟨hframe, hdl, hother, hslot, harea, -⟩ := imageVerified_spec s x
    exact ⟨fun a => verification_rejects hstate (hverdict.trans (h₁ a)) (by decide),
      fun a b => verification_rejects hstate (hverdict.trans (h₂ a b)) (by decide),
      fun a b d => verification_rejects hstate (hverdict.trans (h₃ a b d)) (by decide),
      fun a b d e => verification_rejects hstate (hverdict.trans (h₄ a b d e)) (by decide),
      fun a b d e f => verification_rejects hstate (hverdict.trans (h₅ a b d e f)) (by decide),
      fun a b d e f g => verification_rejects hstate (hverdict.trans (h₆ a b d e f g)) (by decide),
      fun a b d e f g => ⟨_, verification_accepts hstate (hverdict.trans (h₇ a b d e f g)), hframe, hdl, hother, hslot, harea⟩⟩

end Sys2Proof.Machine
end

section
/-! PROOFS. Within a round nothing changes the counters of the wheel, its timebase or the writes that wait. -/
namespace Sys2Proof.Machine

/-- The timebase, the counters of the wheel (R34) and the writes that wait for their seam. -/
structure Clock where
  w : Nat
  ric : Nat
  acc : Word
  ris : Nat
  round : Word
  newBase : Option (Nat × Nat)
  l : Nat
  seam : Word
  seamDue : Bool
  closed : Bool
  pend : List PendWrite

/-- That part of a core. -/
def clock (c : Core) : Clock where
  w := c.w
  ric := c.ric
  acc := c.acc
  ris := c.ris
  round := c.round
  newBase := c.newBase
  l := c.l
  seam := c.seam
  seamDue := c.seamDue
  closed := c.closed
  pend := c.pend

/-- A state that differs from another in no field of the wheel or of the network side. -/
@[simp] theorem clock_mk (t : State)
    (pending feedA feedB sense arr pat arm links ctls fes flow shelf sq hem pair recorder tws timers gpio boot cfg mram draws) :
    clock (core ⟨pending, t.wheel, feedA, feedB, sense, arr, pat, arm, links, ctls, fes, flow, shelf, sq, hem, pair, t.net,
      recorder, tws, timers, gpio, boot, cfg, mram, draws⟩) = clock (core t) := rfl

section Branches
variable {c : Prop} [Decidable c] {x : Clock}

@[simp] theorem clock_ite {a b : State} :
    clock (core (if c then a else b)) = x ↔ (c → clock (core a) = x) ∧ (¬c → clock (core b) = x) := by
  split <;> simp [*]

end Branches

@[simp] theorem clock_foldl {α : Type} {f : State → α → State} (hf : ∀ s a, clock (core (f s a)) = clock (core s)) (l : List α) :
    ∀ s, clock (core (l.foldl f s)) = clock (core s) := by
  induction l with
  | nil => exact fun _ => rfl
  | cons a l ih => exact fun s => (ih _).trans (hf s a)

@[simp] theorem clock_forAll {f : State → Nat → State} (hf : ∀ s n, clock (core (f s n)) = clock (core s)) (l : List Nat)
    (s : State) : clock (core (forAll l f s)) = clock (core s) := clock_foldl hf l s

@[simp] theorem clock_setDmem (s : State) (m : Mem) : clock (core (setDmem s m)) = clock (core s) := by
  unfold setDmem
  simp

@[simp] theorem clock_mirrorWord (s : State) (e idx : Nat) (w : Word) : clock (core (mirrorWord s e idx w)) = clock (core s) := by
  unfold mirrorWord
  simp

@[simp] theorem clock_writeSlot (s : State) (n : Nat) : clock (core (writeSlot s n)) = clock (core s) := by
  unfold writeSlot
  simp

@[simp] theorem clock_exchange (s : State) : clock (core (exchange s)) = clock (core s) := by
  unfold exchange
  simp

@[simp] theorem clock_coldLoad (s : State) (img : PatImg) : clock (core (coldLoad s img)) = clock (core s) := by
  unfold coldLoad
  simp

@[simp] theorem clock_stageRound (s : State) : clock (core (stageRound s)) = clock (core s) := by
  unfold stageRound
  simp

@[simp] theorem clock_swapPattern (s : State) : clock (core (swapPattern s)) = clock (core s) := by
  unfold swapPattern
  simp

@[simp] theorem clock_applyParam (s : State) (w : ParamWrite) : clock (core (applyParam s w)) = clock (core s) := by
  unfold applyParam
  split <;> simp

@[simp] theorem clock_traceWrite (s : State) : clock (core (traceWrite s)) = clock (core s) := by
  unfold traceWrite
  simp

@[simp] theorem clock_commitCatchUp (s : State) : clock (core (commitCatchUp s)) = clock (core s) := by
  unfold commitCatchUp
  simp

@[simp] theorem clock_seamCommit (s : State) : clock (core (seamCommit s)) = clock (core s) := by
  unfold seamCommit
  simp

@[simp] theorem clock_applyParams (s : State) : clock (core (applyParams s)) = clock (core s) := by
  unfold applyParams
  simp

@[simp] theorem clock_seamParams (s : State) : clock (core (seamParams s)) = clock (core s) := by
  unfold seamParams
  simp

@[simp] theorem clock_snapshotNow (s : State) : clock (core (snapshotNow s)) = clock (core s) := by
  unfold snapshotNow
  simp

@[simp] theorem clock_arrayCatchUp (s : State) : clock (core (arrayCatchUp s)) = clock (core s) := by
  unfold arrayCatchUp
  simp

@[simp] theorem clock_portOutput (s : State) (n : Nat) : clock (core (portOutput s n)) = clock (core s) := by
  unfold portOutput
  simp

@[simp] theorem clock_stopInRound (s : State) (n : Nat) (v : StepVals) : clock (core (stopInRound s n v)) = clock (core s) := by
  unfold stopInRound
  simp

@[simp] theorem clock_stopStep (s : State) (i : Nat) : clock (core (stopStep s i)) = clock (core s) := by
  unfold stopStep
  simp

@[simp] theorem clock_stopMore (k : Nat) : ∀ s : State, clock (core (stopMore k s)) = clock (core s) := by
  induction k with
  | zero => exact fun _ => rfl
  | succ k ih =>
    intro s
    unfold stopMore
    split <;> simp [ih]

@[simp] theorem clock_stopFirst (s : State) : clock (core (stopFirst s)) = clock (core s) := by
  unfold stopFirst
  simp

@[simp] theorem clock_raisePfw (s : State) : clock (core (raisePfw s)) = clock (core s) := by
  unfold raisePfw
  simp

@[simp] theorem clock_beginShutdown (s : State) (origin : Nat) : clock (core (beginShutdown s origin)) = clock (core s) := by
  unfold beginShutdown
  simp

@[simp] theorem clock_stepLateNow (s : State) (i : Nat) : clock (core (stepLateNow s i)) = clock (core s) := by
  unfold stepLateNow
  simp

@[simp] theorem clock_railNow (s : State) (i n : Nat) : clock (core (railNow s i n)) = clock (core s) := by
  unfold railNow
  simp

@[simp] theorem clock_railPort (s : State) (n : Nat) : clock (core (railPort s n)) = clock (core s) := by
  unfold railPort
  simp

@[simp] theorem clock_startAction (s : State) (i : Nat) : clock (core (startAction s i)) = clock (core s) := by
  unfold startAction
  simp

@[simp] theorem clock_startSteps (k : Nat) : ∀ s : State, clock (core (startSteps k s)) = clock (core s) := by
  induction k with
  | zero => exact fun _ => rfl
  | succ k ih =>
    intro s
    unfold startSteps
    simp [ih]

@[simp] theorem clock_seamSeq (s : State) : clock (core (seamSeq s)) = clock (core s) := by
  unfold seamSeq
  dsimp only
  (repeat' split) <;> simp

@[simp] theorem clock_seqCatchUp (s : State) : clock (core (seqCatchUp s)) = clock (core s) := by
  unfold seqCatchUp
  simp

@[simp] theorem clock_seqRound (s : State) : clock (core (seqRound s)) = clock (core s) := by
  unfold seqRound
  extract_lets -underBinder s₁ s₂ s₃
  have h₃ : clock (core s₃) = clock (core s) := by
    simp only [s₃]
    split <;> simp [s₂, s₁]
  clear_value s₃
  simp [h₃]

@[simp] theorem clock_railCatchUp (s : State) : clock (core (railCatchUp s)) = clock (core s) := by
  unfold railCatchUp
  simp

@[simp] theorem clock_warningNow (s : State) : clock (core (warningNow s)) = clock (core s) := by
  unfold warningNow
  simp

@[simp] theorem clock_flowCatchUp (s : State) : clock (core (flowCatchUp s)) = clock (core s) := by
  unfold flowCatchUp
  simp

@[simp] theorem clock_coldRegion (s : State) (e : Nat) : clock (core (coldRegion s e)) = clock (core s) := by
  unfold coldRegion
  simp

@[simp] theorem clock_takeoverNow (s : State) : clock (core (takeoverNow s)) = clock (core s) := by
  unfold takeoverNow
  extract_lets -underBinder kept whole seeds cause bare _ t _ u
  have ht : clock (core t) = clock (core s) := rfl
  have hu : clock (core u) = clock (core t) := by simp [u]
  clear_value t u
  rw [clock_ite]
  exact ⟨fun _ => ht, fun _ => hu.trans ht⟩

@[simp] theorem clock_roundEnd (s : State) : clock (core (roundEnd s)) = clock (core s) := by
  unfold roundEnd
  extract_lets -underBinder s₁ s₂ s₃ s₄ s₅ s₆ s₇
  have h₁ : clock (core s₁) = clock (core s) := by simp [s₁]
  have h₃ : clock (core s₃) = clock (core s₁) := by simp [s₃, s₂]
  have h₆ : clock (core s₆) = clock (core s₃) := by simp [s₆, s₅, s₄]
  have h₇ : clock (core s₇) = clock (core s₆) := by simp [s₇]
  rw [clock_ite, clock_takeoverNow, h₇, h₆, h₃, h₁]
  exact ⟨fun _ => rfl, fun _ => rfl⟩

@[simp] theorem clock_roundBegin (s : State) : clock (core (roundBegin s)) = clock (core s) := by
  unfold roundBegin
  extract_lets -underBinder s₁ s₂ s₃ s₄
  have h₂ : clock (core s₂) = clock (core s) := by simp [s₂, s₁]
  have h₃ : clock (core s₃) = clock (core s₂) := by simp [s₃]
  rw [← h₂, ← h₃]
  simp [s₄]

/-! ### A seam -/

/-- From one clock to another at most a timebase that awaits its tick took effect. -/
structure Steady (c d : Clock) : Prop where
  counters : (d.round, d.acc, d.ric, d.ris, d.seam) = (c.round, c.acc, c.ric, c.ris, c.seam)
  flags : (d.seamDue, d.closed) = (c.seamDue, c.closed)
  pend : d.pend = c.pend
  same : c.newBase = none → d = c

theorem steady_refl (c : Clock) : Steady c c := ⟨rfl, rfl, rfl, fun _ => rfl⟩

theorem steady_takeBase (s : State) : Steady (clock (core s)) (clock (core (takeBase s))) := by
  unfold takeBase
  split
  · rename_i w l hnew
    split
    · exact steady_refl _
    · split
      · rename_i hnow
        refine ⟨?_, rfl, rfl, fun h => absurd (hnew.symm.trans h) nofun⟩
        by_cases he : w = s.wheel.w
        · simp [clock, core, he]
        · have hz : s.wheel.ric = 0 := by simpa [he] using hnow
          simp [clock, core, he, hz]
      · exact steady_refl _
  · exact steady_refl _

theorem steady_restartHalt (s : State) : Steady (clock (core s)) (clock (core (restartHalt s))) := by
  unfold restartHalt
  extract_lets -underBinder hem s₁ s₂ s₃ img s₄ arr pat flow s₅
  have h₃ : clock (core s₃) = clock (core s) := by simp [s₃, s₂, s₁]
  have h₄ : clock (core s₄) = clock (core s₃) := clock_coldLoad s₃ img
  clear_value s₄
  have h₅ : clock (core s₅) = clock (core s₄) := clock_mk ..
  clear_value s₅
  rw [← h₃, ← h₄, ← h₅]
  exact steady_takeBase s₅

theorem steady_seamRestart (s : State) : Steady (clock (core s)) (clock (core (seamRestart s))) := by
  unfold seamRestart
  extract_lets -underBinder t
  have ht : clock (core t) = clock (core s) := by simp [t]
  rw [← ht]
  split
  · split
    · exact steady_restartHalt t
    · exact steady_refl _
  · exact steady_refl _

/-- The clock of a seam before its writes are applied: the preparation of the next seam is open, no seam is due and the writes
whose interval has come are taken (R35, R130). -/
def seamClock (c : Clock) : Clock :=
  { c with
    closed := false, seamDue := false,
    pend := (c.pend.filter fun p => p.skip != 0).map fun p => { p with skip := p.skip - 1 } }

/-- A seam changes the clock as its writes and a RESTART load do. -/
theorem steady_seamNow (s : State) : Steady (seamClock (clock (core s))) (clock (core (seamNow s))) := by
  unfold seamNow
  extract_lets -underBinder i src s₁ s₂ s₃ s₄ s₅ s₆ s₇ s₈ s₉ s₁₀
  have h₂ : core s₂ = core s₁ := by simp [s₂]
  clear_value s₂
  have h₃ : clock (core s₃) = seamClock (clock (core s)) := by
    have hp : clock (core (applyPend s₂)) = seamClock (clock (core s)) := by
      have hq : s₂.net.pend = s.net.pend := congrArg Core.pend h₂
      rw [core_applyPend, h₂, hq]
      rfl
    simp [s₃, hp]
  have h₄ : Steady (clock (core s₃)) (clock (core s₄)) := by
    have h := steady_seamRestart (seamArmCommit (armDecide (seamArm (seamCommit s₃))))
    simpa using h
  have h₇ : clock (core s₇) = clock (core s₄) := by simp [s₇, s₆, s₅]
  have h₁₀ : clock (core s₁₀) = clock (core s₇) := by simp [s₁₀, s₉, s₈]
  clear_value s₁₀
  simp only [core_subsSeam, clock_roundBegin, core_wheelSet, h₁₀, h₇, ← h₃]
  exact h₄

/-! ### A tick -/

/-- The clock of the tick: round index, accumulator and the counters of cycle, interval and seam advance (R28, R34). -/
def tickClock (c : Clock) : Clock :=
  { c with
    acc := c.acc + BitVec.ofNat 32 (2 ^ 32 / c.w), round := c.round + 1, ric := (c.ric + 1) % c.w, ris := (c.ris + 1) % 1024,
    seam := if (c.ris + 1) % 1024 = 0 then c.seam + 1 else c.seam, seamDue := (c.ris + 1) % 1024 == 0 }

theorem steady_wheelCount (s : State) : Steady (tickClock (clock (core s))) (clock (core (wheelCount s))) := by
  unfold wheelCount
  extract_lets -underBinder w tr src t
  have ht : clock (core (syncTick t)) = tickClock (clock (core s)) := by
    rw [core_syncTick]
    rfl
  rw [← ht]
  exact steady_takeBase _

/-- A tick advances the clock of the round that ends; only whether the next seam's preparation is closed is set anew (R130). -/
theorem steady_tickFront (s : State) (i : TickIn) :
    ∃ d closed, Steady (tickClock (clock (core s))) d ∧ clock (core (tickFront s i)) = { d with closed := closed } := by
  have h₁ : clock (core (takeUpsets (exchange (pairDigest (traceWrite (roundEnd s)))) i.upsets)) = clock (core s) := by simp
  have h₂ := steady_wheelCount (takeUpsets (exchange (pairDigest (traceWrite (roundEnd s)))) i.upsets)
  rw [h₁] at h₂
  unfold tickFront
  dsimp only
  generalize wheelCount (takeUpsets (exchange (pairDigest (traceWrite (roundEnd s)))) i.upsets) = t at h₂ ⊢
  refine ⟨clock (core t), t.wheel.closed || decide (1009 ≤ t.wheel.ris), h₂, ?_⟩
  simp only [core_timersTick, core_arrayTick, core_tickArm, core_netTick, core_passTime]
  rfl

theorem clock_tickNow (s : State) (i : TickIn) :
    clock (core (tickNow s i)) = clock (core (tickFront (if s.wheel.seamDue then seamNow s else s) i)) := by
  unfold tickNow
  dsimp only
  generalize tickFront (if s.wheel.seamDue then seamNow s else s) i = t
  simp

/-- Before a tick a seam that is still due is worked off, which leaves the counters as they were. -/
theorem steady_lateSeam (s : State) : ∃ c, Steady c (clock (core (if s.wheel.seamDue then seamNow s else s)))
    ∧ (c = clock (core s) ∨ c = seamClock (clock (core s))) := by
  split
  · exact ⟨_, steady_seamNow s, .inr rfl⟩
  · exact ⟨_, steady_refl _, .inl rfl⟩

/-- What a tick makes of the counters: they advance, and unless a timebase awaits its tick so do accumulator and round in cycle. -/
structure Ticked (c d : Clock) : Prop where
  round : d.round = c.round + 1
  ris : d.ris = (c.ris + 1) % 1024
  seam : d.seam = if (c.ris + 1) % 1024 = 0 then c.seam + 1 else c.seam
  due : d.seamDue = true ↔ (c.ris + 1) % 1024 = 0
  base : c.newBase = none → d.acc = c.acc + BitVec.ofNat 32 (2 ^ 32 / c.w) ∧ d.ric = (c.ric + 1) % c.w ∧ d.w = c.w ∧ d.l = c.l

theorem ticked_of_steady {c d : Clock} (h : Steady (tickClock c) d) (b : Bool) : Ticked c { d with closed := b } := by
  obtain ⟨hcount, hflags, -, hsame⟩ := h
  simp only [Prod.mk.injEq, tickClock] at hcount hflags
  obtain ⟨hround, -, -, hris, hseam⟩ := hcount
  refine ⟨hround, hris, hseam, by simp [hflags], fun hnew => ?_⟩
  rw [hsame hnew]
  exact ⟨rfl, rfl, rfl, rfl⟩

theorem ticked_of_steady_left {c c' d : Clock} (h : Steady c c') (ht : Ticked c' d) : Ticked c d := by
  obtain ⟨hcount, -, -, hsame⟩ := h
  obtain ⟨hround, hris, hseam, hdue, hbase⟩ := ht
  simp only [Prod.mk.injEq] at hcount
  obtain ⟨eround, -, -, eris, eseam⟩ := hcount
  rw [eround] at hround
  rw [eris] at hris hdue
  rw [eris, eseam] at hseam
  refine ⟨hround, hris, hseam, hdue, fun hnew => ?_⟩
  have he := hsame hnew
  subst he
  exact hbase hnew

theorem ticked_tickNow (s : State) (i : TickIn) : Ticked (clock (core s)) (clock (core (tickNow s i))) := by
  obtain ⟨c, hc, hcs⟩ := steady_lateSeam s
  rw [clock_tickNow]
  obtain ⟨d, b, hd, he⟩ := steady_tickFront (if s.wheel.seamDue then seamNow s else s) i
  rw [he]
  have ht : Ticked c { d with closed := b } := ticked_of_steady_left hc (ticked_of_steady hd b)
  rcases hcs with rfl | rfl
  · exact ht
  · obtain ⟨hround, hris, hseam, hdue, hbase⟩ := ht
    exact ⟨hround, hris, hseam, hdue, hbase⟩

/-! ### The obligation -/

theorem exec_tick {s : State} (i : TickIn) (hr : domainRuns s = true) (hf : s.boot.freezing ≠ 2) (hs : s.boot.sleeping ≠ some 1) :
    exec (.tick i) s = .next (tickNow s i) := by
  simp [exec, execTick, hr, hf, hs]

theorem exec_seam {s : State} (hr : domainRuns s = true) (hd : s.wheel.seamDue = true) : exec .seam s = .next (seamNow s) := by
  simp [exec, execSeam, hr, hd]

/-- Settles O21: a tick by `ticked_tickNow`, a seam by `steady_seamNow`, the end of the preparation by its definition. -/
theorem ticksAndSeamsAdvanceTheMachine : Obligations.TicksAndSeamsAdvanceTheMachine := by
  refine ⟨fun s i hr hf hs => ?_, fun s hr => ⟨fun hd => ?_, fun h1008 => ?_⟩⟩
  · have ht := ticked_tickNow s i
    rw [exec_tick i hr hf hs]
    generalize tickNow s i = t at ht
    obtain ⟨hround, hris, hseam, hdue, hbase⟩ := ht
    exact ⟨t, rfl, hround, hris, hseam, hdue, hbase⟩
  · have ht := steady_seamNow s
    rw [exec_seam hr hd]
    generalize seamNow s = t at ht
    obtain ⟨hcount, hflags, hpend, -⟩ := ht
    obtain ⟨hdue, hclosed⟩ := Prod.mk.inj hflags
    exact ⟨t, rfl, hclosed, hdue, hcount, hpend⟩
  · simp [exec, execSeamClose, hr, h1008]

end Sys2Proof.Machine
end
